-- ==== Sys2Proof/Word.lean ====
section
/-! DEFINITION. The word types of the TRM4096: a 32-bit register or stream word (R12, R87), a byte, and the 64-bit
and 128-bit quantities the manual names. -/
namespace Sys2Proof

/-- A register, a stream word or a parameter word: 32 bits (R12, R87). -/
abbrev Word := BitVec 32
/-- One byte. -/
abbrev Byte := BitVec 8

end Sys2Proof
end

