-- ==== Sys2Proof/Syntax.lean ====
section
/-! DEFINITION. The commands of the TRM4096: one constructor of `Instr` per row of spec/opcode_table.json, and the
types of their operands. The table gives no row any bits (R1 ff.), so the operands are the quantities that the
rule named in each docstring speaks of (DESIGN CHOICE, log entry 2). -/
namespace Sys2Proof

/-- The actors of Table 1.3 with their 3-bit owner codes (R24). -/
inductive Owner where
  | h0 | h1 | h2 | h3 | hs | fab | mc | unowned
  deriving DecidableEq, Repr, Inhabited

/-- On whose behalf a register access is made (Table 17.2, R475). -/
inductive Accessor where
  | dom (o : Owner)
  | jtag
  deriving DecidableEq, Repr, Inhabited

/-- The status codes of Table 12.21 (R377). -/
inductive Status where
  | ok | okClamped | notReady | alreadyRead | pending | busy | xipLocked | protectedRange | passwordLockout
  | sectorTorn | programFail | eraseFail | splitPartial | rangeInvalid | badFrameAddress | outOfRegion | crcFail
  | authFail | keyRollFail | regionIncomplete | swapAborted | uncorrectableFrame | destMuzzled | staleGeneration
  | firewallDeny | timeout | destPoweredDown | refused | retentionLost | pmbusNack | voutMismatch
  | timebaseEstimated | testAborted | testFail | lifecycleDeny | holdupAbsent | unknownCommand | badParameter
  | notOwner | noLeash | podLost | ringBreak | internalError
  | other (code : BitVec 8)   -- a code that Table 12.21 does not list, as a design's response may carry
  deriving DecidableEq, Repr, Inhabited

/-- The packet opcodes of Table 7.3 (R201). `reserved` stands for every other code. -/
inductive PktOp where
  | rd | wrNp | wrP | mcw | rdRsp | wrRsp | mcwRsp | mgRd | mgWr | mgRsp | event | reserved
  deriving DecidableEq, Repr, Inhabited

/-- A packet: the fields of the header flit (Table 7.4, R202) and its payload bytes. -/
structure Pkt where
  op     : PktOp
  src    : Nat            -- src_id [56:48]
  gen    : Nat            -- src_gen [60:57]
  epoch  : Nat            -- [61]
  dom    : Owner          -- domain [66:64]
  dst    : Nat            -- [47:0], a NoC address
  len    : Nat            -- bytes, length_m1 + 1
  tag    : Nat
  urgent : Bool
  mask   : Nat            -- mc_mask of an MCW
  status : Status
  data   : List Byte
  rt     : Nat := 0       -- rt_port, rt_row, rt_col [104:96]
  deriving DecidableEq, Repr, Inhabited

/-- The EVENT flit (Table 9.7, R270). mode: 0 clear, 1 set, 2 pulse. `table` is the table that sent it, which the flit itself does
not carry. -/
structure EventPkt where
  src    : Nat
  gen    : Nat
  epoch  : Nat
  dom    : Owner          -- owner of the source table, FAB for a bank table
  dst    : Nat
  r      : Nat
  mode   : Nat
  term   : Nat
  origin : Nat            -- DTB of the firing cycle, in 1/16 ns
  rt     : Nat := 0       -- rt_port, rt_row, rt_col [104:96]
  table  : Nat := 0
  deriving DecidableEq, Repr, Inhabited

/-- A window 0 TLP: a read of so many dwords, or a write of dwords, each with its byte enables all set or not (R338). -/
inductive TlpOp where
  | read (n : Nat)
  | write (ws : List (Word × Bool))
  deriving DecidableEq, Repr, Inhabited

/-- A window 2 TLP (R339, R340). -/
inductive TlpOp2 where
  | read (tag len : Nat)
  | write (data : List Byte)
  deriving DecidableEq, Repr, Inhabited

/-- What a frame reload meets at the store and the band port (R184): the status of reading the segment, and whether the
read-back matches what was written. -/
structure ReloadRead where
  readStatus : Status
  readback   : Bool
  deriving DecidableEq, Repr, Inhabited

/-- The outcome of a NoC access that a hardened block made: its status and, of a read, its data. -/
structure DmaResult where
  status : Status
  data   : List Byte
  deriving DecidableEq, Repr, Inhabited

/-- What one part of an NV operation meets: the status and data of its buffer access, and how the cells answered
(R393, R404): the first and the second verification, and the words that differ at the margin level. -/
structure PartInput where
  status   : Status
  data     : List Byte
  verify1  : Bool
  verify2  : Bool
  differs  : Nat
  deriving DecidableEq, Repr, Inhabited

/-- A voter's answer (R415, Table 14.4). -/
inductive Vote where
  | accept
  | delay
  | refuse (reason : Nat)
  deriving DecidableEq, Repr, Inhabited

/-- One regulator's readings of a poll (R434). -/
structure RailRead where
  rail   : Nat
  iout   : Nat
  temp   : Int
  pecBad : Bool              -- the PEC that came with a reading was wrong
  deriving DecidableEq, Repr, Inhabited

/-- How a self-test ended by itself (R449): fault detail (Table 15.4), MISR value. -/
structure SliceResult where
  detail     : Nat
  spareFault : Bool          -- BRAM_MARCH: the copied word did not verify in the spare (R443)
  patterns   : Nat           -- applied patterns
  misr       : BitVec 64     -- MISR before the closing words
  deriving DecidableEq, Repr, Inhabited

/-- A boundary-scan data scan (R472): what is shifted in and what the pins show at Capture-DR. -/
structure BscanDr where
  shiftIn : BitVec 3300
  pins    : BitVec 3300
  deriving DecidableEq, Repr

/-- A PCIe configuration request (R337, R342, R343). -/
inductive CfgReq where
  | setBar (n v : Nat)
  | setBusMaster (on : Bool)
  | setMsixEnable (on : Bool)
  | setD3hot (on : Bool)
  | readId
  deriving DecidableEq, Repr, Inhabited

/-- The inputs of one logic tile from routing, as they stand at a clock edge (R42–R46). -/
structure TileEdge where
  tile   : Nat := 0                  -- (band × 559 + column) × 64 + row
  x      : List (BitVec 6) := []     -- x5..x0 of cells 0..7
  direct : BitVec 16 := 0            -- own direct inputs of the flip-flops
  en     : BitVec 4 := 0
  sr     : BitVec 2 := 0
  cin    : Bool := false             -- the carry-in from routing
  deriving DecidableEq, Repr, Inhabited

/-- The inputs of one block RAM port as they stand at a clock edge (Table 2.2, R49). -/
structure RamEdge where
  block   : Nat := 0         -- 128u + 8b + k
  portB   : Bool := false
  en      : Bool := false
  we      : BitVec 8 := 0
  addr    : Nat := 0
  din     : BitVec 72 := 0
  oregCe  : Bool := false
  oregRst : Bool := false
  near    : Nat := 0         -- 0, or the other port, on an unrelated clock, writes the same word within 0.8 ns
                             -- of this edge: 1 after it, 2 before it (R51)
  deriving DecidableEq, Repr, Inhabited

/-- The inputs of one DSP block from routing, as they stand at a clock edge (Table 2.3). -/
structure DspEdge where
  dsp    : Nat := 0          -- 256d + 16b + k
  mx     : BitVec 27 := 0
  my     : BitVec 27 := 0
  pz     : BitVec 27 := 0
  ad     : BitVec 64 := 0
  accSel : Nat := 0
  mxSel  : Bool := false
  preEn  : Bool := false
  preNeg : Bool := false
  neg    : Bool := false
  ce     : BitVec 5 := 0
  rst    : Bool := false
  deriving DecidableEq, Repr, Inhabited

/-- An edge of one clock net, and the inputs from routing that have changed since the last edge of any net (R44, R50).
`net` is 0–63 for a global net and 64 + 24b + n for regional net n of band b (R62). -/
structure ClockEdge where
  net    : Nat
  rising : Bool
  tiles  : List TileEdge
  rams   : List RamEdge
  dsps   : List DspEdge
  deriving DecidableEq, Repr, Inhabited

/-- The commands: the rows of the table of operations and events. -/
inductive Instr where
  /-- SUPPLY_LOSS (R114). A monitored supply falls below its threshold and the device returns to power-on reset. -/
  | supplyLoss
  /-- BOOT_START (R112). At t0 boot starts: MC boot, life-cycle read, slot selection, then the instant-on load. -/
  | bootStart (cfgMode : Nat) (romOk : Bool) (vccioMv : List Nat)
  /-- WARM_RESET (R37). RESET_N held low long enough after the ACLK filter causes a warm reset and a reload from MC boot onward. -/
  | warmReset (lowNs : Nat)
  /-- TAP_RESET (R34). TRST_N low resets the TAP controller only. -/
  | tapReset
  /-- STREAM_SYNC (R87). The two-word sync pattern is seen and the controller starts parsing records. -/
  | streamSync (ld : Nat) (ignored : List Word)
  /-- MANIFEST_VERIFY (R103). A complete manifest is verified in order: format, chunk count, key selector, owner, key, key hash, signature. -/
  | manifestVerify (ld : Nat) (bytes : List Byte)
  /-- NOP (R88). A NOP record is skipped. -/
  | nop (ld : Nat) (hdr : Word)
  /-- FAR (R90). A FAR record sets the current frame address after validity checks. -/
  | far (ld : Nat) (arg : Nat) (w : Word)
  /-- FDATA (R85). An FDATA record writes each frame after CRC, address and window checks and sets its golden signature. -/
  | fdata (ld : Nat) (arg : Nat) (body : List Word)
  /-- SETREG (R106). A SETREG record writes a configuration register with field-by-field abort and clamp checks. -/
  | setreg (ld : Nat) (arg : Nat) (w : Word)
  /-- ROLL (R99). A ROLL record supplies the roll nonce and derives the key of the next segment. -/
  | roll (ld : Nat) (arg : Nat) (body : List Word)
  /-- CHUNK (R95). A CHUNK record opens a chunk, checks index, counts and IV base and derives the chunk key. -/
  | chunk (ld : Nat) (arg : Nat) (body : List Word)
  /-- TAG (R100). A TAG record ends a segment and its GCM tag is checked, chaining to the manifest entry for the final segment. -/
  | tag (ld : Nat) (arg : Nat) (body : List Word)
  /-- CHECK (R92). The CHECK record's whole-stream CRC is compared with the computed value and the manifest. -/
  | check (ld : Nat) (arg : Nat) (w : Word)
  /-- STARTUP (R93). A STARTUP record writes STARTUP_PHASES with SETREG clamps. -/
  | startup (ld : Nat) (arg : Nat)
  /-- REGION (R141). A REGION record declares or confirms a soft region window. -/
  | region (ld : Nat) (arg : Nat) (body : List Word)
  /-- SIGS (R91). A SIGS record copies unchanged active frames into the shadow plane after signature and CRC checks. -/
  | sigs (ld : Nat) (arg : Nat) (body : List Word)
  /-- DESYNC (R111). DESYNC ends the stream; on success the load completes, frames become eligible and start-up or region release follows. -/
  | desync (ld : Nat) (arg : Nat)
  /-- STREAM_WRITE (R124). A slave serial STREAM_WRITE transaction delivers container words into the stream FIFO under flow control. -/
  | streamWrite (bytes : List Byte)
  /-- STATUS_READ (R123). A slave serial STATUS_READ transaction returns the status word. -/
  | statusRead
  /-- WIN_WRITE (R123). A slave serial WIN_WRITE writes words into the HS window. -/
  | winWrite (addr : Nat) (ws : List Word)
  /-- WIN_READ (R123). A slave serial WIN_READ returns words from the HS window. -/
  | winRead (addr : Nat) (n : Nat)
  /-- SPP_WORD (R125). A slave parallel word is taken at an SPP_CLK rising edge with SPP_CS_N and SPP_WAIT low. -/
  | sppWord (w : Word)
  /-- STARTUP_PHASE (R129). A start-up phase begins and fires all its events in one MCLK cycle. -/
  | startupPhase
  /-- WAIT_EVENT_COMPLETE (R130). A held wait event completes once its condition holds and start-up proceeds. -/
  | waitEventComplete
  /-- ICP_BEAT (R152). An ICP beat is transferred when icp_valid and icp_ready are high, with sop and eop handling. -/
  | icpBeat (icp : Nat) (data : BitVec 128) (sop eop : Bool) (region : Nat)
  /-- DIRECT_LOAD_WAIT (R155). The 1 µs wait after isolation of a direct load ends and frame chunks are written to the active plane. -/
  | directLoadWait (ld : Nat)
  /-- PREPARE_SWAP (R159). Command checks every member and enters VERIFYING, or records group-15 consent. -/
  | prepareSwap (d : Nat)
  /-- VERIFY_DONE (R160). Verification of every shadow-set frame ends and the target becomes READY or returns to IDLE. -/
  | verifyDone (target : Nat)
  /-- COMMIT_SWAP (R162). Command arms a READY target with swap time T and mode. -/
  | commitSwap (d : Nat)
  /-- SWAP_DECISION (R163). At T' the controller decides once for the target whether the swap proceeds. -/
  | swapDecision (target : Nat) (alive : List Nat)
  /-- SWITCHING_EDGE (R164). At a member's E0 the active-plane bits of its shadow set flip and its latches hold. -/
  | switchingEdge (target region : Nat)
  /-- SWAP_CYCLE_END (R164). At a member's E1 its latches become transparent; the commit completes when the last member reaches E1. -/
  | swapCycleEnd (target region : Nat)
  /-- COMMIT_TIMEOUT (R169). 1 ms after T' with a member short of E1 the commit completes with TIMEOUT. -/
  | commitTimeout (target : Nat)
  /-- ABORT_SWAP (R167). Command ends a VERIFYING, READY or ARMED target, or discards a group-15 image. -/
  | abortSwap (d : Nat)
  /-- SCRUB_PASS_START (R179). A band's scrub pass begins at the period boundary, or at once after an overrun. -/
  | scrubPassStart (band : Nat) (path1 path2 : Bool)
  /-- FRAME_CHECK (R182). A scrub read of one frame completes and is decoded and compared with its golden signature. `upsets` are the
  configuration cells that have flipped since the last one: frame key, physical plane B, cell (word j from 137j on). `tmr` counts the
  voted disagreements since then (R187); `path1` and `path2` say whether the band's read path delivers a canary read and its re-read. -/
  | frameCheck (band : Nat) (upsets : List (Nat × Bool × Nat)) (tmr : Nat) (path1 path2 : Bool)
  /-- FRAME_RELOAD (R184). A scrub reload of a frame from its stored source completes with write and read-back. -/
  | frameReload (far : Nat) (plane : Bool) (r : ReloadRead) (path1 path2 : Bool)
  /-- MICROCODE_PARITY_ERROR (R187). A parity error in the scrubber microcode halts every scrub engine. -/
  | microcodeParityError
  /-- ACTIVE_PERIOD_DOUBLE (R186). After 24 hours without a correction or reload the active scrub period doubles. -/
  | activePeriodDouble
  /-- NI_INJECT (R204). A source NI stamps and injects a packet or rejects it as malformed. -/
  | niInject (ep : Nat) (rsp : Bool) (flits : List (BitVec 256))
  /-- RD (R209). A read request reaches its destination after firewall, muzzle and park handling. -/
  | rd (p : Pkt)
  /-- WR_NP (R209). A non-posted write reaches its destination. -/
  | wrNp (p : Pkt)
  /-- WR_P (R209). A posted write reaches its destination or is dropped. -/
  | wrP (p : Pkt)
  /-- MCW (R222). A multicast write is sent as one WR_NP per selected member. -/
  | mcw (p : Pkt)
  /-- RD_RSP (R203). A read response arrives at the requester's NI and completes its tag. -/
  | rdRsp (p : Pkt)
  /-- WR_RSP (R206). A write response arrives at the requester's NI and completes its tag. -/
  | wrRsp (p : Pkt)
  /-- MG_RD (R200). An MC management read reaches a hard endpoint. -/
  | mgRd (p : Pkt)
  /-- MG_WR (R200). An MC management write reaches a hard endpoint. -/
  | mgWr (p : Pkt)
  /-- MG_RSP (R200). A management response returns to the MC. -/
  | mgRsp (p : Pkt)
  /-- NOC_TIMEOUT (R212). A non-posted request times out; the requester gets TIMEOUT and the destination may be muzzled. -/
  | nocTimeout (ep tag : Nat)
  /-- EJECTION_STALL (R214). An endpoint returning no credit for 100 µs while a flit waits is muzzled with cause 2. -/
  | ejectionStall (ep : Nat)
  /-- ROUTE_DRAIN_DONE (R221). The old-epoch flit count reaches 0 everywhere and the old route table is released. -/
  | routeDrainDone
  /-- ROUTE_UPDATE_TIMEOUT (R221). Old-epoch flits remain 10 ms after the switch and NOC_ROUTE_UPDATE completes with TIMEOUT. -/
  | routeUpdateTimeout
  /-- RTR_CLEAR (R228). A write of 1 to NOC.RTR_CLEAR clears RTR_VC0 of the selected router. -/
  | rtrClear (acc : Accessor) (v : Word)
  /-- ACCEPTED_EDGE (R239). A filtered input level is accepted, raising RISE or FALL and updating fp_in and the bank table. -/
  | acceptedEdge (port : Nat) (level : Bool) (word : BitVec 8)
  /-- TS_LO_READ (R241). A read of FPE.TS_LO pops the oldest timestamp for the reading accessor. -/
  | tsLoRead (acc : Accessor)
  /-- SCHED_PUSH (R244). A push through FPE.SCHED_CMD appends a schedule entry or posts a refusal status. -/
  | schedPush (acc : Accessor) (v : Word)
  /-- SCHED_FLUSH (R244). A flush through FPE.SCHED_CMD discards every queued schedule entry. -/
  | schedFlush (acc : Accessor) (v : Word)
  /-- SCHEDULE_APPLY (R245). The head schedule entry is applied at its time T, or late at the next PCLK cycle. -/
  | scheduleApply (port : Nat)
  /-- MODE_CHANGE (R237). A PORT_CFG write changes the port mode, flushing queues and ending reflex levels. -/
  | modeChange (acc : Accessor) (v : Word)
  /-- LEVEL_WRITE (R242). A write of FPE.OUT_CTRL level applies the output level at once as the mode source. -/
  | levelWrite (acc : Accessor) (v : Word)
  /-- SAFE_CLEAR (R243). Writing safe_clear clears the forced-safe latch so the mode source resumes. -/
  | safeClear (acc : Accessor) (v : Word)
  /-- PWM_EDGE (R246). The PWM generator places its next rising or falling edge. -/
  | pwmEdge (port : Nat)
  /-- QUAD_TRANSITION (R247). A quadrature input change updates the count or raises PAIR_ERR. -/
  | quadTransition (port : Nat)
  /-- PAIR_DATA_WRITE (R249). A PAIR_DATA write presets the QUAD count or queues a UART byte. -/
  | pairDataWrite (acc : Accessor) (v : Word)
  /-- PAIR_DATA_READ (R249). A PAIR_DATA read in UART mode pops a received byte with flags. -/
  | pairDataRead (acc : Accessor)
  /-- ENCODER_FRAME (R248). An encoder frame starts at START or the repetition period, or is skipped as LATE. -/
  | encoderFrame (port : Nat)
  /-- ENCODER_FRAME_END (R248). An encoder frame ends and its monoflop check decides PAIR or PAIR_ERR. -/
  | encoderFrameEnd (port : Nat)
  /-- UART_RX_BYTE (R249). A UART byte is received and stored or lost to a full FIFO. -/
  | uartRxByte (port : Nat)
  /-- UART_TX_BYTE (R249). A UART byte finishes transmission and the next queued byte starts. -/
  | uartTxByte (port : Nat)
  /-- REF_LOST (R254). Loss of TB_10M_IN puts the timebase PLL in holdover. -/
  | refLost
  /-- REF_RETURN (R254). TB_10M_IN returns and the timebase PLL relocks without a DTB jump. -/
  | refReturn
  /-- PPS_EDGE (R255). A TB_PPS_IN edge captures the DTB offset and steers the timebase. -/
  | ppsEdge
  /-- SYNC_MESSAGE (R255). An IEEE 802.1AS Sync message steers DTB rate and phase. -/
  | syncMessage (macPort : Nat) (gmNs : Nat) (rate : Int)
  /-- PPS_TIMEOUT (R255). No TB_PPS_IN edge within 1.1 s counts toward HOLDOVER. -/
  | ppsTimeout
  /-- SYNC_TIMEOUT (R255). No Sync for 3 sync intervals puts the discipline in HOLDOVER. -/
  | syncTimeout
  /-- NOW_LO_READ (R261). A read of TBS.NOW_LO latches NOW_HI and NOW_FRAC for the accessor. -/
  | nowLoRead (acc : Accessor)
  /-- PPS_OUT_PULSE (R259). TB_PPS_OUT rises when the DTB reads a whole second. -/
  | ppsOutPulse
  /-- PPS_PULSE_END (R259). TB_PPS_OUT falls 100 µs after its rise. -/
  | ppsPulseEnd
  /-- PLL_APPLY (R71). Writing CLK.PLL_APPLY applies staged settings and restarts the selected PLL. -/
  | pllApply (acc : Accessor) (v : Word)
  /-- PLL_LOCK (R70). A PLL achieves or regains lock and its outputs run. -/
  | pllLock (pll : Nat)
  /-- LOSS_OF_LOCK (R70). A running PLL loses lock; status, sticky bit, count and interrupt update. -/
  | lossOfLock (pll : Nat) (refGone : Bool)
  /-- FCOUNT_START (R71). Setting CLK.FCOUNT_CTRL bit 31 starts the frequency counter on a PLL output. -/
  | fcountStart (acc : Accessor) (v : Word)
  /-- FCOUNT_DONE (R71). The 1 ms frequency-counter gate ends and the result is posted. -/
  | fcountDone (khz : Nat)
  /-- SMN_RESULT (R73). An averaged monitor result is stored and checked against alarm windows and thermal levels. -/
  | smnResult (ch code : Nat)
  /-- TEMP_SAMPLE (R72). The 16 band temperature sensors are sampled every 100 µs. -/
  | tempSample (codes : List Nat)
  /-- MINMAX_CLEAR (R74). Writing SMN.MINMAX_CLEAR resets CH_MIN and CH_MAX of every channel. -/
  | minmaxClear (acc : Accessor) (v : Word)
  /-- TERM_FIRE (R266). A reflex term's value rises (or falls with follow) and its actions act in order. -/
  | termFire (table : Nat) (rfxIn : BitVec 64)
  /-- FLOW_INTERVAL (R271). A flow's spacing interval ends and a held EVENT is sent. -/
  | flowInterval (src dst : Nat)
  /-- EVENT (R269). A received EVENT updates a remote signal of its destination table or is dropped. -/
  | event (e : EventPkt)
  /-- RFX_ARM (R273). A write to RFX.CTRL arms or disarms a fabric table, or is refused. -/
  | rfxArm (acc : Accessor) (v : Word)
  /-- START (R316). Ring control command START takes the pins and runs discovery, assignment and configuration. -/
  | start (dom : Owner) (ring : Nat)
  /-- STOP (R321). Ring control command STOP sends SAFE to all pods and stops the ring. -/
  | stop (dom : Owner) (ring : Nat)
  /-- ASSIGN (R317). Ring control command ASSIGN gives a station to a pod or re-admits it. -/
  | assign (dom : Owner) (ring : Nat)
  /-- SAFE (R321). Ring control command SAFE sends masked stations to SAFE. -/
  | safe (dom : Owner) (ring : Nat)
  /-- REDISCOVER (R326). Ring control command REDISCOVER sends a DISCOVER frame. -/
  | rediscover (dom : Owner) (ring : Nat)
  /-- SAFE_MASK (R325). A W1S write to SAFE_MASK adds stations to the safe mask. -/
  | safeMask (dom : Owner) (ring : Nat) (v : Word)
  /-- CYCLE_FRAME (R298). At each cycle boundary the engine builds and sends a CYCLE frame and switches the input image. -/
  | cycleFrame (ring : Nat)
  /-- CYCLE_RETURN (R301). A CYCLE frame returns and its records update stations, signals and joins. -/
  | cycleReturn (ring : Nat) (groups : List (BitVec 10))
  /-- RETURN_DEADLINE (R301). A frame not received by its return deadline is a missed frame. -/
  | returnDeadline (ring : Nat)
  /-- DISCOVER_FRAME (R294). A DISCOVER frame returns with JOIN records that set the topology. -/
  | discoverFrame (ring : Nat) (groups : List (BitVec 10))
  /-- ASSIGN_FRAME (R295). An ASSIGN frame returns. -/
  | assignFrame (ring : Nat) (groups : List (BitVec 10))
  /-- CONFIG_FRAME (R296). A CONFIG frame returns valid and completes the station's configuration. -/
  | configFrame (ring : Nat) (groups : List (BitVec 10))
  /-- DELAY_FRAME (R304). A DELAY frame returns and contributes a loop delay measurement. -/
  | delayFrame (ring : Nat) (groups : List (BitVec 10)) (loop : Nat)
  /-- SAFE_FRAME (R297). A SAFE frame returns. -/
  | safeFrame (ring : Nat) (groups : List (BitVec 10))
  /-- RESET_FRAME (R297). A RESET frame returns. -/
  | resetFrame (ring : Nat) (groups : List (BitVec 10))
  /-- RX_SYNC (R320). RX sync is acquired and a starting or broken ring continues or recovers. -/
  | rxSync (ring : Nat) (groups : List (BitVec 10))
  /-- RING_BREAK (R320). Loss of RX sync stops frames and puts the ring in BROKEN. -/
  | ringBreak (ring : Nat) (groups : List (BitVec 10))
  /-- START_SYNC_TIMEOUT (R316). No RX sync within 10 ms of START completes it with RING_BREAK. -/
  | startSyncTimeout (ring : Nat)
  /-- STOP_TIMEOUT (R321). The STOP wait ends at the SAFE frame's return or after 1 ms and TX goes static. -/
  | stopTimeout (ring : Nat)
  /-- PERST_DEASSERT (R337). PCIE_PERST_N deassertion allows the endpoint to begin link training. -/
  | perstDeassert (p : Nat)
  /-- LINK_UP (R345). A PCIe link comes up and the cause-4 muzzle clears. -/
  | linkUp (p gen width : Nat)
  /-- HOST_LOSS (R344). PERST_N, hot reset, FLR or link loss applies the host's loss policy. -/
  | hostLoss (p cause : Nat)
  /-- WINDOW0_TLP (R338). A window 0 TLP is handled one dword at a time under the R29 filter. -/
  | window0Tlp (p addr : Nat) (t : TlpOp)
  /-- WINDOW2_TLP (R340). A window 2 TLP is translated and cut into NoC requests at 256-byte boundaries. -/
  | window2Tlp (p off : Nat) (t : TlpOp2)
  /-- XLT_CTRL (R339). A write to PCI.XLT_CTRL applies staged base and target or is refused. -/
  | xltCtrl (acc : Accessor) (v : Word)
  /-- HOST_LOSS_RELEASE (R345). Writing PCI.HOST_LOSS.release releases SAFE decoupling of the host's regions. -/
  | hostLossRelease (acc : Accessor) (v : Word)
  /-- HOST_COMPLETION (R342). A host completion answers an outbound read. -/
  | hostCompletion (p tag : Nat) (ok : Bool) (data : List Byte)
  /-- OUTBOUND_TIMEOUT (R342). An outbound request expires its 50 ms completion timeout. -/
  | outboundTimeout (p tag : Nat)
  /-- RX_FRAME (R347). A received Ethernet frame is filtered, timestamped and written to the receive ring. -/
  | rxFrame (port : Nat) (bytes : List Byte) (fcsOk : Bool) (tsNs : Nat) (dma : DmaResult)
  /-- TAIL_WRITE (R348). A TXQ or RXQ TAIL write hands descriptors to the block or is rejected. -/
  | tailWrite (acc : Accessor) (tx : Bool) (v : Word)
  /-- TX_FRAME (R348). A transmit descriptor's frame is sent and written back. -/
  | txFrame (port : Nat) (dma : DmaResult) (tsNs frags : Nat)
  /-- PORT_ENABLE (R348). Enabling a MAC port resets HEAD and TAIL and restarts its queues. -/
  | portEnable (acc : Accessor) (v : Word)
  /-- GCL_COMMIT (R351). Writing GCL_CTRL commit stages the administrative gate list. -/
  | gclCommit (acc : Accessor) (v : Word)
  /-- GCL_SWITCH (R351). A committed gate list becomes operational at its switch time. -/
  | gclSwitch (port : Nat)
  /-- GATE_INTERVAL (R351). A gate-list interval ends and the next entry's gate states apply. -/
  | gateInterval (port : Nat)
  /-- PREEMPT_VERIFY (R352). IEEE 802.3br verification succeeds and preemption becomes active. -/
  | preemptVerify (port : Nat)
  /-- RX_SLIP (R334). An xcv_rx_slip pulse shifts a raw lane's word boundary. -/
  | rxSlip (lane : Nat)
  /-- XCV_LOSS_OF_LOCK (R353). A quad PLL loses lock and sets its LOL_STICKY bit in every copy. -/
  | xcvLossOfLock (quad : Nat) (refGone : Bool)
  /-- DOORBELL (R357). A CMD_TAIL write submits commands or is ignored with db_error. -/
  | doorbell (acc : Accessor) (d : Nat) (v : Word)
  /-- CPL_HEAD_WRITE (R357). A CPL_HEAD write frees completion slots, letting held completions post. -/
  | cplHeadWrite (acc : Accessor) (d : Nat) (v : Word)
  /-- RING_RESET (R379). Writing HMB.CTRL.ring_reset zeroes the mailbox indices if no command runs. -/
  | ringReset (acc : Accessor) (d : Nat) (v : Word)
  /-- MC_RESTART (R355). A lockstep mismatch or uncorrectable SRAM error restarts the MC firmware. -/
  | mcRestart
  /-- MC_RESTART_DONE (R355). The MC restart ends and command service resumes. -/
  | mcRestartDone
  /-- AVS_PERIOD (R375). Each 10 ms the adaptive voltage loop adjusts VCCINT from timing margin. -/
  | avsPeriod (margins : List Int)
  /-- MARGIN_REPORT (R376). Hourly report of insufficient margin at 850 mV. -/
  | marginReport
  /-- IDLE_BAND_CHECK (R375). Each 1 ms the idle-band loop requests NAP for idle eligible bands. -/
  | idleBandCheck
  /-- IDENTIFY (R365). Command returns IDCODE, firmware release, life-cycle code, owner codes and serial. -/
  | identify (d : Nat)
  /-- GET_STATUS (R365). Command returns the device status words of Table 12.11. -/
  | getStatus (d corrected : Nat)
  /-- GET_REPORT (R371). Command copies a report's header and entries into the buffer. -/
  | getReport (d : Nat)
  /-- SET_POLICY (R374). Command checks and applies policy parameter pairs. -/
  | setPolicy (d : Nat)
  /-- GET_POLICY (R374). Command returns a policy parameter's applied, in-force and default values. -/
  | getPolicy (d : Nat)
  /-- RESET_DOMAIN (R35). Command performs the domain reset on the issuer's resources. -/
  | resetDomain (d : Nat)
  /-- CLAIM_REGION (R26). Command makes an UNOWNED region the issuer's. -/
  | claimRegion (d : Nat)
  /-- RELEASE_REGION (R26). Command makes an owned region UNOWNED. -/
  | releaseRegion (d : Nat)
  /-- SET_FIREWALL (R210). Command sets one of the issuer's firewall windows. -/
  | setFirewall (d : Nat)
  /-- SET_HOST_LOSS_POLICY (R344). Command sets the issuer's host-loss policy. -/
  | setHostLossPolicy (d : Nat)
  /-- LOAD_IMAGE (R366). Command loads a full image initially or into the shadow plane. -/
  | loadImage (d : Nat)
  /-- LOAD_PARTIAL (R146). Command loads a partial image into a region from the NoC or library. -/
  | loadPartial (d : Nat)
  /-- READBACK_REGION (R370). Command reads a region's configuration frames to a NoC destination. -/
  | readbackRegion (d : Nat)
  /-- STORE_IMAGE (R368). Command checks, writes and re-reads a full image into the non-active slot. -/
  | storeImage (d : Nat) (container : List Byte)
  /-- SELECT_IMAGE (R119). Command verifies a slot and rewrites one slot-selector copy. -/
  | selectImage (d : Nat)
  /-- STORE_PARTIAL (R367). Command stores a partial image in library units. -/
  | storePartial (d : Nat) (container : List Byte)
  /-- WRAP_KEY (R369). Command provisions a partial-image key from a signed wrapped blob. -/
  | wrapKey (d : Nat)
  /-- NV_PROTECT (R398). Command replaces the span and attributes of an NV protection range. -/
  | nvProtect (d : Nat)
  /-- NV_UNLOCK (R398). Command checks a password and opens a session on a range. -/
  | nvUnlock (d : Nat)
  /-- NV_SET_PASSWORD (R398). Command replaces a range's password. -/
  | nvSetPassword (d : Nat)
  /-- NV_REFRESH_SCAN (R408). Command scans and refreshes NV sectors. -/
  | nvRefreshScan (d : Nat)
  /-- NV_GRANT_URGENT (R401). Command grants or revokes urgent rights of a queue. -/
  | nvGrantUrgent (d : Nat)
  /-- NOC_MUZZLE (R215). Command muzzles an owned endpoint with cause 3. -/
  | nocMuzzle (d : Nat)
  /-- NOC_REHABILITATE (R216). Command returns a muzzled or retired endpoint to LIVE. -/
  | nocRehabilitate (d : Nat)
  /-- NOC_REMAP (R217). Command remaps a dead endpoint ID onto a spare. -/
  | nocRemap (d : Nat)
  /-- NOC_ROUTE_UPDATE (R220). Command writes new route tables and switches the epoch. -/
  | nocRouteUpdate (d : Nat)
  /-- UAN_START_RING (R326). Command writes the ring control block and runs START. -/
  | uanStartRing (d : Nat)
  /-- UAN_STOP_RING (R326). Command runs STOP on a ring. -/
  | uanStopRing (d : Nat)
  /-- UAN_GET_TOPOLOGY (R326). Command returns the ring topology, optionally after REDISCOVER. -/
  | uanGetTopology (d : Nat)
  /-- UAN_ASSIGN (R326). Command runs ASSIGN on a ring. -/
  | uanAssign (d : Nat)
  /-- UAN_SAFE (R326). Command runs SAFE on masked stations. -/
  | uanSafe (d : Nat)
  /-- PWR_REQUEST_STATE (R414). Command requests a band or device power state and starts the entry handshake or exit. -/
  | pwrRequestState (d : Nat)
  /-- PWR_SET_SENTRY (R431). Command sets the power configuration record and rail map. -/
  | pwrSetSentry (d : Nat)
  /-- PWR_GET_ACCOUNTING (R365). Command returns the power accounting record. -/
  | pwrGetAccounting (d : Nat)
  /-- TIME_SET (R257). Command sets the DTB at once or at the next TB_PPS_IN edge. -/
  | timeSet (d : Nat)
  /-- TIME_DISCIPLINE (R255). Command changes the timebase discipline source. -/
  | timeDiscipline (d : Nat)
  /-- BIST_SCHEDULE (R445). Command writes a self-test schedule entry. -/
  | bistSchedule (d : Nat)
  /-- BIST_RUN (R447). Command starts one self-test slice when permitted. -/
  | bistRun (d : Nat)
  /-- BIST_RUN_TIMEOUT (R447). A BIST_RUN not started within 100 ms completes with REFUSED. -/
  | bistRunTimeout (d tag : Nat)
  /-- BIST_GET_RESULT (R450). Command returns a self-test result record with per-domain read semantics. -/
  | bistGetResult (d : Nat)
  /-- LC_TRANSITION (R460). Command checks an authorisation and programs life-cycle OTP. -/
  | lcTransition (d : Nat)
  /-- DBG_CHALLENGE (R466). Command issues a 128-bit nonce for a leash scope. -/
  | dbgChallenge (d : Nat)
  /-- DBG_GRANT (R468). Command verifies and stores a signed leash grant. -/
  | dbgGrant (d : Nat)
  /-- DBG_REVOKE (R469). Command ends a grant in force. -/
  | dbgRevoke (d : Nat)
  /-- Q_TAIL_WRITE (R388). A Q_TAIL write submits NV descriptors or is ignored with idx_error. -/
  | qTailWrite (acc : Accessor) (v : Word)
  /-- CQ_HEAD_WRITE (R388). A CQ_HEAD write frees NV completion slots or is ignored. -/
  | cqHeadWrite (acc : Accessor) (v : Word)
  /-- QUEUE_ENABLE (R395). A Q_CTRL.enable 0-to-1 write resets the queue indices and restarts it. -/
  | queueEnable (acc : Accessor) (v : Word)
  /-- DESCRIPTOR_START (R391). NVC starts a descriptor by weighted round-robin after fetching and checking it. -/
  | descriptorStart (q : Nat) (fetch : DmaResult)
  /-- READ (R393). NV READ descriptor writes data to the buffer. -/
  | read (q tag part : Nat) (r : PartInput)
  /-- PROGRAM (R393). NV PROGRAM descriptor programs pages from the buffer. -/
  | program (q tag part : Nat) (r : PartInput)
  /-- ERASE (R393). NV ERASE descriptor erases physical sectors with journal marks. -/
  | erase (q tag part : Nat) (r : PartInput)
  /-- VERIFY (R393). NV VERIFY descriptor computes and compares a CRC-32C. -/
  | verify (q tag part : Nat) (r : PartInput)
  /-- BLANK_CHECK (R393). NV BLANK_CHECK descriptor checks every byte for 0xFF. -/
  | blankCheck (q tag part : Nat) (r : PartInput)
  /-- MARGIN_READ (R393). NV MARGIN_READ descriptor counts words differing at a margin level. -/
  | marginRead (q tag part : Nat) (r : PartInput)
  /-- COPY (R393). NV COPY descriptor reads a source and programs a destination. -/
  | copy (q tag part : Nat) (r : PartInput)
  /-- XIP_DECLARE (R402). NV XIP_DECLARE descriptor declares execute-in-place banks. -/
  | xipDeclare (q tag : Nat)
  /-- XIP_RELEASE (R402). NV XIP_RELEASE descriptor removes a declaration. -/
  | xipRelease (q tag : Nat)
  /-- PART_DONE (R394). A descriptor part completes; after the last, the completion is written. -/
  | partDone (q tag : Nat) (wr : Status)
  /-- DIRECT_READ (R399). A NoC RD to the NVC logical space reads one page, or returns BUSY or SECTOR_TORN patterns. -/
  | directRead (p : Pkt)
  /-- GAP_MOVE (R403). After 32 erases in a bank the rotation gap moves by a copy. -/
  | gapMove (bank : Nat)
  /-- GAP_COPY_DONE (R403). A gap or refresh copy verifies, the wear state is written and the old sector is erased in the background. -/
  | gapCopyDone (bank : Nat)
  /-- GAP_ERASE_DONE (R403). The background erase of a gap sector completes. -/
  | gapEraseDone (bank : Nat)
  /-- TORN_SCAN_DONE (R406). The torn-sector scan ends, lists TORN sectors and acts by partition. -/
  | tornScanDone
  /-- NV_REFRESH_STEP (R408). Loop 3 margin-reads the next sector and rewrites it if below threshold. -/
  | nvRefreshStep (bank sector : Nat) (differs : Bool)
  /-- VOTE_ANSWER (R415). A voter answers an entry request; refusal ends it, full acceptance carries out the entry. -/
  | voteAnswer (band voter : Nat) (v : Vote)
  /-- VOTE_TIMEOUT (R415). A voter still undecided 1 ms after the request refuses. -/
  | voteTimeout (band : Nat)
  /-- USER_SAMPLE (R417). PWR samples the stay-awake port 2 µs after notice and every 1 µs while delayed. -/
  | userSample (band : Nat) (stay wait : Bool)
  /-- BAND_WAKE (R420). A wake event starts a band's exit from DOZE, NAP or OFF. -/
  | bandWake (band : Nat)
  /-- BAND_POWER_GOOD (R420). Band power is good and the kennel image is restored or the OFF reload starts. -/
  | bandPowerGood (band : Nat)
  /-- OFF_RELOAD_DONE (R422). The OFF reload of a band's non-blank frames completes and the band opens. -/
  | offReloadDone (band : Nat) (r : Status) (bad : Nat)
  /-- WAKE_EVENT (R432). An enabled wake source starts a device wake from SENTRY or HIBERNATE. -/
  | wakeEvent (cause num : Nat) (edgeWindow : Bool)
  /-- SENTRY_SAMPLE (R431). Each Sentry period the sequencer samples inputs and monitor channels and counts mismatches. -/
  | sentrySample (bits : BitVec 128) (codes : List (Nat × Nat))
  /-- WAKE_RETRY (R485). t0 not reached 100 ms after the first wake OPERATION switches rails off and retries. -/
  | wakeRetry (rail : Nat)
  /-- RTC_FALLBACK (R433). No XCLK edge for 256 ACLK cycles makes the RTC count ACLK ÷ 122. -/
  | rtcFallback
  /-- PMBUS_POLL (R434). Every 100 ms in RUN the master reads READ_IOUT and READ_TEMPERATURE_1. -/
  | pmbusPoll (reads : List RailRead)
  /-- READ_VOUT_POLL (R435). Every 100 µs after a VOUT_COMMAND the master checks READ_VOUT. -/
  | readVoutPoll (rail mv : Nat) (pecBad : Bool)
  /-- VOUT_TIMEOUT (R435). 5 ms without READ_VOUT within ±1 % reports VOUT_MISMATCH. -/
  | voutTimeout (rail : Nat)
  /-- PMBUS_RETRY (R435). A NACKed transaction is retried after 100 µs; a second NACK reports PMBUS_NACK. -/
  | pmbusRetry (rail : Nat) (acked : Bool)
  /-- PMB_ALERT (R436). PMB_ALERT_N falling reads STATUS_WORD of every rail, posts an alarm and clears faults. -/
  | pmbAlert (words : List Nat) (pecBad : List Nat)
  /-- KENNEL_DATA (R438). An AON.KENNEL_DATA access reads or writes a kennel word and advances the address. -/
  | kennelData (acc : Accessor) (wr : Option Word)
  /-- RTC_LO_READ (R438). A read of AON.RTC_LO latches RTC_HI for the accessor. -/
  | rtcLoRead (acc : Accessor)
  /-- ENTRY_DUE (R446). A self-test schedule entry falls due and starts a slice or counts a skip. -/
  | entryDue (entry : Nat)
  /-- SLICE_END (R449). A test completes; the MISR result decides OK or TEST_FAIL and the target is restored. -/
  | sliceEnd (slot : Nat) (r : SliceResult)
  /-- SLICE_BUDGET (R439). A slice reaching its budget stops with TEST_ABORTED and restores the target. -/
  | sliceBudget (slot : Nat) (patterns : Nat) (misr : BitVec 64)
  /-- OTP_RUN_END (R461). An OTP programming run ends; a deferred warm reset then takes effect. -/
  | otpRunEnd
  /-- RETURN_ERASE_DONE (R462). The owner-partition erase of a return ends and the state words are programmed. -/
  | returnEraseDone
  /-- NONCE_EXPIRY (R466). An outstanding nonce expires 10 minutes of RTC time after issue. -/
  | nonceExpiry (h : Nat)
  /-- LEASH_EXPIRY (R469). A grant's duration elapses and the grant ends. -/
  | leashExpiry (slot : Nat)
  /-- EXTEST (R471). JTAG EXTEST drives pins from the boundary-scan register. -/
  | extest (dr : BscanDr)
  /-- SAMPLE_PRELOAD (R470). JTAG SAMPLE/PRELOAD samples and preloads the boundary-scan register. -/
  | samplePreload (dr : BscanDr)
  /-- IDCODE (R470). JTAG IDCODE shifts out 0x1409_6B3D. -/
  | idcode
  /-- HIGHZ (R471). JTAG HIGHZ places outputs in Hi-Z with bypass. -/
  | highz
  /-- CLAMP (R471). JTAG CLAMP holds outputs from the boundary register with bypass. -/
  | clamp
  /-- EXTEST_PULSE (R471). JTAG EXTEST_PULSE drives IEEE 1149.6 pulses. -/
  | extestPulse (dr : BscanDr)
  /-- EXTEST_TRAIN (R471). JTAG EXTEST_TRAIN drives IEEE 1149.6 pulse trains. -/
  | extestTrain (dr : BscanDr)
  /-- LC_STATUS (R470). JTAG LC_STATUS shifts out LCS.STATE. -/
  | lcStatus
  /-- KEY_LOAD (R458). JTAG KEY_LOAD programs device keys in TEST. -/
  | keyLoad (pkg : List Byte)
  /-- CSR_ACCESS (R470). JTAG CSR_ACCESS reads or writes a CSR under a scope-4 leash. -/
  | csrAccess (dr : BitVec 64)
  /-- FRAME_READBACK (R470). JTAG FRAME_READBACK reads a frame under a scope-2 leash. -/
  | frameReadback (far : Word)
  /-- BYPASS (R470). JTAG BYPASS, also for unlisted or denied instructions. -/
  | bypass (code : Nat)
  /-- CSR_ENDPOINT_ACCESS (R476). A NoC request to the CSR endpoint is handled word by word for its stamped accessor. -/
  | csrEndpointAccess (p : Pkt)
  /-- REGISTER_WRITE (R12). A write to a register with no behaviour of its own sets, clears or is ignored per its access type. -/
  | registerWrite (acc : Accessor) (addr : Nat) (v : Word)
  /-- ETH_LINK_CHANGE (R346). A MAC port's Ethernet link comes up after auto-negotiation and training, or goes down. -/
  | ethLinkChange (port : Nat) (up anDone fecLock : Bool)
  /-- CONFIG_REQUEST (R337). A PCIe configuration request from the host is answered, setting BARs, Bus Master Enable, MSI-X enable or D3hot. -/
  | configRequest (p : Nat) (r : CfgReq)
  /-- LANE_TRAFFIC (R444). Traffic meets a lane under test, because xcv_tx_idle falls or a signal is detected at the RX pins, and the slice aborts within 2 µs. -/
  | laneTraffic (lane : Nat)
  /-- RX_LOCK_CHANGE (R334). A raw lane's receiver clock recovery gains or loses lock and xcv_rx_lock changes. -/
  | rxLockChange (lane : Nat) (locked : Bool)
  /-- RAW_WORD_TIME (R335). A raw lane's word time sends a word, or the fill pattern when the transmit FIFO is empty, and takes a received word, which is discarded if the FIFO is full. -/
  | rawWordTime (lane : Nat) (rx : Option (BitVec 128)) (txPush : Option (BitVec 128)) (rxPop txIdle : Bool)
  /-- QUAD_PLL_LOCK (R333). A quad's reference clock becomes present, or its PLL relocks, and its lanes leave electrical idle. -/
  | quadPllLock (quad : Nat)
  /-- USER_CLOCK_EDGE (R50). A rising edge of a user clock net captures flip-flops, performs block RAM port accesses and advances DSP pipelines. -/
  | userClockEdge (e : ClockEdge)
  /-- FP_OUT_CHANGE (R242). A change of fp_out or fp_oe from the fabric is sampled by the port engine in FABRIC or RAW mode and drives the pin, ending a reflex set-level. -/
  | fpOutChange (port : Nat) (out oe : Bool) (word : BitVec 8)
  /-- STAY_AWAKE_RISE (R417). pwr_stay_awake rises after acceptance and before the point of no return, ending the entry as a USER refusal 0x0B. -/
  | stayAwakeRise (band : Nat)
  /-- RTC_TICK (R427). An RTC tick arrives, at which a device entry captures the DTB and the tick count before completing. -/
  | rtcTick
  /-- NV_REFRESH_OVERDUE (R376). A sector not margin-read within its refresh period plus 1 day sets flag 10 and is reported. -/
  | nvRefreshOverdue (bank sector : Nat)  deriving DecidableEq, Repr

end Sys2Proof
end

