-- ==== Sys2Proof/Decode.lean ====
section
/-! DEFINITION. The command that a word spells by the bits of the table of operations and events. The table gives no
row any bits: its rows are operations and events, not words (DESIGN CHOICE, log entry 2). -/
namespace Sys2Proof

/-- The command that a word of `nbits` bits spells: none, as no row has bits. -/
def decodeTableWord (_nbits _w : Nat) : Option Instr := none

end Sys2Proof
end

