-- ==== Sys2Proof/Machine/SMap.lean ====
section
/-! DEFINITION. Sparse arrays: an array of instances (ports, frames, rings, bytes of a RAM) is a list of
(index, value) pairs in one canonical form, indices strictly rising and no entry equal to what an unlisted index
reads as, so that equal arrays are equal data (DESIGN CHOICE, log entry 3). `dflt` says what an unlisted index reads as. -/
namespace Sys2Proof.Machine

/-- A sparse array. -/
abbrev SMap (α : Type) := List (Nat × α)

/-- Reads one index. -/
def SMap.get {α : Type} (dflt : Nat → α) : SMap α → Nat → α
  | [], k => dflt k
  | (k', v) :: m, k => if k = k' then v else if k < k' then dflt k else SMap.get dflt m k

/-- Removes an index, so that it reads as unlisted. -/
def SMap.del {α : Type} : SMap α → Nat → SMap α
  | [], _ => []
  | (k', v) :: m, k => if k = k' then SMap.del m k else if k < k' then (k', v) :: m else (k', v) :: SMap.del m k

/-- Lists an index with a value. -/
def SMap.put {α : Type} : SMap α → Nat → α → SMap α
  | [], k, v => [(k, v)]
  | (k', v') :: m, k, v =>
    if k = k' then (k, v) :: m
    else if k < k' then (k, v) :: (k', v') :: m
    else (k', v') :: SMap.put m k v

/-- Writes one index and keeps the canonical form. -/
def SMap.set {α : Type} [DecidableEq α] (dflt : Nat → α) (m : SMap α) (k : Nat) (v : α) : SMap α :=
  if v = dflt k then SMap.del m k else SMap.put m k v

/-- The canonical form, above a bound: indices rise strictly from `lo` on and no entry is a default. -/
def SMap.wfFrom {α : Type} [DecidableEq α] (dflt : Nat → α) : Nat → SMap α → Bool
  | _, [] => true
  | lo, (k, v) :: m => decide (lo ≤ k) && !decide (v = dflt k) && SMap.wfFrom dflt (k + 1) m

/-- The canonical form. -/
def SMap.wf {α : Type} [DecidableEq α] (dflt : Nat → α) (m : SMap α) : Bool := SMap.wfFrom dflt 0 m

/-- An array without the entries that read as unlisted, after a change of every entry. -/
def SMap.normal {α : Type} [DecidableEq α] (dflt : Nat → α) (m : SMap α) : SMap α :=
  m.filter fun e => !decide (e.2 = dflt e.1)

/-- A byte memory: the cells that differ from what an unlisted address reads as. -/
abbrev Memory := List Host.Cell

/-- What an unlisted address of a byte memory reads as. RAMs of the logic die read 0; the NV array reads 0xFF,
since erased bits read 1 (R380). -/
abbrev Memory.read (unlisted : Byte) (m : Memory) (a : Nat) : Byte := SMap.get (fun _ => unlisted) m a

/-- Writes one byte. -/
abbrev Memory.write (unlisted : Byte) (m : Memory) (a : Nat) (b : Byte) : Memory :=
  SMap.set (fun _ => unlisted) m a b

/-- The canonical form of a byte memory. -/
abbrev Memory.wf (unlisted : Byte) (m : Memory) : Bool := SMap.wf (fun _ => unlisted) m

/-- Reads `n` bytes in ascending order. -/
def Memory.readN (unlisted : Byte) (m : Memory) (a : Nat) : Nat → List Byte
  | 0 => []
  | n + 1 => Memory.read unlisted m a :: Memory.readN unlisted m (a + 1) n

/-- Writes bytes in ascending order. -/
def Memory.writeN (unlisted : Byte) (m : Memory) (a : Nat) : List Byte → Memory
  | [] => m
  | b :: bs => Memory.writeN unlisted (Memory.write unlisted m a b) (a + 1) bs

end Sys2Proof.Machine
end

