-- ==== Sys2Proof/Design.lean ====
section
/-! DEFINITION. What the configuration frames set whose bit layout the manual does not give (the frames of R78 hold
LUT masks, port configuration, reflex tables and so on, but no table of the manual places their bits): the design
in force, as plain data. Each part of it is read from the frames of its own place (DESIGN CHOICE, log entry 4). -/
namespace Sys2Proof.Machine

/-- One LUT cell (R42): its 64-bit mask and whether it runs in split mode. -/
structure CellCfg where
  mask  : BitVec 64 := 0
  split : Bool := false
  deriving DecidableEq, Repr, Inhabited

/-- One flip-flop (R43, R44). src: 0 the LUT output (f of an even, g of an odd one), 1 the sum (even) or x5 (odd),
2 the direct input. -/
structure FfCfg where
  src   : Nat := 0
  ck1   : Bool := false
  en    : Option Nat := none
  sr    : Option Nat := none
  reset : Bool := false
  init  : Bool := false
  deriving DecidableEq, Repr, Inhabited

/-- Where the carry chain of a tile takes its carry-in: at the first tile of a chain 0, 1 or a signal from routing, else the
carry-out of the tile below (R46). -/
inductive CarrySrc where
  | zero | one | routing | below
  deriving DecidableEq, Repr, Inhabited

/-- What drives a clock net (R62): output c of a general PLL, a clock-capable field port, fabric logic. -/
inductive NetDriver where
  | none
  | pll (p c : Nat)
  | port (n : Nat)
  | fabric
  deriving DecidableEq, Repr, Inhabited

/-- One logic tile: cells 0–7, flip-flops 0–15, the nets of ck0 and ck1 and the edge that each uses, whether sr0 and sr1 are
asynchronous, and the carry-in (R42–R46). -/
structure TileCfg where
  net0   : Option Nat := none
  net1   : Option Nat := none
  carry  : CarrySrc := .zero
  cells  : List CellCfg := []
  ffs    : List FfCfg := []
  fall0  : Bool := false
  fall1  : Bool := false
  async0 : Bool := false
  async1 : Bool := false
  deriving DecidableEq, Repr, Inhabited

/-- Table 2.1. -/
inductive RamMode where
  | tdp36 | tdp72 | ecc64
  deriving DecidableEq, Repr, Inhabited

/-- The read data of a writing port (R50). -/
inductive RamWrite where
  | readFirst | writeFirst | noChange
  deriving DecidableEq, Repr, Inhabited

/-- One block RAM (R47, R50, R54). -/
structure RamCfg where
  netA     : Option Nat := none          -- the clock net of each port (R49, R62)
  netB     : Option Nat := none
  mode     : RamMode := .tdp36
  wmode    : RamWrite := .readFirst
  oregA    : Bool := false
  oregB    : Bool := false
  excluded : Bool := false
  deriving DecidableEq, Repr, Inhabited

/-- One DSP block (R56–R59, R61): signedness, wrap or saturate, which of the five stages are registered, idle. -/
structure DspCfg where
  net      : Option Nat := none          -- its clock net (R62)
  sx       : Bool := true
  sy       : Bool := true
  sz       : Bool := true
  saturate : Bool := false
  stages   : BitVec 5 := 0x1F
  idle     : Bool := false
  deriving DecidableEq, Repr, Inhabited

/-- The I/O standards of Table 8.1. -/
inductive IoStd where
  | lvcmos33 | lvcmos25 | lvcmos18 | lvcmos15 | lvcmos12 | lvds
  deriving DecidableEq, Repr, Inhabited

/-- The electrical configuration of one field port, which only a full image changes (R231, Table 8.1). -/
structure PortIo where
  std       : IoStd := .lvcmos33
  driveMa   : Nat := 4
  slow      : Bool := false
  hyst      : Bool := false
  openDrain : Bool := false
  term      : Bool := false
  deriving DecidableEq, Repr, Inhabited

/-- The image configuration of one field port (Tables 8.1, 8.7, 8.8, 8.12; R231, R236). -/
structure PortImage where
  io        : PortIo := {}
  cfg       : Word := 0
  outCtrl   : Word := 0
  pwmPeriod : Word := 0
  pwmHigh   : Word := 0
  pairCfg   : Word := 0
  deriving DecidableEq, Repr, Inhabited

/-- One reflex table as its frames hold it (R262, R263): terms of 8 words, 16 safe sets, the arm state. -/
structure TableImage where
  terms    : List (List Word) := []
  safeSets : List (BitVec 64) := []
  armed    : Bool := false
  deriving DecidableEq, Repr, Inhabited

/-- The use of a quad (R329, Table 11.16). -/
inductive QuadUse where
  | pci | eth | raw | unused
  deriving DecidableEq, Repr, Inhabited

/-- A lane as the image sets it (R334, R335). -/
structure LaneImage where
  rate          : Nat := 0
  pam4          : Bool := false
  idlePermitted : Bool := false
  deriving DecidableEq, Repr, Inhabited

/-- What the isolation cell of a sealed border drives while its region is isolated for a direct load (Table 5.1). -/
inductive Iso where
  | hold | zero | one
  deriving DecidableEq, Repr, Inhabited

/-- The design in force. Tiles are numbered (band × 559 + column) × 64 + row, block RAMs 128u + 8b + k, DSP blocks
256d + 16b + k (Table 15.1), ports 0–1,023, tables by endpoint ID, quads 0–11, ETH blocks 0–3, lanes 0–47. -/
structure Design where
  tiles   : SMap TileCfg := []
  rams    : SMap RamCfg := []
  dsps    : SMap DspCfg := []
  nets    : SMap NetDriver := []         -- nets 0–63 global, 64 + 24b + n regional net n of band b (R62)
  ports   : SMap PortImage := []
  portFrom : SMap (Option Nat) := []     -- the region that drives fp_out and fp_oe of a port, none the static design (R142)
  iso     : SMap Iso := []               -- isolation values (R144): fp_out of port n at 2n, fp_oe at 2n + 1,
                                         -- rfx_in[i] of fabric table t at 4,096 + 64t + i
  tables  : SMap TableImage := []
  quads   : SMap QuadUse := []
  ethMode : SMap Nat := []
  lanes   : SMap LaneImage := []
  ramInit : SMap (BitVec 72) := []       -- initial block RAM words, block × 2,048 + word (R53)
  deriving DecidableEq, Repr, Inhabited

end Sys2Proof.Machine
end

