-- ==== Sys2Proof/Config.lean ====
section
/-! DEFINITION. What the manual leaves to an implementation or to a published standard, and the free values: constants
without a body, so that no proof can lean on a value of them (DESIGN CHOICE, log entries 4, 5). -/
namespace Sys2Proof.Config
open Sys2Proof.Machine

/-- The device serial number, one per unit (IDENTIFY, R478). -/
opaque serial : BitVec 64
/-- The vendor public key, whose hash is in the MC ROM, for the checks that name it without carrying it (R458, R464, R468). -/
opaque vendorKey : List Byte
/-- The owner public key of a fused hash, for a signature by the fused owner key while no image runs: the manual takes the
key from the running image and says no more (R458, R462). -/
opaque fusedOwnerKey : (hash : List Byte) → List Byte
/-- The device keys that a KEY_LOAD package provisions; its format is the vendor's (R458). -/
opaque keyPackage : List Byte → Option (BitVec 256 × BitVec 256)
/-- The logic tile in row `row` of a logic column and band that the 40 frames of the intersection, by minor, configure. The layout of
configuration bits in a frame is not in the manual: what the frames of a place configure there is free (log entry 4). -/
opaque tileOf : (row : Nat) → SMap (List Word) → TileCfg
/-- Block RAM k of a RAM column and band, from the 24 configuration frames of the intersection. -/
opaque ramOf : (k : Nat) → SMap (List Word) → RamCfg
/-- The initial words of block RAM k, from the 144 content frames of the intersection (R53). -/
opaque ramWordsOf : (k : Nat) → SMap (List Word) → SMap (BitVec 72)
/-- DSP block k of a DSP column and band. -/
opaque dspOf : (k : Nat) → SMap (List Word) → DspCfg
/-- The driver of global net n, from the clock-spine frames of all bands; of regional net n of a band, from that band's. -/
opaque gnetOf : (n : Nat) → SMap (List Word) → NetDriver
opaque rnetOf : (n : Nat) → SMap (List Word) → NetDriver
/-- The field port at position i of a bank, from the frames of the bank's I/O column in its four bands. -/
opaque portOf : (i : Nat) → SMap (List Word) → PortImage
/-- The region whose logic drives fp_out and fp_oe of the port at position i of a bank, from the same frames; none where the static
design does (R142). -/
opaque portFromOf : (i : Nat) → SMap (List Word) → Option Nat
/-- The table of a bank, from the same frames (R263). -/
opaque bankTableOf : SMap (List Word) → TableImage
/-- A fabric table, from the frames of column N(c) in its band (R263). -/
opaque fabricTableOf : SMap (List Word) → TableImage
/-- The use of a quad and its four lanes, and the mode of its ETH block, from the transceiver frames of its two bands. -/
opaque quadOf : SMap (List Word) → QuadUse
opaque laneOf : (i : Nat) → SMap (List Word) → LaneImage
opaque ethModeOf : SMap (List Word) → Nat
/-- The isolation value of each signal of a sealed border, from the clock-spine frames of band 0 or 15 (R144). -/
opaque isoOf : SMap (List Word) → SMap Iso
/-- Columns of the check matrix of ECC64 (R47): the code is not given, and `secDedCols` makes any choice SEC-DED. -/
opaque ramEccColumns : List (BitVec 8)
/-- Columns of the check matrix of a configuration word (R76), of the same kind. -/
opaque cfgEccColumns : List (BitVec 9)
/-- The expected signature in BST ROM for a test and target under a configuration of the target (R449). -/
opaque bstExpected : (test target : Nat) → (config : List Nat) → BitVec 64
/-- Words that a raw lane's FIFO holds beyond one: the manual gives no depth (R335). -/
opaque laneDepth : Nat
/-- The sync interval of a MAC port in ns (R255): the manual names it and gives no value. -/
opaque syncIntervalNs : (macPort : Nat) → Nat
/-- How long the engine waits for a control frame of a ring that is not RUNNING, in ns: the manual gives a CYCLE frame's return deadline
alone (R291, R301). -/
opaque ctrlReturnNs : (ring : Nat) → Nat
/-- The accounting record that PWR_GET_ACCOUNTING returns, of the total, the six counts, the last refusal and the delays:
the manual names its content and gives no layout (R365). -/
opaque accounting : (total : Nat) → (counts : List Nat) → (last delays : Nat) → List Byte
/-- A free bit: which way an outcome falls that the manual leaves open (R37). -/
opaque freeBit : Nat → Bool
/-- A free 128-bit value: the MC's random numbers (R466), unspecified read data (R51), undefined pages (R407). -/
opaque freeBits : Nat → BitVec 128

end Sys2Proof.Config
end

