-- ==== Sys2Proof/Machine/Ecc.lean ====
section
/-! DEFINITION. Single-error-correcting, double-error-detecting codes (R47, R52, R76). The manual says SEC-DED and gives no
check matrix: the columns are free, made so that every choice is SEC-DED (DESIGN CHOICE, log entry 72). -/
namespace Sys2Proof.Machine

/-- The number of ones. -/
def ones {w : Nat} (c : BitVec w) : Nat := ((List.range w).filter fun i => c.getLsbD i).length

/-- A column that a data bit may have: an odd number of ones, at least three, so that no sum of two columns of the code is
another one. -/
def dataCol {w : Nat} (c : BitVec w) : Bool := ones c % 2 == 1 && decide (3 ≤ ones c)

/-- n distinct columns: the implementation's as far as they are legal, then the remaining legal ones. -/
def secDedCols (w n : Nat) (raw : List (BitVec w)) : List (BitVec w) :=
  ((raw ++ (List.range (2 ^ w)).map (BitVec.ofNat w)).filter dataCol).eraseDups.take n

/-- The check bits of a word: the sum of the columns of its ones. -/
def checkBits {w n : Nat} (cols : List (BitVec w)) (d : BitVec n) : BitVec w :=
  ((List.range n).filter fun i => d.getLsbD i).foldl (fun c i => c ^^^ cols.getD i 0) 0

/-- A word decoded with its check bits: the data, whether one error was corrected, whether an error cannot be. A check cell
in error has a syndrome of one one; an even number of errors has an even number of ones, which is no column. -/
def secDed {w n : Nat} (cols : List (BitVec w)) (d : BitVec n) (c : BitVec w) : BitVec n × Bool × Bool :=
  let x := checkBits cols d ^^^ c
  if x = 0 then (d, false, false)
  else if ones x = 1 then (d, true, false)
  else match (List.range n).find? fun i => cols.getD i 0 == x with
    | some i => (d ^^^ (1#n <<< i), true, false)
    | none => (d, false, true)

/-- The columns of ECC64 (R47). -/
def ramCols : List (BitVec 8) := secDedCols 8 64 Config.ramEccColumns
/-- The columns of a configuration word (R76). -/
def cfgCols : List (BitVec 9) := secDedCols 9 128 Config.cfgEccColumns

end Sys2Proof.Machine
end

