-- ==== Sys2Proof/Machine/StCfg.lean ====
section
/-! DEFINITION. The configuration side of the state: loads, frames, regions, swap targets, the scrubber, boot and
start-up, the configuration registers (chapters 03–06). -/
namespace Sys2Proof.Machine

/-- A waiting command of a mailbox (R359): its domain and tag. -/
structure CmdRef where
  d   : Nat
  tag : Nat
  deriving DecidableEq, Repr, Inhabited

/-- One clamp (Table 3.13). -/
structure Clamp where
  src : Nat
  fid : Nat
  req : Word
  app : Word
  pos : Nat
  deriving DecidableEq, Repr, Inhabited

/-- The manifest fields of Table 3.8 (R102). -/
structure Manifest where
  kind      : Nat
  len       : Nat
  chunks    : Nat
  fdata     : Nat
  sigs      : Nat
  crc       : Word
  keySel    : Nat
  nonce     : List Byte
  streamLen : Nat
  idcode    : Word
  version   : Word
  digest    : List Byte
  owner     : List Byte
  tags      : List (List Byte)
  sig       : List Byte
  deriving DecidableEq, Repr, Inhabited

/-- Where a load stands. `manifest` waits for the manifest, `stream` takes records, `wait1us` is step 3 of R155,
`drain` discards beats after an error (R154). -/
inductive LoadPhase where
  | idle | manifest | stream | wait1us | drain
  deriving DecidableEq, Repr, Inhabited

/-- The region states of Table 5.3. -/
inductive RState where
  | empty | loading | incomplete | prepared | switching | switchPending | isolated
  deriving DecidableEq, Repr, Inhabited

/-- The recorded source of a frame plane (R184). -/
inductive Source where
  | slot0 | slot1 | library (unit : Nat) | pushed | unwritten
  deriving DecidableEq, Repr, Inhabited

/-- One physical plane of a frame (R76, R86, R184, R185). An empty payload is 128 zero words (cells power up to 0, R421). The cells
are those that the write of the payload left, with its generated check bits, and `flips` names those that have been upset since: bit i of
configuration word j at 137j + i, its check cell i at 137j + 128 + i. -/
structure Plane where
  payload : List Word := []
  flips   : List Nat := []
  sig     : Word := 0x30FCEDC0
  src     : Source := .unwritten         -- no load has written the plane
  chunk   : Nat := 0
  seg     : Nat := 0
  fdFirst : Nat := 0                     -- first frame address and frame count of the FDATA record that wrote it (R184)
  fdCount : Nat := 0
  man     : List Byte := []              -- the manifest of the load that wrote it
  uncorr  : Bool := false
  pend    : Bool := false                -- a reload is pending (R183)
  word    : Nat := 0                     -- lowest word in error of the read that found it
  deriving DecidableEq, Repr, Inhabited

/-- One frame: two planes, the active-plane bit (R135), and for a content frame its blank bit (R421). A content frame
uses plane A alone. -/
structure Frame where
  a      : Plane := {}
  b      : Plane := {}
  actB   : Bool := false
  blank  : Bool := true
  deriving DecidableEq, Repr, Inhabited

/-- What a load reports as it ends (R110). -/
structure LoadRep where
  status   : Status := .ok
  errFar   : Nat := 0
  errPos   : Nat := 0
  errChunk : Nat := 0xFFFF
  deriving DecidableEq, Repr, Inhabited

/-- One load: 0–15 the ICP of band b (R151), 16 the management port (R110). -/
structure Load where
  phase     : LoadPhase := .idle
  done      : Bool := false
  used      : Bool := false              -- a load has started here since reset (R176)
  source    : Nat := 0                   -- Table 3.16 source
  nv        : Option Source := none      -- the slot or library entry that it is read from
  sup       : Bool := false              -- its words come by STREAM_WRITE or SPP_WORD
  region    : Nat := 0
  full      : Bool := false
  shadow    : Bool := false              -- the plane targeted is the shadow plane (R81)
  direct    : Bool := false
  whole     : Bool := false              -- whole-device load (R170)
  cmd       : Option CmdRef := none
  man       : Option Manifest := none
  prev      : RState := .empty           -- region state before LOADING (R148)
  port      : Bool := false              -- its words come through the FIFO: a supervisor port or an ICP
  fifo      : List Word := []            -- stream FIFO (R124) or ICP input FIFO (R153)
  buf       : List Word := []            -- words that have left the FIFO: the manifest, the sync pattern or the record at hand
  skip      : Nat := 0                   -- stream words ignored before the sync pattern (R87)
  rdG       : Nat := 0                   -- where a load from NV reads: group area and byte in it (R385), or byte of the entry
  rdX       : Nat := 0
  outX      : Nat := 0                   -- where the outer stream goes on in area 0 after chunk 0
  manBytes  : List Byte := []            -- the manifest as it was verified (R184)
  fdFirst   : Nat := 0                   -- the FDATA record in progress: first frame address, frame count (R184)
  fdCount   : Nat := 0
  bytesIn   : Nat := 0                   -- container bytes taken
  sync      : Nat := 0                   -- sync words seen, 0–2 (R87)
  pos       : Nat := 0                   -- word offset of the next word
  recPos    : Nat := 0xFFFFFFFF          -- offset of the record header processed last
  chunk     : Option Nat := none         -- chunk in progress or last
  seg       : Nat := 0
  lens      : List Nat := []             -- segment lengths of the chunk
  segLeft   : Nat := 0                   -- plaintext words left in the segment
  segOpen   : Bool := false
  tagDue    : Bool := false
  rollDue   : Bool := false
  declared  : Nat := 0
  inChunk   : Nat := 0
  inSeg     : Nat := 0
  iv        : List Byte := []
  key       : BitVec 256 := 0
  aad       : List Byte := []
  plain     : List Byte := []
  prevTag   : List Byte := []
  far       : Option Nat := none         -- current frame address after a FAR of this chunk (R90)
  farNow    : Option Nat := none         -- frame address in force, as reported; none until the first FAR (R110)
  crc       : Nat := 0xFFFFFFFF          -- running CRC of the FDATA payloads (R92)
  fdataN    : Nat := 0
  sigsN     : Nat := 0
  written   : Nat := 0
  began     : Bool := false              -- the first frame chunk has begun (R138)
  checked   : Bool := false              -- CHECK passed
  touched   : List Nat := []             -- frames written by a full image (R82)
  undo      : List (Nat × Frame) := []   -- frames as they stood before the segment in progress wrote them (Table 3.14)
  undoSh    : List Nat := []             -- shadow set at the start of that segment
  undoN     : Nat := 0                   -- frames written before it
  limit     : Option Nat := none         -- P3 of a command with source 0 (R509)
  diff      : Bool := false              -- a whole-device image differs where R171 looks
  regs      : SMap Word := []            -- registers the control chunk sets
  ten       : SMap Owner := []           -- TEN_ENTRY writes
  attrs     : SMap Word := []            -- REGION_ATTR writes, by region
  attrPos   : SMap Nat := []             -- offset of the SETREG that wrote each
  decls     : SMap (List Word) := []     -- REGION records
  declPos   : Nat := 0                   -- offset of the REGION record of a partial image
  clamps    : List Clamp := []
  plls      : SMap Word := []            -- staged PLL settings, 16p + (0 ctrl, 1 div, 2+c out c)
  pllSel    : Nat := 0
  unswap    : Bool := false
  status    : Status := .ok
  errFar    : Nat := 0
  errPos    : Nat := 0
  errChunk  : Nat := 0xFFFF
  before    : LoadRep := {}              -- the report of the load before, which the registers show while this one runs
  deriving DecidableEq, Repr, Inhabited

/-- One region (R139, R142, Tables 5.3, 5.9). -/
structure Region where
  state    : RState := .empty
  window   : List Word := []             -- rectangles of Table 3.6, soft regions only
  group    : Nat := 0
  groupEn  : Bool := false
  clock    : Nat := 0
  isolated : Bool := false               -- latches hold for a direct load; icp_decouple of a soft region
  hold     : Bool := false               -- latches hold for a swap cycle
  gsr      : Bool := false               -- local GSR asserted
  we       : Bool := true                -- local write enable
  safeDec  : Bool := false               -- decoupled by host-loss policy SAFE (R345)
  late     : Bool := false               -- kept locked after a commit TIMEOUT (R169)
  last     : Status := .ok
  shadow   : List Nat := []              -- shadow set: frame keys, ascending (R137)
  deriving DecidableEq, Repr, Inhabited

/-- The target states of Table 5.6. -/
inductive TState where
  | idle | verifying | ready | armed | switching | deviceLoaded
  deriving DecidableEq, Repr, Inhabited

/-- One swap target (R157, Table 5.10). Groups are 0–15, single region r is 256 + r. -/
structure Target where
  state    : TState := .idle
  init     : Bool := false
  unswap   : Bool := false
  status   : Status := .ok
  member   : Nat := 0xFF
  cause    : Nat := 0
  t        : Nat := 0                    -- T
  moved    : Nat := 0                    -- end of an activity that was in flight at T (R163)
  tPrime   : Nat := 0
  tEnd     : Nat := 0
  prep     : Option CmdRef := none
  comm     : Option CmdRef := none
  members  : List Nat := []
  pending  : List Nat := []              -- members short of E1
  switched : Bool := false               -- the static design has passed its E0
  issuer   : Nat := 0
  consents : List Nat := []              -- group 15 (R172)
  deriving DecidableEq, Repr, Inhabited

/-- What a whole-device load staged (R171, R173). -/
structure Staged where
  regs  : SMap Word := []
  ten   : SMap Owner := []
  wins  : SMap (List Word) := []
  attrs : SMap Word := []
  plls  : SMap Word := []
  sig   : List Byte := []
  owner : List Byte := []
  slot  : Option Source := none          -- the slot that it was read from (R121)
  deriving DecidableEq, Repr, Inhabited

/-- One band's scrub engine (Table 6.3). -/
structure ScrBand where
  reading   : Bool := false
  canary    : Bool := false              -- the canary read of the pass is still to come
  due       : Bool := false              -- a pass is due (R179)
  at_       : Nat := 0                   -- DTB ns at which the read in progress began (R163)
  wake      : Bool := false              -- wake_pending
  col       : Nat := 0
  minor     : Nat := 0
  corr      : Nat := 0
  rel       : Nat := 0
  unc       : Nat := 0
  can       : Nat := 0
  detect    : Bool := false              -- DETECT_ONLY
  began     : Nat := 0                   -- uptime at the start of the pass
  acted     : Bool := false              -- the pass recorded an event of kind 1 or 2
  ended     : Bool := false              -- the pass has ended; others may still run
  took      : Nat := 0                   -- its duration in ns
  deriving DecidableEq, Repr, Inhabited

/-- The scrubber (Table 6.2). -/
structure Scr where
  enable   : Bool := false
  cfg      : Nat := 100
  active   : Nat := 100
  passes   : Nat := 0
  lastTime : Nat := 0
  overrun  : Nat := 0
  far      : Word := 0
  info     : Word := 0x0000FF00
  halted   : Bool := false
  tmr      : Nat := 0
  newCfg   : Option Nat := none          -- a new configured period awaits the pass boundary (R186)
  bound    : Option Nat := none          -- uptime of the last period boundary (R179)
  since    : Nat := 0                    -- uptime from which 24 hours without an event of kind 1 or 2 run (R186)
  unacted  : Bool := false               -- the latest event is marked not acted on (R189)
  bands    : SMap ScrBand := []
  deriving DecidableEq, Repr, Inhabited

/-- The device phases GET_STATUS reports (Table 12.11), with power-on reset and device sleep before them. -/
inductive Phase where
  | powerReset | resetHeld | booting | waitImage | startupHeld | running | unconfigured | denied
  | sentry | hibernate
  deriving DecidableEq, Repr, Inhabited

/-- Boot and start-up (Tables 4.10, 4.11; R112–R134). -/
structure Boot where
  phase    : Phase := .powerReset
  cfgMode  : Nat := 0
  selA     : Bool := false
  selB     : Bool := false
  selSlot  : Nat := 0
  bootSlot : Option Nat := none          -- active boot slot (R121)
  tried    : Nat := 0                    -- slot of the attempt in progress
  fallback : Bool := false
  imageOk  : Bool := false
  first    : Status := .ok
  second   : Status := .ok
  suActive : Bool := false
  suDone   : Bool := false
  suPhase  : Nat := 0
  suComp   : Nat := 0                    -- bits 0–5: PLL_WAIT … DONE_ASSERT completed
  suWait   : Nat := 0
  bootTime : Nat := 0
  t0       : Nat := 0                    -- uptime at t0 or at the RESET_N rising edge
  gsr      : Bool := true
  we       : Bool := false
  released : Bool := false               -- OUTPUTS_RELEASE has fired
  done     : Bool := false               -- pin DONE
  doneAt   : Nat := 0                    -- uptime at which it rose
  cfgErr   : Bool := false               -- pin CFG_ERR_N asserted
  mcUp     : Bool := false               -- step 2 has ended
  imgActive : Bool := false              -- an image is active
  imgSig   : List Byte := []             -- manifest signature of the running full image
  imgOwner : List Byte := []             -- its owner public key
  vccio    : List Nat := []              -- measured VCCIO of the banks in mV (R233)
  cause    : Nat := 0                    -- GLB.RESET_CAUSE
  devWake  : Bool := false               -- this boot wakes the device from sleep (R428)
  suppliesOk : Bool := false
  deriving DecidableEq, Repr, Inhabited

/-- The CFG block. -/
structure Cfg where
  loads    : SMap Load := []
  frames   : SMap Frame := []            -- by frame key, (band × 1,024 + column) × 256 + minor
  held     : SMap (List Word) := []      -- payloads that the spine and periphery of a band in OFF go on with (R412)
  regions  : SMap Region := []
  targets  : SMap Target := []
  staged   : Staged := {}
  gsrStat  : Bool := false               -- GSR of the static design in a whole-device swap cycle (R164, R173)
  regs     : SMap Word := []             -- applied configuration registers; RCLK_EN of band b at 0x10000 + b
  clampN   : Nat := 0                    -- CFG.CLAMP_STATUS of the last load
  clampH   : Nat := 0
  deriving DecidableEq, Repr, Inhabited

end Sys2Proof.Machine
end

