-- ==== Sys2Proof/Machine/StField.lean ====
section
/-! DEFINITION. The field side of the state: port engines, the device timebase, reflex tables and Uanov rings
(chapters 08–10). -/
namespace Sys2Proof.Machine

/-- What a pin shows (R242): Hi-Z or a driven level. -/
inductive Pin where
  | z | low | high
  deriving DecidableEq, Repr, Inhabited

/-- One schedule entry (R244). act: 0 LEVEL_0, 1 LEVEL_1, 2 HI_Z, 3 START. -/
structure Sched where
  t       : Nat
  act     : Nat
  oneShot : Bool
  deriving DecidableEq, Repr, Inhabited

/-- One timestamp (R241). -/
structure Stamp where
  t      : Nat
  rising : Bool
  ovf    : Bool
  deriving DecidableEq, Repr, Inhabited

/-- The PWM generator or encoder repetition in progress (R246, R248). -/
structure PwmRun where
  t0      : Nat                          -- start of the period, or the instant the next frame is due
  wait    : Bool                         -- that period is still to come
  since   : Nat                          -- DTB ns from which the generator could place edges (R245)
  oneShot : Bool
  p       : Nat
  h       : Nat
  high    : Bool                         -- the next edge is the falling one
  deriving DecidableEq, Repr, Inhabited

/-- A received UART byte with its flags (Table 8.13). -/
structure UartByte where
  b       : Byte
  framing : Bool
  parity  : Bool
  overrun : Bool
  deriving DecidableEq, Repr, Inhabited

/-- One field port (Tables 8.6–8.14). -/
structure Port where
  cfg      : Word := 0                   -- PORT_CFG
  outCtrl  : Word := 0                   -- OUT_CTRL: safe_value, oe, level
  forced   : Bool := false               -- forced-safe latch (R243)
  pad      : Bool := false               -- pad level as last sampled
  fpIn     : Bool := false
  fpAt     : Nat := 0                    -- uptime at which that level was accepted (R239)
  driver   : Nat := 0                    -- Table 8.9: the mode source that drove last
  held     : Pin := .z                   -- what the pin showed when the latch was set (R243)
  headAt   : Nat := 0                    -- DTB ns at which the head entry reached the head (R245)
  pin      : Pin := .z
  mode     : Pin := .z                   -- what the mode source drives (rank 3)
  reflex   : Option Bool := none         -- set-level action in force (rank 2)
  reflexAt : Nat := 0                    -- uptime of that action
  sched    : List Sched := []
  schedSt  : Status := .ok
  late     : Nat := 0
  tLo      : Word := 0
  tHi      : Word := 0
  ts       : List Stamp := []
  ovfCnt   : Nat := 0
  ovfPend  : Bool := false
  pwmP     : Word := 0
  pwmH     : Word := 0
  run      : Option PwmRun := none
  pairCfg  : Word := 0
  errCnt   : Nat := 0
  pairData : Word := 0
  busy     : Bool := false               -- an encoder frame is running
  frameAt  : Nat := 0                    -- uptime and DTB ns of its first clock edge (R240, R248)
  frameNs  : Nat := 0
  line     : List (Nat × Bool) := []     -- changes of the odd port's filtered level since a frame or byte began, by uptime
  rxAt     : Option Nat := none          -- uptime of the start edge of the byte being received (R249)
  txAt     : Option Nat := none          -- uptime at which the byte at the head of `tx` began to be sent
  quadA    : Bool := false
  quadB    : Bool := false
  tx       : List Byte := []
  rx       : List UartByte := []
  rxOvr    : Bool := false
  int      : Word := 0                   -- INT_STATUS
  fout     : Bool := false               -- fp_out and fp_oe as the engine sees them
  foe      : Bool := false
  rout     : Bool := false               -- as the region drives them, before its boundary latches (R142)
  roe      : Bool := false
  ser      : BitVec 8 := 0               -- last word to the serialiser of a RAW LVDS pair (R232)
  des      : BitVec 8 := 0               -- last word from its deserialiser
  deriving DecidableEq, Repr, Inhabited

/-- The discipline states of Table 8.18. -/
inductive Disc where
  | free | acquiring | locked | holdover
  deriving DecidableEq, Repr, Inhabited

/-- The timebase (Tables 8.15–8.18). `dtb` is the 108-bit count of R252, in units of 2^-44 ns. -/
structure Tbs where
  dtb      : Nat := 0
  run      : Bool := false
  state    : Disc := .free
  est      : Bool := false
  aclkEst  : Bool := false
  ref      : Bool := false
  pps      : Bool := false
  source   : Nat := 0
  macPort  : Nat := 0
  good     : Nat := 0
  offset   : Int := 0
  rate     : Int := 0                    -- RATE_ADJ, 2^-40 ns per ns
  steps    : Nat := 0
  lastStep : Int := 0
  missed   : Nat := 0
  accepted : Nat := 0
  missRun  : Nat := 0
  setPend  : Option Nat := none          -- TIME_SET value for the next TB_PPS_IN edge (R257)
  setCmd   : Option (Nat × Nat) := none
  ppsOut   : Bool := false
  ppsRise  : Nat := 0                    -- uptime at which TB_PPS_OUT rose (R259)
  ppsEn    : Bool := false
  ppsAt    : Nat := 0                    -- uptime of the last TB_PPS_IN edge, or of the interval without one that followed (R255)
  syncAt   : Nat := 0                    -- uptime of the last Sync, or since when one is awaited
  hist     : List (Nat × Nat × Int) := []  -- uptime, DTB and rate before each change within the longest filter, newest first (R240)
  deriving DecidableEq, Repr, Inhabited

/-- An EVENT held for spacing (R271). -/
structure HeldEvt where
  dst  : Nat
  r    : Nat
  mode : Nat
  term : Nat
  origin : Nat := 0                      -- DTB of the firing cycle, in 1/16 ns (R270)
  deriving DecidableEq, Repr, Inhabited

/-- One reflex table (R262–R273, Tables 9.10, 9.11). What it holds stands in its frames, that is in the design. -/
structure RTable where
  armed   : Bool := false
  armSt   : Status := .ok
  fire    : Nat := 0
  dropTx  : Nat := 0
  dropIgn : Nat := 0
  latMax  : Nat := 0
  remote  : BitVec 32 := 0               -- remote signals
  remote0 : BitVec 32 := 0               -- as they stood at the end of the last cycle (R269)
  rfxIn   : BitVec 64 := 0               -- levels of rfx_in as the table sees them (R265)
  rfxOut  : BitVec 64 := 0               -- pulses of the last evaluated cycle
  heldOut : BitVec 64 := 0               -- pulses held while the band is in DOZE (R274)
  uan     : BitVec 16 := 0               -- Uanov signals 0xE0–0xEF
  pulses  : BitVec 256 := 0              -- pulse signals raised for the next evaluated cycle
  prev    : BitVec 256 := 0              -- signals of the cycle evaluated last
  live    : List Nat := []               -- terms whose value was 1 in that cycle
  inCycle : Bool := false                -- between E0 and E1 of a swap of its region (R269)
  sent    : SMap Nat := []               -- uptime of the last EVENT of the flow to table id, plus 1
  held    : List HeldEvt := []
  deriving DecidableEq, Repr, Inhabited

/-- The reflex path. -/
structure Rfx where
  tables : SMap RTable := []
  within : Bool := true
  agrees : Bool := true
  maxW   : Nat := 0
  maxB   : Nat := 0                      -- B_f − F in 1/16 ns
  rowW   : SMap Nat := []
  rowC   : SMap Nat := []
  deriving DecidableEq, Repr, Inhabited

/-- The ring states of Table 10.15. -/
inductive RingState where
  | stopped | starting | discovering | running | broken | stopping
  deriving DecidableEq, Repr, Inhabited

/-- The engine's view of a station (Table 10.23). -/
inductive StnState where
  | none | joined | assigned | operational | safe | left | lost
  deriving DecidableEq, Repr, Inhabited

/-- One station (Tables 10.8, 10.17, 10.21). -/
structure Station where
  state  : StnState := .none
  flags  : Nat := 0
  pos    : Nat := 0
  miss   : Nat := 0
  id     : Nat := 0
  vendor : Nat := 0
  prod   : Nat := 0
  i      : Nat := 0
  o      : Nat := 0
  cls    : Nat := 0
  off    : Nat := 0
  dp     : Nat := 0
  byte2  : Nat := 0
  fresh  : Bool := false
  cyc    : Nat := 0
  conf   : Bool := false                 -- its CONFIG has returned valid
  left   : Bool := false                 -- LEFT, whatever state its records show (R319)
  toAsn  : Bool := false                 -- an ASSIGN frame is still to name it
  deriving DecidableEq, Repr, Inhabited

/-- The frame the engine has on the ring (R291). -/
inductive OnRing where
  | none | cycle | discover | assign | config (s : Nat) | delay | safe | reset
  deriving DecidableEq, Repr, Inhabited

/-- Where the synchronisation process of Clause 36 stands (R285): no synchronisation, the k-th comma seen, data after it, or synchronised
with a number of bad code-groups against it. -/
inductive SyncAt where
  | loss
  | comma (k : Nat)
  | acquire (k : Nat)
  | synced (bad : Nat)
  deriving DecidableEq, Repr, Inhabited

/-- A ring's receiver: running disparity (positive), position of the last code-group, and the synchronisation process. -/
structure RxLine where
  rd   : Bool := false
  even : Bool := false
  at_  : SyncAt := .loss
  good : Nat := 0                        -- good code-groups in a row since the last bad one
  deriving DecidableEq, Repr, Inhabited

/-- One Uanov ring (Tables 10.15–10.22). -/
structure Ring where
  state    : RingState := .stopped
  run      : Bool := false
  noRoom   : Bool := false
  status   : Status := .ok
  pods     : Nat := 0
  -- control block as written and, below, as applied at START
  cfg      : Word := 0x00030303
  cfgSet   : Bool := false               -- RING_CFG has been written (its miss field resets from POL_POD_MISS)
  cycleUs  : Nat := 1000
  phase    : Nat := 0
  applyUs  : Nat := 0
  noticeLo : Word := 0
  noticeHi : Word := 0
  sig      : List Word := [0, 0, 0, 0]
  safeMask : Word := 0
  asnStn   : Nat := 0
  asnLo    : Word := 0
  asnHi    : Word := 0
  weights  : List Nat := List.replicate 33 1
  clamped  : Bool := false               -- the next command completes OK_CLAMPED (R325)
  aSig     : List Word := [0, 0, 0, 0]
  aWeights : List Nat := List.replicate 33 1
  aCfg     : Word := 0x00030303
  aCycle   : Nat := 1000000              -- C in ns
  aPhase   : Nat := 0
  aApply   : Nat := 0                    -- A in µs
  lead     : Nat := 0                    -- λ in ns
  busy     : Bool := false
  cmdSt    : Status := .ok
  cmd      : Nat := 0                    -- the command in progress
  lastCmd  : Nat := 0                    -- the command that completed last, with cmdSt
  cmdStn   : Nat := 0                    -- station of an ASSIGN in progress
  cmdRef   : Option (Nat × Nat) := none
  starting : Bool := false               -- a START is in progress
  stopAfter : Bool := false              -- stop after one cycle with every station in SAFE (Table 10.16)
  stopCyc  : Nat := 0                    -- cycles sent when that was decided
  since    : Nat := 0                    -- uptime at which the state began
  sentAt   : Nat := 0                    -- uptime at which the frame on the ring left
  txRd     : Bool := false               -- the transmitter's running disparity is positive
  rx       : RxLine := {}
  onRing   : OnRing := .none
  queue    : List OnRing := []           -- control frames to send
  recover  : Bool := false               -- running steps 3 and 4 of R316 after a break
  seq      : Nat := 0
  loop     : Nat := 0                    -- L in 1/16 ns
  delays   : List Nat := []
  tries    : Nat := 0
  stns     : SMap Station := []          -- stations 1–32
  topo     : SMap (List Byte) := []      -- the 24-byte record of positions 1–63 (Table 10.17)
  usedIds  : List Nat := []              -- IDs that held a station since START (R318)
  waiting  : List Nat := []              -- IDs of pods JOINED without a station
  cycles   : Nat := 0
  errInv   : Nat := 0
  errLate  : Nat := 0
  sN       : Nat := 0                    -- S_n of the cycle on the ring, DTB ns
  sNext    : Nat := 0
  stepped  : Bool := false               -- the DTB was stepped since the last CYCLE (R303)
  sinceDly : Nat := 0                    -- cycles since the last DELAY (R304)
  outImg   : Memory := []
  snap     : Option Memory := none       -- the output image of S_n − 1 µs, once a later write has changed it (R323)
  inImg    : Memory := []
  rxBuf    : Memory := []
  rxFresh  : List Nat := []
  rxStat   : Status := .ok
  csS      : Nat := 0                    -- cycle status: S_n, cycle count, fresh bits, status
  csCyc    : Nat := 0
  csFresh  : Word := 0
  csStat   : Status := .ok
  deriving DecidableEq, Repr, Inhabited

/-- The Uanov engines. -/
structure Uan where
  rings : SMap Ring := []
  last  : Word := 0                      -- UAN.LAST_EVENT
  deriving DecidableEq, Repr, Inhabited

end Sys2Proof.Machine
end

