-- ==== Sys2Proof/Machine/StNet.lean ====
section
/-! DEFINITION. The network side of the state: the on-chip network, the PCI Express endpoints, the Ethernet MAC ports
and the transceivers (chapters 07 and 11). -/
namespace Sys2Proof.Machine

/-- The states of an address-map entry (R195). -/
inductive EpState where
  | live | muzzled | retired | unassigned
  deriving DecidableEq, Repr, Inhabited

/-- One address-map entry (R195, Tables 7.10, 7.11). -/
structure MapEntry where
  state : EpState := .unassigned
  port  : Nat := 0
  col   : Nat := 0
  row   : Nat := 0
  gen   : Nat := 0
  phys  : Nat := 0
  cause : Nat := 0
  deriving DecidableEq, Repr, Inhabited

/-- An outstanding non-posted request at an NI (R205, R211); `mcw` holds the member answers of a multicast (R223). -/
structure OutReq where
  dst   : Nat
  len   : Nat
  op    : PktOp
  dom   : Owner := .mc                   -- the requester's domain, stamped on the response too (Table 7.4)
  t     : Nat                            -- uptime of injection, later by the time that the timer has paused (R211)
  mcw   : List (Nat × Status) := []
  mask  : Nat := 0
  deriving DecidableEq, Repr, Inhabited

/-- A response still to come for which no request waits any more: its requester, tag and responder, and the counter of the requester
in which its drop counts (R212, R213, R226). -/
structure LateRsp where
  ep  : Nat
  tag : Nat
  src : Nat
  ctr : Nat
  deriving DecidableEq, Repr, Inhabited

/-- One firewall window (R210, Table 7.12). -/
structure FwWin where
  valid    : Bool := false
  read     : Bool := false
  write    : Bool := false
  grantees : Nat := 0
  ep       : Nat := 0
  base     : Nat := 0                    -- pages of 4 KiB
  limit    : Nat := 0
  deriving DecidableEq, Repr, Inhabited

/-- The on-chip network. -/
structure Noc where
  running  : Bool := false
  map      : SMap MapEntry := []
  cnt      : SMap Nat := []              -- counter c of endpoint id at 16 id + c (Table 7.9)
  outst    : SMap (Option OutReq) := []  -- tag t of the NI that the entry of endpoint id names, at 256 id + t
  flight   : List Pkt := []              -- packets injected and not yet arrived
  ejAt     : SMap Nat := []              -- uptime of the last credit of an endpoint's ejection port, or of the first flit since (R214)
  late     : List LateRsp := []          -- responses that no request awaits any more (R212, R226)
  events   : List EventPkt := []         -- EVENTs sent and not yet ejected
  parked   : SMap (List Pkt) := []       -- park buffer of router 8 row + column, in arrival order (R224)
  fw       : SMap FwWin := []            -- window w of domain d at 32 d + w
  epoch    : Nat := 0
  drain    : Bool := false
  drain10  : Bool := false
  routeCmd : Option (Nat × Nat) := none
  routeAt  : Nat := 0                    -- uptime of the switch of the epoch (R221)
  routes   : SMap Nat := []              -- (epoch × 128 + router) × 128 + destination
  vc0      : SMap Nat := []              -- RTR_VC0 of router, output port at 8 router + port
  last     : Word := 0                   -- NOC.LAST_EVENT
  busyAt   : SMap Nat := []              -- uptime of the last packet from or for a band's fabric endpoints, or ICP beat (Table 12.15)
  mgOut    : Nat := 0                    -- MC management requests outstanding (R200)
  ni       : SMap (Nat × Nat) := []      -- source ID and generation that the NI of a physical instance stamps (R217)
  deriving DecidableEq, Repr, Inhabited

/-- One translation entry (R339, Table 11.12). -/
structure Xlt where
  valid : Bool := false
  read  : Bool := false
  write : Bool := false
  rej   : Bool := false
  pages : Nat := 0
  bar   : Nat := 0
  tgt   : Nat := 0
  deriving DecidableEq, Repr, Inhabited

/-- A read of window 2 in progress: its parts in address order (R340). -/
structure W2Read where
  entry : Nat
  off   : Nat
  parts : List (Nat × Nat)               -- NI tag and length of each part not yet completed
  got   : List (Nat × Status × List Byte) := []
  deriving DecidableEq, Repr, Inhabited

/-- One PCI Express endpoint (Tables 11.5–11.13). -/
structure Pci where
  up       : Bool := false
  everUp   : Bool := false
  perst    : Bool := true                -- PCIE_PERST_N asserted
  gen      : Nat := 0
  width    : Nat := 0
  linkCtrl : Word := 0x00000805
  bme      : Bool := false
  msixEn   : Bool := false
  d3       : Bool := false
  bars     : SMap Nat := []
  mask     : BitVec 64 := 0xFFFFFFFFFFFFFFFF
  pba      : BitVec 64 := 0
  msix     : SMap Word := []             -- MSI-X table words 4v + 0..2
  xlts     : SMap Xlt := []
  stBar    : Nat := 0
  stLo     : Word := 0
  stHi     : Word := 0
  xltIdx   : Nat := 0
  obLo     : Word := 0
  obHi     : Word := 0
  obLimit  : Nat := 0
  errLog   : Word := 0
  errLo    : Word := 0
  errHi    : Word := 0
  lost     : Bool := false
  cause    : Nat := 0
  losses   : Nat := 0
  policy   : Nat := 1
  ob       : SMap (Option Pkt) := []     -- outbound reads awaiting a host completion, by tag
  obAt     : SMap Nat := []              -- uptime at which an outbound read was sent, by tag (R342)
  rds      : SMap (Option W2Read) := []  -- window 2 reads in progress, by PCIe tag
  raw      : Bool := false               -- the lanes have passed to the fabric (R331)
  deriving DecidableEq, Repr, Inhabited

/-- A descriptor ring of a MAC port (R348). -/
structure EthRing where
  lo   : Word := 0
  hi   : Word := 0
  tail : Nat := 0
  head : Nat := 0
  stop : Bool := false
  deriving DecidableEq, Repr, Inhabited

/-- A gate-control list: entries as gates and interval, their number, base time and cycle (R351). -/
structure GateList where
  ents  : SMap (Nat × Nat) := []
  len   : Nat := 0
  base  : Nat := 0
  cycle : Nat := 1000
  deriving DecidableEq, Repr, Inhabited

/-- One MAC port (Tables 11.14, 11.15). -/
structure Mac where
  ctrl    : Word := 0x09000000
  up      : Bool := false
  an      : Bool := false
  fec     : Bool := false
  pre     : Bool := false                -- preemption active
  qStat   : Status := .ok
  lo      : Word := 0
  hi      : Word := 0
  maxF    : Nat := 1518
  tx      : EthRing := {}
  rx      : EthRing := {}
  gclIdx  : Word := 0
  gclEn   : Bool := false
  admin   : GateList := { len := 1 }
  oper    : GateList := {}
  pend    : Option (Nat × GateList) := none   -- switch instant and list of a commit
  gateAt  : Nat := 0                     -- operational entry in force
  gateRe  : Bool := false                -- the list restarts at its next boundary (R351)
  statIdx : Nat := 0
  stats   : SMap Nat := []
  txHalt  : Bool := false                -- host-loss policy SAFE of the owner (Table 11.8)
  deriving DecidableEq, Repr, Inhabited

/-- One transceiver quad (Table 11.16). -/
structure Quad where
  ref    : Bool := false
  locked : Bool := false
  lol    : Nat := 0
  deriving DecidableEq, Repr, Inhabited

/-- One lane (Tables 11.4, 11.16). -/
structure Lane where
  lock   : Bool := false
  sig    : Bool := false
  idle   : Bool := true
  txF    : List (BitVec 128) := []
  rxF    : List (BitVec 128) := []
  under  : Nat := 0
  overf  : Nat := 0
  slip   : Nat := 0                      -- word boundary, in bits or symbols
  eye    : Word := 0                     -- as measured when the receiver last locked: a free value
  prbs   : Nat := 0
  deriving DecidableEq, Repr, Inhabited

/-- The transceivers. -/
structure Xcv where
  quads : SMap Quad := []
  lanes : SMap Lane := []
  prbsCtrl : Word := 0
  deriving DecidableEq, Repr, Inhabited

end Sys2Proof.Machine
end

