-- ==== Sys2Proof/Machine/StMc.lean ====
section
/-! DEFINITION. The management side of the state: the management controller and its mailboxes, the NV store, power,
self-test, life cycle, clocks, system monitor, and the fabric's own storage (chapters 02, 12–17). -/
namespace Sys2Proof.Machine

/-- A waiting command (R359, R364): its entry and its clamp report. -/
structure RunCmd where
  d      : Nat
  tag    : Nat
  op     : Nat
  noIrq  : Bool
  handle : Nat
  p      : List Word
  deriving DecidableEq, Repr, Inhabited

/-- A completion held back because the completion ring is full (R357). -/
structure Held where
  d      : Nat
  tag    : Nat
  op     : Nat
  noIrq  : Bool
  status : Status
  block  : Nat
  handle : Nat
  res    : List Word
  deriving DecidableEq, Repr, Inhabited

/-- One mailbox: ring indices and HMB registers (Tables 12.17–12.20). -/
structure Mbx where
  cmdTail : Nat := 0
  cmdHead : Nat := 0
  cplTail : Nat := 0
  cplHead : Nat := 0
  intCpl  : Bool := true                 -- CTRL.cpl_int_en
  dbErr   : Bool := false
  last    : Status := .ok
  intSt   : Word := 0
  intEn   : Word := 0
  deriving DecidableEq, Repr, Inhabited

/-- One event or policy entry (Table 12.13). -/
structure REntry where
  block  : Nat
  status : Status
  kind   : Nat
  detail : Nat
  object : Word
  t      : Nat
  deriving DecidableEq, Repr, Inhabited

/-- A bounded report: its entries oldest first, entries lost, sequence number of the first entry. -/
structure Report where
  es   : List REntry := []
  lost : Nat := 0
  seq0 : Nat := 0
  deriving DecidableEq, Repr, Inhabited

/-- A clamp report (R109, Table 12.12). -/
structure ClampRep where
  handle  : Nat
  readers : List Nat
  es      : List Clamp
  lost    : Nat                          -- clamps counted but not stored
  deriving DecidableEq, Repr, Inhabited

/-- The management controller. -/
structure Mc where
  mbx      : SMap Mbx := []
  ram      : Memory := []                -- mailbox RAM, domain d at 0x10000 d (R354, Table 12.1)
  running  : List RunCmd := []
  turn     : Nat := 4                    -- domain whose entry was taken last (R359)
  heldC    : List Held := []
  restart  : Bool := false               -- firmware restart in progress (R355)
  halted   : Bool := false
  restarts : Nat := 0
  lastRst  : Nat := 0                    -- uptime of the last restart, plus 1
  events   : SMap Report := []           -- event report of domain d
  policy   : Report := {}
  clamps   : List ClampRep := []
  handle   : Nat := 0                    -- last handle given
  pol      : SMap Word := []             -- policy parameters that SET_POLICY changed
  polSet   : List Nat := []              -- parameters changed by SET_POLICY (R374)
  vccint   : Nat := 750                  -- mV, last confirmed
  avsHigh  : Nat := 0                    -- consecutive periods with margin above 80 ps
  avsStop  : Bool := false
  margin   : Int := 0                    -- least margin of the last period
  thAlert  : Bool := false
  thCrit   : Bool := false
  thA1     : Bool := false               -- the last result was at or above the level (two in a row are needed)
  thC1     : Bool := false
  supAlarm : Nat := 0                    -- bit n: supply channel n is in alarm
  sramCorr : Nat := 0
  idleTry  : SMap (Nat × Nat) := []      -- idle-band loop: delay in ms, and the uptime before which it does not try again, per band
  avsAt    : Nat := 0                    -- uptime of the last period of loop 1 and of loop 5
  idleAt   : Nat := 0
  marginAt : Option Nat := none          -- uptime of the last report of insufficient margin while it lasts (R376)
  refOver  : Bool := false               -- NV refresh overdue
  byCmd    : List Nat := []              -- what commands set since the image: resources, and 0x1000 + register address
  warmCnt  : Nat := 0
  deriving DecidableEq, Repr, Inhabited

/-- What the store itself does in a bank: nothing, a gap or refresh copy, the background erase of a gap (Table 13.12). -/
inductive BankBusy where
  | idle | copy | gapErase
  deriving DecidableEq, Repr, Inhabited

/-- One NV bank (R380, R403, R404, Table 13.12). Ring slots map to physical sectors; a slot not listed maps to itself. -/
structure Bank where
  busy    : BankBusy := .idle
  s       : Nat := 0
  g       : Nat := 1016
  ring    : SMap Nat := []
  erases  : Nat := 0
  cnt     : SMap Nat := []               -- erase count of a physical sector
  spares  : Nat := 7
  susp    : Nat := 0
  toMove  : Nat := 32
  due     : Bool := false                -- 32 erases have passed: the gap is to move
  started : List Nat := []               -- physical sectors with ERASE_STARTED set and ERASE_DONE clear (R405)
  retire  : List Nat := []               -- physical sectors to retire at their next erase
  copySlot : Nat := 0                    -- ring slot that the copy in progress leaves
  copyRef : Bool := false                -- it is a refresh copy
  gapSec  : Nat := 0                     -- physical sector of the background erase
  refNext : Nat := 0                     -- next sector of the refresh cycle
  refDay  : Nat := 0                     -- RTC day of the last completed cycle
  deriving DecidableEq, Repr, Inhabited

/-- A running descriptor (Table 13.4, R393, R394). -/
structure Desc where
  op     : Nat
  flags  : Nat
  tag    : Nat
  addr   : Nat
  len    : Nat
  buf    : Nat
  aux    : Nat
  parts  : List (Nat × Nat) := []        -- start address and length of each part
  seq    : Nat := 0                      -- place in the order in which descriptors started
  fin    : Option Status := none         -- it ends with this status and no part starts
  ended  : List (Nat × Status) := []     -- parts that have ended, with their status
  failAt : Nat := 0xFFFFFFFF
  result : Word := 0
  doneB  : Nat := 0                      -- bytes of the parts that succeeded
  deriving DecidableEq, Repr, Inhabited

/-- One descriptor queue (Tables 13.9–13.11). -/
structure NvQ where
  base   : Nat := 0
  cqBase : Nat := 0
  enable : Bool := false
  tail   : Nat := 0
  head   : Nat := 0
  cqTail : Nat := 0
  cqHead : Nat := 0
  stop   : Bool := false
  idxErr : Bool := false
  status : Status := .ok
  run    : List Desc := []
  held   : List (List Byte) := []
  deriving DecidableEq, Repr, Inhabited

/-- One protection range (R397, R398, Table 13.13). -/
structure NvRange where
  first : Nat := 1
  last  : Nat := 0
  wp    : Bool := false
  rp    : Bool := false
  perm  : Bool := false
  pw    : Option (BitVec 384) := none
  fails : Nat := 0
  lock  : Bool := false
  sess  : List Owner := []               -- domains with a session, opened while the range had the owner `so`
  so    : Owner := .unowned
  deriving DecidableEq, Repr, Inhabited

/-- A NV_REFRESH_SCAN in progress: sectors still to read, as (bank, physical sector). -/
structure NvScan where
  cmd    : CmdRef
  left   : List (Nat × Nat)
  read   : Nat := 0
  rewrit : Nat := 0
  deriving DecidableEq, Repr, Inhabited

/-- A slot-selector copy (Table 4.3): its 32 bytes; empty is erased. -/
structure Selector where
  bytes : List Byte := []
  deriving DecidableEq, Repr, Inhabited

/-- The NV store. -/
structure Nv where
  arr      : Memory := []                -- physical array: (bank × 1,024 + sector) × 32,768 + byte; erased reads 0xFF
  banks    : SMap Bank := []
  qs       : SMap NvQ := []
  turn     : Nat := 0                    -- queue whose turn it is (R391)
  credit   : Nat := 0                    -- descriptors it has started in this turn
  seq      : Nat := 0
  scans    : List NvScan := []
  stores   : List RunCmd := []           -- STORE commands that run, in the order in which they were started (R508)
  urgent   : Nat := 1                    -- bit q: queue q has urgent rights
  xip      : SMap (Option (Owner × Nat)) := []
  ranges   : SMap NvRange := []
  selA     : Selector := {}
  selB     : Selector := {}
  index    : SMap (List Word) := []      -- slot indexes (R386)
  pkeys    : SMap (Option (BitVec 256 × Nat)) := []   -- partial-image keys and counters by owner code (R369)
  torn     : List (Nat × Nat) := []      -- list of the last scan: bank, logical sector (0x3FF a gap)
  tornN    : Nat := 0
  scanDone : Bool := false
  refDay   : Nat := 0                    -- RTC day on which the refresh cycle began
  readAt   : SMap Nat := []              -- RTC tick of a sector's last margin read, at bank × 1,024 + sector (R376)
  rewrit   : Nat := 0
  retired  : Nat := 0
  deriving DecidableEq, Repr, Inhabited

/-- The band states of Table 14.2. -/
inductive BState where
  | on | doze | nap | off
  deriving DecidableEq, Repr, Inhabited

/-- An entry in progress (R415): target, voters still undecided and those that delayed, the command behind it. -/
structure Entry where
  target  : Nat                          -- 1 DOZE, 2 NAP, 3 OFF, 8 SENTRY, 9 HIBERNATE
  t       : Nat := 0                     -- uptime of the request (R415)
  undec   : List Nat                     -- block IDs
  delayed : Bool := false
  ports   : List Nat := []               -- bands whose stay-awake port has not accepted (R417)
  sampled : List (Nat × Nat) := []       -- uptime at which a waiting port was sampled last
  cmd     : Option CmdRef := none
  past    : Bool := false                -- accepted; waits for the RTC tick of a device entry (R427)
  deriving DecidableEq, Repr, Inhabited

/-- One band's power state (Table 14.12). -/
structure BandP where
  state  : BState := .on
  held   : Bool := false
  waking : Bool := false
  good   : Bool := false                 -- band power is good and the reload after OFF runs
  woken  : Nat := 0                      -- uptime of the waking event
  left   : Nat := 0                      -- uptime at which the band left ON, where request timers pause (R211)
  status : Status := .ok
  lastUs : Nat := 0
  entry  : Option Entry := none
  cmd    : Option CmdRef := none        -- a request for ON being carried out
  deriving DecidableEq, Repr, Inhabited

/-- One PMBus rail entry (Tables 14.10, 14.14). -/
structure Rail where
  cfg    : List Byte := []               -- the 8 bytes of the entry
  vout   : Nat := 0
  rd     : Nat := 0
  iout   : Nat := 0
  temp   : Int := 0
  status : Nat := 0
  cmdAt  : Option Nat := none            -- uptime of an unconfirmed VOUT_COMMAND
  xactAt : Nat := 0                      -- uptime of the last transaction
  deriving DecidableEq, Repr, Inhabited

/-- A grant in force (R468). -/
structure Grant where
  who    : Nat
  scope  : Nat
  dom    : Nat
  seq    : Nat
  until_ : Nat                           -- RTC seconds at which it ends
  deriving DecidableEq, Repr, Inhabited

/-- The retained state of Table 14.9, as bank 16 of the kennel holds it; the power record and the refusal accounting stay
where they are, in the always-on domain. -/
structure Kept where
  slot    : Nat
  sig     : List Byte
  owner   : List Byte
  ten     : SMap Owner
  regions : SMap Region                  -- windows and attributes
  frames  : SMap Frame                   -- the frames of regions, each with its recorded source
  pol     : SMap Word
  polSet  : List Nat
  fw      : SMap FwWin
  pci     : SMap Pci                     -- translation entries, OB_BASE, OB_LIMIT, host-loss policies
  map     : SMap MapEntry
  ni      : SMap (Nat × Nat)
  routes  : SMap Nat
  epoch   : Nat
  forced  : List Nat                     -- ports whose forced-safe latch is set
  urgent  : Nat
  xip     : SMap (Option (Owner × Nat))
  grants  : SMap (Option Grant)
  gseq    : Nat
  source  : Nat
  macPort : Nat
  off     : List Nat                     -- bands that were OFF at entry
  deriving DecidableEq, Repr, Inhabited

/-- Power (chapter 14): the PWR, AON and PMB blocks and the power configuration record. -/
structure Pwr where
  bands    : SMap BandP := []
  dev      : Option Entry := none        -- device entry in progress
  refTotal : Nat := 0
  refCnt   : SMap Nat := []              -- by voter row of Table 14.3
  lastRef  : Word := 0
  delays   : Nat := 0
  wakeC    : Word := 0
  wakeS    : Status := .ok
  wakeDur  : Nat := 0
  retSt    : Nat := 0                    -- RETENTION_STATUS
  rtc      : Nat := 0
  xclk     : Bool := true
  fallback : Bool := false
  counting : Bool := false
  fbTicks  : Bool := false               -- fallback ticks were counted since the last entry
  kennel   : Memory := []                -- bank × 65,536 + byte
  kValid   : Nat := 0
  kCrc     : SMap Nat := []
  pins     : Nat := 0                    -- WAKE_0–WAKE_7
  holdup   : Bool := true                -- HOLDUP_OK
  recSet   : Bool := false
  record   : List Byte := []             -- the 152 bytes of Table 14.10
  armed    : Bool := false
  mism     : Nat := 0
  samples  : Nat := 0
  waking   : BitVec 128 := 0
  latched  : Option (Nat × Nat) := none  -- wake event latched during entry (R427)
  savedDtb : Nat := 0                    -- 1/16 ns at tick savedR0
  savedR0  : Nat := 0
  rails    : SMap Rail := []
  lastX    : Word := 0
  nacks    : Nat := 0
  pecErr   : Nat := 0
  kept     : Option Kept := none         -- bank 16: retained state that passes its CRC
  wakeTry  : List Nat := []              -- failed wake attempts to post: rail entries (R485)
  wakeAt   : Nat := 0
  opAt     : Option Nat := none          -- uptime of the first OPERATION of a wake attempt; none between attempts (R485)
  offAt    : Nat := 0                    -- uptime at which a failed attempt switched the rails off
  xclkAt   : Nat := 0                    -- uptime of the last RTC tick, an XCLK edge (R433)
  sampleAt : Nat := 0                    -- RTC tick of the last Sentry sample, or of entry to SENTRY (R431)
  pollAt   : Nat := 0                    -- uptime of the last PMBus poll (R434)
  deriving DecidableEq, Repr, Inhabited

/-- One schedule entry of self-test (R445, Table 15.6). -/
structure BstEntry where
  enable : Bool := false
  test   : Nat := 0
  target : Nat := 0
  period : Nat := 0
  budget : Nat := 0
  setter : Owner := .unowned
  status : Status := .ok
  skips  : Nat := 0
  next   : Nat := 0                      -- sweep position
  seen   : Nat := 0                      -- due instants that have passed since DONE (R446)
  deriving DecidableEq, Repr, Inhabited

/-- One result record (R448, Table 15.4). -/
structure BstRec where
  test   : Nat
  target : Nat
  seq    : Nat
  status : Status
  detail : Nat
  cov    : Nat
  dur    : Nat
  misr   : BitVec 64
  readBy : List Nat := []
  sweep  : Bool := false                 -- the record of a sweep entry
  stamp  : Nat := 0                      -- its place in the order in which slices ended
  deriving DecidableEq, Repr, Inhabited

/-- A running slice (R439, R440). -/
structure Slice where
  test   : Nat
  target : Nat
  entry  : Option Nat                    -- schedule entry; none for BIST_RUN
  budget : Nat
  t      : Nat
  band   : Option Nat
  cmd    : Option CmdRef := none
  deriving DecidableEq, Repr, Inhabited

/-- A BIST_RUN that waits for R440 (R447). -/
structure BstWait where
  cmd    : CmdRef
  test   : Nat
  target : Nat
  budget : Nat
  t      : Nat := 0                      -- uptime of the command
  deriving DecidableEq, Repr, Inhabited

/-- Self-test (chapter 15). -/
structure Bst where
  entries : SMap BstEntry := []
  recs    : SMap (Option BstRec) := []   -- of schedule entry k at k, of BIST_RUN at 64 + i
  rr      : Nat := 0                     -- the BIST_RUN record that is replaced next
  stamp   : Nat := 0
  slices  : SMap (Option Slice) := []    -- slots 0–3
  ended   : Nat := 0
  fails   : Nat := 0
  aborts  : Nat := 0
  lastF   : Word := 0
  spares  : List Nat := []               -- blocks served from their spare until reset (R443)
  waiting : List BstWait := []
  deriving DecidableEq, Repr, Inhabited

/-- An outstanding nonce (R466). -/
structure Nonce where
  scope  : Nat
  dom    : Nat
  value  : BitVec 128
  t      : Nat                           -- RTC ticks at issue
  deriving DecidableEq, Repr, Inhabited

/-- The transition in progress (R460–R462): requester, target state, whether the return's first run is done. -/
structure LcRun where
  cmd    : Option CmdRef
  target : Nat
  run2   : Bool
  since  : Nat := 0                      -- when the programming run in progress began
  deriving DecidableEq, Repr, Inhabited

/-- Life cycle and debug (chapter 16). -/
structure Lcs where
  otp     : SMap Word := []              -- OTP words 0–23 as programmed
  boot    : SMap Word := []              -- words as read at boot
  imgKey  : BitVec 256 := 0
  kek     : BitVec 256 := 0
  state   : Nat := 0                     -- decoded code of Table 16.2
  status  : Status := .ok
  run     : Option LcRun := none
  erasing : Bool := false                -- erase of R462 step 4 in progress
  warmDef : Bool := false                -- warm reset deferred until the run ends (R39)
  nonces  : SMap (Option Nonce) := []
  grants  : SMap (Option Grant) := []
  gseq    : Nat := 0
  ir      : Nat := 2
  denied  : Nat := 0
  bsr     : BitVec 3300 := 0
  drive   : Bool := false                -- a drive instruction drives the pins from bsr
  hiz     : Bool := false
  csrData : Word := 0                    -- data a CSR_ACCESS read returns in the next scan
  deriving DecidableEq, Repr, Inhabited

/-- One general PLL (Tables 2.5–2.9). -/
structure Pll where
  ctrl    : Word := 0x80000100
  div     : Word := 0x00140000
  outs    : List Word := List.replicate 7 0x00000200
  aCtrl   : Word := 0x80000100
  aDiv    : Word := 0x00140000
  aOuts   : List Word := List.replicate 7 0x00000200
  lol     : Nat := 0
  ref     : Bool := false
  locked  : Bool := false
  deriving DecidableEq, Repr, Inhabited

/-- The clock block. -/
structure Clk where
  plls   : SMap Pll := []
  gclk   : BitVec 64 := 0
  rclk   : SMap Nat := []                -- per band
  fctrl  : Word := 0
  fdone  : Bool := false
  fover  : Bool := false
  fkhz   : Nat := 0
  pend   : List Nat := []                -- PLL_APPLY writes that wait for the MC restart (R476)
  high   : SMap Bool := []               -- the clock nets that stand high (R44, R70)
  deriving DecidableEq, Repr, Inhabited

/-- One monitor channel (Tables 2.12, 2.13). -/
structure Chan where
  cfg   : Word := 0
  valid : Bool := false
  alarm : Bool := false
  seq   : Nat := 0
  code  : Nat := 0
  min   : Nat := 0xFFF
  max   : Nat := 0
  hi    : Nat := 0
  lo    : Nat := 0
  out1  : Bool := false                  -- the previous result lay outside the thresholds
  deriving DecidableEq, Repr, Inhabited

/-- The system monitor. -/
structure Smn where
  ctrl  : Word := 0
  chans : SMap Chan := []
  temps : SMap Nat := []
  deriving DecidableEq, Repr, Inhabited

/-- What a read latch ahead of the output holds: data and the two ECC flags. -/
structure RamLatch where
  data : BitVec 72
  sbe  : Bool
  dbe  : Bool
  deriving DecidableEq, Repr, Inhabited

/-- One port of a block RAM: its outputs, and the reads on their way to them (R50, R54). -/
structure RamPort where
  dout  : BitVec 72 := 0
  valid : Bool := false                  -- rd_valid
  sbe   : Bool := false
  dbe   : Bool := false
  pipe  : List (Nat × RamLatch) := []    -- reads on their way to the output, oldest first, with the edges still to pass
  wrote : Option (Nat × List Nat) := none -- the word and the 9-bit bytes that the port stored at its last edge (R51)
  deriving DecidableEq, Repr, Inhabited

/-- One DSP block: the registers of its five stages (R59). -/
structure DspReg where
  mx    : BitVec 27 := 0
  my    : BitVec 27 := 0
  pz    : BitVec 27 := 0
  x     : Int := 0                       -- pre-adder stage: multiplier operands and pre_ovf
  y     : Int := 0
  xOvf  : Bool := false
  prod  : Int := 0                       -- multiplier stage
  pOvf  : Bool := false
  acc   : Int := 0                       -- accumulator-source stage, with the product beside it
  accP  : Int := 0
  aOvf  : Bool := false
  q     : BitVec 64 := 0
  qOvf  : Bool := false
  preOvf : Bool := false
  deriving DecidableEq, Repr, Inhabited

/-- What a tile offers to routing (R43, R46): f, g and the sum of its eight cells, its carry-out, its flip-flops. -/
structure TileOut where
  f    : BitVec 8
  g    : BitVec 8
  sum  : BitVec 8
  cout : Bool
  q    : BitVec 16
  deriving DecidableEq, Repr, Inhabited

/-- The outputs of a DSP block (Table 2.3). -/
structure DspOut where
  q      : BitVec 64 := 0
  qOvf   : Bool := false
  preOvf : Bool := false
  mxOut  : BitVec 27 := 0                -- mxcout; qcout is q
  deriving DecidableEq, Repr, Inhabited

/-- The fabric's own storage: flip-flops (16 of a tile as one word), block RAM words, DSP registers; and the inputs from
routing as they last stood. -/
structure Fab where
  tileIn : SMap TileEdge := []
  ramIn  : SMap RamEdge := []            -- by port, as below
  dspIn  : SMap DspEdge := []
  ffs   : SMap (BitVec 16) := []
  ram   : SMap (BitVec 72) := []         -- block × 2,048 + word
  ports : SMap RamPort := []             -- port a of block n at 2n, port b at 2n + 1
  dsps  : SMap DspReg := []
  deriving DecidableEq, Repr, Inhabited

end Sys2Proof.Machine
end

