-- ==== Sys2Proof/Machine/State.lean ====
section
/-! DEFINITION. The state of the device as plain data, the state at power-on reset, and the reasons a step can stop. -/
namespace Sys2Proof.Machine

/-- How a PCI Express request ends: Successful Completion, Unsupported Request, Completer Abort. -/
inductive Cpl where
  | sc | ur | ca
  deriving DecidableEq, Repr, Inhabited

/-- What a command makes appear outside the block: the answer to a read, a packet on the network, a frame on a wire,
an interrupt. `State.out` holds those of the command executed last, oldest first (DESIGN CHOICE, log entry 8). -/
inductive Out where
  /-- The flits of a packet delivered at the NI of an endpoint (R201, R205). -/
  | noc (ep : Nat) (flits : List (BitVec 256))
  /-- An EVENT flit sent on the reflex path (R269). -/
  | event (e : EventPkt)
  /-- A completion on PCI Express to the request with this tag (R338, R340). -/
  | cpl (p tag : Nat) (k : Cpl) (data : List Byte)
  /-- A memory request of `len` bytes that a PCI Express endpoint sends to its host: an MSI-X message or an outbound access
  (R342, R343). -/
  | tlp (p : Nat) (write : Bool) (tag addr len : Nat) (data : List Byte)
  /-- Dwords a read returns to an accessor: a window, a register, the serial port. -/
  | words (ws : List Word)
  /-- Bits shifted out at TDO, first bit lowest, with their number (R470). -/
  | tdo (n : Nat) (v : Nat)
  /-- A frame that a Uanov engine sends (R288). -/
  | ring (r : Nat) (groups : List (BitVec 10))
  /-- A frame sent by a MAC port (R348). -/
  | eth (port : Nat) (bytes : List Byte)
  /-- A block of bytes that a hardened block writes over the NoC for an owner (R371, R392). -/
  | dma (o : Owner) (addr : Nat) (bytes : List Byte)
  /-- A PMBus transaction to a rail: command code and data (R435). -/
  | pmbus (rail cmd : Nat) (data : List Byte)
  /-- A pin of the device takes a level (DONE, CFG_ERR_N, …), by its name. -/
  | pin (name : String) (level : Bool)
  /-- A mailbox completion was written for a domain (R357). -/
  | completion (d tag : Nat) (st : Status)
  /-- A transceiver word sent by a lane (R335). -/
  | lane (l : Nat) (w : BitVec 128)
  /-- What a tile offers to routing (R43, R46). -/
  | tile (t : Nat) (o : TileOut)
  /-- The outputs of a block RAM port: dout, rd_valid, sbe, dbe (Table 2.2). -/
  | ram (port : Nat) (dout : BitVec 72) (valid sbe dbe : Bool)
  /-- The outputs of a DSP block (Table 2.3). -/
  | dsp (d : Nat) (o : DspOut)
  /-- The fabric sees a wire of a hardened block change: its name, instance and value. -/
  | wire (name : String) (inst : Nat) (v : Nat)
  deriving DecidableEq, Repr, Inhabited

/-- The whole device. -/
structure State where
  pending : List Instr := []             -- commands waiting, first in, first out (the model's own)
  uptime  : Nat := 0                     -- nanoseconds since power-on (the model's own clock)
  free    : Nat := 0                     -- counter of free values taken (the model's own: DESIGN CHOICE, log entry 5)
  out     : List Out := []               -- outputs of the last command (the model's own: DESIGN CHOICE, log entry 8)
  ten     : SMap Owner := []             -- tenancy table (R25, R105): 312 resources in the order of R105
  copies  : SMap Word := []              -- per-accessor registers (R475), by `copyKey`
  design  : Design := {}                 -- what the active frames configure (DESIGN CHOICE, log entry 4)
  boot    : Boot := {}
  cfg     : Cfg := {}
  scr     : Scr := {}
  noc     : Noc := {}
  pci     : SMap Pci := []               -- endpoints 0–3
  mac     : SMap Mac := []               -- MAC ports 0–15
  xcv     : Xcv := {}
  port    : SMap Port := []              -- field ports 0–1,023
  tbs     : Tbs := {}
  rfx     : Rfx := {}
  uan     : Uan := {}
  mc      : Mc := {}
  nv      : Nv := {}
  pwr     : Pwr := {}
  bst     : Bst := {}
  lcs     : Lcs := {}
  clk     : Clk := {}
  smn     : Smn := {}
  fab     : Fab := {}
  deriving DecidableEq, Repr

/-- Reasons for which the device stops. The manual gives every command of the table an effect, or says that it has
none, so no command raises one: safe, since nothing is cut short. -/
inductive Fault where
  /-- Raised by no command: the manual describes no condition in which the whole device stops for good. Safe. -/
  | halted
  deriving DecidableEq, Repr

/-- Reasons for which the model gives no answer. -/
inductive Refusal where
  /-- The command has no meaning in the model yet. Raised by arms of `exec` alone. Safe: nothing can be proved of it. -/
  | notModelled (mnemonic : String)
  deriving DecidableEq, Repr

/-- The device in power-on reset (R35, R114): nothing has been loaded, every output is in Hi-Z, and no command waits
(DESIGN CHOICE, log entry 11). -/
def State.reset : State := {}

end Sys2Proof.Machine
end

