-- ==== Sys2Proof/Machine/Ops.lean ====
section
/-! DEFINITION. The named operations that the meanings share: bit fields and bytes, the CRCs, owner and status codes,
tenancy, per-accessor registers, instances of arrays, reports, interrupts. -/
namespace Sys2Proof.Machine
open Sys2Proof

/-! ## Bit fields and bytes (R10) -/

/-- Bits [hi:lo] of a number. -/
def bf (w hi lo : Nat) : Nat := (w >>> lo) % 2 ^ (hi + 1 - lo)

/-- Bits [hi:lo] of a register. -/
def wf (w : Word) (hi lo : Nat) : Nat := bf w.toNat hi lo

/-- One bit of a register. -/
def wb (w : Word) (n : Nat) : Bool := w.getLsbD n

/-- A register from a number. -/
def wd (n : Nat) : Word := BitVec.ofNat 32 n

/-- A bit as a number. -/
def b2n (b : Bool) : Nat := if b then 1 else 0

/-- Saturating counters: `n + 1`, at most `m`. -/
def sat (m n : Nat) : Nat := if n < m then n + 1 else m

/-- Little-endian bytes of a number, `n` of them. -/
def leBytes : (n : Nat) → Nat → List Byte
  | 0, _ => []
  | n + 1, v => BitVec.ofNat 8 v :: leBytes n (v / 256)

/-- The number that little-endian bytes spell. -/
def leNat : List Byte → Nat
  | [] => 0
  | b :: bs => b.toNat + 256 * leNat bs

/-- Bytes of words in stream order. -/
def wordBytes : List Word → List Byte
  | [] => []
  | w :: ws => leBytes 4 w.toNat ++ wordBytes ws

/-- Words of bytes; bytes beyond the last whole word are left out. -/
def bytesWords : List Byte → List Word
  | a :: b :: c :: d :: r => wd (leNat [a, b, c, d]) :: bytesWords r
  | _ => []

/-- `n` bytes from an offset of a byte list, as a number. -/
def leAt (bs : List Byte) (off n : Nat) : Nat := leNat ((bs.drop off).take n)

/-- Words a list holds at an index; absent ones read 0. -/
def nth (ws : List Word) (i : Nat) : Word := ws.getD i 0

/-- A list with one place replaced. -/
def setAt {α : Type} : List α → Nat → α → List α
  | [], _, _ => []
  | _ :: xs, 0, v => v :: xs
  | x :: xs, n + 1, v => x :: setAt xs n v

/-! ## Checksums (R84, R92) -/

/-- One bit of a reflected 32-bit CRC. -/
def crcBit (poly : Nat) (c : Nat) : Nat := if c % 2 = 1 then (c / 2) ^^^ poly else c / 2

/-- `n` bits of a reflected CRC. -/
def crcBits (poly : Nat) : Nat → Nat → Nat
  | 0, c => c
  | n + 1, c => crcBits poly n (crcBit poly c)

/-- Folds bytes into a reflected CRC register. -/
def crcRun (poly : Nat) : Nat → List Byte → Nat
  | c, [] => c
  | c, b :: bs => crcRun poly (crcBits poly 8 (c ^^^ b.toNat)) bs

/-- The reflected polynomial of CRC-32C. -/
def polyC : Nat := 0x82F63B78

/-- CRC-32C of R84. -/
def crc32c (bs : List Byte) : Word := wd (crcRun polyC 0xFFFFFFFF bs ^^^ 0xFFFFFFFF)

/-! ## Owners, resources and statuses (R24, R25, R377) -/

/-- The 3-bit owner code. -/
def ocode : Owner → Nat
  | .h0 => 0 | .h1 => 1 | .h2 => 2 | .h3 => 3 | .hs => 4 | .fab => 5 | .mc => 6 | .unowned => 7

/-- The owner of a code. -/
def ownerOf : Nat → Owner
  | 0 => .h0 | 1 => .h1 | 2 => .h2 | 3 => .h3 | 4 => .hs | 5 => .fab | 6 => .mc | _ => .unowned

/-- The 8-bit status code of Table 12.21. -/
def scode : Status → Nat
  | .ok => 0x00 | .okClamped => 0x01 | .notReady => 0x02 | .alreadyRead => 0x03 | .pending => 0x04
  | .busy => 0x10 | .xipLocked => 0x11 | .protectedRange => 0x12 | .passwordLockout => 0x13 | .sectorTorn => 0x14
  | .programFail => 0x15 | .eraseFail => 0x16 | .splitPartial => 0x17 | .rangeInvalid => 0x18
  | .badFrameAddress => 0x20 | .outOfRegion => 0x21 | .crcFail => 0x22 | .authFail => 0x23 | .keyRollFail => 0x24
  | .regionIncomplete => 0x25 | .swapAborted => 0x26 | .uncorrectableFrame => 0x28
  | .destMuzzled => 0x30 | .staleGeneration => 0x31 | .firewallDeny => 0x32 | .timeout => 0x33 | .destPoweredDown => 0x34
  | .refused => 0x40 | .retentionLost => 0x41 | .pmbusNack => 0x42 | .voutMismatch => 0x43 | .timebaseEstimated => 0x44
  | .testAborted => 0x50 | .testFail => 0x51 | .lifecycleDeny => 0x52 | .holdupAbsent => 0x53
  | .unknownCommand => 0x60 | .badParameter => 0x61 | .notOwner => 0x62 | .noLeash => 0x63
  | .podLost => 0x70 | .ringBreak => 0x71 | .internalError => 0xFF
  | .other c => c.toNat

/-- The owner of a resource, numbered as in R105: regions 0–135, field-port groups from 136, rings from 200, MAC ports
from 264, NV ranges from 280. A resource not listed is UNOWNED (R26). -/
def State.owner (s : State) (res : Nat) : Owner := SMap.get (fun _ => Owner.unowned) s.ten res

/-- Resource number of the group of a field port. -/
def resPort (n : Nat) : Nat := 136 + n / 16
/-- Resource number of a ring. -/
def resRing (r : Nat) : Nat := 200 + r
/-- Resource number of a MAC port. -/
def resMac (m : Nat) : Nat := 264 + m
/-- Resource number of an NV range. -/
def resRange (r : Nat) : Nat := 280 + r

/-- Whether a tenancy table gives an owner a resource. -/
def ownsAny (t : SMap Owner) (o : Owner) : Bool := t.any fun e => e.2 == o

/-- The lead domain (R363): the lowest of H0–H3 that owns a resource. -/
def State.lead (s : State) : Option Nat := [0, 1, 2, 3].find? fun d => ownsAny s.ten (ownerOf d)

/-- Its code, 0b111 when there is none. -/
def State.leadCode (s : State) : Nat := s.lead.getD 7

/-! ## Per-accessor registers (R475, R176) -/

/-- The number of an accessor: its owner code, 8 for JTAG. -/
def acode : Accessor → Nat
  | .dom o => ocode o
  | .jtag => 8

/-- The domain to which R29 is applied. JTAG acts with the MC's view: its reads are unfiltered (Table 17.2). -/
def adom : Accessor → Owner
  | .dom o => o
  | .jtag => .mc

/-- The key of an accessor's copy of a register instance (DEDUCED, log entry 12). -/
def copyKey (acc addr inst : Nat) : Nat := (acc * 16777216 + addr) * 1024 + inst

/-- An accessor's copy of a register (DEDUCED, log entry 12). -/
def State.copy (s : State) (acc addr inst : Nat) : Word := SMap.get (fun _ => (0 : Word)) s.copies (copyKey acc addr inst)

/-- The copies with one set. -/
def copySet (m : SMap Word) (acc addr inst : Nat) (v : Word) : SMap Word :=
  SMap.set (fun _ => (0 : Word)) m (copyKey acc addr inst) v

/-- Sets an accessor's copy. -/
def State.setCopy (s : State) (acc addr inst : Nat) (v : Word) : State :=
  { s with copies := copySet s.copies acc addr inst v }

/-- The accessors that hold copies: H0–H3, HS, FAB, MC and JTAG. -/
def accessors : List Nat := [0, 1, 2, 3, 4, 5, 6, 8]

/-- Copies with bits set in those of some accessors. -/
def copiesOr (m : SMap Word) (accs : List Nat) (addr inst : Nat) (v : Word) : SMap Word :=
  accs.foldl (fun m a => copySet m a addr inst (SMap.get (fun _ => (0 : Word)) m (copyKey a addr inst) ||| v)) m

/-- An event sets bits in every accessor's copy. -/
def State.raiseAll (s : State) (addr inst : Nat) (v : Word) : State :=
  { s with copies := copiesOr s.copies accessors addr inst v }

/-- An event sets bits in the copies of some accessors. -/
def State.raiseFor (s : State) (accs : List Nat) (addr inst : Nat) (v : Word) : State :=
  { s with copies := copiesOr s.copies accs addr inst v }

/-- A write of 1s to a copy of a W1C register clears the bits. -/
def State.clearCopy (s : State) (acc addr inst : Nat) (v : Word) : State :=
  s.setCopy acc addr inst (s.copy acc addr inst &&& ~~~ v)

/-! ## Instances of the arrays -/

def dPort : Nat → Port := fun _ => {}
def dMac : Nat → Mac := fun _ => {}
def dPci : Nat → Pci := fun _ => {}
def dPll : Nat → Pll := fun _ => {}
def dChan : Nat → Chan := fun _ => {}
def dMbx : Nat → Mbx := fun _ => {}
def dLoad : Nat → Load := fun _ => {}
def dFrame : Nat → Frame := fun _ => {}
def dRegion : Nat → Region := fun _ => {}
def dTarget : Nat → Target := fun _ => {}
def dRing : Nat → Ring := fun _ => {}
def dStn : Nat → Station := fun _ => {}
def dBytes : Nat → List Byte := fun _ => []
def dTable : Nat → RTable := fun _ => {}
/-- The attachment of Table 7.1 with which an entry of the address map resets (R195): port, column, row. -/
def attach (id : Nat) : Option (Nat × Nat × Nat) :=
  if id < 0x80 then some (0, id % 8, id / 8)
  else if id < 0x100 then
    let g := id % 64
    some (1, if g < 32 then 0 else 7, 4 * (g / 4 % 4) + g % 4)
  else if id < 0x110 then some (1, if id % 16 < 8 then 0 else 7, 4 * (id % 4))
  else if id < 0x114 then some (2, if id % 4 < 2 then 0 else 7, if id % 2 = 0 then 4 else 8)
  else if id < 0x118 then some (2, if id % 4 < 2 then 0 else 7, if id % 2 = 0 then 11 else 13)
  else if id = 0x118 then some (1, 3, 7)
  else if id = 0x119 then some (1, 3, 8)
  else if id = 0x11A then some (1, 4, 8)
  else if id = 0x11B then some (1, 4, 7)
  else none

/-- The entry of an ID as it resets (R195). -/
def dMap : Nat → MapEntry := fun id =>
  match attach id with
  | some (p, c, r) => { state := .live, port := p, col := c, row := r, phys := id }
  | none => { phys := id }
/-- What the NI of a physical instance stamps at reset. -/
def dNi : Nat → Nat × Nat := fun p => (p, 0)
def dFw : Nat → FwWin := fun _ => {}
def dXlt : Nat → Xlt := fun _ => {}
def dQuad : Nat → Quad := fun _ => {}
def dLane : Nat → Lane := fun _ => {}
def dBank : Nat → Bank := fun _ => {}
def dNvQ : Nat → NvQ := fun _ => {}
def dRange : Nat → NvRange := fun _ => {}
def dBandP : Nat → BandP := fun _ => {}
def dRail : Nat → Rail := fun _ => {}
def dScrB : Nat → ScrBand := fun _ => {}
/-- The schedule as it resets: entries 0–55 empty, 56–63 the default sweeps of Table 15.3; a budget of 0 stands for
BIST_SLICE. -/
def dBstE : Nat → BstEntry := fun k =>
  if 56 ≤ k && k < 64 then
    { enable := true, test := k - 55, target := 0xFFFFFF,
      period := [100, 100, 1000, 1000, 10000, 100, 1000, 1000].getD (k - 56) 1000 }
  else {}
def dReport : Nat → Report := fun _ => {}
def dNat : Nat → Nat := fun _ => 0
def dWord : Nat → Word := fun _ => 0
def dWords : Nat → List Word := fun _ => []
def dOwner : Nat → Owner := fun _ => .unowned
def dNone {α : Type} : Nat → Option α := fun _ => none

def State.portOf (s : State) (n : Nat) : Port := SMap.get dPort s.port n
def State.setPort (s : State) (n : Nat) (p : Port) : State := { s with port := SMap.set dPort s.port n p }
def State.macOf (s : State) (n : Nat) : Mac := SMap.get dMac s.mac n
def State.setMac (s : State) (n : Nat) (m : Mac) : State := { s with mac := SMap.set dMac s.mac n m }
def State.pciOf (s : State) (n : Nat) : Pci := SMap.get dPci s.pci n
def State.setPci (s : State) (n : Nat) (p : Pci) : State := { s with pci := SMap.set dPci s.pci n p }
def State.mbxOf (s : State) (d : Nat) : Mbx := SMap.get dMbx s.mc.mbx d
def State.setMbx (s : State) (d : Nat) (m : Mbx) : State :=
  { s with mc := { s.mc with mbx := SMap.set dMbx s.mc.mbx d m } }
def State.loadOf (s : State) (n : Nat) : Load := SMap.get dLoad s.cfg.loads n
def State.setLoad (s : State) (n : Nat) (l : Load) : State :=
  { s with cfg := { s.cfg with loads := SMap.set dLoad s.cfg.loads n l } }
def State.frameOf (s : State) (k : Nat) : Frame := SMap.get dFrame s.cfg.frames k
def State.setFrame (s : State) (k : Nat) (f : Frame) : State :=
  { s with cfg := { s.cfg with frames := SMap.set dFrame s.cfg.frames k f } }
def State.regionOf (s : State) (r : Nat) : Region := SMap.get dRegion s.cfg.regions r
def State.setRegion (s : State) (r : Nat) (g : Region) : State :=
  { s with cfg := { s.cfg with regions := SMap.set dRegion s.cfg.regions r g } }
def State.targetOf (s : State) (t : Nat) : Target := SMap.get dTarget s.cfg.targets t
def State.setTarget (s : State) (t : Nat) (g : Target) : State :=
  { s with cfg := { s.cfg with targets := SMap.set dTarget s.cfg.targets t g } }
def State.ringOf (s : State) (r : Nat) : Ring := SMap.get dRing s.uan.rings r
def State.setRing (s : State) (r : Nat) (g : Ring) : State :=
  { s with uan := { s.uan with rings := SMap.set dRing s.uan.rings r g } }
def State.tableOf (s : State) (t : Nat) : RTable := SMap.get dTable s.rfx.tables t
def State.setTable (s : State) (t : Nat) (g : RTable) : State :=
  { s with rfx := { s.rfx with tables := SMap.set dTable s.rfx.tables t g } }
def State.mapOf (s : State) (e : Nat) : MapEntry := SMap.get dMap s.noc.map e
def State.setMap (s : State) (e : Nat) (m : MapEntry) : State :=
  { s with noc := { s.noc with map := SMap.set dMap s.noc.map e m } }
def State.pllOf (s : State) (p : Nat) : Pll := SMap.get dPll s.clk.plls p
def State.setPll (s : State) (p : Nat) (g : Pll) : State :=
  { s with clk := { s.clk with plls := SMap.set dPll s.clk.plls p g } }
def State.chanOf (s : State) (c : Nat) : Chan := SMap.get dChan s.smn.chans c
def State.setChan (s : State) (c : Nat) (g : Chan) : State :=
  { s with smn := { s.smn with chans := SMap.set dChan s.smn.chans c g } }
def State.bankOf (s : State) (b : Nat) : Bank := SMap.get dBank s.nv.banks b
def State.setBank (s : State) (b : Nat) (g : Bank) : State :=
  { s with nv := { s.nv with banks := SMap.set dBank s.nv.banks b g } }
def State.qOf (s : State) (q : Nat) : NvQ := SMap.get dNvQ s.nv.qs q
def State.setQ (s : State) (q : Nat) (g : NvQ) : State :=
  { s with nv := { s.nv with qs := SMap.set dNvQ s.nv.qs q g } }
def State.rangeOf (s : State) (r : Nat) : NvRange := SMap.get dRange s.nv.ranges r
def State.setRange (s : State) (r : Nat) (g : NvRange) : State :=
  { s with nv := { s.nv with ranges := SMap.set dRange s.nv.ranges r g } }
def State.bandOf (s : State) (b : Nat) : BandP := SMap.get dBandP s.pwr.bands b
def State.setBand (s : State) (b : Nat) (g : BandP) : State :=
  { s with pwr := { s.pwr with bands := SMap.set dBandP s.pwr.bands b g } }
def State.railOf (s : State) (r : Nat) : Rail := SMap.get dRail s.pwr.rails r
def State.setRail (s : State) (r : Nat) (g : Rail) : State :=
  { s with pwr := { s.pwr with rails := SMap.set dRail s.pwr.rails r g } }
def State.scrOf (s : State) (b : Nat) : ScrBand := SMap.get dScrB s.scr.bands b
def State.setScr (s : State) (b : Nat) (g : ScrBand) : State :=
  { s with scr := { s.scr with bands := SMap.set dScrB s.scr.bands b g } }
def State.quadOf (s : State) (q : Nat) : Quad := SMap.get dQuad s.xcv.quads q
def State.setQuad (s : State) (q : Nat) (g : Quad) : State :=
  { s with xcv := { s.xcv with quads := SMap.set dQuad s.xcv.quads q g } }
def State.laneOf (s : State) (l : Nat) : Lane := SMap.get dLane s.xcv.lanes l
def State.setLane (s : State) (l : Nat) (g : Lane) : State :=
  { s with xcv := { s.xcv with lanes := SMap.set dLane s.xcv.lanes l g } }

/-- Adds an output of the command. -/
def State.emit (s : State) (o : Out) : State := { s with out := s.out ++ [o] }

/-- Takes one free value (DESIGN CHOICE, log entry 5). -/
def State.takeFree (s : State) : State := { s with free := s.free + 1 }

/-- Free bytes (log entry 5). -/
def freeBytes (s : State) (n : Nat) : List Byte := (List.range n).map fun i => (Config.freeBits (s.free + i)).setWidth 8

/-! ## The device timebase (R252) -/

/-- The DTB in ns. -/
def State.now (s : State) : Nat := s.tbs.dtb >>> 44

/-- The DTB in 1/16 ns. -/
def State.now16 (s : State) : Nat := s.tbs.dtb >>> 40

/-! ## Reports (R371, R372) -/

/-- Adds an entry to a report that holds at most `cap`; the oldest is discarded and counted as lost. -/
def Report.push (cap : Nat) (r : Report) (e : REntry) : Report :=
  if r.es.length < cap then { r with es := r.es ++ [e] }
  else { es := r.es.drop 1 ++ [e], lost := r.lost + 1, seq0 := r.seq0 + 1 }

/-- Posts an entry to one domain's event report and sets its HMB.INT_STATUS.report. -/
def mcPost (e : REntry) (m : Mc) (d : Nat) : Mc :=
  let b := SMap.get dMbx m.mbx d
  { m with events := SMap.set dReport m.events d (Report.push 1024 (SMap.get dReport m.events d) e)
           mbx := SMap.set dMbx m.mbx d { b with intSt := b.intSt ||| 4#32 } }

/-- Posts an entry to the event reports of some domains, 0–3 for H0–H3 and 4 for HS. FAB and the MC have none. -/
def State.post (s : State) (ds : List Nat) (block : Nat) (st : Status) (kind detail object : Nat) : State :=
  let e : REntry := { block, status := st, kind, detail, object := wd object, t := s.now }
  { s with mc := (ds.filter (· < 5)).foldl (mcPost e) s.mc }

/-- Posts to every domain among H0–H3 and to HS. -/
def allDomains : List Nat := [0, 1, 2, 3, 4]

/-- Adds an entry to the policy report. -/
def State.policy (s : State) (st : Status) (loop item value : Nat) : State :=
  let e : REntry := { block := 0, status := st, kind := loop, detail := item, object := wd value, t := s.now }
  { s with mc := { s.mc with policy := Report.push 512 s.mc.policy e } }

/-! ## Interrupts (R343, R360, R479) -/

/-- An MSI-X vector is sent, or pends while it is masked or MSI-X is disabled (R343). -/
def pciVector (p v : Nat) (c : Pci) : Pci × List Out :=
  if c.msixEn && !c.mask.getLsbD v then
    (c, [.tlp p true 0 ((SMap.get dWord c.msix (4 * v)).toNat + (SMap.get dWord c.msix (4 * v + 1)).toNat * 4294967296) 4
          (leBytes 4 (SMap.get dWord c.msix (4 * v + 2)).toNat)])
  else ({ c with pba := c.pba ||| (1#64 <<< v) }, [])

/-- Raises a vector of PCI_p (DEDUCED, log entry 49). -/
def State.vector (s : State) (p v : Nat) : State :=
  let r := pciVector p v (s.pciOf p)
  { s with pci := SMap.set dPci s.pci p r.1, out := s.out ++ r.2 }

/-- The (status, enable) register pairs that accessors hold copies of, by the block's page (R479). -/
def intPairs : List (Nat × Nat × Nat) :=
  [(2, 0x2005C, 0x20060), (3, 0x30040, 0x30044), (4, 0x40074, 0x40078), (5, 0x50048, 0x5004C), (6, 0x60038, 0x6003C),
   (8, 0x8004C, 0x80050), (9, 0x9001C, 0x90020), (12, 0xC0030, 0xC0034), (14, 0xE002C, 0xE0030),
   (15, 0xF0028, 0xF002C), (16, 0x100020, 0x100024), (17, 0x110020, 0x110024), (18, 0x120020, 0x120024),
   (19, 0x130028, 0x13002C)]

/-- Bit 7 (FPE): an owned port has an event bit set and enabled; the late bit is the accessor's own view (R251). -/
def portPending (s : State) (a : Nat) (n : Nat) (p : Port) : Bool :=
  ((p.int ||| s.copy a 0x7003C n) &&& wd (wf p.cfg 23 16)) != 0

/-- The ports that may have an event: those listed (an unlisted port has none). -/
def fpePending (s : State) (acc : Accessor) : Bool :=
  s.port.any fun e => (adom acc == .mc || s.owner (resPort e.1) == adom acc) && portPending s (acode acc) e.1 e.2

/-- GLB.INT_SUMMARY as an accessor reads it (Table 17.5). -/
def State.summary (s : State) (acc : Accessor) : Nat :=
  let a := acode acc
  let fixed := intPairs.foldl (fun n (b, st, en) => if (s.copy a st 0 &&& s.copy a en 0) != 0 then n ||| (1 <<< b) else n) 0
  let hmb := (List.range 5).any fun d => (adom acc == .mc || ocode (adom acc) == d) &&
    ((s.mbxOf d).intSt &&& (s.mbxOf d).intEn) != 0
  let pci := (List.range 4).any fun p => (s.copy a 0xA0040 p &&& s.copy a 0xA0044 p) != 0
  let eth := (List.range 16).any fun m => (s.copy a 0xB0064 m &&& s.copy a 0xB0068 m) != 0
  fixed + (if hmb then 2 else 0) + (if fpePending s acc then 128 else 0) + (if pci then 1024 else 0) +
    (if eth then 2048 else 0)

/-- The conditions that assert ALERT_N (R360) (DEDUCED, log entry 49). -/
def State.alert (s : State) : Bool :=
  let m := s.mbxOf 4
  m.cplTail != m.cplHead || (m.intSt &&& m.intEn) != 0 || s.mc.halted || s.mc.thCrit

/-! ## The slave parallel port (R125) -/

/-- Words of the stream FIFO and of an ICP's input FIFO (R124, R153). -/
def fifoWords : Nat := 4096

/-- A supply of a bank is within ±10 % of a level in mV (R233). -/
def atLevel (mv n : Nat) : Bool := 9 * n ≤ 10 * mv && 10 * mv ≤ 11 * n

/-- VCCIO_0 permits the slave parallel port: 1.8 V, 2.5 V or 3.3 V (R112, R125). -/
def sppLevel (vccio : List Nat) : Bool := [1800, 2500, 3300].any fun n => atLevel (vccio.getD 0 0) n

/-- Pins of bank 0 carry the slave parallel port: from t0 to OUTPUTS_RELEASE in slave parallel mode (R125, Table 4.7). -/
def sppPort (s : State) : Bool :=
  s.boot.cfgMode == 2 && !s.boot.released && s.boot.suppliesOk &&
    (s.boot.phase == .booting || s.boot.phase == .waitImage || s.boot.phase == .startupHeld || s.boot.phase == .running ||
      s.boot.phase == .unconfigured || s.boot.phase == .denied)

/-- SPP_WAIT is high while the stream FIFO is full (R124, R125). -/
def sppWait (s : State) : Bool := decide (fifoWords ≤ (s.loadOf 16).fifo.length)

/-- What pin FP_0034 shows: SPP_WAIT while bank 0 carries the port, else what its port drives. -/
def sppPin (s : State) : Pin := if sppPort s then (if sppWait s then .high else .low) else (s.portOf 34).pin

/-- A change of FP_0034 that SPP_WAIT makes, from the state `a` before a command. -/
def sppDrive (a s : State) : State :=
  if sppPin a != sppPin s && (sppPort s || sppPort a && (s.portOf 34).pin == .z) then
    s.emit (.wire "FP" 34 (match sppPin s with | .low => 0 | .high => 1 | .z => 2))
  else s

/-- A full-mode test has taken a target out of service (R452). -/
def outOfService (s : State) (test target : Nat) : Bool :=
  s.bst.slices.any fun e => match e.2 with | some x => x.test == test && x.target == target | none => false

/-- What follows a command that took `s` to `t`: SPP_WAIT, and the interrupts, vector 1 of each host whose summary became non-zero
(R125, R343, R479). -/
def interrupts (s t : State) : State :=
  (List.range 4).foldl (fun u p =>
    if s.summary (.dom (ownerOf p)) == 0 && t.summary (.dom (ownerOf p)) != 0 then u.vector p 1 else u) (sppDrive s t)

/-- The outcome of a command with an effect `f`: the outputs of the command before are gone, the effect happens, and
the interrupts it calls for are raised. -/
def done (f : State → State) (s : State) : Host.Outcome State Fault Refusal :=
  .next (interrupts s (f { s with out := [] }))

end Sys2Proof.Machine
end

