-- ==== Sys2Proof/Machine/Geometry.lean ====
section
/-! DEFINITION. Where things lie: column types, frame addresses, region windows (R16–R21, R78–R83, R139–R141). -/
namespace Sys2Proof.Machine
open Sys2Proof

/-- The column types of Table 3.1. -/
inductive ColKind where
  | logic | ram | dsp | io | xcv | spine
  deriving DecidableEq, Repr

/-- Unit and offset of a unit column (R18). -/
def unitOf (col : Nat) : Nat × Nat :=
  if col < 279 then ((col - 3) / 23, (col - 3) % 23) else (12 + (col - 280) / 23, (col - 280) % 23)

/-- The type of a column (Table 1.1, R18). -/
def colKind (col : Nat) : ColKind :=
  if col = 0 || col = 558 then .xcv
  else if col = 1 || col = 2 || col = 556 || col = 557 then .io
  else if col = 279 then .spine
  else if (unitOf col).2 = 0 then .ram
  else if (unitOf col).2 = 1 && (unitOf col).1 % 3 != 2 then .dsp
  else .logic

/-- Frames per column and band, content frames among them (Table 3.1). -/
def frameCount (col : Nat) : Nat :=
  match colKind col with
  | .logic => 40 | .ram => 168 | .dsp => 28 | .io => 48 | .xcv => 32 | .spine => 64

/-- A content frame: minors 24–167 of a RAM column. -/
def isContent (key : Nat) : Bool := colKind (bf key 17 8) == .ram && 24 ≤ bf key 7 0

/-- A frame that swaps flip: a configuration frame, and not a canary (R136, R188). -/
def flippable (key : Nat) : Bool := !isContent key && bf key 7 0 < frameCount (bf key 17 8)

/-- Band, column and minor of a frame key: bits [29:8] of its address (Table 3.2). -/
def keyBand (key : Nat) : Nat := bf key 21 18
def keyCol (key : Nat) : Nat := bf key 17 8
def keyMinor (key : Nat) : Nat := bf key 7 0
def frameKey (band col minor : Nat) : Nat := (band * 1024 + col) * 256 + minor

/-- The frame address of a key, with its role bit. -/
def farWord (key : Nat) (active : Bool) : Nat := key * 256 + (if active then 0x40000000 else 0)

/-- Whether an address in a stream names a frame (R81, R82). -/
def farValid (w : Word) : Bool :=
  wf w 31 30 == 0 && wf w 7 0 == 0 && wf w 25 16 ≤ 558 && wf w 15 8 < frameCount (wf w 25 16)

/-- The frame after a frame in the same band (R83); none past the last minor of column 558. -/
def nextFrame (key : Nat) : Option Nat :=
  if keyMinor key + 1 < frameCount (keyCol key) then some (key + 1)
  else if keyCol key < 558 then some (frameKey (keyBand key) (keyCol key + 1) 0)
  else none

/-- The canary frame of a band (R79). -/
def canaryKey (band : Nat) : Nat := frameKey band 279 255

/-! ## Regions -/

/-- The rectangle of a sealed region (R21), in the layout of Table 3.6. -/
def sealRect (i : Nat) : Word :=
  let band := if i < 4 then 0 else 15
  let c := [(3, 140), (141, 278), (280, 417), (418, 555)].getD (i % 4) (0, 0)
  wd (band * 0x10000000 + band * 0x1000000 + c.2 * 1024 + c.1)

/-- The rectangles of a region's window. -/
def State.rects (s : State) (r : Nat) : List Word := if r < 128 then (s.regionOf r).window else [sealRect (r - 128)]

/-- Whether an intersection lies in a rectangle. -/
def inRect (w : Word) (band col : Nat) : Bool :=
  wf w 27 24 ≤ band && band ≤ wf w 31 28 && wf w 9 0 ≤ col && col ≤ wf w 19 10

/-- Whether an intersection lies in a window. -/
def inRects (ws : List Word) (band col : Nat) : Bool := ws.any fun w => inRect w band col

/-- The regions with a window: the listed soft ones and the sealed ones. -/
def State.windowed (s : State) : List Nat :=
  ((s.cfg.regions.filter fun e => e.1 < 128 && !e.2.window.isEmpty).map (·.1)) ++ [128, 129, 130, 131, 132, 133, 134, 135]

/-- The region of an intersection, if any (R139). -/
def State.regionAt (s : State) (band col : Nat) : Option Nat :=
  s.windowed.find? fun r => inRects (s.rects r) band col

/-- The region of a frame. -/
def State.frameRegion (s : State) (key : Nat) : Option Nat := s.regionAt (keyBand key) (keyCol key)

/-- The boundary latches of a region hold: in a swap cycle, while it is isolated, or under host-loss policy SAFE (R143, Table 11.8;
DESIGN CHOICE, log entry 76). -/
def State.latches (s : State) (r : Nat) : Bool := (s.regionOf r).hold || (s.regionOf r).isolated || (s.regionOf r).safeDec

/-- The latches of the region of an intersection hold. -/
def latchAt (s : State) (band col : Nat) : Bool := (s.regionAt band col).any s.latches

/-- A member of a whole-device swap has not reached its E1 (R173). -/
def deviceSwaps (s : State) : Bool := !(s.targetOf 15).pending.isEmpty

/-- In a whole-device swap the static design is member 255. -/
def staticMember : Nat := 255

/-- Whether an intersection belongs to a member of a target whose swap has been decided: its window, in a whole-device swap that of the
image that ran until T'; to the static design belongs what lies in no such window (R173). -/
def memberArea (s : State) (t r band col : Nat) : Bool :=
  let win (r : Nat) : List Word := if r < 128 then SMap.get (fun _ => ([] : List Word)) s.cfg.staged.wins r else [sealRect (r - 128)]
  if t != 15 then inRects (s.rects r) band col
  else if r = staticMember then !(s.targetOf 15).members.any fun x => x != staticMember && inRects (win x) band col
  else inRects (win r) band col

/-- The bands that a window touches, ascending. -/
def rectBands (ws : List Word) : List Nat :=
  (List.range 16).filter fun b => ws.any fun w => wf w 27 24 ≤ b && b ≤ wf w 31 28

/-- The intersections of a window are in at most four rectangles of bands 1–14 and unit columns (R140). -/
def rectLegal (w : Word) : Bool :=
  1 ≤ wf w 27 24 && wf w 31 28 ≤ 14 &&
    ((3 ≤ wf w 9 0 && wf w 19 10 ≤ 278) || (280 ≤ wf w 9 0 && wf w 19 10 ≤ 555))

/-- Whether two rectangles share an intersection. -/
def rectsMeet (a b : Word) : Bool :=
  wf a 27 24 ≤ wf b 31 28 && wf b 27 24 ≤ wf a 31 28 && wf a 9 0 ≤ wf b 19 10 && wf b 9 0 ≤ wf a 19 10

/-! ## The places of hard resources (R17–R20, Table 15.1) -/

/-- The band of a block RAM 128u + 8b + k. -/
def ramBand (n : Nat) : Nat := n % 128 / 8
/-- The column of a block RAM. -/
def ramCol (n : Nat) : Nat := let u := n / 128; if u < 12 then 3 + 23 * u else 280 + 23 * (u - 12)
/-- The band of a DSP block 256d + 16b + k. -/
def dspBand (n : Nat) : Nat := n % 256 / 16
/-- The column of a DSP block: DSP column d is the second column of the d-th unit that has one. -/
def dspCol (n : Nat) : Nat :=
  let d := n / 256; let u := 3 * (d / 2) + d % 2; (if u < 12 then 3 + 23 * u else 280 + 23 * (u - 12)) + 1
/-- The band and column of a tile. -/
def tileBand (n : Nat) : Nat := n / 64 / 559
def tileCol (n : Nat) : Nat := n / 64 % 559

/-- Words of an active or shadow plane, 128 of them: a plane that nothing has written holds zeros. -/
def planeWords (p : Plane) : List Word := if p.payload.isEmpty then List.replicate 128 0 else p.payload

/-- Configuration word j of a payload (R77). -/
def cfgWord (ws : List Word) (j : Nat) : BitVec 128 :=
  nth ws (4 * j + 3) ++ nth ws (4 * j + 2) ++ nth ws (4 * j + 1) ++ nth ws (4 * j)

/-- The stream words of a configuration word. -/
def streamWords (w : BitVec 128) : List Word := (List.range 4).map fun k => w.extractLsb' (32 * k) 32

/-- The upset cells of configuration word j. -/
def flipsAt (p : Plane) (j : Nat) : List Nat := (p.flips.filter fun x => x / 137 == j).map (· % 137)

/-- The data cells of configuration word j, and its nine check cells (R76). -/
def dataCells (p : Plane) (j : Nat) : BitVec 128 :=
  ((flipsAt p j).filter (· < 128)).foldl (fun w i => w ^^^ (1#128 <<< i)) (cfgWord (planeWords p) j)
def checkCells (p : Plane) (j : Nat) : BitVec 9 :=
  ((flipsAt p j).filter (128 ≤ ·)).foldl (fun c i => c ^^^ (1#9 <<< (i - 128))) (checkBits cfgCols (cfgWord (planeWords p) j))

/-- The payload as its cells stand. -/
def planeRaw (p : Plane) : List Word :=
  if p.flips.isEmpty then p.payload else (List.range 32).flatMap fun j => streamWords (dataCells p j)

/-- Configuration word j decoded with its check cells (R507): the data, whether an error was corrected, whether one cannot be. One
upset cell is corrected and two are not, whatever the columns of the code; more decode as the columns give. -/
def decodeAt (p : Plane) (j : Nat) : BitVec 128 × Bool × Bool :=
  match flipsAt p j with
  | [] => (cfgWord (planeWords p) j, false, false)
  | [_] => (cfgWord (planeWords p) j, true, false)
  | [_, _] => (dataCells p j, false, true)
  | _ => secDed cfgCols (dataCells p j) (checkCells p j)

/-- The words in error, each with whether it was corrected. -/
def planeErrs (p : Plane) : List (Nat × Bool) :=
  if p.flips.isEmpty then []
  else (List.range 32).filterMap fun j =>
    if (decodeAt p j).2.2 then some (j, false) else if (decodeAt p j).2.1 then some (j, true) else none

/-- The payload that a band port reads: decoded, an uncorrectable word as it stands (R507). -/
def planeRead (p : Plane) : List Word :=
  if p.flips.isEmpty then planeWords p else (List.range 32).flatMap fun j => streamWords (decodeAt p j).1

/-- A read found a word that the check bits cannot correct. -/
def planeBad (p : Plane) : Bool := (planeErrs p).any fun e => !e.2

/-- A cell is upset: it changes. -/
def flipCell (p : Plane) (i : Nat) : Plane :=
  { p with flips := if p.flips.contains i then p.flips.erase i else i :: p.flips }

/-- The active and the shadow plane of a frame (R135). A content frame has plane A alone. -/
def Frame.active (f : Frame) : Plane := if f.actB then f.b else f.a
def Frame.shadowPlane (f : Frame) : Plane := if f.actB then f.a else f.b

/-- The frame with one plane replaced: the active one or the shadow. -/
def Frame.setPlane (f : Frame) (active : Bool) (p : Plane) : Frame :=
  if f.actB == active then { f with b := p } else { f with a := p }

/-- The logic column beside the NI of router column c (R208). -/
def niCol (c : Nat) : Nat := [28, 97, 166, 235, 305, 374, 443, 512].getD c 0

/-! ## The design that the active frames configure (R77, R78, R263) -/

/-- The payloads that drive the fabric: those of the active planes, as their cells stand, and those of the spine and periphery of a band
in OFF, which its power state does not touch (R234, R412). -/
def activeFrames (s : State) : SMap (List Word) :=
  ((s.cfg.frames.filter fun e => !(planeRaw e.2.active).isEmpty && !s.cfg.held.any fun h => h.1 == e.1).map fun e =>
    (e.1, planeRaw e.2.active)) ++ s.cfg.held

/-- The frames of some places, each by the number that `f` gives it. -/
def framesOf (fs : SMap (List Word)) (f : Nat → Option Nat) : SMap (List Word) :=
  fs.filterMap fun e => (f e.1).map fun k => (k, e.2)

/-- The frames of an intersection by minor. -/
def framesAt (fs : SMap (List Word)) (band col : Nat) : SMap (List Word) :=
  framesOf fs fun k => if keyBand k = band && keyCol k = col then some (keyMinor k) else none

/-- The I/O column of a bank (Table 1.1): banks 4j to 4j + 3 lie in the j-th of them, each beside four bands. -/
def bankCol (bank : Nat) : Nat := [1, 2, 556, 557].getD (bank / 4) 0

/-- The frames of a bank. -/
def framesBank (fs : SMap (List Word)) (bank : Nat) : SMap (List Word) :=
  framesOf fs fun k => if keyCol k = bankCol bank && keyBand k / 4 = bank % 4 then some (k % 0x100000) else none

/-- The frames of a quad (R20). -/
def framesQuad (fs : SMap (List Word)) (q : Nat) : SMap (List Word) :=
  framesOf fs fun k => if keyCol k = (if q < 6 then 0 else 558) && keyBand k / 2 = q % 6 + 1 then some (k % 0x80000) else none

/-- Sets entries of a sparse array. -/
def setAll {α : Type} [DecidableEq α] (d : Nat → α) (es : List (Nat × α)) : SMap α :=
  es.foldl (fun m e => SMap.set d m e.1 e.2) []

/-- What the frames of the intersections of some kinds configure, `n` objects each, numbered by `f`. -/
def perPlace {α : Type} [DecidableEq α] (fs : SMap (List Word)) (kind : ColKind) (n : Nat) (d : Nat → α)
    (f : Nat → Nat → Nat → Nat) (g : Nat → SMap (List Word) → α) : SMap α :=
  setAll d ((((fs.map fun e => e.1 / 256).eraseDups).filter fun i => colKind (i % 1024) == kind).flatMap fun i =>
    (List.range n).map fun k => (f (i / 1024) (i % 1024) k, g k (framesAt fs (i / 1024) (i % 1024))))

/-- The index of a unit's DSP column. -/
def dspColumn (col : Nat) : Nat := (unitOf col).1 / 3 * 2 + (unitOf col).1 % 3

/-- Whether a list of frames has one of a place. -/
def someFrames (m : SMap (List Word)) : Bool := !m.isEmpty

/-- The design that some active frames configure. Each object depends on the frames of its own place alone; a place without a frame
configures nothing. -/
def designOf (fs : SMap (List Word)) : Design :=
  let banks := (List.range 16).filter fun k => someFrames (framesBank fs k)
  let quads := (List.range 12).filter fun q => someFrames (framesQuad fs q)
  let spine := fun b => framesAt fs b 279
  let spines := framesOf fs fun k => if keyCol k = 279 then some k else none
  let tabs := (List.range 128).filter fun t => someFrames (framesAt fs (t / 8) (niCol (t % 8)))
  let ramW := (((fs.map fun e => e.1 / 256).eraseDups).filter fun i => colKind (i % 1024) == .ram).flatMap fun i =>
    (List.range 8).flatMap fun k =>
      (Config.ramWordsOf k ((framesAt fs (i / 1024) (i % 1024)).filter fun e => 24 ≤ e.1)).map fun w =>
        (((unitOf (i % 1024)).1 * 128 + i / 1024 * 8 + k) * 2048 + w.1 % 2048, w.2)
  { tiles := perPlace fs .logic 64 (fun _ => {}) (fun b c k => (b * 559 + c) * 64 + k) Config.tileOf
    rams := perPlace fs .ram 8 (fun _ => {}) (fun b c k => (unitOf c).1 * 128 + b * 8 + k)
      (fun k m => Config.ramOf k (m.filter fun e => e.1 < 24))
    ramInit := setAll (fun _ => 0) ramW
    dsps := perPlace fs .dsp 16 (fun _ => {}) (fun b c k => dspColumn c * 256 + b * 16 + k) Config.dspOf
    nets := setAll (fun _ => NetDriver.none)
      ((if someFrames spines then (List.range 64).map fun n => (n, Config.gnetOf n spines) else []) ++
        ((List.range 16).filter fun b => someFrames (spine b)).flatMap fun b =>
          (List.range 24).map fun n => (64 + 24 * b + n, Config.rnetOf n (spine b)))
    ports := setAll (fun _ => {}) (banks.flatMap fun k =>
      (List.range 64).map fun i => (64 * k + i, Config.portOf i (framesBank fs k)))
    portFrom := setAll (fun _ => none) (banks.flatMap fun k =>
      (List.range 64).map fun i => (64 * k + i, Config.portFromOf i (framesBank fs k)))
    iso := setAll (fun _ => Iso.hold)
      ((if someFrames (spine 0) then Config.isoOf (spine 0) else []) ++
        if someFrames (spine 15) then Config.isoOf (spine 15) else [])
    tables := setAll (fun _ => {}) (tabs.map (fun t => (t, Config.fabricTableOf (framesAt fs (t / 8) (niCol (t % 8))))) ++
      banks.map fun k => (0x100 + k, Config.bankTableOf (framesBank fs k)))
    quads := setAll (fun _ => .pci) (quads.map fun q => (q, Config.quadOf (framesQuad fs q)))
    lanes := setAll (fun _ => {}) (quads.flatMap fun q =>
      (List.range 4).map fun i => (4 * q + i, Config.laneOf i (framesQuad fs q)))
    ethMode := setAll (fun _ => 0) (([4, 5, 10, 11].zipIdx.filter fun q => quads.contains q.1).map fun q =>
      (q.2, Config.ethModeOf (framesQuad fs q.1))) }

/-- The active frames have changed, and with them the design in force (DESIGN CHOICE, log entry 4). -/
def State.refresh (s : State) : State := { s with design := designOf (activeFrames s) }

end Sys2Proof.Machine
end

