-- ==== Sys2Proof/Machine/CfgRegs.lean ====
section
/-! DEFINITION. The configuration registers of Table 3.9 and their field checks (R106–R109), and the policy parameters
of Table 12.14 that start from them. -/
namespace Sys2Proof.Machine
open Sys2Proof

/-- Defaults of Table 3.9. The per-band RCLK_EN values stand at 0x10000 + band. -/
def cfgDefault (addr : Nat) : Word :=
  match addr with
  | 0x0000 => 0x14096B3D
  | 0x0002 => 0x00543201
  | 0x0009 => 0x80000100
  | 0x000A => 0x00140000
  | 0x000B => 0x00000200
  | 0x0050 => 100
  | 0x0051 => 1000
  | 0x0052 => 0x55
  | 0x0053 => 5
  | 0x0054 => 3568
  | 0x0055 => 50
  | 0x0056 => 3
  | _ => 0

/-- The applied value of a configuration register. -/
def State.cfgReg (s : State) (addr : Nat) : Word := SMap.get cfgDefault s.cfg.regs addr

/-- A clamped field: low bit, requested and applied values. -/
abbrev FieldClamp := Nat × Nat × Nat

/-- A bound on a field: its nearest value in a range (Table 3.9). -/
def nearest (lo hi v : Nat) : Nat := if v < lo then lo else if hi < v then hi else v

/-- Replaces bits [hi:lo] of a word. -/
def setBits (w : Word) (hi lo v : Nat) : Word :=
  let m := 2 ^ (hi + 1) - 2 ^ lo
  (w &&& ~~~ wd m) ||| wd (v * 2 ^ lo % 2 ^ (hi + 1))

/-- Applies a field's clamp to a value and notes it. -/
def clampField (hi lo : Nat) (f : Nat → Nat) (x : Word × List FieldClamp) : Word × List FieldClamp :=
  let v := wf x.1 hi lo
  if f v = v then x else (setBits x.1 hi lo (f v), x.2 ++ [(lo, v, f v)])

/-- A start-up phase field: 1–8, or 8. `zero` says whether 0 omits the event (Table 3.10). -/
def phaseClamp (zero : Bool) (v : Nat) : Nat := if (v = 0 && zero) || (1 ≤ v && v ≤ 8) then v else 8

/-- The owners that R24 and R25 permit for a resource of a type (Table 3.11). -/
def ownerPermitted (type index o : Nat) : Bool :=
  o == 7 || (match type with
    | 0 => if index ≤ 127 then o < 4 || o == 5 else o < 4
    | 4 => o < 6
    | _ => o < 4 || o == 5)

/-- The resource number of a TEN_ENTRY, none beyond the type's range. -/
def tenResource (type index : Nat) : Option Nat :=
  match type with
  | 0 => if index ≤ 135 then some index else none
  | 1 => if index ≤ 63 then some (136 + index) else none
  | 2 => if index ≤ 63 then some (200 + index) else none
  | 3 => if index ≤ 15 then some (264 + index) else none
  | 4 => if index ≤ 31 then some (280 + index) else none
  | _ => none

/-- What a SETREG of a value does: none aborts (R106); otherwise the value applied and the clamps made. `idc` is the
manifest's expected IDCODE, `own` the region of a partial image. -/
def checkReg (idc : Word) (own : Option Nat) (addr : Nat) (w : Word) : Option (Word × List FieldClamp) :=
  match addr with
  | 0x0000 => if own.isNone && w == 0x14096B3D && w == idc then some (w, []) else none
  | 0x0001 => some (w, [])
  | 0x0031 =>
    if wf w 31 24 > 135 || wf w 23 20 == 15 || wf w 18 12 ≥ 0x58 || (match own with | some r => wf w 31 24 != r | none => false)
    then none else some (w &&& 0xFFFFF000, [])
  | _ =>
    if own.isSome then none
    else match addr with
    | 0x0002 => some (((w &&& 0x00FFFFFF, []) : Word × List FieldClamp)
        |> clampField 3 0 (phaseClamp true) |> clampField 7 4 (phaseClamp true)
        |> clampField 11 8 (phaseClamp false) |> clampField 15 12 (phaseClamp false)
        |> clampField 19 16 (phaseClamp false) |> clampField 23 20 (phaseClamp false))
    | 0x0008 => some (w &&& 0x1F, [])
    | 0x0009 => some (clampField 9 8 (fun v => if v = 3 then 1 else v) (w &&& 0xC07F0301, []))
    | 0x000A => some (clampField 24 16 (nearest 4 320) (w &&& 0x01FF3F00, []))
    | 0x000B => if wf w 2 0 = 7 then none else some (clampField 16 8 (nearest 2 256) (w &&& 0x8FF1FF07, []))
    | 0x000C => some (w, [])
    | 0x000D => some (w, [])
    | 0x000E => some (w &&& 0x0FFFFFFF, [])
    | 0x0010 => some (clampField 1 0 (fun v => if v = 3 then 0 else v) (w &&& 0xF3, []))
    | 0x0030 =>
      match tenResource (wf w 31 28) (wf w 15 8) with
      | none => none
      | some _ => some (clampField 2 0 (fun o => if ownerPermitted (wf w 31 28) (wf w 15 8) o then o else 7)
          (w &&& 0xF000FF07, []))
    | 0x0050 => some (clampField 23 0 (nearest 5 10000) (w &&& 0xFFFFFF, []))
    | 0x0051 => some (clampField 23 0 (nearest 1 10000) (w &&& 0xFFFFFF, []))
    | 0x0052 => some (((w &&& 0xFF, []) : Word × List FieldClamp)
        |> clampField 1 0 (fun v => if v = 3 then 1 else v) |> clampField 3 2 (fun v => if v = 3 then 1 else v)
        |> clampField 5 4 (fun v => if v = 3 then 1 else v) |> clampField 7 6 (fun v => if v = 3 then 1 else v))
    | 0x0053 => some (w &&& 7, [])
    | 0x0054 => some (clampField 11 0 (nearest 1408 3648) (w &&& 0xFFF, []))
    | 0x0055 => some (clampField 15 0 (nearest 5 500) (w &&& 0xFFFF, []))
    | 0x0056 => some (clampField 7 0 (nearest 1 255) (w &&& 0xFF, []))
    | _ =>
      if 0x0020 ≤ addr && addr ≤ 0x002F then some (clampField 2 0 (fun v => if v ≥ 6 then 0 else v) (w &&& 7, []))
      else if 0x0040 ≤ addr && addr ≤ 0x004F then some (w &&& 0x80FF00FF, [])
      else none

/-! ## Policy parameters (R374, Table 12.14) -/

/-- Initial windows of the monitor channels (Table 18.2, at 1 mV a code): channels 1–8 enabled. -/
def smnInitial (ch : Nat) : Word :=
  match ch with
  | 1 => wd (0x80000000 + 850 * 65536 + 700)
  | 2 => wd (0x80000000 + 824 * 65536 + 776)
  | 3 => wd (0x80000000 + 1890 * 65536 + 1710)
  | 4 => wd (0x80000000 + 824 * 65536 + 776)
  | 5 => wd (0x80000000 + 1890 * 65536 + 1710)
  | 6 => wd (0x80000000 + 2625 * 65536 + 2375)
  | 7 => wd (0x80000000 + 927 * 65536 + 873)
  | 8 => wd (0x80000000 + 1236 * 65536 + 1164)
  | _ => 0

/-- The image default of a policy parameter. -/
def State.polDefault (s : State) (id : Nat) : Nat :=
  match id with
  | 0x01 => (s.cfgReg 0x50).toNat
  | 0x02 => (s.cfgReg 0x51).toNat
  | 0x03 => (s.cfgReg 0x54).toNat
  | 0x04 => 3648
  | 0x05 => wf (s.cfgReg 0x53) 0 0
  | 0x06 => wf (s.cfgReg 0x53) 1 1
  | 0x07 => wf (s.cfgReg 0x53) 2 2
  | 0x08 => (s.cfgReg 0x55).toNat
  | 0x09 => (s.cfgReg 0x56).toNat
  | 0x0B => 1000
  | 0x0C => 30
  | _ => if 0x10 ≤ id && id ≤ 0x1F then (smnInitial (id - 0x10)).toNat else 0

/-- The applied value of a policy parameter: what SET_POLICY set, or the image default. -/
def State.pol (s : State) (id : Nat) : Nat :=
  if s.mc.polSet.contains id then (SMap.get dWord s.mc.pol id).toNat else s.polDefault id

end Sys2Proof.Machine
end

