-- ==== Sys2Proof/Machine/FabricOps.lean ====
section
/-! DEFINITION. Storage of the fabric that the frames initialise: flip-flops and block RAM (R44, R53). -/
namespace Sys2Proof.Machine
open Sys2Proof

/-- The initial word of a tile's flip-flops (R44). -/
def tileInit (t : TileCfg) : BitVec 16 :=
  BitVec.ofNat 16 ((List.range 16).foldl (fun n i => if (t.ffs.getD i {}).init then n + 2 ^ i else n) 0)

/-- GSR: every flip-flop of the chosen intersections takes its initial value (R44). -/
def gsrFabric (s : State) (p : Nat → Nat → Bool) : State :=
  let kept := s.fab.ffs.filter fun e => !p (tileBand e.1) (tileCol e.1)
  { s with fab := { s.fab with
    ffs := (s.design.tiles.filter fun e => p (tileBand e.1) (tileCol e.1)).foldl
      (fun m e => SMap.set (fun _ => (0 : BitVec 16)) m e.1 (tileInit e.2)) kept } }

/-- The content frames' words enter the block RAMs of the chosen intersections (R53). -/
def ramFabric (s : State) (p : Nat → Nat → Bool) : State :=
  let inside : Nat → Bool := fun a => p (ramBand (a / 2048)) (ramCol (a / 2048))
  { s with fab := { s.fab with
    ram := (s.design.ramInit.filter fun e => inside e.1).foldl (fun m e => SMap.set (fun _ => (0 : BitVec 72)) m e.1 e.2)
      (s.fab.ram.filter fun e => !inside e.1) } }

/-- The intersections of a region. -/
def inRegion (s : State) (r : Nat) : Nat → Nat → Bool := fun b c => inRects (s.rects r) b c

end Sys2Proof.Machine
end

