-- ==== Sys2Proof/Machine/Mailbox.lean ====
section
/-! DEFINITION. The mailboxes (R356–R362): taking a command entry, the checks made before a command acts, posting a
completion, and the clamp reports. A mailbox is named by its domain d: 0–3 for H0–H3 and 4 for HS. -/
namespace Sys2Proof.Machine
open Sys2Proof

/-- Base of mailbox d in the mailbox RAM. -/
def mbxBase (d : Nat) : Nat := 0x10000 * d

/-- Entries in a ring of 7-bit indices (R357). -/
def ringFill (tail head : Nat) : Nat := (tail + 128 - head) % 128

/-- The MC serves a mailbox once boot step 2 has ended and, for H0–H3, once the link has come up (R132); not during a
restart or once halted (R355). -/
def mcServes (s : State) (d : Nat) : Bool :=
  s.boot.mcUp && !s.mc.restart && !s.mc.halted && (d == 4 || (s.pciOf d).everUp)

/-- A device entry has been accepted and waits for the RTC tick (R427). -/
def sleepNear (s : State) : Bool := s.pwr.dev.any fun e => e.past

/-- The MC's own work goes on: reloads, PMBus traffic and the policy loops pause during a restart (R355) and stop at a
device entry (R427). -/
def mcRuns (s : State) : Bool := s.boot.mcUp && !s.mc.restart && !s.mc.halted && !sleepNear s

/-- The entry at CMD_HEAD (Table 12.2). -/
def frontEntry (s : State) (d : Nat) : RunCmd :=
  let bs := Memory.readN 0 s.mc.ram (mbxBase d + 0x40 * ((s.mbxOf d).cmdHead % 64)) 64
  { d, tag := leAt bs 2 2, op := leAt bs 0 2, noIrq := leAt bs 4 2 % 2 == 1, handle := 0, p := bytesWords (bs.drop 8) }

/-- Running commands of a domain. -/
def runCount (s : State) (d : Nat) : Nat := (s.mc.running.filter fun c => c.d == d).length

/-- A domain has an entry that the MC can take (R357, R359). -/
def canTake (s : State) (d : Nat) : Bool :=
  let m := s.mbxOf d
  mcServes s d && ringFill m.cmdTail m.cmdHead != 0 && ringFill m.cplTail m.cplHead != 64 && runCount s d < 16

/-- The domain whose turn it is: the rings are served round-robin (R359). -/
def turnOf (s : State) : Option Nat := ((List.range 5).map fun i => (s.mc.turn + 1 + i) % 5).find? (canTake s)

/-- The MC takes the next entry of a domain. -/
def mayTake (s : State) (d : Nat) : Bool := turnOf s == some d

/-- The 32 bytes of a completion (Table 12.3) written at a CPL_TAIL value. -/
def cplBytes (h : Held) (tail : Nat) : List Byte :=
  leBytes 2 h.tag ++ leBytes 2 h.op ++ [BitVec.ofNat 8 (scode h.status)] ++
    [BitVec.ofNat 8 ((if tail / 64 = 0 then 128 else 0) + h.block)] ++ leBytes 2 h.handle ++
    (List.range 6).flatMap fun i => leBytes 4 (nth h.res i).toNat

/-- Writes a completion at CPL_TAIL, advances it, and raises the completion interrupt (R357, R360). -/
def putCpl (s : State) (h : Held) : State :=
  let m := s.mbxOf h.d
  let s1 := { s with mc := { s.mc with
    ram := Memory.writeN 0 s.mc.ram (mbxBase h.d + 0x1000 + 0x20 * (m.cplTail % 64)) (cplBytes h m.cplTail),
    mbx := SMap.set dMbx s.mc.mbx h.d
      { m with cplTail := (m.cplTail + 1) % 128, last := h.status, intSt := m.intSt ||| 1#32 } },
                      out := s.out ++ [.completion h.d h.tag h.status] }
  if h.d < 4 && !h.noIrq && m.intCpl then s1.vector h.d 0 else s1

/-- Posts a completion, or keeps it back while the ring is full (R357). -/
def postCpl (s : State) (h : Held) : State :=
  let m := s.mbxOf h.d
  if ringFill m.cplTail m.cplHead = 64 || s.mc.heldC.any (fun x => x.d == h.d) then
    { s with mc := { s.mc with heldC := s.mc.heldC ++ [h] } }
  else putCpl s h

/-- Posts held completions of a domain while there is room, oldest first. -/
def drainHeld : Nat → State → Nat → State
  | 0, s, _ => s
  | n + 1, s, d =>
    let m := s.mbxOf d
    if ringFill m.cplTail m.cplHead = 64 then s
    else match s.mc.heldC.find? (fun x => x.d == d) with
      | none => s
      | some h => drainHeld n (putCpl { s with mc := { s.mc with heldC := s.mc.heldC.erase h } } h) d

/-! ## Clamp reports (R109, R362, R371) -/

/-- The handle after a handle: ascending, wrapping from 0x7FFF to 0x0001. -/
def nextHandle (h : Nat) : Nat := if h ≥ 0x7FFF then 1 else h + 1

/-- Whether a clamp report is still held for a domain: fewer than 8 later ones are readable by it. -/
def repHeld (later : List ClampRep) (d : Nat) : Bool := (later.filter fun r => r.readers.contains d).length < 8

/-- Drops the reports that no reader holds any longer. -/
def pruneReps : List ClampRep → List ClampRep
  | [] => []
  | r :: rs => if r.readers.any (repHeld rs) then r :: pruneReps rs else pruneReps rs

/-- Stores a clamp report of at most `cap` entries and answers its handle, 0 when no clamp was made
(DEDUCED, log entry 46). -/
def addReport (s : State) (readers : List Nat) (cap : Nat) (cs : List Clamp) : Nat × State :=
  if cs.isEmpty then (0, s)
  else
    let h := nextHandle s.mc.handle
    (h + (if cap < cs.length then 0x8000 else 0),
     { s with mc := { s.mc with
        handle := h,
        clamps := pruneReps (s.mc.clamps ++ [{ handle := h, readers, es := cs.take cap, lost := cs.length - cap }]) } })

/-- A clamp of parameter word `i`, at the field's low bit (R362). -/
def cmdClamp (i lsb req app : Nat) : Clamp :=
  { src := 0, fid := i * 32 + lsb, req := wd req, app := wd app, pos := 0xFFFFFFFF }

/-! ## Ends of commands -/

/-- The status a command with clamps ends with (R362) (DEDUCED, log entry 46). -/
def clampedStatus (st : Status) (handle : Nat) : Status := if st = .ok && handle != 0 then .okClamped else st

/-- Ends a command that was just taken, with the clamps it made. -/
def finish (c : RunCmd) (st : Status) (block : Nat) (cs : List Clamp) (res : List Word) (s : State) : State :=
  let r := addReport s [c.d] 256 cs
  postCpl r.2 { d := c.d, tag := c.tag, op := c.op, noIrq := c.noIrq, status := clampedStatus st r.1, block,
                handle := r.1, res }

/-- Leaves a command running (R359), with the clamps it made so far. -/
def waitCmd (c : RunCmd) (cs : List Clamp) (s : State) : State :=
  let r := addReport s [c.d] 256 cs
  { r.2 with mc := { r.2.mc with running := r.2.mc.running ++ [{ c with handle := r.1 }] } }

/-- The running command of a domain and tag. -/
def running? (s : State) (r : CmdRef) : Option RunCmd := s.mc.running.find? fun c => c.d == r.d && c.tag == r.tag

/-- Ends a running command. -/
def endCmd (r : CmdRef) (st : Status) (block : Nat) (res : List Word) (s : State) : State :=
  match running? s r with
  | none => s
  | some c =>
    postCpl { s with mc := { s.mc with running := s.mc.running.erase c } }
      { d := c.d, tag := c.tag, op := c.op, noIrq := c.noIrq, status := clampedStatus st c.handle, block,
        handle := c.handle, res }

/-- Ends a command that may be absent. -/
def endCmd? (r : Option CmdRef) (st : Status) (block : Nat) (res : List Word) (s : State) : State :=
  match r with
  | none => s
  | some c => endCmd c st block res s

/-! ## The checks of R361 -/

/-- The Issuer column of Tables 12.4–12.10. An `owner` command is H0–H3's; what it must own is checked with its
parameters. -/
inductive Issuer where
  | any | h | lead | owner
  deriving DecidableEq, Repr

/-- Step 2. -/
def issuerOk (s : State) (d : Nat) : Issuer → Bool
  | .any => true
  | .h => d < 4
  | .owner => d < 4
  | .lead => s.lead == some d

/-- Step 3: the rows of Table 16.6 for mailbox commands, by state code and opcode. -/
def lcPermits (code op : Nat) : Bool :=
  if op = 0x0001 || op = 0x0002 then true
  else if 0x0901 ≤ op && op ≤ 0x0904 then code ≤ 4
  else if op = 0x020A then 1 ≤ code && code ≤ 3
  else 1 ≤ code && code ≤ 4

/-- Step 4: the commands served before DONE (R132). -/
def preDone (s : State) (op : Nat) : Bool :=
  op = 0x0001 || op = 0x0002 || op = 0x0003 || (0x0301 ≤ op && op ≤ 0x0305) || op = 0x0207 || op = 0x0208 ||
    (0x0901 ≤ op && op ≤ 0x0904) ||
    (op = 0x0201 && (s.boot.cfgMode == 3 || s.boot.phase == .unconfigured))

/-- The opcodes of Tables 12.4–12.10 (R361 step 1). -/
def knownOps : List Nat :=
  [0x0001, 0x0002, 0x0003, 0x0004, 0x0005, 0x0006, 0x0101, 0x0102, 0x0103, 0x0104, 0x0201, 0x0202, 0x0203, 0x0204,
   0x0205, 0x0206, 0x0207, 0x0208, 0x0209, 0x020A, 0x0301, 0x0302, 0x0303, 0x0304, 0x0305, 0x0401, 0x0402, 0x0403,
   0x0404, 0x0501, 0x0502, 0x0503, 0x0504, 0x0505, 0x0601, 0x0602, 0x0603, 0x0701, 0x0702, 0x0801, 0x0802, 0x0803,
   0x0901, 0x0902, 0x0903, 0x0904]

/-- Takes the entry at CMD_HEAD. -/
def takeEntry (s : State) (d : Nat) : State :=
  let m := s.mbxOf d
  let s1 := s.setMbx d { m with cmdHead := (m.cmdHead + 1) % 128 }
  { s1 with mc := { s1.mc with turn := d } }

/-- Completes the entries that the MC meets in turn and whose opcode is not known (R361 step 1). -/
def serveUnknown : Nat → State → State
  | 0, s => s
  | n + 1, s =>
    match turnOf s with
    | none => s
    | some d =>
      let c := frontEntry s d
      if knownOps.contains c.op then s
      else
        serveUnknown n (finish c (if (running? s ⟨d, c.tag⟩).isSome then .badParameter else .unknownCommand) 0 [] [] (takeEntry s d))

/-- The same until it meets an entry of a known opcode, or none: the five rings hold 320 entries at most. -/
def serveRest (s : State) : State := serveUnknown 320 s

/-- Serves the entry at CMD_HEAD of mailbox d when it holds this opcode: the first check of R361 that fails ends the
command, and otherwise its body acts. Where the entry holds another opcode, or the MC may not take it, nothing happens
(DEDUCED, log entry 9). -/
def serve (d op : Nat) (iss : Issuer) (body : RunCmd → State → State) (s : State) : State :=
  let c := frontEntry s d
  if mayTake s d && c.op == op then
    let s1 := takeEntry s d
    serveRest
      (if (running? s ⟨d, c.tag⟩).isSome then finish c .badParameter 0 [] [] s1
       else if !issuerOk s d iss then finish c .notOwner 0 [] [] s1
       else if !lcPermits s.lcs.state op then finish c .lifecycleDeny 0 [] [] s1
       else if !s.boot.done && !preDone s op then finish c .notReady 0 [] [] s1
       else body c s1)
  else s

/-- Parameter word `i` of a command. -/
def pw (c : RunCmd) (i : Nat) : Nat := (nth c.p i).toNat

/-- The owner code and accessor of a domain's commands. -/
def cmdOwner (c : RunCmd) : Owner := ownerOf c.d

/-- A command has set a resource's owner, or a configuration register (R373). -/
def noteCmd (s : State) (n : Nat) : State :=
  { s with mc := { s.mc with byCmd := if s.mc.byCmd.contains n then s.mc.byCmd else s.mc.byCmd ++ [n] } }

/-- R364: a buffer area lies in 0x2000–0xFFFF at a multiple of 4. -/
def bufOk (off len : Nat) : Bool := off % 4 == 0 && 0x2000 ≤ off && off + len ≤ 0x10000

/-- Bytes of a command's buffer. -/
def readBuf (s : State) (c : RunCmd) (off len : Nat) : List Byte := Memory.readN 0 s.mc.ram (mbxBase c.d + off) len

/-- Writes bytes into a command's buffer. -/
def writeBuf (s : State) (c : RunCmd) (off : Nat) (bs : List Byte) : State :=
  { s with mc := { s.mc with ram := Memory.writeN 0 s.mc.ram (mbxBase c.d + off) bs } }

/-- R364: a NoC address lies in the issuer's own PCI endpoint space, within the outbound range of R342. -/
def nocArgOk (s : State) (c : RunCmd) (a len : Nat) : Bool :=
  c.d < 4 && bf a 47 39 == 0x110 + c.d && bf a 38 0 + len ≤ (s.pciOf c.d).obLimit * 4096 && bf a 38 0 + len ≤ 0x4000000000

end Sys2Proof.Machine
end

