-- ==== Sys2Proof/Machine/PowerOps.lean ====
section
/-! DEFINITION. What power-state changes share: refusals, the kennel images, a band's return to ON, waking a band
(R413–R425). -/
namespace Sys2Proof.Machine
open Sys2Proof

/-- The code of a band state (Table 14.2). -/
def bandCode : BState → Nat
  | .on => 0 | .doze => 1 | .nap => 2 | .off => 3

/-- The row of Table 14.3 of a voting block. -/
def voterRow : Nat → Nat
  | 0x01 => 0 | 0x02 => 1 | 0x03 => 2 | 0x05 => 3 | 0x06 => 4 | _ => 5

/-- The regions whose windows touch a band. -/
def bandRegions (s : State) (b : Nat) : List Nat := s.windowed.filter fun r => (rectBands (s.rects r)).contains b

/-- Whether a band holds static design: some intersection of its columns lies in no region. -/
def bandStatic (s : State) (b : Nat) : Bool := (List.range 559).any fun c => (s.regionAt b c).isNone

/-- Owner codes told of a band's failure: owners of the regions that touch it and, where it holds static design, every
domain that owns a resource (R423, R425). -/
def bandAccs (s : State) (b : Nat) : List Nat :=
  let rs := ((bandRegions s b).map fun r => ocode (s.owner r)).filter (· < 7)
  let st := if bandStatic s b then (List.range 6).filter fun o => ownsAny s.ten (ownerOf o) else []
  (rs ++ st).eraseDups

/-- Sets the entry of a band. -/
def setBandEntry (s : State) (b : Nat) (e : Option Entry) : State := s.setBand b { s.bandOf b with entry := e }

/-- Loop 5 waits twice its previous delay after a refusal, up to 60 s (Table 12.15). -/
def idleBackoff (s : State) (b : Nat) : State :=
  let d := (SMap.get (fun _ => (0, 0)) s.mc.idleTry b).1
  let n := min 60000 (2 * (if d = 0 then s.pol 0x0B else d))
  { s with mc := { s.mc with idleTry := SMap.set (fun _ => (0, 0)) s.mc.idleTry b (n, s.uptime + 1000000 * n) } }

/-- A refusal ends an entry (R416): it is counted once, recorded, and the command behind it completes. `dev` names a
device entry. -/
def refuseWith (s : State) (dev : Bool) (b : Nat) (e : Entry) (blk reason : Nat) : State :=
  let row := voterRow blk
  let s1 := { s with pwr := { s.pwr with
    refTotal := sat 0xFFFFFFFF s.pwr.refTotal,
    refCnt := SMap.set dNat s.pwr.refCnt row (sat 0xFFFFFFFF (SMap.get dNat s.pwr.refCnt row)),
    lastRef := wd (blk * 0x1000000 + reason * 0x10000 + (if dev then 0xF else b) * 0x1000 + e.target * 0x100) } }
  let s2 := if dev then { s1 with pwr := { s1.pwr with dev := none } } else setBandEntry s1 b none
  let s3 := s2.emit (.wire "pwr_notice" (if dev then 16 else b) 0)
  match e.cmd with
  | some r => (endCmd r .refused blk [wd reason] s3).raiseFor [r.d] 0xC0030 0 2
  | none => ((idleBackoff s3 b).policy .refused 5 b e.target).post allDomains 0 .refused 5 b e.target

/-- A band entry ends in a refusal. -/
def refuseBand (s : State) (b blk reason : Nat) : State :=
  match (s.bandOf b).entry with
  | some e => refuseWith s false b e blk reason
  | none => s

/-- A device entry ends in a refusal. -/
def refuseDev (s : State) (blk reason : Nat) : State :=
  match s.pwr.dev with
  | some e => refuseWith s true 15 e blk reason
  | none => s

/-- A voter holds the vote that it gave on an entry of band b, or of the device (R418). -/
def holdsVote (s : State) (voter b : Nat) : Bool :=
  ((s.bandOf b).entry.any fun e => !e.undec.contains voter) || s.pwr.dev.any fun e => !e.undec.contains voter

/-! ## Kennel images (R419, R424) -/

/-- The logic columns in ascending order: a band's 512 (DEDUCED, log entry 62). -/
def logicCols : List Nat := (List.range 559).filter fun c => colKind c == .logic

/-- The place of a logic tile's two bytes in its band's kennel image: logic columns ascending, tiles by row. -/
def tilePlace (tile : Nat) : Nat := 2 * ((logicCols.findIdx (· == tileCol tile)) * 64 + tile % 64)

/-- The tile whose flip-flops stand at a place of a band's image. -/
def placeTile (b place : Nat) : Nat := (b * 559 + logicCols.getD (place / 128) 0) * 64 + place / 2 % 64

/-- The flip-flops of a band's tiles. -/
def bandFfs (s : State) (b : Nat) : SMap (BitVec 16) := s.fab.ffs.filter fun e => tileBand e.1 == b

/-- A kennel bank with its content cleared. -/
def clearBank (m : Memory) (n : Nat) : Memory := m.filter fun c => c.1 / 65536 != n

/-- Writes a band's flip-flop image and its CRC to kennel bank b (DEDUCED, log entry 62). -/
def saveBand (s : State) (b : Nat) : State :=
  let k := (bandFfs s b).foldl (fun m e => Memory.writeN 0 m (b * 65536 + tilePlace e.1) (leBytes 2 e.2.toNat))
    (clearBank s.pwr.kennel b)
  { s with pwr := { s.pwr with
    kennel := k,
    kCrc := SMap.set dNat s.pwr.kCrc b (crc32c (Memory.readN 0 k (b * 65536) 65536)).toNat } }

/-- A bank passes its check. -/
def bankOk (s : State) (n : Nat) : Bool :=
  SMap.get dNat s.pwr.kCrc n == (crc32c (Memory.readN 0 s.pwr.kennel (n * 65536) 65536)).toNat

/-- A band's flip-flops as its kennel image gives them. -/
def loadBand (s : State) (b : Nat) : State :=
  let cells := s.pwr.kennel.filter fun c => c.1 / 65536 == b && c.1 % 2 == 0
  let odd := s.pwr.kennel.filter fun c => c.1 / 65536 == b && c.1 % 2 == 1
  let put (m : SMap (BitVec 16)) (c : Host.Cell) : SMap (BitVec 16) :=
    let p := c.1 % 65536 / 2 * 2
    let t := placeTile b p
    SMap.set (fun _ => (0 : BitVec 16)) m t (BitVec.ofNat 16 (leNat (Memory.readN 0 s.pwr.kennel (b * 65536 + p) 2)))
  { s with fab := { s.fab with
    ffs := (cells ++ odd).foldl put (s.fab.ffs.filter fun e => tileBand e.1 != b) } }

/-- A band's flip-flops take their initial values. -/
def initBand (s : State) (b : Nat) : State := gsrFabric s (fun b' _ => b' == b)

/-- What NAP and OFF lose of a band: DSP registers and block RAM outputs hold their reset values afterwards (R55, R60)
(DEDUCED, log entry 58). -/
def dropBand (s : State) (b : Nat) : State :=
  { s with fab := { s.fab with
    dsps := s.fab.dsps.filter fun e => dspBand e.1 != b,
    ports := s.fab.ports.filter fun e => ramBand (e.1 / 2) != b } }

/-! ## Leaving a band state (R420) -/

/-- Pulses held while a band was in DOZE are delivered: those of its fabric tables, and of the bank tables whose outputs
appear in it (Table 9.2, R274). -/
def releaseHeld (s : State) (b : Nat) : State :=
  (((List.range 8).map fun c => 8 * b + c) ++ ((List.range 16).filter fun k => 4 * (k % 4) == b).map fun k => 0x100 + k).foldl (fun u t =>
    let g := u.tableOf t
    if g.heldOut == 0 then u
    else (u.setTable t { g with rfxOut := g.heldOut, heldOut := 0 }).emit (.wire "rfx_out" t g.heldOut.toNat)) s

/-- The band of an endpoint whose packets are parked: that of a fabric endpoint's attachment (R193, R224). -/
def epBand (s : State) (id : Nat) : Option Nat := if id < 128 then some (s.mapOf id).row else none

/-- The ingress opens (R224, R420): what the park buffers of the row hold is delivered from now on, in arrival order. The timers of the
requests that the band's endpoints issued run again after the pause (R211). -/
def openIngress (s : State) (b paused : Nat) : State :=
  { s with noc := { s.noc with
    outst := s.noc.outst.map fun e =>
      if epBand s (e.1 / 256) = some b then (e.1, e.2.map fun r => { r with t := r.t + paused }) else e } }

/-- The scrub engine of a band that returns from NAP or OFF begins a full pass at once (R181). -/
def wakePass (s : State) (b : Nat) : ScrBand :=
  let r := s.scr.enable && !s.scr.halted
  { s.scrOf b with
    wake := true, reading := r, canary := r, due := false, ended := false, col := 0, minor := 0, began := s.uptime, at_ := s.now }

/-- The band is ON again. -/
def bandOn (s : State) (b : Nat) : State :=
  let g := s.bandOf b
  let slept := g.state == .nap || g.state == .off
  let s1 := s.setBand b { g with state := .on, waking := false, good := false, held := false, entry := none, cmd := none,
                                 lastUs := min 0xFFFF ((s.uptime - g.woken) / 1000) }
  let s2 := if slept then s1.setScr b (wakePass s1 b) else s1
  endCmd? g.cmd .ok 0x17 [] (openIngress (releaseHeld (s2.raiseAll 0xC0030 0 1) b) b (if slept then s.uptime - g.left else 0))

/-- A wake event: a band in DOZE returns at once, one in NAP or OFF starts its exit; a HELD band stays (R420, R423). -/
def wakeBand (s : State) (b : Nat) : State :=
  let g := s.bandOf b
  match g.state with
  | .on => s
  | .doze => bandOn (s.setBand b { g with woken := s.uptime }) b
  | _ => if g.waking || g.held then s else s.setBand b { g with waking := true, woken := s.uptime }

/-- An endpoint's band is not ON, or is waking. -/
def epAsleep (s : State) (id : Nat) : Bool :=
  match epBand s id with
  | some b => (s.bandOf b).state != .on
  | none => false

end Sys2Proof.Machine
end

