-- ==== Sys2Proof/Machine/NocOps.lean ====
section
/-! DEFINITION. What the network's commands share: attachments and owners of endpoints, counters and events, the
firewall, injection, answers, completion of requests, muzzling (R191–R228). -/
namespace Sys2Proof.Machine
open Sys2Proof

/-- Endpoint ID and offset of a NoC address (R194). -/
def naEp (a : Nat) : Nat := bf a 47 39
def naOff (a : Nat) : Nat := bf a 38 0
def naOf (ep off : Nat) : Nat := ep * 0x8000000000 + off

def pktEp (p : Pkt) : Nat := naEp p.dst
def pktOff (p : Pkt) : Nat := naOff p.dst

/-- The domain stamped on a fabric endpoint at a router (R208). -/
def fabDomain (s : State) (col row : Nat) : Owner :=
  match s.regionAt row (niCol col) with
  | some r => if s.owner r == .unowned then .fab else s.owner r
  | none => .fab

/-- The owner of an endpoint (R208, R209): MC for the ETH endpoints, which no domain owns as a whole; UNOWNED for the
management endpoints, the reflex tables and unassigned IDs. -/
def epOwner (s : State) (id : Nat) : Owner :=
  if id < 0x80 then fabDomain s (s.mapOf id).col (s.mapOf id).row
  else if id < 0xC0 then s.owner (136 + (id - 0x80))
  else if id < 0x100 then s.owner (resRing (id - 0xC0))
  else if id < 0x110 then .unowned
  else if id < 0x114 then ownerOf (id - 0x110)
  else if id < 0x118 then .mc
  else .unowned

/-- The owner of the destination resource of an address (R209): for ETH the MAC port that the offset chooses, and none beyond the
fourth. -/
def dstOwner (s : State) (id off : Nat) : Owner :=
  if 0x114 ≤ id && id < 0x118 then
    if off < 0x40000 then s.owner (resMac (4 * (id - 0x114) + off / 0x10000)) else .unowned
  else epOwner s id

/-- The owner of a reflex table (R264), a fabric table being named by its attachment: the stamped
domain of its endpoint; a bank table has none. -/
def tableOwner (s : State) (t : Nat) : Owner := if t < 0x80 then fabDomain s (t % 8) (t / 8) else .unowned

/-- The owner codes told of an event on an endpoint. -/
def ownerAccs (o : Owner) : List Nat := if o == .unowned then [] else [ocode o]

/-- Adds 1 to counter c of an endpoint (Table 7.9). -/
def bump (s : State) (id c : Nat) : State :=
  { s with noc := { s.noc with
    cnt := SMap.set dNat s.noc.cnt (16 * id + c) (sat 0xFFFFFFFF (SMap.get dNat s.noc.cnt (16 * id + c))) } }

/-- Sets bits of NOC.INT_STATUS in an owner's copy. -/
def nocInt (s : State) (o : Owner) (bits : Word) : State := s.raiseFor (ownerAccs o) 0x50048 0 bits

/-- Records NOC.LAST_EVENT. -/
def nocLast (s : State) (kind cause : Nat) (st : Status) (id : Nat) : State :=
  { s with noc := { s.noc with last := wd (kind * 0x10000000 + cause * 0x1000000 + scode st * 0x10000 + id) } }

/-- Posts a NOC entry to an owner's report (R372). -/
def nocPost (s : State) (o : Owner) (st : Status) (kind cause id : Nat) : State := s.post [ocode o] 1 st kind cause id

/-- The applied non-posted timeout in µs (R211). -/
def nocTimeoutUs (s : State) : Nat := s.pol 2

/-! ## Endpoint kinds -/

def isFabric (id : Nat) : Bool := id < 0x80
def isTable (id : Nat) : Bool := 0x100 ≤ id && id < 0x110
def isPci (id : Nat) : Bool := 0x110 ≤ id && id < 0x114
def isEth (id : Nat) : Bool := 0x114 ≤ id && id < 0x118
def isMgmt (id : Nat) : Bool := 0x118 ≤ id && id < 0x11C

/-- The IDs that no domain can own (R215), and that are never declared dead (R212, R214). -/
def neverDead (id : Nat) : Bool := isMgmt id || isEth id || isTable id

/-- The ID is muzzled or retired. -/
def isMuzzled (s : State) (id : Nat) : Bool := (s.mapOf id).state == .muzzled || (s.mapOf id).state == .retired

/-- A PCI endpoint is muzzled with cause 4 while its link is down (R215). -/
def linkDown (s : State) (id : Nat) : Bool := isPci id && !(s.pciOf (id - 0x110)).up

/-! ## Packets -/

/-- A non-posted request (Table 7.3). -/
def nonPosted : PktOp → Bool
  | .rd => true | .wrNp => true | .mcw => true | .mgRd => true | .mgWr => true | _ => false

/-- Header and data flits of a packet (R201, Table 7.3). -/
def flitsOf (op : PktOp) (len : Nat) : Nat :=
  match op with
  | .wrNp => if len ≤ 16 then 1 else 1 + (len + 31) / 32
  | .wrP => if len ≤ 16 then 1 else 1 + (len + 31) / 32
  | .mcw => if len ≤ 16 then 1 else 1 + (len + 31) / 32
  | .rdRsp => if len ≤ 16 then 1 else 1 + (len + 31) / 32
  | _ => 1

/-- A response (VC2 but for MG_RSP). -/
def isRsp (op : PktOp) : Bool := op == .rdRsp || op == .wrRsp || op == .mcwRsp

/-- The virtual channel of a packet, which its opcode alone chooses (R196, Tables 7.2, 7.3). -/
def vcOf : PktOp → Nat
  | .event => 0
  | .rdRsp => 2 | .wrRsp => 2 | .mcwRsp => 2
  | .mgRd => 3 | .mgWr => 3 | .mgRsp => 3
  | _ => 1

/-- The depth in flits of each input queue of a virtual channel (Table 7.2). -/
def vcDepth : Nat → Nat
  | 0 => 4 | 1 => 8 | 2 => 8 | _ => 4

/-! ### Flits (R201–R203) -/

/-- The code of an opcode (Table 7.3). The reserved codes share one name; it is given the lowest of them. -/
def opCode : PktOp → Nat
  | .rd => 0x0 | .wrNp => 0x1 | .wrP => 0x2 | .mcw => 0x3 | .rdRsp => 0x8 | .wrRsp => 0x9 | .mcwRsp => 0xA
  | .mgRd => 0xC | .mgWr => 0xD | .mgRsp => 0xE | .event => 0xF | .reserved => 0x4

/-- The opcode of a code. -/
def opOf (n : Nat) : PktOp :=
  ([.rd, .wrNp, .wrP, .mcw, .rdRsp, .wrRsp, .mcwRsp, .mgRd, .mgWr, .mgRsp, .event].find? fun o => opCode o == n).getD .reserved

/-- The status of a code (Table 12.21). -/
def statusOf (n : Nat) : Status :=
  ([.ok, .okClamped, .notReady, .alreadyRead, .pending, .busy, .xipLocked, .protectedRange, .passwordLockout, .sectorTorn,
    .programFail, .eraseFail, .splitPartial, .rangeInvalid, .badFrameAddress, .outOfRegion, .crcFail, .authFail, .keyRollFail,
    .regionIncomplete, .swapAborted, .uncorrectableFrame, .destMuzzled, .staleGeneration, .firewallDeny, .timeout, .destPoweredDown,
    .refused, .retentionLost, .pmbusNack, .voutMismatch, .timebaseEstimated, .testAborted, .testFail, .lifecycleDeny,
    .holdupAbsent, .unknownCommand, .badParameter, .notOwner, .noLeash, .podLost, .ringBreak, .internalError].find?
      fun st => scode st == n).getD (.other (BitVec.ofNat 8 n))

/-- A packet with a payload: write data, read data, the status vector of an MCW_RSP or the 4 bytes of management traffic. -/
def carriesData : PktOp → Bool
  | .wrNp => true | .wrP => true | .mcw => true | .rdRsp => true | .mcwRsp => true | .mgWr => true | .mgRsp => true | _ => false

/-- The header flit (Table 7.4). -/
def headerFlit (p : Pkt) : BitVec 256 :=
  BitVec.ofNat 256 (p.dst + p.src * 2 ^ 48 + p.gen * 2 ^ 57 + p.epoch * 2 ^ 61 + (if p.urgent then 2 ^ 62 else 0) +
    ocode p.dom * 2 ^ 64 + opCode p.op * 2 ^ 68 + p.tag * 2 ^ 72 + (p.len - 1) * 2 ^ 80 + scode p.status * 2 ^ 88 + p.rt * 2 ^ 96 +
    p.mask * 2 ^ 112 + (if carriesData p.op && p.len ≤ 16 then leNat p.data * 2 ^ 128 else 0))

/-- The data flits of a payload: byte i in flit i ÷ 32 (R203). -/
def dataFlits (bs : List Byte) : List (BitVec 256) :=
  (List.range ((bs.length + 31) / 32)).map fun i => BitVec.ofNat 256 (leNat ((bs.drop (32 * i)).take 32))

/-- The flits of a packet as they cross an NI (R201, R205). -/
def pktFlits (p : Pkt) : List (BitVec 256) :=
  headerFlit p :: (if carriesData p.op && 16 < p.len then dataFlits p.data else [])

/-- The payload that flits carry for a length. -/
def payload (fl : List (BitVec 256)) (len : Nat) : List Byte :=
  if len ≤ 16 then (leBytes 16 ((fl.headD 0).toNat / 2 ^ 128)).take len
  else ((fl.drop 1).flatMap fun f => leBytes 32 f.toNat).take len

/-- The packet that the flits of a transfer spell; the stamped fields are as the source gave them (Table 7.4). -/
def pktOf (fl : List (BitVec 256)) : Pkt :=
  let h := (fl.headD 0).toNat
  let op := opOf (bf h 71 68)
  let len := bf h 87 80 + 1
  { op, src := bf h 56 48, gen := bf h 60 57, epoch := bf h 61 61, dom := ownerOf (bf h 66 64), dst := bf h 47 0, len,
    tag := bf h 79 72, urgent := bf h 62 62 == 1, mask := if op == .mcw then bf h 127 112 else 0,
    status := if isRsp op then statusOf (bf h 95 88) else .ok, data := if carriesData op then payload fl len else [] }

/-- A packet reaches the fabric side of an NI, or the MC. -/
def State.emitPkt (s : State) (ep : Nat) (p : Pkt) : State := s.emit (.noc ep (pktFlits p))

/-- Bytes of zeros, the data of every status that the NoC itself generates (R203). -/
def zeros (n : Nat) : List Byte := List.replicate n 0

/-- rt_port, rt_row and rt_col of a destination endpoint (Table 7.4). -/
def rtWord (s : State) (id : Nat) : Nat := (s.mapOf id).port * 128 + (s.mapOf id).row * 8 + (s.mapOf id).col

/-- The response to a request: RD_RSP with the full requested length, WR_RSP, MCW_RSP or MG_RSP. -/
def answerOf (s : State) (p : Pkt) (st : Status) (data : List Byte) : Pkt :=
  { op := match p.op with | .rd => .rdRsp | .mcw => .mcwRsp | .mgRd => .mgRsp | .mgWr => .mgRsp | _ => .wrRsp
    src := (pktEp p), gen := (s.mapOf (pktEp p)).gen, epoch := s.noc.epoch, dom := p.dom,
    dst := naOf p.src 0, len := if p.op == .rd then p.len else 0, tag := p.tag, urgent := false, mask := 0,
    status := st, data := if p.op == .rd then (if data.isEmpty then zeros p.len else data) else data }

/-- A packet from or for a fabric endpoint keeps its band from being idle (Table 12.15). -/
def busyBand (s : State) (m : SMap Nat) (id : Nat) : SMap Nat := if id < 0x80 then SMap.set dNat m (s.mapOf id).row s.uptime else m

/-- A packet enters the network. The ejection port of its destination has a flit waiting from now on, if it had none (R214). -/
def sendPkt (s : State) (p : Pkt) : State :=
  { s with noc := { s.noc with
    busyAt := busyBand s (busyBand s s.noc.busyAt p.src) (pktEp p)
    flight := s.noc.flight ++ [p]
    ejAt := if s.noc.flight.any fun q => pktEp q == pktEp p then s.noc.ejAt else SMap.set dNat s.noc.ejAt (pktEp p) s.uptime } }

/-- A response travels back to the requester. -/
def respond (s : State) (p : Pkt) (st : Status) (data : List Byte) : State :=
  sendPkt s { answerOf s p st data with rt := rtWord s p.src }

/-- Answers a non-posted request; a posted write gets no answer. -/
def reply (s : State) (p : Pkt) (st : Status) (data : List Byte) : State :=
  if nonPosted p.op then respond s p st data else s

/-- Whether a request's domain passes the firewall of a destination (R209, R210). -/
def fwPass (s : State) (p : Pkt) : Bool :=
  let o := dstOwner s (pktEp p) (pktOff p)
  p.dom == .mc || (p.dom == o && o != .unowned) || o == .fab ||
    (ocode o < 5 && (List.range 32).any fun w =>
      let f := SMap.get dFw s.noc.fw (32 * ocode o + w)
      f.valid && f.ep == (pktEp p) && f.base * 4096 ≤ (pktOff p) && (pktOff p) + p.len ≤ (f.limit + 1) * 4096 &&
        bf f.grantees (ocode p.dom) (ocode p.dom) == 1 && (if p.op == .rd then f.read else f.write))

/-- The endpoints with rules of their own, which every domain passes (R209). -/
def ownRules (id : Nat) : Bool := 0x119 ≤ id && id ≤ 0x11B

/-- A request is denied at its destination (R209): answered or dropped, counted, and told to the resource's owner. -/
def deny (s : State) (p : Pkt) : State :=
  reply (nocInt (bump s (pktEp p) 4) (dstOwner s (pktEp p) (pktOff p)) 8) p .firewallDeny []

/-- A request to a muzzled or retired endpoint (Table 7.7). -/
def absorb (s : State) (p : Pkt) : State :=
  if nonPosted p.op then respond (bump s (pktEp p) 1) p .destMuzzled [] else bump s (pktEp p) 0

/-! ## Completing requests -/

/-- Outstanding requests of an NI. -/
def outKey (id tag : Nat) : Nat := 256 * id + tag
def outReq (s : State) (id tag : Nat) : Option OutReq := SMap.get dNone s.noc.outst (outKey id tag)
def setOut (s : State) (id tag : Nat) (r : Option OutReq) : State :=
  { s with noc := { s.noc with outst := SMap.set dNone s.noc.outst (outKey id tag) r } }

/-- The tags outstanding at an NI, ascending. -/
def outTags (s : State) (id : Nat) : List Nat :=
  (s.noc.outst.filter fun e => e.1 / 256 == id).map fun e => e.1 % 256

/-- Records PCI.ERR_LOG (Table 11.11). -/
def pciErr (s : State) (p cause : Nat) (st : Status) (entry addr : Nat) : State :=
  (s.setPci p { s.pciOf p with
    errLog := wd (cause * 0x10000000 + scode st * 0x10000 + entry), errLo := wd addr, errHi := wd (addr / 0x100000000) }).raiseFor
    [p] 0xA0040 p 4

/-- Returns the completed leading parts of a window 2 read in address order; the first that fails ends it (R340, Table
11.7). -/
def w2Drain : Nat → State → Nat → Nat → State
  | 0, s, _, _ => s
  | n + 1, s, p, ptag =>
    match SMap.get dNone (s.pciOf p).rds ptag with
    | none => s
    | some r =>
      let put (u : State) (v : Option W2Read) : State :=
        u.setPci p { u.pciOf p with rds := SMap.set dNone (u.pciOf p).rds ptag v }
      match r.parts with
      | [] => put s none
      | (tag, len) :: rest =>
        match r.got.find? fun g => g.1 == tag with
        | none => s
        | some (_, st, data) =>
          if st == .ok || st == .busy then
            w2Drain n ((put s (if rest.isEmpty then none else some { r with parts := rest, off := r.off + len })).emit
              (.cpl p ptag .sc data)) p ptag
          else (pciErr (put s none) p 3 st r.entry r.off).emit (.cpl p ptag .ca [])

/-- A part of a window 2 read has its answer. -/
def w2Part (s : State) (p tag : Nat) (st : Status) (data : List Byte) : State :=
  match (s.pciOf p).rds.find? (fun e => match e.2 with | some r => r.parts.any (fun x => x.1 == tag) | none => false) with
  | some (ptag, some r) =>
    w2Drain 32 (s.setPci p { s.pciOf p with
      rds := SMap.set dNone (s.pciOf p).rds ptag (some { r with got := r.got ++ [(tag, st, data)] }) }) p ptag
  | _ => s

/-- A request of an NI completes to its requester: to a fabric endpoint's design, or to the read of a host. -/
def deliverAnswer (s : State) (id : Nat) (p : Pkt) : State :=
  if isPci id then w2Part s (id - 0x110) p.tag p.status p.data
  else s.emitPkt (s.mapOf id).phys p

/-- An answer that the NI itself makes up for one of its outstanding requests. -/
def localAnswer (s : State) (id tag : Nat) (r : OutReq) (st : Status) : Pkt :=
  { op := match r.op with | .mcw => .mcwRsp | .rd => .rdRsp | _ => .wrRsp
    src := naEp r.dst, gen := (s.mapOf (naEp r.dst)).gen, epoch := s.noc.epoch, dom := r.dom, dst := naOf id 0,
    len := if r.op == .rd then r.len else 0, tag, urgent := false, mask := 0, status := st,
    data := if r.op == .rd then zeros r.len else [], rt := rtWord s id }

/-- The members of a multicast mask, ascending. -/
def maskMembers (m : Nat) : List Nat := (List.range 16).filter fun i => m.testBit i

/-- The destinations of a request that have not answered. -/
def silent (r : OutReq) : List Nat :=
  if r.op != .mcw then [naEp r.dst]
  else ((maskMembers r.mask).filter fun i => !r.mcw.any fun x => x.1 == i).map (naEp r.dst + ·)

/-- A request is over before its answers have come: what its destinations still send is late, and counts in a counter of the requester
(R212, R213, R226) (DEDUCED, log entry 44). -/
def expectLate (s : State) (id tag : Nat) (r : OutReq) (ctr : Nat) : State :=
  { s with noc := { s.noc with late := s.noc.late ++ (silent r).map fun d => { ep := id, tag, src := d, ctr } } }

/-- The record of a late response. -/
def lateOf (s : State) (p : Pkt) : Option LateRsp :=
  s.noc.late.find? fun l => l.ep == pktEp p && l.tag == p.tag && l.src == p.src

/-- A response is dropped and counted; it is no longer to come. -/
def dropRsp (s : State) (p : Pkt) (ctr : Nat) : State :=
  let s1 := bump s (pktEp p) ctr
  match lateOf s p with
  | some l => { s1 with noc := { s1.noc with late := s1.noc.late.erase l } }
  | none => s1

/-- Responses of an endpoint that begins anew are no longer awaited. -/
def forgetLate (s : State) (id : Nat) : State :=
  { s with noc := { s.noc with late := s.noc.late.filter fun l => l.src != id } }

/-- Completes every outstanding request of an NI with a status and clears its table; later responses count in counter `ctr`. -/
def clearOut (s : State) (id : Nat) (st : Status) (ctr : Nat) : State :=
  (outTags s id).foldl (fun u t =>
    match outReq u id t with
    | some r => deliverAnswer (expectLate (setOut u id t none) id t r ctr) id (localAnswer u id t r st)
    | none => u) s

/-- The outstanding table of an NI is cleared, with no answer. -/
def forgetOut (s : State) (id ctr : Nat) : State :=
  (outTags s id).foldl (fun u t =>
    match outReq u id t with
    | some r => expectLate (setOut u id t none) id t r ctr
    | none => u) s

/-- The code of a member's status in the MCW_RSP vector (R223). -/
def mcwCode : Status → Nat
  | .ok => 0 | .firewallDeny => 1 | .destMuzzled => 2 | .destPoweredDown => 2 | _ => 3

/-- The status vector of the answers of a multicast. -/
def mcwVector (rs : List (Nat × Status)) : Nat := rs.foldl (fun n r => n + mcwCode r.2 * 4 ^ r.1) 0

/-- The header status of an MCW_RSP (R223). -/
def mcwStatus (mask : Nat) (rs : List (Nat × Status)) : Status :=
  let ms := maskMembers mask
  let of (i : Nat) : Status := ((rs.find? fun r => r.1 == i).map (·.2)).getD .timeout
  if ms.all fun i => of i == .ok then .ok
  else if ms.any fun i => of i == .ok then .splitPartial
  else of (ms.headD 0)

/-- The MCW_RSP is returned once every member has answered (R222, R223). -/
def mcwDone (s : State) (id tag : Nat) (r : OutReq) : State :=
  if r.mcw.length < (maskMembers r.mask).length then setOut s id tag (some r)
  else
    deliverAnswer (setOut s id tag none) id { localAnswer s id tag r (mcwStatus r.mask r.mcw) with
      data := leBytes 4 (mcwVector r.mcw) }

/-! ## Muzzling (R212–R216) -/

/-- The router of an endpoint's attachment. -/
def epRouter (s : State) (id : Nat) : Nat := 8 * (s.mapOf id).row + (s.mapOf id).col

/-- The packets in a router's park buffer. -/
def parkedAt (s : State) (r : Nat) : List Pkt := SMap.get (fun _ => ([] : List Pkt)) s.noc.parked r
def setParked (s : State) (r : Nat) (ps : List Pkt) : State :=
  { s with noc := { s.noc with parked := SMap.set (fun _ => ([] : List Pkt)) s.noc.parked r ps } }

/-- A packet queued for an endpoint that is muzzled (R213, Table 7.7). -/
def absorbQueued (s : State) (p : Pkt) : State := if isRsp p.op then dropRsp s p 7 else absorb s p

/-- Everything queued for an endpoint that has been muzzled is absorbed, on the network and in a park buffer; an MCW that its NI has not
yet split is in no queue (R213, R214, R222). -/
def absorbAll (s : State) (id : Nat) : State :=
  let mine (p : Pkt) : Bool := pktEp p == id && p.op != .mcw
  let r := epRouter s id
  let s1 := setParked { s with noc := { s.noc with flight := s.noc.flight.filter fun p => !mine p } } r
    ((parkedAt s r).filter fun p => !mine p)
  ((parkedAt s r).filter mine ++ s.noc.flight.filter mine).foldl absorbQueued s1

/-- noc_muzzled of the fabric endpoint that now serves an ID (R205, Table 7.5). -/
def muzzledPin (s : State) (id v : Nat) : State :=
  if id < 0x80 then s.emit (.wire "noc_muzzled" (s.mapOf id).phys v) else s

/-- Muzzles an endpoint: its own requests complete, what is queued for it is absorbed, its owner is told (R213, R215). -/
def muzzle (s : State) (id cause : Nat) : State :=
  let m := s.mapOf id
  let o := epOwner s id
  let s1 := s.setMap id { m with state := .muzzled, cause := cause }
  let s2 := absorbAll (clearOut s1 id .destMuzzled 7) id
  muzzledPin (nocPost (nocLast (nocInt s2 o 1) 1 cause .destMuzzled id) o .destMuzzled 1 cause id) id 1

/-- The link of PCI_p is down (R215): cause 4, unless the endpoint is muzzled already. -/
def linkMuzzle (s : State) (p : Nat) : State := if (s.mapOf (0x110 + p)).state == .live then muzzle s (0x110 + p) 4 else s

/-- A silent destination is declared dead (R212). -/
def declareDead (s : State) (id : Nat) : State :=
  if neverDead id || epAsleep s id || (s.mapOf id).state != .live then s else muzzle s id 1

/-- The physical instance of an ID's NI: the endpoint at its attachment. -/
def niOf (s : State) (phys : Nat) : Nat × Nat := SMap.get dNi s.noc.ni phys
def setNi (s : State) (phys : Nat) (v : Nat × Nat) : State :=
  { s with noc := { s.noc with ni := SMap.set dNi s.noc.ni phys v } }

/-- The ID that a physical instance now serves: the entry that names its attachment. -/
def servedId (s : State) (phys : Nat) : Nat := ((List.range 128).find? fun i => (s.mapOf i).phys == phys).getD phys

/-! ## Injection (R204, R218) -/

/-- A packet whose source has passed reaches the lookup of the first router: it is answered, dropped or sent (R209,
R213, R218). -/
def route (s : State) (p : Pkt) : State :=
  let m := s.mapOf (pktEp p)
  match m.state with
  | .unassigned => reply s p .firewallDeny []
  | .muzzled => absorbQueued s p
  | .retired => absorbQueued s p
  | .live =>
    if (pktEp p) == 0x118 || isTable (pktEp p) then
      if isRsp p.op then s else reply (bump s (pktEp p) 4) p .firewallDeny []
    else sendPkt s { p with rt := rtWord s (pktEp p) }

/-- The record of a non-posted request at its NI. -/
def outOf (s : State) (p : Pkt) : OutReq := { dst := p.dst, len := p.len, op := p.op, dom := p.dom, t := s.uptime, mask := p.mask }

/-- A request of a hard block enters the network with its stamps; a non-posted one is timed (R208, R211). -/
def inject (s : State) (p : Pkt) : State :=
  let q := { p with gen := (s.mapOf p.src).gen, epoch := s.noc.epoch }
  if isMuzzled s p.src then bump s p.src 2
  else route (if nonPosted p.op then setOut s p.src p.tag (some (outOf s p)) else s) q

/-! ## Arrival -/

/-- An earlier packet that a packet may not pass: one from the same source to the same destination on the same virtual channel while the
route is unchanged (R199), and an MCW that the source NI has still to split (R222). -/
def holdsBack (p q : Pkt) : Bool :=
  q.src == p.src && vcOf q.op == vcOf p.op && q.epoch == p.epoch && ((pktEp q == pktEp p && q.rt == p.rt) || q.op == .mcw)

/-- The packets ahead of one in a list. -/
def ahead (p : Pkt) : List Pkt → List Pkt
  | [] => []
  | q :: qs => if q = p then [] else q :: ahead p qs

/-- The band of a fabric endpoint is ON while the router's buffer holds packets: they are delivered first, in arrival order (R225,
R226). -/
def draining (s : State) (p : Pkt) : Bool :=
  pktEp p < 0x80 && (s.bandOf (s.mapOf (pktEp p)).row).state == .on && !(parkedAt s (epRouter s (pktEp p))).isEmpty

/-- A packet arrives: it leaves its queue, whose port has returned a credit (R197, R214). It is in flight with nothing ahead that it may
not pass, or is the oldest that its router has parked (DEDUCED, log entry 44). -/
def takeFlight (s : State) (p : Pkt) : Option State :=
  let s1 := { s with noc := { s.noc with
    ejAt := SMap.set dNat s.noc.ejAt (pktEp p) s.uptime, busyAt := busyBand s s.noc.busyAt (pktEp p) } }
  if draining s p then
    match parkedAt s (epRouter s (pktEp p)) with
    | q :: qs => if q = p then some (setParked s1 (epRouter s (pktEp p)) qs) else none
    | [] => none
  else if s.noc.flight.contains p && !(ahead p s.noc.flight).any (holdsBack p) then
    some { s1 with noc := { s1.noc with flight := s1.noc.flight.erase p } }
  else none

/-! ## What a host receives (R342) -/

/-- What PCI_p answers to a request that reaches it. -/
def obStatus (s : State) (p off len : Nat) : Status :=
  let c := s.pciOf p
  if c.d3 then .destPoweredDown
  else if !(off + len ≤ c.obLimit * 4096 && off + len ≤ 0x4000000000) then .firewallDeny
  else if !c.bme then .refused else .ok

/-- The host address of an offset. -/
def obHost (s : State) (p off : Nat) : Nat := ((s.pciOf p).obLo.toNat + (s.pciOf p).obHi.toNat * 0x100000000 + off) % 2 ^ 64

/-! ## Requests of the hard blocks (R208–R213) -/

/-- A span cut at the 256-byte boundaries: address and length of each part (R203). -/
def cut : Nat → Nat → Nat → List (Nat × Nat)
  | 0, _, _ => []
  | n + 1, a, len =>
    if len = 0 then []
    else
      let k := min len (256 - a % 256)
      (a, k) :: cut n (a + k) (len - k)

/-- A request of a hard block. -/
def blockPkt (s : State) (src : Nat) (o : Owner) (write : Bool) (a len : Nat) : Pkt :=
  { op := if write then .wrNp else .rd, src, gen := (s.mapOf src).gen, epoch := s.noc.epoch, dom := o, dst := a % 2 ^ 48, len, tag := 0,
    urgent := false, mask := 0, status := .ok, data := [] }

/-- What one request of a hard block meets before its destination serves it: muzzles (R213), the firewall (R209), a band that is not ON
(R225) and the outbound translation (R342). -/
def blockMeets (s : State) (p : Pkt) : Status × State :=
  let id := pktEp p
  if isMuzzled s p.src then (.destMuzzled, bump s p.src 2)
  else if (s.mapOf id).state == .unassigned then (.firewallDeny, s)
  else if isMuzzled s id then (.destMuzzled, bump s id 1)
  else if id = 0x118 || isTable id then (.firewallDeny, bump s id 4)
  else if !(fwPass s p || ownRules id) then (.firewallDeny, nocInt (bump s id 4) (dstOwner s id (pktOff p)) 8)
  else if id < 0x80 then
    let b := (s.mapOf id).row
    if (s.bandOf b).held && !(s.bandOf b).waking then (.destPoweredDown, nocInt s p.dom 0x20) else (.ok, wakeBand s b)
  else if isPci id then (obStatus s (id - 0x110) (pktOff p) p.len, s)
  else (.ok, s)

/-- An access of `n` bytes by a hard block, request by request; the first that fails ends it. `st` is what the destination answers to one
that reaches it, TIMEOUT where it does not (R211, R212). -/
def blockAccess (s : State) (src : Nat) (o : Owner) (write : Bool) (a n : Nat) (st : Status) : Status × State :=
  let u := (cut (n + 1) a n).foldl (fun (u : Status × State) x =>
    if u.1 == .ok then blockMeets u.2 (blockPkt u.2 src o write x.1 x.2) else u) (.ok, s)
  if u.1 != .ok || (write && isPci (naEp a)) then u
  else if st == .timeout then
    (.timeout, declareDead (nocLast (nocInt (bump u.2 src 5) o 2) 5 0 .timeout src) (naEp a))
  else (st, u.2)

/-- A hard block writes bytes over the network; at PCI_p they go to the host. -/
def blockWrite (s : State) (src : Nat) (o : Owner) (a : Nat) (bs : List Byte) (st : Status) : Status × State :=
  let u := blockAccess s src o true a bs.length st
  if u.1 != .ok then u
  else if isPci (naEp a) then
    (.ok, (cut (bs.length + 1) a bs.length).foldl (fun v x =>
      v.emit (.tlp (naEp a - 0x110) true 0 (obHost v (naEp a - 0x110) (naOff x.1)) x.2 ((bs.drop (x.1 - a)).take x.2))) u.2)
  else (.ok, u.2.emit (.dma o a bs))

end Sys2Proof.Machine
end

