-- ==== Sys2Proof/Machine/PortOps.lean ====
section
/-! DEFINITION. What the port engines share: which port runs, the level at a pin, events, timestamps, modes (R229–R246). -/
namespace Sys2Proof.Machine
open Sys2Proof

/-- The declared level of a code of VCCIO_DECL_k in mV, 0 when undeclared (Table 3.9). -/
def declMv (d : Nat) : Nat := [0, 1200, 1500, 1800, 2500, 3300, 0, 0].getD d 0

/-- A bank whose measured VCCIO lies outside ±10 % of its declaration stays in Hi-Z (R233). -/
def bankHeld (s : State) (k : Nat) : Bool :=
  let n := declMv (wf (s.cfgReg (0x20 + k)) 2 0)
  let m := s.boot.vccio.getD k 0
  n != 0 && !atLevel m n

/-- A port's engine runs and its pin leaves Hi-Z: outputs are released, its group is owned, its bank is declared and at
its level (R27, R233, Table 4.6); a full-mode test takes it out of service (R452). -/
def portLive (s : State) (n : Nat) : Bool :=
  !outOfService s 0x83 n && s.boot.released && s.owner (resPort n) != .unowned && wf (s.cfgReg (0x20 + n / 64)) 2 0 != 0 && !bankHeld s (n / 64)

/-- The mode of a port's own PORT_CFG. -/
def ownMode (s : State) (n : Nat) : Nat := wf (s.portOf n).cfg 31 28

/-- A pair mode (Table 8.2). -/
def pairMode (m : Nat) : Bool := m == 6 || m == 7 || m == 8

/-- A ring that is not STOPPED has taken the port (R281, R282). -/
def ringTakes (s : State) (n : Nat) : Bool := 12 ≤ n % 16 && (s.ringOf (n / 16)).state != .stopped

/-- The mode that a port reads: the odd port of a pair mode is PAIR_SLAVE (R235), a port of a ring DISABLED (R282). -/
def portMode (s : State) (n : Nat) : Nat :=
  if ringTakes s n then 0 else if n % 2 = 1 && pairMode (ownMode s (n - 1)) then 9 else ownMode s n

/-- A level as a pin state. -/
def lvl (b : Bool) : Pin := if b then .high else .low

/-- The image configuration of a port. -/
def portImage (s : State) (n : Nat) : PortImage := SMap.get (fun _ => ({} : PortImage)) s.design.ports n

/-- The pair of a port is one LVDS input or output, which the engine of its even port serves (R230, R232). -/
def lvds (s : State) (n : Nat) : Bool := (portImage s (n / 2 * 2)).io.std == .lvds

/-- The highest-ranked source in force (Table 8.4) (DEDUCED, log entry 34). -/
def pinNow (live : Bool) (p : Port) : Pin :=
  if !live then .z
  else if p.forced then
    match wf p.outCtrl 5 4 with
    | 0 => .low
    | 1 => .high
    | 2 => .z
    | _ => p.held
  else match p.reflex with
    | some l => lvl l
    | none => p.mode

/-- A pin under its standard: open drain drives no 1 (Table 8.1). -/
def pinIo (io : PortIo) (q : Pin) : Pin := if io.openDrain && q == .high then .z else q

/-- The pad level that a sample sees: that of a driven pin, or for one in Hi-Z what was sampled last (R239, Table 8.9)
(DEDUCED, log entry 34). -/
def padNow (q : Pin) (pad : Bool) : Bool := match q with | .z => pad | .low => false | .high => true

/-- fp_raw_in follows the pad before the filter and the inversion; a DISABLED port's input is ignored (Tables 8.2, 8.3). -/
def rawIn (s : State) (n : Nat) (old new : Bool) : State :=
  if old == new || portMode s n = 0 then s else s.emit (.wire "fp_raw_in" n (if new then 1 else 0))

/-- A pin takes a state: a change shows outside. -/
def placePin (s : State) (n : Nat) (p : Port) (q : Pin) : State :=
  let s1 := rawIn (s.setPort n { p with pin := q, pad := padNow q p.pad }) n p.pad (padNow q p.pad)
  if q == p.pin then s1
  else s1.emit (.wire "FP" n (match q with | .z => 2 | .low => 0 | .high => 1))

/-- The other side of an LVDS pair. -/
def oppositePin : Pin → Pin
  | .z => .z | .low => .high | .high => .low

/-- Stores a port with its pin worked out anew; one that a ring has taken is driven by the pair serialiser alone (R282). The even port of
an LVDS pair drives both pins (R232). -/
def putPort (s : State) (n : Nat) (p : Port) : State :=
  let q := pinIo (portImage s n).io (pinNow (portLive s n && !ringTakes s n) p)
  if !lvds s n then placePin s n p q
  else if n % 2 = 1 then s.setPort n p
  else placePin (placePin s n p q) (n + 1) (s.portOf (n + 1)) (oppositePin q)

/-- The driver that OUT_STATUS shows (Table 8.9). -/
def driverCode (s : State) (n : Nat) (p : Port) : Nat :=
  if !portLive s n || ringTakes s n then 0 else if p.forced then 6 else if p.reflex.isSome then 5 else p.driver

/-- Sets bits of a port's INT_STATUS. -/
def portBits (s : State) (n : Nat) (bits : Word) : State :=
  s.setPort n { s.portOf n with int := (s.portOf n).int ||| bits }

/-- fp_evt pulses once for an event of the port (Table 8.3). -/
def fpEvt (s : State) (n : Nat) : State := s.emit (.wire "fp_evt" n 1)

/-- An event sets its bit and pulses fp_evt. -/
def portEvent (s : State) (n : Nat) (bits : Word) : State := fpEvt (portBits s n bits) n

/-- Raises a pulse signal of the table of a port's bank for the next evaluated cycle (R265). -/
def raisePulse (s : State) (n sig : Nat) : State :=
  let t := 0x100 + n / 64
  s.setTable t { s.tableOf t with pulses := (s.tableOf t).pulses ||| (1#256 <<< sig) }

/-- LATE: each accessor's view of the bit is set, and the table sees a pulse (R245, R251). -/
def portLate (s : State) (n : Nat) : State :=
  fpEvt (raisePulse (s.raiseAll 0x7003C n 8) n (0x40 + n % 64)) n

/-- PAIR and PAIR_ERR of a pair, named by its even port. -/
def portPair (s : State) (n : Nat) : State := raisePulse (portEvent s n 0x10) n (0x80 + n % 64 / 2)
def portPairErr (s : State) (n : Nat) : State := raisePulse (portEvent s n 0x20) n (0xA0 + n % 64 / 2)

/-- The DTB, in ns, that a history puts at an uptime: `now` reads `dtb` and has run at `rate` since the newest entry (R240, R252). -/
def dtbBack (u : Nat) : List (Nat × Nat × Int) → Nat → Nat → Int → Nat
  | [], now, dtb, rate => ((dtb : Int) - ((now - u : Nat) : Int) * (17592186044416 + 16 * rate)).toNat >>> 44
  | (t, d, r) :: hs, now, dtb, rate =>
    if t ≤ u then ((dtb : Int) - ((now - u : Nat) : Int) * (17592186044416 + 16 * rate)).toNat >>> 44 else dtbBack u hs t d r

/-- The DTB value, in ns, of the sample taken at an uptime. -/
def stampAt (s : State) (u : Nat) : Nat := dtbBack u s.tbs.hist s.uptime s.tbs.dtb s.tbs.rate

/-- A timestamp enters the FIFO, or is lost to a full one (R241). -/
def pushStamp (s : State) (n t : Nat) (rising : Bool) : State :=
  let p := s.portOf n
  if p.ts.length < 4 then
    portBits (s.setPort n { p with ts := p.ts ++ [{ t, rising, ovf := p.ovfPend }], ovfPend := false }) n 1
  else portEvent (s.setPort n { p with ovfCnt := sat 255 p.ovfCnt, ovfPend := true }) n 2

/-- What the mode source drives when a mode begins, and its code (Tables 8.2, 8.4): OUT_CTRL in OUTPUT, the idle level
of a generator that has not started, fp_out and fp_oe, a clock or line that idles high. -/
def modeStart (m : Nat) (p : Port) : Pin × Nat :=
  match m with
  | 2 => (if wb p.outCtrl 2 then lvl (wb p.outCtrl 0) else .z, 1)
  | 3 => (.low, 3)
  | 4 => (if p.foe then lvl p.fout else .z, 4)
  | 5 => (if p.foe then lvl p.fout else .z, 4)
  | 7 => (.high, 7)
  | 8 => (.high, 7)
  | _ => (.z, 0)

/-- A port enters a mode: its schedule is flushed, PWM and pair functions stop with their FIFOs empty, a reflex level
ends; timestamps and the forced-safe latch stay (R237). -/
def enterMode (s : State) (n m : Nat) : State :=
  let p := s.portOf n
  let d := modeStart m p
  let inLevel (k : Nat) : Bool := (s.portOf k).pad != wb (s.portOf k).cfg 25
  putPort s n { p with sched := [], run := none, busy := false, tx := [], rx := [], rxOvr := false, reflex := none,
                       line := [], rxAt := none, txAt := none,
                       quadA := if m = 6 then inLevel n else p.quadA, quadB := if m = 6 then inLevel (n + 1) else p.quadB,
                       fpIn := if m = 6 || m = 9 then inLevel n else p.fpIn,
                       mode := d.1, driver := d.2 }

/-- The band whose fabric drives a port: that beside its group (R229). -/
def portBand (n : Nat) : Nat := 4 * (n / 64 % 4) + n % 64 / 16

/-- The region whose boundary latches a port's outputs pass, where a region drives them. -/
def portRegion (s : State) (n : Nat) : Option Nat := SMap.get (fun _ => (none : Option Nat)) s.design.portFrom n

/-- What keeps the engine from seeing fp_out and fp_oe change: the boundary latches of the region that drives them, and a whole-device
swap between its decision and the latest E1 (R142, R173; DESIGN CHOICE, log entry 76). -/
def portLatched (s : State) (n : Nat) : Bool := (portRegion s n).any s.latches || deviceSwaps s

/-- The engine sees fp_out and fp_oe; in FABRIC and RAW modes they drive the pin (R238, R242). -/
def takeOut (s : State) (n : Nat) (out oe : Bool) : State :=
  let s1 := s.setPort n { s.portOf n with fout := out, foe := oe }
  let m := portMode s n
  if m = 4 || m = 5 then
    putPort s1 n { s1.portOf n with mode := if oe then lvl out else .z, driver := 4, reflex := none }
  else s1

/-- The ports that have a state of their own or an image configuration. -/
def knownPorts (s : State) : List Nat := ((s.port.map (·.1)) ++ (s.design.ports.map (·.1))).eraseDups

/-- A latch becomes transparent: the engine sees what the region drives. -/
def openOut (s : State) (n : Nat) : State :=
  let p := s.portOf n
  if portLatched s n || (s.bandOf (portBand n)).state != .on || (p.fout == p.rout && p.foe == p.roe) then s
  else takeOut s n p.rout p.roe

/-- The latches of a region, or after a whole-device swap all that held, become transparent (R143, R164). -/
def openLatches (s : State) : State := (knownPorts s).foldl openOut s

/-- A border signal at its isolation value (Table 5.1, R144). -/
def isoValue (s : State) (k : Nat) (old : Bool) : Bool :=
  match SMap.get (fun _ => Iso.hold) s.design.iso k with
  | .hold => old
  | .zero => false
  | .one => true

/-- The border of a sealed region drives its isolation values: fp_out and fp_oe of port n are signals 2n and 2n + 1, rfx_in[i] of
table t is signal 4096 + 64t + i. A soft border only holds. -/
def sealBorder (s : State) (r : Nat) : State :=
  if r < 128 then s
  else
    let s1 := ((knownPorts s).filter fun n => portRegion s n == some r).foldl (fun u n =>
      takeOut u n (isoValue u (2 * n) (u.portOf n).fout) (isoValue u (2 * n + 1) (u.portOf n).foe)) s
    ((List.range 128).filter fun t => s.regionAt (t / 8) (niCol (t % 8)) == some r).foldl (fun u t =>
      u.setTable t { u.tableOf t with rfxIn := ((List.range 64).filter fun i =>
        isoValue u (4096 + 64 * t + i) ((u.tableOf t).rfxIn.getLsbD i)).foldl (fun v i => v ||| (1#64 <<< i)) 0 }) s1

/-- The forced-safe latch is set; what the pin showed is kept for `hold` (R243). -/
def forceSafe (s : State) (n : Nat) : State :=
  let p := s.portOf n
  if p.forced then s
  else portBits (putPort s n { p with forced := true, held := p.pin }) n 0x80

/-- The mode source drives a level, which ends a reflex level (R242). -/
def driveMode (s : State) (n : Nat) (v : Pin) (drv : Nat) : State :=
  putPort s n { s.portOf n with mode := v, driver := drv, reflex := none }

/-- A port's engine takes its image configuration (R236, Table 1.5): start-up, domain reset. The forced-safe latch
stays. -/
def initPort (s : State) (n : Nat) : State :=
  let i := portImage s n
  let p := s.portOf n
  s.setPort n { forced := p.forced, held := p.held, pin := p.pin, pad := p.pad, ser := p.ser, des := p.des, fout := p.fout, foe := p.foe, rout := p.rout, roe := p.roe,
                cfg := i.cfg &&& 0xFE00FFFF, outCtrl := i.outCtrl &&& 0x35, pwmP := i.pwmPeriod, pwmH := i.pwmHigh,
                pairCfg := i.pairCfg }

/-- The engine starts in its image's mode. -/
def startPort (s : State) (n : Nat) : State := let u := initPort s n; enterMode u n (portMode u n)

/-- Works out the pins of every known port anew: after a tenancy change or the release of outputs. -/
def refreshPins (s : State) : State := (knownPorts s).foldl (fun u n => putPort u n (u.portOf n)) s

/-- A port engine is re-initialised and forced safe; that the latch was set is recorded in the new INT_STATUS (Table 1.5,
R243). -/
def resetPort (s : State) (n : Nat) : State :=
  let s1 := startPort (forceSafe s n) n
  if (s.portOf n).forced then s1 else s1.setPort n { s1.portOf n with int := (s1.portOf n).int ||| 0x80 }

/-- Port engines of an owner are re-initialised and forced safe (Table 1.5, R243). -/
def resetGroups (s : State) (o : Owner) : State :=
  ((List.range 1024).filter fun n => s.owner (resPort n) == o).foldl resetPort s

/-- Host-loss policy SAFE: the forced-safe latches of an owner's groups are set (Table 11.8). -/
def forceGroups (s : State) (o : Owner) : State :=
  ((List.range 1024).filter fun n => s.owner (resPort n) == o).foldl forceSafe s

/-! ## Steps of the timebase (R258) -/

/-- The first T0 + kP after an instant. -/
def nextPeriod (t0 p t : Nat) : Nat := ((t : Int) + (p : Int) - (((t : Int) - (t0 : Int)) % (p : Int))).toNat

/-- A generator after a step of the DTB: it goes on at the next T0 + kP; a falling edge that a forward step has not passed
is still placed. Single frames (P = 0) keep their instant. -/
def stepRun (old new : Nat) (r : PwmRun) : PwmRun :=
  if r.p = 0 || (old < new && r.high && !r.wait && new < r.t0 + r.h) then { r with since := min r.since new }
  else { r with t0 := nextPeriod r.t0 r.p new, wait := true, since := min r.since new, high := false }

/-- Queue and generator of a port after a step of the DTB from `old` to `new`: entries whose time has been passed are
late at once; after a backward step they wait for their time. -/
def stepPort (old new : Nat) (p : Port) : Port :=
  { p with
    headAt := match p.sched with
      | e :: _ => if old < new && e.t < new then new else min p.headAt new
      | [] => p.headAt
    run := p.run.map (stepRun old new) }

end Sys2Proof.Machine
end

