-- ==== Sys2Proof/Machine/BstOps.lean ====
section
/-! DEFINITION. What ends a self-test slice, and who owns a target (R442–R451); service that meets a slice ends it from
other blocks' meanings (Table 15.2). -/
namespace Sys2Proof.Machine
open Sys2Proof

/-! ## Targets (Table 15.1) -/

/-- A full-mode test is the in-service test of the same target, or NV_ARRAY (Table 15.5). -/
def baseTest (test : Nat) : Nat :=
  if test = 0x81 then 1 else if test = 0x82 then 4 else if test = 0x83 then 6 else test

/-- The owner of a target; none for a device-wide one. -/
def targetOwner (s : State) (test target : Nat) : Option Owner :=
  match baseTest test with
  | 1 => (s.regionAt (ramBand target) (ramCol target)).map s.owner
  | 2 => (s.regionAt (dspBand target) (dspCol target)).map s.owner
  | 6 => some (s.owner (resPort target))
  | 0x84 => ((s.nv.ranges.find? fun e => e.2.first ≤ target % 1024 && target % 1024 ≤ e.2.last).map fun e => s.owner (resRange e.1))
  | _ => none

/-- The owner codes told of a target: its owner, or every accessor. -/
def targetAccsB (s : State) (test target : Nat) : List Nat :=
  match targetOwner s test target with
  | some o => [ocode o]
  | none => accessors

/-- The setter of an entry; a default entry that nobody has rewritten is the lead domain's (R446). -/
def setterOf (s : State) (k : Nat) (e : BstEntry) : Owner :=
  if 56 ≤ k && e.setter == .unowned then ownerOf s.leadCode else e.setter

/-- A name for a sweep (DEDUCED, log entry 63). -/
def sweepTarget : Nat := 0xFFFFFF

/-- R445: entries whose setter no longer owns their target are disabled. -/
def dropEntries (s : State) : State :=
  { s with bst := { s.bst with
    entries := s.bst.entries.map fun (e : Nat × BstEntry) =>
      let lost := e.2.enable && e.2.target != sweepTarget && (match targetOwner s e.2.test e.2.target with
        | some o => o != setterOf s e.1 e.2
        | none => ownerOf s.leadCode != setterOf s e.1 e.2)
      (e.1, if lost then { e.2 with enable := false } else e.2) } }

/-! ## Signatures (R449) -/

/-- The MISR takes a word: one step of x^64 + x^4 + x^3 + x + 1, then the word is added (DEDUCED, log entry 27). -/
def misrStep (m w : BitVec 64) : BitVec 64 := (m <<< 1) ^^^ (if m.msb then 0x1B else 0) ^^^ w

/-- The signature at an end: the pattern count and the token of a normal or an early end. -/
def misrEnd (m : BitVec 64) (patterns : Nat) (early : Bool) : BitVec 64 :=
  misrStep (misrStep m (BitVec.ofNat 64 (patterns % 0x100000000))) (if early then 0xAB070D1E else 0xE4D05EA1)

/-- What the expected signature of a target depends on beside the target: its configuration. -/
def targetConfig (s : State) (test target : Nat) : List Nat :=
  match baseTest test with
  | 1 => let c := SMap.get (fun _ => ({} : RamCfg)) s.design.rams target
         [match c.mode with | .tdp36 => 0 | .tdp72 => 1 | .ecc64 => 2]
  | 3 => [(s.pllOf target).aCtrl.toNat, (s.pllOf target).aDiv.toNat]
  | 4 => let l := SMap.get (fun _ => ({} : LaneImage)) s.design.lanes target; [l.rate, b2n l.pam4]
  | 6 => [wf (s.cfgReg (0x20 + target / 64)) 2 0]
  | _ => []

/-! ## Records (R448) -/

/-- Coverage in per mille (Table 15.1); the full-mode tests have none stated. -/
def coverage (test : Nat) : Nat := [0, 950, 980, 700, 800, 600, 700, 900, 950].getD test 0

/-- The words of a record (Table 15.4). -/
def recWords (r : BstRec) : List Word :=
  [wd (r.test * 0x1000000 + r.target), wd (r.seq * 0x10000 + scode r.status * 256 + r.detail), wd r.cov, wd r.dur,
   r.misr.extractLsb' 0 32, r.misr.extractLsb' 32 32]

/-- The sequence number after a record's: counted per record from 1, wrapping past 0xFFFF to 1. -/
def nextSeq (old : Option BstRec) : Nat :=
  match old with
  | some r => if r.seq ≥ 0xFFFF then 1 else r.seq + 1
  | none => 1

/-- What was in flight at T on a member of an armed target has ended: the decision moves to its end, by at most `limit` ns (R163). -/
def moveDecision (s : State) (began limit : Nat) (hit : Nat → Target → Bool) : State :=
  { s with cfg := { s.cfg with targets := s.cfg.targets.map fun e =>
    if e.2.state == .armed && began ≤ e.2.t && e.2.t ≤ s.now && hit e.1 e.2 then
      (e.1, { e.2 with moved := max e.2.moved (min s.now (e.2.t + limit)) })
    else e } }

/-- A slice runs in the intersections of a member of a target. -/
def sliceAt (s : State) (x : Slice) (r : Nat) : Bool :=
  if baseTest x.test = 1 then inRects (s.rects r) (ramBand x.target) (ramCol x.target)
  else if baseTest x.test = 2 then inRects (s.rects r) (dspBand x.target) (dspCol x.target)
  else false

/-- A slice has ended: its record replaces the one of its entry, or the oldest of BIST_RUN; counters, interrupts and the
loop-4 entry follow, and the command behind it completes (R447, R448, R451). -/
def endSlice (s : State) (slot : Nat) (x : Slice) (st : Status) (detail dur : Nat) (misr : BitVec 64) : State :=
  let key := x.entry.getD (64 + s.bst.rr)
  let r : BstRec := {
    test := x.test, target := x.target, seq := nextSeq (SMap.get dNone s.bst.recs key), status := st, detail := detail % 256,
    cov := coverage x.test, dur := dur % 0x100000000, misr := misr, stamp := s.bst.stamp + 1,
    readBy := match x.cmd with | some c => [c.d] | none => []
    sweep := match x.entry with | some k => (SMap.get dBstE s.bst.entries k).target == sweepTarget | none => false }
  let accs := targetAccsB s x.test x.target
  let s1 := { s with bst := { s.bst with
    recs := SMap.set dNone s.bst.recs key (some r), rr := if x.entry.isNone then (s.bst.rr + 1) % 16 else s.bst.rr,
    stamp := s.bst.stamp + 1, slices := SMap.set dNone s.bst.slices slot none, ended := sat 0xFFFFFFFF s.bst.ended,
    fails := if st == .testFail then sat 0xFFFF s.bst.fails else s.bst.fails,
    aborts := if st == .testAborted then sat 0xFFFF s.bst.aborts else s.bst.aborts,
    lastF := if st == .testFail then wd (x.test * 0x1000000 + x.target) else s.bst.lastF,
    entries := match x.entry with
      | some k => SMap.set dBstE s.bst.entries k { SMap.get dBstE s.bst.entries k with status := st }
      | none => s.bst.entries } }
  let s2 := moveDecision (if st == .testFail then
      ((s1.raiseFor accs 0xF0028 0 1).policy .testFail 4 x.test x.target).post allDomains 0 .testFail 4 x.test x.target
    else if st == .testAborted then s1.raiseFor accs 0xF0028 0 2
    else s1) 0 500000 fun _ g => g.members.any fun r => r != staticMember && sliceAt s x r
  endCmd? x.cmd st 5 (recWords r) s2

/-- A slice ends early (R444, R449): what its MISR held is not known here, so its signature is a free value. -/
def abortSlice (s : State) (slot : Nat) (x : Slice) : State :=
  endSlice s.takeFree slot x .testAborted 0 (s.uptime - x.t) ((Config.freeBits s.free).setWidth 64)

/-- Service meets the target of a running slice (Table 15.2). -/
def meetSlice (s : State) (test target : Nat) : State :=
  s.bst.slices.foldl (fun u e => match e.2 with
    | some x => if baseTest x.test = test && x.target = target then abortSlice u e.1 x else u
    | none => u) s

end Sys2Proof.Machine
end

