-- ==== Sys2Proof/Machine/RfxOps.lean ====
section
/-! DEFINITION. What the reflex path shares: tables and their actions, flows and the route condition, arming, sending an
EVENT (R262–R279). A table is named by its endpoint ID; a fabric table is the one at the ID's attachment. -/
namespace Sys2Proof.Machine
open Sys2Proof

/-- A number names a table. -/
def isTableId (t : Nat) : Bool := t < 0x80 || (0x100 ≤ t && t < 0x110)

/-- The table that an ID reaches: after a remap, the one at the new attachment (R275). -/
def tableAt (s : State) (id : Nat) : Nat := if id < 0x80 then (s.mapOf id).phys else id

/-- What the frames of a table hold. -/
def State.image (s : State) (t : Nat) : TableImage := SMap.get (fun _ => ({} : TableImage)) s.design.tables t

/-- The band of a table's state in Table 9.11: that of a fabric table; a bank table needs none. -/
def tableBand (t : Nat) : Option Nat := if t < 0x80 then some (t / 8) else none

/-- A table's band is ON, or has none. -/
def tableOn (s : State) (t : Nat) : Bool :=
  match tableBand t with
  | some b => (s.bandOf b).state == .on
  | none => true

/-- A table's band is ON or DOZE, or has none. -/
def tableUp (s : State) (t : Nat) : Bool :=
  match tableBand t with
  | some b => (s.bandOf b).state == .on || (s.bandOf b).state == .doze
  | none => true

/-- Action j of a term (Table 9.3). -/
def termAction (ws : List Word) (j : Nat) : Word := nth ws (4 + j)

/-- The destinations of a table's SEND_EVENT actions that name a table: its flows, in the order of its terms (R271). -/
def flowDsts (s : State) (t : Nat) : List Nat :=
  ((s.image t).terms.flatMap fun ws => (List.range 4).filterMap fun j =>
    let a := termAction ws j
    if wf a 31 28 = 4 && isTableId (wf a 24 16) then some (wf a 24 16) else none).eraseDups

/-- The tables that are armed. -/
def armedTables (s : State) : List Nat := (s.rfx.tables.filter fun e => e.2.armed).map (·.1)

/-- The owner codes of those who may read a table (R264). -/
def tableReaders (s : State) (t : Nat) : List Nat :=
  if t < 0x80 then ownerAccs (tableOwner s t)
  else (((List.range 4).map fun j => s.owner (136 + 4 * (t - 0x100) + j)).filter (· != .unowned)).map ocode |>.eraseDups

/-! ## Routes (R200, R220, R278) -/

/-- One stage of a route: router, input port and output port (codes of NOC.RTR_VC0). -/
structure Hop where
  router : Nat
  inp    : Nat
  out    : Nat
  deriving DecidableEq, Repr

/-- The output port towards a destination router under the route tables in force. -/
def routeOut (s : State) (r dst : Nat) : Nat :=
  match SMap.get dNat s.noc.routes ((s.noc.epoch * 128 + r) * 128 + dst) with
  | 1 => 0
  | 2 => 1
  | 3 => 2
  | 4 => 3
  | _ => if r % 8 < dst % 8 then 2 else if dst % 8 < r % 8 then 3 else if r < dst then 0 else 1

/-- The router beyond an output port: N and S change the row, E and W the column. -/
def routerStep (r out : Nat) : Nat := match out with | 0 => r + 8 | 1 => r - 8 | 2 => r + 1 | _ => r - 1

/-- The input port by which a flit that left by an output port enters the next router. -/
def entryPort (out : Nat) : Nat := match out with | 0 => 1 | 1 => 0 | 2 => 3 | _ => 2

/-- The stages of a route, from a router entered by a port to the port of the destination. -/
def walk (s : State) : Nat → Nat → Nat → Nat → Nat → List Hop
  | 0, _, _, _, _ => []
  | n + 1, r, inp, dst, last =>
    if r = dst then [{ router := r, inp, out := last }]
    else
      let o := routeOut s r dst
      { router := r, inp, out := o } :: walk s n (routerStep r o) (entryPort o) dst last

/-- The route of a flow between two tables. -/
def flowPath (s : State) (src dst : Nat) : List Hop :=
  let a := s.mapOf src
  let b := s.mapOf dst
  walk s 130 (8 * a.row + a.col) (4 + a.port) (8 * b.row + b.col) (4 + b.port)

/-- A flow with its route. -/
structure Flow where
  src  : Nat
  dst  : Nat
  path : List Hop
  deriving DecidableEq, Repr

/-- The armed flows. A fabric table stands under the ID that its NI stamps. -/
def armedFlows (s : State) : List Flow :=
  (armedTables s).flatMap fun t =>
    let id := if t < 0x80 then servedId s t else t
    (flowDsts s t).map fun d => { src := t, dst := d, path := flowPath s id d }

/-- The competing count at one stage of a flow (R278). -/
def competing (fs : List Flow) (f : Flow) (h : Hop) : Nat :=
  (fs.filter fun g => !(g.src == f.src && g.dst == f.dst) &&
    g.path.any fun k => k.router == h.router && k.out == h.out && k.inp != h.inp).length

/-- W_f: the waits along the route and at the injection point. -/
def flowWaits (fs : List Flow) (f : Flow) : Nat :=
  (f.path.foldl (fun n h => n + competing fs f h) 0) + (fs.filter fun g => g.src == f.src && g.dst != f.dst).length

/-- H: mesh hops. -/
def flowHops (f : Flow) : Nat := f.path.length - 1

/-- B_f − F in 1/16 ns (R277). -/
def flowBound (h w : Nat) : Nat := 224 + 16 * (h + 2) + 8 * w

/-- F of a flow (R277, R239): the longest filter among the ports whose levels the terms that send it read, in ns; none for a fabric table
(DEDUCED, log entry 37). -/
def flowFilter (s : State) (src dst : Nat) : Nat :=
  if src < 0x100 then 0
  else
    let sends (ws : List Word) : Bool := (List.range 4).any fun j =>
      wf (termAction ws j) 31 28 == 4 && wf (termAction ws j) 24 16 == dst
    let lits (ws : List Word) : List Nat := (List.range 4).flatMap fun w => [wf (nth ws w) 15 0, wf (nth ws w) 31 16]
    (((s.image src).terms.filter sends).flatMap lits).foldl (fun n l =>
      if bf l 15 15 = 1 && bf l 7 0 < 0x40 then max n (wf (s.portOf (64 * (src - 0x100) + bf l 7 0)).cfg 15 0) else n) 0

/-- S_f: the bound, the source port's filter included, rounded up to a whole nanosecond (R271). -/
def flowSpacing (h w f : Nat) : Nat := (flowBound h w + 15) / 16 + f

/-- The flow between two tables, among the armed ones or as it would be. -/
def flowOf (s : State) (src dst : Nat) : Flow :=
  { src, dst, path := flowPath s (if src < 0x80 then servedId s src else src) dst }

/-- The spacing of a flow. -/
def spacing (s : State) (src dst : Nat) : Nat :=
  let f := flowOf s src dst
  flowSpacing (flowHops f) (flowWaits (armedFlows s) f) (flowFilter s src dst)

/-- The route check (R279): the MC's results, and the interrupt where a flow breaks the condition. -/
def routeCheck (s : State) : State :=
  let fs := armedFlows s
  let ok (f : Flow) : Bool := flowWaits fs f ≤ 4 && flowHops f ≤ 22 && f.path.all fun h => competing fs f h ≤ 1
  let within := fs.all ok
  let rowW (b : Nat) : Nat := fs.foldl (fun n f => if f.path.any (fun h => h.router / 8 == b) then max n (flowWaits fs f) else n) 0
  let rowC (b : Nat) : Nat := fs.foldl (fun n f => f.path.foldl (fun n h => if h.router / 8 == b then max n (1 + competing fs f h) else n) n) 0
  let rows := List.range 16
  let agrees := rows.all fun b =>
    let j := s.cfgReg (0x40 + b)
    wf j 23 16 == min 255 (rowW b) && wf j 7 0 == min 255 (rowC b)
  let s1 := { s with rfx := { s.rfx with
    within := within, agrees := agrees,
    maxW := fs.foldl (fun n f => max n (flowWaits fs f)) 0,
    maxB := fs.foldl (fun n f => max n (flowBound (flowHops f) (flowWaits fs f))) 0,
    rowW := rows.foldl (fun m b => SMap.set dNat m b (rowW b)) [],
    rowC := rows.foldl (fun m b => SMap.set dNat m b (rowC b)) [] } }
  if within then s1 else s1.raiseAll 0x60038 0 8

/-! ## Arming (R272, R273) -/

/-- R273: what keeps a fabric table from being armed. -/
def armRefused (s : State) (t : Nat) : Bool :=
  !tableOn s t || (flowDsts s t).any fun d => d < 0x80 && !tableOn s (tableAt s d)

/-- Arms or disarms a table. A refused attempt leaves it disarmed. `ctrl` marks a write of RFX.CTRL, whose result arm_status shows (Table
9.11); an attempt from another source shows there only where it is refused (R273). -/
def setArm (s : State) (t : Nat) (on ctrl : Bool) : State :=
  let g := s.tableOf t
  let st := if ctrl then .ok else g.armSt
  if !on then s.setTable t { g with armed := false, armSt := st, live := [] }
  else if t < 0x80 && armRefused s t then
    (s.setTable t { g with armed := false, armSt := .destPoweredDown, live := [] }).raiseFor (tableReaders s t) 0x60038 0 4
  else s.setTable t { g with armed := true, armSt := st }

/-- The arm state of a fabric table's frames becomes effective. -/
def armFromImage (s : State) (t : Nat) : State := setArm s t (s.image t).armed false

/-- Every table arms as it does at OUTPUTS_RELEASE. -/
def armAll (s : State) : State :=
  let s1 := (List.range 16).foldl (fun u k => setArm u (0x100 + k) true false) s
  routeCheck ((s1.design.tables.filter fun e => e.1 < 0x80).foldl (fun u e => armFromImage u e.1) s1)

/-- The fabric tables whose frames lie in a set of intersections: table 8b + c is held in column N(c) of band b (R263). -/
def tablesIn (p : Nat → Nat → Bool) : List Nat := (List.range 128).filter fun t => p (t / 8) (niCol (t % 8))

/-- Remote signals of some tables are cleared (R269). -/
def clearRemote (s : State) (ts : List Nat) : State :=
  ts.foldl (fun u t => u.setTable t { u.tableOf t with remote := 0 }) s

/-- Some tables stop or start being evaluated: between E0 and E1 of a swap of their region (R266, R269). -/
def setCycle (s : State) (ts : List Nat) (on : Bool) : State :=
  ts.foldl (fun u t => u.setTable t { u.tableOf t with inCycle := on, live := [] }) s

/-! ## EVENTs (R269–R275) -/

/-- A drop of R275: counted at the source table, and told to its owner, or to every domain for a bank table. -/
def eventDrop (s : State) (t : Nat) : State :=
  (s.setTable t { s.tableOf t with dropTx := sat 0xFFFF (s.tableOf t).dropTx }).raiseFor
    (if t < 0x80 then tableReaders s t else accessors) 0x60038 0 2

/-- Two routes share an output of a router. -/
def sharesOut (ps : List Hop) (h : Hop) : Bool := ps.any fun k => k.router == h.router && k.out == h.out

/-- RTR_VC0 of the outputs on an EVENT's route (R198, R228). Of the EVENTs in flight that use an output, any number may have been served
ahead of one of them there: how many is a free value within that bound (DESIGN CHOICE, log entry 32). -/
def vc0Count (s : State) (e : EventPkt) : State :=
  (flowPath s e.src e.dst).foldl (fun u h =>
    let n := (u.noc.events.filter fun k => sharesOut (flowPath u k.src k.dst) h).length
    if n = 0 then u
    else
      let v := (Config.freeBits u.free).toNat % (n + 1)
      let k := 8 * h.router + h.out
      { u.takeFree with noc := { u.noc with vc0 := SMap.set dNat u.noc.vc0 k (max v (SMap.get dNat u.noc.vc0 k)) } }) s

/-- Sends an EVENT (R270): it is stamped and injected, unless its source or its destination is muzzled (Table 7.7). -/
def sendEvent (s : State) (t : Nat) (h : HeldEvt) : State :=
  let (id, gen) := if t < 0x80 then niOf s t else (t, 0)
  let s1 := s.setTable t { s.tableOf t with sent := SMap.set dNat (s.tableOf t).sent h.dst (s.uptime + 1) }
  if (s.mapOf id).phys != t || (s.mapOf id).gen != gen then eventDrop (bump s1 id 3) t
  else if isMuzzled s id then eventDrop (bump (bump s1 id 2) h.dst 1) t
  else if isMuzzled s h.dst then eventDrop (bump s1 h.dst 1) t
  else
    let e : EventPkt := { src := id, gen, epoch := s.noc.epoch, dom := if t < 0x80 then tableOwner s t else .fab,
                          dst := h.dst, r := h.r, mode := h.mode, term := h.term, origin := h.origin, rt := rtWord s h.dst,
                          table := t }
    let s2 := vc0Count s1 e
    { s2 with noc := { s2.noc with events := s2.noc.events ++ [e], busyAt := busyBand s (busyBand s s2.noc.busyAt id) h.dst } }.emit (.event e)

/-- An EVENT falls due on a flow: it is sent, or held to the end of the flow's interval, where it replaces a held one of
the same r; a held pulse is replaced by another pulse alone (R271). -/
def dueEvent (s : State) (t : Nat) (h : HeldEvt) : State :=
  let g := s.tableOf t
  let last := SMap.get dNat g.sent h.dst
  if (last == 0 || last - 1 + spacing s t h.dst ≤ s.uptime) && !g.held.any (fun x => x.dst == h.dst) then sendEvent s t h
  else
    let keep := g.held.filter fun x => !(x.dst == h.dst && x.r == h.r && (x.mode != 2 || h.mode == 2))
    s.setTable t { g with held := keep ++ [h] }

end Sys2Proof.Machine
end

