-- ==== Sys2Proof/Machine/Noc.lean ====
section
/-! DEFINITION. The on-chip network: injection, multicast, responses, timeouts, muzzling, remapping, route tables and the
NOC registers (R191–R228). What a request does at its destination stands in Deliver.lean. -/
namespace Sys2Proof.Machine
open Sys2Proof

/-! ## Injection from the fabric (R204, R208, R218, R222) -/

/-- The packets that a design may issue (R200, R201). -/
def designMay : PktOp → Bool
  | .rd => true | .wrNp => true | .wrP => true | .mcw => true | .rdRsp => true | .wrRsp => true | _ => false

/-- The length that a RD_RSP must carry: that of the request it answers, where one is outstanding (R203, Table 7.3). -/
def rspLen (s : State) (id : Nat) (p : Pkt) : Nat :=
  match outReq s (pktEp p) p.tag with
  | some r => if p.op == .rdRsp && r.op == .rd && naEp r.dst == id then r.len else p.len
  | none => p.len

/-- R204, R222: a packet that the NI of an endpoint rejects. `rsp` tells the response interface from the request interface. -/
def malformed (s : State) (id : Nat) (rsp : Bool) (p : Pkt) (flits : Nat) : Bool :=
  !designMay p.op || isRsp p.op != rsp || flits != flitsOf p.op p.len || p.len = 0 || 256 < p.len ||
    (!isRsp p.op && 256 < pktOff p % 256 + p.len) ||
    (nonPosted p.op && (outReq s id p.tag).isSome) || (p.op == .mcw && p.mask = 0)

/-- The input queues along a route have room for a packet's flits: those of its virtual channel at each router and at the far NI (R196,
R197) (DEDUCED, log entry 44). -/
def pathRoom (s : State) (p : Pkt) : Bool :=
  let a := s.mapOf p.src
  let b := s.mapOf (pktEp p)
  let hops := (a.col - b.col) + (b.col - a.col) + (a.row - b.row) + (b.row - a.row)
  let used := (s.noc.flight.filter fun q => q.src == p.src && pktEp q == pktEp p && vcOf q.op == vcOf p.op).foldl
    (fun n q => n + flitsOf q.op q.len) 0
  used + flitsOf p.op p.len ≤ (hops + 2) * vcDepth (vcOf p.op)

/-- A packet that the router drops as stale (R218). -/
def staleDrop (s : State) (sid : Nat) : State :=
  let o := epOwner s sid
  nocLast (nocInt (bump s sid 3) o 4) 4 0 .staleGeneration sid

/-- A packet with the stamps of the NI of a fabric endpoint (Table 7.4): a request has the domain of the endpoint, a response that of the
requester. -/
def stamped (s : State) (ep : Nat) (p : Pkt) : Pkt :=
  { p with
    src := (niOf s ep).1, gen := (niOf s ep).2, epoch := s.noc.epoch, len := rspLen s (servedId s ep) p
    dom := if isRsp p.op then
        match outReq s (pktEp p) p.tag with | some r => r.dom | none => epOwner s (pktEp p)
      else fabDomain s (ep % 8) (ep / 8) }

/-- NI_INJECT (R204, R205, R218): the design presents the flits of one packet at the request or the response interface of fabric endpoint
`ep`; the NI rejects, answers or injects it with its stamps. Its outstanding requests are kept under the ID whose entry names it
(DEDUCED, log entry 44). -/
def niInject (ep : Nat) (rsp : Bool) (fl : List (BitVec 256)) (s : State) : State :=
  if 128 ≤ ep || fl.isEmpty || !s.noc.running || (s.bandOf (ep / 8)).state != .on || latchAt s (ep / 8) (niCol (ep % 8)) then s
  else
    let q0 := stamped s ep (pktOf fl)
    let q := if q0.op == .rdRsp then { q0 with data := payload fl q0.len } else q0
    let sid := q.src
    let served := servedId s ep
    if malformed s served rsp q fl.length then
      let s1 := bump s sid 8
      if nonPosted q.op then s1.emitPkt ep (localAnswer s1 sid q.tag (outOf s q) .badParameter) else s1
    else if nonPosted q.op && isMuzzled s served then
      (bump s served 2).emitPkt ep (localAnswer s sid q.tag (outOf s q) .destMuzzled)
    else if q.op != .mcw && !pathRoom s q then s
    else
      let s1 := if nonPosted q.op then setOut s served q.tag (some (outOf s q)) else s
      if (s.mapOf sid).phys != ep || (s.mapOf sid).gen != q.gen then staleDrop s1 sid
      else if isMuzzled s sid then bump s1 sid 2
      else if q.op == .mcw then sendPkt s1 q
      else route s1 q

/-- NI_INJECT. -/
def execNiInject (ep : Nat) (rsp : Bool) (flits : List (BitVec 256)) (s : State) : Host.Outcome State Fault Refusal :=
  done (niInject ep rsp flits) s

/-- The answer of one member of a multicast is noted; the last one lets the MCW_RSP go (R222, R223). -/
def memberAnswer (s : State) (id tag : Nat) (r : OutReq) (i : Nat) (st : Status) : State :=
  if r.mcw.any (fun x => x.1 == i) then s else mcwDone s id tag { r with mcw := r.mcw ++ [(i, st)] }

/-- One member's WR_NP. An ID past the last one is unassigned (R223). -/
def sendMember (p : Pkt) (s : State) (i : Nat) : State :=
  if pktEp p + i < 512 then
    route s { p with op := .wrNp, dst := naOf (pktEp p + i) (pktOff p), mask := 0 }
  else match outReq s p.src p.tag with
    | some r => memberAnswer s p.src p.tag r i .firewallDeny
    | none => s

/-- MCW (R222): one WR_NP to each member in ascending order. -/
def mcw (p : Pkt) (s : State) : State :=
  if p.op == .mcw then
    match takeFlight s p with
    | some s1 =>
      let s2 := match outReq s1 p.src p.tag with | some r => setOut s1 p.src p.tag (some { r with t := s.uptime }) | none => s1
      (maskMembers p.mask).foldl (sendMember p) s2
    | none => s
  else s

/-- MCW. -/
def execMcw (p : Pkt) (s : State) : Host.Outcome State Fault Refusal := done (mcw p) s

/-! ## Responses (R203, R206, R213, R226) -/

/-- A packet waits in the park buffer of its router; a full buffer holds it on the network (R224) (DEDUCED, log entry 45). -/
def park (s : State) (p : Pkt) : State :=
  let r := epRouter s (pktEp p)
  if (parkedAt s r).length < 64 then setParked s r (parkedAt s r ++ [p])
  else { s with noc := { s.noc with flight := p :: s.noc.flight } }

/-- A response at its requester's NI: it completes its tag, or is late (R212, R226). -/
def complete (s : State) (p : Pkt) : State :=
  let id := pktEp p
  match lateOf s p, outReq s id p.tag with
  | some l, _ => dropRsp s p l.ctr
  | none, none => bump s id 6
  | none, some r =>
    if r.op == .mcw then memberAnswer s id p.tag r (p.src - naEp r.dst) p.status
    else deliverAnswer (setOut s id p.tag none) id p

/-- The arrival of a response: dropped for a muzzled requester, parked or dropped for a band that is not ON (R213,
R226). -/
def response (p : Pkt) (s : State) : State :=
  match takeFlight s p with
  | none => s
  | some s1 =>
    let id := pktEp p
    if isMuzzled s1 id then dropRsp s1 p 7
    else match epBand s1 id with
      | none => complete s1 p
      | some b =>
        match (s1.bandOf b).state with
        | .on => complete s1 p
        | .doze => wakeBand (park s1 p) b
        | .nap => park s1 p
        | .off => dropRsp s1 p 7

/-- RD_RSP (R203). -/
def execRdRsp (p : Pkt) (s : State) : Host.Outcome State Fault Refusal :=
  done (fun s => if p.op == .rdRsp then response p s else s) s
/-- WR_RSP (R206). -/
def execWrRsp (p : Pkt) (s : State) : Host.Outcome State Fault Refusal :=
  done (fun s => if p.op == .wrRsp || p.op == .mcwRsp then response p s else s) s

/-! ## Management traffic (R200) -/

/-- A management request reaches a hard endpoint and is answered. What a management read returns is not in the manual:
it is a free value (DESIGN CHOICE, log entry 23). -/
def manage (op : PktOp) (p : Pkt) (s : State) : State :=
  if p.op == op && s.noc.running && s.noc.mgOut < 4 && 0x80 ≤ pktEp p && (s.mapOf (pktEp p)).state != .unassigned then
    let d := if op == .mgRd then leBytes 4 (Config.freeBits s.free).toNat else []
    let a : Pkt := { answerOf s { p with src := 0x118, dom := .mc } .ok [] with data := d, len := 4 }
    let s1 := if op == .mgRd then s.takeFree else s
    sendPkt { s1 with noc := { s1.noc with mgOut := s1.noc.mgOut + 1 } } { a with rt := rtWord s 0x118 }
  else s

/-- MG_RD. -/
def execMgRd (p : Pkt) (s : State) : Host.Outcome State Fault Refusal := done (manage .mgRd p) s
/-- MG_WR. -/
def execMgWr (p : Pkt) (s : State) : Host.Outcome State Fault Refusal := done (manage .mgWr p) s

/-- MG_RSP: a management response returns to the MC. -/
def mgRsp (p : Pkt) (s : State) : State :=
  if p.op == .mgRsp then
    match takeFlight s p with
    | some s1 => ({ s1 with noc := { s1.noc with mgOut := s1.noc.mgOut - 1 } }).emitPkt 0x118 p
    | none => s
  else s

/-- MG_RSP. -/
def execMgRsp (p : Pkt) (s : State) : Host.Outcome State Fault Refusal := done (mgRsp p) s

/-! ## Timeouts and stalls (R211–R214) -/

/-- The requester's timer pauses while its own band is in NAP or OFF (R211). -/
def timerPaused (s : State) (ep : Nat) : Bool :=
  match epBand s ep with
  | some b => (s.bandOf b).state == .nap || (s.bandOf b).state == .off
  | none => false

/-- The applied value has passed since the request's header was injected, pauses apart (R211). -/
def requestDue (s : State) (r : OutReq) : Bool := r.t + nocTimeoutUs s * 1000 ≤ s.uptime

/-- NOC_TIMEOUT (R212): the request completes with TIMEOUT and its destination is declared dead. Each silent member of a multicast has
timed out as a unicast request does (R222). -/
def nocTimeout (ep tag : Nat) (s : State) : State :=
  match outReq s ep tag with
  | none => s
  | some r =>
    if timerPaused s ep || !requestDue s r then s
    else
      let s1 := (silent r).foldl (fun u _ => nocLast (nocInt (bump u ep 5) (epOwner u ep) 2) 5 0 .timeout ep) s
      let s2 := expectLate s1 ep tag r 6
      let s3 :=
        if r.op != .mcw then deliverAnswer (setOut s2 ep tag none) ep (localAnswer s2 ep tag r .timeout)
        else mcwDone s2 ep tag { r with mcw := r.mcw ++ (silent r).map fun i => (i - naEp r.dst, Status.timeout) }
      (silent r).foldl declareDead s3

/-- NOC_TIMEOUT. -/
def execNocTimeout (ep tag : Nat) (s : State) : Host.Outcome State Fault Refusal := done (nocTimeout ep tag) s

/-- EJECTION_STALL (R214): an endpoint for which a flit has waited 100 µs with no credit returned is muzzled with cause 2, and what is
queued is absorbed. -/
def ejectionStall (ep : Nat) (s : State) : State :=
  if neverDead ep || (s.mapOf ep).state != .live || !(s.noc.flight.any fun p => pktEp p == ep && p.op != .mcw) ||
      s.uptime < SMap.get dNat s.noc.ejAt ep + 100000 then s
  else muzzle s ep 2

/-- EJECTION_STALL. -/
def execEjectionStall (ep : Nat) (s : State) : Host.Outcome State Fault Refusal := done (ejectionStall ep) s

/-! ## Muzzle commands (R215–R219) -/

/-- IDs that no domain can own. -/
def unownable (s : State) (id : Nat) : Bool := neverDead id || (s.mapOf id).state == .unassigned

/-- NOC_MUZZLE (R215): cause 3. A RETIRED ID stays as it is. -/
def nocMuzzle (d : Nat) (s : State) : State :=
  serve d 0x0401 .owner (fun c s =>
    let id := pw c 0 % 512
    if unownable s id then finish c .badParameter 0 [] [] s
    else if epOwner s id != cmdOwner c then finish c .notOwner 0 [] [] s
    else if (s.mapOf id).state == .retired then finish c .badParameter 1 [] [] s
    else finish c .ok 1 [] [] (muzzle s id 3)) s

/-- NOC_MUZZLE. -/
def execNocMuzzle (d : Nat) (s : State) : Host.Outcome State Fault Refusal := done (nocMuzzle d) s

/-- An ID returns to LIVE (R216, R219): a RETIRED one with the NI at its attachment stamping it again. PCI_p stays muzzled with cause 4
while its link is down (R215). -/
def rehabilitate (s : State) (id : Nat) : State :=
  let m := s.mapOf id
  let s1 := forgetLate (forgetOut s id 7) id
  let s2 := nocLast (s1.setMap id { m with state := .live, cause := 0 }) 2 0 .ok id
  let s3 := if m.state == .retired then setNi s2 m.phys (id, m.gen) else s2
  muzzledPin (if linkDown s id then linkMuzzle s3 (id - 0x110) else s3) id 0

/-- NOC_REHABILITATE. -/
def nocRehabilitate (d : Nat) (s : State) : State :=
  serve d 0x0402 .owner (fun c s =>
    let id := pw c 0 % 512
    if unownable s id then finish c .badParameter 0 [] [] s
    else if epOwner s id != cmdOwner c then finish c .notOwner 0 [] [] s
    else if (s.mapOf id).state == .live then finish c .badParameter 1 [] [] s
    else finish c .ok 1 [] [] (rehabilitate s id)) s

/-- NOC_REHABILITATE. -/
def execNocRehabilitate (d : Nat) (s : State) : Host.Outcome State Fault Refusal := done (nocRehabilitate d) s

/-- Packets parked for an endpoint. -/
def parkedFor (s : State) (id : Nat) : Nat :=
  s.noc.parked.foldl (fun n (e : Nat × List Pkt) => n + (e.2.filter fun p => pktEp p == id).length) 0

/-- The map and the NI after a remap of A onto S (R217). -/
def remap (s : State) (a b : Nat) : State :=
  let ma := s.mapOf a
  let mb := s.mapOf b
  let g := (ma.gen + 1) % 16
  let s1 := s.setMap a { state := .live, port := mb.port, col := mb.col, row := mb.row, gen := g, phys := mb.phys, cause := 0 }
  let s2 := s1.setMap b { state := .retired, port := ma.port, col := ma.col, row := ma.row, gen := (mb.gen + 1) % 16,
                          phys := ma.phys, cause := 5 }
  routeCheck (nocLast (forgetLate (setNi s2 mb.phys (a, g)) a) 3 0 .ok a)

/-- NOC_REMAP. -/
def nocRemap (d : Nat) (s : State) : State :=
  serve d 0x0403 .owner (fun c s =>
    let a := pw c 0 % 512
    let b := pw c 1 % 512
    if unownable s a || unownable s b then finish c .badParameter 0 [] [] s
    else if epOwner s a != cmdOwner c || epOwner s b != cmdOwner c then finish c .notOwner 0 [] [] s
    else if !isFabric a || !isFabric b || (s.mapOf a).state != .muzzled || (s.mapOf b).state != .live then
      finish c .badParameter 1 [] [] s
    else if !(outTags s b).isEmpty || parkedFor s b != 0 then finish c .busy 1 [] [] s
    else finish c .ok 1 [] [] (remap s a b)) s

/-- NOC_REMAP. -/
def execNocRemap (d : Nat) (s : State) : Host.Outcome State Fault Refusal := done (nocRemap d) s

/-! ## Route tables (R200, R220, R221) -/

/-- The other epoch. -/
def otherEpoch (s : State) : Nat := 1 - s.noc.epoch

/-- An entry of a route update: router, destination router, direction. -/
def routeEntry (w : Nat) : Nat × Nat × Nat := (8 * bf w 27 24 + bf w 30 28, 8 * bf w 19 16 + bf w 22 20, bf w 2 0)

/-- The tables after an update: those in force with the listed entries changed, as the other epoch's. -/
def updatedRoutes (s : State) (es : List (Nat × Nat × Nat)) : SMap Nat :=
  let e := otherEpoch s
  let cur := s.noc.routes.filter fun x => x.1 / 16384 == s.noc.epoch
  let moved := cur.map fun x => (e * 16384 + x.1 % 16384, x.2)
  let m := if e = 1 then cur ++ moved else moved ++ cur
  es.foldl (fun m x => SMap.set dNat m (e * 16384 + x.1 * 128 + x.2.1) x.2.2) m

/-- Whether an output of a router leads off the mesh. -/
def offMesh (r out : Nat) : Bool :=
  match out with | 0 => 120 ≤ r | 1 => r < 8 | 2 => r % 8 == 7 | _ => r % 8 == 0

/-- The routers passed from one to another with the outputs taken; none where the walk does not arrive. -/
def trace (s : State) : Nat → Nat → Nat → Option (List (Nat × Nat))
  | 0, _, _ => none
  | n + 1, r, dst =>
    if r = dst then some []
    else
      let o := routeOut s r dst
      if offMesh r o then none else (trace s n (routerStep r o) dst).map ((r, o) :: ·)

/-- A turn from N or S into W (R200). -/
def badTurn : List (Nat × Nat) → Bool
  | a :: b :: r => ((a.2 == 0 || a.2 == 1) && b.2 == 3) || badTurn (b :: r)
  | _ => false

/-- The routers that the tables withdraw: no route between two others passes through them. -/
def withdrawn (s : State) : List Nat :=
  let rs := List.range 128
  rs.filter fun r => rs.all fun a => rs.all fun b =>
    a == r || b == r || a == b || match trace s 128 a b with | some t => !t.any (fun x => x.1 == r) | none => true

/-- A LIVE endpoint is attached to a router. -/
def liveAt (s : State) (r : Nat) : Bool :=
  (List.range 284).any fun id => (s.mapOf id).state == .live && epRouter s id == r

/-- R220: the refusals of an update, in the state that holds its tables. -/
def routeRefusal (s : State) : Option Status :=
  let w := withdrawn s
  let rs := (List.range 128).filter fun r => !w.contains r
  if w.any (fun r => r = 59 || r = 60 || r = 67 || r = 68) then some .badParameter
  else if w.any (liveAt s) then some .busy
  else if rs.any fun a => rs.any fun b => a != b && (match trace s 128 a b with | some t => badTurn t | none => true) then
    some .badParameter
  else none

/-- NOC_ROUTE_UPDATE: the injection epoch switches once the tables stand (R221). A count of 0 names 1,024 entries. -/
def nocRouteUpdate (d : Nat) (s : State) : State :=
  serve d 0x0404 .lead (fun c s =>
    let n := if pw c 1 % 1024 = 0 then 1024 else pw c 1 % 1024
    if !bufOk (pw c 0) (4 * n) then finish c .badParameter 0 [] [] s
    else
      let es := (bytesWords (readBuf s c (pw c 0) (4 * n))).map fun w => routeEntry w.toNat
      if es.any fun x => 4 < x.2.2 then finish c .badParameter 1 [] [] s
      else if s.noc.drain then finish c .busy 1 [] [] s
      else
        let new := { s with noc := { s.noc with routes := updatedRoutes s es, epoch := otherEpoch s } }
        match routeRefusal new with
        | some st => finish c st 1 [] [] s
        | none =>
          waitCmd c [] { new with noc := { new.noc with
            drain := true, drain10 := false, routeCmd := some (c.d, c.tag), routeAt := s.uptime } }) s

/-- NOC_ROUTE_UPDATE. -/
def execNocRouteUpdate (d : Nat) (s : State) : Host.Outcome State Fault Refusal := done (nocRouteUpdate d) s

/-- A route update's command ends. -/
def routeEnd (s : State) (st : Status) : State :=
  match s.noc.routeCmd with
  | none => s
  | some x =>
    let s1 := routeCheck { s with noc := { s.noc with routeCmd := none } }
    endCmd ⟨x.1, x.2⟩ st 1 [] (nocLast (s1.raiseAll 0x50048 0 0x10) 6 0 st 0)

/-- Flits of the old epoch that entered at a router and are queued: those of packets and EVENTs. A park buffer is no queue of a link
(R221) (DEDUCED, log entry 44). -/
def oldFlits (s : State) (r : Nat) : Nat :=
  (s.noc.flight.filter fun p => p.epoch != s.noc.epoch && epRouter s p.src == r).foldl (fun n p => n + flitsOf p.op p.len) 0 +
    (s.noc.events.filter fun e => e.epoch != s.noc.epoch && epRouter s e.src == r).length

/-- No flit of the old epoch is left. -/
def drained (s : State) : Bool := (List.range 128).all fun r => oldFlits s r == 0

/-- ROUTE_DRAIN_DONE (R221): no flit of the old epoch is left; its table is released. -/
def routeDrainDone (s : State) : State :=
  if s.noc.drain && drained s then
    routeEnd { s with noc := { s.noc with drain := false, drain10 := false } } .ok
  else s

/-- ROUTE_DRAIN_DONE. -/
def execRouteDrainDone (s : State) : Host.Outcome State Fault Refusal := done routeDrainDone s

/-- ROUTE_UPDATE_TIMEOUT (R221): old-epoch flits remain 10 ms after the switch; the drain goes on, the command does not. -/
def routeUpdateTimeout (s : State) : State :=
  if s.noc.drain && s.noc.routeCmd.isSome && !drained s && s.noc.routeAt + 10000000 ≤ s.uptime then routeEnd { s with noc := { s.noc with drain10 := true } } .timeout else s

/-- ROUTE_UPDATE_TIMEOUT. -/
def execRouteUpdateTimeout (s : State) : Host.Outcome State Fault Refusal := done routeUpdateTimeout s

/-! ## Registers (R228) -/

/-- The owner code that NOC.EP_STATE shows. -/
def epOwnerCode (s : State) (id : Nat) : Nat := ocode (epOwner s id)

/-- Whether an accessor's reads through an index reach an endpoint: its owner, and of an ETH endpoint any owner of one of
its MAC ports. -/
def epReadable (s : State) (acc : Accessor) (id : Nat) : Bool :=
  adom acc == .mc ||
    (if isEth id then (List.range 4).any fun j => s.owner (resMac (4 * (id - 0x114) + j)) == adom acc
     else epOwner s id == adom acc && adom acc != .unowned)

/-- NOC.EP_MAP. -/
def epMapWord (m : MapEntry) : Nat :=
  b2n (m.state != .unassigned) * 0x80000000 + m.port * 0x10000000 + m.col * 0x2000000 + m.row * 0x200000 +
    m.gen * 0x1000 + m.phys

/-- The code of a map state. -/
def epCode : EpState → Nat
  | .live => 0 | .muzzled => 1 | .retired => 2 | .unassigned => 3

/-- NOC.EP_STATE. -/
def epStateWord (s : State) (id : Nat) : Nat :=
  let m := s.mapOf id
  epCode m.state * 0x10000000 + b2n ((s.bandOf m.row).state != .on && m.state != .unassigned) * 0x8000000 +
    epOwnerCode s id * 0x1000000 + m.cause * 0x100000 + (outTags s id).length * 0x100 + min 255 (parkedFor s id)

/-- The routers withdrawn by tables other than XY. -/
def inService (s : State) (r : Nat) : Bool := s.noc.routes.isEmpty || !(withdrawn s).contains r

/-- Detour entries of a router in the current table. -/
def detours (s : State) (r : Nat) : Nat :=
  (s.noc.routes.filter fun x => x.1 / 128 == s.noc.epoch * 128 + r && x.2 != 0).length

/-- NOC.RTR_STATUS. Flits of the old epoch are counted at the router where their packet entered. -/
def rtrStatus (s : State) (r : Nat) : Nat :=
  b2n (inService s r) * 0x80000000 + s.noc.epoch * 0x40000000 + min 255 (detours s r) * 0x10000 + min 0xFFFF (oldFlits s r)

/-- NOC.RTR_VC0: the output of a router with the largest count, the lowest of those that share it. -/
def rtrVc0 (s : State) (r : Nat) : Nat :=
  let get (o : Nat) : Nat := SMap.get dNat s.noc.vc0 (8 * r + o)
  let o := (List.range 7).foldl (fun m o => if get m < get o then o else m) 0
  o * 0x100 + min 255 (get o)

/-- The router that an accessor's RTR_INDEX names. -/
def rtrIx (s : State) (acc : Accessor) : Nat :=
  let w := s.copy (acode acc) 0x50020 0
  8 * wf w 3 0 + wf w 6 4

/-- A write of 1 to RTR_CLEAR by the MC. -/
def rtrClear (acc : Accessor) (v : Word) (s : State) : State :=
  if acc == .dom .mc && wb v 0 then
    { s with noc := { s.noc with vc0 := s.noc.vc0.filter fun e => e.1 / 8 != rtrIx s acc } }
  else s

/-- RTR_CLEAR (R228). -/
def execRtrClear (acc : Accessor) (v : Word) (s : State) : Host.Outcome State Fault Refusal := done (rtrClear acc v) s

/-- Whether a window's granting domain owns the destination resource (R210). -/
def fwActive (s : State) (d : Nat) (f : FwWin) : Bool := f.valid && dstOwner s f.ep (f.base * 4096) == ownerOf d

/-- The rows that hold parked packets. -/
def parkRows (s : State) : Nat :=
  (List.range 16).foldl (fun n b => if s.noc.parked.any fun e => e.1 / 8 == b && !e.2.isEmpty then n + 2 ^ b else n) 0

/-- A read of a NOC register. -/
def nocRead (acc : Accessor) (off : Nat) (s : State) : Word :=
  let a := acode acc
  let id := wf (s.copy a 0x5000C 0) 8 0
  let d := wf (s.copy a 0x50030 0) 10 8
  let f := SMap.get dFw s.noc.fw (32 * d + wf (s.copy a 0x50030 0) 4 0)
  let ep (w : Nat) : Word := if epReadable s acc id then wd w else 0
  let fw (w : Nat) : Word := if d < 5 && (adom acc == .mc || adom acc == ownerOf d) then wd w else 0
  match off with
  | 0x00 => wd (b2n s.noc.running * 0x80000000)
  | 0x04 => wd (nocTimeoutUs s)
  | 0x08 => wd (b2n s.noc.drain * 0x80000000 + b2n s.noc.drain10 * 0x40000000 + s.noc.epoch)
  | 0x0C => s.copy a 0x5000C 0
  | 0x10 => ep (epMapWord (s.mapOf id))
  | 0x14 => ep (epStateWord s id)
  | 0x18 => s.copy a 0x50018 0
  | 0x1C => if wf (s.copy a 0x50018 0) 3 0 ≤ 8 then ep (SMap.get dNat s.noc.cnt (16 * id + wf (s.copy a 0x50018 0) 3 0)) else 0
  | 0x20 => s.copy a 0x50020 0
  | 0x24 => wd (rtrStatus s (rtrIx s acc))
  | 0x28 => wd (rtrVc0 s (rtrIx s acc))
  | 0x30 => s.copy a 0x50030 0
  | 0x34 => fw (b2n f.valid * 0x80000000 + b2n (fwActive s d f) * 0x40000000 + b2n f.read * 0x20000000 +
      b2n f.write * 0x10000000 + f.grantees * 0x400000 + f.ep)
  | 0x38 => fw (f.base % 0x100000 * 0x1000)
  | 0x3C => fw (f.base / 0x100000)
  | 0x40 => fw (if f.valid then f.limit % 0x100000 * 0x1000 + 0xFFF else 0xFFF)
  | 0x44 => fw (f.limit / 0x100000)
  | 0x48 => s.copy a 0x50048 0
  | 0x4C => s.copy a 0x5004C 0
  | 0x50 => wd (parkRows s)
  | 0x54 => s.noc.last
  | _ => 0

/-- A write of a NOC register: each accessor its own copies; the MC clears RTR_VC0. -/
def nocWrite (acc : Accessor) (off : Nat) (v : Word) (s : State) : State :=
  let a := acode acc
  match off with
  | 0x0C => s.setCopy a 0x5000C 0 (v &&& 0x1FF)
  | 0x18 => s.setCopy a 0x50018 0 (v &&& 0xF)
  | 0x20 => s.setCopy a 0x50020 0 (v &&& 0x7F)
  | 0x2C => rtrClear acc v s
  | 0x30 => s.setCopy a 0x50030 0 (v &&& 0x71F)
  | 0x48 => s.clearCopy a 0x50048 0 v
  | 0x4C => s.setCopy a 0x5004C 0 (v &&& 0x3F)
  | _ => s

end Sys2Proof.Machine
end

