-- ==== Sys2Proof/Machine/Crypto.lean ====
section
/-! DEFINITION. The published algorithms that the manual names and does not restate: SHA-384 (FIPS 180-4), AES-256 (FIPS 197) with
CMAC, GCM and KW (SP 800-38B, 38D, 38F), ECDSA over P-384 (FIPS 186-5) (R98–R105, R369). They are written from those standards
(PRESUMED, log entry 6). -/
namespace Sys2Proof.Machine.Crypto
open Sys2Proof

/-- Big-endian bytes of a number. -/
def beBytes : Nat → Nat → List Byte
  | 0, _ => []
  | n + 1, v => beBytes n (v / 256) ++ [BitVec.ofNat 8 v]

/-- The number that big-endian bytes spell. -/
def beNat (bs : List Byte) : Nat := bs.foldl (fun n b => 256 * n + b.toNat) 0

/-- Groups of `n`, the last perhaps shorter. The fuel is the length. -/
def groupsOf {α : Type} (n : Nat) : Nat → List α → List (List α)
  | 0, _ => []
  | k + 1, xs => if xs.isEmpty then [] else xs.take n :: groupsOf n k (xs.drop n)

/-- Two byte strings added bit by bit. -/
def xorBytes (a b : List Byte) : List Byte := List.zipWith (· ^^^ ·) a b

/-! ## SHA-384 -/

/-- The 80 round constants. -/
def shaK : List (BitVec 64) :=
  [0x428a2f98d728ae22, 0x7137449123ef65cd, 0xb5c0fbcfec4d3b2f, 0xe9b5dba58189dbbc, 0x3956c25bf348b538, 0x59f111f1b605d019, 0x923f82a4af194f9b, 0xab1c5ed5da6d8118] ++
  [0xd807aa98a3030242, 0x12835b0145706fbe, 0x243185be4ee4b28c, 0x550c7dc3d5ffb4e2, 0x72be5d74f27b896f, 0x80deb1fe3b1696b1, 0x9bdc06a725c71235, 0xc19bf174cf692694] ++
  [0xe49b69c19ef14ad2, 0xefbe4786384f25e3, 0x0fc19dc68b8cd5b5, 0x240ca1cc77ac9c65, 0x2de92c6f592b0275, 0x4a7484aa6ea6e483, 0x5cb0a9dcbd41fbd4, 0x76f988da831153b5] ++
  [0x983e5152ee66dfab, 0xa831c66d2db43210, 0xb00327c898fb213f, 0xbf597fc7beef0ee4, 0xc6e00bf33da88fc2, 0xd5a79147930aa725, 0x06ca6351e003826f, 0x142929670a0e6e70] ++
  [0x27b70a8546d22ffc, 0x2e1b21385c26c926, 0x4d2c6dfc5ac42aed, 0x53380d139d95b3df, 0x650a73548baf63de, 0x766a0abb3c77b2a8, 0x81c2c92e47edaee6, 0x92722c851482353b] ++
  [0xa2bfe8a14cf10364, 0xa81a664bbc423001, 0xc24b8b70d0f89791, 0xc76c51a30654be30, 0xd192e819d6ef5218, 0xd69906245565a910, 0xf40e35855771202a, 0x106aa07032bbd1b8] ++
  [0x19a4c116b8d2d0c8, 0x1e376c085141ab53, 0x2748774cdf8eeb99, 0x34b0bcb5e19b48a8, 0x391c0cb3c5c95a63, 0x4ed8aa4ae3418acb, 0x5b9cca4f7763e373, 0x682e6ff3d6b2b8a3] ++
  [0x748f82ee5defb2fc, 0x78a5636f43172f60, 0x84c87814a1f0ab72, 0x8cc702081a6439ec, 0x90befffa23631e28, 0xa4506cebde82bde9, 0xbef9a3f7b2c67915, 0xc67178f2e372532b] ++
  [0xca273eceea26619c, 0xd186b8c721c0c207, 0xeada7dd6cde0eb1e, 0xf57d4f7fee6ed178, 0x06f067aa72176fba, 0x0a637dc5a2c898a6, 0x113f9804bef90dae, 0x1b710b35131c471b] ++
  [0x28db77f523047d84, 0x32caab7b40c72493, 0x3c9ebe0a15c9bebc, 0x431d67c49c100d4c, 0x4cc5d4becb3e42b6, 0x597f299cfc657e2a, 0x5fcb6fab3ad6faec, 0x6c44198c4a475817]

/-- The eight working variables. -/
structure Sha where
  a : BitVec 64
  b : BitVec 64
  c : BitVec 64
  d : BitVec 64
  e : BitVec 64
  f : BitVec 64
  g : BitVec 64
  h : BitVec 64

/-- The initial hash value of SHA-384. -/
def shaInit : Sha :=
  ⟨0xcbbb9d5dc1059ed8, 0x629a292a367cd507, 0x9159015a3070dd17, 0x152fecd8f70e5939,
   0x67332667ffc00b31, 0x8eb44a8768581511, 0xdb0c2e0d64f98fa7, 0x47b5481dbefa4fa4⟩

/-- One round with a message word and its constant. -/
def shaRound (s : Sha) (wk : BitVec 64 × BitVec 64) : Sha :=
  let t1 := s.h + (s.e.rotateRight 14 ^^^ s.e.rotateRight 18 ^^^ s.e.rotateRight 41) +
    ((s.e &&& s.f) ^^^ (~~~s.e &&& s.g)) + wk.2 + wk.1
  let t2 := (s.a.rotateRight 28 ^^^ s.a.rotateRight 34 ^^^ s.a.rotateRight 39) +
    ((s.a &&& s.b) ^^^ (s.a &&& s.c) ^^^ (s.b &&& s.c))
  ⟨t1 + t2, s.a, s.b, s.c, s.d + t1, s.e, s.f, s.g⟩

/-- The message schedule, newest word first: `n` more words. -/
def shaSchedule : Nat → List (BitVec 64) → List (BitVec 64)
  | 0, w => w
  | n + 1, w =>
    let x := w.getD 1 0
    let y := w.getD 14 0
    shaSchedule n (((x.rotateRight 19 ^^^ x.rotateRight 61 ^^^ (x >>> 6)) + w.getD 6 0 +
      (y.rotateRight 1 ^^^ y.rotateRight 8 ^^^ (y >>> 7)) + w.getD 15 0) :: w)

/-- One block of 128 bytes. -/
def shaBlock (s : Sha) (block : List Byte) : Sha :=
  let w := (groupsOf 8 16 block).map fun g => BitVec.ofNat 64 (beNat g)
  let r := ((shaSchedule 64 w.reverse).reverse.zip shaK).foldl shaRound s
  ⟨s.a + r.a, s.b + r.b, s.c + r.c, s.d + r.d, s.e + r.e, s.f + r.f, s.g + r.g, s.h + r.h⟩

/-- The padding of a message: 0x80, zeros, and its length in bits as 16 bytes. -/
def shaPad (len : Nat) : List Byte :=
  0x80 :: List.replicate ((239 - len % 128) % 128) 0 ++ beBytes 16 (8 * len)

/-- SHA-384. -/
@[irreducible] def sha384 (m : List Byte) : BitVec 384 :=
  let r := (groupsOf 128 (m.length / 128 + 2) (m ++ shaPad m.length)).foldl shaBlock shaInit
  r.a ++ r.b ++ r.c ++ r.d ++ r.e ++ r.f

/-! ## AES-256 -/

/-- The S-box. -/
def sbox : List Byte :=
  [0x63, 0x7c, 0x77, 0x7b, 0xf2, 0x6b, 0x6f, 0xc5, 0x30, 0x01, 0x67, 0x2b, 0xfe, 0xd7, 0xab, 0x76] ++
  [0xca, 0x82, 0xc9, 0x7d, 0xfa, 0x59, 0x47, 0xf0, 0xad, 0xd4, 0xa2, 0xaf, 0x9c, 0xa4, 0x72, 0xc0] ++
  [0xb7, 0xfd, 0x93, 0x26, 0x36, 0x3f, 0xf7, 0xcc, 0x34, 0xa5, 0xe5, 0xf1, 0x71, 0xd8, 0x31, 0x15] ++
  [0x04, 0xc7, 0x23, 0xc3, 0x18, 0x96, 0x05, 0x9a, 0x07, 0x12, 0x80, 0xe2, 0xeb, 0x27, 0xb2, 0x75] ++
  [0x09, 0x83, 0x2c, 0x1a, 0x1b, 0x6e, 0x5a, 0xa0, 0x52, 0x3b, 0xd6, 0xb3, 0x29, 0xe3, 0x2f, 0x84] ++
  [0x53, 0xd1, 0x00, 0xed, 0x20, 0xfc, 0xb1, 0x5b, 0x6a, 0xcb, 0xbe, 0x39, 0x4a, 0x4c, 0x58, 0xcf] ++
  [0xd0, 0xef, 0xaa, 0xfb, 0x43, 0x4d, 0x33, 0x85, 0x45, 0xf9, 0x02, 0x7f, 0x50, 0x3c, 0x9f, 0xa8] ++
  [0x51, 0xa3, 0x40, 0x8f, 0x92, 0x9d, 0x38, 0xf5, 0xbc, 0xb6, 0xda, 0x21, 0x10, 0xff, 0xf3, 0xd2] ++
  [0xcd, 0x0c, 0x13, 0xec, 0x5f, 0x97, 0x44, 0x17, 0xc4, 0xa7, 0x7e, 0x3d, 0x64, 0x5d, 0x19, 0x73] ++
  [0x60, 0x81, 0x4f, 0xdc, 0x22, 0x2a, 0x90, 0x88, 0x46, 0xee, 0xb8, 0x14, 0xde, 0x5e, 0x0b, 0xdb] ++
  [0xe0, 0x32, 0x3a, 0x0a, 0x49, 0x06, 0x24, 0x5c, 0xc2, 0xd3, 0xac, 0x62, 0x91, 0x95, 0xe4, 0x79] ++
  [0xe7, 0xc8, 0x37, 0x6d, 0x8d, 0xd5, 0x4e, 0xa9, 0x6c, 0x56, 0xf4, 0xea, 0x65, 0x7a, 0xae, 0x08] ++
  [0xba, 0x78, 0x25, 0x2e, 0x1c, 0xa6, 0xb4, 0xc6, 0xe8, 0xdd, 0x74, 0x1f, 0x4b, 0xbd, 0x8b, 0x8a] ++
  [0x70, 0x3e, 0xb5, 0x66, 0x48, 0x03, 0xf6, 0x0e, 0x61, 0x35, 0x57, 0xb9, 0x86, 0xc1, 0x1d, 0x9e] ++
  [0xe1, 0xf8, 0x98, 0x11, 0x69, 0xd9, 0x8e, 0x94, 0x9b, 0x1e, 0x87, 0xe9, 0xce, 0x55, 0x28, 0xdf] ++
  [0x8c, 0xa1, 0x89, 0x0d, 0xbf, 0xe6, 0x42, 0x68, 0x41, 0x99, 0x2d, 0x0f, 0xb0, 0x54, 0xbb, 0x16]

/-- SubBytes of one byte, and its inverse. -/
def subByte (b : Byte) : Byte := sbox.getD b.toNat 0
def invSubByte (b : Byte) : Byte := BitVec.ofNat 8 (sbox.idxOf b)

/-- Multiplication by x in GF(2^8). -/
def xtime (b : Byte) : Byte := (b <<< 1) ^^^ (if b.msb then 0x1B else 0)

/-- Multiplication in GF(2^8) by a constant below 16. -/
def gfMul (k : Nat) (b : Byte) : Byte :=
  (if k.testBit 0 then b else 0) ^^^ (if k.testBit 1 then xtime b else 0) ^^^
    (if k.testBit 2 then xtime (xtime b) else 0) ^^^ (if k.testBit 3 then xtime (xtime (xtime b)) else 0)

/-- The key schedule as 4-byte words, newest first: `n` more words; `i` is the number of the next. -/
def keyWords : Nat → Nat → List (List Byte) → List (List Byte)
  | 0, _, w => w
  | n + 1, i, w =>
    let t := w.headD []
    let u := if i % 8 = 0 then xorBytes ((t.drop 1 ++ t.take 1).map subByte) [BitVec.ofNat 8 (2 ^ (i / 8 - 1)), 0, 0, 0]
      else if i % 8 = 4 then t.map subByte else t
    keyWords n (i + 1) (xorBytes (w.getD 7 []) u :: w)

/-- The fifteen round keys of 16 bytes. -/
def roundKeys (key : BitVec 256) : List (List Byte) :=
  groupsOf 16 15 ((keyWords 52 8 (groupsOf 4 8 (beBytes 32 key.toNat)).reverse).reverse.flatten)

/-- The byte at row r of column c, 4c + r, comes from column c + r (ShiftRows), or from column c − r (its inverse). -/
def shiftRows (s : List Byte) : List Byte := (List.range 16).map fun i => s.getD ((i + 4 * (i % 4)) % 16) 0
def invShiftRows (s : List Byte) : List Byte := (List.range 16).map fun i => s.getD ((i + 12 * (i % 4)) % 16) 0

/-- Each column multiplied by a circulant matrix. -/
def mixWith (m : List Nat) (s : List Byte) : List Byte :=
  (List.range 16).map fun i => (List.range 4).foldl (fun x j =>
    x ^^^ gfMul (m.getD ((j + 4 - i % 4) % 4) 0) (s.getD (i / 4 * 4 + j) 0)) 0

/-- Encryption of a block of 16 bytes. -/
def aesEnc (rk : List (List Byte)) (b : List Byte) : List Byte :=
  let s := ((rk.take 14).drop 1).foldl (fun s k => xorBytes (mixWith [2, 3, 1, 1] (shiftRows (s.map subByte))) k)
    (xorBytes b (rk.getD 0 []))
  xorBytes (shiftRows (s.map subByte)) (rk.getD 14 [])

/-- Decryption of a block. -/
def aesDec (rk : List (List Byte)) (b : List Byte) : List Byte :=
  let s := ((rk.take 14).drop 1).reverse.foldl
    (fun s k => mixWith [14, 11, 13, 9] (xorBytes ((invShiftRows s).map invSubByte) k)) (xorBytes b (rk.getD 14 []))
  xorBytes ((invShiftRows s).map invSubByte) (rk.getD 0 [])

/-- AES-256 of one block. -/
@[irreducible] def aesBlock (key : BitVec 256) (b : BitVec 128) : BitVec 128 :=
  BitVec.ofNat 128 (beNat (aesEnc (roundKeys key) (beBytes 16 b.toNat)))

/-! ## CMAC (SP 800-38B) -/

/-- Doubling in GF(2^128). -/
def dbl (b : BitVec 128) : BitVec 128 := (b <<< 1) ^^^ (if b.msb then 0x87 else 0)

/-- AES-256-CMAC. -/
@[irreducible] def aesCmac (key : BitVec 256) (m : List Byte) : BitVec 128 :=
  let rk := roundKeys key
  let enc (b : BitVec 128) : BitVec 128 := BitVec.ofNat 128 (beNat (aesEnc rk (beBytes 16 b.toNat)))
  let k1 := dbl (enc 0)
  let gs := groupsOf 16 (m.length / 16 + 1) m
  let last := gs.getLastD []
  let fin := if last.length = 16 then BitVec.ofNat 128 (beNat last) ^^^ k1
    else BitVec.ofNat 128 (beNat ((last ++ [0x80] ++ List.replicate 15 0).take 16)) ^^^ dbl k1
  enc ((gs.dropLast.foldl (fun x g => enc (x ^^^ BitVec.ofNat 128 (beNat g))) 0) ^^^ fin)

/-! ## GCM (SP 800-38D) -/

/-- Multiplication in GF(2^128) with the bit order of GCM: the product of x and y, bit by bit of x from the first. -/
def ghashMul (x y : BitVec 128) : BitVec 128 :=
  ((List.range 128).foldl (fun (zv : BitVec 128 × BitVec 128) i =>
    (if x.getLsbD (127 - i) then zv.1 ^^^ zv.2 else zv.1,
      (zv.2 >>> 1) ^^^ (if zv.2.getLsbD 0 then (0xE1#128 <<< 120) else 0))) (0, y)).1

/-- The blocks of a byte string, the last filled with zeros. -/
def blocks (bs : List Byte) : List (BitVec 128) :=
  (groupsOf 16 (bs.length / 16 + 1) bs).map fun g => BitVec.ofNat 128 (beNat ((g ++ List.replicate 15 0).take 16))

/-- Counter block n of a 96-bit IV. -/
def ctrBlock (iv : List Byte) (n : Nat) : BitVec 128 := BitVec.ofNat 128 (beNat (iv.take 12 ++ beBytes 4 n))

/-- The key stream of a segment from its byte `skip` on: `n` bytes. -/
@[irreducible] def gcmStream (key : BitVec 256) (iv : List Byte) (skip n : Nat) : List Byte :=
  let rk := roundKeys key
  let bs := (List.range ((skip % 16 + n + 15) / 16)).flatMap fun i =>
    aesEnc rk (beBytes 16 (ctrBlock iv (2 + skip / 16 + i)).toNat)
  (bs.drop (skip % 16)).take n

/-- AES-256-GCM encryption or decryption of a segment: its counter mode. -/
def gcmCrypt (key : BitVec 256) (iv text : List Byte) : List Byte := xorBytes text (gcmStream key iv 0 text.length)

/-- The tag of a ciphertext with its additional data. -/
@[irreducible] def gcmTagOf (key : BitVec 256) (iv aad cipher : List Byte) : BitVec 128 :=
  let h := aesBlock key 0
  let s := (blocks aad ++ blocks cipher ++ [BitVec.ofNat 128 (8 * aad.length * 2 ^ 64 + 8 * cipher.length)]).foldl
    (fun x b => ghashMul (x ^^^ b) h) 0
  s ^^^ aesBlock key (ctrBlock iv 1)

/-- The tag of a plaintext. -/
def gcmTag (key : BitVec 256) (iv aad plain : List Byte) : BitVec 128 := gcmTagOf key iv aad (gcmCrypt key iv plain)

/-! ## AES-KW (SP 800-38F) -/

/-- One step of the unwrapping, number t, on the register i. -/
def kwStep (rk : List (List Byte)) (n t : Nat) (x : List Byte × List (List Byte)) : List Byte × List (List Byte) :=
  let i := (t - 1) % n
  let b := aesDec rk (xorBytes x.1 (beBytes 8 t) ++ x.2.getD i [])
  (b.take 8, x.2.set i (b.drop 8))

/-- Unwraps a 256-bit key of 40 bytes; none where the integrity check fails. -/
@[irreducible] def aesKwUnwrap (kek : BitVec 256) (c : List Byte) : Option (BitVec 256) :=
  let r := ((List.range 24).reverse.map (· + 1)).foldl (fun x t => kwStep (roundKeys kek) 4 t x)
    (c.take 8, groupsOf 8 4 (c.drop 8))
  if c.length = 40 && r.1 == List.replicate 8 (0xA6 : Byte) then some (BitVec.ofNat 256 (beNat r.2.flatten)) else none

/-! ## ECDSA over P-384 (FIPS 186-5) -/

/-- The prime of the field, the order of the base point, the coefficient b, the base point. -/
def p384 : Nat := 2 ^ 384 - 2 ^ 128 - 2 ^ 96 + 2 ^ 32 - 1
def n384 : Nat := 0xFFFFFFFFFFFFFFFFFFFFFFFFFFFFFFFFFFFFFFFFFFFFFFFFC7634D81F4372DDF581A0DB248B0A77AECEC196ACCC52973
def b384 : Nat := 0xB3312FA7E23EE7E4988E056BE3F82D19181D9C6EFE8141120314088F5013875AC656398D8A2ED19D2A85C8EDD3EC2AEF
def g384 : Nat × Nat :=
  (0xAA87CA22BE8B05378EB1C71EF320AD746E1D3B628BA79B9859F741E082542A385502F25DBF55296C3A545E3872760AB7,
   0x3617DE4A96262C6F5D9E98BF9292DC29F8F41DBD289A147CE9DA3113B5F0B8C00A60B1CE1D7E819D7A431D7C90EA0E5F)

/-- x^e modulo m over the `k` low bits of e. -/
def powMod (m x e : Nat) : Nat → Nat
  | 0 => 1 % m
  | k + 1 =>
    let r := powMod m (x * x % m) (e / 2) k
    if e % 2 = 1 then x * r % m else r

/-- The inverse modulo a prime below 2^384. -/
def invMod (m x : Nat) : Nat := powMod m (x % m) (m - 2) 384

/-- The difference and the product modulo the prime. -/
def subP (a b : Nat) : Nat := (a + p384 - b % p384) % p384
def mulP (a b : Nat) : Nat := a * b % p384

/-- Twice a point. A point is (X, Y, Z) for the affine (X / Z², Y / Z³); Z = 0 is the point at infinity. -/
def dblPt (a : Nat × Nat × Nat) : Nat × Nat × Nat :=
  let yy := mulP a.2.1 a.2.1
  let zz := mulP a.2.2 a.2.2
  let s := mulP 4 (mulP a.1 yy)
  let m := mulP 3 (mulP (subP a.1 zz) (a.1 + zz))
  let x := subP (mulP m m) (2 * s)
  (x, subP (mulP m (subP s x)) (8 * mulP yy yy), mulP (2 * a.2.1) a.2.2)

/-- The sum of two points. -/
def addPt (a b : Nat × Nat × Nat) : Nat × Nat × Nat :=
  if a.2.2 = 0 then b
  else if b.2.2 = 0 then a
  else
    let za := mulP a.2.2 a.2.2
    let zb := mulP b.2.2 b.2.2
    let u := mulP a.1 zb
    let s := mulP a.2.1 (mulP zb b.2.2)
    let h := subP (mulP b.1 za) u
    let r := subP (mulP b.2.1 (mulP za a.2.2)) s
    if h = 0 then (if r = 0 then dblPt a else (1, 1, 0))
    else
      let hh := mulP h h
      let x := subP (subP (mulP r r) (mulP h hh)) (2 * mulP u hh)
      (x, subP (mulP r (subP (mulP u hh) x)) (mulP s (mulP h hh)), mulP h (mulP a.2.2 b.2.2))

/-- A multiple of a point, over the `k` low bits of the factor. -/
def mulPt : Nat → Nat → Nat × Nat × Nat → Nat × Nat × Nat
  | 0, _, _ => (1, 1, 0)
  | k + 1, e, q =>
    let r := mulPt k (e / 2) (dblPt q)
    if e % 2 = 1 then addPt q r else r

/-- A public key is a point of the curve. -/
def onCurve (q : Nat × Nat) : Bool :=
  q.1 < p384 && q.2 < p384 && q.2 * q.2 % p384 == (q.1 * q.1 * q.1 + (p384 - 3) * q.1 + b384) % p384

/-- Verification of a signature r ‖ s over a digest under a public key X ‖ Y. -/
@[irreducible] def ecdsaVerify (pub : List Byte) (digest : BitVec 384) (sig : List Byte) : Bool :=
  let q := (beNat (pub.take 48), beNat (pub.drop 48))
  let r := beNat (sig.take 48)
  let s := beNat (sig.drop 48)
  let w := invMod n384 s
  let v := addPt (mulPt 384 (digest.toNat * w % n384) (g384.1, g384.2, 1)) (mulPt 384 (r * w % n384) (q.1, q.2, 1))
  let i := invMod p384 v.2.2
  pub.length == 96 && sig.length == 96 && onCurve q && 1 ≤ r && r < n384 && 1 ≤ s && s < n384 && v.2.2 != 0 &&
    v.1 * (i * i) % p384 % n384 == r

end Sys2Proof.Machine.Crypto
end

