-- ==== Sys2Proof/Machine/Nets.lean ====
section
/-! DEFINITION. What drives a clock net, and whether it runs (R62–R66, R70). -/
namespace Sys2Proof.Machine
open Sys2Proof

/-- ref_sel holds a reserved encoding (Table 2.6). -/
def refInvalid (ctrl : Word) : Bool := 0x12 ≤ wf ctrl 22 16 && wf ctrl 22 16 ≤ 0x3F

/-- A PLL runs with its applied settings: enabled, not in reset, its reference selection not reserved. -/
def pllRuns (p : Pll) : Bool := wb p.aCtrl 30 && !wb p.aCtrl 31 && !refInvalid p.aCtrl

/-- Output c of a PLL runs: the PLL and the output are enabled, and it is locked or its lol_gate is clear (R70). -/
def pllOutRuns (p : Pll) (c : Nat) : Bool := pllRuns p && wb (nth p.aOuts c) 31 && (p.locked || !wb p.aCtrl 0)

/-- A net reaches a band: a global one each, a regional one its own (R62). -/
def netReaches (net band : Nat) : Bool := net < 64 || (net - 64) / 24 == band

/-- The driver of a net (R62). -/
def netDriver (s : State) (net : Nat) : NetDriver := SMap.get (fun _ => NetDriver.none) s.design.nets net

/-- The driver of a net drives it (R62): a PLL output that runs, a clock-capable port (R65), or, for a global net alone, fabric
logic. A regional net takes the PLLs of its band and the ports beside it. -/
def netDriven (s : State) (net : Nat) : Bool :=
  match netDriver s net with
  | .none => false
  | .pll p c => netReaches net (p / 2) && p < 32 && c < 7 && pllOutRuns (s.pllOf p) c
  | .port n => n < 1024 && n % 64 < 4 && (net < 64 || n / 64 % 4 == (net - 64) / 24 / 4)
  | .fabric => net < 64

/-- The enable of a net (Table 2.5): GCLK_EN, or RCLK_EN of its band. -/
def netEnabled (s : State) (net : Nat) : Bool :=
  if net < 64 then s.clk.gclk.getLsbD net
  else (SMap.get dNat s.clk.rclk ((net - 64) / 24)).testBit ((net - 64) % 24)

/-- Whether a clock net runs in a band: it reaches it and is enabled, and the band is ON (R62, R63). -/
def netRuns (s : State) (net band : Nat) : Bool :=
  (s.bandOf band).state == .on && netReaches net band && netEnabled s net

/-- The reference that the device itself makes for a PLL runs (R66, Table 2.6): TB_10M_IN, C0 of the partner, a global net. A
clock-capable port is outside the device. -/
def refRuns (s : State) (p : Nat) : Bool :=
  let r := wf (s.pllOf p).aCtrl 22 16
  if r < 0x10 then true
  else if r = 0x10 then s.tbs.ref
  else if r = 0x11 then pllOutRuns (s.pllOf (if p % 2 = 0 then p + 1 else p - 1)) 0
  else if 0x40 ≤ r then netDriven s (r - 0x40) && netEnabled s (r - 0x40)
  else false

end Sys2Proof.Machine
end

