-- ==== Sys2Proof/Machine/Clocks.lean ====
section
/-! DEFINITION. The general PLLs and the clock registers (R66–R71), and the system monitor (R72–R74). -/
namespace Sys2Proof.Machine
open Sys2Proof

/-- The staged settings take effect and the PLL restarts (R71): it has yet to lock. -/
def pllRestart (p : Pll) : Pll := { p with aCtrl := p.ctrl, aDiv := p.div, aOuts := p.outs, locked := false }

/-- Applies the staged settings of PLL p. -/
def applyPll (s : State) (p : Nat) : State := s.setPll p (pllRestart (s.pllOf p))

/-- PLL_APPLY (R71): writing 1 to bit 0 restarts the PLL that the writer's own index selects. Only the MC writes it
(R69); during an MC restart it takes effect when the restart ends (R476) (DEDUCED, log entry 16). -/
def pllApply (acc : Accessor) (v : Word) (s : State) : State :=
  if acc == .dom .mc && wb v 0 then
    let p := wf (s.copy (acode acc) 0x120000 0) 4 0
    if s.mc.restart then { s with clk := { s.clk with pend := s.clk.pend ++ [p] } } else applyPll s p
  else s

/-- PLL_APPLY. -/
def execPllApply (acc : Accessor) (v : Word) (s : State) : Host.Outcome State Fault Refusal := done (pllApply acc v) s

/-- PLL_LOCK (R70): a running PLL achieves or regains lock; a reference that the device itself makes must run (R66) (DEDUCED, log
entry 16). -/
def pllLock (p : Nat) (s : State) : State :=
  if p < 32 && pllRuns (s.pllOf p) && refRuns s p then s.setPll p { s.pllOf p with locked := true, ref := true } else s

/-- PLL_LOCK. -/
def execPllLock (pll : Nat) (s : State) : Host.Outcome State Fault Refusal := done (pllLock pll) s

/-- LOSS_OF_LOCK (R70): locked falls, the count increments, and the bit is set in every accessor's copy of LOL_STICKY
(R69). Where the reference has gone, ref_present falls with it, of a PLL that is not locked too (Table 2.9). -/
def lossOfLock (p : Nat) (refGone : Bool) (s : State) : State :=
  if p < 32 && (s.pllOf p).locked then
    (s.setPll p { s.pllOf p with
      locked := false, ref := (s.pllOf p).ref && !refGone, lol := sat 0xFFFF (s.pllOf p).lol }).raiseAll 0x120020 0
      (1#32 <<< p)
  else if p < 32 && refGone then s.setPll p { s.pllOf p with ref := false }
  else s

/-- LOSS_OF_LOCK. -/
def execLossOfLock (pll : Nat) (refGone : Bool) (s : State) : Host.Outcome State Fault Refusal :=
  done (lossOfLock pll refGone) s

/-- A write of FCOUNT_CTRL by the MC: bit 31 starts the counter and the result is not yet done. -/
def fcountWrite (acc : Accessor) (v : Word) (s : State) : State :=
  if acc == .dom .mc then
    { s with clk := if wb v 31 then { s.clk with fctrl := v &&& 0x800000FF, fdone := false, fover := false, fkhz := 0 }
                    else { s.clk with fctrl := v &&& 0x800000FF } }
  else s

/-- FCOUNT_START (R71). -/
def execFcountStart (acc : Accessor) (v : Word) (s : State) : Host.Outcome State Fault Refusal := done (fcountWrite acc v) s

/-- FCOUNT_DONE (R71): the gate of a count that was started ends. -/
def fcountDone (khz : Nat) (s : State) : State :=
  if wb s.clk.fctrl 31 && !s.clk.fdone then
    { s with clk := { s.clk with fdone := true, fover := decide (khz ≥ 0x100000), fkhz := khz % 0x100000 } }
  else s

/-- FCOUNT_DONE. -/
def execFcountDone (khz : Nat) (s : State) : Host.Outcome State Fault Refusal := done (fcountDone khz) s

/-! ### CLK registers (Tables 2.5–2.9) -/

/-- Bit p for each PLL locked. -/
def lockSummary (s : State) : Nat := (List.range 32).foldl (fun n p => if (s.pllOf p).locked then n + 2 ^ p else n) 0

/-- Edges are seen on the reference that a PLL selects: seen when it locked last and not gone since, and, of one that the device
itself makes, running (Tables 2.6, 2.9). -/
def refPresent (s : State) (p : Nat) : Bool := (s.pllOf p).ref && refRuns s p

/-- A read of a CLK register. -/
def clkRead (acc : Accessor) (off : Nat) (s : State) : Word :=
  let a := acode acc
  let p := s.pllOf (wf (s.copy a 0x120000 0) 4 0)
  match off with
  | 0x00 => s.copy a 0x120000 0
  | 0x04 => p.ctrl
  | 0x08 => p.div
  | 0x0C => s.copy a 0x12000C 0
  | 0x10 => nth p.outs (wf (s.copy a 0x12000C 0) 2 0)
  | 0x14 => wd (p.lol * 65536 + b2n (refInvalid p.aCtrl) * 4 + b2n (refPresent s (wf (s.copy a 0x120000 0) 4 0)) * 2 + b2n p.locked)
  | 0x1C => wd (lockSummary s)
  | 0x20 => s.copy a 0x120020 0
  | 0x24 => s.copy a 0x120024 0
  | 0x28 => s.clk.gclk.extractLsb' 0 32
  | 0x2C => s.clk.gclk.extractLsb' 32 32
  | 0x30 => s.copy a 0x120030 0
  | 0x34 => wd (SMap.get dNat s.clk.rclk (wf (s.copy a 0x120030 0) 3 0))
  | 0x38 => s.clk.fctrl
  | 0x3C => wd (b2n s.clk.fdone * 0x80000000 + b2n s.clk.fover * 0x40000000 + s.clk.fkhz)
  | _ => 0

/-- A write of a CLK register: every accessor its own copies, the MC the rest (R69). Settings are staged, checked and
clamped field by field (R71). -/
def clkWrite (acc : Accessor) (off : Nat) (v : Word) (s : State) : State :=
  let a := acode acc
  let i := wf (s.copy a 0x120000 0) 4 0
  let o := wf (s.copy a 0x12000C 0) 2 0
  let p := s.pllOf i
  let isMc := acc == .dom .mc
  match off with
  | 0x00 => s.setCopy a 0x120000 0 (v &&& 0x1F)
  | 0x0C => s.setCopy a 0x12000C 0 (v &&& 7)
  | 0x20 => s.clearCopy a 0x120020 0 v
  | 0x24 => s.setCopy a 0x120024 0 v
  | 0x30 => s.setCopy a 0x120030 0 (v &&& 0xF)
  | 0x04 => if isMc then s.setPll i { p with ctrl := ((checkReg 0 none 9 v).getD (0, [])).1 } else s
  | 0x08 => if isMc then s.setPll i { p with div := ((checkReg 0 none 10 v).getD (0, [])).1 } else s
  | 0x10 => if isMc && o < 7 then
      s.setPll i { p with outs := setAt p.outs o (((checkReg 0 none 11 (v &&& 0xFFFFFFF8)).getD (0, [])).1) } else s
  | 0x18 => pllApply acc v s
  | 0x28 => if isMc then { s with clk := { s.clk with gclk := s.clk.gclk.extractLsb' 32 32 ++ v } } else s
  | 0x2C => if isMc then { s with clk := { s.clk with gclk := v ++ s.clk.gclk.extractLsb' 0 32 } } else s
  | 0x34 => if isMc then
      { s with clk := { s.clk with rclk := SMap.set dNat s.clk.rclk (wf (s.copy a 0x120030 0) 3 0) (wf v 23 0) } } else s
  | 0x38 => fcountWrite acc v s
  | _ => s

/-! ## System monitor -/

/-- Thermal levels of loop 6 (Table 12.15): entered on two results in a row at or above the level, left below it minus
32 codes (DESIGN CHOICE, log entry 66). -/
def levelNext (active prev : Bool) (level code : Nat) : Bool :=
  if active then decide (level ≤ code + 32) else prev && decide (level ≤ code)

/-- Channel 0 against THERMAL_ALERT and THERMAL_CRIT (R375) (DEDUCED, log entry 17). -/
def thermal (code : Nat) (s : State) : State :=
  let al := levelNext s.mc.thAlert s.mc.thA1 (s.pol 3) code
  let cr := levelNext s.mc.thCrit s.mc.thC1 (s.pol 4) code
  let s1 := { s with mc := { s.mc with
    thAlert := al, thCrit := cr, thA1 := decide (s.pol 3 ≤ code), thC1 := decide (s.pol 4 ≤ code) } }
  let s2 := if al != s.mc.thAlert then (s1.policy .ok 6 0 code).post allDomains 0 .ok 2 0 code else s1
  if cr != s.mc.thCrit then (s2.policy .ok 6 0 code).post allDomains 0 .ok 2 0 code else s2

/-- A supply channel's alarm (R375): a change posts VOUT_MISMATCH with the channel (DEDUCED, log entry 17). -/
def supply (ch code : Nat) (alarm : Bool) (s : State) : State :=
  if alarm == s.mc.supAlarm.testBit ch then s
  else
    let s1 := { s with mc := { s.mc with
      supAlarm := if alarm then s.mc.supAlarm + 2 ^ ch else s.mc.supAlarm - 2 ^ ch } }
    (s1.policy .voutMismatch 6 ch code).post allDomains 0 .voutMismatch 3 ch code

/-- The channels that monitor a supply (Table 2.10). -/
def supplyCh (ch : Nat) : Bool := (1 ≤ ch && ch ≤ 9) || ch == 12 || ch == 13 || ch == 15

/-- A result lies outside the thresholds. -/
def outside (c : Chan) (code : Nat) : Bool := decide (c.hi < code) || decide (code < c.lo)

/-- A channel after a result. Only a result that came while its alarm was enabled is the first of two (R73; DESIGN CHOICE,
log entry 66). -/
def chanNext (c : Chan) (code : Nat) : Chan :=
  { c with
    valid := true, alarm := outside c code, seq := (c.seq + 1) % 4096, code := code,
    min := if code < c.min then code else c.min, max := if c.max < code then code else c.max,
    out1 := wb c.cfg 30 && outside c code }

/-- The hottest band and its code; the lowest band of those equally hot. -/
def hottest (s : State) : Nat × Nat :=
  (List.range 16).foldl (fun (x : Nat × Nat) b =>
    let t := SMap.get dNat s.smn.temps b
    if x.2 < t then (b, t) else x) (0, SMap.get dNat s.smn.temps 0)

/-- The code of a result. Channels 0 and 14 convert what the 16 band sensors gave last: the hottest, and the mean, rounded down
(R72; DESIGN CHOICE, log entry 66). With averaging over two samples or more the sensors may have been sampled between them,
and the result is the converter's. -/
def resultCode (s : State) (ch code : Nat) : Nat :=
  if wf s.smn.ctrl 2 0 != 0 then code % 4096
  else if ch = 0 then (hottest s).2
  else if ch = 14 then (List.range 16).foldl (fun n b => n + SMap.get dNat s.smn.temps b) 0 / 16
  else code % 4096

/-- A channel converts: the monitor is enabled and the channel is in sequence (R72, Table 2.12). -/
def converts (s : State) (ch : Nat) : Bool := ch < 16 && wb s.smn.ctrl 31 && wb (s.chanOf ch).cfg 31

/-- SMN_RESULT (R73): the alarm bit is set in every copy on the second averaged result in a row outside the thresholds
of an alarm-enabled channel (DESIGN CHOICE, log entry 66). -/
def smnResult (ch code0 : Nat) (s : State) : State :=
  let code := resultCode s ch code0
  let c := s.chanOf ch
  let s1 := s.setChan ch (chanNext c code)
  let trip := wb c.cfg 30 && c.out1 && outside c code
  let s2 := if trip then s1.raiseAll 0x110020 0 (1#32 <<< ch) else s1
  if ch = 0 then thermal code s2
  else if supplyCh ch && wb c.cfg 30 then
    supply ch code (if outside c code then trip || s.mc.supAlarm.testBit ch else false) s2
  else s2

/-- SMN_RESULT. -/
def execSmnResult (ch code : Nat) (s : State) : Host.Outcome State Fault Refusal :=
  done (fun s => if converts s ch then smnResult ch code s else s) s

/-- TEMP_SAMPLE (R72): the codes of the 16 band sensors. -/
def tempSample (codes : List Nat) (s : State) : State :=
  { s with smn := { s.smn with
    temps := (List.range 16).foldl (fun m b => SMap.set dNat m b ((codes.getD b 0) % 4096)) s.smn.temps } }

/-- TEMP_SAMPLE. -/
def execTempSample (codes : List Nat) (s : State) : Host.Outcome State Fault Refusal := done (tempSample codes) s

/-- MINMAX_CLEAR (R74): the MC resets the extremes of every channel. -/
def minmaxClear (acc : Accessor) (v : Word) (s : State) : State :=
  if acc == .dom .mc && wb v 0 then
    { s with smn := { s.smn with
      chans := (List.range 16).foldl (fun m c =>
        SMap.set dChan m c { SMap.get dChan m c with min := 0xFFF, max := 0 }) s.smn.chans } }
  else s

/-- MINMAX_CLEAR. -/
def execMinmaxClear (acc : Accessor) (v : Word) (s : State) : Host.Outcome State Fault Refusal := done (minmaxClear acc v) s

/-- A read of an SMN register (Tables 2.12, 2.13). -/
def smnRead (acc : Accessor) (off : Nat) (s : State) : Word :=
  let a := acode acc
  let c := s.chanOf (wf (s.copy a 0x110004 0) 3 0)
  match off with
  | 0x00 => s.smn.ctrl
  | 0x04 => s.copy a 0x110004 0
  | 0x08 => c.cfg
  | 0x0C => wd (b2n c.valid * 0x80000000 + b2n c.alarm * 0x40000000 + c.seq * 65536 + c.code)
  | 0x10 => wd c.min
  | 0x14 => wd c.max
  | 0x18 => wd c.hi
  | 0x1C => wd c.lo
  | 0x20 => s.copy a 0x110020 0
  | 0x24 => s.copy a 0x110024 0
  | 0x28 => s.copy a 0x110028 0
  | 0x2C => wd (SMap.get dNat s.smn.temps (wf (s.copy a 0x110028 0) 3 0))
  | 0x30 => wd ((hottest s).1 * 65536 + (hottest s).2)
  | _ => 0

/-- CTRL written: a monitor that becomes enabled has given no result since (Table 2.13). -/
def smnCtrl (v : Word) (s : State) : State :=
  let s1 := { s with smn := { s.smn with ctrl := (clampField 2 0 (nearest 0 4) (v &&& 0x80000007, [])).1 } }
  if wb v 31 && !wb s.smn.ctrl 31 then
    (List.range 16).foldl (fun u c => u.setChan c { u.chanOf c with valid := false, out1 := false }) s1
  else s1

/-- CH_CFG written: a channel that enters the sequence has given no result since; a run of results outside the thresholds ends
with the alarm's enable (Table 2.13, R73). -/
def chanCfg (c : Chan) (v : Word) : Chan :=
  { c with
    cfg := v &&& 0xC000000F, valid := c.valid && (wb c.cfg 31 || !wb v 31), out1 := c.out1 && wb v 30 }

/-- A write of an SMN register: every accessor its own copies, the MC the rest (R74). -/
def smnWrite (acc : Accessor) (off : Nat) (v : Word) (s : State) : State :=
  let a := acode acc
  let i := wf (s.copy a 0x110004 0) 3 0
  let c := s.chanOf i
  let isMc := acc == .dom .mc
  match off with
  | 0x04 => s.setCopy a 0x110004 0 (v &&& 0xF)
  | 0x20 => s.clearCopy a 0x110020 0 v
  | 0x24 => s.setCopy a 0x110024 0 (v &&& 0xFFFF)
  | 0x28 => s.setCopy a 0x110028 0 (v &&& 0xF)
  | 0x00 => if isMc then smnCtrl v s else s
  | 0x08 => if isMc then s.setChan i (chanCfg c v) else s
  | 0x18 => if isMc then s.setChan i { c with hi := wf v 11 0 } else s
  | 0x1C => if isMc then s.setChan i { c with lo := wf v 11 0 } else s
  | 0x34 => minmaxClear acc v s
  | _ => s

end Sys2Proof.Machine
end

