-- ==== Sys2Proof/Machine/NvOps.lean ====
section
/-! DEFINITION. Operations over the NV array: logical addresses, the ring of physical sectors, reading, programming and
erasing, image slots and the library (R380–R386, R403, R405). -/
namespace Sys2Proof.Machine
open Sys2Proof

/-- What an erased byte reads as (R380). -/
def erased : Byte := 0xFF

/-- Bank, logical sector and byte within the bank's share of a logical address (Table 13.1). -/
def laBank (a : Nat) : Nat := 4 * bf a 20 17 + bf a 9 8
def laSector (a : Nat) : Nat := bf a 30 21
def laByte (a : Nat) : Nat := bf a 16 10 * 256 + bf a 7 0

/-- The logical address of a page-relative place: bank, sector, byte of the 32 KiB share. -/
def laOf (bank sector byte : Nat) : Nat :=
  sector * 0x200000 + bank / 4 * 0x20000 + byte / 256 * 0x400 + bank % 4 * 0x100 + byte % 256

/-- The ring slot of a logical sector (R403). -/
def ringSlot (b : Bank) (sec : Nat) : Nat :=
  let r := (sec + b.s) % 1016
  if r < b.g then r else r + 1

/-- The physical sector of a ring slot; at manufacture slot r is sector r (R403). -/
def slotPhys (b : Bank) (slot : Nat) : Nat := SMap.get (fun r => r) b.ring slot

/-- The physical sector of a logical sector. -/
def physOf (b : Bank) (sec : Nat) : Nat := slotPhys b (ringSlot b sec)

/-- The address of a byte of a physical sector in the array. -/
def physAddr (bank phys byte : Nat) : Nat := (bank * 1024 + phys) * 32768 + byte

/-- The array address of a logical address. -/
def nvAddr (s : State) (a : Nat) : Nat := physAddr (laBank a) (physOf (s.bankOf (laBank a)) (laSector a)) (laByte a)

/-- One byte at a logical address. -/
def nvByte (s : State) (a : Nat) : Byte := Memory.read erased s.nv.arr (nvAddr s a)

/-- Bytes from a logical address. -/
def nvRead (s : State) (a : Nat) : Nat → List Byte
  | 0 => []
  | n + 1 => nvByte s a :: nvRead s (a + 1) n

/-- Programming clears bits and sets none (R380). -/
def nvProgram (s : State) (a : Nat) : List Byte → State
  | [] => s
  | b :: bs =>
    nvProgram { s with nv := { s.nv with arr := Memory.write erased s.nv.arr (nvAddr s a) (nvByte s a &&& b) } } (a + 1) bs

/-- A memory with every cell of an address range unlisted. -/
def eraseCells (m : Memory) (base len : Nat) : Memory := m.filter fun c => !(base ≤ c.1 && c.1 < base + len)

/-- Erases a physical sector of a bank. -/
def nvErasePhys (s : State) (bank phys : Nat) : State :=
  { s with nv := { s.nv with arr := eraseCells s.nv.arr (physAddr bank phys 0) 32768 } }

/-- A sector whose latest journal entry has ERASE_STARTED set and ERASE_DONE clear is TORN (R405). -/
def isTorn (s : State) (bank sec : Nat) : Bool := (s.bankOf bank).started.contains (physOf (s.bankOf bank) sec)

/-! ## Image slots and the library (R367, R385) -/

/-- The logical address of byte x of group area g of slot n (R385). -/
def slotAddr (n g x : Nat) : Nat := (128 * n + x / 0x20000) * 0x200000 + g * 0x20000 + x % 0x20000

/-- Bytes of a group area. -/
def slotRead (s : State) (n g x : Nat) : Nat → List Byte
  | 0 => []
  | k + 1 => nvByte s (slotAddr n g x) :: slotRead s n g (x + 1) k

/-- The logical address of byte x of the library from unit u on. -/
def unitAddr (u x : Nat) : Nat := 0x20000000 + u * 0x200000 + x

/-- The length of the manifest that starts a byte string, by its chunk count (Table 3.8). -/
def manLenOf (head : List Byte) : Nat := 0x0D0 + 16 * leAt head 0x00C 4 + 96

/-- A manifest header is that of a stored container: magic, version, kind and chunk count. -/
def manHeadOk (head : List Byte) (kind : Nat) : Bool :=
  leAt head 0 4 == 0xB10E5C0A && leAt head 4 2 == 1 && leAt head 6 2 == kind && 2 ≤ leAt head 12 4 && leAt head 12 4 ≤ 4096

/-- The signature of the manifest stored in a slot; empty where no manifest stands there. -/
def slotSig (s : State) (n : Nat) : List Byte :=
  let head := slotRead s n 0 0 16
  if manHeadOk head 1 then slotRead s n 0 (manLenOf head - 96) 96 else []

/-- The signature of the library entry that begins in a unit; empty where none does. -/
def unitSig (s : State) (u : Nat) : List Byte :=
  let head := nvRead s (unitAddr u 0) 16
  if manHeadOk head 2 then nvRead s (unitAddr u (manLenOf head - 96)) 96 else []

/-- The source that R184 records for a load: the slot or library entry with an identical manifest signature. -/
def sourceOf (s : State) (full : Bool) (sig : List Byte) : Source :=
  if full then
    if slotSig s 0 == sig then .slot0 else if slotSig s 1 == sig then .slot1 else .pushed
  else match (List.range 256).find? fun u => unitSig s u == sig with
    | some u => .library u
    | none => .pushed

/-! ## The slot selector (R117–R119) -/

/-- A copy is valid when its magic, CRC and reserved bits are right (R118). -/
def selValid (c : Selector) : Bool :=
  c.bytes.length == 32 && leAt c.bytes 0 4 == 0x5E1EC701 && leAt c.bytes 8 4 < 2 &&
    (c.bytes.drop 12).take 16 == List.replicate 16 (0 : Byte) &&
    leAt c.bytes 0x1C 4 == (crc32c (c.bytes.take 0x1C)).toNat

def selSeq (c : Selector) : Nat := leAt c.bytes 4 4
def selSlot (c : Selector) : Nat := leAt c.bytes 8 4 % 2

/-- The 32 bytes of a copy (Table 4.3). -/
def selBytes (seq slot : Nat) : List Byte :=
  let b := leBytes 4 0x5E1EC701 ++ leBytes 4 seq ++ leBytes 4 slot ++ List.replicate 16 0
  b ++ leBytes 4 (crc32c b).toNat

/-- Which copy wins: false A, true B; none where neither is valid (R118). -/
def selWinner (a b : Selector) : Option Bool :=
  if selValid a && selValid b then some (selSeq a < selSeq b)
  else if selValid a then some false
  else if selValid b then some true
  else none

end Sys2Proof.Machine
end

