-- ==== Sys2Proof/Machine/LoadOps.lean ====
section
/-! DEFINITION. What loads share: writing a frame, the region and its shadow set, applying an image's registers, and
the end of a load (R81–R111, R137–R156, R170, R171). -/
namespace Sys2Proof.Machine
open Sys2Proof

/-- The management port's load; 0–15 are the ICPs. -/
def mgmt : Nat := 16

/-- CRC-32C of 512 zero bytes (R421). -/
def zeroCrc : Word := 0x30FCEDC0

/-! ## Frames -/

/-- A payload as a plane holds it: zeros are held as nothing. -/
def packWords (ws : List Word) : List Word := if ws.all (· == 0) then [] else ws

/-- The owner codes whose copies record an event on a frame, and the domains whose report takes it: the region's owner;
for a static frame every accessor, and HS with every host that owns a resource (R185, R190). -/
def frameAccs (s : State) (key : Nat) : List Nat :=
  match s.frameRegion key with
  | some r => [ocode (s.owner r)]
  | none => accessors

def frameDoms (s : State) (key : Nat) : List Nat :=
  match s.frameRegion key with
  | some r => [ocode (s.owner r)]
  | none => 4 :: [0, 1, 2, 3].filter fun d => ownsAny s.ten (ownerOf d)

/-- The code of a frame's source (Table 6.4). -/
def srcCode : Source → Nat
  | .slot0 => 0 | .slot1 => 1 | .library _ => 2 | .pushed => 3 | .unwritten => 3

/-- The bit of SCR.INT_STATUS that an event kind sets (R190). -/
def scrBit : Nat → Word
  | 1 => 1 | 2 => 2 | 3 => 4 | 5 => 8 | 6 => 0x40 | _ => 0

/-- Records a scrub event on a frame (Tables 6.3–6.5, R190, R372). -/
def scrEvent (s : State) (kind key : Nat) (active : Bool) (st : Status) (src word : Nat) : State :=
  let canary := kind = 4 || kind = 5
  let region := if canary then 0xFF else (s.frameRegion key).getD 0xFF
  let accs := if canary then accessors else frameAccs s key
  let doms := if canary then allDomains else frameDoms s key
  let s1 := { s with scr := { s.scr with
    unacted := false,
    far := wd (farWord key active),
    info := wd (kind * 0x10000000 + keyBand key * 0x1000000 + scode st * 0x10000 + region * 256 + src * 32 + word) } }
  (s1.raiseFor accs 0x30040 0 (scrBit kind)).post doms 4 (if kind = 3 then .uncorrectableFrame else st) kind region
    (farWord key active)

/-- The plane that a load writes: a content frame has plane A alone (R78, R81). -/
def planeOf (f : Frame) (key : Nat) (active : Bool) : Plane :=
  if isContent key then f.a else if active then f.active else f.shadowPlane

/-- A frame with the plane that a load writes replaced. A content frame is blank while it holds zeros (R421). -/
def putPlane (f : Frame) (key : Nat) (active : Bool) (p : Plane) : Frame :=
  if isContent key then { f with a := p, blank := p.payload.isEmpty } else f.setPlane active p

/-- Writes one plane of a frame. A reload that was pending on it is cancelled (R183), with the role as the scrubber read it (Table
6.2), and a mark is cleared (R185). -/
def writePlane (s : State) (key : Nat) (active : Bool) (p : Plane) : State :=
  let f := s.frameOf key
  let old := planeOf f key active
  let s1 := s.setFrame key (putPlane f key active p)
  if old.pend then scrEvent s1 6 key true .ok (srcCode old.src) old.word else s1

/-- Word w of the canary pattern of a band (R188). -/
def canaryWords (band : Nat) : List Word := (List.range 128).map fun w => wd (0xC3A50000 + 256 * band + w)

/-- The MC writes a band's canary frame from ROM, with its check bits (R188). -/
def writeCanary (s : State) (band : Nat) : State :=
  s.setFrame (canaryKey band) { s.frameOf (canaryKey band) with
    a := { payload := canaryWords band, sig := crc32c (wordBytes (canaryWords band)) } }

/-! ## Regions -/

/-- A region is locked: a member of a target in VERIFYING, READY, ARMED or SWITCHING, or short of its E1 after a commit
TIMEOUT (Table 5.9). -/
def isLocked (s : State) (r : Nat) : Bool :=
  (s.regionOf r).late || s.cfg.targets.any fun e =>
    (e.2.state == .verifying || e.2.state == .ready || e.2.state == .armed || e.2.state == .switching) && e.2.members.contains r

/-- Whether the shadow plane holds, or is being given, a whole-device image (R148, R170). -/
def deviceImage (s : State) : Bool :=
  let t := s.targetOf 15
  t.state != .idle || ((s.loadOf mgmt).whole && (s.loadOf mgmt).phase != .idle)

/-- Whether a load may start in a region (R148, Table 5.3). -/
def mayLoad (s : State) (r : Nat) : Bool :=
  let st := (s.regionOf r).state
  (st == .empty || st == .incomplete || st == .prepared || st == .isolated) && !isLocked s r && !deviceImage s

/-- Sets bits of CFG.SWAP_INT_STATUS in a region owner's copy (R176). -/
def swapInt (s : State) (r : Nat) (bits : Word) : State := s.raiseFor [ocode (s.owner r)] 0x2005C 0 bits

/-- A slice runs in a region (R441). -/
def sliceIn (s : State) (r : Nat) : Bool :=
  s.bst.slices.any fun e => match e.2 with
    | some x => sliceAt s x r
    | none => false

/-- Step 2 of R155: latches hold, or drive the isolation values of a sealed border; write enable falls, GSR is asserted, icp_decouple of a soft region rises, the shadow set is
cleared. -/
def isolate (s : State) (r : Nat) : State :=
  let s1 := s.setRegion r { s.regionOf r with isolated := true, gsr := true, we := false, shadow := [] }
  let s2 := sealBorder (gsrFabric s1 (inRegion s1 r)) r
  if r < 128 then s2.emit (.wire "icp_decouple" r 1) else s2

/-- Step 5 of R155: the isolation, the GSR and the write enable are released in turn. -/
def unisolate (s : State) (r : Nat) : State :=
  let s1 := openLatches (s.setRegion r { s.regionOf r with isolated := false, gsr := false, we := true })
  if r < 128 then s1.emit (.wire "icp_decouple" r 0) else s1

/-! ## Applying an image's registers (R107, R141, R171, R173) -/

/-- The values of REGION_ATTR in a region (Table 3.12). -/
def attrRegion (g : Region) (w : Word) : Region :=
  { g with group := wf w 23 20, groupEn := wb w 19, clock := wf w 18 12 }

/-- The settings of a PLL that an image gives: those it writes, and the defaults of Table 3.9 for the others (R106). -/
def pllSettings (plls : SMap Word) (p : Nat) (g : Pll) : Pll :=
  (plls.filter fun e => e.1 / 16 == p).foldl (fun (g : Pll) e =>
    match e.1 % 16 with
    | 0 => { g with ctrl := e.2 }
    | 1 => { g with div := e.2 }
    | o => { g with outs := setAt g.outs (o - 2) (e.2 &&& 0xFFFFFFF8) })
    { g with ctrl := 0x80000100, div := 0x00140000, outs := List.replicate 7 0x00000200 }

/-- Writes the PLL settings of an image and restarts the PLLs, except those the filter keeps (R107, R173). A PLL that the image does
not touch stands at its defaults, in reset. -/
def stagePlls (s : State) (plls : SMap Word) (keep : Nat → Bool) : State :=
  (List.range 32).foldl (fun u p => if keep p then u else applyPll (u.setPll p (pllSettings plls p (u.pllOf p))) p) s

/-- The DTB and its rate are noted before they change, for as long as the run of a filter can reach back (R240). -/
def Tbs.note (t : Tbs) (now : Nat) : Tbs :=
  { t with hist := (now, t.dtb, t.rate) :: t.hist.filter fun e => now < e.1 + 65536 }

/-- The timebase turns to a discipline source (R255): FREE without one, else ACQUIRING; in HOLDOVER while TB_10M_IN is
lost. -/
def discipline (t : Tbs) (src port now : Nat) : Tbs :=
  if t.source = src && t.macPort = port then t
  else
    { Tbs.note t now with
      source := src, macPort := port, good := 0, missRun := 0, rate := 0, ppsAt := now, syncAt := now
      state := if !t.ref then .holdover else if src = 0 then .free else .acquiring }

/-- What follows the policy parameters of a new image or of a wake: the monitor windows, and the scrub period, at the next
pass boundary where the scrubber goes on running (R186, R374). -/
def followPolicy (s : State) (running : Bool) : State :=
  let p := s.pol 1
  { s with
    scr := if running then { s.scr with newCfg := if p = s.scr.cfg then s.scr.newCfg else some p }
           else { s.scr with cfg := p, active := p, newCfg := none }
    smn := { s.smn with
      chans := (List.range 16).foldl (fun m c =>
        let w := s.pol (0x10 + c)
        SMap.set dChan m c { SMap.get dChan m c with
          cfg := (SMap.get dChan m c).cfg &&& 0xBFFFFFFF ||| wd (bf w 31 31 * 0x40000000)
          hi := bf w 27 16
          lo := bf w 11 0 }) s.smn.chans } }

/-- The registers, tenancy, windows and attributes of a full image take effect. Parameters that SET_POLICY changed
return to the image's values (R374). -/
def applyImage (s : State) (regs : SMap Word) (ten : SMap Owner) (wins : SMap (List Word)) (attrs plls : SMap Word)
    (keepPll : Nat → Bool) (keepState : Bool) : State :=
  let region (r : Nat) : Region :=
    let g : Region := if keepState then s.regionOf r else {}
    let g1 := { g with window := SMap.get dWords wins r, group := 0, groupEn := false, clock := 0 }
    if attrs.any (fun e => e.1 == r) then attrRegion g1 (SMap.get dWord attrs r) else g1
  let regs1 := regs
  let s1 := { s with
    ten := ten,
    cfg := { s.cfg with
      regs := regs1,
      regions := (List.range 136).foldl (fun m r => SMap.set dRegion m r (region r)) [] },
    mc := { s.mc with pol := [], polSet := [], byCmd := [] } }
  let s2 := { s1 with
    clk := { s1.clk with
      gclk := s1.cfgReg 0x0D ++ s1.cfgReg 0x0C,
      rclk := (List.range 16).foldl (fun m b => SMap.set dNat m b (s1.cfgReg (0x10000 + b)).toNat) [] },
    tbs := discipline s1.tbs (wf (s1.cfgReg 0x10) 1 0) (wf (s1.cfgReg 0x10) 7 4) s1.uptime,
    pci := (List.range 4).foldl (fun m p =>
      SMap.set dPci m p { SMap.get dPci m p with policy := wf (s1.cfgReg 0x52) (2 * p + 1) (2 * p) }) s1.pci }
  stagePlls (followPolicy s2 keepState) plls keepPll

/-! ## The end of a load -/

/-- Records the clamp report of a load, readable by the region's owner or, for a full image, by every domain (R371). -/
def loadReport (s : State) (ld : Nat) : Nat × State :=
  let l := s.loadOf ld
  let readers := if l.full then allDomains else [ocode (s.owner l.region)]
  let r := addReport s readers 256 l.clamps
  (r.1, { r.2 with cfg := { r.2.cfg with clampN := min 0xFFFF l.clamps.length, clampH := r.1 } })

/-- Completes the command behind a load: Res0 frames written, Res1 the frame address of a failure. -/
def loadCpl (s : State) (ld : Nat) (st : Status) (handle : Nat) : State :=
  let l := s.loadOf ld
  match l.cmd with
  | none => s
  | some r =>
    let s1 := { s with mc := { s.mc with running := s.mc.running.map fun c =>
      if c.d == r.d && c.tag == r.tag then { c with handle := handle } else c } }
    endCmd r st 3 [wd l.written, if st = .ok then 0 else wd (l.errFar)] s1

/-- The report that the registers show: that of the last load, which a load in progress is not yet (Tables 3.16, 5.11). -/
def Load.rep (l : Load) : LoadRep :=
  if l.phase == .manifest || l.phase == .stream || l.phase == .wait1us then l.before
  else { status := l.status, errFar := l.errFar, errPos := l.errPos, errChunk := l.errChunk }

/-- A load begins; the report of the one before stays in view. -/
def newLoad (s : State) (ld : Nat) (l : Load) : State := s.setLoad ld { l with before := (s.loadOf ld).rep }

/-- Starts the attempt on an image slot (R115, R120). -/
def startSlot (s : State) (slot : Nat) : State :=
  newLoad s mgmt { phase := .manifest, used := true, source := slot, full := true,
                   nv := some (if slot = 0 then .slot0 else .slot1) }

/-- Before a second attempt (R120): PLLs in reset, configuration registers at their defaults. -/
def restoreDefaults (s : State) : State := applyImage s [] [] [] [] [] (fun _ => false) false

/-- The fabric clocks stop: no net is enabled, and every PLL is in reset (Table 4.8). -/
def stopClocks (s : State) : State :=
  let s1 := { s with clk := { s.clk with gclk := 0, rclk := [] } }
  stagePlls s1 [] fun _ => false

/-- The retained state of bank 16 is applied over the image that was loaded (R428, R430). -/
def applyKept (k : Kept) (s : State) : State :=
  { s with
    ten := k.ten,
    cfg := { s.cfg with
      regions := k.regions.foldl (fun m e => SMap.set dRegion m e.1
        { SMap.get dRegion m e.1 with window := e.2.window, group := e.2.group, groupEn := e.2.groupEn, clock := e.2.clock }) s.cfg.regions,
      frames := k.frames.foldl (fun m e => SMap.set dFrame m e.1 e.2) s.cfg.frames },
    mc := { s.mc with pol := k.pol, polSet := k.polSet },
    noc := { s.noc with fw := k.fw, map := k.map, ni := k.ni, routes := k.routes, epoch := k.epoch },
    pci := (List.range 4).foldl (fun m p =>
      let o := SMap.get dPci k.pci p
      SMap.set dPci m p { SMap.get dPci m p with
        xlts := o.xlts, obLo := o.obLo, obHi := o.obHi, obLimit := o.obLimit, policy := o.policy }) s.pci,
    port := k.forced.foldl (fun m n => SMap.set dPort m n { SMap.get dPort m n with forced := true }) s.port,
    nv := { s.nv with urgent := k.urgent, xip := k.xip },
    lcs := { s.lcs with grants := k.grants, gseq := k.gseq },
    tbs := discipline s.tbs k.source k.macPort s.uptime,
    pwr := { s.pwr with wakeS := .timebaseEstimated } }

/-- A PCI endpoint whose link is down is muzzled with cause 4; the muzzle of one whose link is up has ended (R215). -/
def linkMuzzles (s : State) : State :=
  [0, 1, 2, 3].foldl (fun (u : State) p =>
    let m := u.mapOf (0x110 + p)
    if !(u.pciOf p).up && m.state == .live then linkMuzzle u p
    else if (u.pciOf p).up && m.state == .muzzled && m.cause = 4 then u.setMap (0x110 + p) { m with state := .live, cause := 0 }
    else u) s

/-- The recorded slot or bank 16 fails at a wake (R429): every band image is discarded and no retained state is applied. -/
def wakeLost (s : State) : State :=
  ({ s with
      pwr := { s.pwr with kept := none, retSt := 0x1FFFF, kValid := s.pwr.kValid / 0x20000 * 0x20000, wakeS := .retentionLost, kennel := s.pwr.kennel.filter fun c => 16 ≤ c.1 / 65536 },
      boot := { s.boot with devWake := false } }).raiseAll 0xC0030 0 4

/-- The image of the recorded slot has loaded: the retained state is applied, unless bank 16 names another image. -/
def wakeApply (s : State) (sig : List Byte) : State :=
  match s.pwr.kept with
  | some k => if k.sig = sig then linkMuzzles (followPolicy (applyKept k s) false) else wakeLost s
  | none => wakeLost s

/-- A failed initial load: the other slot is tried, or the device waits with CFG_ERR_N asserted (R120, Table 4.8). -/
def bootFail (s0 : State) (st : Status) : State :=
  let s := if s0.boot.devWake then wakeLost s0 else s0
  let b := s.boot
  if b.phase == .booting then
    if s0.boot.devWake && b.cfgMode != 0 then
      restoreDefaults { s with boot := { b with first := st, phase := .waitImage }, cfg := { s.cfg with clampN := 0, clampH := 0 } }
    else if b.fallback then
      (stopClocks { s with boot := { b with second := st, phase := .unconfigured, cfgErr := true } }).emit
        (.pin "CFG_ERR_N" false)
    else
      let s1 := restoreDefaults { s with
        boot := { b with first := st, fallback := true, tried := 1 - b.tried },
        cfg := { s.cfg with clampN := 0, clampH := 0 },
        mc := { s.mc with clamps := [] } }
      startSlot s1 (1 - b.tried)
  else
    let ph : Phase := if b.phase == .unconfigured then .unconfigured else .waitImage
    { s with boot := { b with first := st, cfgErr := true, phase := ph } }.emit (.pin "CFG_ERR_N" false)

/-- The state a region is left in by a load that fails (R148, R156). -/
def failState (l : Load) : RState := if !l.began then l.prev else if l.direct then .isolated else .incomplete

/-- A load stops at its first error (R110): the port that carried it reports, the region is left as R148 and R156 give,
and the command completes. An ICP then discards beats up to the next beat with icp_eop (R154), also where the container's own last
beat has been taken already (DESIGN CHOICE, log entry 74). -/
def loadFail (ld : Nat) (st : Status) (s0 : State) : State :=
  let l0 := s0.loadOf ld
  let s := s0.setLoad ld { l0 with
    phase := if ld < 16 then .drain else .idle, done := true, status := st,
    errFar := match l0.farNow with
      | none => 0
      | some a => if l0.shadow then a else a ||| 0x40000000,
    errPos := l0.recPos, errChunk := if l0.segOpen then l0.chunk.getD 0xFFFF % 0x10000 else 0xFFFF, fifo := [], buf := [] }
  let r := loadReport s ld
  let s1 := r.2
  let l := s1.loadOf ld
  if l.full then
    if l.shadow then loadCpl s1 ld st r.1
    else loadCpl (bootFail s1 st) ld st r.1
  else
    let g := s1.regionOf l.region
    let s2 := s1.setRegion l.region { g with state := failState l, last := st }
    let s3 := loadCpl (swapInt s2 l.region 0x18) ld st r.1
    if ld < 16 then s3.emit (.wire "icp_status" ld (scode st)) else s3

/-- A load that was refused before any stream word: the region is unchanged (R148). -/
def loadRefuse (ld : Nat) (st : Status) (s : State) : State :=
  let l := s.loadOf ld
  let s1 := s.setLoad ld { l with phase := .drain, done := true, status := st, errPos := 0xFFFFFFFF, errFar := 0, errChunk := 0xFFFF, fifo := [], buf := [] }
  (swapInt s1 l.region 0x18).emit (.wire "icp_status" ld (scode st))

/-- The status a load that succeeds ends with (R109). -/
def loadOkStatus (l : Load) : Status := if l.clamps.isEmpty then .ok else .okClamped

/-- The intersections of which a load wrote content frames. -/
def contentAt (l : Load) : Nat → Nat → Bool := fun b c =>
  l.touched.any fun k => isContent k && keyBand k == b && keyCol k == c

/-- The tables whose frames a direct load wrote take their arm state, and the routes are checked (R272, R279). -/
def armLoaded (s : State) (l : Load) : State :=
  let ts := if l.direct then tablesIn fun b c => l.touched.any fun k => keyBand k == b && keyCol k == c else []
  routeCheck (ts.foldl armFromImage s)

/-- A region load that has passed every check (R149, R155, Table 5.3). -/
def regionLoaded (ld : Nat) (s : State) : State :=
  let l := s.loadOf ld
  let g := s.regionOf l.region
  let g1 := if l.attrs.any (fun e => e.1 == l.region) then attrRegion g (SMap.get dWord l.attrs l.region) else g
  let s1 := s.setRegion l.region { g1 with state := if l.direct then .empty else .prepared, last := loadOkStatus l }
  let s2 := if l.direct then
      let u := s1.refresh
      unisolate (gsrFabric (ramFabric u (contentAt l)) (inRegion u l.region)) l.region
    else s1
  let s3 := swapInt (armLoaded s2 l) l.region 8
  if ld < 16 then s3.emit (.wire "icp_status" ld (scode (loadOkStatus l))) else s3

/-- The settings of a PLL that runs with other settings than an image gives (R171). -/
def pllDiffers (plls : SMap Word) (p : Nat) (g : Pll) : Bool :=
  let n := pllSettings plls p g
  wb g.aCtrl 30 && (n.ctrl != g.aCtrl || n.div != g.aDiv || n.outs != g.aOuts)

/-- A whole-device load that has passed every check: group 15 is DEVICE_LOADED, unswappable where R171 found a
difference; the routes are checked, as at every load (R279). -/
def deviceLoaded (s : State) : State :=
  let l := s.loadOf mgmt
  let pllDiff := (List.range 32).any fun p => pllDiffers l.plls p (s.pllOf p)
  let regDiff := (0x10 :: (List.range 16).map (0x20 + ·)).any fun a =>
    SMap.get cfgDefault l.regs a != SMap.get cfgDefault s.cfg.regs a
  let t := s.targetOf 15
  let s1 := s.setTarget 15 { t with state := .deviceLoaded, unswap := l.diff || regDiff || pllDiff, consents := [] }
  routeCheck { s1 with
    cfg := { s1.cfg with
      staged := { regs := l.regs, ten := l.ten, wins := l.decls, attrs := l.attrs, plls := l.plls,
                  sig := (l.man.map (·.sig)).getD [], owner := (l.man.map (·.owner)).getD [],
                  slot := some (l.nv.getD (sourceOf s true ((l.man.map (·.sig)).getD []))) } } }

/-- The active boot slot of a full image that now runs (R121). -/
def bootSlotOf (s : State) (l : Load) : Option Nat :=
  match l.nv.getD (sourceOf s true ((l.man.map (·.sig)).getD [])) with
    | .slot0 => some 0
    | .slot1 => some 1
    | _ => none

/-- A full image has passed every check of its initial load: the fabric takes its content, the routes are checked (R279) and start-up
begins (R129). The status is that of the latest attempt on the slot tried, or of the latest push (Table 4.10). -/
def imageLoaded (s0 : State) : State :=
  let l := s0.loadOf mgmt
  let s := if s0.boot.devWake then wakeApply s0 ((l.man.map (·.sig)).getD []) else s0
  let s1 := s.refresh
  let s2 := routeCheck (gsrFabric (ramFabric s1 (fun _ _ => true)) (fun _ _ => true))
  let second := s2.boot.fallback && s0.boot.phase == .booting
  { s2 with boot := { s2.boot with
    imgActive := true, imgSig := (l.man.map (·.sig)).getD [], imgOwner := (l.man.map (·.owner)).getD [],
    bootSlot := bootSlotOf s l, suActive := true, suDone := false, suPhase := 0, suComp := 0, suWait := 0,
    first := if second then s2.boot.first else l.status,
    second := if second then l.status else s2.boot.second } }

/-- A load has passed every check at DESYNC. STREAM_ERR_FAR, STREAM_ERR_POS and ICP_ERR_POS then read as after a load that has met no
record: 0 and 0xFFFFFFFF (DESIGN CHOICE, log entry 74). -/
def loadOk (ld : Nat) (s0 : State) : State :=
  let l0 := s0.loadOf ld
  let s1 := s0.setLoad ld { l0 with phase := .idle, done := true, status := loadOkStatus l0, errFar := 0,
                                    errPos := 0xFFFFFFFF, errChunk := 0xFFFF, fifo := [], buf := [] }
  let r := loadReport s1 ld
  let s2 := if l0.full then (if l0.shadow then deviceLoaded r.2 else imageLoaded r.2) else regionLoaded ld r.2
  loadCpl s2 ld .ok r.1

end Sys2Proof.Machine
end

