-- ==== Sys2Proof/Machine/Stream.lean ====
section
/-! DEFINITION. The manifest and the records of an image stream (R85–R111). A load is named `ld`: 0–15 the ICP of a band,
16 the management port. A record row stands for the processing of the record at hand, with its words after decryption (DESIGN CHOICE,
log entry 10). -/
namespace Sys2Proof.Machine
open Sys2Proof

/-! ## Byte strings and keys -/

/-- ASCII bytes. -/
def ascii (s : String) : List Byte := s.toList.map fun c => BitVec.ofNat 8 c.toNat

/-- The PRF input of R98 and R99 (Table 3.7). -/
def kdfInput (n : Nat) (label ctx : List Byte) : List Byte := Crypto.beBytes 4 n ++ label ++ [0] ++ ctx ++ Crypto.beBytes 4 256

/-- The 256-bit key of two PRF iterations, output 1 followed by output 2 (R98). -/
def kdf (key : BitVec 256) (label ctx : List Byte) : BitVec 256 :=
  Crypto.aesCmac key (kdfInput 1 label ctx) ++ Crypto.aesCmac key (kdfInput 2 label ctx)

/-- The check word of a key: the first 4 bytes of AES-256 of a zero block (Table 16.1). -/
def checkWord (key : BitVec 256) : Word := wd (leNat ((Crypto.beBytes 16 (Crypto.aesBlock key 0).toNat).take 4))

/-- OTP word `i` as read at boot. -/
def State.otpWord (s : State) (i : Nat) : Word := SMap.get dWord s.lcs.boot i

/-- The device keys are programmed and match their check words. -/
def keysMatch (s : State) : Bool :=
  s.lcs.imgKey != 0 && s.lcs.kek != 0 && s.otpWord 21 == checkWord s.lcs.imgKey && s.otpWord 22 == checkWord s.lcs.kek

/-- The fused owner key hash, words 8–19 (Table 16.1). -/
def fusedHash (s : State) : List Byte := wordBytes ((List.range 12).map fun i => s.otpWord (8 + i))

/-- SHA-384 as 48 bytes. -/
def sha (bs : List Byte) : List Byte := Crypto.beBytes 48 (Crypto.sha384 bs).toNat

/-- The public key that a state accepts as signer (R464). -/
def signerOk (s : State) (pub : List Byte) : Bool :=
  match s.lcs.state with
  | 2 => true
  | 3 => sha pub == fusedHash s
  | 1 => Crypto.sha384 pub == Crypto.sha384 Config.vendorKey
  | 4 => Crypto.sha384 pub == Crypto.sha384 Config.vendorKey
  | _ => false

/-! ## Manifest (R102–R104) -/

/-- The fields of a manifest (Table 3.8). -/
def parseMan (b : List Byte) : Manifest :=
  let c := leAt b 0x00C 4
  { kind := leAt b 6 2, len := leAt b 8 4, chunks := c, fdata := leAt b 0x010 4, sigs := leAt b 0x014 4,
    crc := wd (leAt b 0x018 4), keySel := leAt b 0x01C 4, nonce := (b.drop 0x020).take 16, streamLen := leAt b 0x030 4,
    idcode := wd (leAt b 0x034 4), version := wd (leAt b 0x038 4), digest := (b.drop 0x040).take 48,
    owner := (b.drop 0x070).take 96,
    tags := if c ≤ 4096 then (List.range c).map fun i => (b.drop (0x0D0 + 16 * i)).take 16 else [],
    sig := if c ≤ 4096 then (b.drop (0x0D0 + 16 * c)).take 96 else [] }

/-- The image key that a selector names, if it is provisioned (R103 step 5). -/
def selKey (s : State) (sel : Nat) : Option (BitVec 256) :=
  if sel = 0 then (if keysMatch s then some s.lcs.imgKey else none)
  else (SMap.get dNone s.nv.pkeys (sel - 0x10)).map (·.1)

/-- Whether a selector is defined for a kind (R103 step 3). -/
def selDefined (kind sel : Nat) : Bool := if kind = 1 then sel == 0 else 0x10 ≤ sel && sel ≤ 0x15

/-- The checks of R103 in order; `region` is the region of a partial image that is being loaded. OK where all pass. -/
def manCheck (s : State) (b : List Byte) (region : Option Nat) : Status :=
  let m := parseMan b
  if leAt b 0 4 != 0xB10E5C0A || leAt b 4 2 != 1 || (m.kind != 1 && m.kind != 2) then .authFail
  else if m.chunks < 2 || 4096 < m.chunks || m.len != 0x0D0 + 16 * m.chunks + 96 || b.length < m.len then .authFail
  else if !selDefined m.kind m.keySel then .authFail
  else if (match region with | some r => m.kind == 2 && m.keySel != 0x10 + ocode (s.owner r) | none => false) then .notOwner
  else if (selKey s m.keySel).isNone then .authFail
  else if !signerOk s m.owner then .authFail
  else if !Crypto.ecdsaVerify m.owner (Crypto.sha384 (b.take (m.len - 96))) m.sig then .authFail
  else .ok

/-- The frames of a full image (R104). -/
def fullFrames : Nat := 404480

/-- The checks of a load's manifest: R103, the kind the load wants, R509 where a command gave a length, then R104. A container of the
other kind fails with AUTH_FAIL once every check of R103 has passed (DESIGN CHOICE, log entry 74). -/
def loadManCheck (s : State) (l : Load) (b : List Byte) : Status :=
  let m := parseMan b
  if l.limit.any (fun n => decide (n < m.len)) then .authFail
  else
    let st := manCheck s b (if l.full then none else some l.region)
    if st != .ok then st
    else if m.kind != (if l.full then 1 else 2) then .authFail
    else if l.full && m.fdata != fullFrames then .badParameter
    else if l.limit.any (fun n => decide (n < m.len + m.streamLen)) then .badParameter
    else .ok

/-! ## The words of a load as the device holds them -/

/-- The words of a record, its header included, as far as its first two words tell (Table 3.3, Table 3.5). -/
def recLen (ws : List Word) : Nat :=
  let h := ws.headD 0
  match wf h 31 24 with
  | 0x01 => 2
  | 0x02 => 1 + 129 * wf h 23 0
  | 0x03 => 2
  | 0x04 => 5
  | 0x05 => if ws.length < 2 then 2 else 6 + wf (nth ws 1) 31 28
  | 0x06 => 5
  | 0x07 => 2
  | 0x09 => 1 + wf h 15 8
  | 0x0A => 1 + wf h 23 0
  | _ => 1

/-- Words at the current place of a stream after decryption: inside a segment, GCM's counter mode from the word that the segment has
reached (R100). -/
def plainWords (l : Load) (ws : List Word) : List Word :=
  if l.segLeft = 0 then ws
  else
    let off := 4 * (l.lens.getD l.seg 0 - l.segLeft)
    bytesWords (Crypto.xorBytes (wordBytes ws)
      (Crypto.gcmStream l.key (l.iv.take 11 ++ [BitVec.ofNat 8 l.seg]) off (4 * ws.length)))

/-- How many words the record at hand takes, as far as those that have come tell; one that would pass its segment's end takes the rest
of the segment. -/
def recNeed (l : Load) (ws : List Word) : Nat :=
  let n := if ws.isEmpty then 1 else recLen (plainWords l (ws.take 2))
  if l.segLeft = 0 then n else min n l.segLeft

/-- The longest manifest (Table 3.8), in words. -/
def manMax : Nat := (0x0D0 + 16 * 4096 + 96) / 4

/-- The manifest words to wait for: the header, then what its offset 0x008 gives, as far as a manifest can reach. -/
def manNeed (ws : List Word) : Nat :=
  if ws.length < 4 then 4 else max 4 (min manMax (((nth ws 2).toNat + 3) / 4))

/-- The words that a load has taken from its FIFO are complete: its manifest, its sync pattern, or the record at hand. -/
def bufFull (l : Load) : Bool :=
  match l.phase with
  | .manifest => decide (manNeed l.buf ≤ l.buf.length)
  | .stream => if l.sync = 2 then decide (recNeed l l.buf ≤ l.buf.length) else decide (2 ≤ l.buf.length)
  | _ => true

/-- A word leaves the FIFO. Before the sync pattern a word that does not belong to it is ignored (R87). -/
def takeWord (l : Load) (w : Word) : Load :=
  if l.phase == .stream && l.sync != 2 then
    if l.buf == [0x0F1EE1F0] && w == 0x5A3CC3A5 then { l with buf := [0x0F1EE1F0, w] }
    else if w == 0x0F1EE1F0 then { l with buf := [w], skip := l.skip + l.buf.length }
    else { l with buf := [], skip := l.skip + l.buf.length + 1 }
  else { l with buf := l.buf ++ [w] }

/-- Words leave the FIFO until those at hand are complete (R124, R153). -/
def refill : Nat → Load → Load
  | 0, l => l
  | n + 1, l =>
    if bufFull l then l
    else match l.fifo with
      | [] => l
      | w :: ws => refill n (takeWord { l with fifo := ws } w)

/-- The length of the container of a load whose manifest was accepted. -/
def containerLen (l : Load) : Option Nat := l.man.map fun m => m.len + m.streamLen

/-- Every word of the container has come and those at hand are not complete: the stream has ended too early (R89). -/
def starved (l : Load) : Bool :=
  l.phase == .stream && l.fifo.isEmpty && !bufFull l && (containerLen l).any fun n => decide (n ≤ l.bytesIn)

/-- A load through a port takes what its FIFO holds; a stream that ends, or reaches its length, without its sync pattern or in the
middle of a record stops it (R89). -/
def settle (ld : Nat) (s : State) : State :=
  let l := s.loadOf ld
  if l.port && (l.phase == .manifest || l.phase == .stream) then
    let l1 := refill (l.fifo.length + 1) l
    let s1 := s.setLoad ld l1
    if starved l1 || (l1.phase == .stream && l1.sync != 2 && (l1.man.getD (parseMan [])).streamLen ≤ 4 * l1.skip) then
      loadFail ld .badParameter s1
    else s1
  else s

/-- `n` words of a container in NV from the place that its load has reached; none for a load from elsewhere. -/
def nvWords (s : State) (l : Load) (n : Nat) : Option (List Word) :=
  match l.nv with
  | some .slot0 => some (bytesWords (slotRead s 0 l.rdG l.rdX (4 * n)))
  | some .slot1 => some (bytesWords (slotRead s 1 l.rdG l.rdX (4 * n)))
  | some (.library u) => some (bytesWords (nvRead s (unitAddr u l.rdX) (4 * n)))
  | _ => none

/-- A record, given by its plaintext words, is the one at hand. A load through a port has it from its FIFO, one from NV reads it there.
What a load reads at a NoC address is not held by the device: the row brings it. -/
def recAt (s : State) (l : Load) (ws : List Word) : Bool :=
  let whole (held : List Word) : Bool :=
    let n := recNeed l held
    ws.length == recLen ws && plainWords l (held.take n) == ws.take n && decide (n ≤ held.length)
  if l.port then whole l.buf
  else match nvWords s l (max 2 ws.length) with
    | some held => whole held
    | none => true

/-- The bytes of the manifest at hand, none while it has not come whole. -/
def manAt (s : State) (l : Load) (b : List Byte) : Option (List Byte) :=
  if l.port then (if bufFull l then some (wordBytes l.buf) else none)
  else
    let head := match nvWords s l 4 with | some ws => wordBytes ws | none => []
    match nvWords s l (min manMax ((leAt head 8 4 + 3) / 4)) with
    | some ws => some (wordBytes ws)
    | none => some b

/-- MANIFEST_VERIFY (R103): a complete manifest is verified; CFG_ERR_N is released when it is accepted (R134). -/
def manifestVerify (ld : Nat) (b0 : List Byte) (s : State) : State :=
  let l := s.loadOf ld
  if l.phase != .manifest then s
  else match manAt s l b0 with
    | none => s
    | some b =>
      let st := loadManCheck s l b
      let m := parseMan b
      if st = .ok then
        let s1 := s.setLoad ld { l with
          phase := .stream, man := some m, manBytes := b.take m.len, buf := [], rdX := l.rdX + m.len }
        settle ld (if s.boot.cfgErr then
          ({ s1 with boot := { s1.boot with cfgErr := false } }).emit (.pin "CFG_ERR_N" true) else s1)
      else loadFail ld st s

/-- MANIFEST_VERIFY. -/
def execManifestVerify (ld : Nat) (bytes : List Byte) (s : State) : Host.Outcome State Fault Refusal :=
  done (manifestVerify ld bytes) s

/-- The words of a list before the sync pattern, none where it does not stand there (R87). -/
def beforeSync : List Word → Option Nat
  | a :: b :: ws => if a == 0x0F1EE1F0 && b == 0x5A3CC3A5 then some 0 else (beforeSync (b :: ws)).map (· + 1)
  | _ => none

/-- The words ignored before the sync pattern, none where the stream reaches its length without it. `ignored` are those that a load
from a NoC address read there, and the pattern does not stand among them. -/
def syncAt (s : State) (l : Load) (ignored : List Word) : Option Nat :=
  let n := (l.man.getD (parseMan [])).streamLen / 4
  if l.port then some l.skip
  else match nvWords s l n with
    | some ws => beforeSync ws
    | none => if n < ignored.length + 2 then none else some ignored.length

/-- STREAM_SYNC (R87): the sync pattern has come and records follow; offsets count from its first word. A stream without it stops
(R89). A load that then ends before any record header reports word offset 0 (R110; DESIGN CHOICE, log entry 74). -/
def streamSync (ld : Nat) (ignored : List Word) (s : State) : State :=
  let l := s.loadOf ld
  if l.phase != .stream || l.sync = 2 || (l.port && !bufFull l) || (beforeSync ignored).isSome then s
  else match syncAt s l ignored with
    | some n => settle ld (s.setLoad ld { l with
        sync := 2, skip := n, pos := 2, recPos := 0, buf := [], rdX := l.rdX + 4 * (n + 2) })
    | none => loadFail ld .badParameter s

/-- STREAM_SYNC. -/
def execStreamSync (ld : Nat) (ignored : List Word) (s : State) : Host.Outcome State Fault Refusal :=
  done (streamSync ld ignored) s

/-! ## Records -/

/-- The manifest of a load in progress. -/
def Load.m (l : Load) : Manifest := l.man.getD (parseMan [])

/-- Bytes of the stream processed: the words ignored, the pattern and the records. -/
def Load.bytesAt (l : Load) : Nat := 4 * (l.skip + l.pos)

/-- The record at hand, header and following words, is processed: nothing before the sync or outside a load; a record that would
pass the stream length stops the load (R89). The words of the next one then leave the FIFO. -/
def takeRec (ld : Nat) (ws : List Word) (f : Load → State → State) (s : State) : State :=
  let l := s.loadOf ld
  if l.phase != .stream || l.sync != 2 || !recAt s l ws then s
  else
    let l1 := { l with recPos := l.pos, pos := l.pos + ws.length, buf := [], rdX := l.rdX + 4 * ws.length }
    let s1 := s.setLoad ld l1
    settle ld (if l.m.streamLen < l1.bytesAt then loadFail ld .badParameter s1 else f l1 s1)

/-- The stream has reached its manifest length before DESYNC (R89). -/
def lengthEnd (ld : Nat) (s : State) : State :=
  let p := (s.loadOf ld).phase
  if p == .stream || p == .wait1us then loadFail ld .badParameter s else s

/-- A record other than DESYNC, which must leave a word of the stream for DESYNC. -/
def withRec (ld : Nat) (ws : List Word) (f : Load → State → State) : State → State :=
  takeRec ld ws fun l s => if l.m.streamLen ≤ l.bytesAt then lengthEnd ld (f l s) else f l s

/-- A record of the outer stream (Table 3.4): inside plaintext it stops the load with `inside`; where a ROLL is due it
is missing (R97). -/
def outerRec (ld : Nat) (ws : List Word) (inside : Status) (f : Load → State → State) (s : State) : State :=
  withRec ld ws (fun l s =>
    if 0 < l.segLeft then loadFail ld inside s
    else if l.rollDue then loadFail ld .keyRollFail s
    else f l s) s

/-- A record of a segment's plaintext: in the control chunk or in frame chunks (Table 3.4), within the segment (R89). -/
def plainRec (ld : Nat) (hdr : Word) (body : List Word) (control : Bool) (f : Load → State → State) (s : State) : State :=
  withRec ld (hdr :: body) (fun l s =>
    if l.segLeft = 0 then loadFail ld (if l.rollDue then .keyRollFail else .badParameter) s
    else if (l.chunk == some 0) != control then loadFail ld .badParameter s
    else if l.segLeft < 1 + body.length then loadFail ld .badParameter s
    else
      let l1 := { l with segLeft := l.segLeft - (1 + body.length), plain := l.plain ++ wordBytes (hdr :: body) }
      f l1 (s.setLoad ld l1)) s

/-- A record header. -/
def header (type arg : Nat) : Word := wd (type * 0x1000000 + arg % 0x1000000)

/-- The types of Table 3.3. -/
def recordTypes : List Nat := [0x00, 0x01, 0x02, 0x03, 0x04, 0x05, 0x06, 0x07, 0x08, 0x09, 0x0A, 0x0F]

/-- NOP (R88): skipped in every place; a header of a type not listed stops the load. A header of another listed type is
not this record. -/
def nop (ld : Nat) (hdr : Word) (s : State) : State :=
  if wf hdr 31 24 = 0 || !recordTypes.contains (wf hdr 31 24) then
    withRec ld [hdr] (fun l s =>
      if wf hdr 31 24 != 0 then loadFail ld .badParameter s
      else if 0 < l.segLeft then
        s.setLoad ld { l with segLeft := l.segLeft - 1, plain := l.plain ++ leBytes 4 hdr.toNat }
      else s) s
  else s

/-- NOP. -/
def execNop (ld : Nat) (hdr : Word) (s : State) : Host.Outcome State Fault Refusal := done (nop ld hdr) s

/-- Notes the clamps of a value (R109). -/
def noteClamps (l : Load) (addr : Nat) (cs : List FieldClamp) : List Clamp :=
  l.clamps ++ cs.map fun c => { src := 3, fid := addr * 32 + c.1, req := wd c.2.1, app := wd c.2.2, pos := l.recPos }

/-- Records a checked value among those the control chunk sets (R106). -/
def recordReg (l : Load) (addr : Nat) (v : Word) : Load :=
  match addr with
  | 0x0008 => { l with pllSel := wf v 4 0, regs := SMap.set cfgDefault l.regs addr v }
  | 0x0009 => { l with plls := SMap.put l.plls (16 * l.pllSel) v, regs := SMap.set cfgDefault l.regs addr v }
  | 0x000A => { l with plls := SMap.put l.plls (16 * l.pllSel + 1) v, regs := SMap.set cfgDefault l.regs addr v }
  | 0x000B => { l with plls := SMap.put l.plls (16 * l.pllSel + 2 + wf v 2 0) v, regs := SMap.set cfgDefault l.regs addr v }
  | 0x000E => { l with regs := SMap.set cfgDefault l.regs (0x10000 + wf v 27 24) (v &&& 0xFFFFFF) }
  | 0x0030 => { l with ten := SMap.set dOwner l.ten ((tenResource (wf v 31 28) (wf v 15 8)).getD 0) (ownerOf (wf v 2 0)) }
  | 0x0031 => { l with attrs := SMap.put l.attrs (wf v 31 24) v, attrPos := SMap.put l.attrPos (wf v 31 24) l.recPos }
  | _ => { l with regs := SMap.set cfgDefault l.regs addr v }

/-- A value written to a configuration register by a record (R106, R107). -/
def putReg (ld addr : Nat) (w : Word) (l : Load) (s : State) : State :=
  match checkReg l.m.idcode (if l.full then none else some l.region) addr w with
  | none => loadFail ld .badParameter s
  | some (v, cs) => s.setLoad ld { recordReg l addr v with clamps := noteClamps l addr cs }

/-- SETREG (R106). -/
def setreg (ld arg : Nat) (w : Word) (s : State) : State :=
  plainRec ld (header 3 arg) [w] true (fun l s =>
    if bf arg 23 16 != 0 then loadFail ld .badParameter s else putReg ld (bf arg 15 0) w l s) s

/-- SETREG. -/
def execSetreg (ld arg : Nat) (w : Word) (s : State) : Host.Outcome State Fault Refusal := done (setreg ld arg w) s

/-- STARTUP (R93). -/
def startup (ld arg : Nat) (s : State) : State :=
  plainRec ld (header 8 arg) [] true (fun l s =>
    if l.full then putReg ld 0x0002 (wd (arg % 0x1000000)) l s else loadFail ld .badParameter s) s

/-- STARTUP. -/
def execStartup (ld arg : Nat) (s : State) : Host.Outcome State Fault Refusal := done (startup ld arg) s

/-- Whether the rectangles of a declaration are legal and clear of other regions' (R94, R140, R141). -/
def rectsOk (others : List (List Word)) (ws : List Word) : Bool :=
  ws.all (fun w => wf w 23 20 == 0 && wf w 27 24 ≤ wf w 31 28 && wf w 9 0 ≤ wf w 19 10 && rectLegal w) &&
    !(ws.any fun w => others.any fun o => o.any fun x => rectsMeet w x)

/-- The windows that soft regions other than one hold. -/
def otherWindows (s : State) (r : Nat) : List (List Word) :=
  (s.cfg.regions.filter fun e => e.1 != r && e.1 < 128).map fun e => e.2.window

/-- REGION (R141): a full image declares each window once; a partial image names its own region, once, and a window that
stands already must be identical. -/
def region (ld arg : Nat) (body : List Word) (s : State) : State :=
  plainRec ld (header 9 arg) body true (fun l s =>
    let r := bf arg 7 0
    let others := if l.full then l.decls.map (·.2) else otherWindows s r
    if bf arg 23 16 != 0 || bf arg 15 8 < 1 || 4 < bf arg 15 8 || 127 < r || body.length != bf arg 15 8 then
      loadFail ld .badParameter s
    else if l.decls.any (fun e => e.1 == r) || (!l.full && r != l.region) then loadFail ld .badParameter s
    else if !l.full && !(s.regionOf r).window.isEmpty then
      (if (s.regionOf r).window == body then s.setLoad ld { l with decls := SMap.put l.decls r body }
       else loadFail ld .badParameter s)
    else if !rectsOk others body then loadFail ld .badParameter s
    else s.setLoad ld { l with decls := SMap.put l.decls r body, declPos := l.recPos }) s

/-- REGION. -/
def execRegion (ld arg : Nat) (body : List Word) (s : State) : Host.Outcome State Fault Refusal :=
  done (region ld arg body) s

/-- A slot's index passes its CRC (R386). -/
def indexOk (s : State) (slot : Nat) : Bool :=
  let ix := SMap.get dWords s.nv.index slot
  ix.length == 4096 && nth ix 0 == crc32c (wordBytes (ix.drop 1))

/-- The first frame chunk begins: the region's shadow set is cleared (R138). -/
def beginFrames (ld : Nat) (s : State) : State :=
  let l := s.loadOf ld
  if l.began then s
  else
    let s1 := s.setLoad ld { l with began := true }
    if l.full then s1 else s1.setRegion l.region { s1.regionOf l.region with shadow := [] }

/-- The shadow set of the load's region. -/
def loadShadow (s : State) (l : Load) : List Nat := if l.full then [] else (s.regionOf l.region).shadow

/-- CHUNK (R95): index in order, counts in range, IV base; the key of segment 0 (R98). A CHUNK record that fails reports the index of its
own header as the chunk (R110; DESIGN CHOICE, log entry 74). -/
def chunk (ld arg : Nat) (body : List Word) (s : State) : State :=
  outerRec ld (header 5 arg :: body) .badParameter (fun l s =>
    let next := match l.chunk with | none => 0 | some c => c + 1
    let w1 := nth body 0
    let iv := wordBytes ((body.drop 1).take 3)
    let lens := (body.drop 4).map BitVec.toNat
    if l.segOpen || l.checked then loadFail ld .badParameter s
    else
      let l0 := { l with chunk := some arg, segOpen := true }
      let s0 := s.setLoad ld l0
      if arg != next || l.m.chunks ≤ arg || wf w1 27 13 != 0 || body.length != 4 + (wf w1 31 28 + 1) ||
          (if arg = 0 then wf w1 12 0 != 0 else (wf w1 12 0 < 1 || 4096 < wf w1 12 0)) then loadFail ld .badParameter s0
      else if iv.take 4 != Crypto.beBytes 4 arg || iv.drop 11 != [0] then loadFail ld .authFail s0
      else
        let s1 := if arg = 1 then beginFrames ld s0 else s0
        let bad := arg == 1 && (match l.nv with
          | some .slot0 => !indexOk s 0
          | some .slot1 => !indexOk s 1
          | _ => false)
        let l1 := s1.loadOf ld
        let l2 := { l1 with
          seg := 0, lens := lens, declared := wf w1 12 0, inChunk := 0, inSeg := 0, iv := iv, far := none,
          segLeft := lens.headD 0, tagDue := true, rollDue := false, plain := [], prevTag := [],
          aad := wordBytes (header 5 arg :: body), undo := [], undoSh := loadShadow s1 l1, undoN := l1.written,
          key := kdf ((selKey s l.m.keySel).getD 0) (ascii "BRLC-CHUNK") (l.m.nonce ++ Crypto.beBytes 4 arg) }
        if bad then loadFail ld .crcFail s1 else s1.setLoad ld l2) s

/-- CHUNK. -/
def execChunk (ld arg : Nat) (body : List Word) (s : State) : Host.Outcome State Fault Refusal := done (chunk ld arg body) s

/-- ROLL (R97, R99): only where one is due. -/
def roll (ld arg : Nat) (body : List Word) (s : State) : State :=
  withRec ld (header 4 arg :: body) (fun l s =>
    if 0 < l.segLeft || !l.rollDue then loadFail ld .keyRollFail s
    else if arg != 0 || body.length != 4 then loadFail ld .badParameter s
    else
      let left := l.lens.getD l.seg 0
      s.setLoad ld { l with
        rollDue := false, tagDue := true, segLeft := left, plain := [], inSeg := 0,
        aad := wordBytes (header 4 arg :: body) ++ l.prevTag,
        undo := [], undoSh := loadShadow s l, undoN := l.written,
        key := kdf l.key (ascii "BRLC-ROLL") (wordBytes body ++ Crypto.beBytes 4 (l.chunk.getD 0) ++ [BitVec.ofNat 8 l.seg]) }) s

/-- ROLL. -/
def execRoll (ld arg : Nat) (body : List Word) (s : State) : Host.Outcome State Fault Refusal := done (roll ld arg body) s

/-- A segment whose tag does not verify leaves none of its frames written (Table 3.14); a reload that their writing cancelled stays
cancelled (R183). -/
def undoSegment (ld : Nat) (s : State) : State :=
  let l := s.loadOf ld
  let s0 := l.undo.foldl (fun u e => u.setFrame e.1 e.2) s
  let s1 := if l.shadow then s0 else s0.refresh
  let s2 := if l.full || l.undo.isEmpty then s1
    else s1.setRegion l.region { s1.regionOf l.region with shadow := l.undoSh }
  s2.setLoad ld { l with undo := [], written := l.undoN }

/-- The SETREG of a REGION_ATTR whose regional swap clock the region's window does not permit (R64, Table 3.12): the
offset of the first such record. -/
def badClock (s : State) (l : Load) : Option Nat :=
  let bad := l.attrs.filter fun e =>
    let ws := if 128 ≤ e.1 then [sealRect (e.1 - 128)]
      else if l.full then SMap.get dWords l.decls e.1
      else if (s.regionOf e.1).window.isEmpty then SMap.get dWords l.decls e.1 else (s.regionOf e.1).window
    0x40 ≤ wf e.2 18 12 && (rectBands ws).length != 1
  (bad.map fun e => SMap.get dNat l.attrPos e.1).min?

/-- The 312-byte tenancy table (R105). -/
def tenTable (t : SMap Owner) : List Byte :=
  (List.range 312).map fun i => BitVec.ofNat 8 (ocode (SMap.get dOwner t i))

/-- The control chunk has ended: the digest is checked and the settings take effect (R105, R107, R141); a direct load
isolates its region (R155), unless a slice still runs there (R441). A declaration takes effect here, so that it is held against the
windows as they now stand: another load may have declared one since its record (R140). -/
def controlEnd (ld : Nat) (s : State) : State :=
  let l := s.loadOf ld
  match badClock s l with
  | some pos => loadFail ld .badParameter (s.setLoad ld { l with recPos := pos })
  | none =>
    if l.full then
      if sha (tenTable l.ten) != l.m.digest then loadFail ld .authFail s
      else if l.shadow then s
      else applyImage s l.regs l.ten l.decls l.attrs l.plls (fun _ => false) false
    else
      let g := s.regionOf l.region
      let mine := SMap.get dWords l.decls l.region
      let fresh := l.region < 128 && g.window.isEmpty && !mine.isEmpty
      if fresh && !rectsOk (otherWindows s l.region) mine then
        loadFail ld .badParameter (s.setLoad ld { l with recPos := l.declPos })
      else
      let s1 := if fresh then s.setRegion l.region { g with window := mine } else s
      let s2 := if l.regs.any (fun e => e.1 == 1) then
          { s1 with cfg := { s1.cfg with regs := SMap.set cfgDefault s1.cfg.regs 1 (SMap.get cfgDefault l.regs 1) } } else s1
      if l.direct then
        let s3 := s2.setLoad ld { s2.loadOf ld with phase := .wait1us }
        if sliceIn s3 l.region then s3 else (isolate s3 l.region).setLoad ld { s3.loadOf ld with began := true }
      else s2

/-- Where a load from a slot reads on when a chunk has ended: the next chunk's place by the index, and the outer stream in area 0 after
the last (R385, R386). -/
def chunkPlace (s : State) (l : Load) : Load :=
  let slot := match l.nv with | some .slot0 => some 0 | some .slot1 => some 1 | _ => none
  match slot with
  | none => l
  | some n =>
    let c := l.chunk.getD 0
    let out := if c = 0 then l.rdX else l.outX
    let w := nth (SMap.get dWords s.nv.index n) (c + 1)
    if c + 1 < l.m.chunks then { l with outX := out, rdG := wf w 31 28, rdX := wf w 23 0 }
    else { l with outX := out, rdG := 0, rdX := out }

/-- TAG (R100): the tag of the segment, and for the last one the manifest's entry (DEDUCED, log entry 51). -/
def tag (ld arg : Nat) (body : List Word) (s : State) : State :=
  outerRec ld (header 6 arg :: body) .badParameter (fun l s =>
    let bytes := wordBytes body
    let iv := l.iv.take 11 ++ [BitVec.ofNat 8 l.seg]
    let last := l.seg + 1 == l.lens.length
    if !l.tagDue || arg != l.seg || body.length != 4 then loadFail ld .badParameter s
    else if bytes != Crypto.beBytes 16 (Crypto.gcmTag l.key iv l.aad l.plain).toNat then loadFail ld .authFail (undoSegment ld s)
    else if last && bytes != l.m.tags.getD (l.chunk.getD 0) [] then loadFail ld .authFail (undoSegment ld s)
    else if !last then
      s.setLoad ld { l with tagDue := false, rollDue := true, seg := l.seg + 1, prevTag := bytes, undo := [] }
    else if l.inChunk != l.declared then loadFail ld .badParameter s
    else
      let s1 := s.setLoad ld (chunkPlace s { l with tagDue := false, undo := [], segOpen := l.chunk == some 0 })
      if l.chunk == some 0 then
        let s2 := controlEnd ld s1
        s2.setLoad ld { s2.loadOf ld with segOpen := false }
      else s1) s

/-- TAG. -/
def execTag (ld arg : Nat) (body : List Word) (s : State) : Host.Outcome State Fault Refusal := done (tag ld arg body) s

/-- FAR (R90): sets the current frame address, which must name a frame (R82). A partial image for a region without a window stops here
(R141). -/
def far (ld arg : Nat) (w : Word) (s : State) : State :=
  plainRec ld (header 1 arg) [w] false (fun l s =>
    if arg != 0 then loadFail ld .badParameter s
    else if !l.full && (s.rects l.region).isEmpty then loadFail ld .badParameter s
    else if !farValid w then loadFail ld .badFrameAddress s
    else s.setLoad ld { l with far := some w.toNat, farNow := some w.toNat }) s

/-- FAR. -/
def execFar (ld arg : Nat) (w : Word) (s : State) : Host.Outcome State Fault Refusal := done (far ld arg w) s

/-- The address after a frame's (R83); past the last minor of column 558 it names column 559, which is no frame. -/
def nextAddr (w : Word) : Nat :=
  match nextFrame (w.toNat / 256) with
  | some k => k * 256
  | none => frameKey (wf w 29 26) 559 0 * 256

/-- Why a frame at the current address may not be written, if it may not (R82, R101, R147): its address, its band's lane
in a full image, a frame written twice, a frame outside the window. -/
def addrCheck (s : State) (l : Load) (w : Word) : Status :=
  let key := w.toNat / 256
  if !farValid w then .badFrameAddress
  else if l.full && keyBand key != (l.chunk.getD 1 - 1) % 64 / 4 then .badFrameAddress
  else if l.full && l.touched.contains key then .badFrameAddress
  else if !l.full && !inRects (s.rects l.region) (keyBand key) (keyCol key) then .outOfRegion
  else .ok

/-- A frame joins a shadow set, kept ascending. -/
def joinSet : List Nat → Nat → List Nat
  | [], k => [k]
  | x :: xs, k => if k < x then k :: x :: xs else if k = x then x :: xs else x :: joinSet xs k

/-- The columns that a whole-device image must not change (R171). -/
def fixedCol (c : Nat) : Bool := c == 0 || c == 1 || c == 2 || c == 279 || c == 556 || c == 557 || c == 558

/-- A frame as a tag mismatch restores it: the reload that the load cancelled stays cancelled (R183). -/
def restorable (f : Frame) (key : Nat) (active : Bool) : Frame :=
  let p := planeOf f key active
  if p.pend then putPlane f key active { p with pend := false } else f

/-- The load after a frame: the address advances, and the frame as it stood can be restored. -/
def passFrame (l : Load) (key : Nat) (w : Word) (old : Frame) (wrote : Bool) : Load :=
  { l with far := some (nextAddr w), farNow := some (nextAddr w), touched := key :: l.touched,
           written := if wrote then l.written + 1 else l.written,
           undo := if l.undo.any (fun e => e.1 == key) then l.undo else l.undo ++ [(key, old)] }

/-- Writes a frame of a load to its plane; a content frame of a whole-device load is checked and discarded (R171). A frame of the
active plane is live as it arrives (R111). -/
def storeFrame (ld key : Nat) (w : Word) (p : Plane) (l : Load) (s : State) : State :=
  let old := s.frameOf key
  let drop := l.whole && isContent key
  let diff := l.diff || (l.whole && fixedCol (keyCol key) && p.sig != old.active.sig)
  let s1 := if drop then s else writePlane s key (!l.shadow) p
  let s2 := if l.shadow then
      (if l.full then s1
       else s1.setRegion l.region { s1.regionOf l.region with shadow := joinSet (s1.regionOf l.region).shadow key })
    else s1.refresh
  s2.setLoad ld { passFrame l key w (restorable old key (!l.shadow)) (!drop) with diff := diff }

/-- The recorded source of a load's frames (R184). -/
def loadSource (s : State) (l : Load) : Source := l.nv.getD (sourceOf s l.full l.m.sig)

/-- The plane that a frame of an FDATA record leaves: freshly generated check bits, the CRC as its golden signature except of a
content frame (R76, R85), and where it came from (R184). -/
def fdataPlane (s : State) (l : Load) (key : Nat) (ws : List Word) (crc : Word) : Plane :=
  { payload := packWords ws, sig := if isContent key then zeroCrc else crc, src := loadSource s l, chunk := l.chunk.getD 0,
    seg := l.seg, fdFirst := l.fdFirst, fdCount := l.fdCount, man := l.manBytes }

/-- The frames of an FDATA record in order, stopping at the first that fails (R85). -/
def fdataFrames (ld : Nat) : List (List Word) → State → State
  | [], s => s
  | fr :: rest, s =>
    let l := s.loadOf ld
    let w := wd (l.far.getD 0)
    let ws := fr.take 128
    let st := addrCheck s l w
    if st != .ok then loadFail ld st s
    else if isContent (w.toNat / 256) && !l.full && !l.direct then loadFail ld .badParameter s
    else if nth fr 128 != crc32c (wordBytes ws) then loadFail ld .crcFail s
    else
      fdataFrames ld rest (storeFrame ld (w.toNat / 256) w (fdataPlane s l (w.toNat / 256) ws (nth fr 128))
        { l with crc := crcRun polyC l.crc (wordBytes ws) } s)

/-- Groups of `n` words. -/
def groups (n : Nat) : Nat → List Word → List (List Word)
  | 0, _ => []
  | k + 1, ws => ws.take n :: groups n k (ws.drop n)

/-- FDATA (R85, R90, R97): the segment limit is checked first, then the segment's end, then each frame. -/
def fdata (ld arg : Nat) (body : List Word) (s : State) : State :=
  withRec ld (header 2 arg :: body) (fun l s =>
    if l.segLeft = 0 then loadFail ld (if l.rollDue then .keyRollFail else .badParameter) s
    else if l.chunk == some 0 then loadFail ld .badParameter s
    else if 1024 < l.inSeg + arg then loadFail ld .keyRollFail s
    else if arg = 0 || body.length != 129 * arg || l.segLeft < 1 + body.length then loadFail ld .badParameter s
    else if l.far.isNone then loadFail ld .badFrameAddress s
    else
      fdataFrames ld (groups 129 arg body) (s.setLoad ld { l with
        segLeft := l.segLeft - (1 + body.length), plain := l.plain ++ wordBytes (header 2 arg :: body),
        inSeg := l.inSeg + arg, inChunk := l.inChunk + arg, fdataN := l.fdataN + arg,
        fdFirst := l.far.getD 0, fdCount := arg })) s

/-- FDATA. -/
def execFdata (ld arg : Nat) (body : List Word) (s : State) : Host.Outcome State Fault Refusal := done (fdata ld arg body) s

/-- The copy that SIGS makes of an active plane: the decoded payload with fresh check bits, and its origin (R91, R184). -/
def sigsPlane (p : Plane) : Plane :=
  { p with payload := packWords (planeRead p), flips := [], uncorr := false, pend := false }

/-- The frames of a SIGS record in order (R91); the active frame is read and decoded by its band port (R507). -/
def sigsFrames (ld : Nat) : List Word → State → State
  | [], s => s
  | sig :: rest, s =>
    let l := s.loadOf ld
    let w := wd (l.far.getD 0)
    let key := w.toNat / 256
    let p := (s.frameOf key).active
    let st := addrCheck s l w
    if st != .ok then loadFail ld st s
    else if isContent key || sig != p.sig then loadFail ld .badParameter s
    else if planeBad p || crc32c (wordBytes (planeRead p)) != p.sig then loadFail ld .crcFail s
    else sigsFrames ld rest (storeFrame ld key w (sigsPlane p) l s)

/-- SIGS (R91): unchanged active frames are copied into the shadow plane. -/
def sigs (ld arg : Nat) (body : List Word) (s : State) : State :=
  plainRec ld (header 10 arg) body false (fun l s =>
    if arg < 1 || 1024 < arg || body.length != arg then loadFail ld .badParameter s
    else if !l.shadow then loadFail ld .badParameter s
    else if l.far.isNone then loadFail ld .badFrameAddress s
    else sigsFrames ld body (s.setLoad ld { l with sigsN := l.sigsN + arg })) s

/-- SIGS. -/
def execSigs (ld arg : Nat) (body : List Word) (s : State) : Host.Outcome State Fault Refusal := done (sigs ld arg body) s

/-- CHECK (R92): after the last chunk, the frame counts and the whole-stream CRC. -/
def check (ld arg : Nat) (w : Word) (s : State) : State :=
  outerRec ld [header 7 arg, w] .badParameter (fun l s =>
    let crc := wd (l.crc ^^^ 0xFFFFFFFF)
    if l.tagDue || l.checked || l.chunk != some (l.m.chunks - 1) || arg != 0 || l.fdataN != l.m.fdata || l.sigsN != l.m.sigs then
      loadFail ld .badParameter s
    else if w != crc || crc != l.m.crc then loadFail ld .crcFail s
    else s.setLoad ld { l with checked := true }) s

/-- CHECK. -/
def execCheck (ld arg : Nat) (w : Word) (s : State) : Host.Outcome State Fault Refusal := done (check ld arg w) s

/-- DESYNC (R111): the last word of the stream; every check of the load has passed (DEDUCED, log entry 51). -/
def desync (ld arg : Nat) (s : State) : State :=
  takeRec ld [header 15 arg] (fun l s =>
    if 0 < l.segLeft then loadFail ld .badParameter s
    else if l.rollDue then loadFail ld .keyRollFail s
    else if l.tagDue || !l.checked || arg != 0 || l.bytesAt != l.m.streamLen then loadFail ld .badParameter s
    else loadOk ld s) s

/-- DESYNC. -/
def execDesync (ld arg : Nat) (s : State) : Host.Outcome State Fault Refusal := done (desync ld arg) s

/-- DIRECT_LOAD_WAIT (R155): 1 µs after the isolation the frame chunks are written. A load that found a slice running in
its region isolates it once the slice has ended (R441), and waits again. -/
def directLoadWait (ld : Nat) (s : State) : State :=
  let l := s.loadOf ld
  if l.phase != .wait1us then s
  else if l.began then settle ld (s.setLoad ld { l with phase := .stream })
  else if sliceIn s l.region then s
  else (isolate s l.region).setLoad ld { l with began := true }

/-- DIRECT_LOAD_WAIT. -/
def execDirectLoadWait (ld : Nat) (s : State) : Host.Outcome State Fault Refusal := done (directLoadWait ld) s

end Sys2Proof.Machine
end

