-- ==== Sys2Proof/Machine/Loading.lean ====
section
/-! DEFINITION. How a container reaches a load: the ICPs (R151–R154), the supervisor ports (R122–R127), LOAD_IMAGE,
LOAD_PARTIAL (R127, R146–R148, R366, R367, R509), and the readback of a region (R370). -/
namespace Sys2Proof.Machine
open Sys2Proof

/-- A load waits while its manifest is verified: the whole manifest has arrived, by its offset 0x008 (R124, R153). -/
def verifying (l : Load) : Bool := l.phase == .manifest && l.port && bufFull l

/-- CFG answers new loads of a region with a frame in a band whose entry it has accepted with BUSY (R418). -/
def loadHeld (s : State) (r : Nat) : Bool := (rectBands (s.rects r)).any (holdsVote s 3)

/-! ## Internal configuration ports -/

/-- icp_ready (R151, R153, R154). -/
def icpReady (s : State) (icp : Nat) : Bool :=
  let l := s.loadOf icp
  s.boot.done && (s.bandOf icp).state == .on && (l.phase == .drain || (l.fifo.length < fifoWords && !verifying l))

/-- A region load is accepted: the region reads LOADING (R148). A load into an ISOLATED region is direct. -/
def startRegion (s : State) (ld r : Nat) (l : Load) : State :=
  let g := s.regionOf r
  let direct := l.direct || g.state == .isolated
  (newLoad s ld { l with
    phase := .manifest, used := true, region := r, full := false, direct := direct, shadow := !direct, prev := g.state }).setRegion r
    { g with state := .loading }

/-- The four words of a beat, first byte lowest (Table 5.4). -/
def beatWords (d : BitVec 128) : List Word :=
  [d.extractLsb' 0 32, d.extractLsb' 32 32, d.extractLsb' 64 32, d.extractLsb' 96 32]

/-- An ICP goes back to waiting for a container once the beat with icp_eop has passed (R154). -/
def icpEop (s : State) (icp : Nat) (eop : Bool) : State :=
  let l := s.loadOf icp
  if eop && l.phase == .drain then s.setLoad icp { l with phase := .idle } else s

/-- A beat of a load in progress enters the FIFO; bytes after the container's end are ignored (R152). -/
def icpTake (s : State) (icp : Nat) (d : BitVec 128) (eop : Bool) : State :=
  let l := s.loadOf icp
  let past := (containerLen l).any fun n => decide (n ≤ l.bytesIn)
  let l1 := if past then l else { l with fifo := l.fifo ++ beatWords d, bytesIn := l.bytesIn + 16 }
  let s1 := s.setLoad icp l1
  if eop && !(containerLen l1).any (fun n => decide (n ≤ l1.bytesIn)) then icpEop (loadFail icp .badParameter s1) icp true
  else icpEop (settle icp s1) icp eop

/-- ICP_BEAT (R152): a beat is transferred while icp_ready is high. -/
def icpBeat (icp : Nat) (d : BitVec 128) (sop eop : Bool) (region : Nat) (s : State) : State :=
  let l := s.loadOf icp
  if 15 < icp || !icpReady s icp then s
  else
   let s := { s with noc := { s.noc with busyAt := SMap.set dNat s.noc.busyAt icp s.uptime } }
   match l.phase with
    | .drain => icpEop s icp eop
    | .idle =>
      if !sop then s
      else
        let r := region % 128
        let l0 : Load := { direct := 128 ≤ region % 256, region := r, used := true, source := 5, port := true }
        if mayLoad s r && !loadHeld s r then icpTake (startRegion s icp r l0) icp d eop
        else icpEop (loadRefuse icp .busy (s.setLoad icp l0)) icp eop
    | _ => if sop then icpEop (loadFail icp .badParameter s) icp eop else icpTake s icp d eop

/-- ICP_BEAT. -/
def execIcpBeat (icp : Nat) (data : BitVec 128) (sop eop : Bool) (region : Nat) (s : State) :
    Host.Outcome State Fault Refusal := done (icpBeat icp data sop eop region) s

/-! ## Supervisor ports -/

/-- The life-cycle state permits full images (Table 16.6). -/
def lcImages (s : State) : Bool := 1 ≤ s.lcs.state && s.lcs.state ≤ 4

/-- The load in progress takes its words from a supervisor port, 1 serial or 2 parallel: LOAD_IMAGE issued by HS from the serial one,
else the one that CFG_MODE names (R126). -/
def takesFrom (s : State) (mode : Nat) : Bool :=
  let l := s.loadOf mgmt
  l.phase != .idle && l.sup && (if l.cmd.isSome then mode == 1 else s.boot.cfgMode == mode)

/-- A word on a supervisor port. With no load in progress the port that CFG_MODE names waits for the manifest magic
(R126); a load that takes its words from the port queues them, and a word that finds the FIFO full stops it (R124)
(DEDUCED, log entry 19). -/
def pushWord (mode : Nat) (s : State) (w : Word) : State :=
  let l := s.loadOf mgmt
  if l.phase == .idle then
    if s.boot.cfgMode == mode && s.boot.mcUp && !s.boot.imgActive && w == 0xB10E5C0A &&
        (s.boot.phase == .waitImage || s.boot.phase == .unconfigured) then
      let s1 := newLoad s mgmt { phase := .manifest, used := true, source := 1 + mode, full := true, sup := true, port := true,
                                 fifo := [w], bytesIn := 4 }
      if lcImages s then settle mgmt s1 else loadFail mgmt .lifecycleDeny s1
    else s
  else if takesFrom s mode then
    if fifoWords ≤ l.fifo.length then loadFail mgmt .badParameter s
    else settle mgmt (s.setLoad mgmt { l with fifo := l.fifo ++ [w], bytesIn := l.bytesIn + 4 })
  else s

/-- STREAM_WRITE (R123, R124, R126): whole words enter the FIFO; a partial word stops a load that takes them, and on a port that no
load takes its words from it is discarded with them (DEDUCED, log entry 19). -/
def streamWrite (bs : List Byte) (s : State) : State :=
  let s1 := (bytesWords bs).foldl (pushWord 1) s
  if bs.length % 4 != 0 && takesFrom s1 1 then loadFail mgmt .badParameter s1 else s1

/-- STREAM_WRITE. -/
def execStreamWrite (bytes : List Byte) (s : State) : Host.Outcome State Fault Refusal := done (streamWrite bytes) s

/-- SPP_WORD (R125): taken only while the pins carry the port and SPP_WAIT is low, that is while the FIFO has room. -/
def sppWord (w : Word) (s : State) : State := if sppPort s && !sppWait s then pushWord 2 s w else s

/-- SPP_WORD. -/
def execSppWord (w : Word) (s : State) : Host.Outcome State Fault Refusal := done (sppWord w) s

/-- The slave serial status word (Table 4.5). -/
def sspStatus (s : State) : Word :=
  let l := s.loadOf mgmt
  let busy := l.phase != .idle
  let ready := s.boot.mcUp && !verifying l &&
    ((busy && l.sup) || (!busy && (s.boot.cfgMode == 1 || s.boot.cfgMode == 2) && !s.boot.imgActive &&
      (s.boot.phase == .waitImage || s.boot.phase == .unconfigured)))
  wd (b2n ready * 0x80000000 + b2n busy * 0x40000000 + b2n s.boot.done * 0x20000000 + b2n s.boot.cfgErr * 0x10000000 +
    scode l.status * 0x10000 + (fifoWords - l.fifo.length))

/-- STATUS_READ (R123): the status word is driven on SSP_IO. -/
def execStatusRead (s : State) : Host.Outcome State Fault Refusal := done (fun s => s.emit (.words [sspStatus s])) s

/-! ## LOAD_IMAGE and LOAD_PARTIAL -/

/-- P1 and P2 as a NoC address. -/
def srcAddr (c : RunCmd) : Nat := pw c 1 + bf (pw c 2) 15 0 * 0x100000000

/-- Whether the NoC address of a source is the issuer's to use (R364): OK, NOT_OWNER, or BAD_PARAMETER from HS. -/
def srcCheck (s : State) (c : RunCmd) (len : Nat) : Status :=
  if c.d = 4 then .badParameter else if nocArgOk s c (srcAddr c) len then .ok else .notOwner

/-- A whole-device load may not start while a region is LOADING or a target is active (R170). -/
def deviceBusy (s : State) : Bool :=
  s.cfg.regions.any (fun e => e.2.state == .loading) ||
    s.cfg.targets.any fun e => e.2.state == .verifying || e.2.state == .ready || e.2.state == .armed || e.2.state == .switching

/-- When a whole-device load starts, every shadow set is cleared and every PREPARED region becomes EMPTY (R170). -/
def clearShadows (s : State) : State :=
  { s with cfg := { s.cfg with
    regions := s.cfg.regions.foldl (fun m e => SMap.set dRegion m e.1
      { e.2 with shadow := [], state := if e.2.state == .prepared then .empty else e.2.state }) [] } }

/-- What LOAD_IMAGE does once its parameters stand (R127, R366). -/
def loadImageRun (c : RunCmd) (s : State) : State :=
  let src := bf (pw c 0) 1 0
  let slot := bf (pw c 0) 8 8
  let l0 : Load := { phase := .manifest, used := true, source := 4, full := true, cmd := some ⟨c.d, c.tag⟩, sup := src == 3, port := src == 3,
                     nv := if src = 1 then some (if slot = 0 then .slot0 else .slot1) else none,
                     limit := if src = 0 then some (pw c 3) else none }
  if (s.loadOf mgmt).phase != .idle then finish c .busy 3 [] [] s
  else if !s.boot.imgActive then waitCmd c [] (newLoad s mgmt l0)
  else if bf (pw c 0) 4 4 = 0 then finish c .refused 3 [] [] s
  else if deviceBusy s || (List.range 16).any (holdsVote s 3) then finish c .busy 3 [] [] s
  else
    let s1 := clearShadows s
    let s2 := s1.setTarget 15 { s1.targetOf 15 with state := .idle, consents := [] }
    waitCmd c [] (newLoad s2 mgmt { l0 with shadow := true, whole := true })

/-- LOAD_IMAGE (R366). -/
def loadImage (d : Nat) (s : State) : State :=
  serve d 0x0201 .any (fun c s =>
    let src := bf (pw c 0) 1 0
    let chk := if src = 0 then srcCheck s c (pw c 3) else .ok
    if chk != .ok then finish c chk 0 [] [] s
    else if src = 2 || (src = 3 && c.d != 4) then finish c .badParameter 0 [] [] s
    else loadImageRun c s) s

/-- LOAD_IMAGE. -/
def execLoadImage (d : Nat) (s : State) : Host.Outcome State Fault Refusal := done (loadImage d) s

/-- The units of a library entry, from its manifest (R367). -/
def entryUnits (s : State) (u : Nat) : Nat :=
  let h := nvRead s (unitAddr u 0) 0x34
  (manLenOf h + leAt h 0x30 4 + 0x1FFFFF) / 0x200000

/-- Whether HS owns an NV range that holds a logical sector. -/
def hsHolds (s : State) (sec : Nat) : Bool :=
  s.nv.ranges.any fun e => e.2.first ≤ sec && sec ≤ e.2.last && s.owner (resRange e.1) == .hs

/-- LOAD_PARTIAL may be issued by the region's owner, and by HS from a library entry that lies in its ranges (R367). -/
def partialOwner (s : State) (c : RunCmd) : Bool :=
  if c.d = 4 then
    bf (pw c 0) 10 9 == 2 && (List.range (entryUnits s (bf (pw c 4) 7 0))).all fun i => hsHolds s (256 + bf (pw c 4) 7 0 + i)
  else s.owner (bf (pw c 0) 7 0) == cmdOwner c

/-- LOAD_PARTIAL (R146, R148). -/
def loadPartial (d : Nat) (s : State) : State :=
  serve d 0x0202 .any (fun c s =>
    let r := bf (pw c 0) 7 0
    let src := bf (pw c 0) 10 9
    let chk := if src = 0 then srcCheck s c (pw c 3) else .ok
    if !partialOwner s c then finish c .notOwner 0 [] [] s
    else if chk != .ok then finish c chk 0 [] [] s
    else if 135 < r || src = 1 || src = 3 then finish c .badParameter 0 [] [] s
    else if (s.loadOf mgmt).phase != .idle || !mayLoad s r || loadHeld s r then finish c .busy 3 [] [] s
    else
      waitCmd c [] (startRegion s mgmt r
        { source := 5, direct := bf (pw c 0) 8 8 == 1, cmd := some ⟨c.d, c.tag⟩,
          nv := if src = 2 then some (.library (bf (pw c 4) 7 0)) else none,
          limit := if src = 0 then some (pw c 3) else none })) s

/-- LOAD_PARTIAL. -/
def execLoadPartial (d : Nat) (s : State) : Host.Outcome State Fault Refusal := done (loadPartial d) s

/-! ## Readback -/

/-- RTC time in whole seconds, at 32,768 ticks a second. -/
def rtcSec (s : State) : Nat := s.pwr.rtc / 32768

/-- A grant in force with a property (R469). -/
def grantWith (s : State) (p : Grant → Bool) : Bool :=
  s.lcs.grants.any fun e => match e.2 with
    | some g => p g && rtcSec s < g.until_
    | none => false

/-- Debug scopes need no grant in BLANK and TEST (Table 16.6). -/
def freeDebug (s : State) : Bool := s.lcs.state ≤ 1

/-- The configuration frames of a window in the order band, column, minor (R370). -/
def windowFrames (ws : List Word) : List Nat :=
  (rectBands ws).flatMap fun b =>
    ((List.range 559).filter fun c => inRects ws b c).flatMap fun c =>
      (List.range (if colKind c == .ram then 24 else frameCount c)).map fun m => frameKey b c m

/-- The 520 bytes of a frame as read back (R370), decoded (R507). The signature of a content frame, which has none (R86), and whatever
a band in OFF returns are free. -/
def readFrame (s : State) (key : Nat) (active : Bool) : List Byte :=
  let p := planeOf (s.frameOf key) key active
  let off := (s.bandOf (keyBand key)).state == .off
  leBytes 4 (farWord key active) ++ (if off then freeBytes s 512 else wordBytes (planeRead p)) ++
    (if off || isContent key then freeBytes { s with free := s.free + 512 } 4 else leBytes 4 p.sig.toNat)

/-- The free values that the read of a frame takes. -/
def State.passRead (s : State) : State := { s with free := s.free + 516 }

/-- The bytes of frames read one after another, each with free values of its own. -/
def readFrames (active : Bool) : List Nat → State → List Byte
  | [], _ => []
  | k :: ks, s => readFrame s k active ++ readFrames active ks s.passRead

/-- READBACK_REGION (R370, R361 step 5); the MC writes the frames with its own stamp (R208). -/
def readbackRegion (d : Nat) (s : State) : State :=
  serve d 0x0206 .h (fun c s =>
    let r := bf (pw c 0) 7 0
    let owns := s.owner r == cmdOwner c
    let isLead := s.lead == some c.d
    let leash := freeDebug s || (owns && grantWith s (fun g => g.scope == 3 && g.dom == c.d)) ||
      (isLead && grantWith s (fun g => g.scope == 2))
    let n0 := bf (pw c 4) 15 0
    let n := nearest 1 4096 n0
    let cs := if n = n0 then [] else [cmdClamp 4 0 n0 n]
    let first := pw c 3
    let active := bf (pw c 0) 8 8 == 0
    if !owns && !isLead then finish c .notOwner 0 [] [] s
    else if !leash then finish c .noLeash 0 [] [] s
    else if !nocArgOk s c (srcAddr c) (520 * n) then finish c .notOwner 0 [] [] s
    else if 135 < r then finish c .badParameter 0 [] [] s
    else
      let all := windowFrames (s.rects r)
      let fs := (all.drop first).take n
      let next := if all.length ≤ first + n then 0xFFFFFFFF else first + n
      let u := blockWrite { s with free := s.free + 516 * fs.length } 0x118 .mc (srcAddr c) (readFrames active fs s) .ok
      if u.1 == .ok then finish c .ok 3 cs [wd fs.length, wd next] u.2 else finish c u.1 3 cs [wd 0, wd first] u.2) s

/-- READBACK_REGION. -/
def execReadbackRegion (d : Nat) (s : State) : Host.Outcome State Fault Refusal := done (readbackRegion d) s

end Sys2Proof.Machine
end

