-- ==== Sys2Proof/Machine/Line.lean ====
section
/-! DEFINITION. The ring's line code (R284–R286): 8b/10b with running disparity and the synchronisation process of IEEE 802.3 Clause 36,
which the manual names and does not print (PRESUMED, log entry 77). A code-group is written abcdei fghj from its most significant bit, and
bit a is sent first. Running disparity is `true` where it is positive. -/
namespace Sys2Proof.Machine
open Sys2Proof

abbrev CodeGroup := BitVec 10

/-- abcdei of D.x at negative disparity. -/
def sixes : List (BitVec 6) :=
  [0b100111, 0b011101, 0b101101, 0b110001, 0b110101, 0b101001, 0b011001, 0b111000,
   0b111001, 0b100101, 0b010101, 0b110100, 0b001101, 0b101100, 0b011100, 0b010111,
   0b011011, 0b100011, 0b010011, 0b110010, 0b001011, 0b101010, 0b011010, 0b111010,
   0b110011, 0b100110, 0b010110, 0b110110, 0b001110, 0b101110, 0b011110, 0b101011]

/-- fghj of D.x.y at negative disparity: the primary form of y = 7. -/
def fours : List (BitVec 4) := [0b1011, 0b1001, 0b0101, 0b1100, 0b1101, 0b1010, 0b0110, 0b1110]

/-- The number of ones. -/
def onesIn (w v : Nat) : Nat := (List.range w).foldl (fun n i => n + v / 2 ^ i % 2) 0

/-- The running disparity after a sub-block of `w` bits, whatever they are: Clause 36 counts an invalid one too. -/
def rdBlock (rd : Bool) (w v : Nat) : Bool :=
  if w < 2 * onesIn w v || v == 2 ^ (w / 2) - 1 then true
  else if 2 * onesIn w v < w || v == 2 ^ w - 2 ^ (w / 2) then false
  else rd

/-- The running disparity after a code-group. -/
def rdAfter (rd : Bool) (g : CodeGroup) : Bool := rdBlock (rdBlock rd 6 (g.toNat / 16)) 4 (g.toNat % 16)

/-- abcdei of D.x. -/
def six (rd : Bool) (x : Nat) : BitVec 6 :=
  let v := sixes.getD x 0
  if rd && (onesIn 6 v.toNat != 3 || x == 7) then ~~~v else v

/-- fghj of D.x.y at the disparity that abcdei leaves: y = 7 takes its alternate form where a run of five would arise. -/
def four (rd : Bool) (x y : Nat) : BitVec 4 :=
  if y == 7 && (if rd then [11, 13, 14] else [17, 18, 20]).contains x then (if rd then 0b1000 else 0b0111)
  else
    let v := fours.getD y 0
    if rd && (onesIn 4 v.toNat != 2 || y == 3) then ~~~v else v

/-- The code-group of a data byte: its bit 0 is A of the 8b/10b input (R286). -/
def encData (rd : Bool) (b : Byte) : CodeGroup :=
  let x := b.toNat % 32
  let a := six rd x
  a ++ four (rdBlock rd 6 a.toNat) x (b.toNat / 32)

/-- The special code-groups of Table 10.3. -/
inductive Special where
  | k28_5 | s | t | r
  deriving DecidableEq, Repr

/-- The code-group of a special one. -/
def encSpecial (rd : Bool) (k : Special) : CodeGroup :=
  let v : CodeGroup := match k with | .k28_5 => 0b0011111010 | .s => 0b1101101000 | .t => 0b1011101000 | .r => 0b1110101000
  if rd then ~~~v else v

/-- The byte of a data code-group; none where it is none at this disparity. -/
def decData (rd : Bool) (g : CodeGroup) : Option Byte :=
  let v := g.toNat / 16
  match (List.range 32).find? fun x => (six rd x).toNat == v with
  | none => none
  | some x => ((List.range 8).find? fun y => (four (rdBlock rd 6 v) x y).toNat == g.toNat % 16).map fun y => BitVec.ofNat 8 (32 * y + x)

/-- The special code-group that a received one is. -/
def decSpecial (rd : Bool) (g : CodeGroup) : Option Special :=
  [Special.k28_5, .s, .t, .r].find? fun k => encSpecial rd k == g

/-- The code-groups of some data bytes. -/
def encBytes : Bool → List Byte → List CodeGroup
  | _, [] => []
  | rd, b :: bs => encData rd b :: encBytes (rdAfter rd (encData rd b)) bs

/-- The disparity after some code-groups. -/
def rdRun (rd : Bool) (gs : List CodeGroup) : Bool := gs.foldl rdAfter rd

/-- The code-groups of some special ones. -/
def encSpecials : Bool → List Special → List CodeGroup
  | _, [] => []
  | rd, k :: ks => encSpecial rd k :: encSpecials (rdAfter rd (encSpecial rd k)) ks

/-- /I2/ (Table 10.3): K28.5, D16.2. It leaves the disparity as it was. -/
def idle2 (rd : Bool) : List CodeGroup :=
  let k := encSpecial rd .k28_5
  [k, encData (rdAfter rd k) 0x50]

/-- A frame on the line (R285): /S/, its bytes, /T/ /R/, and one /R/ more where the next /I2/ would not be even. -/
def lineFrame (rd : Bool) (bs : List Byte) : List CodeGroup :=
  let a := encSpecial rd .s :: encBytes (rdAfter rd (encSpecial rd .s)) bs
  a ++ encSpecials (rdRun rd a) (if bs.length % 2 = 0 then [.t, .r, .r] else [.t, .r])

/-- The bytes of a received frame up to its /T/ /R/; none where a code-group is not one of the link's or stands out of place. -/
def lineBody : Bool → List CodeGroup → Option (List Byte)
  | _, [] => none
  | rd, g :: gs =>
    match decData rd g with
    | some b => (lineBody (rdAfter rd g) gs).map (b :: ·)
    | none =>
      let rd1 := rdAfter rd g
      if decSpecial rd g == some .t && (gs == encSpecials rd1 [.r] || gs == encSpecials rd1 [.r, .r]) then some [] else none

/-- The bytes of a received frame. -/
def lineBytes (rd : Bool) : List CodeGroup → Option (List Byte)
  | [] => none
  | g :: gs => if decSpecial rd g == some .s then lineBody (rdAfter rd g) gs else none

/-- A received code-group is none of the link's at this disparity. -/
def badGroup (rd : Bool) (g : CodeGroup) : Bool := (decData rd g).isNone && (decSpecial rd g).isNone

/-- One code-group through the synchronisation process of Clause 36: three commas each followed by data acquire synchronisation; a bad
code-group, or a comma at an odd position, is one step towards its loss, which the fourth completes, and four good ones in a row take
one step back. -/
def syncGroup (c : RxLine) (g : CodeGroup) : RxLine :=
  let comma := decSpecial c.rd g == some .k28_5
  let bad := badGroup c.rd g || (comma && c.even)
  let n := { c with rd := rdAfter c.rd g, even := !c.even, good := 0 }
  match c.at_ with
  | .loss => if comma then { n with at_ := .comma 1, even := true } else n
  | .comma k =>
    if (decData c.rd g).isNone then { n with at_ := .loss } else { n with at_ := if 3 ≤ k then .synced 0 else .acquire k }
  | .acquire k => if bad then { n with at_ := .loss } else if comma then { n with at_ := .comma (k + 1) } else n
  | .synced k =>
    if bad then { n with at_ := if 3 ≤ k then .loss else .synced (k + 1) }
    else if k = 0 then n
    else if c.good = 3 then { n with at_ := .synced (k - 1) }
    else { n with good := c.good + 1 }

/-- Received code-groups through the synchronisation process. -/
def syncRun (c : RxLine) (gs : List CodeGroup) : RxLine := gs.foldl syncGroup c

/-- The process reports synchronisation acquired (R285). -/
def synced (c : RxLine) : Bool :=
  match c.at_ with
  | .synced _ => true
  | _ => false

end Sys2Proof.Machine
end

