-- ==== Sys2Proof/Machine/Uan.lean ====
section
/-! DEFINITION. The Uanov ring engines (R281–R328): the control block, the frames that they send, and what a frame's
return does. Times are in 1/16 ns unless their name says ns. -/
namespace Sys2Proof.Machine
open Sys2Proof

/-! ## Rings -/

def ringOwner (s : State) (r : Nat) : Owner := s.owner (resRing r)

/-- RING_CFG as it reads: until it is written, its miss field is POL_POD_MISS (Table 10.19). -/
def ringCfg (s : State) (g : Ring) : Word := if g.cfgSet then g.cfg else setBits g.cfg 7 0 (s.pol 9 % 256)

def stnOf (g : Ring) (n : Nat) : Station := SMap.get dStn g.stns n
def setStn (g : Ring) (n : Nat) (x : Station) : Ring := { g with stns := SMap.set dStn g.stns n x }
def topoOf (g : Ring) (p : Nat) : List Byte := SMap.get dBytes g.topo p

/-- The stations that hold a number, ascending. -/
def numbered (g : Ring) : List Nat := (g.stns.filter fun e => e.2.id != 0).map (·.1)

/-- Sets bits of UAN.INT_STATUS in the ring owner's copy. -/
def uanInt (s : State) (r : Nat) (bits : Word) : State := s.raiseFor (ownerAccs (ringOwner s r)) 0x8004C 0 bits

/-- Records UAN.LAST_EVENT, and posts pod loss, ring break and recovery to the owner's report (R319, R320, R372). -/
def uanEvent (s : State) (r kind : Nat) (st : Status) (stn : Nat) : State :=
  let s1 := { s with uan := { s.uan with last := wd (kind * 0x10000000 + scode st * 0x10000 + r * 0x100 + stn) } }
  if kind = 1 || kind = 2 || kind = 3 then s1.post [ocode (ringOwner s r)] 7 st kind stn r else s1

/-- Completes the ring command in progress (R325, R326). -/
def ringDone (s : State) (r : Nat) (st : Status) (res : List Word) : State :=
  let g := s.ringOf r
  if !g.busy then s
  else
    let st1 : Status := if st = .ok && g.clamped then .okClamped else st
    let s1 := uanInt (s.setRing r { g with busy := false, cmdSt := st1, lastCmd := g.cmd, clamped := if st = .ok then false else g.clamped,
                                           cmdRef := none, starting := false }) r 0x40
    endCmd? (g.cmdRef.map fun x => ⟨x.1, x.2⟩) st1 7 res s1

/-! ## Timing (R298–R305) -/

/-- τ of a line rate (Table 10.2). -/
def tau (rate : Nat) : Nat := [1600, 800, 400, 200].getD rate 200

/-- t_L and t_A of a timing class in ns (Table 10.12). -/
def classNs (c : Nat) : Nat := [1000, 2000, 10000, 50000].getD c 0

/-- The largest class time among the numbered stations. -/
def leadNs (g : Ring) : Nat := (numbered g).foldl (fun n x => max n (classNs (stnOf g x).cls)) 0

def outLen (g : Ring) : Nat := (numbered g).foldl (fun n x => n + (stnOf g x).o) 0
def inLen (g : Ring) : Nat := (numbered g).foldl (fun n x => n + (stnOf g x).i) 0
def joinLimit (g : Ring) : Nat := wf g.aCfg 27 24

/-- B_max (R300). -/
def bMax (g : Ring) : Nat := 168 + outLen g + inLen g + 24 * joinLimit g

def ringTau (g : Ring) : Nat := tau (wf g.aCfg 17 16)

/-- R301. -/
def feasible (g : Ring) : Bool :=
  bMax g ≤ 4096 && 16 * leadNs g + g.loop + (bMax g + 4) * ringTau g + 32000 ≤ 16 * g.aCycle

/-- A_min (R299). -/
def aMin (g : Ring) : Nat := g.loop + (bMax g + 4) * ringTau g + 16 * leadNs g

/-- R302: whether the remainder of a cycle can hold a 160-byte CONFIG. -/
def ctrlRoom (g : Ring) : Bool :=
  2 * g.loop + (bMax g + 4) * ringTau g + 164 * ringTau g + 16 * leadNs g + 32000 ≤ 16 * g.aCycle

/-- The deadline of a cycle's frames, in DTB ns: S_(n+1) − λ − 2 µs. -/
def deadlineNs (g : Ring) : Nat := g.sNext - g.lead - 2000

/-- Forwarding delay that the pod at a position declares (Table 10.8). -/
def podF (g : Ring) (p : Nat) : Nat := leAt (topoOf g p) 20 2

/-- The weight of a segment: of those beyond the 33 that the block holds, the default. -/
def segW (g : Ring) (i : Nat) : Nat := if i < 33 then g.aWeights.getD i 1 else 1

/-- d_p of a position, rounded to 1/16 ns (R305). -/
def delayOf (g : Ring) (p : Nat) : Nat :=
  let ps := (List.range g.pods).map (· + 1)
  let f := ps.foldl (fun n q => n + podF g q) 0
  let ws := (List.range (g.pods + 1)).map (segW g)
  let tot := ws.foldl (· + ·) 0
  let w := if tot = 0 then p else (ws.take p).foldl (· + ·) 0
  let t := if tot = 0 then g.pods + 1 else tot
  (2 * (g.loop - f) * w + t) / (2 * t) + ((List.range (p - 1)).foldl (fun n q => n + podF g (q + 1)) 0)

/-- L − Σ f is negative (R305). -/
def delayNegative (g : Ring) : Bool := g.loop < (List.range g.pods).foldl (fun n q => n + podF g (q + 1)) 0

/-! ## Frames (R287–R297) -/

/-- The reflected polynomial of the CRC-32 of R287. -/
def polyU : Nat := 0xEDB88320

/-- The CRC-32 of R287. -/
def crc32u (bs : List Byte) : Nat := crcRun polyU 0xFFFFFFFF bs ^^^ 0xFFFFFFFF

/-- Frame bytes with the CRC at their end. -/
def withCrc (bs : List Byte) : List Byte := bs ++ leBytes 4 (crc32u bs)

/-- A frame's CRC is right and its type is the one given. -/
def frameOk (type : Nat) (bs : List Byte) : Bool :=
  8 ≤ bs.length && leAt bs 0 1 == type && leAt bs (bs.length - 4) 4 == crc32u (bs.take (bs.length - 4))

/-- The type byte of the frame on the ring. -/
def frameType : OnRing → Nat
  | .none => 0 | .cycle => 1 | .discover => 2 | .assign => 3 | .config _ => 4 | .delay => 5 | .safe => 6 | .reset => 7

/-- The output burst: each numbered station's bytes at its offset (R292, R314). -/
def burst (g : Ring) : List Byte :=
  let size := outLen g
  (List.range size).map fun x =>
    match (numbered g).find? fun n => (stnOf g n).off ≤ x && x < (stnOf g n).off + (stnOf g n).o with
    | some n => Memory.read 0 g.outImg (0x80 * (n - 1) + (x - (stnOf g n).off))
    | none => 0

/-- The entries of an ASSIGN frame: the stations that wait for one. -/
def assignEntries (g : Ring) : List Nat := (numbered g).filter fun n => (stnOf g n).toAsn

/-- The bytes of a frame after its start. The safe output bytes of a CONFIG are zero (DEDUCED, log entry 21). -/
def frameBody (g : Ring) (now : Nat) : OnRing → List Byte
  | .cycle =>
    leBytes 8 g.sN ++ leBytes 8 (g.sN + 1000 * g.aApply) ++ leBytes 8 (g.sN - g.lead) ++
      [BitVec.ofNat 8 (b2n g.run + 2 * b2n g.stepped), BitVec.ofNat 8 (joinLimit g)] ++ leBytes 2 (outLen g) ++
      leBytes 4 g.safeMask.toNat ++ burst g
  | .discover => zeros 4
  | .assign =>
    let es := assignEntries g
    [BitVec.ofNat 8 es.length] ++ zeros 3 ++
      es.flatMap fun n => leBytes 8 (stnOf g n).id ++ [BitVec.ofNat 8 n] ++ zeros 3
  | .config n =>
    let x := stnOf g n
    [BitVec.ofNat 8 n, BitVec.ofNat 8 (wf g.aCfg 15 8), BitVec.ofNat 8 x.o, BitVec.ofNat 8 x.i] ++ leBytes 8 x.id ++
      leBytes 4 x.dp ++ leBytes 4 g.aCycle ++ leBytes 2 x.off ++ zeros 2 ++ zeros x.o
  | .delay => leBytes 8 now
  | .safe => leBytes 4 (if g.state == .stopping then 0 else g.safeMask.toNat) ++ [if g.state == .stopping then 1 else 0] ++ zeros 3
  | .reset => zeros 4 ++ [1] ++ zeros 3
  | .none => []

/-- Puts a frame on the ring: /I2/ stands before it and follows it (R285). -/
def sendFrame (s : State) (r : Nat) (k : OnRing) : State :=
  let g := s.ringOf r
  let bs := [BitVec.ofNat 8 (frameType k), BitVec.ofNat 8 r] ++ leBytes 2 g.seq ++ frameBody g s.now k
  let gs := lineFrame g.txRd (withCrc bs)
  (s.setRing r { g with
    onRing := k, seq := (g.seq + 1) % 65536, txRd := rdRun g.txRd gs, sentAt := s.uptime }).emit (.ring r gs)

/-- The engine sends /I2/ and no frame (R316, R320). -/
def sendIdle (s : State) (r : Nat) : State := s.emit (.ring r (idle2 (s.ringOf r).txRd))

/-- The bytes a control frame has on the ring. -/
def frameSize (g : Ring) (k : OnRing) : Nat := 8 + (frameBody g 0 k).length

/-- The priority of a control frame (R302), the lowest number first. -/
def frameRank : OnRing → Nat
  | .safe => 0 | .reset => 1 | .config _ => 2 | .assign => 3 | .delay => 4 | .discover => 5 | _ => 6

/-- The control frame due first. -/
def nextCtrl (q : List OnRing) : Option OnRing :=
  q.foldl (fun (m : Option OnRing) k =>
    match m with
    | none => some k
    | some x => if frameRank k < frameRank x then some k else m) none

/-- Adds a control frame to those waiting, once. -/
def queueFrame (g : Ring) (k : OnRing) : Ring := if g.queue.contains k then g else { g with queue := g.queue ++ [k] }

/-- The engine sends the next control frame: at once outside RUNNING, in the remainder of a cycle where it fits (R302). -/
def pumpCtrl (s : State) (r : Nat) : State :=
  let g := s.ringOf r
  match nextCtrl g.queue with
  | none => s
  | some k =>
    let fits := g.state != .running ||
      16 * s.now + g.loop + (frameSize g k + 4) * ringTau g ≤ 16 * deadlineNs g
    if g.onRing == .none && fits then sendFrame (s.setRing r { g with queue := g.queue.erase k }) r k else s

/-! ## Signals (R327) -/

/-- The level of a ring's signal m. -/
def sigLevel (g : Ring) (m : Nat) : Bool :=
  let w := nth g.aSig m
  let n := wf w 21 16
  if !wb w 31 then false
  else if !g.rxFresh.contains n then wb w 30
  else (decide (wf w 14 8 < (stnOf g n).i)) && (Memory.read 0 g.rxBuf (0x80 * (n - 1) + wf w 14 8)).getLsbD (wf w 2 0)

/-- Signals 4j–4j + 3 of the bank table take the ring's levels. -/
def ringSignals (s : State) (r : Nat) : State :=
  let g := s.ringOf r
  let t := 0x100 + r / 4
  let v := (List.range 4).foldl (fun (n : BitVec 16) m =>
    let b : BitVec 16 := 1#16 <<< (4 * (r % 4) + m)
    if sigLevel g m then n ||| b else n &&& ~~~ b) (s.tableOf t).uan
  s.setTable t { s.tableOf t with uan := v }

/-! ## Stopping (R321) -/

/-- The ring is STOPPED: TX static, and its ports take their image configuration again (R282)
(DESIGN CHOICE, log entry 38). -/
def ringStopped (s : State) (r : Nat) : State :=
  let g := s.ringOf r
  let s1 := s.setRing r { g with
    state := .stopped, onRing := .none, queue := [], stopAfter := false, starting := false, recover := false, rxFresh := [],
    run := false }
  let s2 := ringSignals (ringDone s1 r (if g.cmd == 2 then .ok else .notReady) []) r
  [12, 13, 14, 15].foldl (fun u i => startPort u (16 * r + i)) s2

/-- As STOP: SAFE with the all flag, then its return or 1 ms. -/
def stopRing (s : State) (r : Nat) : State :=
  let g := s.ringOf r
  if g.state == .stopped || g.state == .stopping then s
  else
    let s1 := s.setRing r { g with state := .stopping, queue := [.safe], stopAfter := false, since := s.uptime }
    pumpCtrl s1 r

/-- Every station of a ring is sent to SAFE (Table 10.16). -/
def safeAll (s : State) (r : Nat) : State :=
  let g := s.ringOf r
  if g.state == .running then
    s.setRing r (queueFrame { g with safeMask := g.safeMask ||| wd ((numbered g).foldl (fun n x => n + 2 ^ (x - 1)) 0) } .safe)
  else s

/-- RESET_DOMAIN and host-loss policy RESET: every station to SAFE for one cycle, then as STOP. -/
def resetRing (s : State) (r : Nat) : State :=
  let g := s.ringOf r
  if g.state == .running then (safeAll s r).setRing r { (safeAll s r).ringOf r with stopAfter := true, stopCyc := g.cycles }
  else stopRing s r

/-- The rings that an owner has. -/
def ringsOf (s : State) (o : Owner) : List Nat := (List.range 64).filter fun r => ringOwner s r == o

/-- R283: rings that a whole-device swap has left UNOWNED, or whose group it has given to another owner than it had or than the ring's,
are stopped. `old` is the state before the tenancy changed. -/
def ringsAfterTenancy (old s : State) : State :=
  (List.range 64).foldl (fun u r =>
    if ringOwner u r == .unowned || ringOwner u r != u.owner (136 + r) || u.owner (136 + r) != old.owner (136 + r) then stopRing u r
    else u) s

/-! ## Ring commands (R316, R317, R321, R326) -/

/-- R282: what START needs of ownership and of the bank. -/
def startCheck (s : State) (r : Nat) : Status :=
  let d := wf (s.cfgReg (0x20 + r / 4)) 2 0
  if (s.ringOf r).state != .stopped then .busy
  else if ringOwner s r == .unowned || ringOwner s r != s.owner (136 + r) then .notOwner
  else if (d != 3 && d != 4) || bankHeld s (r / 4) then .badParameter
  else .ok

/-- A command begins: it is busy until it completes. -/
def ringBegin (s : State) (r cmd : Nat) (ref : Option (Nat × Nat)) : State :=
  s.setRing r { s.ringOf r with busy := true, cmd := cmd, cmdRef := ref }

/-- START is accepted: settings take effect with their clamps, the pins are taken (R316 step 1). -/
def startRing (s : State) (r : Nat) : State :=
  let g := s.ringOf r
  let c := 1000 * g.cycleUs
  let s1 := s.setRing r {
    cfg := g.cfg, cfgSet := g.cfgSet, cycleUs := g.cycleUs, phase := min g.phase (c - 1), applyUs := min g.applyUs g.cycleUs,
    noticeLo := g.noticeLo, noticeHi := g.noticeHi, sig := g.sig, aSig := g.aSig, weights := g.weights, aWeights := g.weights,
    asnStn := g.asnStn, asnLo := g.asnLo, asnHi := g.asnHi,
    clamped := g.clamped || c ≤ g.phase || g.cycleUs < g.applyUs,
    state := .starting, since := s.uptime, starting := true, busy := g.busy, cmd := g.cmd, cmdRef := g.cmdRef,
    aCfg := ringCfg s g, aCycle := c, aPhase := min g.phase (c - 1), aApply := min g.applyUs g.cycleUs,
    outImg := g.outImg, inImg := g.inImg, csS := g.csS, csCyc := g.csCyc, csFresh := g.csFresh, csStat := g.csStat }
  sendIdle ([12, 13, 14, 15].foldl (fun u i => enterMode u (16 * r + i) 0) s1) r

/-- The position of the pod with a unique ID in the topology. -/
def podAt (g : Ring) (id : Nat) : Option Nat :=
  ((List.range (min 63 g.pods)).map (· + 1)).find? fun p => leAt (topoOf g p) 4 8 == id

/-- A station with the JOIN data of the pod at a position. -/
def stationFrom (g : Ring) (p off : Nat) : Station :=
  let d := (topoOf g p)
  { state := .assigned, pos := p, id := leAt d 4 8, vendor := leAt d 12 2, prod := leAt d 14 2, i := leAt d 16 1, o := leAt d 17 1,
    cls := leAt d 18 1, off, dp := delayOf g p, toAsn := true }

/-- The next free output offset: after the highest allocated slot. -/
def nextOff (g : Ring) : Nat := (numbered g).foldl (fun n x => max n ((stnOf g x).off + (stnOf g x).o)) 0

/-- Gives a station to the pod at a position, where the pod's class and the ring permit it (R301, R317). -/
def giveStation (g : Ring) (n p : Nat) : Option Ring :=
  let x := stationFrom g p (nextOff g)
  let g1 := setStn g n x
  if 3 < x.cls || !feasible g1 then none
  else some { g1 with
    usedIds := if g.usedIds.contains x.id then g.usedIds else g.usedIds ++ [x.id]
    waiting := g.waiting.erase x.id
    lead := leadNs g1 }

/-- The pod at a position is JOINED: its record shows no station, and no later record shows it at its station. -/
def podJoined (g : Ring) (p n : Nat) : Bool :=
  let x := stnOf g n
  let held := x.id == leAt (topoOf g p) 4 8 && (x.state == .assigned || x.state == .operational || x.state == .safe)
  leAt (topoOf g p) 1 1 == 0 && !held

/-- Re-admission (R317): the station leaves the safe mask; ASSIGN goes first where the pod is JOINED. -/
def readmit (g : Ring) (n p : Nat) (joined : Bool) : Ring :=
  let g1 := setStn { g with safeMask := g.safeMask &&& ~~~ wd (2 ^ (n - 1)), waiting := g.waiting.erase (stnOf g n).id } n
    { stnOf g n with toAsn := joined, conf := false, left := false, state := .assigned, miss := 0, pos := p, dp := delayOf g p }
  queueFrame g1 (if joined then .assign else .config n)

/-- ASSIGN of station `n` to the pod with ID `u` (R317): the completion of the first row that applies, the ring that
follows, and whether the completion waits for the CONFIG. -/
def assignRow (g : Ring) (n u : Nat) : Status × Ring × Bool :=
  if g.state != .running then (.notReady, g, false)
  else match podAt g u with
    | none => (.notReady, g, false)
    | some p =>
      let x := stnOf g n
      let joined := podJoined g p n
      let given := giveStation g n p
      if n < 1 || 32 < n || (x.id != 0 && x.id != u) || 3 < leAt (topoOf g p) 18 1 || g.noRoom ||
          (x.id == u && !feasible g) then (.badParameter, g, false)
      else if x.id == u && (x.left || x.state == .safe) then (.ok, readmit g n p joined, true)
      else if joined then
        match given with
        | none => (.badParameter, g, false)
        | some g1 => (.ok, queueFrame g1 .assign, true)
      else if x.id == u then (.ok, g, false)
      else (.badParameter, g, false)

/-- A command of the control block (R326): one that meets another completes with BUSY and has no effect. -/
def ringCommand (s : State) (r cmd : Nat) (ref : Option (Nat × Nat)) : State :=
  let g := s.ringOf r
  let done (u : State) (st : Status) : State := ringDone u r st []
  if g.busy then
    endCmd? (ref.map fun x => ⟨x.1, x.2⟩) .busy 7 [] (uanInt (s.setRing r { g with cmdSt := .busy, lastCmd := cmd }) r 0x40)
  else
    let s1 := ringBegin s r cmd ref
    match cmd with
    | 1 => let st := startCheck s r; if st = .ok then startRing s1 r else done s1 st
    | 2 => if g.state == .stopped then done s1 .ok else stopRing s1 r
    | 3 =>
      let a := assignRow (s1.ringOf r) g.asnStn (g.asnLo.toNat + g.asnHi.toNat * 0x100000000)
      if a.2.2 then
        let s2 := s1.setRing r { a.2.1 with cmdStn := g.asnStn }
        pumpCtrl (if (stnOf g g.asnStn).id = 0 then uanEvent s2 r 7 .ok g.asnStn else s2) r
      else done (s1.setRing r a.2.1) a.1
    | 4 => if g.state != .running then done s1 .notReady
           else done (pumpCtrl (s1.setRing r (queueFrame (s1.ringOf r) .safe)) r) .ok
    | 5 => if g.state != .running then done s1 .notReady
           else pumpCtrl (s1.setRing r (queueFrame (s1.ringOf r) .discover)) r
    | _ => done s1 .unknownCommand

/-! ## The control block (R325, Tables 10.18–10.20) -/

/-- The value that a write of SIG_MAP_m stores, with its clamp. -/
def sigValue (v : Word) : Word × List FieldClamp :=
  let w := v &&& 0xC03F7F07
  if wb w 31 && (wf w 21 16 < 1 || 32 < wf w 21 16) then (w &&& 0x7FFFFFFF, [(31, 1, 0)]) else (w, [])

/-- A write of a control word other than CMD: the ring, and the clamps made. -/
def ctrlPut (g : Ring) (off : Nat) (v : Word) : Ring × List FieldClamp :=
  let us (w : Word) : Word × List FieldClamp := clampField 13 0 (nearest 10 10000) (w &&& 0x3FFF, [])
  match off with
  | 0x08 =>
    let (w, cs) := ((v &&& 0xCF03FFFF, []) : Word × List FieldClamp) |> clampField 27 24 (nearest 0 8) |>
      clampField 15 8 (nearest 1 255) |> clampField 7 0 (nearest 1 255)
    ({ g with cfg := w, cfgSet := true }, cs)
  | 0x0C => let (w, cs) := us v; ({ g with cycleUs := w.toNat }, cs)
  | 0x10 => let (w, cs) := clampField 23 0 (nearest 0 (1000 * g.cycleUs - 1)) (v &&& 0xFFFFFF, []); ({ g with phase := w.toNat }, cs)
  | 0x14 => let (w, cs) := clampField 13 0 (nearest 0 g.cycleUs) (v &&& 0x3FFF, []); ({ g with applyUs := w.toNat }, cs)
  | 0x18 => let w := v &&& 0xFFFFFFF0; ({ g with noticeLo := w }, if w == v then [] else [(0, v.toNat, w.toNat)])
  | 0x1C => ({ g with noticeHi := v &&& 0xFFFF }, [])
  | 0x30 => ({ g with safeMask := g.safeMask ||| v }, [])
  | 0x34 => ({ g with asnStn := wf v 5 0 }, [])
  | 0x38 => ({ g with asnLo := v }, [])
  | 0x3C => ({ g with asnHi := v }, [])
  | _ =>
    if 0x20 ≤ off && off ≤ 0x2C then
      let (w, cs) := sigValue v
      ({ g with sig := setAt g.sig ((off - 0x20) / 4) w }, cs)
    else if 0x40 ≤ off && off ≤ 0x60 then
      let i := off - 0x40
      ({ g with weights := (List.range 4).foldl (fun ws k => setAt ws (i + k) (wf v (8 * k + 7) (8 * k))) g.weights }, [])
    else (g, [])

/-- A write of a word of the control block. -/
def ctrlWrite (r off : Nat) (v : Word) (s : State) : State :=
  if off = 0 then ringCommand s r (wf v 3 0) none
  else
    let (g, cs) := ctrlPut (s.ringOf r) off v
    s.setRing r { g with clamped := g.clamped || !cs.isEmpty }

/-- A read of a word of the control block. -/
def ctrlRead (s : State) (r off : Nat) : Word :=
  let g := s.ringOf r
  match off with
  | 0x04 => wd (b2n g.busy * 0x80000000 + scode g.cmdSt * 0x10000 + g.lastCmd)
  | 0x08 => ringCfg s g
  | 0x0C => wd g.cycleUs
  | 0x10 => wd g.phase
  | 0x14 => wd g.applyUs
  | 0x18 => g.noticeLo
  | 0x1C => g.noticeHi
  | 0x30 => g.safeMask
  | 0x34 => wd g.asnStn
  | 0x38 => g.asnLo
  | 0x3C => g.asnHi
  | _ =>
    if 0x20 ≤ off && off ≤ 0x2C then nth g.sig ((off - 0x20) / 4)
    else if 0x40 ≤ off && off ≤ 0x60 then
      wd ((List.range 4).foldl (fun n k => n + g.weights.getD (off - 0x40 + k) 0 * 256 ^ k) 0)
    else 0

/-- A ring command that a domain gives through the endpoint: its own ring's alone (R283). -/
def ringCmd (dom : Owner) (r cmd : Nat) (s : State) : State :=
  if r < 64 && dom == ringOwner s r && dom != .unowned then ctrlWrite r 0 (wd cmd) s else s

/-- START (R316). -/
def execStart (dom : Owner) (ring : Nat) (s : State) : Host.Outcome State Fault Refusal := done (ringCmd dom ring 1) s
/-- STOP (R321). -/
def execStop (dom : Owner) (ring : Nat) (s : State) : Host.Outcome State Fault Refusal := done (ringCmd dom ring 2) s
/-- ASSIGN (R317). -/
def execAssign (dom : Owner) (ring : Nat) (s : State) : Host.Outcome State Fault Refusal := done (ringCmd dom ring 3) s
/-- SAFE (R321). -/
def execSafe (dom : Owner) (ring : Nat) (s : State) : Host.Outcome State Fault Refusal := done (ringCmd dom ring 4) s
/-- REDISCOVER (R326). -/
def execRediscover (dom : Owner) (ring : Nat) (s : State) : Host.Outcome State Fault Refusal := done (ringCmd dom ring 5) s
/-- SAFE_MASK (R325). -/
def execSafeMask (dom : Owner) (ring : Nat) (v : Word) (s : State) : Host.Outcome State Fault Refusal :=
  done (fun s => if ring < 64 && dom == ringOwner s ring && dom != .unowned then ctrlWrite ring 0x30 v s else s) s

/-! ## Discovery (R316, R318, R320) -/

/-- Step 1 or 3 begins: the loop delay is measured anew (R304). -/
def measure (s : State) (r : Nat) : State :=
  pumpCtrl (s.setRing r { s.ringOf r with delays := [], queue := [.delay] }) r

/-- What sync does when it is acquired (R316, R320): a starting ring sends RESET; a broken one runs steps 3 and 4 again. -/
def ringSynced (s : State) (r : Nat) : State :=
  let g := s.ringOf r
  match g.state with
  | .starting => pumpCtrl (s.setRing r { g with state := .discovering, queue := [.reset] }) r
  | .broken => measure (s.setRing r { g with state := .discovering, recover := true, tries := 0 }) r
  | _ => s

/-- The ring breaks (R320): no frames, /I2/ alone; every station is LOST, nothing is fresh; a START in progress ends. -/
def breakRing (s : State) (r : Nat) : State :=
  let g := s.ringOf r
  let s1 := sendIdle (s.setRing r { g with
    state := .broken, onRing := .none, queue := [], status := .ringBreak, rxFresh := [], csFresh := 0,
    stns := g.stns.map fun e => (e.1, if e.2.id = 0 then e.2 else { e.2 with state := .lost, fresh := false }) }) r
  ringDone (ringSignals (uanEvent (uanInt s1 r 4) r 2 .ringBreak 0) r) r .ringBreak []

/-- What loss of sync does (R320). -/
def ringUnsynced (s : State) (r : Nat) : State :=
  match (s.ringOf r).state with
  | .discovering => breakRing s r
  | .running => breakRing s r
  | _ => s

/-- Code-groups reach the ring's receiver: they go through the synchronisation process, whose result is acted on where it changes (R285).
A STOPPED ring does not receive. -/
def lineIn (s : State) (r : Nat) (gs : List CodeGroup) : State :=
  let g := s.ringOf r
  if g.state == .stopped then s
  else
    let c := syncRun g.rx gs
    let s1 := s.setRing r { g with rx := c }
    if synced c && !synced g.rx then ringSynced s1 r
    else if synced g.rx && !synced c then ringUnsynced s1 r
    else s1

/-- RX_SYNC (R316, R320): received code-groups, with which sync may be acquired. -/
def execRxSync (ring : Nat) (groups : List (BitVec 10)) (s : State) : Host.Outcome State Fault Refusal :=
  done (fun s => lineIn s ring groups) s

/-- RING_BREAK (R320): received code-groups, with which sync may be lost. -/
def execRingBreak (ring : Nat) (groups : List (BitVec 10)) (s : State) : Host.Outcome State Fault Refusal :=
  done (fun s => lineIn s ring groups) s

/-- START_SYNC_TIMEOUT (R316): 10 ms without sync; START completes with RING_BREAK and the ring is BROKEN. -/
def startSyncTimeout (r : Nat) (s : State) : State :=
  let g := s.ringOf r
  if g.state == .starting && g.since + 10000000 ≤ s.uptime then
    ringDone (s.setRing r { g with state := .broken, status := .ringBreak }) r .ringBreak []
  else s

/-- START_SYNC_TIMEOUT. -/
def execStartSyncTimeout (ring : Nat) (s : State) : Host.Outcome State Fault Refusal := done (startSyncTimeout ring) s

/-- STOP_TIMEOUT (R321): SAFE has not returned within 1 ms of the ring's stopping (DESIGN CHOICE, log entry 38). -/
def stopTimeout (r : Nat) (s : State) : State :=
  let g := s.ringOf r
  if g.state == .stopping && g.since + 1000000 ≤ s.uptime then ringStopped s r else s

/-- STOP_TIMEOUT. -/
def execStopTimeout (ring : Nat) (s : State) : Host.Outcome State Fault Refusal := done (stopTimeout ring) s

/-- A frame comes back as code-groups: the receiver takes them, and where it keeps sync the frame's bytes are `f`'s. A frame that is not
made as R285 gives it has no bytes, so it is invalid. -/
def received (r : Nat) (gs : List CodeGroup) (f : List Byte → State → State) (s : State) : State :=
  let c := (s.ringOf r).rx
  let s1 := lineIn s r gs
  if synced c && synced (s1.ringOf r).rx then f ((lineBytes c.rd gs).getD []) s1 else s1

/-- The frame on the ring has come back; one that is invalid is sent again (DESIGN CHOICE, log entry 38). -/
def returned (s : State) (r : Nat) (k : OnRing) (ok : Bool) (f : State → State) : State :=
  let g := s.ringOf r
  if g.onRing != k then s
  else
    let s1 := s.setRing r { g with onRing := .none }
    if ok then f s1
    else pumpCtrl (s1.setRing r (queueFrame { s1.ringOf r with errInv := sat 0xFFFF g.errInv } k)) r

/-- RESET_FRAME (R316 step 2): every pod is JOINED, and the delay is measured. After a START that failed the ring stops. -/
def resetFrame (r : Nat) (bs : List Byte) (s : State) : State :=
  returned s r .reset (frameOk 7 bs && bs.length == 16) (fun u =>
    if (u.ringOf r).state == .stopping then ringStopped u r
    else if (u.ringOf r).state == .discovering then measure u r
    else pumpCtrl u r)

/-- RESET_FRAME. -/
def execResetFrame (ring : Nat) (groups : List (BitVec 10)) (s : State) : Host.Outcome State Fault Refusal :=
  done (received ring groups (resetFrame ring)) s

end Sys2Proof.Machine
end

