-- ==== Sys2Proof/Machine/Swap.lean ====
section
/-! DEFINITION. The hitless swap (R157–R174). A target is named 0–15 for a group and 256 + r for single region r; in the
whole-device swap the static design is the member 255. -/
namespace Sys2Proof.Machine
open Sys2Proof

/-- The target that P0 names. -/
def targetId (c : RunCmd) : Nat := if bf (pw c 0) 8 8 = 1 then 256 + bf (pw c 0) 7 0 else bf (pw c 0) 7 0

/-- The members of a target, ascending (R157). -/
def members (s : State) (t : Nat) : List Nat :=
  if 256 ≤ t then [t - 256]
  else if t = 15 then s.windowed ++ [staticMember]
  else (s.cfg.regions.filter fun e => e.2.groupEn && e.2.group == t).map (·.1)

/-- R158: parameters that name no target. -/
def badTarget (s : State) (t : Nat) : Bool :=
  if 256 ≤ t then
    let r := t - 256
    135 < r || (s.regionOf r).groupEn || (s.rects r).isEmpty
  else if t = 15 then false
  else 15 < t || (members s t).isEmpty

/-- R158: the issuer owns every member. -/
def ownsTarget (s : State) (c : RunCmd) (t : Nat) : Bool := (members s t).all fun r => s.owner r == cmdOwner c

/-- The hosts that own at least one resource (R172). -/
def hostOwners (s : State) : List Nat := [0, 1, 2, 3].filter fun d => ownsAny s.ten (ownerOf d)

/-- A band of the member's shadow set is in NAP or OFF (R159). -/
def shadowAsleep (s : State) (r : Nat) : Bool :=
  (s.regionOf r).shadow.any fun k => (s.bandOf (keyBand k)).state == .nap || (s.bandOf (keyBand k)).state == .off

/-- The first member that fails R159, with its status; the target's own state comes after the members'. -/
def prepareCheck (s : State) (t : Nat) : List Nat → Status × Nat
  | [] => if (s.targetOf t).state == .idle then (.ok, 0xFF) else (.busy, 0xFF)
  | r :: rs =>
    match (s.regionOf r).state with
    | .prepared => if (s.regionOf r).late || (s.regionOf r).safeDec then (.notReady, r)
        else if shadowAsleep s r then (.destPoweredDown, r) else prepareCheck s t rs
    | .incomplete => (.regionIncomplete, r)
    | .isolated => (.regionIncomplete, r)
    | _ => (.notReady, r)

/-- CFG holds the vote that it gave on an entry of a band with a frame of a member's shadow set (R418). -/
def prepareHeld (s : State) (ms : List Nat) : Bool :=
  ms.any fun r => (s.regionOf r).shadow.any fun k => holdsVote s 3 (keyBand k)

/-- PREPARE_SWAP on the whole-device target (R172). -/
def prepareDevice (c : RunCmd) (s : State) : State :=
  let g := s.targetOf 15
  let cons := joinSet g.consents c.d
  if !(hostOwners s).contains c.d then finish c .notOwner 0 [] [0xFF] s
  else if (List.range 16).any (holdsVote s 3) then finish c .busy 3 [] [0xFF] s
  else if g.state != .deviceLoaded then finish c .notReady 3 [] [0xFF] (s.setTarget 15 { g with status := .notReady })
  else if (members s 15).any fun r => (s.regionOf r).safeDec then
    finish c .notReady 3 [] [wd (((members s 15).find? fun r => (s.regionOf r).safeDec).getD 0xFF)]
      (s.setTarget 15 { g with status := .notReady })
  else if g.unswap then finish c .badParameter 3 [] [0xFF] (s.setTarget 15 { g with status := .badParameter })
  else if (hostOwners s).all cons.contains then
    waitCmd c [] (s.setTarget 15 { g with
      consents := cons, state := .verifying, status := .ok, member := 0xFF, cause := 0,
      prep := some ⟨c.d, c.tag⟩, members := members s 15, issuer := c.d })
  else finish c .pending 3 [] [0xFF] (s.setTarget 15 { g with consents := cons, status := .pending })

/-- PREPARE_SWAP (R158, R159). -/
def prepareSwap (d : Nat) (s : State) : State :=
  serve d 0x0203 .owner (fun c s =>
    let t := targetId c
    let g := s.targetOf t
    if t = 15 then prepareDevice c s
    else if !ownsTarget s c t then finish c .notOwner 0 [] [0xFF] s
    else if badTarget s t then finish c .badParameter 0 [] [0xFF] s
    else if prepareHeld s (members s t) then finish c .busy 3 [] [0xFF] s
    else
      let chk := prepareCheck s t (members s t)
      if chk.1 = .ok then
        waitCmd c [] (s.setTarget t { g with
          state := .verifying, status := .ok, member := 0xFF, cause := 0, prep := some ⟨c.d, c.tag⟩, comm := none,
          members := members s t, pending := [], issuer := c.d })
      else
        finish c chk.1 3 [] [wd chk.2] (s.setTarget t (if chk.1 = .busy then { g with status := .busy } else { g with
          status := chk.1, member := chk.2, cause := if chk.1 = .destPoweredDown then 0 else 1 }))) s

/-- PREPARE_SWAP. -/
def execPrepareSwap (d : Nat) (s : State) : Host.Outcome State Fault Refusal := done (prepareSwap d) s

/-- The frames that verification reads for a target (R160, R172). -/
def verifyFrames (s : State) (t : Nat) : List Nat :=
  if t = 15 then (s.cfg.frames.map (·.1)).filter flippable
  else (s.targetOf t).members.flatMap fun r => (s.regionOf r).shadow

/-- The members that hold one of some frames. -/
def failingMembers (s : State) (t : Nat) (bad : List Nat) : List Nat :=
  (s.targetOf t).members.filter fun r =>
    if t = 15 then r != staticMember && bad.any fun k => s.frameRegion k == some r
    else (s.regionOf r).shadow.any bad.contains

/-- The shadow plane of a frame fails verification (R160, R507): a word is uncorrectable, or the CRC of the decoded payload differs from
the shadow signature. -/
def shadowFails (s : State) (key : Nat) : Bool :=
  let p := (s.frameOf key).shadowPlane
  planeBad p || crc32c (wordBytes (planeRead p)) != p.sig

/-- VERIFY_DONE (R160) (DEDUCED, log entry 50). -/
def verifyDone (t : Nat) (s : State) : State :=
  let g := s.targetOf t
  if g.state != .verifying then s
  else
    let fails := (verifyFrames s t).filter (shadowFails s)
    if fails.isEmpty then
      endCmd? g.prep .ok 3 [0xFF] (s.setTarget t { g with state := .ready, prep := none, status := .ok })
    else
      let ms := failingMembers s t fails
      let m := ms.min?.getD 0xFF
      let s1 := ms.foldl (fun u r => u.setRegion r { u.regionOf r with state := .incomplete }) s
      endCmd? g.prep .crcFail 3 [wd m] (s1.setTarget t { g with
        state := .idle, prep := none, status := .crcFail, member := m, cause := 0, consents := [] })

/-- VERIFY_DONE. -/
def execVerifyDone (target : Nat) (s : State) : Host.Outcome State Fault Refusal := done (verifyDone target) s

/-- The accessors that a target's events are recorded for (R176): its issuer, or for group 15 every host that owns. -/
def targetAccs (s : State) (t : Nat) : List Nat := if t = 15 then hostOwners s else [(s.targetOf t).issuer]

/-- COMMIT_SWAP (R162). -/
def commitSwap (d : Nat) (s : State) : State :=
  serve d 0x0204 .owner (fun c s =>
    let t := targetId c
    let g := s.targetOf t
    let at_ := pw c 1 + pw c 2 * 0x100000000
    if (if t = 15 then !g.consents.contains c.d else !ownsTarget s c t) then finish c .notOwner 0 [] [] s
    else if badTarget s t then finish c .badParameter 0 [] [] s
    else if g.state == .armed then finish c .busy 3 [] [] (s.setTarget t { g with status := .busy })
    else if g.state != .ready then finish c .notReady 3 [] [] (s.setTarget t { g with status := .notReady })
    else if at_ < s.now + 2000 || s.now + 100000000000 < at_ then
      finish c .badParameter 3 [] [wd s.now, wd (s.now / 0x100000000)] (s.setTarget t { g with status := .badParameter })
    else
      waitCmd c [] (s.setTarget t { g with
        state := .armed, init := bf (pw c 0) 16 16 == 1, t := at_, moved := 0, comm := some ⟨c.d, c.tag⟩, status := .ok,
        member := 0xFF, cause := 0, issuer := c.d })) s

/-- COMMIT_SWAP. -/
def execCommitSwap (d : Nat) (s : State) : Host.Outcome State Fault Refusal := done (commitSwap d) s

/-- Res4 of a commit that did not complete with OK (Table 12.5). -/
def commitRes (member cause : Nat) : List Word := [0, 0, 0, 0, wd (member * 256 + cause)]

/-- Where a target goes when a swap has completed or ABORT_SWAP ends it (R173, R174). -/
def restState (t : Nat) : TState := if t = 15 then .deviceLoaded else .idle

/-- A target's prepare or commit ends before T' (R166), with a cause of Table 5.10. Every end but ABORT_SWAP leaves it IDLE; the result
words of a PREPARE_SWAP carry the cause where Table 12.5 has it for a COMMIT_SWAP (DEDUCED, log entry 50). -/
def endTarget (t cause : Nat) (s : State) : State :=
  let g := s.targetOf t
  if g.state == .verifying || g.state == .ready || g.state == .armed then
    let s1 := s.setTarget t { g with state := if cause = 3 then restState t else .idle, prep := none, comm := none,
                                     status := .swapAborted, member := 0xFF, cause := cause, consents := [] }
    let s2 := endCmd? g.prep .swapAborted 3 [0xFF, 0, 0, 0, wd (0xFF00 + cause)] s1
    let s3 := endCmd? g.comm .swapAborted 3 (commitRes 0xFF cause) s2
    if g.comm.isSome then s3.raiseFor (targetAccs s t) 0x2005C 0 2 else s3
  else s

/-- The REGION_ATTR value that a region's attributes spell (Table 3.12). -/
def attrWord (r : Nat) (g : Region) : Word :=
  wd (r * 0x1000000 + g.group * 0x100000 + b2n g.groupEn * 0x80000 + g.clock * 0x1000)

/-- What the running image would stage, so that a further swap returns to it (R173). -/
def stageRunning (s : State) : Staged :=
  { regs := s.cfg.regs, ten := s.ten,
    wins := (s.cfg.regions.filter fun e => e.1 < 128 && !e.2.window.isEmpty).map fun e => (e.1, e.2.window),
    attrs := s.cfg.regions.map fun e => (e.1, attrWord e.1 e.2),
    plls := (List.range 32).flatMap fun p =>
      let g := s.pllOf p
      [(16 * p, g.aCtrl), (16 * p + 1, g.aDiv)] ++ (List.range 7).map fun o => (16 * p + 2 + o, nth g.aOuts o ||| wd o),
    sig := s.boot.imgSig, owner := s.boot.imgOwner
    slot := s.boot.bootSlot.map fun n => if n = 0 then Source.slot0 else .slot1 }

/-- At T' of a whole-device swap the staged registers, tenancy and windows take effect (R173); a PLL that runs keeps its
settings. Rings stop whose tenancy went, and the pins follow the new owners (R27, R283). -/
def applyStaged (s : State) : State :=
  let g := s.cfg.staged
  let s1 := applyImage s g.regs g.ten g.wins g.attrs g.plls (fun p => wb (s.pllOf p).aCtrl 30) true
  dropEntries <| refreshPins <| ringsAfterTenancy s { s1 with
    cfg := { s1.cfg with staged := stageRunning s },
    boot := { s1.boot with
      imgSig := g.sig, imgOwner := g.owner,
      bootSlot := match g.slot with | some .slot0 => some 0 | some .slot1 => some 1 | _ => none } }

/-- The first member that keeps a swap from proceeding, with the cause of Table 5.10 (R163). -/
def decideFail (s : State) (t : Nat) (alive : List Nat) : Option (Nat × Nat) :=
  (s.targetOf t).members.findSome? fun r =>
    if t != 15 && (s.regionOf r).state != .prepared then some (r, 1)
    else if !alive.contains r then some (r, 2)
    else none

/-- A scrub read of a frame of a member's shadow set was in flight at T and still is (R163, R175). -/
def scrubIn (s : State) (t : Nat) (g : Target) : Bool :=
  (List.range 16).any fun b =>
    let e := s.scrOf b
    let key := frameKey b e.col e.minor
    e.reading && !e.canary && e.at_ ≤ g.t &&
      (if t = 15 then flippable key else g.members.any fun r => (s.regionOf r).shadow.contains key)

/-- T' where it has come (R163): the latest of T and the ends of what was in flight at T, a scrub read for at most 200 ns and a self-test
slice for at most 500 µs. -/
def decisionAt (s : State) (t : Nat) : Option Nat :=
  let g := s.targetOf t
  let wait := if g.members.any (sliceIn s) then g.t + 500000 else if scrubIn s t g then g.t + 200 else 0
  let t' := max (max g.t g.moved) wait
  if s.now < t' then none else some t'

/-- SWAP_DECISION (R163, R165): at T', with the members whose clocks edged twice in the microsecond before. An ISOLATED region takes part in
a whole-device swap and stays ISOLATED (R156) (DEDUCED, log entry 50). -/
def swapDecision (t : Nat) (alive : List Nat) (s : State) : State :=
  let g := s.targetOf t
  match if g.state != .armed then none else decisionAt s t with
  | none => s
  | some t' => match decideFail s t alive with
    | some (r, cause) =>
      let s1 := s.setTarget t { g with state := .idle, comm := none, tPrime := t', status := .swapAborted,
                                       member := r, cause := cause, consents := [] }
      (endCmd? g.comm .swapAborted 3 (commitRes r cause) s1).raiseFor (targetAccs s t) 0x2005C 0 2
    | none =>
      let s1 := s.setTarget t { g with state := .switching, tPrime := t', pending := g.members, switched := false }
      let s2 := (g.members.filter (· != staticMember)).foldl
        (fun u r => u.setRegion r { u.regionOf r with state := .switchPending }) s1
      if t = 15 then applyStaged s2 else s2

/-- SWAP_DECISION. -/
def execSwapDecision (target : Nat) (alive : List Nat) (s : State) : Host.Outcome State Fault Refusal :=
  done (swapDecision target alive) s

/-- The frames that a member flips at its E0: its shadow set; in a whole-device swap every configuration frame of its old
window, or of no window (R137, R171). -/
def flipSet (s : State) (t r : Nat) : List Nat :=
  if t = 15 then (s.cfg.frames.map (·.1)).filter fun k => flippable k && memberArea s 15 r (keyBand k) (keyCol k)
  else (s.regionOf r).shadow

/-- Flips the active-plane bits of some frames (R136). -/
def flipFrames (s : State) (ks : List Nat) : State :=
  { s with cfg := { s.cfg with
    frames := ks.foldl (fun m k =>
      SMap.set dFrame m k { SMap.get dFrame m k with actB := !(SMap.get dFrame m k).actB }) s.cfg.frames } }

/-- A member of a target that awaits its E0 or, with `e1`, its E1 (R164, R169). The static design takes part in a
whole-device swap alone. -/
def awaits (s : State) (t r : Nat) (e1 : Bool) : Bool :=
  let g := s.targetOf t
  if r = staticMember then t == 15 && g.pending.contains r && g.switched == e1
  else (s.regionOf r).state == (if e1 then .switching else .switchPending) && g.members.contains r

/-- The swap clock of a member: of a region of a whole-device swap, that of the image that ran until T'; of the static design global net
0 (R173). A regional net is named with its band (R64). -/
def swapNet (s : State) (t r : Nat) : Nat × Nat :=
  let n := if r = staticMember then 0 else if t = 15 then wf (SMap.get dWord s.cfg.staged.attrs r) 18 12 else (s.regionOf r).clock
  let ws := if t = 15 && r < 128 then SMap.get dWords s.cfg.staged.wins r else s.rects r
  (n, if n < 64 then 0 else (rectBands ws).headD 0)

/-- The members that switch, or end their cycle, at the edge of a member's swap clock: all those on its net that await it (R164). -/
def netMembers (s : State) (t r : Nat) (e1 : Bool) : List Nat :=
  (s.targetOf t).members.filter fun x => awaits s t x e1 && swapNet s t x == swapNet s t r

/-- A member's E0: the planes flip and its latches hold; in INIT mode its flip-flops are forced to their new initial values and GSR is
held. -/
def memberE0 (t : Nat) (s : State) (r : Nat) : State :=
  let g := s.targetOf t
  let s0 := flipFrames s (flipSet s t r)
  let s1 := if r = staticMember then
      ({ s0 with cfg := { s0.cfg with gsrStat := g.init } }).setTarget t { g with switched := true }
    else s0.setRegion r { s0.regionOf r with state := .switching, hold := true, gsr := g.init || (s0.regionOf r).isolated }
  let ts := tablesIn (memberArea s1 t r)
  let s2 := setCycle s1.refresh ts true
  if g.init then clearRemote (gsrFabric s2 (memberArea s2 t r)) ts else s2

/-- At a member's E1 its tables are evaluated again; those whose frames the swap flipped take their arm state, and the routes are checked
(R269, R272, R279). -/
def tablesE1 (t r : Nat) (s : State) : State :=
  let mine := tablesIn (memberArea s t r)
  let flipped := if t = 15 then mine
    else mine.filter fun x => (s.regionOf r).shadow.any fun k => keyBand k == x / 8 && keyCol k == niCol (x % 8)
  routeCheck (flipped.foldl armFromImage (setCycle s mine false))

/-- SWITCHING_EDGE (R164): the E0 of a member and of those on the same net. A member left behind by a TIMEOUT switches at its edge all the
same (R169). -/
def switchingEdge (t r : Nat) (s : State) : State :=
  if !awaits s t r false then s else (netMembers s t r false).foldl (memberE0 t) s

/-- SWITCHING_EDGE. -/
def execSwitchingEdge (target region : Nat) (s : State) : Host.Outcome State Fault Refusal :=
  done (switchingEdge target region) s

/-- COMMIT_TIMEOUT (R169): 1 ms after T' a commit that has not ended completes with TIMEOUT; members short of their E1 stay locked. -/
def commitTimeout (t : Nat) (s : State) : State :=
  let g := s.targetOf t
  if g.state != .switching || g.pending.isEmpty || s.now ≤ g.tPrime + 1000000 then s
  else
    let m := g.pending.min?.getD 0xFF
    let s1 := (g.pending.filter (· != staticMember)).foldl (fun u r => u.setRegion r { u.regionOf r with late := true }) s
    let s2 := s1.setTarget t { g with state := .idle, comm := none, status := .timeout, member := m, cause := 2, consents := [] }
    (endCmd? g.comm .timeout 3 (commitRes m 2) s2).raiseFor (targetAccs s t) 0x2005C 0 4

/-- A member's E1: its latches become transparent, and it is PREPARED; in a whole-device swap it is EMPTY, or ISOLATED as it was. -/
def memberE1 (t : Nat) (s : State) (r : Nat) : State :=
  let g := s.targetOf t
  let s1 := tablesE1 t r s
  let s2 := if r = staticMember then { s1 with cfg := { s1.cfg with gsrStat := false } }
    else
      let x := s1.regionOf r
      s1.setRegion r { x with state := if t = 15 then (if x.isolated then .isolated else .empty) else .prepared
                              hold := false
                              gsr := x.isolated
                              late := false }
  openLatches (s2.setTarget t { g with pending := g.pending.filter (· != r) })

/-- SWAP_CYCLE_END (R164, R168, R169): the E1 of a member and of those on the same net. With the last member the commit completes, unless
more than 1 ms has passed. -/
def swapCycleEnd (t r : Nat) (s0 : State) : State :=
  if !awaits s0 t r true then s0
  else
    let s := commitTimeout t s0
    let s1 := (netMembers s t r true).foldl (memberE1 t) s
    let g := s1.targetOf t
    if g.state != .switching || !g.pending.isEmpty then s1
    else
      let s2 := s1.setTarget t { g with state := restState t, comm := none, tEnd := s.now, status := .ok,
                                        member := 0xFF, cause := 0, consents := [] }
      (endCmd? g.comm .ok 3 [wd g.tPrime, wd (g.tPrime / 0x100000000), wd s.now, wd (s.now / 0x100000000)] s2).raiseFor
        (targetAccs s t) 0x2005C 0 1

/-- SWAP_CYCLE_END. -/
def execSwapCycleEnd (target region : Nat) (s : State) : Host.Outcome State Fault Refusal :=
  done (swapCycleEnd target region) s

/-- COMMIT_TIMEOUT. -/
def execCommitTimeout (target : Nat) (s : State) : Host.Outcome State Fault Refusal := done (commitTimeout target) s

/-- Discards a whole-device image (R174). -/
def discardDevice (s : State) : State :=
  let s1 := clearShadows s
  let s2 := s1.setTarget 15 { s1.targetOf 15 with state := .idle, unswap := false, consents := [] }
  { s2 with cfg := { s2.cfg with
    staged := {},
    regions := s2.cfg.regions.foldl (fun m e => SMap.set dRegion m e.1
      { e.2 with state := if e.2.isolated then .isolated else .empty }) [] } }

/-- ABORT_SWAP (R167, R174) (DEDUCED, log entry 50). -/
def abortSwap (d : Nat) (s : State) : State :=
  serve d 0x0205 .owner (fun c s =>
    let t := targetId c
    let g := s.targetOf t
    if (if t = 15 then !(hostOwners s).contains c.d || (g.state != .deviceLoaded && !g.consents.contains c.d)
        else !ownsTarget s c t) then finish c .notOwner 0 [] [] s
    else if badTarget s t then finish c .badParameter 0 [] [] s
    else if g.state == .verifying || g.state == .ready || g.state == .armed then finish c .ok 3 [] [] (endTarget t 3 s)
    else if t = 15 && g.state == .deviceLoaded then finish c .ok 3 [] [] (discardDevice s)
    else finish c .notReady 3 [] [] s) s

/-- ABORT_SWAP. -/
def execAbortSwap (d : Nat) (s : State) : Host.Outcome State Fault Refusal := done (abortSwap d) s

end Sys2Proof.Machine
end

