-- ==== Sys2Proof/Machine/Owners.lean ====
section
/-! DEFINITION. Ownership: the domain reset (Table 1.5), claims and releases of regions, firewall windows, host-loss
policies (R26, R35, R210, R344). -/
namespace Sys2Proof.Machine
open Sys2Proof

/-- The regions of an owner. -/
def regionsOf (s : State) (o : Owner) : List Nat := (List.range 136).filter fun r => s.owner r == o

/-- Every swap target with a member of this owner ends before T' (R166). -/
def endTargets (s : State) (o : Owner) : State :=
  (s.cfg.targets.map (·.1)).foldl (fun u t =>
    if (u.targetOf t).members.any fun r => r != staticMember && s.owner r == o then endTarget t 4 u else u) s

/-- Flip-flops in an owner's regions take their initial values, and the remote signals of its tables are cleared (Table
1.5, R269) (DEDUCED, log entry 68). -/
def resetRegions (s : State) (o : Owner) : State :=
  let s1 := (regionsOf s o).foldl (fun u r => gsrFabric u (inRegion u r)) s
  clearRemote s1 ((List.range 128).filter fun t => tableOwner s t == o)

/-- The in-flight requests of an owner's endpoints complete with TIMEOUT (Table 1.5). -/
def timeoutRequests (s : State) (o : Owner) : State :=
  let ids := (s.noc.outst.map fun e => e.1 / 256).eraseDups
  (ids.filter fun id => epOwner s id == o).foldl (fun u id => clearOut u id .timeout 6) s

/-- A domain's mailbox is emptied: indices 0, both rings read as zero, nothing is held back (Table 1.5, R358). -/
def emptyMailbox (s : State) (d : Nat) : State :=
  let s1 := s.setMbx d { s.mbxOf d with cmdTail := 0, cmdHead := 0, cplTail := 0, cplHead := 0 }
  { s1 with mc := { s1.mc with
    ram := s1.mc.ram.filter fun c => !(mbxBase d ≤ c.1 && c.1 < mbxBase d + 0x1800)
    heldC := s1.mc.heldC.filter fun h => h.d != d } }

/-- A domain's NV password sessions and XIP declarations end (R398, R402). -/
def endSessions (s : State) (o : Owner) : State :=
  { s with nv := { s.nv with
    ranges := SMap.normal dRange (s.nv.ranges.map fun (e : Nat × NvRange) => (e.1, { e.2 with sess := e.2.sess.filter (· != o) }))
    xip := s.nv.xip.filter fun (e : Nat × Option (Owner × Nat)) => match e.2 with | some x => x.1 != o | none => false } }

/-- The domain reset of Table 1.5 on the resources of one domain (DEDUCED, log entry 68). -/
def domainReset (s : State) (d : Nat) : State :=
  let o := ownerOf d
  let s1 := resetRegions (endTargets s o) o
  let s2 := resetGroups s1 o
  let s3 := (ringsOf s2 o).foldl resetRing s2
  endSessions (emptyMailbox (timeoutRequests s3 o) d) o

/-- RESET_DOMAIN (R35). -/
def resetDomain (d : Nat) (s : State) : State :=
  serve d 0x0006 .h (fun c s =>
    let n := ((regionsOf s (cmdOwner c)).filter fun r => s.windowed.contains r).length
    finish c .ok 0 [] [wd n] (domainReset s c.d)) s

/-- RESET_DOMAIN. -/
def execResetDomain (d : Nat) (s : State) : Host.Outcome State Fault Refusal := done (resetDomain d) s

/-- A resource gets an owner. -/
def setOwner (s : State) (res : Nat) (o : Owner) : State :=
  noteCmd (dropEntries { s with ten := SMap.set dOwner s.ten res o }) res

/-- CLAIM_REGION (R26). -/
def claimRegion (d : Nat) (s : State) : State :=
  serve d 0x0101 .h (fun c s =>
    let r := pw c 0 % 256
    if 135 < r then finish c .badParameter 0 [] [] s
    else if s.owner r == .unowned then finish c .ok 0 [] [] (setOwner s r (cmdOwner c))
    else if s.owner r == cmdOwner c then finish c .ok 0 [] [] s
    else finish c .notOwner 0 [] [] s) s

/-- CLAIM_REGION. -/
def execClaimRegion (d : Nat) (s : State) : Host.Outcome State Fault Refusal := done (claimRegion d) s

/-- RELEASE_REGION (R26). -/
def releaseRegion (d : Nat) (s : State) : State :=
  serve d 0x0102 .owner (fun c s =>
    let r := pw c 0 % 256
    if 135 < r then finish c .badParameter 0 [] [] s
    else if s.owner r != cmdOwner c then finish c .notOwner 0 [] [] s
    else if (s.regionOf r).state == .loading || isLocked s r then finish c .busy 0 [] [] s
    else finish c .ok 0 [] [] (setOwner s r .unowned)) s

/-- RELEASE_REGION. -/
def execReleaseRegion (d : Nat) (s : State) : Host.Outcome State Fault Refusal := done (releaseRegion d) s

/-- The last 4 KiB page of an endpoint's offset space (Tables 7.1, 10.17, R236). -/
def lastPage (id : Nat) : Nat :=
  if 0x80 ≤ id && id < 0xC0 then 0
  else if 0xC0 ≤ id && id < 0x100 then 4
  else if isEth id then 63
  else 0x7FFFFFF

/-- Whether an owner holds every destination resource of a range of pages: for ETH, each MAC port that it touches. -/
def ownsRange (s : State) (o : Owner) (id base limit : Nat) : Bool :=
  if isEth id then (List.range 4).all fun j =>
    !(16 * j ≤ limit && base < 16 * (j + 1)) || s.owner (resMac (4 * (id - 0x114) + j)) == o
  else epOwner s id == o

/-- SET_FIREWALL (R210): clamps of the limit and of the issuer's own grantee bit. With valid = 0 the window is removed and the
command names no resource (DEDUCED, log entry 29). -/
def setFirewall (d : Nat) (s : State) : State :=
  serve d 0x0103 .h (fun c s =>
    let id := pw c 1 % 512
    let base := pw c 2 % 0x8000000
    let lim := pw c 3 % 0x8000000
    let lim1 := min lim (lastPage id)
    let g := pw c 4 % 64
    let g1 := if g.testBit c.d then g - 2 ^ c.d else g
    let cs := (if lim1 != lim then [cmdClamp 3 0 lim lim1] else []) ++ (if g1 != g then [cmdClamp 4 0 g g1] else [])
    if !wb (nth c.p 0) 31 then
      finish c .ok 0 [] [] { s with noc := { s.noc with fw := SMap.set dFw s.noc.fw (32 * c.d + pw c 0 % 32) {} } }
    else if isMgmt id || isTable id || (s.mapOf id).state == .unassigned then finish c .badParameter 0 [] [] s
    else if !ownsRange s (cmdOwner c) id base lim1 then finish c .notOwner 0 [] [] s
    else if lim1 < base then finish c .badParameter 0 cs [] s
    else
      let f : FwWin := { valid := true, read := wb (nth c.p 4) 8, write := wb (nth c.p 4) 9, grantees := g1,
                         ep := id, base := base, limit := lim1 }
      finish c .ok 0 cs [] { s with noc := { s.noc with fw := SMap.set dFw s.noc.fw (32 * c.d + pw c 0 % 32) f } }) s

/-- SET_FIREWALL. -/
def execSetFirewall (d : Nat) (s : State) : Host.Outcome State Fault Refusal := done (setFirewall d) s

/-- SET_HOST_LOSS_POLICY (R344): 3 is clamped to 1. -/
def setHostLossPolicy (d : Nat) (s : State) : State :=
  serve d 0x0104 .h (fun c s =>
    let q := pw c 0 % 4
    let p := if q = 3 then 1 else q
    finish c .ok 0 (if q = 3 then [cmdClamp 0 0 3 1] else []) [] (noteCmd (s.setPci c.d { s.pciOf c.d with policy := p }) 0x1052)) s

/-- SET_HOST_LOSS_POLICY. -/
def execSetHostLossPolicy (d : Nat) (s : State) : Host.Outcome State Fault Refusal := done (setHostLossPolicy d) s

end Sys2Proof.Machine
end

