-- ==== Sys2Proof/Machine/Ports.lean ====
section
/-! DEFINITION. The field ports (R235–R251): accepted edges, schedules, PWM, pair modes, the FPE registers and the
group endpoints. -/
namespace Sys2Proof.Machine
open Sys2Proof

/-! ## Inputs -/

/-- A mode whose engine samples its input (Table 8.2): not DISABLED and not RAW (DEDUCED, log entry 36). -/
def takesInput (m : Nat) : Bool := m != 0 && m != 5

/-- A mode in which an accepted edge is the event RISE or FALL (Table 8.2). -/
def emitsEdges (m : Nat) : Bool := m == 1 || m == 2 || m == 3 || m == 4

/-- The event RISE or FALL of a port in mode `m`. -/
def edgeEvent (m n : Nat) (s : State) : State := if emitsEdges m then fpEvt s n else s

/-- The engine of a pair notes a change of its odd port's level: within an encoder frame, and from the start edge of a UART byte on
(R248, R249). -/
def lineChange (s : State) (n : Nat) (level : Bool) : State :=
  let e := n - 1
  let p := s.portOf e
  if n % 2 = 0 || portMode s n != 9 then s
  else if ownMode s e = 7 then (if p.busy then s.setPort e { p with line := p.line ++ [(s.uptime, level)] } else s)
  else if ownMode s e = 8 && wb p.pairCfg 19 then
    match p.rxAt with
    | some _ => s.setPort e { p with line := p.line ++ [(s.uptime, level)] }
    | none => if level then s else s.setPort e { p with line := [(s.uptime, level)], rxAt := some s.uptime }
  else s

/-- ACCEPTED_EDGE (R239, R240): the run of F + 1 samples that completes now has this level, after inversion. The timestamp is the DTB of
the run's first sample, F ns ago. A port whose input is ignored still samples its pad; the odd side of an LVDS pair has no input of
its own, and a RAW LVDS pair hands over the word of its deserialiser (R232). -/
def acceptedEdge (n : Nat) (level : Bool) (word : BitVec 8) (s : State) : State :=
  let p := s.portOf n
  let pad := level != wb p.cfg 25
  let f := wf p.cfg 15 0
  if 1023 < n || !portLive s n || (lvds s n && n % 2 = 1) then s
  else
    let s0 := rawIn (s.setPort n { p with pad := pad }) n p.pad pad
    if lvds s n && portMode s n = 5 then
      (s0.setPort n { s0.portOf n with des := word }).emit (.wire "lvds_word" n word.toNat)
    else if !takesInput (portMode s n) || p.fpIn == level || s.uptime < p.fpAt + f + 1 then s0
    else
      let s1 := (s0.setPort n { s0.portOf n with fpIn := level, fpAt := s.uptime }).emit (.wire "fp_in" n (b2n level))
      let s2 := lineChange (edgeEvent (portMode s n) n s1) n level
      if (if level then wb p.cfg 26 else wb p.cfg 27) && portMode s n != 7 && portMode s n != 9 then
        pushStamp s2 n (stampAt s (s.uptime - f)) level
      else s2

/-- ACCEPTED_EDGE. -/
def execAcceptedEdge (port : Nat) (level : Bool) (word : BitVec 8) (s : State) : Host.Outcome State Fault Refusal :=
  done (acceptedEdge port level word) s

/-! ## Outputs -/

/-- The part of a queue that is applied in one cycle: the head and the entries of equal T behind it (R244). -/
def sameTime : List Sched → List Sched × List Sched
  | [] => ([], [])
  | e :: es => (e :: es.takeWhile (fun x => x.t == e.t), es.dropWhile (fun x => x.t == e.t))

/-- A reflex set-level action of this PCLK cycle (R242). -/
def reflexNow (s : State) (n : Nat) : Bool := (s.portOf n).reflex.isSome && (s.portOf n).reflexAt == s.uptime

/-- A schedule entry's level: it ends a reflex level but for one of the same PCLK cycle (R242)
(DEDUCED, log entry 35). -/
def entryLevel (s : State) (n : Nat) (v : Pin) (drv : Nat) : State :=
  let p := s.portOf n
  putPort s n { p with mode := v, driver := drv, reflex := if reflexNow s n then p.reflex else none }

/-- One entry acts on the mode source (R242, R246, R248); a generator that it starts could place edges from `since` on. A
reflex level of the same cycle stops a PWM generator as it starts (DEDUCED, log entry 35). -/
def applyEntry (s : State) (n since : Nat) (e : Sched) : State :=
  let p := s.portOf n
  let m := portMode s n
  match e.act with
  | 3 =>
    if m = 7 then s.setPort n { p with
      run := some { t0 := e.t, wait := true, since, oneShot := p.pwmP == 0, p := p.pwmP.toNat, h := 0, high := false } }
    else
      let per := if p.pwmP == 0 then 4294967296 else p.pwmP.toNat
      let h := p.pwmH.toNat
      let r : PwmRun := { t0 := e.t, wait := false, since, oneShot := e.oneShot, p := per, h, high := decide (0 < h && h < per) }
      entryLevel (s.setPort n { p with run := if reflexNow s n then none else some r }) n (lvl (decide (0 < h))) 3
  | 2 => entryLevel (s.setPort n { p with run := none }) n .z 2
  | a => entryLevel (s.setPort n { p with run := none }) n
      (if m = 2 && !wb p.outCtrl 2 then .z else lvl (a == 1)) 2

/-- SCHEDULE_APPLY (R245): the head is applied when the DTB reads T; one that came to the head too late is applied at
the next PCLK cycle and counted (DEDUCED, log entry 33). -/
def scheduleApply (n : Nat) (s : State) : State :=
  let p := s.portOf n
  match p.sched with
  | [] => s
  | e :: _ =>
    let late := decide (e.t ≤ p.headAt + 8)
    if !portLive s n || (s.now < e.t && !late) then s
    else
      let (now, rest) := sameTime p.sched
      let s1 := s.setPort n { p with sched := rest, headAt := s.now,
                                     late := if late then min 255 (p.late + now.length) else p.late }
      let s2 := now.foldl (fun u x => portEvent (applyEntry u n (if late then s.now else p.headAt) x) n 4) s1
      if late then portLate s2 n else s2

/-- SCHEDULE_APPLY. -/
def execScheduleApply (port : Nat) (s : State) : Host.Outcome State Fault Refusal := done (scheduleApply port) s

/-- The next edge of a generator. -/
def pwmDue (r : PwmRun) : Nat := if r.wait then r.t0 else if r.high then r.t0 + r.h else r.t0 + r.p

/-- An edge whose instant had come within 8 ns before the generator could place it is late (R245, R246). -/
def pwmLate (r : PwmRun) (n : Nat) (s : State) : State :=
  if pwmDue r ≤ r.since + 8 then portLate (s.setPort n { s.portOf n with late := sat 255 (s.portOf n).late }) n else s

/-- PWM_EDGE (R246): the edge that is due. A change of period or high time takes effect at a period's start; one_shot
ends after its period (DEDUCED, log entry 33). -/
def pwmEdge (n : Nat) (s : State) : State :=
  let p := s.portOf n
  match p.run with
  | none => s
  | some r =>
    if !portLive s n || portMode s n != 3 || s.now < pwmDue r then s
    else if r.high then
      pwmLate r n (driveMode (s.setPort n { p with run := some { r with high := false } }) n .low 3)
    else if r.oneShot then driveMode (s.setPort n { p with run := none }) n .low 3
    else pwmLate r n <|
      let per := if p.pwmP == 0 then 4294967296 else p.pwmP.toNat
      let h := p.pwmH.toNat
      driveMode (s.setPort n { p with run := some { r with t0 := pwmDue r, wait := false, p := per, h, high := decide (0 < h && h < per) } })
        n (lvl (decide (0 < h))) 3

/-- PWM_EDGE. -/
def execPwmEdge (port : Nat) (s : State) : Host.Outcome State Fault Refusal := done (pwmEdge port) s

/-- FP_OUT_CHANGE (R142, R238, R242): what the fabric drives reaches the engine while the port's band is ON, through the boundary latch
of the region that drives it. A RAW LVDS pair takes a word for its serialiser (R232). -/
def fpOutChange (n : Nat) (out oe : Bool) (word : BitVec 8) (s : State) : State :=
  if 1023 < n || (s.bandOf (portBand n)).state != .on then s
  else
    let s1 := s.setPort n { s.portOf n with rout := out, roe := oe }
    if portLatched s n then s1
    else if lvds s n && n % 2 = 0 && portMode s n = 5 && portLive s n then
      (s1.setPort n { s1.portOf n with ser := word, fout := out, foe := oe }).emit (.wire "lvds_out" n word.toNat)
    else takeOut s1 n out oe

/-- FP_OUT_CHANGE. -/
def execFpOutChange (port : Nat) (out oe : Bool) (word : BitVec 8) (s : State) : Host.Outcome State Fault Refusal :=
  done (fpOutChange port out oe word) s

/-! ## Pair modes -/

/-- Whether a change of A or B counts up: A leads B (R247). -/
def quadUp (a b a' b' : Bool) : Bool := if a != a' then a' != b else b' == a

/-- Whether a change counts at a resolution: ×1 once a cycle, ×2 at each edge of A, ×4 at each edge
(DEDUCED, log entry 36). -/
def quadCounts (res : Nat) (a b a' b' : Bool) : Bool :=
  match res with
  | 0 => (a != a') && !b
  | 1 => a != a'
  | _ => a != a' || b != b'

/-- One change of the filtered inputs of a pair. -/
def quadStep (n : Nat) (a b : Bool) (s : State) : State :=
  let p := s.portOf n
  let s1 := s.setPort n { p with quadA := a, quadB := b }
  if p.quadA == a && p.quadB == b then s
  else if p.quadA != a && p.quadB != b then portPairErr (s1.setPort n { s1.portOf n with errCnt := sat 255 p.errCnt }) n
  else if !quadCounts (wf p.pairCfg 1 0) p.quadA p.quadB a b then s1
  else
    let up := quadUp p.quadA p.quadB a b != wb p.pairCfg 2
    let c := if up then p.pairData + 1 else p.pairData - 1
    let s2 := s1.setPort n { s1.portOf n with pairData := c }
    if c == p.pwmH then portPair s2 n else s2

/-- QUAD_TRANSITION (R247): the counter follows fp_in of both ports. Inputs accepted in one sample have changed together; of two that
were not, the earlier counts first. -/
def quadTransition (n : Nat) (s : State) : State :=
  let p := s.portOf n
  let q := s.portOf (n + 1)
  if 1023 < n || n % 2 = 1 || !portLive s n || portMode s n != 6 then s
  else if p.fpAt < q.fpAt then quadStep n p.fpIn q.fpIn (quadStep n p.fpIn p.quadB s)
  else if q.fpAt < p.fpAt then quadStep n p.fpIn q.fpIn (quadStep n p.quadA q.fpIn s)
  else quadStep n p.fpIn q.fpIn s

/-- QUAD_TRANSITION. -/
def execQuadTransition (port : Nat) (s : State) : Host.Outcome State Fault Refusal := done (quadTransition port) s

/-- Decodes `n` bits of Gray code, the most significant first. -/
def grayDecode : Nat → Nat → Nat
  | 0, _ => 0
  | n + 1, g => let h := grayDecode n (g / 2); 2 * h + (g % 2 + h % 2) % 2

/-- The level of a line at an instant: that of the last change noted by then. -/
def levelAt (h : List (Nat × Bool)) (t : Nat) : Bool := ((h.takeWhile fun e => e.1 ≤ t).getLast?.map (·.2)).getD true

/-- The bits of a frame and its half-period (Table 8.12). -/
def encBits (p : Port) : Nat := wf p.pairCfg 20 16 + 1
def encHalf (p : Port) : Nat := wf p.pairCfg 15 0

/-- ENCODER_FRAME (R248): a frame is due; one that meets a running frame is skipped as LATE, one that finds the data line
low fails. The clock falls at once, and its cycles follow with the half-period set. -/
def encoderFrame (n : Nat) (s : State) : State :=
  let p := s.portOf n
  match p.run with
  | none => s
  | some r =>
    if !portLive s n || portMode s n != 7 || s.now < r.t0 then s
    else
      let s1 := s.setPort n { p with run := if r.oneShot || p.pwmP == 0 then none else some { r with t0 := r.t0 + p.pwmP.toNat } }
      if p.busy then portLate s1 n
      else if !(s.portOf (n + 1)).fpIn then portPairErr s1 n
      else (putPort s1 n { s1.portOf n with
          busy := true, frameAt := s.uptime, frameNs := s.now, line := [(s.uptime, true)], mode := .low, driver := 7 }).emit
        (.wire "enc_clock" n (encBits p * 0x10000 + encHalf p))

/-- ENCODER_FRAME. -/
def execEncoderFrame (port : Nat) (s : State) : Host.Outcome State Fault Refusal := done (encoderFrame port) s

/-- The instant at which bit k of a frame is sampled: its rising clock edge. -/
def encSample (p : Port) (k : Nat) : Nat := p.frameAt + encHalf p * (2 * k + 1)

/-- The bits of a frame, the most significant first. -/
def encRaw (p : Port) : Nat := (List.range (encBits p)).foldl (fun v k => 2 * v + b2n (levelAt p.line (encSample p k))) 0

/-- The instant by which the data line must be high again after the last bit. -/
def encLimit (p : Port) : Nat := encSample p (encBits p - 1) + wf p.pairCfg 31 24 * 1000

/-- The data line is high after the last bit and by the limit (DEDUCED, log entry 36). -/
def encReady (p : Port) : Bool :=
  let last := encSample p (encBits p - 1)
  levelAt p.line last || p.line.any fun e => e.2 && last < e.1 && e.1 ≤ encLimit p

/-- ENCODER_FRAME_END (R240, R248): the clock has made its cycles, and the data line is high again or its time has run out. -/
def encoderFrameEnd (n : Nat) (s : State) : State :=
  let p := s.portOf n
  if !p.busy || portMode s n != 7 || s.uptime < p.frameAt + 2 * encHalf p * encBits p || (!encReady p && s.uptime ≤ encLimit p) then s
  else
    let s1 := putPort s n { p with busy := false, line := [], mode := .high }
    if !encReady p then portPairErr s1 n
    else
      let v := encRaw p
      let s2 := s1.setPort n { s1.portOf n with pairData := wd (if wb p.pairCfg 23 then grayDecode (encBits p) v else v) }
      pushStamp (portPair s2 n) n p.frameNs false

/-- ENCODER_FRAME_END. -/
def execEncoderFrameEnd (port : Nat) (s : State) : Host.Outcome State Fault Refusal := done (encoderFrameEnd port) s

/-! ### UART (R249) -/

/-- The parity bit of a byte in a format: even or odd. -/
def parityBit (cfg : Word) (b : Byte) : Bool :=
  ((List.range 8).foldl (fun x i => x != b.getLsbD i) false) != (wf cfg 17 16 == 2)

/-- The bits of a byte on the line, in order: start, data least significant first, parity if any, stop bits. -/
def uartBits (cfg : Word) (b : Byte) : List Bool :=
  [false] ++ (List.range 8).map (fun i => b.getLsbD i) ++ (if wf cfg 17 16 = 0 then [] else [parityBit cfg b]) ++
    (if wb cfg 18 then [true, true] else [true])

/-- The number of bits of a format. -/
def uartLen (cfg : Word) : Nat := 10 + b2n (wf cfg 17 16 != 0) + b2n (wb cfg 18)

/-- The number that bits spell, the first lowest. -/
def bitsNum : List Bool → Nat
  | [] => 0
  | b :: bs => b2n b + 2 * bitsNum bs

/-- The instant at which bit k of the byte being received is sampled: its middle, from the start edge. -/
def uartSample (p : Port) (t0 k : Nat) : Nat := t0 + wf p.pairCfg 15 0 * k + wf p.pairCfg 15 0 / 2

/-- The received byte with its flags. -/
def uartByte (p : Port) (t0 : Nat) : UartByte :=
  let at_ (k : Nat) : Bool := levelAt p.line (uartSample p t0 k)
  let b := BitVec.ofNat 8 (bitsNum ((List.range 8).map fun i => at_ (i + 1)))
  { b, framing := !at_ (uartLen p.pairCfg - 1) || (wb p.pairCfg 18 && !at_ (uartLen p.pairCfg - 2))
    parity := wf p.pairCfg 17 16 != 0 && at_ 9 != parityBit p.pairCfg b, overrun := p.rxOvr }

/-- The receiver after a byte: the next one begins at the first falling edge since. -/
def uartNext (p : Port) (due : Nat) : Port :=
  let rest := (p.line.filter fun e => due < e.1).dropWhile (·.2)
  { p with line := rest, rxAt := rest.head?.map (·.1) }

/-- UART_RX_BYTE (R249): the middle of the last stop bit has passed. A received byte emits PAIR; one that finds the FIFO full is discarded
and the next one stored says so. -/
def uartRxByte (n : Nat) (s : State) : State :=
  let p := s.portOf n
  match p.rxAt with
  | none => s
  | some t0 =>
    let due := uartSample p t0 (uartLen p.pairCfg - 1)
    if 1023 < n || !portLive s n || portMode s n != 8 || !wb p.pairCfg 19 || s.uptime < due then s
    else if p.rx.length < 16 then
      portPair (s.setPort n { uartNext p due with rx := p.rx ++ [uartByte p t0], rxOvr := false }) n
    else portPair (s.setPort n { uartNext p due with rxOvr := true }) n

/-- UART_RX_BYTE. -/
def execUartRxByte (port : Nat) (s : State) : Host.Outcome State Fault Refusal := done (uartRxByte port) s

/-- The transmitter takes the byte at the head when it is enabled and idle. -/
def uartStart (p : Port) (now : Nat) : Port :=
  if p.txAt.isNone && wb p.pairCfg 20 && !p.tx.isEmpty then { p with txAt := some now } else p

/-- UART_TX_BYTE (R249): the byte at the head has been sent with its start, parity and stop bits, one bit every `divider` ns; the next one
starts. -/
def uartTxByte (n : Nat) (s : State) : State :=
  let p := s.portOf n
  match p.tx, p.txAt with
  | b :: rest, some t =>
    if !portLive s n || portMode s n != 8 || s.uptime < t + uartLen p.pairCfg * wf p.pairCfg 15 0 then s
    else
      (s.setPort n (uartStart { p with tx := rest, txAt := none } s.uptime)).emit (.wire "uart_tx" n (bitsNum (uartBits p.pairCfg b)))
  | _, _ => s

/-- UART_TX_BYTE. -/
def execUartTxByte (port : Nat) (s : State) : Host.Outcome State Fault Refusal := done (uartTxByte port) s

/-! ## Registers (R237, R243, R244, Tables 8.6–8.14) -/

/-- A write is ignored as a whole and cfg_reject is set (R237). -/
def cfgReject (s : State) (n : Nat) : State := s.setPort n { s.portOf n with int := (s.portOf n).int ||| 0x40 }

/-- A write of PORT_CFG (R235, R237). Of a slave port it changes filter and invert alone. -/
def writePortCfg (n : Nat) (v : Word) (s : State) : State :=
  let p := s.portOf n
  let m := wf v 31 28
  if ringTakes s n then cfgReject s n
  else if 9 ≤ m || (pairMode m && n % 2 = 1) then cfgReject s n
  else if portMode s n = 9 then s.setPort n { p with cfg := (p.cfg &&& 0xFDFF0000) ||| (v &&& 0x0200FFFF) }
  else
    let other := n + 1
    let before := portMode s other
    let s1 := s.setPort n { p with cfg := v &&& 0xFEFFFFFF }
    let s2 := if m = wf p.cfg 31 28 then s1 else enterMode s1 n m
    let s3 := if n % 2 = 0 && portMode s2 other != before then enterMode s2 other (portMode s2 other) else s2
    let s4 := if n % 2 = 0 && before = 0 && portMode s3 other != 0 then meetSlice s3 6 other else s3
    if m = 0 then s4 else meetSlice s4 6 n

/-- A write of OUT_CTRL (R242, R243): the level applies at once in OUTPUT; safe_clear ends the forced-safe latch. -/
def writeOutCtrl (n : Nat) (v : Word) (s : State) : State :=
  let p := s.portOf n
  let p1 := { p with outCtrl := v &&& 0x35, forced := p.forced && !wb v 3 }
  if portMode s n = 2 then driveMode (s.setPort n p1) n (if wb v 2 then lvl (wb v 0) else .z) 1
  else putPort s n p1

/-- The status of a push (R244): the first row of its table that holds. -/
def pushStatus (s : State) (n act : Nat) : Status :=
  let p := s.portOf n
  let m := portMode s n
  if m != 2 && m != 3 && m != 7 then .notReady
  else if (m = 2 && act = 3) || (m = 7 && act != 3) then .badParameter
  else if 4 ≤ p.sched.length then .busy
  else match p.sched.getLast? with
    | some e => if p.tLo.toNat + p.tHi.toNat * 0x100000000 < e.t then .badParameter else .ok
    | none => .ok

/-- A write of SCHED_CMD (R244): a flush comes before a push. -/
def writeSchedCmd (n : Nat) (v : Word) (s : State) : State :=
  let s1 := if wb v 30 then s.setPort n { s.portOf n with sched := [] } else s
  if !wb v 31 then s1
  else
    let p := s1.portOf n
    let st := pushStatus s1 n (wf v 1 0)
    if st = .ok then
      s1.setPort n { p with
        sched := p.sched ++ [{ t := p.tLo.toNat + p.tHi.toNat * 0x100000000, act := wf v 1 0, oneShot := wb v 2 }],
        headAt := if p.sched.isEmpty then s.now else p.headAt, schedSt := .ok }
    else s1.setPort n { p with schedSt := st }

/-- A write of PAIR_CFG: the fields of the mode, each in its range (Table 8.12). -/
def writePairCfg (n : Nat) (v : Word) (s : State) : State :=
  let p := s.portOf n
  match ownMode s n with
  | 6 => if wf v 1 0 = 3 then cfgReject s n else s.setPort n { p with pairCfg := v &&& 0x009FFFFF }
  | 7 => if wf v 31 24 = 0 || wf v 20 16 < 7 || wf v 15 0 < 40 || 5000 < wf v 15 0 then cfgReject s n
         else s.setPort n { p with pairCfg := v &&& 0xFF9FFFFF }
  | 8 => if wf v 17 16 = 3 || wf v 15 0 < 80 then cfgReject s n else
    let q := uartStart { p with pairCfg := v &&& 0x009FFFFF } s.uptime
    s.setPort n (if wb v 19 then q else { q with rxAt := none, line := [] })
  | _ => s.setPort n { p with pairCfg := v &&& 0xFF9FFFFF }

/-- A write of PAIR_DATA (R247, R249). -/
def writePairData (n : Nat) (v : Word) (s : State) : State :=
  let p := s.portOf n
  match portMode s n with
  | 6 => s.setPort n { p with pairData := v }
  | 8 => if p.tx.length < 16 then s.setPort n (uartStart { p with tx := p.tx ++ [v.extractLsb' 0 8] } s.uptime) else portPairErr s n
  | _ => s

/-- A write of register r of port n by an accessor that owns it. -/
def fpePut (acc : Accessor) (n r : Nat) (v : Word) (s : State) : State :=
  let p := s.portOf n
  match r with
  | 0x04 => writePortCfg n v s
  | 0x0C => writeOutCtrl n v s
  | 0x14 => s.setPort n { p with tLo := v }
  | 0x18 => s.setPort n { p with tHi := v }
  | 0x1C => writeSchedCmd n v s
  | 0x2C => if v == 1 then cfgReject s n else s.setPort n { p with pwmP := v }
  | 0x30 => s.setPort n { p with pwmH := v }
  | 0x34 => writePairCfg n v s
  | 0x38 => writePairData n v s
  | 0x3C => (s.setPort n { p with int := p.int &&& ~~~ v }).clearCopy (acode acc) 0x7003C n (v &&& 8)
  | _ => s

/-- The value of PAIR_DATA, and the state after a read: a UART read pops a byte (Table 8.13). -/
def readPairData (n : Nat) (s : State) : Word × State :=
  let p := s.portOf n
  if portMode s n = 8 then
    match p.rx with
    | [] => (0, s)
    | b :: rest => (wd (0x80000000 + b2n b.framing * 0x40000000 + b2n b.parity * 0x20000000 + b2n b.overrun * 0x10000000 +
        b.b.toNat), s.setPort n { p with rx := rest })
  else (p.pairData, s)

/-- A read of TS_LO pops the oldest timestamp; the rest of it is held for the accessor (R241). -/
def readTsLo (acc : Accessor) (n : Nat) (s : State) : Word × State :=
  let a := acode acc
  let p := s.portOf n
  match p.ts with
  | [] => (0, s.setCopy a 0x70020 0 (s.copy a 0x70020 0 &&& 0x7FFFFFFF))
  | t :: rest =>
    (wd t.t, ((s.setPort n { p with ts := rest }).setCopy a 0x70028 0 (wd (t.t / 0x100000000))).setCopy a 0x70020 0
      (wd (0x80000000 + b2n t.rising * 0x40000000 + b2n t.ovf * 0x20000000)))

/-- A read of register r of port n by an accessor that may read it. -/
def fpeGet (acc : Accessor) (n r : Nat) (s : State) : Word × State :=
  let a := acode acc
  let p := s.portOf n
  match r with
  | 0x04 => (setBits p.cfg 31 28 (portMode s n), s)
  | 0x0C => (p.outCtrl, s)
  | 0x10 => (wd (b2n p.forced * 0x80000000 + b2n p.pad * 0x40000000 + driverCode s n p * 0x8000000 +
      p.sched.length * 0x1000000 + scode p.schedSt * 0x10000 + p.late), s)
  | 0x14 => (p.tLo, s)
  | 0x18 => (p.tHi, s)
  | 0x20 => (s.copy a 0x70020 0 ||| wd (p.ovfCnt * 256 + p.ts.length), s)
  | 0x24 => readTsLo acc n s
  | 0x28 => (s.copy a 0x70028 0, s)
  | 0x2C => (p.pwmP, s)
  | 0x30 => (p.pwmH, s)
  | 0x34 => (match ownMode s n with
      | 6 => setBits p.pairCfg 31 24 p.errCnt
      | 8 => setBits p.pairCfg 31 24 0
      | _ => p.pairCfg, s)
  | 0x38 => readPairData n s
  | 0x3C => (p.int ||| s.copy a 0x7003C n, s)
  | _ => (0, s)

/-- The MC reads and writes every instance, JTAG reads with its view; any other accessor what it owns (R29, R251, R475). -/
def mayTouch (acc : Accessor) (o : Owner) : Bool := adom acc == .mc || (adom acc == o && o != .unowned)

/-- The selected port of an accessor. -/
def portIx (s : State) (acc : Accessor) : Nat := wf (s.copy (acode acc) 0x70000 0) 9 0

/-- FPE.INT_GROUPS (Table 8.6): owned groups of the selected half with a pending enabled interrupt. -/
def intGroups (s : State) (acc : Accessor) : Nat :=
  let half := portIx s acc / 512
  (List.range 32).foldl (fun n i =>
    let g := 32 * half + i
    if mayTouch acc (s.owner (136 + g)) &&
        (s.port.any fun e => e.1 / 16 == g && portPending s (acode acc) e.1 e.2) then n + 2 ^ i else n) 0

/-- A read of an FPE register through window 0 or the CSR endpoint. -/
def fpeRead (acc : Accessor) (off : Nat) (s : State) : Word × State :=
  let n := portIx s acc
  match off with
  | 0x00 => (s.copy (acode acc) 0x70000 0, s)
  | 0x08 => (wd (intGroups s acc), s)
  | _ => if mayTouch acc (s.owner (resPort n)) then fpeGet acc n off s else (0, s)

/-- A write of an FPE register. -/
def fpeWrite (acc : Accessor) (off : Nat) (v : Word) (s : State) : State :=
  let n := portIx s acc
  match off with
  | 0x00 => s.setCopy (acode acc) 0x70000 0 (v &&& 0x3FF)
  | _ => if mayTouch acc (s.owner (resPort n)) then fpePut acc n off v s else s

/-- A word of the endpoint of a field-port group (R236): offset 0x40 i + r is register r of port 16 g + i. -/
def groupRead (acc : Accessor) (g off : Nat) (s : State) : Word × State :=
  if off % 0x40 = 0 || off % 0x40 = 8 then (0, s) else fpeGet acc (16 * g + off / 0x40) (off % 0x40) s

def groupWrite (acc : Accessor) (g off : Nat) (v : Word) (s : State) : State :=
  if off % 0x40 = 0 || off % 0x40 = 8 then s else fpePut acc (16 * g + off / 0x40) (off % 0x40) v s

/-- TS_LO_READ (R241). -/
def execTsLoRead (acc : Accessor) (s : State) : Host.Outcome State Fault Refusal :=
  done (fun s => let r := fpeRead acc 0x24 s; r.2.emit (.words [r.1])) s

/-- SCHED_PUSH (R244). -/
def execSchedPush (acc : Accessor) (v : Word) (s : State) : Host.Outcome State Fault Refusal :=
  done (fun s => if wb v 31 then fpeWrite acc 0x1C v s else s) s

/-- SCHED_FLUSH (R244). -/
def execSchedFlush (acc : Accessor) (v : Word) (s : State) : Host.Outcome State Fault Refusal :=
  done (fun s => if wb v 30 then fpeWrite acc 0x1C v s else s) s

/-- MODE_CHANGE (R237): a write of PORT_CFG. -/
def execModeChange (acc : Accessor) (v : Word) (s : State) : Host.Outcome State Fault Refusal :=
  done (fpeWrite acc 0x04 v) s

/-- LEVEL_WRITE (R242): a write of OUT_CTRL. -/
def execLevelWrite (acc : Accessor) (v : Word) (s : State) : Host.Outcome State Fault Refusal :=
  done (fpeWrite acc 0x0C v) s

/-- SAFE_CLEAR (R243): a write of OUT_CTRL whose safe_clear is 1. -/
def execSafeClear (acc : Accessor) (v : Word) (s : State) : Host.Outcome State Fault Refusal :=
  done (fun s => if wb v 3 then fpeWrite acc 0x0C v s else s) s

/-- PAIR_DATA_WRITE (R247, R249). -/
def execPairDataWrite (acc : Accessor) (v : Word) (s : State) : Host.Outcome State Fault Refusal :=
  done (fpeWrite acc 0x38 v) s

/-- PAIR_DATA_READ (R249). -/
def execPairDataRead (acc : Accessor) (s : State) : Host.Outcome State Fault Refusal :=
  done (fun s => let r := fpeRead acc 0x38 s; r.2.emit (.words [r.1])) s

end Sys2Proof.Machine
end

