-- ==== Sys2Proof/Machine/Pci.lean ====
section
/-! DEFINITION. The PCI Express endpoints: links, configuration requests, host loss, window 2 and its translation, outbound
requests, MSI-X, registers (R336–R345, R353). -/
namespace Sys2Proof.Machine
open Sys2Proof

/-- Endpoint ID of PCI_p. -/
def pciId (p : Nat) : Nat := 0x110 + p

/-- Sets bits of PCI.INT_STATUS in the endpoint's own domain's copy (DEDUCED, log entry 18). -/
def pciInt (s : State) (p : Nat) (bits : Word) : State := s.raiseFor [p] 0xA0040 p bits

/-! ## MSI-X (R343) -/

/-- Pending vectors that are no longer masked are sent. -/
def sendPending (s : State) (p : Nat) : State :=
  (List.range 64).foldl (fun u v =>
    let c := u.pciOf p
    if c.pba.getLsbD v && c.msixEn && !c.mask.getLsbD v then (u.setPci p { c with pba := c.pba &&& ~~~ (1#64 <<< v) }).vector p v
    else u) s

/-- A dword of the MSI-X table or of the PBA, at its offset in page 0x00FF_0000. -/
def msixRead (c : Pci) (off : Nat) : Word :=
  if off < 0x400 then
    if off / 4 % 4 = 3 then wd (b2n (c.mask.getLsbD (off / 16))) else SMap.get dWord c.msix (off / 16 * 4 + off / 4 % 4)
  else if off = 0x8000 then c.pba.extractLsb' 0 32
  else if off = 0x8004 then c.pba.extractLsb' 32 32
  else 0

/-- A write of the MSI-X table: a vector that is unmasked is sent if it pends. -/
def msixWrite (p off : Nat) (v : Word) (s : State) : State :=
  let c := s.pciOf p
  let n := off / 16
  if off < 0x400 then
    if off / 4 % 4 = 3 then
      let b : BitVec 64 := 1#64 <<< n
      sendPending (s.setPci p { c with mask := if wb v 0 then c.mask ||| b else c.mask &&& ~~~ b }) p
    else s.setPci p { c with msix := SMap.set dWord c.msix (n * 4 + off / 4 % 4) v }
  else s

/-! ## Links and configuration requests (R337, R345) -/

/-- PERST_DEASSERT (R337): training may begin. -/
def perstDeassert (p : Nat) (s : State) : State := if p < 4 then s.setPci p { s.pciOf p with perst := false } else s

/-- PERST_DEASSERT. -/
def execPerstDeassert (p : Nat) (s : State) : Host.Outcome State Fault Refusal := done (perstDeassert p) s

/-- The muzzle with cause 4 ends (R215). -/
def clearLinkMuzzle (s : State) (p : Nat) : State :=
  let m := s.mapOf (pciId p)
  if m.state == .muzzled && m.cause = 4 then
    s.setMap (pciId p) { m with state := .live, cause := 0 }
  else s

/-- A Gen and a width that exist and that LINK_CTRL permits (Table 11.11) (DEDUCED, log entry 67). -/
def linkAllowed (c : Pci) (gen width : Nat) : Bool :=
  (width == 1 || width == 2 || width == 4 || width == 8) && width ≤ wf c.linkCtrl 11 8 && 1 ≤ gen && gen ≤ wf c.linkCtrl 3 0

/-- The quad whose reference a PCI block takes (R333). -/
def pciQuad (p : Nat) : Nat := match p with | 0 => 0 | 1 => 2 | 2 => 6 | _ => 8

/-- LINK_UP (R333, R337, R345): never without the block's reference, nor before boot step 2 has ended and PERST is released (DEDUCED, log entry 67). -/
def linkUp (p gen width : Nat) (s : State) : State :=
  let c := s.pciOf p
  if 4 ≤ p || c.up || c.perst || c.raw || !s.boot.mcUp || !(s.quadOf (pciQuad p)).ref || !linkAllowed c gen width then s
  else pciInt (clearLinkMuzzle (s.setPci p { c with up := true, everUp := true, gen := gen, width := width }) p) p 1

/-- LINK_UP. -/
def execLinkUp (p gen width : Nat) (s : State) : Host.Outcome State Fault Refusal := done (linkUp p gen width) s

/-- The bits of a BAR that a host can set (Table 11.6). -/
def barMask : Nat → Nat
  | 0 => 0xFF000000 | 2 => 0xFFFF0000 | 4 => 0 | 5 => 0xFFFFFFF0 | _ => 0

/-- CONFIG_REQUEST (R337): answered while the link is up. -/
def configRequest (p : Nat) (r : CfgReq) (s : State) : State :=
  let c := s.pciOf p
  if 4 ≤ p || !c.up then s
  else match r with
    | .setBar n v => s.setPci p { c with bars := SMap.set dNat c.bars n (v &&& barMask n) }
    | .setBusMaster on => s.setPci p { c with bme := on }
    | .setMsixEnable on => sendPending (s.setPci p { c with msixEn := on }) p
    | .setD3hot on => s.setPci p { c with d3 := on }
    | .readId => s.emit (.words [0x40961F3A, 0x118000A1, wd (p * 0x10000 + 0x1F3A)])

/-- CONFIG_REQUEST. -/
def execConfigRequest (p : Nat) (r : CfgReq) (s : State) : Host.Outcome State Fault Refusal := done (configRequest p r) s

/-! ## Host loss (R344) -/

/-- The MAC ports of an owner. -/
def macsOf (s : State) (o : Owner) : List Nat := (List.range 16).filter fun m => s.owner (resMac m) == o

/-- A MAC port is disabled, with its queue pointers reset (Table 11.8). -/
def disableMac (s : State) (m : Nat) : State :=
  let g := s.macOf m
  s.setMac m { g with
    ctrl := g.ctrl &&& 0x7FFFFFFF
    tx := { g.tx with head := 0, tail := 0 }
    rx := { g.rx with head := 0, tail := 0 } }

/-- Host-loss policy SAFE (Table 11.8). -/
def policySafe (s : State) (p : Nat) : State :=
  let o := ownerOf p
  let s1 := endTargets s o
  let s2 := (regionsOf s1 o).foldl (fun u r =>
    let v := sealBorder (u.setRegion r { u.regionOf r with safeDec := true }) r
    if r < 128 then v.emit (.wire "icp_decouple" r 1) else v) s1
  let s3 := (ringsOf s2 o).foldl (fun u r => pumpCtrl (safeAll u r) r) (forceGroups s2 o)
  (macsOf s3 o).foldl (fun u m => u.setMac m { u.macOf m with txHalt := true }) s3

/-- Host-loss policy RESET (Table 11.8). -/
def policyReset (s : State) (p : Nat) : State :=
  let s1 := domainReset s p
  (macsOf s1 (ownerOf p)).foldl disableMac s1

/-- Requests that the host had issued: their responses will be discarded, and that is recorded as TIMEOUT. -/
def dropReads (s : State) (p : Nat) : State :=
  let c := s.pciOf p
  let first := c.rds.findSome? fun (e : Nat × Option W2Read) => e.2
  let s1 := match first with
    | some r => pciErr s p 3 .timeout r.entry r.off
    | none => s
  forgetOut (s1.setPci p { s1.pciOf p with rds := [] }) (pciId p) 7

/-- Outbound requests to the host complete DEST_MUZZLED. -/
def dropOutbound (s : State) (p : Nat) : State :=
  let s1 := (s.pciOf p).ob.foldl (fun u (e : Nat × Option Pkt) =>
    match e.2 with | some q => respond u q .destMuzzled [] | none => u) s
  s1.setPci p { s1.pciOf p with ob := [] }

/-- The function's configuration space as the link event leaves it (Table 1.5) (DEDUCED, log entry 42)
(PRESUMED, log entry 69). -/
def resetFunction (c : Pci) (cause : Nat) : Pci :=
  { c with
    up := false, perst := c.perst || cause == 1, gen := 0, width := 0, bme := false, msixEn := false, d3 := false, bars := []
    mask := 0xFFFFFFFFFFFFFFFF, pba := 0, msix := [], lost := true, cause := if c.lost then c.cause else cause, losses := sat 0xFFFFFFFF c.losses }

/-- HOST_LOSS (R344): cause 1 PERST_N, 2 hot reset, 3 link down, 4 FLR. A further loss before release is counted and
changes nothing more (R345). After an FLR the endpoint counts as down until its next LINK_UP (DEDUCED, log entry 42). -/
def hostLoss (p cause : Nat) (s : State) : State :=
  let c := s.pciOf p
  if 4 ≤ p || cause = 0 || 4 < cause || (if cause = 1 then c.perst else !c.up) then s
  else
    let s1 := dropOutbound (dropReads s p) p
    let s2 := endSessions (s1.setPci p (resetFunction (s1.pciOf p) cause)) (ownerOf p)
    let s3 := pciInt (linkMuzzle s2 p) p 2
    let s4 := s3.post [p] (8 + p) .ok 1 cause p
    if c.lost then s4
    else match c.policy with
      | 1 => policySafe s4 p
      | 2 => policyReset s4 p
      | _ => s4

/-- HOST_LOSS. -/
def execHostLoss (p cause : Nat) (s : State) : Host.Outcome State Fault Refusal := done (hostLoss p cause) s

/-- A write of PCI.HOST_LOSS: release ends the SAFE decoupling of the host's regions (R345). -/
def release (p : Nat) (v : Word) (s : State) : State :=
  let c := s.pciOf p
  if wb v 0 && c.up && c.lost then
    let s1 := s.setPci p { c with lost := false }
    let s2 := ((regionsOf s1 (ownerOf p)).filter fun r => (s1.regionOf r).safeDec).foldl (fun u r =>
      let v := openLatches (u.setRegion r { u.regionOf r with safeDec := false })
      if r < 128 && !(u.regionOf r).isolated then v.emit (.wire "icp_decouple" r 0) else v) s1
    (macsOf s2 (ownerOf p)).foldl (fun u m => u.setMac m { u.macOf m with txHalt := false }) s2
  else s

/-! ## Translation (R339) -/

/-- The pages of an entry. -/
def xltPages (x : Xlt) : Nat := if x.pages = 0 then 16777216 else x.pages

/-- Whether two spans of pages overlap. -/
def overlaps (a n b m : Nat) : Bool := a < b + m && b < a + n

/-- R339: the entry would reach beyond 64 GiB or overlap another valid entry. -/
def xltRefused (c : Pci) (i : Nat) (x : Xlt) : Bool :=
  16777216 < x.bar + xltPages x ||
    (List.range 32).any fun j => j != i && (SMap.get dXlt c.xlts j).valid &&
      overlaps x.bar (xltPages x) (SMap.get dXlt c.xlts j).bar (xltPages (SMap.get dXlt c.xlts j))

/-- A write of XLT_CTRL applies the staged base and target, or is refused. -/
def writeXlt (p : Nat) (v : Word) (s : State) : State :=
  let c := s.pciOf p
  let i := c.xltIdx
  let x : Xlt := { valid := wb v 31, read := wb v 30, write := wb v 29, pages := wf v 23 0, bar := c.stBar,
                   tgt := wf c.stLo 31 12 * 4096 + wf c.stHi 15 0 * 0x100000000 }
  if x.valid && xltRefused c i x then
    pciInt (s.setPci p { c with xlts := SMap.set dXlt c.xlts i { SMap.get dXlt c.xlts i with rej := true } }) p 8
  else s.setPci p { c with xlts := SMap.set dXlt c.xlts i x }

/-! ## Window 2 (R339, R340) -/

/-- The entry that an offset lies in. -/
def xltFor (c : Pci) (off : Nat) : Option Nat :=
  (List.range 32).find? fun i =>
    let x := SMap.get dXlt c.xlts i
    x.valid && x.bar ≤ off / 4096 && off / 4096 < x.bar + xltPages x

/-- A request of the host to the network. -/
def hostPkt (p : Nat) (op : PktOp) (a len tag : Nat) (data : List Byte) : Pkt :=
  { op, src := pciId p, gen := 0, epoch := 0, dom := ownerOf p, dst := a % 0x1000000000000, len, tag, urgent := false, mask := 0,
    status := .ok, data }

/-- The NI tags that are free. -/
def freeTags (s : State) (id : Nat) : List Nat := (List.range 256).filter fun t => (outReq s id t).isNone

/-- Sends the parts of a write in ascending order. -/
def sendWrites (p : Nat) : List (Nat × Nat) → List Byte → State → State
  | [], _, s => s
  | (a, k) :: ps, data, s => sendWrites p ps (data.drop k) (inject s (hostPkt p .wrP a k 0 (data.take k)))

/-- A read that passed translation: its parts go out under free NI tags, or wait until there are enough. -/
def sendRead (p i off tag len a : Nat) (s : State) : State :=
  let ps := cut 18 a len
  let ts := freeTags s (pciId p)
  if ts.length < ps.length || (SMap.get dNone (s.pciOf p).rds tag).isSome then s
  else
    let r : W2Read := { entry := i, off, parts := (ts.zip ps).map fun x => (x.1, x.2.2) }
    let s1 := s.setPci p { s.pciOf p with rds := SMap.set dNone (s.pciOf p).rds tag (some r) }
    (ts.zip ps).foldl (fun u x => inject u (hostPkt p .rd x.2.1 x.2.2 x.1 [])) s1

/-- WINDOW2_TLP (R337, R339, R340). A device entry past its votes has closed the inbound side, and takes no TLP (R427). -/
def window2 (p off : Nat) (t : TlpOp2) (s : State) : State :=
  let c := s.pciOf p
  let refuse (u : State) : State := match t with | .read tag _ => u.emit (.cpl p tag .ur []) | .write _ => u
  if 4 ≤ p || !c.up || sleepNear s then s
  else if c.d3 || !s.boot.done then refuse s
  else match xltFor c off with
    | none => refuse (pciErr s p 1 .ok 0 off)
    | some i =>
      let x := SMap.get dXlt c.xlts i
      let a := x.tgt + (off - x.bar * 4096)
      match t with
      | .read tag len =>
        if !x.read then refuse (pciErr s p 2 .ok i off)
        else if isMuzzled s (pciId p) then (pciErr (bump s (pciId p) 2) p 3 .destMuzzled i off).emit (.cpl p tag .ca [])
        else sendRead p i off tag len a s
      | .write data =>
        if !x.write then pciErr s p 2 .ok i off
        else if isMuzzled s (pciId p) then bump s (pciId p) 2
        else sendWrites p (cut (data.length + 1) a data.length) data s

/-- WINDOW2_TLP. -/
def execWindow2Tlp (p off : Nat) (t : TlpOp2) (s : State) : Host.Outcome State Fault Refusal := done (window2 p off t) s

/-! ## Outbound requests (R342) -/

/-- The lowest free tag of an endpoint's outbound reads. -/
def obTag (c : Pci) : Option Nat := (List.range 256).find? fun t => (SMap.get dNone c.ob t).isNone

/-- A write that has reached PCI_p: to the host, or a trigger of an MSI-X message. -/
def outboundWrite (p off : Nat) (bs : List Byte) (s : State) : Status × State :=
  if !(s.pciOf p).d3 && 0x7FFFFFF000 ≤ off && off < 0x7FFFFFF004 then
    let v := leAt bs 0 1 % 64
    if !(s.pciOf p).bme then (.refused, s)
    else if off != 0x7FFFFFF000 || bs.length != 4 || v < 2 then (.badParameter, s)
    else (.ok, s.vector p v)
  else if obStatus s p off bs.length != .ok then (obStatus s p off bs.length, s)
  else (.ok, s.emit (.tlp p true 0 (obHost s p off) bs.length bs))

/-- A request that has reached PCI_p. A read for which no outbound tag is free waits on the network. -/
def outbound (p : Nat) (q : Pkt) (s : State) : State :=
  if q.op == .rd then
    if obStatus s p (pktOff q) q.len != .ok then reply s q (obStatus s p (pktOff q) q.len) []
    else match obTag (s.pciOf p) with
      | none => { s with noc := { s.noc with flight := q :: s.noc.flight } }
      | some t =>
        (s.setPci p { s.pciOf p with
          ob := SMap.set dNone (s.pciOf p).ob t (some q), obAt := SMap.set dNat (s.pciOf p).obAt t s.uptime }).emit
          (.tlp p false t (obHost s p (pktOff q)) q.len [])
  else
    let u := outboundWrite p (pktOff q) (q.data.take q.len) s
    reply u.2 q u.1 []

/-- An outbound read ends. -/
def endOutbound (p tag : Nat) (st : Status) (data : List Byte) (s : State) : State :=
  match SMap.get dNone (s.pciOf p).ob tag with
  | none => s
  | some q => respond (s.setPci p { s.pciOf p with ob := SMap.set dNone (s.pciOf p).ob tag none }) q st data

/-- HOST_COMPLETION (R342): UR or CA answers the read with REFUSED and zero data. -/
def execHostCompletion (p tag : Nat) (ok : Bool) (data : List Byte) (s : State) : Host.Outcome State Fault Refusal :=
  done (endOutbound p tag (if ok then .ok else .refused) (if ok then data else [])) s

/-- OUTBOUND_TIMEOUT (R342): 50 ms without a completion. -/
def outboundTimeout (p tag : Nat) (s : State) : State :=
  if SMap.get dNat (s.pciOf p).obAt tag + 50000000 ≤ s.uptime then endOutbound p tag .timeout [] s else s

/-- OUTBOUND_TIMEOUT. -/
def execOutboundTimeout (p tag : Nat) (s : State) : Host.Outcome State Fault Refusal := done (outboundTimeout p tag) s

/-! ## Registers (R353, Tables 11.11–11.13) -/

/-- The endpoint that an accessor's EP_INDEX selects. -/
def pciIx (s : State) (acc : Accessor) : Nat := wf (s.copy (acode acc) 0xA0000 0) 1 0

/-- A read of a register of PCI_p. -/
def pciReg (acc : Accessor) (p off : Nat) (s : State) : Word :=
  let c := s.pciOf p
  let x := SMap.get dXlt c.xlts c.xltIdx
  match off with
  | 0x04 => wd (b2n c.up * 0x80000000 + b2n c.bme * 0x40000000 + b2n c.msixEn * 0x20000000 + c.gen * 0x10000 +
      c.width * 0x100 + b2n c.d3 * 3)
  | 0x08 => c.linkCtrl
  | 0x0C => wd (b2n c.up * 0x80000000 + b2n c.lost * 0x40000000 + c.policy * 0x10000000 + c.cause * 0x1000000)
  | 0x10 => wd c.losses
  | 0x14 => wd c.xltIdx
  | 0x18 => wd (b2n x.valid * 0x80000000 + b2n x.read * 0x40000000 + b2n x.write * 0x20000000 + b2n x.rej * 0x10000000 + x.pages)
  | 0x1C => wd c.stBar
  | 0x20 => c.stLo
  | 0x24 => c.stHi
  | 0x28 => c.obLo
  | 0x2C => c.obHi
  | 0x30 => wd c.obLimit
  | 0x34 => c.errLog
  | 0x38 => c.errLo
  | 0x3C => c.errHi
  | 0x40 => s.copy (acode acc) 0xA0040 p
  | 0x44 => s.copy (acode acc) 0xA0044 p
  | _ => 0

/-- LINK_CTRL holds a width and a Gen that exist. -/
def linkCtrlOk (v : Word) : Bool :=
  let w := wf v 11 8
  (w = 1 || w = 2 || w = 4 || w = 8) && 1 ≤ wf v 3 0 && wf v 3 0 ≤ 5

/-- A write of a register of PCI_p. -/
def pciPut (acc : Accessor) (p off : Nat) (v : Word) (s : State) : State :=
  let c := s.pciOf p
  match off with
  | 0x08 => if linkCtrlOk v then s.setPci p { c with linkCtrl := v &&& 0xF0F } else pciInt s p 0x10
  | 0x0C => release p v s
  | 0x14 => s.setPci p { c with xltIdx := wf v 4 0 }
  | 0x18 => writeXlt p v s
  | 0x1C => s.setPci p { c with stBar := wf v 23 0 }
  | 0x20 => s.setPci p { c with stLo := v &&& 0xFFFFF000 }
  | 0x24 => s.setPci p { c with stHi := v &&& 0xFFFF }
  | 0x28 => s.setPci p { c with obLo := v &&& 0xFFFFF000 }
  | 0x2C => s.setPci p { c with obHi := v }
  | 0x30 => s.setPci p { c with obLimit := wf v 25 0 }
  | 0x40 => s.clearCopy (acode acc) 0xA0040 p v
  | 0x44 => s.setCopy (acode acc) 0xA0044 p (v &&& 0x1F)
  | _ => s

/-- A read of a PCI register: an endpoint's are its own domain's. -/
def pciRead (acc : Accessor) (off : Nat) (s : State) : Word :=
  if off = 0 then s.copy (acode acc) 0xA0000 0
  else if mayTouch acc (ownerOf (pciIx s acc)) then pciReg acc (pciIx s acc) off s else 0

/-- A write of a PCI register. -/
def pciWrite (acc : Accessor) (off : Nat) (v : Word) (s : State) : State :=
  if off = 0 then s.setCopy (acode acc) 0xA0000 0 (v &&& 3)
  else if mayTouch acc (ownerOf (pciIx s acc)) then pciPut acc (pciIx s acc) off v s else s

/-- XLT_CTRL (R339). -/
def execXltCtrl (acc : Accessor) (v : Word) (s : State) : Host.Outcome State Fault Refusal := done (pciWrite acc 0x18 v) s
/-- HOST_LOSS_RELEASE (R345). -/
def execHostLossRelease (acc : Accessor) (v : Word) (s : State) : Host.Outcome State Fault Refusal := done (pciWrite acc 0x0C v) s

end Sys2Proof.Machine
end

