-- ==== Sys2Proof/Machine/Timebase.lean ====
section
/-! DEFINITION. The device timebase: its discipline, steps, pulses and registers (R252–R261). -/
namespace Sys2Proof.Machine
open Sys2Proof

/-! ## Steps (R258) -/

/-- A signed 64-bit value as its bits. -/
def bits64 (i : Int) : Nat := (i % 18446744073709551616).toNat

/-- A ring after a step: the CYCLE then due leaves at its instant measured in PCLK cycles, with the step flag (R303). -/
def stepRing (old new : Nat) (g : Ring) : Ring :=
  if g.state == .running then { g with sNext := g.sNext + new - old, stepped := true } else g

/-- A MAC port after a step: its gate list restarts at the next boundary (R351). -/
def stepMac (m : Mac) : Mac := if m.gclEn then { m with gateRe := true } else m

/-- The DTB is stepped to `v` (in units of 2^-44 ns): the step is counted, recorded, and told to every accessor and
domain. -/
def dtbStep (s : State) (v : Nat) : State :=
  let old := s.now
  let dtb := v % 2 ^ 108
  let new := dtb >>> 44
  let d : Int := (new : Int) - (old : Int)
  let s1 := { s with
    tbs := { Tbs.note s.tbs s.uptime with dtb := dtb, steps := sat 0xFFFFFFFF s.tbs.steps, lastStep := d }
    port := s.port.map (fun (e : Nat × Port) => (e.1, stepPort old new e.2))
    mac := s.mac.map (fun (e : Nat × Mac) => (e.1, stepMac e.2))
    uan := { s.uan with rings := s.uan.rings.map (fun (e : Nat × Ring) => (e.1, stepRing old new e.2)) } }
  (s1.raiseAll 0x130028 0 0x10).post allDomains 0x16 .ok 1 0 (bits64 d)

/-! ## Discipline states (R254–R256) -/

/-- The discipline enters HOLDOVER. -/
def holdover (s : State) : State :=
  if s.tbs.state == .holdover then s
  else (({ s with tbs := { s.tbs with state := .holdover, good := 0 } }).raiseAll 0x130028 0 2).post allDomains 0x16 .ok 3 0 0

/-- The discipline reaches LOCKED; an estimate made at a wake ends (R433). -/
def locked (s : State) : State :=
  if s.tbs.state == .locked then s
  else (({ s with tbs := { s.tbs with state := .locked, est := false, aclkEst := false } }).raiseAll 0x130028 0 1).post
    allDomains 0x16 .ok 4 0 0

/-- REF_LOST (R253, R254): while the timebase PLL does not run, only the pin goes quiet. -/
def refLost (s : State) : State :=
  let s1 := { s with tbs := { s.tbs with ref := false } }
  if s.tbs.run && s.tbs.ref then holdover ((s1.raiseAll 0x130028 0 8).post allDomains 0x16 .ok 2 0 0) else s1

/-- REF_LOST. -/
def execRefLost (s : State) : Host.Outcome State Fault Refusal := done refLost s

/-- REF_RETURN (R254): the PLL relocks, and HOLDOVER ends; the DTB value does not jump (DEDUCED, log entry 40). -/
def refReturn (s : State) : State :=
  if s.tbs.run && !s.tbs.ref then
    { s with tbs := { s.tbs with
      ref := true, good := 0, state := if s.tbs.source = 0 then .free else .acquiring, ppsAt := s.uptime, syncAt := s.uptime } }
  else { s with tbs := { s.tbs with ref := true } }

/-- REF_RETURN. -/
def execRefReturn (s : State) : Host.Outcome State Fault Refusal := done refReturn s

/-- The largest rate adjustment, 500 ppm in units of 2^-40. -/
def rateMax : Int := 549755813

/-- A rate within the limit (R256). -/
def rateClamp (r : Int) : Int := if r < -rateMax then -rateMax else if rateMax < r then rateMax else r

/-- A rate adjustment that the manual leaves open within its limit: the loop by which an offset is slewed (DESIGN CHOICE, log entry 22). -/
def freeRate (n : Nat) : Int := ((Config.freeBits n).toNat : Int) % (2 * rateMax + 1) - rateMax

/-- A signed offset as TBS.OFFSET holds it. -/
def offsetClamp (i : Int) : Int := if i < -2147483647 then -2147483647 else if 2147483647 < i then 2147483647 else i

/-- A reference instant is accepted: offset, run of good instants, LOCKED after `need` of them within `bound`; an offset
above 1 ms is removed by a step in ACQUIRING, a smaller one is slewed at `rate` (R255, R256). -/
def refInstant (s : State) (off : Int) (bound need : Nat) (rate : Int) : State :=
  let good := if off.natAbs ≤ bound then sat 255 s.tbs.good else 0
  let s1 := { s with tbs := { s.tbs with
    offset := offsetClamp off, accepted := sat 0xFFFF s.tbs.accepted, missRun := 0, good := if s.tbs.ref then good else 0 } }
  if !s.tbs.ref then s1
  else if 1000000 < off.natAbs && s.tbs.state == .acquiring then
    dtbStep s1 (((s.tbs.dtb : Int) - off * 17592186044416) % (2 ^ 108 : Int)).toNat
  else
    let s2 := { s1 with tbs := { Tbs.note s1.tbs s.uptime with rate := rateClamp rate } }
    if need ≤ good then locked s2 else s2

/-- The DTB less its nearest whole second. -/
def secondOffset (t : Nat) : Int := if t % 1000000000 ≤ 500000000 then ((t % 1000000000 : Nat) : Int) else ((t % 1000000000 : Nat) : Int) - 1000000000

/-- A TIME_SET that waited applies its value (R257). -/
def applySet (s : State) : State :=
  match s.tbs.setPend with
  | none => s
  | some v =>
    let s1 := dtbStep { s with tbs := { s.tbs with setPend := none, setCmd := none, est := false, aclkEst := false } }
      (v * 17592186044416)
    endCmd? (s.tbs.setCmd.map fun x => ⟨x.1, x.2⟩) .ok 0 [wd v, wd (v / 0x100000000)] s1

/-- PPS_EDGE (R255): with TB_PPS_IN as source a TIME_SET that waits is applied and the offset steers the phase. -/
def ppsEdge (s : State) : State :=
  let s0 := { s with tbs := { s.tbs with pps := true, ppsAt := s.uptime } }
  if s.tbs.run && s.tbs.source = 1 then
    let s1 := applySet s0
    refInstant { s1 with free := s1.free + 1 } (secondOffset s1.now) 20 3 (freeRate s1.free)
  else s0

/-- PPS_EDGE. -/
def execPpsEdge (s : State) : Host.Outcome State Fault Refusal := done ppsEdge s

/-- SYNC_MESSAGE (R255): the grandmaster's time at a Sync of the selected port, and the rate that the end station sets
from it (IEEE 802.1AS leaves its servo open). -/
def syncMessage (macPort gmNs : Nat) (rate : Int) (s : State) : State :=
  if s.tbs.run && s.tbs.source = 2 && s.tbs.macPort = macPort && (s.macOf macPort).up then
    refInstant { s with tbs := { s.tbs with syncAt := s.uptime } } ((s.now : Int) - (gmNs : Int)) 100 8 rate
  else s

/-- SYNC_MESSAGE. -/
def execSyncMessage (macPort gmNs : Nat) (rate : Int) (s : State) : Host.Outcome State Fault Refusal :=
  done (syncMessage macPort gmNs rate) s

/-- PPS_TIMEOUT (R255): 1.1 s have passed without an edge, the second time in succession after 1.1 s more; that puts TB_PPS_IN
discipline in HOLDOVER. -/
def ppsTimeout (s : State) : State :=
  let s0 := { s with tbs := { s.tbs with pps := false, ppsAt := s.uptime } }
  if s.uptime < s.tbs.ppsAt + 1100000000 then s
  else if s.tbs.run && s.tbs.source = 1 then
    let s1 := ({ s0 with tbs := { s0.tbs with
      missed := sat 0xFFFF s.tbs.missed, missRun := sat 255 s.tbs.missRun, good := 0 } }).raiseAll 0x130028 0 4
    if 1 ≤ s.tbs.missRun then holdover s1 else s1
  else s0

/-- PPS_TIMEOUT. -/
def execPpsTimeout (s : State) : Host.Outcome State Fault Refusal := done ppsTimeout s

/-- SYNC_TIMEOUT (R255): no Sync for 3 of the port's sync intervals. -/
def syncTimeout (s : State) : State :=
  if s.tbs.run && s.tbs.source = 2 && s.tbs.syncAt + 3 * Config.syncIntervalNs s.tbs.macPort ≤ s.uptime then
    holdover { s with tbs := { s.tbs with syncAt := s.uptime, missed := sat 0xFFFF s.tbs.missed, good := 0 } }
  else s

/-- SYNC_TIMEOUT. -/
def execSyncTimeout (s : State) : Host.Outcome State Fault Refusal := done syncTimeout s

/-! ## TB_PPS_OUT (R259) -/

/-- PPS_OUT_PULSE: within 1.5 ns of a whole second of the DTB, while pulses are enabled. -/
def ppsOutPulse (s : State) : State :=
  if s.tbs.run && s.tbs.ppsEn && !s.tbs.ppsOut && (s.now + 1) % 1000000000 ≤ 2 then
    ({ s with tbs := { s.tbs with ppsOut := true, ppsRise := s.uptime } }).emit (.pin "TB_PPS_OUT" true)
  else s

/-- PPS_OUT_PULSE. -/
def execPpsOutPulse (s : State) : Host.Outcome State Fault Refusal := done ppsOutPulse s

/-- TB_PPS_OUT is low. -/
def ppsLow (s : State) : State :=
  if s.tbs.ppsOut then ({ s with tbs := { s.tbs with ppsOut := false } }).emit (.pin "TB_PPS_OUT" false) else s

/-- PPS_PULSE_END (R259): the pulse has been high for 100 µs. -/
def ppsPulseEnd (s : State) : State := if s.uptime < s.tbs.ppsRise + 100000 then s else ppsLow s

/-- PPS_PULSE_END. -/
def execPpsPulseEnd (s : State) : Host.Outcome State Fault Refusal := done ppsPulseEnd s

/-! ## Commands (R255, R257) -/

/-- TIME_SET: at once or, under TB_PPS_IN, at the next edge. One that meets another waiting ends with BUSY
(DEDUCED, log entry 40). -/
def timeSet (d : Nat) (s : State) : State :=
  serve d 0x0701 .lead (fun c s =>
    let v := pw c 0 + pw c 1 * 0x100000000
    if s.tbs.setPend.isSome then finish c .busy 0 [] [] s
    else if s.tbs.source = 1 then
      waitCmd c [] { s with tbs := { s.tbs with setPend := some v, setCmd := some (c.d, c.tag) } }
    else
      finish c .ok 0 [] [wd v, wd (v / 0x100000000)]
        (dtbStep { s with tbs := { s.tbs with est := false, aclkEst := false } } (v * 17592186044416))) s

/-- TIME_SET. -/
def execTimeSet (d : Nat) (s : State) : Host.Outcome State Fault Refusal := done (timeSet d) s

/-- TIME_DISCIPLINE: source 3 is clamped to 0. A TIME_SET that waited for an edge is applied when its source goes. -/
def timeDiscipline (d : Nat) (s : State) : State :=
  serve d 0x0702 .lead (fun c s =>
    let q := bf (pw c 0) 1 0
    let src := if q = 3 then 0 else q
    let s1 := noteCmd { s with tbs := discipline s.tbs src (bf (pw c 0) 7 4) s.uptime } 0x1010
    finish c .ok 0 (if q = 3 then [cmdClamp 0 0 3 0] else []) [] (if src = 1 then s1 else applySet s1)) s

/-- TIME_DISCIPLINE. -/
def execTimeDiscipline (d : Nat) (s : State) : Host.Outcome State Fault Refusal := done (timeDiscipline d) s

/-! ## Registers (R261) -/

/-- A read of NOW_LO latches NOW_HI and NOW_FRAC for the reader. -/
def nowLo (acc : Accessor) (s : State) : Word × State :=
  (wd s.now, (s.setCopy (acode acc) 0x130004 0 (wd (s.now / 0x100000000))).setCopy (acode acc) 0x130008 0 (wd (s.now16 % 16)))

/-- NOW_LO_READ. -/
def execNowLoRead (acc : Accessor) (s : State) : Host.Outcome State Fault Refusal :=
  done (fun s => ((nowLo acc s).2).emit (.words [(nowLo acc s).1])) s

/-- The code of a discipline state (Table 8.18). -/
def discCode : Disc → Nat
  | .free => 0 | .acquiring => 1 | .locked => 2 | .holdover => 3

/-- A read of a TBS register. -/
def tbsRead (acc : Accessor) (off : Nat) (s : State) : Word × State :=
  let a := acode acc
  let t := s.tbs
  match off with
  | 0x00 => nowLo acc s
  | 0x04 => (s.copy a 0x130004 0, s)
  | 0x08 => (s.copy a 0x130008 0, s)
  | 0x0C => (wd (discCode t.state * 0x10000000 + b2n t.est * 0x8000000 + b2n t.aclkEst * 0x4000000 + b2n t.ref * 0x2000000 +
      b2n t.pps * 0x1000000 + t.source * 0x100000 + t.macPort * 0x10000 + t.good), s)
  | 0x10 => (wd (bits64 t.offset), s)
  | 0x14 => (wd (bits64 t.rate), s)
  | 0x18 => (wd t.steps, s)
  | 0x1C => (wd (bits64 t.lastStep), s)
  | 0x20 => (wd (bits64 t.lastStep / 0x100000000), s)
  | 0x24 => (wd (t.missed * 0x10000 + t.accepted), s)
  | 0x28 => (s.copy a 0x130028 0, s)
  | 0x2C => (s.copy a 0x13002C 0, s)
  | _ => (0, s)

/-- A write of a TBS register: each accessor its own copies. -/
def tbsWrite (acc : Accessor) (off : Nat) (v : Word) (s : State) : State :=
  match off with
  | 0x28 => s.clearCopy (acode acc) 0x130028 0 v
  | 0x2C => s.setCopy (acode acc) 0x13002C 0 (v &&& 0x1F)
  | _ => s

end Sys2Proof.Machine
end

