-- ==== Sys2Proof/Machine/Eth.lean ====
section
/-! DEFINITION. The Ethernet MAC ports (R346–R353) and the transceiver lanes (R329–R335, R353). -/
namespace Sys2Proof.Machine
open Sys2Proof

/-! ## MAC ports -/

/-- The mode of a block (Table 11.9). -/
def ethMode (s : State) (m : Nat) : Nat := SMap.get dNat s.design.ethMode (m / 4)

/-- Whether the mode of its block uses a MAC port. -/
def macUsed (s : State) (m : Nat) : Bool :=
  match ethMode s m with
  | 1 => m % 4 == 0
  | 2 => m % 4 < 2
  | 0 => false
  | k => k ≤ 6

def macOwner (s : State) (m : Nat) : Owner := s.owner (resMac m)

/-- Sets bits of ETH.INT_STATUS in the port owner's copy (DEDUCED, log entry 18). -/
def ethInt (s : State) (m : Nat) (bits : Word) : State := s.raiseFor (ownerAccs (macOwner s m)) 0xB0064 m bits

/-- A MAC port that runs: enabled, used, owned (R27, R346). -/
def macRuns (s : State) (m : Nat) : Bool := wb (s.macOf m).ctrl 31 && macUsed s m && macOwner s m != .unowned

/-- Adds 1 to a counter of a port. -/
def macCount (s : State) (m i : Nat) : State :=
  let g := s.macOf m
  s.setMac m { g with stats := SMap.set dNat g.stats i (sat 0xFFFFFFFF (SMap.get dNat g.stats i)) }

/-- The quad of a MAC port's block (Table 11.1). -/
def ethQuad (m : Nat) : Nat := match m / 4 with | 0 => 4 | 1 => 5 | 2 => 10 | _ => 11

/-- ETH_LINK_CHANGE (R346): no link without the quad's reference (R333). A discipline port that goes down puts the timebase in HOLDOVER (Table 8.15). -/
def ethLinkChange (m : Nat) (up an fec : Bool) (s : State) : State :=
  if m < 16 && macUsed s m && up != (s.macOf m).up && (!up || (s.quadOf (ethQuad m)).ref) then
    let s1 := ethInt (s.setMac m { s.macOf m with up := up, an := an && up, fec := fec && up }) m 4
    if !up && s.tbs.run && s.tbs.source = 2 && s.tbs.macPort = m then holdover s1 else s1
  else s

/-- ETH_LINK_CHANGE. -/
def execEthLinkChange (port : Nat) (up anDone fecLock : Bool) (s : State) : Host.Outcome State Fault Refusal :=
  done (ethLinkChange port up anDone fecLock) s

/-! ### Descriptor rings (R348) -/

/-- Entries of a ring: 2^4–2^12; none until its base is set. -/
def ringLen (r : EthRing) : Nat := let n := wf r.hi 27 24; if 4 ≤ n && n ≤ 12 then 2 ^ n else 0

/-- NoC address of a descriptor. -/
def descAddr (r : EthRing) (i : Nat) : Nat := (wf r.hi 15 0 * 0x100000000 + wf r.lo 31 5 * 32 + 32 * i) % 0x1000000000000

/-- A TAIL write: an index of N or more, or one that would give the block N descriptors, is rejected. -/
def writeTail (m : Nat) (tx : Bool) (v : Word) (s : State) : State :=
  let g := s.macOf m
  let r := if tx then g.tx else g.rx
  let i := wf v 11 0
  if ringLen r ≤ i || (i = r.head && r.tail != r.head) then ethInt s m 0x20
  else s.setMac m (if tx then { g with tx := { r with tail := i } } else { g with rx := { r with tail := i } })

/-- A queue stops on a NoC status (R348). -/
def stopQueue (m : Nat) (tx : Bool) (st : Status) (s : State) : State :=
  let g := s.macOf m
  let s1 := s.setMac m (if tx then { g with tx := { g.tx with stop := true }, qStat := st }
                        else { g with rx := { g.rx with stop := true }, qStat := st })
  ethInt (macCount s1 m 7) m 8

/-- Bytes 16–31 that the block writes back (Table 11.10). -/
def writeBack (d : List Byte) (ts : Nat) (st : Status) (len : Nat) : List Byte :=
  let own := BitVec.ofNat 8 (leAt d 8 1 / 2 * 2)
  d.take 8 ++ [own] ++ (d.drop 9).take 7 ++ leBytes 8 ts ++ [BitVec.ofNat 8 (scode st), 0] ++ leBytes 2 len ++ zeros 4

/-- Whether the gate of a class is open: every gate is while the list is disabled (R351). -/
def gateOpen (g : Mac) (cls : Nat) : Bool :=
  !g.gclEn || g.oper.len = 0 || (SMap.get (fun _ => (0, 0)) g.oper.ents g.gateAt).1.testBit cls

/-- The line rate of a port in Mbit/s (Table 11.9). -/
def macRate (s : State) (m : Nat) : Nat := [1, 200000, 100000, 50000, 25000, 10000, 1000].getD (ethMode s m) 1

/-- The instants of a cycle at which entries with the gate of a class closed begin: the list is cut at the cycle's end. -/
def closings (l : GateList) (cls : Nat) : Nat → Nat → Nat → List Nat
  | 0, _, _ => []
  | n + 1, i, t =>
    let e := SMap.get (fun _ => (0, 0)) l.ents i
    let rest := closings l cls n (i + 1) (t + e.2)
    if l.cycle ≤ t then [] else if e.1.testBit cls then rest else t :: rest

/-- The time in ns until the open gate of a class closes; none where it never does (R351). -/
def gateRoom (l : GateList) (cls now : Nat) : Option Nat :=
  let cs := closings l cls l.len 0 0
  let t := (now - l.base) % l.cycle
  match (cs.filter fun c => t < c).min? with
  | some c => some (c - t)
  | none => cs.min?.map fun c => c + l.cycle - t

/-- A frame ends before its gate closes: its bytes with FCS, preamble and SFD take their time at the line rate (R351). -/
def gateFits (s : State) (m cls len : Nat) : Bool :=
  let g := s.macOf m
  !g.gclEn || g.oper.len = 0 ||
    match gateRoom g.oper cls s.now with
    | some room => 8 * (len + 12) * 1000 ≤ room * macRate s m
    | none => true

/-- An access of a MAC port's block over the network, stamped with the port owner's domain (R208, R348). -/
def macFetch (s : State) (m a n : Nat) (st : Status) : Status × State := blockAccess s (0x114 + m / 4) (macOwner s m) false a n st
def macStore (s : State) (m a : Nat) (bs : List Byte) : Status × State := blockWrite s (0x114 + m / 4) (macOwner s m) a bs .ok

/-- A descriptor is written back, and HEAD advances; a write that fails stops the queue (R348). -/
def descDone (s : State) (m : Nat) (tx : Bool) (bs : List Byte) : State :=
  let g := s.macOf m
  let r := if tx then g.tx else g.rx
  let u := macStore s m (descAddr r r.head) bs
  if u.1 != .ok then stopQueue m tx u.1 u.2
  else
    let r1 := { r with head := (r.head + 1) % ringLen r }
    ethInt (u.2.setMac m (if tx then { g with tx := r1 } else { g with rx := r1 })) m (if tx then 1 else 2)

/-- The fragments in which a frame was sent (R352): more than one only where preemption is active and its class preemptable, each but the
last of at least 64 bytes. -/
def fragCount (g : Mac) (cls len frags : Nat) : Nat :=
  if g.pre && wb g.ctrl (8 + cls) && 1 < frags then min frags ((len + 4 + 63) / 64) else 0

/-- Adds the fragments of a frame to their counter. -/
def countFrags (s : State) (m n : Nat) : State :=
  s.setMac m { s.macOf m with stats := SMap.set dNat (s.macOf m).stats 6 (min 0xFFFFFFFF (SMap.get dNat (s.macOf m).stats 6 + n)) }

/-- TX_FRAME (R348): the block has read the descriptor (32 bytes) and then the frame at HEAD (DEDUCED, log entry 43). `frags` is the
number of fragments that express traffic made of it. -/
def txFrame (m : Nat) (dma : DmaResult) (ts frags : Nat) (s : State) : State :=
  let g := s.macOf m
  let d := dma.data.take 32
  if 16 ≤ m || !macRuns s m || !g.up || g.txHalt || g.tx.stop || g.tx.head = g.tx.tail then s
  else
    let u := macFetch s m (descAddr g.tx g.tx.head) 32 dma.status
    let len := leAt d 6 2
    let ok := 60 ≤ len && len ≤ g.maxF - 4
    if u.1 != .ok then stopQueue m true u.1 u.2
    else if !gateOpen g (leAt d 9 1 % 8) || (ok && !gateFits s m (leAt d 9 1 % 8) len) then s
    else
      let v := if ok then macFetch u.2 m (leAt d 0 6) len .ok else u
      if v.1 != .ok then stopQueue m true v.1 v.2
      else
        let frame := (dma.data.drop 32).take len
        let s2 := if ok then (countFrags (macCount v.2 m 0) m (fragCount g (leAt d 9 1 % 8) len frags)).emit (.eth m (frame ++ leBytes 4 (crc32u frame))) else v.2
        let t := if ok && wb (wd (leAt d 8 1)) 1 then ts else leAt d 16 8
        descDone s2 m true (writeBack d t (if ok then .ok else .badParameter) 0)

/-- TX_FRAME. -/
def execTxFrame (port : Nat) (dma : DmaResult) (tsNs frags : Nat) (s : State) : Host.Outcome State Fault Refusal :=
  done (txFrame port dma tsNs frags) s

/-- EtherType of a frame, past an IEEE 802.1Q tag. -/
def etherType (bs : List Byte) : Nat :=
  let at2 (i : Nat) : Nat := leAt bs i 1 * 256 + leAt bs (i + 1) 1
  if at2 12 = 0x8100 then at2 16 else at2 12

/-- A frame that the port accepts by its address (R347). -/
def addressed (g : Mac) (bs : List Byte) : Bool :=
  wb g.ctrl 30 || (leAt bs 0 1) % 2 == 1 || leAt bs 0 6 == g.lo.toNat + wf g.hi 15 0 * 0x100000000

/-- Frames that the MC consumes (R350). -/
def gptpFrame (s : State) (m : Nat) (bs : List Byte) : Bool :=
  etherType bs == 0x88F7 && (wb (s.macOf m).ctrl 29 || (s.tbs.source = 2 && s.tbs.macPort = m))

/-- RX_FRAME (R347, R348): `bytes` are the frame without its FCS; `dma` is the descriptor at HEAD as the block read it
(DEDUCED, log entry 43). -/
def rxFrame (m : Nat) (bs : List Byte) (fcsOk : Bool) (ts : Nat) (dma : DmaResult) (s : State) : State :=
  let g := s.macOf m
  if 16 ≤ m || !macRuns s m || !g.up then s
  else if !fcsOk then macCount s m 2
  else if bs.length + 4 < 64 || g.maxF < bs.length + 4 then macCount s m 4
  else if etherType bs == 0x8808 then macCount s m 5
  else if gptpFrame s m bs || !addressed g bs then s
  else if g.txHalt || g.rx.stop || g.rx.head = g.rx.tail then macCount s m 3
  else
    let d := dma.data.take 32
    let u := macFetch s m (descAddr g.rx g.rx.head) 32 dma.status
    let v := if u.1 == .ok then macStore u.2 m (leAt d 0 6) bs else u
    if v.1 != .ok then stopQueue m false v.1 v.2
    else descDone (macCount v.2 m 1) m false (writeBack d ts .ok bs.length)

/-- RX_FRAME. -/
def execRxFrame (port : Nat) (bytes : List Byte) (fcsOk : Bool) (tsNs : Nat) (dma : DmaResult) (s : State) :
    Host.Outcome State Fault Refusal := done (rxFrame port bytes fcsOk tsNs dma) s

/-! ### Gate lists and preemption (R351, R352) -/

/-- The instant at which a list committed now becomes operational. -/
def switchAt (l : GateList) (now : Nat) : Nat :=
  if now + 2000 ≤ l.base then l.base
  else l.base + l.cycle * ((now + 2000 - l.base + l.cycle - 1) / l.cycle)

/-- A write of GCL_CTRL. -/
def writeGclCtrl (m : Nat) (v : Word) (s : State) : State :=
  let g := s.macOf m
  let n := wf v 8 0
  if n < 1 || 256 < n then ethInt s m 0x20
  else
    let l := { g.admin with len := n }
    s.setMac m { g with
      admin := l, gclEn := wb v 31
      pend := if wb v 30 then some (switchAt l s.now, l) else g.pend }

/-- GCL_SWITCH (R351). -/
def gclSwitch (m : Nat) (s : State) : State :=
  match (s.macOf m).pend with
  | some (t, l) =>
    if s.now < t then s
    else ethInt (s.setMac m { s.macOf m with oper := l, pend := none, gateAt := 0, gateRe := false }) m 0x10
  | none => s

/-- GCL_SWITCH. -/
def execGclSwitch (port : Nat) (s : State) : Host.Outcome State Fault Refusal := done (gclSwitch port) s

/-- The entry in force at an offset into the cycle: the list is cut at the cycle's end, its last entry extended. -/
def gateEntry (ents : SMap (Nat × Nat)) : Nat → Nat → Nat → Nat
  | 0, i, _ => i
  | n + 1, i, t =>
    let d := (SMap.get (fun _ => (0, 0)) ents i).2
    if t < d then i else gateEntry ents n (i + 1) (t - d)

/-- GATE_INTERVAL (R351): the gates of the entry that the DTB now selects apply; after a step, from the next boundary. -/
def gateInterval (m : Nat) (s : State) : State :=
  let g := s.macOf m
  let l := g.oper
  if !g.gclEn || l.len = 0 || s.now < l.base then s
  else
    let i := gateEntry l.ents (l.len - 1) 0 ((s.now - l.base) % l.cycle)
    if g.gateRe && i != 0 then s else s.setMac m { g with gateAt := i, gateRe := false }

/-- GATE_INTERVAL. -/
def execGateInterval (port : Nat) (s : State) : Host.Outcome State Fault Refusal := done (gateInterval port) s

/-- PREEMPT_VERIFY (R352). -/
def preemptVerify (m : Nat) (s : State) : State :=
  if macRuns s m && wb (s.macOf m).ctrl 28 then s.setMac m { s.macOf m with pre := true } else s

/-- PREEMPT_VERIFY. -/
def execPreemptVerify (port : Nat) (s : State) : Host.Outcome State Fault Refusal := done (preemptVerify port) s

/-- A write of PORT_CTRL: RS(528,514) is 25 Gbit/s only, an unused port cannot be enabled; enabling resets HEAD and TAIL
and restarts the queues (Table 11.15, R346, R348). -/
def writePortCtrl (m : Nat) (v : Word) (s : State) : State :=
  let g := s.macOf m
  if (wf v 26 25 = 1 && ethMode s m = 5) || (wb v 31 && !macUsed s m) then ethInt s m 0x20
  else
    let rises := wb v 31 && !wb g.ctrl 31
    let g1 := { g with
      ctrl := v &&& 0xFF00FF00
      pre := wb v 28 && (!wb v 27 || (g.pre && !rises)) }
    s.setMac m (if rises then
      { g1 with
        tx := { g.tx with head := 0, tail := 0, stop := false }
        rx := { g.rx with head := 0, tail := 0, stop := false }
        qStat := .ok }
      else g1)

/-! ### ETH registers (Table 11.14) -/

/-- A register of a MAC port. Ports that the mode does not use read 0. -/
def macReg (acc : Accessor) (m off : Nat) (s : State) : Word :=
  let g := s.macOf m
  let e := SMap.get (fun _ => (0, 0)) (if wb g.gclIdx 8 then g.admin.ents else g.oper.ents) (wf g.gclIdx 7 0)
  if !macUsed s m then 0
  else match off with
  | 0x04 => wd (ethMode s m)
  | 0x08 => g.ctrl
  | 0x0C => wd (b2n g.up * 0x80000000 + b2n g.an * 0x40000000 + b2n g.fec * 0x20000000 + b2n g.pre * 0x10000000 +
      b2n g.tx.stop * 0x8000000 + b2n g.rx.stop * 0x4000000 + scode g.qStat * 0x10000)
  | 0x10 => g.lo
  | 0x14 => g.hi
  | 0x18 => wd g.maxF
  | 0x1C => g.tx.lo
  | 0x20 => g.tx.hi
  | 0x24 => wd g.tx.tail
  | 0x28 => wd g.tx.head
  | 0x2C => g.rx.lo
  | 0x30 => g.rx.hi
  | 0x34 => wd g.rx.tail
  | 0x38 => wd g.rx.head
  | 0x3C => g.gclIdx
  | 0x40 => wd e.1
  | 0x44 => wd e.2
  | 0x48 => wd (b2n g.gclEn * 0x80000000 + g.admin.len)
  | 0x4C => wd g.admin.base
  | 0x50 => wd (g.admin.base / 0x100000000)
  | 0x54 => wd g.admin.cycle
  | 0x58 => wd (b2n g.pend.isSome * 0x80000000 + g.oper.len)
  | 0x5C => wd g.statIdx
  | 0x60 => if g.statIdx < 8 then wd (SMap.get dNat g.stats g.statIdx) else 0
  | 0x64 => s.copy (acode acc) 0xB0064 m
  | 0x68 => s.copy (acode acc) 0xB0068 m
  | _ => 0

/-- A ring's base registers with one written; an entry count that does not exist is refused. -/
def putBase (s : State) (m : Nat) (tx hi : Bool) (v : Word) : State :=
  let g := s.macOf m
  let r := if tx then g.tx else g.rx
  let n := wf v 27 24
  if hi && (n < 4 || 12 < n) then ethInt s m 0x20
  else
    let r1 := if hi then { r with hi := v &&& 0x0F00FFFF } else { r with lo := v &&& 0xFFFFFFE0 }
    s.setMac m (if tx then { g with tx := r1 } else { g with rx := r1 })

/-- The administrative entry that GCL_INDEX selects takes new contents; the operational list is read only. -/
def putGate (s : State) (m : Nat) (f : Nat × Nat → Nat × Nat) : State :=
  let g := s.macOf m
  let i := wf g.gclIdx 7 0
  if wb g.gclIdx 8 then
    s.setMac m { g with admin := { g.admin with
      ents := SMap.set (fun _ => (0, 0)) g.admin.ents i (f (SMap.get (fun _ => (0, 0)) g.admin.ents i)) } }
  else s

/-- A write of a register of a MAC port. -/
def macPut (acc : Accessor) (m off : Nat) (v : Word) (s : State) : State :=
  let g := s.macOf m
  match off with
  | 0x08 => writePortCtrl m v s
  | 0x10 => s.setMac m { g with lo := v }
  | 0x14 => s.setMac m { g with hi := v &&& 0xFFFF }
  | 0x18 => if 64 ≤ wf v 13 0 && wf v 13 0 ≤ 9216 then s.setMac m { g with maxF := wf v 13 0 } else ethInt s m 0x20
  | 0x1C => putBase s m true false v
  | 0x20 => putBase s m true true v
  | 0x24 => writeTail m true v s
  | 0x2C => putBase s m false false v
  | 0x30 => putBase s m false true v
  | 0x34 => writeTail m false v s
  | 0x3C => s.setMac m { g with gclIdx := v &&& 0x1FF }
  | 0x40 => putGate s m fun e => (wf v 7 0, e.2)
  | 0x44 => if v.toNat < 32 then ethInt s m 0x20 else putGate s m fun e => (e.1, v.toNat)
  | 0x48 => writeGclCtrl m v s
  | 0x4C => s.setMac m { g with admin := { g.admin with base := g.admin.base / 0x100000000 * 0x100000000 + v.toNat } }
  | 0x50 => s.setMac m { g with admin := { g.admin with base := g.admin.base % 0x100000000 + v.toNat * 0x100000000 } }
  | 0x54 => if 1000 ≤ v.toNat && v.toNat ≤ 1000000000 then s.setMac m { g with admin := { g.admin with cycle := v.toNat } }
            else ethInt s m 0x20
  | 0x5C => s.setMac m { g with statIdx := wf v 3 0 }
  | 0x64 => s.clearCopy (acode acc) 0xB0064 m v
  | 0x68 => s.setCopy (acode acc) 0xB0068 m (v &&& 0x3F)
  | _ => s

/-- The port that an accessor's PORT_INDEX selects. -/
def macIx (s : State) (acc : Accessor) : Nat := wf (s.copy (acode acc) 0xB0000 0) 3 0

/-- A read of an ETH register. -/
def ethRead (acc : Accessor) (off : Nat) (s : State) : Word :=
  if off = 0 then s.copy (acode acc) 0xB0000 0
  else if mayTouch acc (macOwner s (macIx s acc)) then macReg acc (macIx s acc) off s else 0

/-- A write of an ETH register. -/
def ethWrite (acc : Accessor) (off : Nat) (v : Word) (s : State) : State :=
  if off = 0 then s.setCopy (acode acc) 0xB0000 0 (v &&& 0xF)
  else if mayTouch acc (macOwner s (macIx s acc)) then macPut acc (macIx s acc) off v s else s

/-- TAIL_WRITE (R348). -/
def execTailWrite (acc : Accessor) (tx : Bool) (v : Word) (s : State) : Host.Outcome State Fault Refusal :=
  done (ethWrite acc (if tx then 0x24 else 0x34) v) s
/-- PORT_ENABLE (R348). -/
def execPortEnable (acc : Accessor) (v : Word) (s : State) : Host.Outcome State Fault Refusal := done (ethWrite acc 0x08 v) s
/-- GCL_COMMIT (R351). -/
def execGclCommit (acc : Accessor) (v : Word) (s : State) : Host.Outcome State Fault Refusal := done (ethWrite acc 0x48 v) s

/-! ## Transceivers (R329–R335, R353) -/

/-- The use of a quad: a PCI block's quads are its own until they pass to the fabric (R331). -/
def quadUse (s : State) (q : Nat) : QuadUse :=
  let fixed : QuadUse := if q = 4 || q = 5 || q = 10 || q = 11 then .eth else .pci
  let img := SMap.get (fun _ => fixed) s.design.quads q
  let p := match q with | 0 => 0 | 1 => 0 | 2 => 1 | 3 => 1 | 6 => 2 | 7 => 2 | 8 => 3 | _ => 3
  if fixed == .pci && !(s.pciOf p).raw then .pci else img

/-- A raw lane. -/
def rawLane (s : State) (l : Nat) : Bool := l < 48 && quadUse s (l / 4) == .raw

def laneImage (s : State) (l : Nat) : LaneImage := SMap.get (fun _ => ({} : LaneImage)) s.design.lanes l

/-- A quad without its reference: its lanes are in electrical idle (R333). -/
def quadDark (s : State) (q : Nat) : State :=
  (List.range 4).foldl (fun u i => u.setLane (4 * q + i) { u.laneOf (4 * q + i) with idle := true })
    (s.setQuad q { s.quadOf q with ref := false })

/-- XCV_LOSS_OF_LOCK (R333, R353). `refGone` says that the reference is what went. -/
def xcvLossOfLock (q : Nat) (refGone : Bool) (s : State) : State :=
  if q < 12 && (s.quadOf q).locked then
    let s1 := (s.setQuad q { s.quadOf q with locked := false, lol := sat 0xFF (s.quadOf q).lol }).raiseAll 0x9001C 0 (1#32 <<< q)
    if refGone then quadDark s1 q else s1
  else s

/-- XCV_LOSS_OF_LOCK. -/
def execXcvLossOfLock (quad : Nat) (refGone : Bool) (s : State) : Host.Outcome State Fault Refusal :=
  done (xcvLossOfLock quad refGone) s

/-- QUAD_PLL_LOCK (R333): the reference is present, the PLL locks, and the lanes leave electrical idle. -/
def quadPllLock (q : Nat) (s : State) : State :=
  if q < 12 then
    (List.range 4).foldl (fun u i => u.setLane (4 * q + i) { u.laneOf (4 * q + i) with
        idle := false, eye := (Config.freeBits (s.free + i)).setWidth 32 })
      ({ s with free := s.free + 4 }.setQuad q { s.quadOf q with ref := true, locked := true })
  else s

/-- QUAD_PLL_LOCK. -/
def execQuadPllLock (quad : Nat) (s : State) : Host.Outcome State Fault Refusal := done (quadPllLock quad) s

/-- RX_LOCK_CHANGE (R334). The eye that the receiver measures is open (DESIGN CHOICE, log entry 5). -/
def rxLockChange (l : Nat) (locked : Bool) (s : State) : State :=
  if rawLane s l then
    (s.takeFree.setLane l { s.laneOf l with
      lock := locked, sig := (s.laneOf l).sig || locked
      eye := if locked then (Config.freeBits s.free).setWidth 32 else (s.laneOf l).eye }).emit (.wire "xcv_rx_lock" l (b2n locked))
  else s

/-- RX_LOCK_CHANGE. -/
def execRxLockChange (lane : Nat) (locked : Bool) (s : State) : Host.Outcome State Fault Refusal :=
  done (rxLockChange lane locked) s

/-- RX_SLIP (R334): the word boundary moves by 1 bit, or 1 symbol in PAM4. -/
def rxSlip (l : Nat) (s : State) : State :=
  if rawLane s l then
    s.setLane l { s.laneOf l with slip := ((s.laneOf l).slip + 1) % (if (laneImage s l).pam4 then 64 else 128) }
  else s

/-- RX_SLIP. -/
def execRxSlip (lane : Nat) (s : State) : Host.Outcome State Fault Refusal := done (rxSlip lane) s

/-- The fill pattern of R335. -/
def fillWord : BitVec 128 := 0x55555555555555555555555555555555

/-- A slice of self-test runs on a lane (test 4 of Table 15.1). -/
def laneSlice (s : State) (l : Nat) : Bool :=
  s.bst.slices.any fun (e : Nat × Option Slice) => match e.2 with | some x => baseTest x.test = 4 && x.target = l | none => false

/-- One word time of a raw lane (R335): what the fabric offers goes into the transmit FIFO, a word or the fill pattern is sent, and a
received word goes into the receive FIFO or, finding it full, is discarded; `pop` says that the fabric takes a received word, which it
does not during a slice. While `txIdle` holds the transmitter in electrical idle no word is sent (R334). A full-mode test takes the lane out of service
(R452) (DEDUCED, log entry 68). -/
def rawWordTime (l : Nat) (rx push : Option (BitVec 128)) (pop txIdle : Bool) (s : State) : State :=
  if !rawLane s l || !(s.quadOf (l / 4)).locked || outOfService s 0x82 l then s
  else
    let g := s.laneOf l
    let cap := Config.laneDepth + 1
    let tx := match push with | some w => if g.txF.length < cap then g.txF ++ [w] else g.txF | none => g.txF
    let quiet := laneSlice s l
    let take := pop && !quiet
    let rf := if take then g.rxF.drop 1 else g.rxF
    let g1 := { g with
      idle := txIdle
      txF := if txIdle then tx else tx.drop 1, under := if tx.isEmpty && !txIdle then sat 0xFFFF g.under else g.under
      rxF := (match rx with | some v => if quiet || cap ≤ rf.length then rf else rf ++ [v] | none => rf)
      overf := if rx.isSome && !quiet && cap ≤ rf.length then sat 0xFFFF g.overf else g.overf }
    let s1 := s.setLane l g1
    let s2 := if txIdle then s1 else s1.emit (.lane l (tx.headD fillWord))
    match g.rxF with
    | w :: _ => if take then s2.emit (.wire "xcv_rx_data" l w.toNat) else s2
    | [] => s2

/-- RAW_WORD_TIME. -/
def execRawWordTime (lane : Nat) (rx txPush : Option (BitVec 128)) (rxPop txIdle : Bool) (s : State) :
    Host.Outcome State Fault Refusal := done (rawWordTime lane rx txPush rxPop txIdle) s

/-- The code of a quad's use. -/
def useCode : QuadUse → Nat
  | .pci => 0 | .eth => 1 | .raw => 2 | .unused => 3

/-- The PCI block of a lane, and its link lane (Table 11.1). -/
def pciLane (l : Nat) : Nat × Nat := (match l / 8 with | 0 => 0 | 1 => 1 | 3 => 2 | _ => 3, l % 8)

/-- The rate of a lane in Mbit/s and whether it is PAM4 (Table 11.2). -/
def laneRate (s : State) (l : Nat) : Nat × Bool :=
  match quadUse s (l / 4) with
  | .raw => ((laneImage s l).rate, (laneImage s l).pam4)
  | .eth =>
    let b := match l / 4 with | 4 => 0 | 5 => 1 | 10 => 2 | _ => 3
    (match SMap.get dNat s.design.ethMode b with
      | 1 => (53125, true) | 2 => (53125, true) | 3 => (53125, true) | 4 => (25781, false) | 5 => (10312, false)
      | 6 => (1250, false) | _ => (0, false))
  | .pci =>
    let p := (pciLane l).1
    ([0, 2500, 5000, 8000, 16000, 32000].getD (s.pciOf p).gen 0, false)
  | .unused => (0, false)

/-- The receiver of a lane is locked: a raw lane's own, that of a link that is up, that of a MAC port that is up
(Tables 11.1, 11.9). -/
def laneLocked (s : State) (l : Nat) : Bool :=
  match quadUse s (l / 4) with
  | .raw => (s.laneOf l).lock
  | .pci => let c := s.pciOf (pciLane l).1; c.up && decide ((pciLane l).2 < c.width)
  | .eth =>
    let b := match l / 4 with | 4 => 0 | 5 => 1 | 10 => 2 | _ => 3
    let j := match SMap.get dNat s.design.ethMode b with | 1 => 0 | 2 => l % 4 / 2 | _ => l % 4
    (s.macOf (4 * b + j)).up
  | .unused => false

/-- A read of an XCV register: lanes 48–63 do not exist and read 0 (R477). -/
def xcvRead (acc : Accessor) (off : Nat) (s : State) : Word :=
  let a := acode acc
  let l := wf (s.copy a 0x90000 0) 5 0
  let q := s.quadOf (l / 4)
  let g := s.laneOf l
  match off with
  | 0x00 => s.copy a 0x90000 0
  | 0x14 => s.xcv.prbsCtrl
  | 0x1C => s.copy a 0x9001C 0
  | 0x20 => s.copy a 0x90020 0
  | _ =>
    if 48 ≤ l then 0
    else match off with
    | 0x04 => wd (b2n q.ref * 0x80000000 + b2n q.locked * 0x40000000 + useCode (quadUse s (l / 4)) * 0x10000000 + q.lol * 0x10000)
    | 0x08 => wd (b2n (laneLocked s l) * 0x80000000 + b2n (g.sig || laneLocked s l) * 0x40000000 + b2n g.idle * 0x20000000 +
        b2n (laneRate s l).2 * 0x10000000 + (laneRate s l).1 % 0x10000)
    | 0x0C => g.eye
    | 0x10 => wd (g.under * 0x10000 + g.overf)
    | 0x18 => wd g.prbs
    | _ => 0

/-- A write of an XCV register: each accessor its own copies; the MC the pattern control. -/
def xcvWrite (acc : Accessor) (off : Nat) (v : Word) (s : State) : State :=
  let a := acode acc
  match off with
  | 0x00 => s.setCopy a 0x90000 0 (v &&& 0x3F)
  | 0x14 => if acc == .dom .mc then { s with xcv := { s.xcv with prbsCtrl := v } } else s
  | 0x1C => s.clearCopy a 0x9001C 0 v
  | 0x20 => s.setCopy a 0x90020 0 (v &&& 0xFFF)
  | _ => s

end Sys2Proof.Machine
end

