-- ==== Sys2Proof/Machine/StoreRead.lean ====
section
/-! DEFINITION. Frames read back from the container that their load came from: the reload of a damaged frame (R184) and of a band after
OFF (R422). -/
namespace Sys2Proof.Machine
open Sys2Proof

/-! ## Walking a stored container -/

/-- Leading NOP records. -/
def nopRun : List Word → Nat
  | [] => 0
  | w :: ws => if wf w 31 24 = 0 then 1 + nopRun ws else 0

/-- The words of a chunk's segments, their TAG and ROLL records and the NOPs between them. -/
def segWalk : List Nat → List Word → Nat
  | [], _ => 0
  | n :: rest, ws =>
    let t := n + nopRun (ws.drop n) + 5
    if rest.isEmpty then t
    else
      let j := nopRun (ws.drop t) + 5
      t + j + segWalk rest (ws.drop (t + j))

/-- The words of the chunk that starts a list. -/
def chunkWords (ws : List Word) : Nat :=
  let k := 6 + wf (nth ws 1) 31 28
  k + segWalk (((ws.take k).drop 5).map BitVec.toNat) (ws.drop k)

/-- The words after the sync pattern (R87). -/
def afterSync : List Word → List Word
  | a :: b :: ws => if a == 0x0F1EE1F0 && b == 0x5A3CC3A5 then ws else afterSync (b :: ws)
  | _ => []

/-- The words from a chunk's CHUNK record on, in a container held as one byte string. The fuel is the number of words. -/
def chunkFrom : Nat → Nat → List Word → List Word
  | 0, _, _ => []
  | n + 1, i, ws =>
    if ws.isEmpty then []
    else if wf (ws.headD 0) 31 24 = 5 then
      (if wf (ws.headD 0) 23 0 = i then ws else chunkFrom n i (ws.drop (max 1 (chunkWords ws))))
    else chunkFrom n i (ws.drop 1)

/-- One segment as it is stored: its key, IV, additional data, ciphertext and tag (R98–R100). -/
structure Segment where
  key    : BitVec 256
  iv     : List Byte
  aad    : List Byte
  cipher : List Word
  tag    : List Byte
  deriving DecidableEq, Repr

/-- Segment `j` of a chunk from its segment `s` on, whose key and additional data are given (R99, R100). -/
def segmentAt (chunk : Nat) (iv : List Byte) (j : Nat) : Nat → List Nat → BitVec 256 → List Byte → List Word → Option Segment
  | _, [], _, _, _ => none
  | s, n :: rest, key, aad, ws =>
    let t := n + nopRun (ws.drop n)
    let tag := wordBytes ((ws.drop (t + 1)).take 4)
    if s = j then some ⟨key, iv.take 11 ++ [BitVec.ofNat 8 s], aad, ws.take n, tag⟩
    else
      let r := t + 5 + nopRun (ws.drop (t + 5))
      let roll := (ws.drop r).take 5
      segmentAt chunk iv j (s + 1) rest
        (kdf key (ascii "BRLC-ROLL") (wordBytes (roll.drop 1) ++ Crypto.beBytes 4 chunk ++ [BitVec.ofNat 8 (s + 1)]))
        (wordBytes roll ++ tag) (ws.drop (r + 5))

/-- A segment of the chunk whose words are given, under an image key and nonce (R98). -/
def chunkSegment (imgKey : BitVec 256) (nonce : List Byte) (chunk j : Nat) (ws : List Word) : Option Segment :=
  let k := 6 + wf (nth ws 1) 31 28
  segmentAt chunk (wordBytes ((ws.drop 2).take 3)) j 0 (((ws.take k).drop 5).map BitVec.toNat)
    (kdf imgKey (ascii "BRLC-CHUNK") (nonce ++ Crypto.beBytes 4 chunk)) (wordBytes (ws.take k)) (ws.drop k)

/-- The place of a frame in a run of frames that starts at an address, within `n` frames. -/
def frameIn : Nat → Nat → Nat → Option Nat
  | 0, _, _ => none
  | n + 1, a, key => if a = key then some 0 else match nextFrame a with
    | some b => (frameIn n b key).map (· + 1)
    | none => none

/-- The 129 words of a frame in the FDATA record of a plaintext that starts at an address and has a count. `a` is the current
address. The fuel is the number of words. -/
def findFrame (first count key : Nat) : Nat → Nat → List Word → Option (List Word)
  | 0, _, _ => none
  | n + 1, a, ws =>
    if ws.isEmpty then none
    else match wf (ws.headD 0) 31 24 with
      | 0x01 => findFrame first count key n ((nth ws 1).toNat / 256) (ws.drop 2)
      | 0x02 =>
        let m := wf (ws.headD 0) 23 0
        let hit := if a = first / 256 && m = count then frameIn m a key else none
        match hit with
        | some i => some ((ws.drop (1 + 129 * i)).take 129)
        | none => findFrame first count key n ((List.range m).foldl (fun a _ => (nextFrame a).getD 0xFFFFFFFF) a) (ws.drop (1 + 129 * m))
      | 0x0A =>
        let m := wf (ws.headD 0) 23 0
        findFrame first count key n ((List.range m).foldl (fun a _ => (nextFrame a).getD 0xFFFFFFFF) a) (ws.drop (1 + m))
      | _ => findFrame first count key n a (ws.drop 1)

/-! ## The source of a frame -/

/-- A logical address range meets a TORN sector. -/
def tornRange (s : State) (addrs : List Nat) : Bool := addrs.any fun a => isTorn s (laBank a) (laSector a)

/-- The logical addresses of `n` bytes of a source from a place on: of a slot, a group area and an offset; of a library entry, an
offset. -/
def srcAddrs (src : Source) (g x n : Nat) : List Nat :=
  match src with
  | .slot0 => (List.range n).map fun i => slotAddr 0 g (x + i)
  | .slot1 => (List.range n).map fun i => slotAddr 1 g (x + i)
  | .library u => (List.range n).map fun i => unitAddr u (x + i)
  | _ => []

/-- The manifest of a source is still the one recorded (R184 step 1, R422): OK, SECTOR_TORN, UNCORRECTABLE_FRAME. -/
def sourceCheck (s : State) (src : Source) (man : List Byte) : Status :=
  let as := srcAddrs src 0 0 man.length
  if man.isEmpty || as.isEmpty then .uncorrectableFrame
  else if tornRange s as then .sectorTorn
  else if as.map (nvByte s) == man then .ok else .uncorrectableFrame

/-- The group area and offset of a chunk in a slot (R386). -/
def chunkIndex (s : State) (src : Source) (man : Manifest) (chunk : Nat) : Nat × Nat :=
  let slot := if src == .slot1 then 1 else 0
  if chunk = 0 then (0, man.len) else
    let w := nth (SMap.get dWords s.nv.index slot) chunk
    (wf w 31 28, wf w 23 0)

/-- The words of a source that hold a chunk, with the addresses of those that the chunk takes. -/
def sourceChunk (s : State) (src : Source) (man : Manifest) (chunk : Nat) : List Word × List Nat :=
  match src with
  | .library u =>
    let all := bytesWords (nvRead s (unitAddr u man.len) man.streamLen)
    let ws := chunkFrom all.length chunk (afterSync all)
    (ws, srcAddrs src 0 (man.len + 4 * (all.length - ws.length)) (4 * chunkWords ws))
  | _ =>
    let p := chunkIndex s src man chunk
    let as := srcAddrs src p.1 p.2 (0x1000000 - p.2)
    let ws := bytesWords (as.map (nvByte s))
    (ws, as.take (4 * chunkWords ws))

/-- What the store gives for a frame plane: the status of reading its segment, whether the segment's tag verifies, and the frame's 128
payload words and CRC (R184 steps 2–4, R422). `tagged` is false where the tag is not checked. -/
structure Fetched where
  st    : Status
  words : List Word
  crc   : Word
  deriving DecidableEq, Repr

/-- Reads the source of a frame plane. -/
def fetchFrame (s : State) (key : Nat) (p : Plane) (tagged : Bool) : Fetched :=
  let m := parseMan p.man
  let st := sourceCheck s p.src p.man
  if st != .ok then ⟨st, [], 0⟩
  else
    let c := sourceChunk s p.src m p.chunk
    if tornRange s c.2 then ⟨.sectorTorn, [], 0⟩
    else match chunkSegment ((selKey s m.keySel).getD 0) m.nonce p.chunk p.seg c.1 with
      | none => ⟨.authFail, [], 0⟩
      | some g =>
        if tagged && g.tag != Crypto.beBytes 16 (Crypto.gcmTagOf g.key g.iv g.aad (wordBytes g.cipher)).toNat then ⟨.authFail, [], 0⟩
        else
          let plain := bytesWords (Crypto.gcmCrypt g.key g.iv (wordBytes g.cipher))
          match findFrame p.fdFirst p.fdCount key plain.length 0xFFFFFFFF plain with
          | some fr => ⟨.ok, fr.take 128, nth fr 128⟩
          | none => ⟨.crcFail, [], 0⟩

end Sys2Proof.Machine
end

