-- ==== Sys2Proof/Machine/Power.lean ====
section
/-! DEFINITION. Power: band-state requests and their votes (R413–R418), entering and leaving a band state (R419–R425), the
PMBus master (R434–R436), the kennel scratch, and the PWR, AON and PMB registers (R438). Entry number 16 is the device's;
entries 0–15 are the bands'. Device sleep itself stands in Sleep.lean. -/
namespace Sys2Proof.Machine
open Sys2Proof

/-- The number of the device entry. -/
def devEntry : Nat := 16

/-- The entry in progress of a band or of the device. -/
def entryOf (s : State) (b : Nat) : Option Entry := if b = devEntry then s.pwr.dev else (s.bandOf b).entry

/-- Sets it. -/
def setEntry (s : State) (b : Nat) (e : Option Entry) : State :=
  if b = devEntry then { s with pwr := { s.pwr with dev := e } } else setBandEntry s b e

/-- An entry ends in a refusal by a block. -/
def refuse (s : State) (b blk reason : Nat) : State :=
  if b = devEntry then refuseDev s blk reason else refuseBand s b blk reason

/-! ## The votes (Tables 14.3, 14.4) -/

/-- A band counts for an entry. -/
def counts (b band : Nat) : Bool := b = devEntry || b = band

/-- NVC has accepted a device entry and starts no counted program, erase or copy (R410, R418). -/
def nvcDevHeld (s : State) : Bool := s.pwr.dev.any fun e => !e.undec.contains 0x02

/-- Reason 0x01 (R175). -/
def cfgSwapping (s : State) (b : Nat) : Bool :=
  s.cfg.targets.any fun e =>
    (e.2.state == .verifying || e.2.state == .ready || e.2.state == .armed || e.2.state == .switching) &&
      (e.1 = 15 || e.2.members.any fun r => (s.regionOf r).shadow.any fun k => counts b (keyBand k))

/-- The frames that a load may write in a band: those of its window there, or of the whole band. -/
def loadFrames (s : State) (l : Load) (b : Nat) : Nat :=
  ((List.range 559).filter fun c => l.full || inRects (s.rects l.region) b c).foldl (fun n c => n + frameCount c) 0

/-- A load has frames still to write in a band: its image has more than it has written, and not all of the band's are written. -/
def loadLeft (s : State) (l : Load) (b : Nat) : Bool :=
  (match l.man with | some m => l.written < m.fdata + m.sigs | none => true) &&
    (l.touched.filter fun k => keyBand k == b).length < loadFrames s l b

/-- A load has frames still to write in the band, or in any for a device entry (Table 5.7). -/
def cfgLoading (s : State) (b : Nat) : Bool :=
  s.cfg.loads.any fun e => e.2.phase != .idle && e.2.phase != .drain &&
    (List.range 16).any fun k => counts b k && loadLeft s e.2 k

/-- A frame is non-blank (R421). -/
def nonBlank (key : Nat) (f : Frame) : Bool := if isContent key then !f.blank else f.active.sig != zeroCrc

/-- The source recorded for the plane that drives the fabric. -/
def activeSrc (key : Nat) (f : Frame) : Source := if isContent key then f.a.src else f.active.src

/-- The non-blank frames of a band. -/
def bandFrames (s : State) (b : Nat) : List (Nat × Frame) :=
  s.cfg.frames.filter fun e => counts b (keyBand e.1) && nonBlank e.1 e.2

/-- What CFG may refuse an entry with; the last argument is the target. -/
def cfgReasons (s : State) (b target : Nat) : List Nat :=
  (if cfgSwapping s b then [1] else []) ++
  (if target = 3 && (bandFrames s b).any (fun e => activeSrc e.1 e.2 == .pushed) then [3] else []) ++
  (if target = 3 && 5000 < (bandFrames s b).length then [4] else []) ++
  (if b = devEntry && (s.boot.bootSlot.isNone || s.cfg.frames.any fun e => activeSrc e.1 e.2 == .pushed) then [5] else [])

/-- A bank table holds a term with a SET_LEVEL, FORCE_SAFE or SEND_EVENT action (reason 0x09). -/
def bankActs (s : State) : Bool :=
  (List.range 16).any fun k => (s.image (0x100 + k)).terms.any fun ws => (List.range 4).any fun j =>
    1 ≤ wf (termAction ws j) 31 28 && wf (termAction ws j) 31 28 ≤ 4 && wf (termAction ws j) 31 28 != 3

/-- What RFX refuses an entry with (R274, R427). -/
def rfxReasons (s : State) (b target : Nat) : List Nat :=
  if target = 1 then []
  else if b = devEntry then (if (armedTables s).any (· < 128) || bankActs s then [9] else [])
  else
    (if (armedTables s).any (fun t => t / 8 == b) then [7] else []) ++
    (if (armedTables s).any (fun t => (flowDsts s t).any fun d => tableAt s d / 8 == b) then [8] else [])

/-- A queue works on behalf of a band: its ring or a buffer lies in a fabric endpoint of it (R410). -/
def forBand (s : State) (b : Nat) (addr : Nat) : Bool := isFabric (naEp addr) && (s.mapOf (naEp addr)).row == b

/-- A descriptor is a program, erase or copy that NVC does not start while it holds its vote (R418). -/
def nvcHolds (s : State) (base : Nat) (x : Desc) : Bool :=
  (x.op = 2 || x.op = 3 || x.op = 7) &&
    (nvcDevHeld s || (List.range 16).any fun b => holdsVote s 0x02 b && (forBand s b base || forBand s b x.buf))

/-- NVC has a counted program, erase or copy (R410). -/
def nvcCounted (s : State) (b : Nat) : Bool :=
  if b = devEntry then
    (s.nv.qs.any fun e => e.2.run.any fun x => x.op = 2 || x.op = 3 || x.op = 7) ||
      !s.nv.stores.isEmpty || s.nv.banks.any fun e => e.2.busy == .copy
  else s.nv.qs.any fun e => e.2.run.any fun x =>
    (x.op = 2 || x.op = 3 || x.op = 7) && (forBand s b e.2.base || forBand s b x.buf)

/-- A slice runs in the band, or anywhere (R441). -/
def bstRuns (s : State) (b : Nat) : Bool :=
  s.bst.slices.any fun e => match e.2 with
    | some x => b = devEntry || x.band == some b
    | none => false

/-- Whether an answer is one that the voter gives in this state. How long NVC's operations will take is the operand's to
say. -/
def voteHolds (s : State) (b : Nat) (e : Entry) (voter : Nat) (v : Vote) : Bool :=
  match voter, v with
  | 0x02, .accept => !nvcCounted s b
  | 0x02, .delay => nvcCounted s b
  | 0x02, .refuse r => nvcCounted s b && r == 6
  | 0x03, .accept => (cfgReasons s b e.target).isEmpty && !cfgLoading s b
  | 0x03, .delay => (cfgReasons s b e.target).isEmpty && cfgLoading s b
  | 0x03, .refuse r => (cfgReasons s b e.target).contains r
  | 0x05, .accept => !bstRuns s b
  | 0x05, .delay => bstRuns s b
  | 0x06, .accept => (rfxReasons s b e.target).isEmpty
  | 0x06, .refuse r => (rfxReasons s b e.target).contains r
  | 0x12, .accept => true
  | 0x12, .delay => true
  | 0x12, .refuse r => r == 0x0B
  | _, _ => false

/-! ## Carrying an entry out (R419) -/

/-- A packet is on its way to an endpoint of the band, and parks once the ingress is closed. -/
def packetsFor (s : State) (b : Nat) : Bool :=
  let mine (p : Pkt) : Bool := epBand s (pktEp p) == some b && !isMuzzled s (pktEp p)
  s.noc.flight.any mine || s.noc.parked.any fun e => e.2.any mine

/-- Tiles and DSP blocks lose their state, and reloads pending in the band are dropped (R60, R181). -/
def bandLogicOff (s : State) (b : Nat) : State :=
  let u := dropBand s b
  { u with
    fab := { u.fab with
      ffs := u.fab.ffs.filter fun e => tileBand e.1 != b },
    cfg := { u.cfg with
      frames := u.cfg.frames.map fun e =>
      if keyBand e.1 = b then (e.1, { e.2 with a := { e.2.a with pend := false }, b := { e.2.b with pend := false } }) else e },
    scr := { u.scr with
      bands := SMap.set dScrB u.scr.bands b { u.scrOf b with reading := false, canary := false, due := false } } }

/-- A column of the spine and periphery, whose functions only the device's state switches (Table 14.1). -/
def unswitched (key : Nat) : Bool := colKind (keyCol key) == .io || colKind (keyCol key) == .xcv || colKind (keyCol key) == .spine

/-- A frame whose planes have lost their cells: CFG's records of the active plane stay (R421, R422). -/
def lostFrame (key : Nat) (f : Frame) : Frame :=
  if isContent key then { f with a := { f.a with payload := [], flips := [] } }
  else (f.setPlane true { f.active with payload := [], flips := [] }).setPlane false {}

/-- The cells of every frame of a band are lost. -/
def loseFrames (s : State) (b : Nat) : State :=
  { s with cfg := { s.cfg with frames := s.cfg.frames.map fun e => if keyBand e.1 = b then (e.1, lostFrame e.1 e.2) else e } }

/-- OFF loses block RAM contents and both planes of every frame of the band (R135). The spine and the periphery go on as they were
configured (DEDUCED, log entry 58). -/
def bandRetentionOff (s : State) (b : Nat) : State :=
  let keep := (s.cfg.frames.filter fun e => keyBand e.1 == b && unswitched e.1 && !(planeRaw e.2.active).isEmpty).map fun e =>
    (e.1, planeRaw e.2.active)
  State.refresh (loseFrames { s with
    fab := { s.fab with
      ram := s.fab.ram.filter fun e => ramBand (e.1 / 2048) != b },
    cfg := { s.cfg with held := (s.cfg.held.filter fun e => keyBand e.1 != b) ++ keep } } b)

/-- The outstanding tables of a band's endpoints are cleared; every later response to what they asked counts in counter 7 (R226). -/
def bandForget (s : State) (b : Nat) : State :=
  ((List.range 128).filter fun id => epBand s id == some b).foldl (fun u id => forgetOut u id 7) s

/-- Steps 3–8 of R419. A packet that parks before the point of no return ends a NAP or OFF entry. -/
def carryBand (s : State) (b : Nat) (e : Entry) : State :=
  if e.target != 1 && packetsFor s b then refuseBand s b 0x01 0x0A
  else
    let s1 :=
      if e.target = 1 then s
      else if e.target = 2 then bandLogicOff (saveBand s b) b
      else bandForget (bandRetentionOff (bandLogicOff s b) b) b
    let s2 := s1.setBand b { s1.bandOf b with
      state := if e.target = 1 then .doze else if e.target = 2 then .nap else .off, entry := none, status := .ok, left := s.uptime }
    let s3 := { s2 with
      pwr := { s2.pwr with delays := if e.delayed then sat 0xFFFFFFFF s2.pwr.delays else s2.pwr.delays },
      mc := { s2.mc with idleTry := SMap.set (fun _ => (0, 0)) s2.mc.idleTry b (0, 0) } }
    endCmd? e.cmd .ok 0x17 [] ((s3.raiseAll 0xC0030 0 1).emit (.wire "pwr_notice" b 0))

/-- The last voter has accepted: a band's entry is carried out; a device entry stops every ring, closes every ingress and
waits for the RTC tick (R427). -/
def accepted (s : State) (b : Nat) (e : Entry) : State :=
  if b = devEntry then (List.range 64).foldl stopRing (setEntry s b (some { e with past := true })) else carryBand s b e

/-- A voter's answer (R415, R416). -/
def answer (s : State) (b voter : Nat) (v : Vote) : State :=
  match entryOf s b with
  | none => s
  | some e =>
    if !e.undec.contains voter then s
    else match v with
      | .refuse r => refuse s b voter r
      | .delay => setEntry s b (some { e with delayed := true })
      | .accept =>
        let e1 := { e with undec := e.undec.erase voter }
        if e1.undec.isEmpty then accepted (setEntry s b (some e1)) b e1 else setEntry s b (some e1)

/-- VOTE_ANSWER (R415). -/
def voteAnswer (b voter : Nat) (v : Vote) (s : State) : State :=
  match entryOf s b with
  | some e => if voteHolds s b e voter v then answer s b voter v else s
  | none => s

/-- VOTE_ANSWER. -/
def execVoteAnswer (band voter : Nat) (v : Vote) (s : State) : Host.Outcome State Fault Refusal :=
  done (voteAnswer band voter v) s

/-- The voter that refuses when 1 ms has passed: of the blocks that may delay so long and refuse (Table 14.3) the undecided
one of lowest ID (R416), with its reason. -/
def lateVoter (undec : List Nat) : Option (Nat × Nat) :=
  if undec.contains 0x02 then some (0x02, 6)
  else if undec.contains 0x03 then some (0x03, 2)
  else if undec.contains 0x12 then some (0x12, 0x0C)
  else none

/-- VOTE_TIMEOUT (R415): a voter still undecided 1 ms after the request refuses. -/
def voteTimeout (b : Nat) (s : State) : State :=
  match entryOf s b with
  | some e => match lateVoter e.undec with
    | some (v, r) => if s.uptime < e.t + 1000000 then s else refuse s b v r
    | none => s
  | none => s

/-- VOTE_TIMEOUT. -/
def execVoteTimeout (band : Nat) (s : State) : Host.Outcome State Fault Refusal := done (voteTimeout band) s

/-- The entry on which the stay-awake port of a band votes: the device's where one is in progress. -/
def portEntry (s : State) (b : Nat) : Nat := if s.pwr.dev.isSome then devEntry else b

/-- The port of a band has still to accept. -/
def portOpen (e : Entry) (b : Nat) : Bool := e.undec.contains 0x12 && e.ports.contains b

/-- A stay-awake port is not clamped (R437). -/
def portAwake (s : State) (b : Nat) : Bool := b < 16 && ((s.bandOf b).state == .on || (s.bandOf b).state == .doze)

/-- USER_SAMPLE (R417): what PWR reads at the stay-awake port of a band. USER accepts when its last port does
(DEDUCED, log entry 57). -/
def userSample (b : Nat) (stay wait : Bool) (s : State) : State :=
  let k := portEntry s b
  match entryOf s k with
  | none => s
  | some e =>
    let at_ := (e.sampled.find? fun x => x.1 == b).elim (e.t + 2000) fun x => x.2 + 1000
    if !portOpen e b || s.uptime < at_ then s
    else if stay then refuse s k 0x12 0x0B
    else if wait then
      setEntry s k (some { e with delayed := true, sampled := (b, s.uptime) :: e.sampled.filter fun x => x.1 != b })
    else
      let e1 := { e with ports := e.ports.erase b }
      if e1.ports.isEmpty then answer (setEntry s k (some e1)) k 0x12 .accept else setEntry s k (some e1)

/-- USER_SAMPLE. -/
def execUserSample (band : Nat) (stay wait : Bool) (s : State) : Host.Outcome State Fault Refusal :=
  done (userSample band stay wait) s

/-- STAY_AWAKE_RISE (R417): after the port's acceptance and before the point of no return. -/
def stayAwakeRise (b : Nat) (s : State) : State :=
  let k := portEntry s b
  match entryOf s k with
  | some e => if portOpen e b || !portAwake s b then s else refuse s k 0x12 0x0B
  | none => s

/-- STAY_AWAKE_RISE. -/
def execStayAwakeRise (band : Nat) (s : State) : Host.Outcome State Fault Refusal := done (stayAwakeRise band) s

/-! ## Requests (R414) -/

/-- The voters of an entry, as block IDs; NOC is asked nothing (Table 14.3). -/
def voters : List Nat := [0x02, 0x03, 0x05, 0x06, 0x12]

/-- The code on pwr_target with pwr_notice above it (Table 14.5). -/
def noticeWire (target : Nat) : Nat := (if target ≤ 3 then target else 0) + 4

/-- The bands whose stay-awake ports vote: the band's own; for the device those of every band in ON or DOZE, since the others
accept (Table 14.3) (DEDUCED, log entry 57). -/
def votingPorts (s : State) (b : Nat) : List Nat :=
  if b = devEntry then (List.range 16).filter (portAwake s) else [b]

/-- An entry begins. -/
def beginEntry (s : State) (b target : Nat) (cmd : Option CmdRef) : State :=
  let ports := votingPorts s b
  (setEntry s b (some { target, t := s.uptime, undec := if ports.isEmpty then voters.erase 0x12 else voters, ports, cmd })).emit
    (.wire "pwr_notice" b (noticeWire target))

/-- A band's entry or exit is in progress. -/
def inTransition (g : BandP) : Bool := g.entry.isSome || g.waking

/-- Whether a domain may command a band: the lead, or the owner of every region whose window touches it. -/
def mayCommand (s : State) (c : RunCmd) (b : Nat) : Bool :=
  s.lead == some c.d ||
    (b != 15 && !(bandRegions s b).isEmpty && (bandRegions s b).all fun r => s.owner r == cmdOwner c)

/-- A request for ON starts the exit (R414, R420); one for a HELD band tries the reload again (R423). -/
def requestOn (c : RunCmd) (b : Nat) (s : State) : State :=
  let g := s.bandOf b
  let s1 := waitCmd c [] (s.setBand b { g with cmd := some ⟨c.d, c.tag⟩ })
  if g.state == .doze then wakeBand s1 b
  else s1.setBand b { s1.bandOf b with waking := true, woken := s.uptime }

/-- A band's part of PWR_REQUEST_STATE. -/
def requestBand (c : RunCmd) (b target : Nat) (s : State) : State :=
  let g := s.bandOf b
  if inTransition g || s.pwr.dev.isSome then finish c .busy 0x17 [] [] s
  else if target = 0 then
    if g.state == .on then finish c .notReady 0x17 [] [] s else requestOn c b s
  else if g.state != .on then finish c .notReady 0x17 [] [] s
  else beginEntry (waitCmd c [] s) b target (some ⟨c.d, c.tag⟩)

/-- The device's part (R426): only from RUN, and only with a rail map. -/
def requestDevice (c : RunCmd) (target : Nat) (s : State) : State :=
  if s.pwr.dev.isSome || s.pwr.bands.any (fun e => inTransition e.2) then finish c .busy 0x17 [] [] s
  else if target = 0 || !s.pwr.recSet then finish c .notReady 0x17 [] [] s
  else beginEntry (waitCmd c [] s) devEntry (7 + target) (some ⟨c.d, c.tag⟩)

/-- PWR_REQUEST_STATE (R414, R426). -/
def pwrRequestState (d : Nat) (s : State) : State :=
  serve d 0x0601 .owner (fun c s =>
    let b := bf (pw c 0) 3 0
    let t := bf (pw c 0) 7 4
    if !mayCommand s c b then finish c .notOwner 0 [] [] s
    else if b = 15 then (if 2 < t then finish c .badParameter 0 [] [] s else requestDevice c t s)
    else if 3 < t then finish c .badParameter 0 [] [] s
    else requestBand c b t s) s

/-- PWR_REQUEST_STATE. -/
def execPwrRequestState (d : Nat) (s : State) : Host.Outcome State Fault Refusal := done (pwrRequestState d) s

/-! ## Leaving a band state (R420–R425) -/

/-- A parked request wakes a band; a response does not wake one in NAP (R225, R226). -/
def parkedWake (s : State) (b : Nat) : Bool :=
  s.noc.parked.any fun e => e.1 / 8 == b && e.2.any fun p => (s.bandOf b).state == .doze || !isRsp p.op

/-- An rfx_out pulse is held for a band in DOZE (R274). -/
def pulseHeld (s : State) (b : Nat) : Bool :=
  (s.bandOf b).state == .doze && s.rfx.tables.any fun e => e.2.heldOut != 0 &&
    (e.1 / 8 == b || (0x100 ≤ e.1 && 4 * (e.1 % 4) == b))

/-- BAND_WAKE (R420). -/
def bandWake (b : Nat) (s : State) : State := if b < 16 && (parkedWake s b || pulseHeld s b) then wakeBand s b else s

/-- BAND_WAKE. -/
def execBandWake (band : Nat) (s : State) : Host.Outcome State Fault Refusal := done (bandWake band) s

/-- A band's image failed its check (R425). -/
def imageLost (s : State) (b : Nat) : State :=
  let s1 := initBand (s.setBand b { s.bandOf b with status := .retentionLost }) b
  ({ s1 with pwr := { s1.pwr with retSt := s1.pwr.retSt ||| 2 ^ b } }).raiseFor (bandAccs s1 b) 0xC0030 0 4

/-- Checks a kennel bank and records the outcome in AON.KENNEL_VALID. -/
def checkBank (s : State) (n : Nat) : State :=
  { s with pwr := { s.pwr with
    kValid := s.pwr.kValid - (if s.pwr.kValid.testBit n then 2 ^ n else 0) + (if bankOk s n then 2 ^ n else 0) } }

/-- The image of a band is restored, or is lost (R420 step 2, R425). -/
def restoreBand (s0 : State) (b : Nat) : State :=
  let s := checkBank s0 b
  if bankOk s b then
    let s1 := loadBand s b
    { s1 with pwr := { s1.pwr with retSt := s1.pwr.retSt - (if s1.pwr.retSt.testBit b then 2 ^ b else 0) } }
  else imageLost s b

/-- BAND_POWER_GOOD (R420): the switches have closed. A band in NAP takes its image and is ON; one in OFF is reloaded. -/
def bandPowerGood (b : Nat) (s : State) : State :=
  let g := s.bandOf b
  if !g.waking || g.good then s
  else match g.state with
    | .nap => bandOn (restoreBand s b) b
    | .off => s.setBand b { g with good := true }
    | _ => s

/-- BAND_POWER_GOOD. -/
def execBandPowerGood (band : Nat) (s : State) : Host.Outcome State Fault Refusal := done (bandPowerGood band) s

/-- R225, last row: a request parked for a band that is not woken on access (DEDUCED, log entry 45). -/
def parkRefused (s : State) (p : Pkt) : State :=
  if isRsp p.op then dropRsp s p 7
  else
    let s1 := nocInt s (epOwner s p.src) 0x20
    if nonPosted p.op then respond s1 p .destPoweredDown [] else bump s1 (pktEp p) 0

/-- A reload that fails leaves the band OFF and HELD (R423). -/
def holdBand (s : State) (b : Nat) (st : Status) : State :=
  let g := s.bandOf b
  let ps := (List.range 8).flatMap fun c => parkedAt s (8 * b + c)
  let s1 := s.setBand b { g with held := true, waking := false, good := false, status := st, cmd := none }
  let s2 := { s1 with noc := { s1.noc with parked := s1.noc.parked.filter fun e => e.1 / 8 != b } }
  endCmd? g.cmd st 0x17 [] (ps.foldl parkRefused (s2.raiseFor (bandAccs s2 b) 0xC0030 0 8))

/-- After OFF the regions with a frame of their shadow set in the band are EMPTY (Table 5.7) (DEDUCED, log entry 58). -/
def emptyAfterOff (s : State) (b : Nat) : State :=
  { s with cfg := { s.cfg with
    regions := s.cfg.regions.foldl (fun m e => SMap.set dRegion m e.1
      (if e.2.shadow.any (fun k => keyBand k == b) then { e.2 with shadow := [], state := .empty } else e.2)) [] } }

/-- The plane that a reload after OFF writes. -/
def reloadPlane (key : Nat) (f : Frame) : Plane := if isContent key then f.a else f.active

/-- One frame of the reload as its source gives it, and how its checks end (R422): a configuration frame's CRC is its golden signature, a
content frame's the CRC stored with it. The segment tags are not rechecked. -/
def offFrame (s : State) (key : Nat) (p : Plane) : Status × List Word :=
  let g := fetchFrame s key p false
  let want := if isContent key then g.crc else p.sig
  if g.st != .ok then (g.st, [])
  else if g.crc != want || crc32c (wordBytes g.words) != want then (.crcFail, [])
  else (.ok, g.words)

/-- The frames of a reload in order, stopping at the first that fails. `fail` is the read that the store fails, if any. -/
def offFrames (fail : Status) : Nat → List (Nat × Frame) → State → Status × State
  | _, [], s => (fail, s)
  | i, e :: rest, s =>
    let p := reloadPlane e.1 e.2
    let r := if i = 0 && fail != .ok then (fail, []) else offFrame s e.1 p
    if r.1 != .ok then (r.1, s)
    else offFrames fail (i - 1) rest (s.setFrame e.1 (putPlane (s.frameOf e.1) e.1 true { p with payload := packWords r.2, flips := [] }))

/-- The reload of a band after OFF (R422): the manifest of every recorded source is checked before any frame is written; the canary is
written from ROM (R188). -/
def offReload (s : State) (b : Nat) (fail : Status) (i : Nat) : Status × State :=
  let es := bandFrames s b |>.filter fun e => e.1 != canaryKey b
  let bad := es.find? fun e => sourceCheck s (reloadPlane e.1 e.2).src (reloadPlane e.1 e.2).man != .ok
  match bad with
  | some e => (sourceCheck s (reloadPlane e.1 e.2).src (reloadPlane e.1 e.2).man, s)
  | none => offFrames fail i es (writeCanary s b)

/-- OFF_RELOAD_DONE (R422, R423): the reload has written every non-blank frame, or has stopped at the first that fails. `r` is OK, or the
status with which the store fails the read of frame `i` of the list. -/
def offReloadDone (b : Nat) (r : Status) (i : Nat) (s : State) : State :=
  let g := s.bandOf b
  if !g.good || g.state != .off then s
  else
    let u := offReload s b r i
    if u.1 == .ok then
      let s0 := State.refresh { u.2 with cfg := { u.2.cfg with held := u.2.cfg.held.filter fun e => keyBand e.1 != b } }
      let s1 := ramFabric (initBand (s0.setBand b { g with status := .ok }) b) (fun b' _ => b' == b)
      bandOn (emptyAfterOff s1 b) b
    else holdBand (loseFrames u.2 b) b u.1

/-- OFF_RELOAD_DONE. -/
def execOffReloadDone (band : Nat) (r : Status) (i : Nat) (s : State) : Host.Outcome State Fault Refusal :=
  done (offReloadDone band r i) s

/-! ## The power configuration record (Table 14.10) -/

/-- A word of a record. -/
def recWord (r : List Byte) (off : Nat) : Nat := leAt r off 4

/-- A record with a word replaced. -/
def recPut (r : List Byte) (off v : Nat) : List Byte := r.take off ++ leBytes 4 v ++ r.drop (off + 4)

/-- The bytes of rail entry i. -/
def recRail (r : List Byte) (i : Nat) : List Byte := (r.drop (8 + 8 * i)).take 8

/-- Byte k of a rail entry. -/
def railByte (e : List Byte) (k : Nat) : Nat := leAt e k 1

/-- The entry maps a rail. -/
def railUsed (e : List Byte) : Bool := railByte e 0 != 0

/-- −N of a rail entry. -/
def railExp (e : List Byte) : Nat := 256 - railByte e 4

/-- A rail entry's fields are in range. -/
def railOk (e : List Byte) : Bool :=
  !railUsed e || (railByte e 0 < 128 && 1 ≤ railByte e 1 && railByte e 1 ≤ 8 && 1 ≤ railExp e && railExp e ≤ 16)

/-- The used entries of a record. -/
def recUsed (r : List Byte) : List (List Byte) := ((List.range 8).map (recRail r)).filter railUsed

/-- A bank whose VCCIO rail is marked off in SENTRY. -/
def bankDark (r : List Byte) (bank : Nat) : Bool :=
  (recUsed r).any fun e => railByte e 1 = 8 && (leAt e 2 2).testBit bank && (railByte e 5).testBit 0

/-- The Sentry banks of a record. -/
def sentryBanks (r : List Byte) : List Nat := [bf (recWord r 0x4C) 7 0, bf (recWord r 0x4C) 15 8].filter (· != 0xFF)

/-- Monitor entry i of a record. -/
def recMon (r : List Byte) (i : Nat) : Nat := recWord r (0x70 + 4 * i)

/-- The refusals of Table 14.10. -/
def recBad (r : List Byte) : Bool :=
  !((List.range 8).all fun i => railOk (recRail r i)) ||
  !decide (((recUsed r).map fun e => railByte e 0).Nodup) ||
  ((recUsed r).filter fun e => railByte e 1 = 1).length != 1 ||
  (sentryBanks r).any (fun b => 15 < b || bankDark r b) ||
  (List.range 8).any (fun i => bf (recMon r i) 23 12 < bf (recMon r i) 11 0) ||
  ((recUsed r).any (fun e => railByte e 1 = 3 && (railByte e 5).testBit 0) &&
    (!(sentryBanks r).isEmpty || (List.range 8).any fun i => (recMon r i).testBit 31))

/-- One field of a record with its clamp (DEDUCED, log entry 71). -/
def recClamp (off hi lo : Nat) (f : Nat → Nat) (x : List Byte × List Clamp) : List Byte × List Clamp :=
  let v := bf (recWord x.1 off) hi lo
  if f v = v then x
  else (recPut x.1 off (setBits (wd (recWord x.1 off)) hi lo (f v)).toNat, x.2 ++ [cmdClamp (off / 4) lo v (f v)])

/-- A record after its clamps (DEDUCED, log entry 71). -/
def recClamped (r : List Byte) : List Byte × List Clamp :=
  let a := bf (recWord r 0x4C) 7 0
  ((r, []) : List Byte × List Clamp)
    |> recClamp 0x00 1 0 (fun v => if v = 3 then 1 else v)
    |> recClamp 0x48 31 0 (nearest 33 19660800)
    |> recClamp 0x4C 15 8 (fun v => if v = a then 0xFF else v)
    |> recClamp 0x4C 23 16 (nearest 1 15)

/-- Records PMB.LAST_XACT. -/
def lastXact (s : State) (rail cmd : Nat) (st : Status) : State :=
  { s with pwr := { s.pwr with
    lastX := wd (railByte (s.railOf rail).cfg 0 * 0x1000000 + cmd * 0x10000 + scode st)
    rails := SMap.set dRail s.pwr.rails rail { s.railOf rail with xactAt := s.uptime } } }

/-- PEC is sent to a rail, and checked (Table 14.10, byte 5). -/
def railPec (s : State) (rail : Nat) : Bool := (railByte (s.railOf rail).cfg 5).testBit 2

/-- The packet error code, a CRC-8 with polynomial x⁸ + x² + x + 1 (PRESUMED, log entry 25). -/
def pec8 (bs : List Byte) : Byte :=
  BitVec.ofNat 8 (bs.foldl (fun c b => (List.range 8).foldl (fun x _ => if 128 ≤ x then (2 * x) ^^^ 0x107 else 2 * x) (c ^^^ b.toNat)) 0)

/-- The bytes of a write to a rail after its address and command, with the PEC where the entry sets it (R434). -/
def pmbBytes (s : State) (rail cmd : Nat) (bs : List Byte) : List Byte :=
  if railPec s rail then bs ++ [pec8 (BitVec.ofNat 8 (2 * railByte (s.railOf rail).cfg 0) :: BitVec.ofNat 8 cmd :: bs)] else bs

/-- A PEC error of a read is counted; what was read is not taken (DEDUCED, log entry 61). -/
def pecFail (s : State) : State := { s with pwr := { s.pwr with pecErr := sat 0xFFFF s.pwr.pecErr } }

/-- The PMBus master writes a byte to a mapped address. -/
def pmbWrite1 (s : State) (rail cmd : Nat) (b : Byte) : State :=
  (lastXact s rail cmd .ok).emit (.pmbus rail cmd (pmbBytes s rail cmd [b]))

/-- The record comes into force, and ON_OFF_CONFIG goes to every mapped address (R434). -/
def applyRecord (r : List Byte) (s : State) : State :=
  let s1 := { s with pwr := { s.pwr with
    recSet := true, record := r,
    rails := (List.range 8).foldl (fun m i => SMap.set dRail m i { SMap.get dRail m i with cfg := recRail r i }) s.pwr.rails } }
  (List.range 8).foldl (fun u i => if railUsed (recRail r i) then pmbWrite1 u i 0x02 0x18 else u) s1

/-- PWR_SET_SENTRY (Table 14.10). -/
def pwrSetSentry (d : Nat) (s : State) : State :=
  serve d 0x0602 .lead (fun c s =>
    if !bufOk (pw c 0) (pw c 1) || pw c 1 != 152 then finish c .badParameter 0 [] [] s
    else
      let x := recClamped (readBuf s c (pw c 0) 152)
      if recBad x.1 then finish c .badParameter 0 x.2 [] s
      else finish c .ok 0x17 x.2 [] (applyRecord x.1 s)) s

/-- PWR_SET_SENTRY. -/
def execPwrSetSentry (d : Nat) (s : State) : Host.Outcome State Fault Refusal := done (pwrSetSentry d) s

/-- PWR_GET_ACCOUNTING (R365). The layout of the record in the buffer is not in the manual (DESIGN CHOICE, log entry 24). -/
def pwrGetAccounting (d : Nat) (s : State) : State :=
  serve d 0x0603 .any (fun c s =>
    let r := Config.accounting s.pwr.refTotal ((List.range 6).map (SMap.get dNat s.pwr.refCnt)) s.pwr.lastRef.toNat s.pwr.delays
    if !bufOk (pw c 0) r.length then finish c .badParameter 0 [] [] s
    else finish c .ok 0 [] [wd s.pwr.refTotal, s.pwr.lastRef &&& 0x1FFF0000] (writeBuf s c (pw c 0) r)) s

/-- PWR_GET_ACCOUNTING. -/
def execPwrGetAccounting (d : Nat) (s : State) : Host.Outcome State Fault Refusal := done (pwrGetAccounting d) s

/-! ## PMBus (R434–R436)

The command codes are those of the PMBus standard (PRESUMED, log entry 25): ON_OFF_CONFIG 0x02, CLEAR_FAULTS 0x03, VOUT_COMMAND 0x21,
STATUS_WORD 0x79, READ_VOUT 0x8B, READ_IOUT 0x8C, READ_TEMPERATURE_1 0x8D; OPERATION is 0x01. -/

/-- A rail is mapped. -/
def mapped (s : State) (rail : Nat) : Bool := rail < 8 && s.pwr.recSet && railUsed (s.railOf rail).cfg

/-- The device is in RUN, as far as the PMBus master is concerned. -/
def pmbRuns (s : State) : Bool := mcRuns s && s.boot.phase != .sentry && s.boot.phase != .hibernate && s.boot.phase != .powerReset

/-- A voltage in LINEAR16 with exponent −n, rounded (R435). -/
def linear16 (mv n : Nat) : Nat := (mv * 2 ^ n + 500) / 1000

/-- The entry of VCCINT (DEDUCED, log entry 61). -/
def vccintRail (s : State) : Option Nat := (List.range 8).find? fun i => mapped s i && railByte (s.railOf i).cfg 1 = 1

/-- A VOUT_COMMAND (R435). -/
def voutCommand (s : State) (rail mv : Nat) : State :=
  let g := s.railOf rail
  (lastXact (s.setRail rail { g with vout := mv, cmdAt := some s.uptime }) rail 0x21 .ok).emit
    (.pmbus rail 0x21 (pmbBytes s rail 0x21 (leBytes 2 (linear16 mv (railExp g.cfg)))))

/-- The requester of a VOUT_COMMAND, loop 1, is told that it failed: it stops (R376). -/
def avsFail (s : State) (rail : Nat) (st : Status) : State :=
  if (s.railOf rail).cmdAt.isSome then
    let s1 := s.setRail rail { s.railOf rail with cmdAt := none }
    (({ s1 with mc := { s1.mc with avsStop := true } }).policy st 1 rail (s1.railOf rail).vout).post allDomains 0 st 1 rail
      (s1.railOf rail).vout
  else s

/-- PMBUS_POLL (R434). -/
def pmbusPoll (reads : List RailRead) (s : State) : State :=
  if !pmbRuns s || s.uptime < s.pwr.pollAt + 100000000 then s
  else reads.foldl (fun u r =>
    if mapped u r.rail then
      if r.pecBad && railPec u r.rail then pecFail u else lastXact (u.setRail r.rail { u.railOf r.rail with iout := r.iout % 65536, temp := r.temp }) r.rail 0x8D .ok
    else u) { s with pwr := { s.pwr with pollAt := s.uptime } }

/-- PMBUS_POLL. -/
def execPmbusPoll (reads : List RailRead) (s : State) : Host.Outcome State Fault Refusal := done (pmbusPoll reads) s

/-- A value lies within ±1 % of another. -/
def within1 (v w : Nat) : Bool := decide (100 * v ≤ 101 * w) && decide (99 * w ≤ 100 * v)

/-- READ_VOUT_POLL (R435). -/
def readVoutPoll (rail mv : Nat) (pecBad : Bool) (s : State) : State :=
  let g := s.railOf rail
  if !mapped s rail || g.cmdAt.isNone || !pmbRuns s || s.uptime < g.xactAt + 100000 then s
  else if pecBad && railPec s rail then pecFail (s.setRail rail { g with xactAt := s.uptime })
  else
    let good := within1 mv g.vout
    let s1 := lastXact (s.setRail rail { g with rd := mv % 65536, cmdAt := if good then none else g.cmdAt }) rail 0x8B .ok
    if good && railByte g.cfg 1 = 1 then { s1 with mc := { s1.mc with vccint := g.vout } } else s1

/-- READ_VOUT_POLL. -/
def execReadVoutPoll (rail mv : Nat) (pecBad : Bool) (s : State) : Host.Outcome State Fault Refusal :=
  done (readVoutPoll rail mv pecBad) s

/-- VOUT_TIMEOUT (R435): 5 ms since the VOUT_COMMAND. -/
def voutTimeout (rail : Nat) (s : State) : State :=
  if !mapped s rail || !((s.railOf rail).cmdAt.any fun t => t + 5000000 ≤ s.uptime) || !pmbRuns s then s
  else avsFail ((lastXact s rail 0x8B .voutMismatch).raiseAll 0xE002C 0 2) rail .voutMismatch

/-- VOUT_TIMEOUT. -/
def execVoutTimeout (rail : Nat) (s : State) : Host.Outcome State Fault Refusal := done (voutTimeout rail) s

/-- PMBUS_RETRY (R435): a transaction that was not acknowledged is tried again; a second NACK is reported. -/
def pmbusRetry (rail : Nat) (acked : Bool) (s : State) : State :=
  if !mapped s rail || !pmbRuns s || s.uptime < (s.railOf rail).xactAt + 100000 then s
  else
    let nack (u : State) : State := { u with pwr := { u.pwr with nacks := sat 0xFFFF u.pwr.nacks } }
    let cmd := if (s.railOf rail).cmdAt.isSome then 0x21 else wf s.pwr.lastX 23 16
    if acked then lastXact (nack s) rail cmd .ok
    else avsFail ((lastXact (nack (nack s)) rail cmd .pmbusNack).raiseAll 0xE002C 0 1) rail .pmbusNack

/-- PMBUS_RETRY. -/
def execPmbusRetry (rail : Nat) (acked : Bool) (s : State) : Host.Outcome State Fault Refusal :=
  done (pmbusRetry rail acked) s

/-- PMB_ALERT (R436): STATUS_WORD of every mapped rail is recorded and posted, and faults are cleared
(DEDUCED, log entry 61). -/
def pmbAlert (words pecBad : List Nat) (s : State) : State :=
  if !pmbRuns s then s
  else (List.range 8).foldl (fun u i =>
    if mapped u i && railPec u i && pecBad.contains i then (pecFail u).emit (.pmbus i 0x79 [])
    else if mapped u i then
      let w := words.getD i 0 % 65536
      (((lastXact (u.setRail i { u.railOf i with status := w }) i 0x03 .ok).post allDomains 0 .ok 3 i w).emit
        (.pmbus i 0x79 [])).emit (.pmbus i 0x03 (pmbBytes u i 0x03 []))
    else u) (s.raiseAll 0xE002C 0 4)

/-- PMB_ALERT. -/
def execPmbAlert (words pecBad : List Nat) (s : State) : Host.Outcome State Fault Refusal := done (pmbAlert words pecBad) s

/-! ## The RTC and the kennel scratch -/

/-- RTC_FALLBACK (R433): 256 ACLK cycles of 250 ns without an XCLK edge. -/
def rtcFallback (s : State) : State :=
  if s.uptime < s.pwr.xclkAt + 64000 then s else { s with pwr := { s.pwr with fallback := true, xclk := false } }

/-- RTC_FALLBACK. -/
def execRtcFallback (s : State) : Host.Outcome State Fault Refusal := done rtcFallback s

/-- A read of AON.RTC_LO latches RTC_HI for the accessor (R438). -/
def rtcLo (acc : Accessor) (s : State) : Word × State :=
  (wd s.pwr.rtc, s.setCopy (acode acc) 0xD0004 0 (wd (bf s.pwr.rtc 47 32)))

/-- RTC_LO_READ. -/
def execRtcLoRead (acc : Accessor) (s : State) : Host.Outcome State Fault Refusal :=
  done (fun s => (rtcLo acc s).2.emit (.words [(rtcLo acc s).1])) s

/-- The owner of a scratch bank (Table 14.7). -/
def bankOwner (n : Nat) : Option Owner :=
  if 17 ≤ n && n < 29 then some (ownerOf ((n - 17) / 3))
  else if n = 29 || n = 30 then some .hs
  else if n = 31 then some .fab
  else none

/-- An accessor reaches a kennel bank (R424, R438): its own scratch; the MC reaches every bank. -/
def kennelMine (acc : Accessor) (n : Nat) : Bool := adom acc == .mc || bankOwner n == some (adom acc)

/-- An access of AON.KENNEL_DATA: the word read; the address advances by one word. -/
def kennelAccess (acc : Accessor) (wr : Option Word) (s : State) : Word × State :=
  let a := wf (s.copy (acode acc) 0xD0010 0) 20 0
  let mine := kennelMine acc (a / 65536)
  let r := if mine then wd (leNat (Memory.readN 0 s.pwr.kennel a 4)) else 0
  let s1 := match wr with
    | some v => if mine then { s with pwr := { s.pwr with kennel := Memory.writeN 0 s.pwr.kennel a (leBytes 4 v.toNat) } } else s
    | none => s
  (r, s1.setCopy (acode acc) 0xD0010 0 (wd ((a + 4) % 0x200000)))

/-- KENNEL_DATA (R438). -/
def kennelData (acc : Accessor) (wr : Option Word) (s : State) : State :=
  let r := kennelAccess acc wr s
  if wr.isNone then r.2.emit (.words [r.1]) else r.2

/-- KENNEL_DATA. -/
def execKennelData (acc : Accessor) (wr : Option Word) (s : State) : Host.Outcome State Fault Refusal :=
  done (kennelData acc wr) s

/-! ## Registers (Tables 14.11–14.14) -/

/-- Entries in progress. -/
def entryCount (s : State) : Nat := (s.pwr.bands.filter fun e => e.2.entry.isSome).length + b2n s.pwr.dev.isSome

/-- PWR.BAND_STATUS. -/
def bandWord (g : BandP) : Word :=
  wd (bandCode g.state * 0x10000000 + b2n g.held * 0x8000000 + b2n (inTransition g) * 0x4000000 + scode g.status * 0x10000 +
    g.lastUs)

/-- PWR.ENTRY_STATUS. -/
def entryWord (s : State) (b : Nat) : Word :=
  let show_ (e : Entry) (band : Nat) : Word :=
    wd (b2n (!e.undec.isEmpty) * 0x80000000 + e.undec.foldl (fun n v => n + 2 ^ (23 + voterRow v)) 0 + e.target * 256 + band)
  match s.pwr.dev with
  | some e => show_ e 0xF
  | none => match (s.bandOf b).entry with
    | some e => show_ e b
    | none => 0

/-- A read of a PWR register. -/
def pwrRead (acc : Accessor) (off : Nat) (s : State) : Word :=
  let a := acode acc
  let b := wf (s.copy a 0xC0004 0) 3 0
  match off with
  | 0x00 => wd (b2n s.pwr.dev.isSome * 0x10000000 + min 15 (entryCount s))
  | 0x04 => s.copy a 0xC0004 0
  | 0x08 => bandWord (s.bandOf b)
  | 0x0C => entryWord s b
  | 0x10 => wd s.pwr.refTotal
  | 0x14 => s.copy a 0xC0014 0
  | 0x18 => wd (SMap.get dNat s.pwr.refCnt (wf (s.copy a 0xC0014 0) 2 0))
  | 0x1C => s.pwr.lastRef
  | 0x20 => wd s.pwr.delays
  | 0x24 => s.pwr.wakeC
  | 0x28 => wd (scode s.pwr.wakeS * 0x10000 + s.pwr.wakeDur)
  | 0x2C => wd s.pwr.retSt
  | 0x30 => s.copy a 0xC0030 0
  | 0x34 => s.copy a 0xC0034 0
  | _ => 0

/-- A write of a PWR register: each accessor its own copies. -/
def pwrWrite (acc : Accessor) (off : Nat) (v : Word) (s : State) : State :=
  let a := acode acc
  match off with
  | 0x04 => s.setCopy a 0xC0004 0 (v &&& 0xF)
  | 0x14 => s.setCopy a 0xC0014 0 (v &&& 7)
  | 0x30 => s.clearCopy a 0xC0030 0 v
  | 0x34 => s.setCopy a 0xC0034 0 (v &&& 0xF)
  | _ => s

/-- A read of an AON register; RTC_LO and KENNEL_DATA change state. -/
def aonRead (acc : Accessor) (off : Nat) (s : State) : Word × State :=
  let a := acode acc
  match off with
  | 0x00 => rtcLo acc s
  | 0x04 => (s.copy a 0xD0004 0, s)
  | 0x08 => (wd (b2n s.pwr.xclk * 0x80000000 + b2n s.pwr.fallback * 0x40000000 + b2n s.pwr.counting * 0x20000000), s)
  | 0x0C => (wd (recWord s.pwr.record 0x94), s)
  | 0x10 => (s.copy a 0xD0010 0, s)
  | 0x14 => kennelAccess acc none s
  | 0x18 => (wd s.pwr.kValid, s)
  | 0x1C => (wd (recWord s.pwr.record 0x90), s)
  | 0x20 => (wd (s.pwr.pins % 256), s)
  | 0x24 => (wd (b2n s.pwr.armed * 0x80000000 + s.pwr.mism * 0x10000 + s.pwr.samples), s)
  | 0x28 => (s.copy a 0xD0028 0, s)
  | 0x2C => (wd (s.pwr.waking.toNat / 2 ^ (32 * wf (s.copy a 0xD0028 0) 1 0)), s)
  | _ => (0, s)

/-- A write of an AON register. -/
def aonWrite (acc : Accessor) (off : Nat) (v : Word) (s : State) : State :=
  match off with
  | 0x10 => s.setCopy (acode acc) 0xD0010 0 (v &&& 0x1FFFFC)
  | 0x14 => (kennelAccess acc (some v) s).2
  | 0x28 => s.setCopy (acode acc) 0xD0028 0 (v &&& 3)
  | _ => s

/-- A read of a PMB register. -/
def pmbRead (acc : Accessor) (off : Nat) (s : State) : Word :=
  let a := acode acc
  let g := s.railOf (wf (s.copy a 0xE0004 0) 2 0)
  match off with
  | 0x00 => wd (b2n s.pwr.recSet * 0x80000000 + bf (recWord s.pwr.record 0) 1 0)
  | 0x04 => s.copy a 0xE0004 0
  | 0x08 => if railUsed g.cfg then
      wd (railByte g.cfg 0 * 0x2000000 + railByte g.cfg 1 * 0x200000 + railExp g.cfg * 0x10000 + leAt g.cfg 2 2) else 0
  | 0x0C => wd (bf (railByte g.cfg 5) 2 0)
  | 0x10 => wd g.vout
  | 0x14 => wd g.rd
  | 0x18 => wd g.iout
  | 0x1C => wd (g.temp % 65536).toNat
  | 0x20 => wd g.status
  | 0x24 => s.pwr.lastX
  | 0x28 => wd (s.pwr.nacks * 0x10000 + s.pwr.pecErr)
  | 0x2C => s.copy a 0xE002C 0
  | 0x30 => s.copy a 0xE0030 0
  | _ => 0

/-- A write of a PMB register. -/
def pmbWrite (acc : Accessor) (off : Nat) (v : Word) (s : State) : State :=
  let a := acode acc
  match off with
  | 0x04 => s.setCopy a 0xE0004 0 (v &&& 7)
  | 0x2C => s.clearCopy a 0xE002C 0 v
  | 0x30 => s.setCopy a 0xE0030 0 (v &&& 7)
  | _ => s

end Sys2Proof.Machine
end

