-- ==== Sys2Proof/Machine/Nv.lean ====
section
/-! DEFINITION. The NV store at work: rights (R396–R398), descriptor queues (R387–R395), parts and their completion (R393,
R394), direct reads and urgency (R399–R401), XIP (R402), wear and torn sectors (R403–R406), refresh (R408), the NV commands
and the NVC registers (R411). Images and the library stand in NvImages.lean. -/
namespace Sys2Proof.Machine
open Sys2Proof

/-! ## Rights (R396–R398) -/

/-- The protection range of a logical sector. -/
def rangeAt (s : State) (sec : Nat) : Option Nat :=
  (s.nv.ranges.find? fun e => e.2.first ≤ sec && sec ≤ e.2.last).map (·.1)

/-- The domains with a session on a range: none that was opened under another owner. -/
def sessions (s : State) (r : Nat) : List Owner :=
  if (s.rangeOf r).so == s.owner (resRange r) then (s.rangeOf r).sess else []

/-- A domain may read a logical sector. -/
def mayRead (s : State) (o : Owner) (sec : Nat) : Bool :=
  match rangeAt s sec with
  | none => true
  | some r => o == .mc || !(s.rangeOf r).rp || (sessions s r).contains o

/-- A domain may program and erase a logical sector of the library or user flash, as its protection range gives. -/
def mayWriteRange (s : State) (o : Owner) (sec : Nat) : Bool :=
  match rangeAt s sec with
  | none => true
  | some r =>
    let g := s.rangeOf r
    if (sessions s r).contains o then !(g.wp && g.perm)
    else s.owner (resRange r) == o && !g.wp

/-- The partition of a logical sector: 0 and 1 the slots, 2 the library, 3 user flash (Table 13.2). -/
def partition (sec : Nat) : Nat := if sec < 128 then 0 else if sec < 256 then 1 else if sec < 512 then 2 else 3

/-- An operation lies within one partition (R383). -/
def inPartition (a len : Nat) : Bool :=
  decide (a + len ≤ 0x7F000000) && partition (laSector a) == partition (laSector (a + len - 1))

/-- The logical sectors of a range of addresses. -/
def sectorsOf (a len : Nat) : List Nat := (List.range (laSector (a + len - 1) + 1 - laSector a)).map (laSector a + ·)

/-! ## Queues (R28, R387–R391) -/

/-- The owner of a queue. -/
def qOwner (q : Nat) : Owner := [.mc, .h0, .h1, .h2, .h3, .hs, .fab, .fab].getD q .unowned

/-- An accessor is the owner of a queue. -/
def ownsQ (acc : Accessor) (q : Nat) : Bool := adom acc == qOwner q

/-- The NoC address of the HS mailbox (R389). -/
def hsMbx : Nat := 0x8D0000040000

/-- Where a queue's rings lie: those of queue 5 are fixed. -/
def qBase (s : State) (q : Nat) : Nat := if q = 5 then hsMbx + 0xC000 else (s.qOf q).base
def cqBase (s : State) (q : Nat) : Nat := if q = 5 then hsMbx + 0xE000 else (s.qOf q).cqBase

/-- A queue is enabled; queue 5 has no enable to write. -/
def qEnabled (s : State) (q : Nat) : Bool := q == 5 || (s.qOf q).enable

/-- Distance between 9-bit indices. -/
def idxFill (tail head : Nat) : Nat := (tail + 512 - head) % 512

/-- Writes bytes of the HS mailbox RAM. -/
def hsPut (s : State) (off : Nat) (bs : List Byte) : State :=
  { s with mc := { s.mc with ram := Memory.writeN 0 s.mc.ram (0x40000 + off) bs } }

/-- A queue with its indices; those of queue 5 appear in the HS mailbox (R389). -/
def putQ (s : State) (q : Nat) (g : NvQ) : State :=
  let s1 := s.setQ q g
  if q = 5 then
    hsPut s1 0xF000 (leBytes 4 g.tail ++ leBytes 4 g.head ++ leBytes 4 g.cqTail ++ leBytes 4 g.cqHead)
  else s1

/-- NVC serves a queue: the FAB queues from DONE, the others once the initial load has ended (R387). -/
def qServed (s : State) (q : Nat) : Bool :=
  if q = 6 || q = 7 then s.boot.done
  else s.boot.mcUp && s.boot.phase != .booting && s.boot.phase != .powerReset && s.boot.phase != .resetHeld &&
    (s.boot.imgActive || (s.loadOf mgmt).phase == .idle || (s.loadOf mgmt).nv.isNone)

/-- A queue could start a descriptor. -/
def qReady (s : State) (q : Nat) : Bool :=
  let g := s.qOf q
  q < 8 && qServed s q && qEnabled s q && !g.stop && idxFill g.tail g.head != 0 && idxFill g.cqTail g.cqHead != 256 &&
    g.run.length < 8

/-- The weight of a queue (R391). -/
def qWeight (q : Nat) : Nat := if q = 0 then 4 else 1

/-- The queue that starts the next descriptor: the one whose turn it is while it has work and credit, else the next with
work. -/
def qNext (s : State) : Option Nat :=
  if qReady s s.nv.turn && s.nv.credit < qWeight s.nv.turn then some s.nv.turn
  else ((List.range 8).map fun i => (s.nv.turn + 1 + i) % 8).find? (qReady s)

/-- A queue takes a turn. -/
def takeTurn (s : State) (q : Nat) : State :=
  { s with nv := { s.nv with
    credit := if q = s.nv.turn && s.nv.credit < qWeight q then s.nv.credit + 1 else 1, turn := q } }

/-- A queue stops (R395). -/
def stopQ (s : State) (q : Nat) (st : Status) : State :=
  (putQ s q { s.qOf q with stop := true, status := st }).raiseFor [ocode (qOwner q)] 0x40074 0 2

/-! ## Descriptors and their parts (Tables 13.4, 13.5) -/

/-- The parts of a range: for each bank's share of each logical sector its lowest address and its length, in order of
their lowest address (R393). -/
def partPages (a len block : Nat) : List (Nat × Nat) :=
  (List.range 512).filterMap fun p =>
    let lo := max a (block * 0x20000 + 256 * p)
    let hi := min (a + len) (block * 0x20000 + 256 * p + 256)
    if lo < hi then some (lo, hi - lo) else none

/-- The pieces of a part: the pages of its bank in its block, each with the bytes of the range that it holds. -/
def partPieces (a len start : Nat) : List (Nat × Nat) :=
  (partPages a len (start / 0x20000)).filter fun p => laBank p.1 == laBank start

/-- Bytes of pieces. -/
def piecesLen (ps : List (Nat × Nat)) : Nat := ps.foldl (fun n p => n + p.2) 0

/-- The parts of a range. -/
def partsOf (a len : Nat) : List (Nat × Nat) :=
  (List.range ((a + len - 1) / 0x20000 + 1 - a / 0x20000)).flatMap fun i =>
    ((partPages a len (a / 0x20000 + i)).take 4).map fun p => (p.1, piecesLen (partPieces a len p.1))

/-- A descriptor from its 32 bytes (DEDUCED, log entry 53). -/
def parseDesc (b : List Byte) : Desc :=
  { op := leAt b 0 1, flags := leAt b 1 1, tag := leAt b 2 2, addr := leAt b 4 4, len := leAt b 8 4, buf := leAt b 12 6,
    aux := leAt b 20 4 }

/-- The alignment that an opcode asks of address and length. -/
def opAlign (op : Nat) : Nat := if op = 3 then 0x20000 else if op = 6 then 32 else 4

/-- The range whose parts count: the destination of a COPY. -/
def targetAddr (x : Desc) : Nat := if x.op = 7 then x.aux else x.addr

/-- The checks made before any part starts (R383, R393, R396, R397) (DEDUCED, log entry 53). -/
def descCheck (s : State) (q : Nat) (x : Desc) : Status :=
  let al := opAlign x.op
  let o := qOwner q
  if x.op = 0 || 9 < x.op then .unknownCommand
  else if x.len = 0 || x.addr % al != 0 || x.len % al != 0 || (x.op = 7 && x.aux % 4 != 0) then .badParameter
  else if !inPartition x.addr x.len || (x.op = 7 && !inPartition x.aux x.len) then .rangeInvalid
  else if 64 < (partsOf (targetAddr x) x.len).length then .badParameter
  else if (x.op = 1 || x.op = 4 || x.op = 5 || x.op = 6 || x.op = 7) && !(sectorsOf x.addr x.len).all (mayRead s o) then
    .protectedRange
  else if (x.op = 2 || x.op = 3 || x.op = 7) &&
      !((sectorsOf (targetAddr x) x.len).all fun c => if c < 512 then q = 0 else mayWriteRange s o c) then .protectedRange
  else .ok

/-- A descriptor as it starts. -/
def startDesc (s : State) (q : Nat) (x : Desc) : Desc :=
  let st := descCheck s q x
  if st == .ok then
    { x with seq := s.nv.seq, parts := if x.op = 8 || x.op = 9 then [] else partsOf (targetAddr x) x.len }
  else { x with seq := s.nv.seq, fin := some st }

/-- DESCRIPTOR_START (R391, R392, R395): the queue whose turn it is fetches and starts a descriptor. A fenced one waits for
the earlier ones of its queue, and a counted one while NVC holds its vote (R418). -/
def descriptorStart (q : Nat) (fetch : DmaResult) (s : State) : State :=
  if qNext s != some q then s
  else
    let g := s.qOf q
    let m := if q = 5 then (.ok, s) else blockAccess s 0x11B (qOwner q) false (g.base + 32 * (g.head % 256)) 32 fetch.status
    let s1 := takeTurn m.2 q
    let bytes := if q = 5 then Memory.readN 0 s.mc.ram (0x40000 + 0xC000 + 32 * (g.head % 256)) 32 else fetch.data
    if m.1 != .ok then stopQ s1 q m.1
    else if bytes.length != 32 then s
    else
      let x := parseDesc bytes
      if (x.flags.testBit 1 && !g.run.isEmpty) || nvcHolds s g.base x then s1
      else
        let s2 := putQ s1 q { g with head := (g.head + 1) % 512, run := g.run ++ [startDesc s q x] }
        { s2 with nv := { s2.nv with seq := s2.nv.seq + 1 } }

/-- DESCRIPTOR_START. -/
def execDescriptorStart (q : Nat) (fetch : DmaResult) (s : State) : Host.Outcome State Fault Refusal :=
  done (descriptorStart q fetch) s

/-- Part k of a descriptor has not ended. -/
def partOpen (x : Desc) (k : Nat) : Bool := k < x.parts.length && !x.ended.any fun e => e.1 == k

/-- The banks of a descriptor's open parts. -/
def openBanks (x : Desc) : List Nat :=
  ((List.range x.parts.length).filter (partOpen x)).map fun k => laBank (x.parts.getD k (0, 0)).1

/-- The running descriptors of every queue. -/
def running (s : State) : List Desc := s.nv.qs.flatMap fun e => e.2.run

/-- The operation that a bank carries out: the one that started first (R391). -/
def bankOp (s : State) (bank : Nat) : Option Desc :=
  let xs := (running s).filter fun x => (openBanks x).contains bank
  xs.find? fun x => xs.all fun y => x.seq ≤ y.seq

/-- BANK_STATUS.state (Table 13.12). -/
def bankState (s : State) (bank : Nat) : Nat :=
  if (s.bankOf bank).busy == .copy then 5
  else match bankOp s bank with
    | some x => if x.op = 2 || x.op = 7 then 2 else if x.op = 3 then 3 else 1
    | none => if (s.bankOf bank).busy == .gapErase then 6 else 0

/-- A bank answers a direct read with BUSY (R400). -/
def bankBusy (s : State) (bank : Nat) : Bool := let n := bankState s bank; n == 2 || n == 3 || n == 5

/-- The first open part of a descriptor in a bank. -/
def openPart (x : Desc) (bank : Nat) : Option (Nat × Nat) :=
  ((List.range x.parts.length).filter fun k => partOpen x k && laBank (x.parts.getD k (0, 0)).1 == bank).head?.map
    fun k => x.parts.getD k (0, 0)

/-- A bank is erasing the physical sector of a logical one: ERASE_STARTED is set there and ERASE_DONE is not (R405). -/
def erasing (s : State) (bank sec : Nat) : Bool :=
  match bankOp s bank with
  | some x => x.op == 3 && (match openPart x bank with | some p => laSector p.1 == sec | none => false)
  | none => false

/-- A domain has urgent rights. -/
def urgentRights (s : State) (o : Owner) : Bool :=
  (List.range 8).any fun q => qOwner q == o && (q = 0 || s.nv.urgent.testBit q)

/-- An urgent read of a domain with rights suspends the erase of a bank, at most 64 times (R401). -/
def suspends (s : State) (o : Owner) (urgent : Bool) (bank : Nat) : Bool :=
  urgent && urgentRights s o && bankState s bank == 3 && (s.bankOf bank).susp < 64

/-- A suspension counts. -/
def suspend (s : State) (bank : Nat) : State :=
  s.setBank bank { s.bankOf bank with susp := (s.bankOf bank).susp + 1 }

/-! ## What a part does -/

/-- A domain has declared a bank (R402). -/
def xipHas (s : State) (o : Owner) (bank : Nat) : Bool :=
  s.nv.xip.any fun e => match e.2 with | some x => x.1 == o && x.2.testBit bank | none => false

/-- A buffer address in the HS mailbox: its offset. -/
def hsBuf (q a n : Nat) : Option Nat :=
  if q = 5 && hsMbx + 0x2000 ≤ a && a + n ≤ hsMbx + 0xC000 then some (a - hsMbx) else none

/-- Writes data to a descriptor's buffer. -/
def bufWrite (s : State) (q a : Nat) (bs : List Byte) (st : Status) : Status × State :=
  match hsBuf q a bs.length with
  | some off => (.ok, hsPut s off bs)
  | none => blockWrite s 0x11B (qOwner q) a bs st

/-- What the reads of a part's pieces in a descriptor's buffer meet (R208, R209, R387). -/
def bufMeets (q : Nat) (x : Desc) (ps : List (Nat × Nat)) (st : Status) (s : State) : Status × State :=
  ps.foldl (fun (u : Status × State) p =>
    if u.1 != .ok || (hsBuf q (x.buf + (p.1 - x.addr)) p.2).isSome then u
    else blockAccess u.2 0x11B (qOwner q) false (x.buf + (p.1 - x.addr)) p.2 st) (.ok, s)

/-- Data read from a descriptor's buffer. -/
def bufRead (s : State) (q a n : Nat) (r : PartInput) (used : Nat) : List Byte :=
  match hsBuf q a n with
  | some off => Memory.readN 0 s.mc.ram (0x40000 + off) n
  | none => (r.data.drop used).take n

/-- The sector of a logical address is TORN. -/
def tornAt (s : State) (a : Nat) : Bool := isTorn s (laBank a) (laSector a)

/-- A part of a READ: each piece goes to the buffer. -/
def readPart (q : Nat) (x : Desc) (r : PartInput) (ps : List (Nat × Nat)) (s : State) : Status × State :=
  ps.foldl (fun (u : Status × State) p =>
    if u.1 == .ok then bufWrite u.2 q (x.buf + (p.1 - x.addr)) (nvRead u.2 p.1 p.2) r.status else u) (.ok, s)

/-- A page that holds a programmed bit. -/
def pageUsed (s : State) (a : Nat) : Bool := (nvRead s (a / 256 * 256) 256).any (· != erased)

/-- Programs pieces from a source of data, page by page: whether every page verified (R393). -/
def programPieces (data : Nat → Nat → List Byte) : List (Nat × Nat) → State → Bool × State
  | [], s => (true, s)
  | p :: ps, s =>
    let bs := data p.1 p.2
    let used := pageUsed s p.1
    let u := nvProgram s p.1 bs
    let r := programPieces data ps u
    (!used && nvRead u p.1 p.2 == bs && r.1, r.2)

/-- The physical sector of an address is retired at its next erase (R404). -/
def markRetire (s : State) (a : Nat) : State :=
  let b := s.bankOf (laBank a)
  let p := physOf b (laSector a)
  s.setBank (laBank a) { b with retire := if b.retire.contains p then b.retire else b.retire ++ [p] }

/-- A part of a PROGRAM or of a COPY's destination. -/
def programPart (data : Nat → Nat → List Byte) (r : PartInput) (start : Nat) (ps : List (Nat × Nat)) (s : State) :
    Status × State :=
  let u := programPieces data ps s
  if u.1 && r.verify1 then (.ok, u.2) else (.programFail, markRetire u.2 start)

/-- An erase of a bank counts; the gap falls due after every 32 (R403) (DEDUCED, log entry 55). -/
def countErase (b : Bank) : Bank :=
  if b.toMove ≤ 1 then { b with toMove := 32, due := true, susp := 0 } else { b with toMove := b.toMove - 1, susp := 0 }

/-- A sector leaves service for a spare (R404) (DEDUCED, log entry 55). -/
def retireTo (s : State) (bank slot p : Nat) (b : Bank) : State :=
  let sp := 1024 - b.spares
  let s1 := s.setBank bank { b with
    ring := SMap.set (fun r => r) b.ring slot sp, spares := b.spares - 1, retire := b.retire.erase p,
    started := b.started.erase p }
  let s2 := nvErasePhys { s1 with nv := { s1.nv with retired := s1.nv.retired + 1 } } bank sp
  (s2.policy .ok 3 bank p).raiseAll 0x40074 0 4

/-- Erases the physical sector of a ring slot (R404, R405): a hot sector first exchanges places with the gap's; a failing
erase is retried once, and then a spare takes the sector's place while there is one. False where it fails. -/
def eraseSlot (bank slot : Nat) (v1 v2 : Bool) (s : State) : Bool × State :=
  let b0 := s.bankOf bank
  let p0 := slotPhys b0 slot
  let gp := slotPhys b0 b0.g
  let hot := b0.busy == .idle && b0.erases / 1024 + 256 < SMap.get dNat b0.cnt p0
  let b1 := if hot then { b0 with ring := SMap.set (fun r => r) (SMap.set (fun r => r) b0.ring slot gp) b0.g p0 } else b0
  let p := if hot then gp else p0
  let n := if v1 then 1 else 2
  let b2 := { countErase b1 with
    erases := min 0xFFFFFFFF (b1.erases + n), cnt := SMap.set dNat b1.cnt p (SMap.get dNat b1.cnt p + n) }
  let failed := !v1 && !v2
  if (failed || b2.retire.contains p) && 0 < b2.spares then (true, retireTo s bank slot p b2)
  else if failed then (false, s.setBank bank b2)
  else (true, nvErasePhys (s.setBank bank { b2 with started := b2.started.erase p }) bank p)

/-- A part of an ERASE. -/
def erasePart (r : PartInput) (start : Nat) (s : State) : Status × State :=
  let bank := laBank start
  let u := eraseSlot bank (ringSlot (s.bankOf bank) (laSector start)) r.verify1 r.verify2 s
  (if u.1 then .ok else .eraseFail, u.2)

/-- A part's pieces on the source of a COPY. -/
def srcTorn (s : State) (x : Desc) (ps : List (Nat × Nat)) : Bool := ps.any fun p => tornAt s (x.addr + (p.1 - x.aux))

/-- Data of a COPY's source for a piece of its destination. -/
def copyData (s : State) (x : Desc) (a n : Nat) : List Byte := nvRead s (x.addr + (a - x.aux)) n

/-- The bytes before a piece among a part's pieces. -/
def usedBefore (ps : List (Nat × Nat)) (a : Nat) : Nat := piecesLen (ps.filter fun p => p.1 < a)

/-- The first byte of pieces that is not blank. -/
def firstUsed (s : State) (ps : List (Nat × Nat)) : Option Nat :=
  ps.findSome? fun p => ((List.range p.2).find? fun i => nvByte s (p.1 + i) != erased).map (p.1 + ·)

/-- What one part does and how it ends (Table 13.5); the descriptor with what it returns. -/
def doPart (q : Nat) (x : Desc) (start : Nat) (r : PartInput) (s : State) : Status × Desc × State :=
  let ps := partPieces (targetAddr x) x.len start
  let torn := tornAt s start
  match x.op with
  | 1 => if torn then (.sectorTorn, x, s) else let u := readPart q x r ps s; (u.1, x, u.2)
  | 2 =>
    if torn then (.sectorTorn, x, s)
    else if xipHas s (qOwner q) (laBank start) then (.xipLocked, x, s)
    else
      let m := bufMeets q x ps r.status s
      if m.1 != .ok then (m.1, x, m.2)
      else
        let u := programPart (fun a n => bufRead s q (x.buf + (a - x.addr)) n r (usedBefore ps a)) r start ps m.2
        (u.1, x, u.2)
  | 3 => if xipHas s (qOwner q) (laBank start) then (.xipLocked, x, s) else let u := erasePart r start s; (u.1, x, u.2)
  | 4 => (if torn then .sectorTorn else .ok, x, s)
  | 5 => if torn then (.sectorTorn, x, s)
    else match firstUsed s ps with
      | some a => (.eraseFail, { x with failAt := min x.failAt a }, s)
      | none => (.ok, x, s)
  | 6 => if torn then (.sectorTorn, x, s) else (.ok, { x with result := x.result + wd r.differs }, s)
  | _ =>
    if srcTorn s x ps || torn then (.sectorTorn, x, s)
    else if xipHas s (qOwner q) (laBank start) then (.xipLocked, x, s)
    else let u := programPart (copyData s x) r start ps s; (u.1, x, u.2)

/-- The data that a PROGRAM part hands over has the part's length. -/
def dataFits (q : Nat) (x : Desc) (ps : List (Nat × Nat)) (r : PartInput) : Bool :=
  x.op != 2 || q = 5 || r.status != .ok || r.data.length == piecesLen ps

/-- A READ, VERIFY or MARGIN_READ whose urgent flag is set by a domain with rights (R401). -/
def urgentRead (s : State) (q : Nat) (x : Desc) : Bool :=
  (x.op == 1 || x.op == 4 || x.op == 6) && x.flags.testBit 0 && urgentRights s (qOwner q)

/-- An urgent read ends a self-test slice in its bank (Table 15.2). -/
def metSlice (q : Nat) (x : Desc) (bank : Nat) (s : State) : State := if urgentRead s q x then meetSlice s 7 bank else s

/-- A part of an urgent read that suspends the erase its bank carries out. -/
def urgentPart (s : State) (q : Nat) (x : Desc) (bank : Nat) : Bool :=
  bankOp s bank != some x && urgentRead s q x && suspends s (qOwner q) true bank

/-- What a part does; an urgent read meets the sector that the bank erases as TORN. -/
def partRun (q : Nat) (x : Desc) (start : Nat) (r : PartInput) (s : State) : Status × Desc × State :=
  if urgentPart s q x (laBank start) then
    (if erasing s (laBank start) (laSector start) then (.sectorTorn, x, suspend s (laBank start))
     else doPart q x start r (suspend s (laBank start)))
  else
    let u := doPart q x start r s
    (u.1, u.2.1, metSlice q x (laBank start) u.2.2)

/-- A part of a running descriptor of an opcode ends: only the operation that its bank carries out or an urgent read that
suspends it, and not during a gap or refresh copy. -/
def partEvent (op q tag k : Nat) (r : PartInput) (s : State) : State :=
  match (s.qOf q).run.find? fun x => x.tag == tag && x.op == op && partOpen x k with
  | none => s
  | some x =>
    let part := x.parts.getD k (0, 0)
    if (bankOp s (laBank part.1) != some x && !urgentPart s q x (laBank part.1)) || (s.bankOf (laBank part.1)).busy == .copy ||
        outOfService s 0x84 (laSector part.1) || !dataFits q x (partPieces (targetAddr x) x.len part.1) r then s
    else
      let u := partRun q x part.1 r s
      let y := { u.2.1 with
        ended := x.ended ++ [(k, u.1)], doneB := if u.1 == .ok then x.doneB + part.2 else x.doneB }
      let g := u.2.2.qOf q
      u.2.2.setQ q { g with run := g.run.map fun z => if z == x then y else z }

/-- READ. -/
def execRead (q tag part : Nat) (r : PartInput) (s : State) : Host.Outcome State Fault Refusal := done (partEvent 1 q tag part r) s
/-- PROGRAM. -/
def execProgram (q tag part : Nat) (r : PartInput) (s : State) : Host.Outcome State Fault Refusal := done (partEvent 2 q tag part r) s
/-- ERASE. -/
def execErase (q tag part : Nat) (r : PartInput) (s : State) : Host.Outcome State Fault Refusal := done (partEvent 3 q tag part r) s
/-- VERIFY. -/
def execVerify (q tag part : Nat) (r : PartInput) (s : State) : Host.Outcome State Fault Refusal := done (partEvent 4 q tag part r) s
/-- BLANK_CHECK. -/
def execBlankCheck (q tag part : Nat) (r : PartInput) (s : State) : Host.Outcome State Fault Refusal := done (partEvent 5 q tag part r) s
/-- MARGIN_READ. -/
def execMarginRead (q tag part : Nat) (r : PartInput) (s : State) : Host.Outcome State Fault Refusal := done (partEvent 6 q tag part r) s
/-- COPY. -/
def execCopy (q tag part : Nat) (r : PartInput) (s : State) : Host.Outcome State Fault Refusal := done (partEvent 7 q tag part r) s

/-! ## XIP (R402) -/

/-- The banks that a range touches. -/
def bankMask (a len : Nat) : Nat := ((partsOf a len).map fun p => laBank p.1).eraseDups.foldl (fun n b => n + 2 ^ b) 0

/-- A running XIP descriptor of an opcode ends with a status. -/
def xipEvent (op q tag : Nat) (f : Desc → State → Status × State) (s : State) : State :=
  match (s.qOf q).run.find? fun x => x.tag == tag && x.op == op && x.fin.isNone with
  | none => s
  | some x =>
    let u := f x s
    let g := u.2.qOf q
    u.2.setQ q { g with run := g.run.map fun z => if z == x then { x with fin := some u.1 } else z }

/-- XIP_DECLARE: the first free entry of 16 takes the domain and the banks. -/
def xipDeclare (q tag : Nat) (s : State) : State :=
  xipEvent 8 q tag (fun x s =>
    match (List.range 16).find? fun i => (SMap.get dNone s.nv.xip i).isNone with
    | none => (.busy, s)
    | some i => (.ok, { s with nv := { s.nv with
        xip := SMap.set dNone s.nv.xip i (some (qOwner q, bankMask x.addr x.len)) } })) s

/-- XIP_DECLARE. -/
def execXipDeclare (q tag : Nat) (s : State) : Host.Outcome State Fault Refusal := done (xipDeclare q tag) s

/-- XIP_RELEASE: the domain's declaration with the same bank set. -/
def xipRelease (q tag : Nat) (s : State) : State :=
  xipEvent 9 q tag (fun x s =>
    match (List.range 16).find? fun i => SMap.get dNone s.nv.xip i == some (qOwner q, bankMask x.addr x.len) with
    | none => (.badParameter, s)
    | some i => (.ok, { s with nv := { s.nv with xip := SMap.set dNone s.nv.xip i none } })) s

/-- XIP_RELEASE. -/
def execXipRelease (q tag : Nat) (s : State) : Host.Outcome State Fault Refusal := done (xipRelease q tag) s

/-! ## Completions (R394, R395) -/

/-- The statuses of the parts that failed, in part order. -/
def failedParts (x : Desc) : List (Nat × Status) :=
  (List.range x.parts.length).filterMap fun k =>
    (x.ended.find? fun e => e.1 == k && e.2 != .ok)

/-- Every part has ended, or none is to start. -/
def descOver (x : Desc) : Bool :=
  x.fin.isSome || (x.op != 8 && x.op != 9 && x.ended.length == x.parts.length)

/-- The status of a descriptor that has ended, and whether it takes the mask form. -/
def descStatus (s : State) (x : Desc) : Status × Bool :=
  let fs := failedParts x
  match x.fin with
  | some st => (st, false)
  | none => match fs with
    | [] => (if x.op = 4 && crc32c (nvRead s x.addr x.len) != wd x.aux then .crcFail else .ok, false)
    | f :: _ => if fs.length == x.parts.length && fs.all (fun e => e.2 == f.2) then (f.2, false) else (.splitPartial, true)

/-- The 16 bytes of a completion (Table 13.6) at a CQ_TAIL value. -/
def descCpl (s : State) (x : Desc) (tail : Nat) : List Byte :=
  let r := descStatus s x
  let fs := failedParts x
  let low := match fs with | f :: _ => scode f.2 | [] => 0
  let first := match fs with | f :: _ => min x.failAt (x.parts.getD f.1 (0, 0)).1 | [] => 0xFFFFFFFF
  let res := if x.op = 4 then (crc32c (nvRead s x.addr x.len)).toNat else x.result.toNat
  leBytes 2 x.tag ++ [BitVec.ofNat 8 (scode r.1)] ++
    [BitVec.ofNat 8 ((if tail / 256 = 0 then 128 else 0) + (if r.2 then 64 else 0) + (x.parts.length - 1))] ++
    leBytes 4 (low * 0x1000000 + x.doneB % 0x1000000) ++
    (if r.2 then leBytes 8 (fs.foldl (fun n f => n + 2 ^ f.1) 0)
     else leBytes 4 (if x.op = 5 && x.failAt != 0xFFFFFFFF then x.failAt else first) ++
       leBytes 4 (if x.fin.isSome then 0 else res))

/-- PART_DONE (R394, R395): after the last part the completion is written; a write that fails stops the queue, and a
stopped queue holds its completions. -/
def partDone (q tag : Nat) (wr : Status) (s : State) : State :=
  let g := s.qOf q
  match g.run.find? fun x => x.tag == tag && descOver x with
  | none => s
  | some x =>
    let rest := g.run.erase x
    if g.stop then s.setQ q { g with run := rest, held := g.held ++ [descCpl s x g.cqTail] }
    else if idxFill g.cqTail g.cqHead = 256 then s
    else
      let bs := descCpl s x g.cqTail
      let u := if q = 5 then (.ok, hsPut s (0xE000 + 16 * (g.cqTail % 256)) bs)
        else blockWrite s 0x11B (qOwner q) (cqBase s q + 16 * (g.cqTail % 256)) bs wr
      if u.1 != .ok then stopQ (u.2.setQ q { g with run := rest, held := g.held ++ [bs] }) q u.1
      else
      let s1 := putQ u.2 q { g with run := rest, cqTail := (g.cqTail + 1) % 512 }
      if 1 ≤ q && q ≤ 4 then s1.raiseFor [ocode (qOwner q)] 0x40074 0 1 else s1

/-- PART_DONE. -/
def execPartDone (q tag : Nat) (wr : Status) (s : State) : Host.Outcome State Fault Refusal := done (partDone q tag wr) s

/-! ## Index writes (R388, R389, R395) -/

/-- A write of Q_TAIL. -/
def qTail (q : Nat) (v : Word) (s : State) : State :=
  let g := s.qOf q
  if 256 < idxFill (wf v 8 0) g.head then putQ s q { g with idxErr := true }
  else putQ s q { g with tail := wf v 8 0, idxErr := false }

/-- A write of CQ_HEAD. -/
def cqHead (q : Nat) (v : Word) (s : State) : State :=
  let g := s.qOf q
  if idxFill g.cqTail g.cqHead < idxFill g.cqTail (wf v 8 0) then putQ s q { g with idxErr := true }
  else putQ s q { g with cqHead := wf v 8 0, idxErr := false }

/-- A write of Q_CTRL: enable from 0 to 1 restarts the queue. -/
def qCtrl (q : Nat) (v : Word) (s : State) : State :=
  let g := s.qOf q
  if wb v 31 && !g.enable then
    putQ s q { g with enable := true, tail := 0, head := 0, cqTail := 0, cqHead := 0, stop := false, idxErr := false,
                      status := .ok, held := [] }
  else putQ s q { g with enable := wb v 31 }

/-- The queue that an accessor's index selects. -/
def qSel (acc : Accessor) (s : State) : Nat := wf (s.copy (acode acc) 0x40004 0) 2 0

/-- An accessor may write a queue's registers; those of queue 5 ignore writes. -/
def qWritable (acc : Accessor) (q : Nat) : Bool := q != 5 && ownsQ acc q

/-- Q_TAIL_WRITE (R388). -/
def qTailWrite (acc : Accessor) (v : Word) (s : State) : State :=
  if qWritable acc (qSel acc s) then qTail (qSel acc s) v s else s

/-- Q_TAIL_WRITE. -/
def execQTailWrite (acc : Accessor) (v : Word) (s : State) : Host.Outcome State Fault Refusal := done (qTailWrite acc v) s

/-- CQ_HEAD_WRITE (R388). -/
def cqHeadWrite (acc : Accessor) (v : Word) (s : State) : State :=
  if qWritable acc (qSel acc s) then cqHead (qSel acc s) v s else s

/-- CQ_HEAD_WRITE. -/
def execCqHeadWrite (acc : Accessor) (v : Word) (s : State) : Host.Outcome State Fault Refusal := done (cqHeadWrite acc v) s

/-- QUEUE_ENABLE (R395). -/
def queueEnable (acc : Accessor) (v : Word) (s : State) : State :=
  if qWritable acc (qSel acc s) then qCtrl (qSel acc s) v s else s

/-- QUEUE_ENABLE. -/
def execQueueEnable (acc : Accessor) (v : Word) (s : State) : Host.Outcome State Fault Refusal := done (queueEnable acc v) s

/-- HS writes a word of its mailbox from 0xC000 on: the index words act as registers (R389). -/
def hsIndex (off : Nat) (v : Word) (s : State) : State :=
  if off = 0xF000 then qTail 5 v s else if off = 0xF00C then cqHead 5 v s else s

/-! ## Direct reads (R399–R401) -/

/-- The data of a read that NVC answers with a status other than OK (R400). -/
def nvPattern (st : Status) (off len : Nat) : List Byte :=
  (List.range len).map fun i => BitVec.ofNat 8 ((0x5A5A0000 + scode st) / 256 ^ ((off + i) % 4))

/-- The answer to a direct read of a page; an urgent one suspends an erase. A sector that a full-mode test has out of service (R452) is
busy (DEDUCED, log entry 63). -/
def nvDirect (s : State) (o : Owner) (urgent : Bool) (a len : Nat) : Status × List Byte × State :=
  let no (st : Status) (u : State) : Status × List Byte × State := (st, nvPattern st a len, u)
  if 0x7F000000 < a + len || 0x7F000000 ≤ a then no .firewallDeny s
  else if !mayRead s o (laSector a) then no .protectedRange s
  else if outOfService s 0x84 (laSector a) then no .busy s
  else if bankBusy s (laBank a) then
    if suspends s o urgent (laBank a) then
      (if tornAt s a || erasing s (laBank a) (laSector a) then no .sectorTorn (suspend s (laBank a))
       else (.ok, nvRead s a len, suspend s (laBank a)))
    else no .busy s
  else if tornAt s a then no .sectorTorn s
  else (.ok, nvRead s a len, if urgent && urgentRights s o then meetSlice s 7 (laBank a) else s)

/-- DIRECT_READ (R399): an RD that has reached the store's logical space. -/
def directRead (p : Pkt) (s : State) : State :=
  let u := nvDirect s p.dom p.urgent (pktOff p) p.len
  reply u.2.2 p u.1 u.2.1

/-- DIRECT_READ: the packet is one on its way to the store's logical space. -/
def execDirectRead (p : Pkt) (s : State) : Host.Outcome State Fault Refusal :=
  done (fun s =>
    if p.op == .rd && pktEp p == 0x11B && pktOff p < 0x7F000000 then
      match takeFlight s p with
      | some s1 => if isMuzzled s1 0x11B then absorb s1 p else directRead p s1
      | none => s
    else s) s

/-! ## Wear rotation (R403) -/

/-- GAP_MOVE: after 32 erases the slot beside the gap is copied into it, once the gap is erased. -/
def gapMove (bank : Nat) (s : State) : State :=
  let b := s.bankOf bank
  if 63 < bank || !b.due || nvcDevHeld s || b.busy != .idle || b.started.contains (slotPhys b b.g) then s
  else s.setBank bank { b with
    busy := .copy, due := false, copyRef := false, copySlot := if b.g = 0 then 1016 else b.g - 1 }

/-- GAP_MOVE. -/
def execGapMove (bank : Nat) (s : State) : Host.Outcome State Fault Refusal := done (gapMove bank) s

/-- The cells of one physical sector in another. -/
def copySector (s : State) (bank src dst : Nat) : State :=
  let base := physAddr bank src 0
  let mine := s.nv.arr.filter fun c => base ≤ c.1 && c.1 < base + 32768
  { s with nv := { s.nv with
    arr := mine.foldl (fun m c => Memory.write erased m (physAddr bank dst (c.1 - base)) c.2)
      (eraseCells s.nv.arr (physAddr bank dst 0) 32768) } }

/-- GAP_COPY_DONE (R403, R408): the copy has verified and the wear state is written; the old sector is erased in the
background. -/
def gapCopyDone (bank : Nat) (s : State) : State :=
  let b := s.bankOf bank
  if 63 < bank || b.busy != .copy then s
  else
    let src := slotPhys b b.copySlot
    let dst := slotPhys b b.g
    let s1 := copySector s bank src dst
    s1.setBank bank
      (if b.copyRef then
        { b with busy := .gapErase, gapSec := src,
                 ring := SMap.set (fun r => r) (SMap.set (fun r => r) b.ring b.copySlot dst) b.g src }
       else if b.g = 0 then { b with busy := .gapErase, gapSec := src, g := 1016, s := (b.s + 1) % 1016 }
       else { b with busy := .gapErase, gapSec := src, g := b.g - 1 })

/-- GAP_COPY_DONE. -/
def execGapCopyDone (bank : Nat) (s : State) : Host.Outcome State Fault Refusal := done (gapCopyDone bank) s

/-- GAP_ERASE_DONE (R403). -/
def gapEraseDone (bank : Nat) (s : State) : State :=
  let b := s.bankOf bank
  if 63 < bank || b.busy != .gapErase then s
  else nvErasePhys (s.setBank bank { b with
    busy := .idle, erases := min 0xFFFFFFFF (b.erases + 1),
    cnt := SMap.set dNat b.cnt b.gapSec (SMap.get dNat b.cnt b.gapSec + 1), started := b.started.erase b.gapSec }) bank b.gapSec

/-- GAP_ERASE_DONE. -/
def execGapEraseDone (bank : Nat) (s : State) : Host.Outcome State Fault Refusal := done (gapEraseDone bank) s

/-! ## Torn sectors (R405, R406) -/

/-- The ring slot of a physical sector. -/
def slotOf (b : Bank) (p : Nat) : Option Nat := (List.range 1017).find? fun r => slotPhys b r == p

/-- The logical sector of a ring slot; none for the gap. -/
def sectorOf (b : Bank) (slot : Nat) : Option Nat :=
  if slot = b.g then none else some (((if slot < b.g then slot else slot - 1) + 1016 - b.s) % 1016)

/-- The TORN sectors of a bank: logical sector (0x3FF for the gap) and ring slot. -/
def tornIn (s : State) (bank : Nat) : List (Nat × Nat) :=
  let b := s.bankOf bank
  b.started.filterMap fun p => (slotOf b p).map fun r => ((sectorOf b r).getD 0x3FF, r)

/-- The owner codes told of a TORN sector. -/
def tornAccs (s : State) (sec : Nat) : List Nat :=
  match rangeAt s sec with
  | some r => ocode (s.owner (resRange r)) :: (if sec < 512 then [0, 1, 2, 3, 4] else [])
  | none => if sec < 1016 then [0, 1, 2, 3, 4] else []

/-- The scan erases the sector again: the slot that did not boot, the library, a gap. -/
def tornErases (s : State) (sec : Nat) : Bool :=
  sec = 0x3FF || (sec < 512 && !(sec < 256 && s.boot.bootSlot == some (sec / 128)))

/-- One TORN sector of the scan. -/
def tornOne (bank : Nat) (s : State) (x : Nat × Nat) : State :=
  let s1 := s.raiseFor (tornAccs s x.1) 0x40074 0 8
  if tornErases s x.1 then (eraseSlot bank x.2 true true s1).2 else s1

/-- TORN_SCAN_DONE. -/
def tornScanDone (s : State) : State :=
  if !s.boot.done || s.nv.scanDone then s
  else
    let found := (List.range 64).flatMap fun b => (tornIn s b).map fun x => (b, x)
    let s1 := { s with nv := { s.nv with
      scanDone := true, torn := found.map fun e => (e.1, e.2.1), tornN := found.length } }
    found.foldl (fun u e => tornOne e.1 u e.2) s1

/-- TORN_SCAN_DONE. -/
def execTornScanDone (s : State) : Host.Outcome State Fault Refusal := done tornScanDone s

/-- An entry of the torn list still TORN. -/
def stillTorn (s : State) (e : Nat × Nat) : Bool := (tornIn s e.1).any fun x => x.1 == e.2

/-! ## Retention refresh (R408) -/

/-- A physical sector holds data. -/
def holdsData (s : State) (bank p : Nat) : Bool :=
  let base := physAddr bank p 0
  s.nv.arr.any fun c => base ≤ c.1 && c.1 < base + 32768

/-- The RTC day. -/
def rtcDay (s : State) : Nat := s.pwr.rtc / 2831155200

/-- A scan command has read a sector; the last one completes it. -/
def scanRead (bank p : Nat) (rew : Bool) (s : State) (x : NvScan) : State :=
  if !x.left.contains (bank, p) then s
  else
    let y := { x with left := x.left.erase (bank, p), read := x.read + 1, rewrit := x.rewrit + b2n rew }
    if y.left.isEmpty then
      endCmd x.cmd .ok 2 [wd y.read, wd y.rewrit] { s with nv := { s.nv with scans := s.nv.scans.erase x } }
    else { s with nv := { s.nv with scans := s.nv.scans.map fun z => if z == x then y else z } }

/-- The bank's cycle moves on past a sector; after the last one that holds data it is complete. -/
def refreshNext (bank p : Nat) (s : State) : State :=
  let b := s.bankOf bank
  if (List.range (1023 - p)).any fun i => holdsData s bank (p + 1 + i) then s.setBank bank { b with refNext := p + 1 }
  else
    let s1 := s.setBank bank { b with refNext := 0, refDay := rtcDay s }
    if bank = 63 then
      { s1 with
        nv := { s1.nv with refDay := rtcDay s, rewrit := 0 }
        mc := { s1.mc with refOver := false } }
    else s1

/-- The sector of a bank that the cycle reads next: sectors ascend, and those without data and TORN ones are passed over. -/
def refreshAt (s : State) (bank : Nat) : Option Nat :=
  let b := s.bankOf bank
  ((List.range 1024).map fun i => (b.refNext + i) % 1024).find? fun p => holdsData s bank p && !b.started.contains p

/-- NV_REFRESH_STEP: a sector is margin-read, and rewritten by a refresh copy where a word differs. TORN sectors are
skipped, and a busy bank waits. -/
def nvRefreshStep (bank p : Nat) (differs : Bool) (s : State) : State :=
  let b := s.bankOf bank
  let loop := s.pol 7 = 1 && mcRuns s && refreshAt s bank == some p
  let wanted := loop || s.nv.scans.any fun x => x.left.contains (bank, p)
  if 63 < bank || 1023 < p || !wanted || bankState s bank != 0 || !holdsData s bank p || b.started.contains p then s
  else match slotOf b p with
    | none => s
    | some slot =>
      let rew := differs && !nvcDevHeld s && slot != b.g && !b.started.contains (slotPhys b b.g)
      let s1 := if rew then
          { s.setBank bank { b with busy := .copy, copyRef := true, copySlot := slot } with
            nv := { (s.setBank bank { b with busy := .copy, copyRef := true, copySlot := slot }).nv with rewrit := s.nv.rewrit + 1 } }
        else s
      let s2 := if rew then s1.policy .ok 3 bank p else s1
      let s3 := s.nv.scans.foldl (scanRead bank p rew)
        { s2 with nv := { s2.nv with readAt := SMap.set dNat s2.nv.readAt (bank * 1024 + p) s.pwr.rtc } }
      if loop then refreshNext bank p s3 else s3

/-- NV_REFRESH_STEP. -/
def execNvRefreshStep (bank sector : Nat) (differs : Bool) (s : State) : Host.Outcome State Fault Refusal :=
  done (nvRefreshStep bank sector differs) s

/-- NV_REFRESH_OVERDUE (R376): a sector that holds data has not been margin-read for NV_REFRESH_DAYS and 1 day more; flag 10 is set and
the sector is reported. -/
def nvRefreshOverdue (bank p : Nat) (s : State) : State :=
  if s.pol 7 = 1 && bank < 64 && p < 1024 && holdsData s bank p &&
      SMap.get dNat s.nv.readAt (bank * 1024 + p) + 2831155200 * (s.pol 0x0C + 1) ≤ s.pwr.rtc then
    ({ s with mc := { s.mc with refOver := true } }).policy .timeout 3 bank p |>.post allDomains 0 .timeout 3 bank p
  else s

/-- NV_REFRESH_OVERDUE. -/
def execNvRefreshOverdue (bank sector : Nat) (s : State) : Host.Outcome State Fault Refusal :=
  done (nvRefreshOverdue bank sector) s

/-! ## NV commands (Table 12.6, R398) -/

/-- The owner of a range. -/
def rangeOwner (s : State) (r : Nat) : Owner := s.owner (resRange r)

/-- NV_PROTECT. -/
def nvProtect (d : Nat) (s : State) : State :=
  serve d 0x0301 .any (fun c s =>
    let r := bf (pw c 0) 4 0
    let g := s.rangeOf r
    let first := bf (pw c 1) 9 0
    let last := bf (pw c 2) 9 0
    if rangeOwner s r != cmdOwner c then finish c .notOwner 0 [] [] s
    else if g.perm then finish c .protectedRange 2 [] [] s
    else if (pw c 0).testBit 11 then
      finish c .ok 2 [] [] (s.setRange r { g with first := 1, last := 0, wp := false, rp := false, sess := [] })
    else if first < 256 || 1015 < last || last < first ||
        s.nv.ranges.any (fun e => e.1 != r && e.2.first ≤ e.2.last && e.2.first ≤ last && first ≤ e.2.last) then
      finish c .rangeInvalid 2 [] [] s
    else
      finish c .ok 2 [] [] (s.setRange r { g with
        first := first, last := last, wp := (pw c 0).testBit 8, rp := (pw c 0).testBit 9, perm := (pw c 0).testBit 10,
        sess := [] })) s

/-- NV_PROTECT. -/
def execNvProtect (d : Nat) (s : State) : Host.Outcome State Fault Refusal := done (nvProtect d) s

/-- The 16 bytes of a password from four parameter words (DEDUCED, log entry 54). -/
def password (c : RunCmd) (i : Nat) : List Byte := wordBytes ((List.range 4).map fun k => nth c.p (i + k))

/-- A failed comparison: the eighth in a row locks the range out. -/
def pwFail (r : Nat) (s : State) : State :=
  let g := s.rangeOf r
  let n := g.fails + 1
  let s1 := s.setRange r { g with fails := n, lock := g.lock || decide (8 ≤ n) }
  if n = 8 then s1.raiseFor [ocode (rangeOwner s r)] 0x40074 0 0x10 else s1

/-- NV_UNLOCK: a matching password opens a session for the issuer (DEDUCED, log entry 54). -/
def nvUnlock (d : Nat) (s : State) : State :=
  serve d 0x0302 .any (fun c s =>
    let r := bf (pw c 0) 4 0
    let g := s.rangeOf r
    if g.lock then finish c .passwordLockout 2 [] [] s
    else match g.pw with
      | none => finish c .protectedRange 2 [] [] s
      | some h =>
        if Crypto.sha384 (password c 1) == h then
          let ss := (sessions s r).filter (· != cmdOwner c)
          finish c .ok 2 [] [] (s.setRange r { g with fails := 0, sess := ss ++ [cmdOwner c], so := rangeOwner s r })
        else finish c .protectedRange 2 [] [] (pwFail r s)) s

/-- NV_UNLOCK. -/
def execNvUnlock (d : Nat) (s : State) : Host.Outcome State Fault Refusal := done (nvUnlock d) s

/-- NV_SET_PASSWORD: the old password must match; all zero where the range never had one. -/
def nvSetPassword (d : Nat) (s : State) : State :=
  serve d 0x0303 .any (fun c s =>
    let r := bf (pw c 0) 4 0
    let g := s.rangeOf r
    let old := password c 1
    let match_ := match g.pw with
      | none => old.all (· == 0)
      | some h => Crypto.sha384 old == h
    if rangeOwner s r != cmdOwner c then finish c .notOwner 0 [] [] s
    else if g.lock then finish c .passwordLockout 2 [] [] s
    else if match_ then finish c .ok 2 [] [] (s.setRange r { g with pw := some (Crypto.sha384 (password c 5)), fails := 0 })
    else finish c .protectedRange 2 [] [] (pwFail r s)) s

/-- NV_SET_PASSWORD. -/
def execNvSetPassword (d : Nat) (s : State) : Host.Outcome State Fault Refusal := done (nvSetPassword d) s

/-- The physical sectors that a scan reads: those with data, not TORN, of every sector or of the issuer's ranges. -/
def scanList (s : State) (all : Bool) (o : Owner) : List (Nat × Nat) :=
  (List.range 64).flatMap fun bank =>
    let b := s.bankOf bank
    ((List.range 1024).filter fun p => holdsData s bank p && !b.started.contains p &&
      (match slotOf b p with
        | none => false
        | some r => all || (match sectorOf b r with
          | some sec => (match rangeAt s sec with | some x => rangeOwner s x == o | none => false)
          | none => false))).map fun p => (bank, p)

/-- NV_REFRESH_SCAN. -/
def nvRefreshScan (d : Nat) (s : State) : State :=
  serve d 0x0304 .any (fun c s =>
    let all := (pw c 0).testBit 0
    if all && s.lead != some c.d then finish c .notOwner 0 [] [] s
    else
      let xs := scanList s all (cmdOwner c)
      if xs.isEmpty then finish c .ok 2 [] [0, 0] s
      else waitCmd c [] { s with nv := { s.nv with scans := s.nv.scans ++ [{ cmd := ⟨c.d, c.tag⟩, left := xs }] } }) s

/-- NV_REFRESH_SCAN. -/
def execNvRefreshScan (d : Nat) (s : State) : Host.Outcome State Fault Refusal := done (nvRefreshScan d) s

/-- NV_GRANT_URGENT (R401): queue 0 keeps its rights. -/
def nvGrantUrgent (d : Nat) (s : State) : State :=
  serve d 0x0305 .lead (fun c s =>
    let q := bf (pw c 0) 2 0
    let u := s.nv.urgent
    let v := if q = 0 then u else if (pw c 0).testBit 8 then u ||| 2 ^ q else if u.testBit q then u - 2 ^ q else u
    finish c .ok 2 [] [] { s with nv := { s.nv with urgent := v } }) s

/-- NV_GRANT_URGENT. -/
def execNvGrantUrgent (d : Nat) (s : State) : Host.Outcome State Fault Refusal := done (nvGrantUrgent d) s

/-! ## Registers (R411) -/

/-- A queue's registers, at block offsets 0x0C–0x30. -/
def nvqRead (s : State) (q off : Nat) : Word :=
  let g := s.qOf q
  match off with
  | 0x0C => wd (qBase s q) &&& 0xFFFFFFE0
  | 0x10 => wd (bf (qBase s q) 47 32)
  | 0x14 => wd (cqBase s q) &&& 0xFFFFFFF0
  | 0x18 => wd (bf (cqBase s q) 47 32)
  | 0x1C => wd (b2n (qEnabled s q) * 0x80000000 + qWeight q)
  | 0x20 => wd g.tail
  | 0x24 => wd g.head
  | 0x28 => wd g.cqTail
  | 0x2C => wd g.cqHead
  | 0x30 => wd (b2n g.stop * 0x80000000 + b2n g.idxErr * 0x40000000 + g.run.length * 0x10000 + scode g.status)
  | _ => 0

/-- A base with one half written. -/
def baseLo (b : Nat) (v : Word) : Nat := bf b 47 32 * 0x100000000 + v.toNat
def baseHi (b : Nat) (v : Word) : Nat := wf v 15 0 * 0x100000000 + bf b 31 0

/-- A write of a queue's register by its owner. -/
def nvqWrite (q off : Nat) (v : Word) (s : State) : State :=
  let g := s.qOf q
  match off with
  | 0x0C => s.setQ q { g with base := baseLo g.base (v &&& 0xFFFFFFE0) }
  | 0x10 => s.setQ q { g with base := baseHi g.base v }
  | 0x14 => s.setQ q { g with cqBase := baseLo g.cqBase (v &&& 0xFFFFFFF0) }
  | 0x18 => s.setQ q { g with cqBase := baseHi g.cqBase v }
  | 0x1C => qCtrl q v s
  | 0x20 => qTail q v s
  | 0x2C => cqHead q v s
  | _ => s

/-- NVC.BANK_STATUS. -/
def bankWord (s : State) (bank : Nat) : Word :=
  let b := s.bankOf bank
  wd (bankState s bank * 0x10000000 + b.spares * 0x1000000 + b.susp * 0x10000 + b.toMove % 32)

/-- NVC.RANGE_CFG. -/
def rangeWord (s : State) (r : Nat) : Word :=
  let g := s.rangeOf r
  wd (ocode (rangeOwner s r) * 0x20000000 + b2n g.perm * 0x10000000 + b2n g.rp * 0x8000000 + b2n g.wp * 0x4000000 +
    g.last * 0x10000 + g.first)

/-- NVC.RANGE_STATUS. -/
def rangeStatus (s : State) (r : Nat) : Word :=
  let g := s.rangeOf r
  wd (b2n g.lock * 0x80000000 + b2n g.pw.isSome * 0x40000000 + min 15 g.fails * 0x10000 +
    (sessions s r).foldl (fun n o => n + 2 ^ ocode o) 0)

/-- A read of an NVC register. A queue, range or XIP entry that the accessor does not own reads 0. -/
def nvcRead (acc : Accessor) (off : Nat) (s : State) : Word :=
  let a := acode acc
  let mc := adom acc == .mc
  let q := qSel acc s
  let bank := wf (s.copy a 0x40034 0) 5 0
  let r := wf (s.copy a 0x40044 0) 4 0
  let x := SMap.get dNone s.nv.xip (wf (s.copy a 0x40050 0) 3 0)
  let myRange := mc || rangeOwner s r == adom acc
  let xip (f : Owner × Nat → Nat) : Word := match x with
    | some e => if mc || e.1 == adom acc then wd (f e) else 0
    | none => 0
  if 0x0C ≤ off && off ≤ 0x30 then (if mc || ownsQ acc q then nvqRead s q off else 0)
  else match off with
    | 0x00 => wd (b2n (qServed s 1) * 0x80000000 + b2n s.nv.scanDone * 0x40000000)
    | 0x04 => s.copy a 0x40004 0
    | 0x08 => wd s.nv.urgent
    | 0x34 => s.copy a 0x40034 0
    | 0x38 => bankWord s bank
    | 0x3C => wd (s.bankOf bank).erases
    | 0x40 => wd ((s.bankOf bank).s * 0x10000 + (s.bankOf bank).g)
    | 0x44 => s.copy a 0x40044 0
    | 0x48 => if myRange then rangeWord s r else 0
    | 0x4C => if myRange then rangeStatus s r else 0
    | 0x50 => s.copy a 0x40050 0
    | 0x54 => xip fun e => 0x80000000 + ocode e.1
    | 0x58 => xip fun e => bf e.2 31 0
    | 0x5C => xip fun e => bf e.2 63 32
    | 0x60 => wd (s.nv.tornN * 0x10000 + (s.nv.torn.filter (stillTorn s)).length)
    | 0x64 => s.copy a 0x40064 0
    | 0x68 => match s.nv.torn[wf (s.copy a 0x40064 0) 15 0]? with
      | some e => wd (0x80000000 + e.1 * 0x10000 + e.2)
      | none => 0
    | 0x6C => wd (b2n (s.pol 7 = 1 && s.boot.done) * 0x80000000 + b2n s.mc.refOver * 0x40000000 +
        (rtcDay s - s.nv.refDay) % 1024 * 0x10000 + s.nv.rewrit % 65536)
    | 0x70 => wd s.nv.retired
    | 0x74 => s.copy a 0x40074 0
    | 0x78 => s.copy a 0x40078 0
    | _ => 0

/-- A write of an NVC register. -/
def nvcWrite (acc : Accessor) (off : Nat) (v : Word) (s : State) : State :=
  let a := acode acc
  if 0x0C ≤ off && off ≤ 0x30 then (if qWritable acc (qSel acc s) then nvqWrite (qSel acc s) off v s else s)
  else match off with
    | 0x04 => s.setCopy a 0x40004 0 (v &&& 7)
    | 0x34 => s.setCopy a 0x40034 0 (v &&& 0x3F)
    | 0x44 => s.setCopy a 0x40044 0 (v &&& 0x1F)
    | 0x50 => s.setCopy a 0x40050 0 (v &&& 0xF)
    | 0x64 => s.setCopy a 0x40064 0 (v &&& 0xFFFF)
    | 0x74 => s.clearCopy a 0x40074 0 v
    | 0x78 => s.setCopy a 0x40078 0 (v &&& 0x1F)
    | _ => s

end Sys2Proof.Machine
end

