-- ==== Sys2Proof/Machine/NvImages.lean ====
section
/-! DEFINITION. Images and keys in the NV store: STORE_IMAGE (R368, R385, R386), STORE_PARTIAL (R367), SELECT_IMAGE (R119),
WRAP_KEY (R369). A STORE command's row first starts it; once it is the oldest that runs, a further row with its container carries it
out and ends it (DESIGN CHOICE, log entry 26). -/
namespace Sys2Proof.Machine
open Sys2Proof

/-! ## Reading a stored stream without writing a frame (R368 step 3) -/

/-- The load that parses a container in a copy of the state that is then dropped. -/
def dryLoad : Nat := 17

/-- A list brought to a length. -/
def fit {α : Type} (d : α) (n : Nat) (xs : List α) : List α := (xs ++ List.replicate n d).take n

/-- The record at the head of a stream is processed: the words that it takes. -/
def dryRecord (ws : List Word) (s : State) : Nat × State :=
  let h := ws.headD 0
  let arg := wf h 23 0
  let body (n : Nat) : List Word := (ws.drop 1).take n
  match wf h 31 24 with
  | 0x01 => (2, far dryLoad arg (nth ws 1) s)
  | 0x02 => (1 + 129 * arg, fdata dryLoad arg (body (129 * arg)) s)
  | 0x03 => (2, setreg dryLoad arg (nth ws 1) s)
  | 0x04 => (5, roll dryLoad arg (body 4) s)
  | 0x05 => (6 + wf (nth ws 1) 31 28, chunk dryLoad arg (body (5 + wf (nth ws 1) 31 28)) s)
  | 0x06 => (5, tag dryLoad arg (body 4) s)
  | 0x07 => (2, check dryLoad arg (nth ws 1) s)
  | 0x08 => (1, startup dryLoad arg s)
  | 0x09 => (1 + bf arg 15 8, region dryLoad arg (body (bf arg 15 8)) s)
  | 0x0A => (1 + arg, sigs dryLoad arg (body arg) s)
  | 0x0F => (1, desync dryLoad arg s)
  | _ => (1, nop dryLoad h s)

/-- A segment that has just begun is decrypted. -/
def dryDecrypt (before : Load) (ws : List Word) (l : Load) : List Word :=
  if before.segLeft = 0 && 0 < l.segLeft then
    let ct := ws.take l.segLeft
    fit 0 ct.length (bytesWords (Crypto.gcmCrypt l.key (l.iv.take 11 ++ [BitVec.ofNat 8 l.seg]) (wordBytes ct))) ++ ws.drop l.segLeft
  else ws

/-- Processes the records of a stream until the load ends; a stream that ends before DESYNC stops it (R89). -/
def dryStream : Nat → List Word → State → State
  | 0, _, s => s
  | n + 1, ws, s =>
    let l := s.loadOf dryLoad
    if l.phase != .stream then s
    else if ws.isEmpty then loadFail dryLoad .badParameter s
    else
      let r := dryRecord ws s
      dryStream n (dryDecrypt l (ws.drop r.1) (r.2.loadOf dryLoad)) r.2

/-- The status that a load of a full-image container would end with. -/
def parseStatus (m : Manifest) (ws : List Word) (s : State) : Status :=
  let rest := afterSync ws
  let s1 := s.setLoad dryLoad {
    phase := .stream, full := true, man := some m, sync := 2, pos := 2, skip := ws.length - rest.length - 2 }
  let l := (dryStream (ws.length + 1) rest s1).loadOf dryLoad
  if l.done && l.status == .okClamped then .ok else if l.done then l.status else .badParameter

/-! ## Placing a container (R385, R386) -/

/-- Programs bytes of a group area. -/
def slotProgram (n g : Nat) : Nat → List Byte → State → State
  | _, [], s => s
  | x, b :: bs, s => slotProgram n g (x + 1) bs (nvProgram s (slotAddr n g x) [b])

/-- What has been placed: bytes used of each group area and the index so far. -/
structure Placed where
  used  : SMap Nat := []
  index : SMap Word := []
  bad   : Bool := false

/-- Words go to a group area; none passes its end. -/
def placeIn (slot g : Nat) (ws : List Word) (x : Placed × State) : Placed × State :=
  let u := SMap.get dNat x.1.used g
  if 0x1000000 < u + 4 * ws.length then ({ x.1 with bad := true }, x.2)
  else ({ x.1 with used := SMap.set dNat x.1.used g (u + 4 * ws.length) }, slotProgram slot g u (wordBytes ws) x.2)

/-- Places the outer stream: frame chunk i in area ((i − 1) mod 64) ÷ 4, everything else in area 0. -/
def placeStream (slot : Nat) : Nat → List Word → Placed × State → Placed × State
  | 0, _, x => x
  | n + 1, ws, x =>
    if ws.isEmpty || x.1.bad then x
    else
      let h := ws.headD 0
      let i := wf h 23 0
      if wf h 31 24 = 5 then
        let k := max 1 (chunkWords ws)
        let g := if i = 0 then 0 else (i - 1) % 64 / 4
        let at_ := SMap.get dNat x.1.used g
        let y := placeIn slot g (ws.take k) x
        let ix := if 1 ≤ i && i < 4096 then SMap.put y.1.index i (wd (g * 0x10000000 + at_)) else y.1.index
        placeStream slot n (ws.drop k) ({ y.1 with index := ix }, y.2)
      else
        let k := if wf h 31 24 = 7 then 2 else 1
        placeStream slot n (ws.drop k) (placeIn slot 0 (ws.take k) x)

/-- The 4,096 words of a slot index (R386). -/
def indexWords (m : SMap Word) : List Word :=
  let ws := (List.range 4095).map fun i => SMap.get (fun _ => (0xFFFFFFFF : Word)) m (i + 1)
  crc32c (wordBytes ws) :: ws

/-- Erases logical sectors in every bank. -/
def eraseSectors (first n : Nat) (s : State) : State :=
  (List.range 64).foldl (fun u bank => (List.range n).foldl (fun v i =>
    (eraseSlot bank (ringSlot (v.bankOf bank) (first + i)) true true v).2) u) s

/-! ## STORE_IMAGE and STORE_PARTIAL -/

/-- Where a STORE command takes its container from: the NoC, or for HS the supervisor stream. -/
def storeSource (s : State) (c : RunCmd) (src : Nat) : Status :=
  if src = 0 then srcCheck s c (pw c 3) else if src = 3 && c.d = 4 then .ok else .badParameter

/-- The checks of a container before any erase: R103 and its kind, for an image the frame count, R509. -/
def storeCheck (s : State) (c : RunCmd) (src kind : Nat) (b : List Byte) : Status :=
  let m := parseMan b
  if src = 0 && pw c 3 < m.len then .authFail
  else if manCheck s b none != .ok || m.kind != kind then .authFail
  else if kind = 1 && m.fdata != fullFrames then .badParameter
  else if src = 0 && pw c 3 < m.len + m.streamLen then .badParameter
  else .ok

/-- The slot that STORE_IMAGE writes (R121). -/
def storeSlot (s : State) (c : RunCmd) : Nat :=
  match s.boot.bootSlot with
  | some n => 1 - n
  | none => bf (pw c 0) 8 8

/-- Steps 2 and 3 of R368: the status and the state. -/
def storeImageRun (slot : Nat) (m : Manifest) (b : List Byte) (s : State) : Status × State :=
  let man := b.take m.len
  let ws := bytesWords ((b.drop m.len).take m.streamLen)
  let s1 := slotProgram slot 0 0 man (eraseSectors (128 * slot) 128 s)
  let r := placeStream slot (ws.length + 1) ws ({ used := SMap.put [] 0 m.len }, s1)
  if r.1.bad then (.rangeInvalid, r.2)
  else
    let st := parseStatus m ws r.2
    if st != .ok then (st, r.2)
    else (.ok, { r.2 with nv := { r.2.nv with index := SMap.set dWords r.2.nv.index slot (indexWords r.1.index) } })

/-- The STORE commands wait while NVC holds its vote on a device entry (R418). -/
def storeHeld (s : State) : Bool := nvcDevHeld s && s.boot.done

/-- A STORE command is started: it stays running, behind those started before it (R508). `src` is its source. -/
def storeStart (d op : Nat) (src : RunCmd → Nat) (s : State) : State :=
  serve d op .any (fun c s =>
    let chk := storeSource s c (src c)
    if chk != .ok then finish c chk 0 [] [] s
    else waitCmd c [] { s with nv := { s.nv with stores := s.nv.stores ++ [c] } }) s

/-- The oldest STORE command is carried out, where it is this one, by what it does, a status and result words, and ends. -/
def storeNext (d op : Nat) (run : RunCmd → State → Status × List Word × State) (s : State) : State :=
  match s.nv.stores with
  | [] => s
  | c :: rest =>
    if c.d != d || c.op != op || storeHeld s || !mcServes s d then s
    else
      let r := run c { s with nv := { s.nv with stores := rest } }
      endCmd ⟨c.d, c.tag⟩ r.1 2 r.2.1 r.2.2

/-- The row of a STORE command: it starts the entry at the head of its ring, or carries out the one that runs. -/
def storeRow (d op : Nat) (src : RunCmd → Nat) (run : RunCmd → State → Status × List Word × State) (s : State) : State :=
  if mayTake s d && (frontEntry s d).op == op then storeStart d op src s else storeNext d op run s

/-- What STORE_IMAGE does with a container (R368). -/
def storeImageRow (b : List Byte) (c : RunCmd) (s : State) : Status × List Word × State :=
  let m := parseMan b
  let slot := storeSlot s c
  let st := storeCheck s c (bf (pw c 0) 1 0) 1 b
  if st != .ok then (st, [wd slot], s)
  else if 0x10000000 < m.len + m.streamLen then (.rangeInvalid, [wd slot], s)
  else
    let r := storeImageRun slot m b s
    (r.1, [wd slot], r.2)

/-- STORE_IMAGE (R368, R508). -/
def storeImage (d : Nat) (b : List Byte) (s : State) : State := storeRow d 0x0207 (fun c => bf (pw c 0) 1 0) (storeImageRow b) s

/-- STORE_IMAGE. -/
def execStoreImage (d : Nat) (container : List Byte) (s : State) : Host.Outcome State Fault Refusal :=
  done (storeImage d container) s

/-- The first units of library entries that active frames name as their source. -/
def sourceUnits (s : State) : List Nat :=
  s.cfg.frames.filterMap fun e => match activeSrc e.1 e.2 with
    | .library u => some u
    | _ => none

/-- Units whose overwriting the store refuses: those of an entry that a frame of the active plane names. -/
def unitsInUse (s : State) (first n : Nat) : Bool :=
  (sourceUnits s).any fun u => decide (u < first + n) && decide (first < u + entryUnits s u)

/-- Programs a container into library units. -/
def storeUnits (first : Nat) (b : List Byte) (s : State) : State := nvProgram s (unitAddr first 0) b

/-- What STORE_PARTIAL does with a container (R367). -/
def storePartialRow (b : List Byte) (c : RunCmd) (s : State) : Status × List Word × State :=
  let first := bf (pw c 0) 7 0
  let m := parseMan b
  let n := (m.len + m.streamLen + 0x1FFFFF) / 0x200000
  let st := storeCheck s c (bf (pw c 0) 10 9) 2 b
  if st != .ok then (st, [0], s)
  else if 256 < first + n then (.rangeInvalid, [0], s)
  else if unitsInUse s first n then (.busy, [0], s)
  else if !((List.range n).all fun i => mayWriteRange s (cmdOwner c) (256 + first + i)) then (.protectedRange, [0], s)
  else
    let t := storeUnits first (b.take (m.len + m.streamLen)) (eraseSectors (256 + first) n s)
    (if nvRead t (unitAddr first 0) m.len == b.take m.len then .ok else .authFail, [wd n], t)

/-- STORE_PARTIAL (R367, R508). -/
def storePartial (d : Nat) (b : List Byte) (s : State) : State := storeRow d 0x0209 (fun c => bf (pw c 0) 10 9) (storePartialRow b) s

/-- STORE_PARTIAL. -/
def execStorePartial (d : Nat) (container : List Byte) (s : State) : Host.Outcome State Fault Refusal :=
  done (storePartial d container) s

/-! ## SELECT_IMAGE and WRAP_KEY -/

/-- The manifest bytes of a slot, as many as the length of a header allows. -/
def slotManifest (s : State) (slot : Nat) : List Byte :=
  let n := manLenOf (slotRead s slot 0 0 16)
  slotRead s slot 0 0 (min n (0x0D0 + 16 * 4096 + 96))

/-- The verification of a slot's manifest for SELECT_IMAGE. -/
def slotCheck (s : State) (slot : Nat) : Status :=
  let b := slotManifest s slot
  if manCheck s b none != .ok || (parseMan b).kind != 1 then .authFail
  else if (parseMan b).fdata != fullFrames then .badParameter
  else .ok

/-- SELECT_IMAGE (R119): the copy that did not win is rewritten with the next sequence number. -/
def selectImage (d : Nat) (s : State) : State :=
  serve d 0x0208 .any (fun c s =>
    let slot := bf (pw c 0) 0 0
    let st := slotCheck s slot
    let a := s.nv.selA
    let b := s.nv.selB
    if st != .ok then finish c st 2 [] [] s
    else
      let w := selWinner a b
      let seq := match w with
        | some true => selSeq b + 1
        | some false => selSeq a + 1
        | none => 1
      let copy : Selector := { bytes := selBytes (seq % 0x100000000) slot }
      let toB := if selValid a && selValid b then w == some false else selValid a
      let s1 := if toB then { s with nv := { s.nv with selB := copy } } else { s with nv := { s.nv with selA := copy } }
      finish c .ok 0 [] [wd seq] s1) s

/-- SELECT_IMAGE. -/
def execSelectImage (d : Nat) (s : State) : Host.Outcome State Fault Refusal := done (selectImage d) s

/-- The public key that verifies a WRAP_KEY blob (R464). -/
def wrapSigner (s : State) : List Byte := if s.lcs.state = 1 then Config.vendorKey else s.boot.imgOwner

/-- WRAP_KEY (R369) (DEDUCED, log entry 56). -/
def wrapKey (d : Nat) (s : State) : State :=
  serve d 0x020A .h (fun c s =>
    if !bufOk (pw c 0) 156 then finish c .badParameter 0 [] [] s
    else
      let b := readBuf s c (pw c 0) 156
      let o := leAt b 4 1
      let n := leAt b 8 4
      let old := SMap.get dNone s.nv.pkeys o
      if leAt b 0 4 != 0xB10E4B57 || 5 < o || leAt b 0x0C 8 != Config.serial.toNat ||
          old.any (fun k => decide (n ≤ k.2)) ||
          !Crypto.ecdsaVerify (wrapSigner s) (Crypto.sha384 (b.take 0x3C)) ((b.drop 0x3C).take 96) then
        finish c .authFail 2 [] [] s
      else match Crypto.aesKwUnwrap s.lcs.kek ((b.drop 0x14).take 40) with
        | none => finish c .authFail 2 [] [] s
        | some k => finish c .ok 2 [] [] { s with nv := { s.nv with pkeys := SMap.set dNone s.nv.pkeys o (some (k, n)) } }) s

/-- WRAP_KEY. -/
def execWrapKey (d : Nat) (s : State) : Host.Outcome State Fault Refusal := done (wrapKey d) s

end Sys2Proof.Machine
end

