-- ==== Sys2Proof/Machine/Reflex.lean ====
section
/-! DEFINITION. The reflex path (R265–R280): evaluation of a table, EVENTs, arming, the RFX registers. -/
namespace Sys2Proof.Machine
open Sys2Proof

/-! ## Evaluation (R265, R266) -/

/-- The levels of a bank table's inputs: fp_in of the bank's positions, listed ports alone being other than 0. -/
def bankLevels (s : State) (k : Nat) : BitVec 256 :=
  (s.port.filter fun e => e.1 / 64 == k && e.2.fpIn).foldl (fun v e => v ||| (1#256 <<< (e.1 % 64))) 0

/-- The levels of rfx_in that a fabric table sees (R265, Table 9.2): those that the design drives, while rfx_clk runs in its band and no
boundary latch holds them (R142). -/
def seenIn (s : State) (t : Nat) (v : BitVec 64) : BitVec 64 :=
  if t < 0x80 && tableOn s t && !latchAt s (t / 8) (niCol (t % 8)) then v else (s.tableOf t).rfxIn

/-- The 256 signals of a table in this cycle. -/
def tableSignals (s : State) (t : Nat) : BitVec 256 :=
  let g := s.tableOf t
  let low := if t < 0x80 then (g.rfxIn.setWidth 256 : BitVec 256) else bankLevels s (t - 0x100)
  low ||| ((g.remote.setWidth 256 : BitVec 256) <<< (0xC0 : Nat)) ||| (if t < 0x80 then 0 else (g.uan.setWidth 256 : BitVec 256) <<< (0xE0 : Nat)) |||
    (1#256 <<< (0xFF : Nat)) ||| g.pulses

/-- The value of a literal (R266, Table 9.4): `cur` and `prev` are the signals of this cycle and the one before. -/
def litValue (cur prev : BitVec 256) (l : Nat) : Bool :=
  if bf l 15 15 = 0 then true
  else
    let neg := bf l 14 14 == 1
    let a := cur.getLsbD (bf l 7 0) != neg
    let b := prev.getLsbD (bf l 7 0) != neg
    match bf l 13 12 with
    | 0 => a
    | 1 => a && !b
    | 2 => !a && b
    | _ => a != b

/-- The literals of a term (Table 9.3). -/
def termLits (ws : List Word) : List Nat := (List.range 4).flatMap fun w => [wf (nth ws w) 15 0, wf (nth ws w) 31 16]

/-- The value of a term: the AND of its literals; one without a used literal never holds. -/
def termValue (cur prev : BitVec 256) (ws : List Word) : Bool :=
  let ls := termLits ws
  ls.any (fun l => bf l 15 15 == 1) && ls.all (litValue cur prev)

/-- The terms of a table whose value is 1 (DEDUCED, log entry 37). -/
def liveTerms (s : State) (t : Nat) (cur prev : BitVec 256) : List Nat :=
  let ts := (s.image t).terms
  (List.range (min 256 ts.length)).filter fun i => termValue cur prev (ts.getD i [])

/-! ## Actions (R267, R268) -/

/-- An action that is ignored is counted. -/
def ignoreAction (s : State) (t : Nat) : State :=
  s.setTable t { s.tableOf t with dropIgn := sat 0xFFFF (s.tableOf t).dropIgn }

/-- An action taken is counted. -/
def countFire (s : State) (t : Nat) : State :=
  s.setTable t { s.tableOf t with fire := sat 0xFFFFFFFF (s.tableOf t).fire }

/-- SET_LEVEL: the level at rank 2 of a port in OUTPUT, PWM or FABRIC; a PWM generator stops (R242). A position that a
lower-numbered term has set in this cycle keeps that level. -/
def actSetLevel (s : State) (t n : Nat) (level : Bool) (done : Bool) : State :=
  let m := portMode s n
  if 0x100 ≤ t && (m = 2 || m = 3 || m = 4) then
    let s1 := countFire s t
    if done then s1 else putPort s1 n { s1.portOf n with reflex := some level, reflexAt := s1.uptime, run := none }
  else ignoreAction s t

/-- FORCE_SAFE: the forced-safe latch of each position of a safe set; on a position that a ring has taken it is ignored and
counted (R282). -/
def actForceSafe (s : State) (t set : Nat) : State :=
  if t < 0x100 then ignoreAction s t
  else
    let mask := (s.image t).safeSets.getD set 0
    let ps := ((List.range 64).filter fun i => mask.getLsbD i).map (64 * (t - 0x100) + ·)
    let s1 := if ps.any (ringTakes s) then ignoreAction s t else s
    (ps.filter fun n => !ringTakes s n).foldl forceSafe (countFire s1 t)

/-- The band in which a table's rfx_out appears. -/
def outBand (t : Nat) : Nat := if t < 0x80 then t / 8 else 4 * (t % 4)

/-- FABRIC_EVENT: a pulse of rfx_out, held while the band is in DOZE, which it wakes; towards a band in NAP or OFF it is
dropped (R274, R275, R420). -/
def actFabric (s : State) (t j : Nat) : State :=
  let s1 := countFire s t
  let g := s1.tableOf t
  match (s1.bandOf (outBand t)).state with
  | .on => (s1.setTable t { g with rfxOut := g.rfxOut ||| (1#64 <<< j) }).emit (.wire "rfx_out" t (2 ^ j))
  | .doze => wakeBand (s1.setTable t { g with heldOut := g.heldOut ||| (1#64 <<< j) }) (outBand t)
  | _ => eventDrop s1 t

/-- SEND_EVENT on fire or, with `fall`, on a fall with set and clear exchanged. -/
def actSend (s : State) (t term : Nat) (a : Word) (fall : Bool) : State :=
  let dst := wf a 24 16
  let m := wf a 6 5
  let mode := if 2 ≤ m then 2 else if fall then 1 - m else m
  if isTableId dst then dueEvent (countFire s t) t { dst, r := wf a 4 0, mode, term, origin := s.now16 } else ignoreAction s t

/-- What the actions of a cycle carry along: the state, and the positions set by terms before the present one. `safe` picks the FORCE_SAFE
actions or the others. -/
def runAction (safe : Bool) (t term : Nat) (fall : Bool) (earlier : List Nat) (s : State) (a : Word) : State :=
  if (fall && !wb a 27) || (wf a 31 28 == 2) != safe then s
  else match wf a 31 28 with
    | 1 => actSetLevel s t (64 * (t - 0x100) + wf a 5 0) (wb a 6 != fall) (earlier.contains (wf a 5 0))
    | 2 => if fall then s else actForceSafe s t (wf a 3 0)
    | 3 => actFabric s t (wf a 5 0)
    | 4 => actSend s t term a fall
    | _ => s

/-- The positions that a term's SET_LEVEL actions drive. -/
def termSets (ws : List Word) (fall : Bool) : List Nat :=
  (List.range 4).filterMap fun j =>
    let a := termAction ws j
    if wf a 31 28 = 1 && (!fall || wb a 27) then some (wf a 5 0) else none

/-- The terms that act, ascending, each on its fire or on its fall; `earlier` gathers the positions that lower-numbered
terms set. -/
def runTerms (safe : Bool) (t : Nat) (terms : List (List Word)) : List (Nat × Bool) → List Nat → State → State
  | [], _, s => s
  | (i, fall) :: rest, earlier, s =>
    let ws := terms.getD i []
    let s1 := (List.range 4).foldl (fun u j => runAction safe t i fall earlier u (termAction ws j)) s
    runTerms safe t terms rest (earlier ++ termSets ws fall) s1

/-- The actions of a cycle: FORCE_SAFE prevails over SET_LEVEL, and what it holds is the state before this cycle (R243, R268). -/
def runCycle (t : Nat) (acts : List (Nat × Bool)) (s : State) : State :=
  let ts := (s.image t).terms
  runTerms false t ts acts [] (runTerms true t ts acts [] s)

/-- TERM_FIRE (R266): one PCLK cycle of a table, with the levels that the design drives on rfx_in. Its terms are evaluated where it is
armed, outside a swap cycle and once outputs are released; those whose value rises fire, and those whose value falls act with follow
(DEDUCED, log entry 37). The senses follow their signals in every cycle. -/
def termFire (t : Nat) (rfxIn : BitVec 64) (s0 : State) : State :=
  let s := s0.setTable t { s0.tableOf t with rfxIn := seenIn s0 t rfxIn }
  let g := s.tableOf t
  let cur := tableSignals s t
  let g0 := { g with prev := cur, live := [], pulses := 0, rfxOut := 0, remote0 := g.remote }
  if !isTableId t then s0
  else if !s.boot.released || !g.armed || g.inCycle then s.setTable t g0
  else
    let now := liveTerms s t cur g.prev
    let acts := ((List.range 256).filter fun i => now.contains i != g.live.contains i).map fun i => (i, !now.contains i)
    let s2 := runCycle t acts (s.setTable t { g0 with live := now })
    if acts.any (fun (x : Nat × Bool) => !x.2) then s2.raiseFor (tableReaders s t) 0x60038 0 1 else s2

/-- TERM_FIRE. -/
def execTermFire (table : Nat) (rfxIn : BitVec 64) (s : State) : Host.Outcome State Fault Refusal := done (termFire table rfxIn) s

/-! ## EVENTs -/

/-- FLOW_INTERVAL (R271): the interval of a flow has ended and the held EVENT of the lowest term is sent. -/
def flowInterval (src dst : Nat) (s : State) : State :=
  let g := s.tableOf src
  let mine := g.held.filter fun h => h.dst == dst
  match mine with
  | [] => s
  | h0 :: rest =>
    if s.uptime < SMap.get dNat g.sent dst - 1 + spacing s src dst then s
    else
      let h := rest.foldl (fun (m : HeldEvt) x => if x.term < m.term then x else m) h0
      sendEvent (s.setTable src { g with held := g.held.erase h }) src h

/-- FLOW_INTERVAL. -/
def execFlowInterval (src dst : Nat) (s : State) : Host.Outcome State Fault Refusal := done (flowInterval src dst) s

/-- What an EVENT does to the remote signals (R269): clear and set write the level; a pulse leaves the level of before this cycle and
makes the signal 1 for the cycle. Of several for one r in a cycle the one ejected last prevails. -/
def remoteEvent (g : RTable) (r mode : Nat) : RTable :=
  let bit : BitVec 32 := 1#32 <<< r
  let pulse : BitVec 256 := 1#256 <<< (0xC0 + r)
  match mode with
  | 0 => { g with remote := g.remote &&& ~~~ bit, pulses := g.pulses &&& ~~~ pulse }
  | 1 => { g with remote := g.remote ||| bit, pulses := g.pulses &&& ~~~ pulse }
  | _ => { g with remote := (g.remote &&& ~~~ bit) ||| (g.remote0 &&& bit), pulses := g.pulses ||| pulse }

/-- The EVENTs sent before one. -/
def eventsAhead (e : EventPkt) : List EventPkt → List EventPkt
  | [] => []
  | k :: ks => if k = e then [] else k :: eventsAhead e ks

/-- An EVENT does not pass an earlier one of the same source and destination while the route is unchanged (R199). -/
def eventHolds (e k : EventPkt) : Bool := k.src == e.src && k.dst == e.dst && k.epoch == e.epoch && k.rt == e.rt

/-- EVENT (R269, R275): an EVENT is ejected at its destination; where the band is neither ON nor DOZE it is dropped, as it is at an
endpoint that has been muzzled since. -/
def event (e : EventPkt) (s : State) : State :=
  if !s.noc.events.contains e || (eventsAhead e s.noc.events).any (eventHolds e) then s
  else
    let s1 := { s with noc := { s.noc with events := s.noc.events.erase e, busyAt := busyBand s s.noc.busyAt e.dst } }
    let t := tableAt s e.dst
    if isMuzzled s e.dst || !tableUp s t then eventDrop (bump s1 e.dst 1) e.table
    else
      let g := s1.tableOf t
      s1.setTable t { remoteEvent g e.r e.mode with latMax := max g.latMax (min 0xFFFF (s.now16 - e.origin)) }

/-- EVENT. -/
def execEvent (e : EventPkt) (s : State) : Host.Outcome State Fault Refusal := done (event e) s

/-! ## Registers (R264, R272, R273, R280, Tables 9.10–9.12) -/

/-- The table that an accessor's index selects, where it names one. -/
def rfxIx (s : State) (a : Nat) : Nat := tableAt s (wf (s.copy a 0x60000 0) 8 0)

/-- An accessor may read a table (R264). -/
def mayReadTable (s : State) (acc : Accessor) (t : Nat) : Bool :=
  isTableId t && (adom acc == .mc || (tableReaders s t).contains (ocode (adom acc)))

/-- RFX holds the vote that it gave on an entry of a table's band (R418). -/
def rfxHolds (s : State) (t : Nat) : Bool :=
  (match tableBand t with
    | some b => (s.bandOf b).entry.any fun e => e.target != 1 && !e.undec.contains 6
    | none => false) || (s.pwr.dev.any fun e => !e.undec.contains 6)

/-- A write of RFX.CTRL (R272, R273): the owner of a fabric table arms or disarms it. -/
def rfxCtrl (acc : Accessor) (v : Word) (s : State) : State :=
  let t := rfxIx s (acode acc)
  let g := s.tableOf t
  if !mayReadTable s acc t then s
  else if 0x100 ≤ t then s.setTable t { g with armSt := .notOwner }
  else if rfxHolds s t then s.setTable t { g with armSt := .busy }
  else routeCheck (setArm s t (wb v 31) true)

/-- RFX_ARM. -/
def execRfxArm (acc : Accessor) (v : Word) (s : State) : Host.Outcome State Fault Refusal := done (rfxCtrl acc v) s

/-- RFX.STATUS (Table 9.11). -/
def rfxStatus (s : State) (t : Nat) : Nat :=
  let g := s.tableOf t
  let target := (armedFlows s).any fun f => tableAt s f.dst == t
  b2n g.armed * 0x80000000 + b2n target * 0x40000000 + b2n (tableUp s t) * 0x20000000 + scode g.armSt * 0x10000 +
    (flowDsts s t).length

/-- A word of a term or of a safe set (RFX.TERM_DATA). -/
def termData (s : State) (t entry word : Nat) : Word :=
  if entry < 256 then nth ((s.image t).terms.getD entry []) word
  else if entry < 272 then
    let m := (s.image t).safeSets.getD (entry - 256) 0
    match word with
    | 0 => m.extractLsb' 0 32
    | 1 => m.extractLsb' 32 32
    | _ => 0
  else 0

/-- A read of an RFX register. -/
def rfxRead (acc : Accessor) (off : Nat) (s : State) : Word :=
  let a := acode acc
  let t := rfxIx s a
  let g := s.tableOf t
  let see := mayReadTable s acc t
  let flow := (flowDsts s t)[wf (s.copy a 0x60020 0) 9 0]?
  let info := flow.map fun d => let f := flowOf s t d; (d, flowHops f, flowWaits (armedFlows s) f)
  let row := wf (s.copy a 0x60030 0) 3 0
  match off with
  | 0x00 => s.copy a 0x60000 0
  | 0x04 => s.copy a 0x60004 0
  | 0x08 => if see then termData s t (wf (s.copy a 0x60004 0) 12 4) (wf (s.copy a 0x60004 0) 2 0) else 0
  | 0x0C => if see then wd (b2n g.armed * 0x80000000) else 0
  | 0x10 => if see then wd (rfxStatus s t) else 0
  | 0x14 => if see then wd g.fire else 0
  | 0x18 => if see then wd (g.dropTx * 0x10000 + g.dropIgn) else 0
  | 0x1C => if see then wd g.latMax else 0
  | 0x20 => s.copy a 0x60020 0
  | 0x24 => if see then (match info with | some (d, h, w) => wd (d * 0x10000 + h % 256 * 0x100 + min 255 w) | none => 0) else 0
  | 0x28 => if see then (match info with
      | some (d, h, w) => wd (flowSpacing h w (flowFilter s t d) * 0x10000 + flowBound h w)
      | none => 0) else 0
  | 0x2C => wd (b2n s.rfx.within * 0x80000000 + b2n s.rfx.agrees * 0x40000000 + min 255 s.rfx.maxW * 0x10000 + s.rfx.maxB % 65536)
  | 0x30 => s.copy a 0x60030 0
  | 0x34 => wd (b2n (wb (s.cfgReg (0x40 + row)) 31) * 0x80000000 + min 255 (SMap.get dNat s.rfx.rowW row) * 0x10000 +
      min 255 (SMap.get dNat s.rfx.rowC row))
  | 0x38 => s.copy a 0x60038 0
  | 0x3C => s.copy a 0x6003C 0
  | _ => 0

/-- A write of an RFX register (R280). -/
def rfxWrite (acc : Accessor) (off : Nat) (v : Word) (s : State) : State :=
  let a := acode acc
  match off with
  | 0x00 => s.setCopy a 0x60000 0 (v &&& 0x1FF)
  | 0x04 => s.setCopy a 0x60004 0 (v &&& 0x1FF7)
  | 0x0C => rfxCtrl acc v s
  | 0x20 => s.setCopy a 0x60020 0 (v &&& 0x3FF)
  | 0x30 => s.setCopy a 0x60030 0 (v &&& 0xF)
  | 0x38 => s.clearCopy a 0x60038 0 v
  | 0x3C => s.setCopy a 0x6003C 0 (v &&& 0xF)
  | _ => s

end Sys2Proof.Machine
end

