-- ==== Sys2Proof/Machine/Scrub.lean ====
section
/-! DEFINITION. The scrubber (R177–R190): passes, frame checks, reloads from the source, the canary, the active period. -/
namespace Sys2Proof.Machine
open Sys2Proof

/-- The engine of a band may write: the scrubber runs and the band is not in DETECT_ONLY. -/
def scrWrites (s : State) (band : Nat) : Bool := !s.scr.halted && !(s.scrOf band).detect

/-! ## Cells -/

/-- A frame, or a canary (R79). -/
def isFrame (key : Nat) : Bool :=
  keyBand key < 16 && keyCol key ≤ 558 && (keyMinor key < frameCount (keyCol key) || key == canaryKey (keyBand key))

/-- A configuration cell of a physical plane flips. A content frame has plane A alone (R78). -/
def upset (s : State) (e : Nat × Bool × Nat) : State :=
  let f := s.frameOf e.1
  if !isFrame e.1 || 4384 ≤ e.2.2 || (isContent e.1 && e.2.1) then s
  else s.setFrame e.1 (if e.2.1 then { f with b := flipCell f.b e.2.2 } else { f with a := flipCell f.a e.2.2 })

/-- Cells flip; the design follows those of the active planes (R77). -/
def upsets (s : State) (es : List (Nat × Bool × Nat)) : State := if es.isEmpty then s else (es.foldl upset s).refresh

/-! ## The canary (R188, R189) -/

/-- A canary read finds the pattern, with no correction. -/
def canaryOk (s : State) (band : Nat) : Bool :=
  let p := (s.frameOf (canaryKey band)).a
  (planeErrs p).isEmpty && planeRead p == canaryWords band

/-- A canary read (R188, R189): it passes where the read path delivers the pattern. A failing one rewrites the canary and reads it
once more, and a failing re-read puts the band in DETECT_ONLY. -/
def canaryRead (s : State) (band : Nat) (path1 path2 : Bool) : State :=
  if (path1 && canaryOk s band) || (s.scrOf band).detect then s
  else
    let s1 := writeCanary s band
    let b := s1.scrOf band
    if path2 then
      scrEvent (s1.setScr band { b with can := sat 0xFFFFFFFF b.can }) 4 (canaryKey band) true .ok 4 0
    else
      scrEvent (s1.setScr band { b with detect := true }) 5 (canaryKey band) true .ok 4 0

/-! ## Passes -/

/-- A band whose frames are read: ON or DOZE (R181). A device entry stops the scrubber (R427). -/
def scrRuns (s : State) (band : Nat) : Bool :=
  ((s.bandOf band).state == .on || (s.bandOf band).state == .doze) && !sleepNear s

/-- The band has begun to enter NAP or OFF: a read that completes is not acted on (R181), whether it began before the entry or while the
entry is being voted on (DEDUCED, log entry 20). -/
def scrLeaves (s : State) (band : Nat) : Bool :=
  (s.bandOf band).entry.any (fun e => 2 ≤ e.target) || s.pwr.dev.isSome

/-- The next period boundary has come (R179). -/
def boundaryDue (s : State) : Bool :=
  match s.scr.bound with
  | none => true
  | some t => t + s.scr.active * 1000000 ≤ s.uptime

/-- A period boundary (R179, R186): a new configured period takes effect, every running band's pass falls due, and one that has not
ended its pass has overrun. -/
def scrBoundary (s : State) : State :=
  let bs := (List.range 16).filter (scrRuns s)
  let late := (bs.filter fun b => (s.scrOf b).reading).length
  let t := match s.scr.bound with | none => s.uptime | some t => t + s.scr.active * 1000000
  let s1 := { s with scr := { s.scr with
    bound := some t,
    overrun := min 0xFFFFFFFF (s.scr.overrun + late),
    cfg := s.scr.newCfg.getD s.scr.cfg, active := s.scr.newCfg.getD s.scr.active, newCfg := none,
    bands := bs.foldl (fun m b => SMap.set dScrB m b { SMap.get dScrB m b with due := true }) s.scr.bands } }
  let s2 := if s1.scr.active != s.scr.active then s1.policy .ok 2 0 s1.scr.active else s1
  if late = 0 then s2 else s2.raiseAll 0x30040 0 0x20

/-- The first pass falls due (R131). -/
def scrStart (s : State) : State :=
  scrBoundary { s with scr := { s.scr with enable := true, bound := none, since := s.uptime } }

/-- A pass of the band begins at its first frame. -/
def passBegin (s : State) (band : Nat) (canary : Bool) : State :=
  s.setScr band { s.scrOf band with
    reading := true, at_ := s.now, canary := canary, due := false, col := 0, minor := 0, began := s.uptime, ended := false }

/-- SCRUB_PASS_START (R179): a band's pass that is due begins with its canary read. -/
def scrubPassStart (band : Nat) (path1 path2 : Bool) (s : State) : State :=
  if 15 < band || !s.scr.enable || s.scr.halted then s
  else
    let s1 := if boundaryDue s then scrBoundary s else s
    if (s1.scrOf band).reading || !(s1.scrOf band).due || !scrRuns s1 band then s1
    else canaryRead (passBegin s1 band false) band path1 path2

/-- SCRUB_PASS_START. -/
def execScrubPassStart (band : Nat) (path1 path2 : Bool) (s : State) : Host.Outcome State Fault Refusal :=
  done (scrubPassStart band path1 path2) s

/-- A direct load holds a region: from step 2 of R155, as its first frame chunk begins, until it ends (R181). -/
def loadHolds (s : State) (r : Nat) : Bool :=
  s.cfg.loads.any fun e => e.2.direct && e.2.began && e.2.region == r && (e.2.phase == .stream || e.2.phase == .wait1us)

/-- A frame that the pass leaves out: a content frame (R177), or one of a region under a direct load (R181). -/
def scrSkips (s : State) (key : Nat) : Bool :=
  isContent key || (match s.frameRegion key with
    | some r => loadHolds s r
    | none => false)

/-- The next frame of a pass after a frame, none at the end of the band. -/
def nextScrub (s : State) : Nat → Nat → Option Nat
  | 0, _ => none
  | n + 1, key =>
    match nextFrame key with
    | none => none
    | some k => if scrSkips s k then nextScrub s n k else some k

/-- Every running band has ended its pass: the pass is counted, and after one that recorded an event of kind 1 or 2 the active period is
halved, but not below 5 ms (R186). -/
def passEnd (s : State) : State :=
  let bs := (List.range 16).filter (scrRuns s)
  if bs.all fun b => (s.scrOf b).ended then
    let acted := bs.any fun b => (s.scrOf b).acted
    let p := if acted then max 5 (s.scr.active / 2) else s.scr.active
    let slow := bs.foldl (fun n b => max n (s.scrOf b).took) 0
    let s1 := { s with scr := { s.scr with
      passes := sat 0xFFFFFFFF s.scr.passes, lastTime := slow / 1000, active := p,
      bands := bs.foldl (fun m b => SMap.set dScrB m b { SMap.get dScrB m b with ended := false, acted := false }) s.scr.bands } }
    if p != s.scr.active then s1.policy .ok 2 0 p else s1
  else s

/-- A frame is in the shadow set of a member of a target; in a whole-device swap every configuration frame is. -/
def shadowFrame (s : State) (t : Nat) (g : Target) (key : Nat) : Bool :=
  if t = 15 then flippable key else g.members.any fun r => (s.regionOf r).shadow.contains key

/-- The read of a frame has ended: a decision that waited for it moves to its end (R163). -/
def readEnds (s : State) (band key : Nat) : State :=
  moveDecision s (s.scrOf band).at_ 200 fun t g => shadowFrame s t g key

/-- The engine moves to the next frame, or its pass ends; one that is due then begins at once (R179). -/
def scrAdvance (s : State) (band : Nat) : State :=
  let b := s.scrOf band
  match nextScrub s 30000 (frameKey band b.col b.minor) with
  | some k => s.setScr band { b with col := keyCol k, minor := keyMinor k, at_ := s.now }
  | none =>
    let s1 := passEnd (s.setScr band { b with reading := false, wake := false, ended := true, took := s.uptime - b.began,
                                              col := 0, minor := 0 })
    if b.due then passBegin s1 band true else s1

/-! ## Checks and repairs -/

/-- A pass of the band recorded an event of kind 1 or 2. -/
def scrActed (s : State) (band : Nat) : State :=
  { s.setScr band { s.scrOf band with acted := true } with scr := { (s.setScr band { s.scrOf band with acted := true }).scr with since := s.uptime } }

/-- In DETECT_ONLY the event is marked not acted on (R189). The manual gives the mark no place in a register (DESIGN CHOICE, log entry
75). -/
def markUnacted (s : State) (band : Nat) : State := { s with scr := { s.scr with unacted := (s.scrOf band).detect } }

/-- The active plane of a frame replaced. -/
def setActive (s : State) (key : Nat) (p : Plane) : State := s.setFrame key ((s.frameOf key).setPlane true p)

/-- A physical plane of a frame replaced. -/
def setPhys (s : State) (key : Nat) (physB : Bool) (p : Plane) : State :=
  let f := s.frameOf key
  s.setFrame key (if physB then { f with b := p } else { f with a := p })

/-- A frame plane is marked uncorrectable and reported once (R185). It stays as it was read. -/
def markUncorr (s : State) (key : Nat) (physB : Bool) (st : Status) (word : Nat) : State :=
  let f := s.frameOf key
  let p := if physB then f.b else f.a
  let b := s.scrOf (keyBand key)
  markUnacted (scrEvent ((setPhys s key physB { p with uncorr := true, pend := false }).setScr (keyBand key)
    { b with unc := sat 0xFFFFFFFF b.unc }) 3 key true st (srcCode p.src) word) (keyBand key)

/-- A frame with one or more words each with a single correctable error (R182): written back with new check bits after a canary read, or
only recorded in a band in DETECT_ONLY. -/
def frameCorrect (band key word : Nat) (path1 path2 : Bool) (s : State) : State :=
  let s1 := canaryRead s band path1 path2
  let b := s1.scrOf band
  let p := (s1.frameOf key).active
  let s2 := if scrWrites s1 band then (setActive s1 key { p with payload := packWords (planeRead p), flips := [] }).refresh else s1
  markUnacted (scrEvent (scrActed (s2.setScr band { b with corr := sat 0xFFFFFFFF b.corr }) band) 1 key true .ok (srcCode p.src) word)
    band

/-- A frame that the check bits cannot repair (R182): it is uncorrectable where its source was pushed (R185); else a reload is due, and
in DETECT_ONLY the detection is only recorded (R189). -/
def frameDamaged (band key word : Nat) (s : State) : State :=
  let f := s.frameOf key
  let p := f.active
  if p.src == .pushed || p.src == .unwritten then markUncorr s key f.actB .uncorrectableFrame word
  else if !scrWrites s band then
    let b := s.scrOf band
    markUnacted (scrEvent (scrActed (s.setScr band { b with rel := sat 0xFFFFFFFF b.rel }) band) 2 key true .ok (srcCode p.src) word)
      band
  else setActive s key { p with pend := true, word := word }

/-- The engine has read its frame and decides on it (Table 6.1). A plane that is marked, or whose reload is due, is left alone (R185)
(DEDUCED, log entry 20). -/
def frameDecide (band key : Nat) (path1 path2 : Bool) (s : State) : State :=
  let p := (s.frameOf key).active
  let errs := planeErrs p
  let word := ((errs.map fun (e : Nat × Bool) => e.1).min?).getD 0
  if p.uncorr || p.pend then s
  else if planeBad p || crc32c (wordBytes (planeRead p)) != p.sig then frameDamaged band key word s
  else if !errs.isEmpty then frameCorrect band key word path1 path2 s
  else s

/-- The state in which a frame check acts: cells have flipped before it, and votes of the scrubber that disagreed are counted (R187). -/
def checkState (ups : List (Nat × Bool × Nat)) (tmr : Nat) (s : State) : State :=
  let s1 := upsets s ups
  { s1 with scr := { s1.scr with tmr := min 0xFFFFFFFF (s1.scr.tmr + tmr) } }

/-- FRAME_CHECK (R181, R182, R187): the engine's next read completes, of the canary or of its frame. -/
def frameCheck (band : Nat) (ups : List (Nat × Bool × Nat)) (tmr : Nat) (path1 path2 : Bool) (s0 : State) : State :=
  let s := checkState ups tmr s0
  let b := s.scrOf band
  let key := frameKey band b.col b.minor
  if 15 < band || !b.reading || s.scr.halted || !scrRuns s band then s
  else if b.canary then canaryRead (s.setScr band { b with canary := false, at_ := s.now }) band path1 path2
  else if scrLeaves s band then scrAdvance (readEnds s band key) band
  else scrAdvance (readEnds (frameDecide band key path1 path2 s) band key) band

/-- FRAME_CHECK. -/
def execFrameCheck (band : Nat) (upsets : List (Nat × Bool × Nat)) (tmr : Nat) (path1 path2 : Bool) (s : State) :
    Host.Outcome State Fault Refusal := done (frameCheck band upsets tmr path1 path2) s

/-- The addresses of the store that a reload reads: the manifest and the chunk that holds the frame. -/
def reloadAddrs (s : State) (p : Plane) : List Nat :=
  srcAddrs p.src 0 0 p.man.length ++ (sourceChunk s p.src (parseMan p.man) p.chunk).2

/-- The banks that a reload reads. -/
def reloadBanks (s : State) (p : Plane) : List Nat := ((reloadAddrs s p).map laBank).eraseDups

/-- A bank holds the reload up: it programs or copies, or erases and cannot be suspended (R184, R401). -/
def reloadWaits (s : State) (p : Plane) : Bool :=
  (reloadBanks s p).any fun k => bankBusy s k && !suspends s .mc true k

/-- The urgent reads of a reload suspend erases and meet slices (R184, R401). -/
def reloadMeets (s : State) (p : Plane) : State :=
  (reloadBanks s p).foldl (fun u k => if bankBusy u k then suspend u k else meetSlice u 7 k) s

/-- What a reload ends with (R184, R185). -/
def reloadStatus (s : State) (key : Nat) (p : Plane) (r : ReloadRead) : Status :=
  let m := sourceCheck s p.src p.man
  let g := fetchFrame s key p true
  if m != .ok then m
  else if r.readStatus != .ok then r.readStatus
  else if g.st != .ok then g.st
  else if g.crc != p.sig || crc32c (wordBytes g.words) != p.sig || !r.readback then .crcFail
  else .ok

/-- FRAME_RELOAD (R184): a pending reload of a physical plane is made after a canary read, and its frame is written and
read back; a check that fails leaves the frame as it was and marks it (R185). -/
def frameReload (far : Nat) (physB : Bool) (r : ReloadRead) (path1 path2 : Bool) (s : State) : State :=
  let key := bf far 29 8
  let band := keyBand key
  let f := s.frameOf key
  let p := if physB then f.b else f.a
  if !p.pend || s.scr.halted || !mcRuns s || reloadWaits s p then s
  else
    let s1 := canaryRead s band path1 path2
    if !scrWrites s1 band then setPhys s1 key physB { p with pend := false }
    else
      let s2 := reloadMeets s1 p
      let st := reloadStatus s2 key p r
      if st = .ok then
        let b := s2.scrOf band
        let s3 := (setPhys s2 key physB { p with
          payload := packWords (fetchFrame s2 key p true).words, flips := [], pend := false }).refresh
        scrEvent (scrActed (s3.setScr band { b with rel := sat 0xFFFFFFFF b.rel }) band) 2 key true .ok (srcCode p.src) p.word
      else markUncorr s2 key physB st p.word

/-- FRAME_RELOAD. -/
def execFrameReload (far : Nat) (plane : Bool) (r : ReloadRead) (path1 path2 : Bool) (s : State) :
    Host.Outcome State Fault Refusal := done (frameReload far plane r path1 path2) s

/-- MICROCODE_PARITY_ERROR (R187): every engine halts until the next warm or power-on reset. -/
def microcodeParityError (s : State) : State :=
  let s1 := { s with scr := { s.scr with
    halted := true,
    bands := s.scr.bands.foldl (fun (m : SMap ScrBand) (e : Nat × ScrBand) =>
      SMap.set dScrB m e.1 { e.2 with reading := false, due := false }) [] } }
  (s1.raiseAll 0x30040 0 0x10).post allDomains 4 .testFail 0 0xFF 0

/-- MICROCODE_PARITY_ERROR. -/
def execMicrocodeParityError (s : State) : Host.Outcome State Fault Refusal := done microcodeParityError s

/-- 24 hours in ns. -/
def dayNs : Nat := 86400000000000

/-- ACTIVE_PERIOD_DOUBLE (R186): 24 hours without an event of kind 1 or 2 double the period, up to the configured one. -/
def activePeriodDouble (s : State) : State :=
  let p := min s.scr.cfg (2 * s.scr.active)
  if s.uptime < s.scr.since + dayNs || !s.scr.enable then s
  else
    let s1 := { s with scr := { s.scr with since := s.scr.since + dayNs } }
    if s.scr.cfg ≤ s.scr.active then s1
    else ({ s1 with scr := { s1.scr with active := p } }).policy .ok 2 0 p

/-- ACTIVE_PERIOD_DOUBLE. -/
def execActivePeriodDouble (s : State) : Host.Outcome State Fault Refusal := done activePeriodDouble s

/-! ### SCR registers (Tables 6.2–6.5) -/

/-- SCR.BAND_STATUS.state (Table 6.3). -/
def scrStateCode (s : State) (band : Nat) : Nat :=
  if s.scr.halted then 4
  else if (s.scrOf band).detect then 3
  else if !scrRuns s band then 2
  else if (s.scrOf band).reading then 1 else 0

/-- SCR.ALARM. -/
def scrAlarm (s : State) : Nat :=
  (List.range 16).foldl (fun n b => if (s.scrOf b).detect then n + 2 ^ b else n) (b2n s.scr.halted * 65536)

/-- A read of an SCR register. -/
def scrRead (acc : Accessor) (off : Nat) (s : State) : Word :=
  let a := acode acc
  let i := wf (s.copy a 0x30018 0) 3 0
  let b := s.scrOf i
  match off with
  | 0x00 => wd (b2n s.scr.enable * 0x80000000)
  | 0x04 => wd s.scr.cfg
  | 0x08 => wd s.scr.active
  | 0x0C => wd s.scr.passes
  | 0x10 => wd s.scr.lastTime
  | 0x14 => wd s.scr.overrun
  | 0x18 => s.copy a 0x30018 0
  | 0x1C => wd (scrStateCode s i * 0x10000000 + b2n b.wake * 0x8000000 + b.col * 65536 + b.minor * 256)
  | 0x20 => wd b.corr
  | 0x24 => wd b.rel
  | 0x28 => wd b.unc
  | 0x2C => wd b.can
  | 0x30 => s.scr.far
  | 0x34 => s.scr.info
  | 0x38 => wd (scrAlarm s)
  | 0x3C => wd s.scr.tmr
  | 0x40 => s.copy a 0x30040 0
  | 0x44 => s.copy a 0x30044 0
  | _ => 0

/-- A write of an SCR register (R190). -/
def scrWrite (acc : Accessor) (off : Nat) (v : Word) (s : State) : State :=
  let a := acode acc
  match off with
  | 0x18 => s.setCopy a 0x30018 0 (v &&& 0xF)
  | 0x40 => s.clearCopy a 0x30040 0 v
  | 0x44 => s.setCopy a 0x30044 0 (v &&& 0x7F)
  | 0x00 => if acc == .dom .mc then { s with scr := { s.scr with enable := wb v 31 } } else s
  | _ => s

end Sys2Proof.Machine
end

