-- ==== Sys2Proof/Machine/SelfTest.lean ====
section
/-! DEFINITION. In-service self-test: which targets exist and may be taken (R440, R442), the schedule (R445, R446), slices and
their ends (R439, R443, R449), the BIST commands (R447, R450) and the BST registers (R453). -/
namespace Sys2Proof.Machine
open Sys2Proof

/-- Tests that exist: the in-service ones and the full-mode ones. -/
def serviceTest (test : Nat) : Bool := 1 ≤ test && test ≤ 8
def fullMode (test : Nat) : Bool := 0x81 ≤ test && test ≤ 0x84

/-- The number of targets of an in-service test (Table 15.1). -/
def targetCount (test : Nat) : Nat := [0, 3072, 4096, 33, 48, 1, 1024, 64, 128].getD (baseTest test) 0

/-- A target lies in its test's encoding (Tables 15.1, 15.5). -/
def targetValid (test target : Nat) : Bool :=
  if test = 0x84 then 512 ≤ target % 1024 && target % 1024 ≤ 1015 else target < targetCount test

/-- Minimum budgets in µs. -/
def minBudget (test : Nat) : Nat := [0, 25, 10, 21, 21, 32, 5, 20, 10].getD test 5

/-- The life-cycle states in which tests run, and full-mode tests (R452). -/
def bstPermitted (s : State) : Bool := 1 ≤ s.lcs.state && s.lcs.state ≤ 4
def fullPermitted (s : State) : Bool := s.lcs.state = 1 || s.lcs.state = 4

/-- Table 15.1: the target may be tested in service (DEDUCED, log entry 63). -/
def eligible (s : State) (test target : Nat) : Bool :=
  match test with
  | 1 => !(SMap.get (fun _ => ({} : RamCfg)) s.design.rams target).excluded && !s.bst.spares.any fun b => b / 8 == target / 8
  | 2 => (SMap.get (fun _ => ({} : DspCfg)) s.design.dsps target).idle
  | 3 => if target = 32 then s.tbs.run && s.tbs.ref else (s.pllOf target).locked
  | 4 => (SMap.get (fun _ => ({} : LaneImage)) s.design.lanes target).idlePermitted
  | 6 => portMode s target = 0 && !ringTakes s target && !bankHeld s (target / 64)
  | _ => true

/-- The band of a target, where it lies in one. -/
def targetBand (test target : Nat) : Option Nat :=
  match baseTest test with
  | 1 => some (ramBand target)
  | 2 => some (dspBand target)
  | 6 => some (portBand target)
  | _ => none

/-- The region of a target. -/
def targetRegion (s : State) (test target : Nat) : Option Nat :=
  match baseTest test with
  | 1 => s.regionAt (ramBand target) (ramCol target)
  | 2 => s.regionAt (dspBand target) (dspCol target)
  | _ => none

/-- Running slices, in slot order. -/
def slicesNow (s : State) : List (Nat × Slice) :=
  (List.range 4).filterMap fun i => (SMap.get dNone s.bst.slices i).map fun x => (i, x)

/-- A direct load of a region is in progress. -/
def directLoad (s : State) (r : Nat) : Bool :=
  (s.regionOf r).state == .loading && s.cfg.loads.any fun e => e.2.region = r && e.2.direct && e.2.phase != .idle && !e.2.full

/-- Conditions 1–4 of R440, in a life-cycle state in which tests run (R452). -/
def mayStart (s : State) (test target : Nat) : Bool :=
  s.boot.done && bstPermitted s && (slicesNow s).length < 4 &&
    (match targetBand test target with
      | some b => (s.bandOf b).state == .on && !holdsVote s 5 b && !(slicesNow s).any fun e => e.2.band == some b
      | none => !s.pwr.dev.any fun e => !e.undec.contains 5) &&
    (match targetRegion s test target with
      | some r => !isLocked s r && !directLoad s r && (s.regionOf r).state != .isolated
      | none => true)

/-- Every condition of R440. A full-mode test takes its target out of service, and Table 15.1 does not bind it. -/
def canStart (s : State) (test target : Nat) : Bool := mayStart s test target && (fullMode test || eligible s test target)

/-- A slice starts in the first free slot. -/
def startSlice (s : State) (test target : Nat) (entry : Option Nat) (budget : Nat) (cmd : Option CmdRef) : State :=
  let slot := ((List.range 4).find? fun i => (SMap.get dNone s.bst.slices i).isNone).getD 0
  { s with bst := { s.bst with
    slices := SMap.set dNone s.bst.slices slot
      (some { test, target, entry, budget, t := s.uptime, band := targetBand test target, cmd }) } }

/-! ## BIST_RUN (R447) -/

/-- Waiting BIST_RUNs start as soon as R440 permits, in the order in which they came. -/
def startWaiting (s : State) : State :=
  s.bst.waiting.foldl (fun u w =>
    if canStart u w.test w.target then
      startSlice { u with bst := { u.bst with waiting := u.bst.waiting.erase w } } w.test w.target none w.budget (some w.cmd)
    else u) s

/-- The budget that a command sets, with its clamp (R439). -/
def budgetOf (c : RunCmd) (test : Nat) : Nat × List Clamp :=
  let v := bf (pw c 4) 15 0
  let w := max (minBudget (baseTest test)) (nearest 5 500 v)
  (w, if w = v then [] else [cmdClamp 4 0 v w])

/-- An issuer may test a target: its owner, or the lead for a device-wide one. -/
def mayTest (s : State) (c : RunCmd) (test target : Nat) : Bool :=
  match targetOwner s test target with
  | some o => o == cmdOwner c
  | none => s.lead == some c.d

/-- The target of a BIST_RUN: for a sweep the first eligible one that the issuer may test. -/
def runTarget (s : State) (c : RunCmd) (test target : Nat) : Option Nat :=
  if target = sweepTarget && serviceTest test then
    (List.range (targetCount test)).find? fun t => eligible s test t && mayTest s c test t
  else some target

/-- BIST_RUN. -/
def bistRun (d : Nat) (s : State) : State :=
  serve d 0x0802 .owner (fun c s =>
    let test := pw c 1
    let target := bf (pw c 2) 23 0
    let b := budgetOf c test
    if fullMode test && !fullPermitted s then finish c .lifecycleDeny 0 [] [] s
    else if !serviceTest test && !fullMode test then finish c .badParameter 0 [] [] s
    else if target != sweepTarget && !targetValid test target then finish c .badParameter 0 [] [] s
    else match runTarget s c test target with
      | none => finish c .refused 5 b.2 [] s
      | some t =>
        if !targetValid test t then finish c .badParameter 0 [] [] s
        else if !mayTest s c test t then finish c .notOwner 0 [] [] s
        else if !fullMode test && !eligible s test t then finish c .refused 5 b.2 [] s
        else
          let s1 := waitCmd c b.2 s
          startWaiting { s1 with bst := { s1.bst with
            waiting := s1.bst.waiting ++ [{ cmd := ⟨c.d, c.tag⟩, test, target := t, budget := b.1, t := s.uptime }] } }) s

/-- BIST_RUN. -/
def execBistRun (d : Nat) (s : State) : Host.Outcome State Fault Refusal := done (bistRun d) s

/-- BIST_RUN_TIMEOUT (R447): 100 ms have passed and the run has not started. -/
def bistRunTimeout (d tag : Nat) (s : State) : State :=
  match s.bst.waiting.find? fun w => w.cmd.d == d && w.cmd.tag == tag with
  | none => s
  | some w => if s.uptime < w.t + 100000000 then s else endCmd w.cmd .refused 5 [] { s with bst := { s.bst with waiting := s.bst.waiting.erase w } }

/-- BIST_RUN_TIMEOUT. -/
def execBistRunTimeout (d tag : Nat) (s : State) : Host.Outcome State Fault Refusal := done (bistRunTimeout d tag) s

/-! ## The schedule (R445, R446) -/

/-- The due instants of entry k that have passed: the first lies k × its period ÷ 64 after DONE, and one follows each period (R446,
Table 12.15). A period is in ms. -/
def duePast (s : State) (k period : Nat) : Nat :=
  let t := s.uptime - s.boot.doneAt
  let first := 1000000 * k * period / 64
  if !s.boot.done || t < first then 0 else (t - first) / (1000000 * period) + 1

/-- BIST_SCHEDULE: an entry set while the device runs falls due at the next of its instants (DEDUCED, log entry 63). -/
def bistSchedule (d : Nat) (s : State) : State :=
  serve d 0x0801 .owner (fun c s =>
    let k := bf (pw c 0) 5 0
    let test := pw c 1
    let target := bf (pw c 2) 23 0
    let e := SMap.get dBstE s.bst.entries k
    let lead := s.lead == some c.d
    let per := nearest 1 3600000 (pw c 3)
    let b := budgetOf c test
    let cs := (if per = pw c 3 then [] else [cmdClamp 3 0 (pw c 3) per]) ++ b.2
    if fullMode test && !fullPermitted s then finish c .lifecycleDeny 0 [] [] s
    else if !lead && (56 ≤ k || (e.setter != .unowned && e.setter != cmdOwner c)) then finish c .notOwner 0 [] [] s
    else if serviceTest test && target != sweepTarget && targetValid test target && !mayTest s c test target then
      finish c .notOwner 0 [] [] s
    else if !serviceTest test || (target != sweepTarget && !targetValid test target) then finish c .badParameter 0 [] [] s
    else
      finish c .ok 5 cs [] { s with bst := { s.bst with
        entries := SMap.set dBstE s.bst.entries k
          { enable := (pw c 0).testBit 31, test, target, period := per, budget := b.1, setter := cmdOwner c,
            status := e.status, skips := e.skips, seen := duePast s k per } } }) s

/-- BIST_SCHEDULE. -/
def execBistSchedule (d : Nat) (s : State) : Host.Outcome State Fault Refusal := done (bistSchedule d) s

/-- The budget of an entry: its own, or BIST_SLICE, not below the test's minimum. -/
def entryBudget (s : State) (e : BstEntry) : Nat := if e.budget = 0 then max (minBudget e.test) (s.pol 8) else e.budget

/-- A sweep covers a target: its owner is the setter, or it is device-wide and the setter leads. -/
def sweepCovers (s : State) (o : Owner) (test target : Nat) : Bool :=
  match targetOwner s test target with
  | some x => x == o && o != .unowned
  | none => s.lead.map ownerOf == some o

/-- The target that an entry takes now: for a sweep the next eligible one. -/
def dueTarget (s : State) (k : Nat) (e : BstEntry) : Option Nat :=
  if e.target != sweepTarget then some e.target
  else
    let n := targetCount e.test
    ((List.range n).map fun i => (e.next + i) % n).find? fun t => eligible s e.test t && sweepCovers s (setterOf s k e) e.test t

/-- ENTRY_DUE (R440, R446). -/
def entryDue (k : Nat) (s : State) : State :=
  let e0 := SMap.get dBstE s.bst.entries k
  let e := { e0 with seen := duePast s k e0.period }
  if 63 < k || !e.enable || !s.boot.done || !bstPermitted s || !mcRuns s || e.seen ≤ e0.seen then s
  else match dueTarget s k e with
    | none => { s with bst := { s.bst with entries := SMap.set dBstE s.bst.entries k e } }
    | some t =>
      let busy := (slicesNow s).any fun x => x.2.entry == some k
      if !busy && canStart s e.test t then
        startSlice { s with bst := { s.bst with
          entries := SMap.set dBstE s.bst.entries k { e with next := t + 1 } } } e.test t (some k) (entryBudget s e) none
      else { s with bst := { s.bst with
          entries := SMap.set dBstE s.bst.entries k { e with skips := sat 0xFFFF e.skips } } }

/-- ENTRY_DUE. -/
def execEntryDue (entry : Nat) (s : State) : Host.Outcome State Fault Refusal := done (entryDue entry) s

/-! ## Ends of slices (R439, R443, R449, Table 15.5) -/

/-- The words of a block RAM are lost: each holds a free value. -/
def loseRam (s : State) (block : Nat) : State :=
  { s with
    free := s.free + 2048,
    fab := { s.fab with
      ram := (List.range 2048).foldl (fun m i =>
        SMap.set (fun _ => (0 : BitVec 72)) m (block * 2048 + i) ((Config.freeBits (s.free + i)).setWidth 72)) s.fab.ram } }

/-- The contents of a user-flash sector are lost: each byte holds a free value. -/
def loseSector (s : State) (sec : Nat) : State :=
  { s with
    free := s.free + 0x200000,
    nv := { s.nv with
      arr := (List.range 0x200000).foldl (fun m i =>
        Memory.write erased m (nvAddr s (sec * 0x200000 + i)) ((Config.freeBits (s.free + i)).setWidth 8)) s.nv.arr } }

/-- What a test that ran to its end leaves behind: the bit errors of a lane, what a full-mode test destroyed. -/
def afterTest (x : Slice) (errors : Nat) (s : State) : State :=
  if baseTest x.test = 4 then s.setLane x.target { s.laneOf x.target with prbs := errors }
  else if x.test = 0x81 then loseRam s x.target else if x.test = 0x84 then loseSector s (x.target % 1024) else s

/-- The fault detail of a result (Table 15.4). -/
def faultDetail (test : Nat) (st : Status) (r : SliceResult) : Nat :=
  if baseTest test = 4 then min 255 r.detail else if baseTest test = 1 && st == .testFail then 1 else 0

/-- The least duration of a test that runs to its end, in ns (Table 15.1, R443); a march that fails is not restored. -/
def testNs (test : Nat) (st : Status) : Nat :=
  if test = 1 && st == .testFail then 22528 else [0, 24576, 8192, 20000, 20000, 32000, 2000, 16000, 5000].getD test 0

/-- The instant after which a slice is over, whatever its test does: its budget, or 1 s in full mode (R439, R452). -/
def sliceLimit (x : Slice) : Nat := x.t + if fullMode x.test then 1000000000 else 1000 * x.budget

/-- SLICE_END (R443, R449): the signature decides. A word that did not verify in the spare ends a march at once; a block
that fails its march stays served from its spare. A test ends no sooner than it lasts, and a slice no later than 2 µs after its budget. -/
def sliceEnd (slot : Nat) (r : SliceResult) (s : State) : State :=
  match SMap.get dNone s.bst.slices slot with
  | none => s
  | some x =>
    if x.test = 1 && r.spareFault then
      startWaiting (endSlice s slot x .testFail 2 (s.uptime - x.t) (misrEnd r.misr r.patterns true))
    else
      let m := misrEnd r.misr r.patterns false
      let st : Status := if m == Config.bstExpected x.test x.target (targetConfig s x.test x.target) then .ok else .testFail
      if s.uptime < x.t + testNs x.test st || sliceLimit x + 2000 < s.uptime then s else
      let s1 := afterTest x r.detail (endSlice s slot x st (faultDetail x.test st r) (s.uptime - x.t) m)
      let s2 := if x.test = 1 && st == .testFail then
          ({ s1 with bst := { s1.bst with spares := s1.bst.spares ++ [x.target] } }).raiseFor (targetAccsB s x.test x.target) 0xF0028 0 4
        else s1
      startWaiting s2

/-- SLICE_END. -/
def execSliceEnd (slot : Nat) (r : SliceResult) (s : State) : Host.Outcome State Fault Refusal := done (sliceEnd slot r) s

/-- SLICE_BUDGET (R439): the budget is used up before the test has ended. Full-mode tests ignore budgets and stop after 1 s (R452)
(DEDUCED, log entry 63). -/
def sliceBudget (slot patterns : Nat) (misr : BitVec 64) (s : State) : State :=
  match SMap.get dNone s.bst.slices slot with
  | none => s
  | some x =>
    if s.uptime < sliceLimit x then s
    else startWaiting (endSlice s slot x .testAborted 0 (s.uptime - x.t) (misrEnd misr patterns true))

/-- SLICE_BUDGET. -/
def execSliceBudget (slot : Nat) (patterns : Nat) (misr : BitVec 64) (s : State) : Host.Outcome State Fault Refusal :=
  done (sliceBudget slot patterns misr) s

/-- LANE_TRAFFIC (R444). -/
def execLaneTraffic (lane : Nat) (s : State) : Host.Outcome State Fault Refusal := done (fun s => meetSlice s 4 lane) s

/-! ## Results (R450) -/

/-- A record answers to a test and target. -/
def recFor (test target : Nat) (r : BstRec) : Bool :=
  r.test == test && (r.target == target || (target == sweepTarget && r.sweep))

/-- The record of a pair: the one that ended last, with its key. -/
def findRec (s : State) (test target : Nat) : Option (Nat × BstRec) :=
  s.bst.recs.foldl (fun (best : Option (Nat × BstRec)) e =>
    match e.2 with
    | some r => if recFor test target r && (match best with | some b => b.2.stamp < r.stamp | none => true) then some (e.1, r) else best
    | none => best) none

/-- A slice runs on a pair. -/
def runsOn (s : State) (test target : Nat) : Bool :=
  (slicesNow s).any fun e => e.2.test == test && (e.2.target == target || (target == sweepTarget &&
    e.2.entry.any fun k => (SMap.get dBstE s.bst.entries k).target == sweepTarget))

/-- BIST_GET_RESULT. -/
def bistGetResult (d : Nat) (s : State) : State :=
  serve d 0x0803 .any (fun c s =>
    let test := pw c 0
    let target := bf (pw c 1) 23 0
    let z : List Word := [0, 0, 0, 0, 0, 0]
    if (!serviceTest test && !fullMode test) || (target != sweepTarget && !targetValid test target) then
      finish c .badParameter 0 [] [] s
    else match findRec s test target with
      | none => finish c .notReady 5 [] z s
      | some (k, r) =>
        if runsOn s test target then finish c .notReady 5 [] (recWords r) s
        else if r.readBy.contains c.d then finish c .alreadyRead 5 [] (recWords r) s
        else finish c .ok 5 [] (recWords r) { s with bst := { s.bst with
          recs := SMap.set dNone s.bst.recs k (some { r with readBy := r.readBy ++ [c.d] }) } }) s

/-- BIST_GET_RESULT. -/
def execBistGetResult (d : Nat) (s : State) : Host.Outcome State Fault Refusal := done (bistGetResult d) s

/-! ## Registers (R453) -/

/-- BST.RUNNING. -/
def runningWord (s : State) : Word :=
  let xs := slicesNow s
  wd (((xs.filterMap fun e => e.2.band).eraseDups.foldl (fun n b => n + 2 ^ (16 + b)) 0) + xs.length)

/-- A read of a BST register. -/
def bstRead (acc : Accessor) (off : Nat) (s : State) : Word :=
  let a := acode acc
  let k := wf (s.copy a 0xF0004 0) 5 0
  let e := SMap.get dBstE s.bst.entries k
  let mine := 56 ≤ k || adom acc == .mc || e.setter == adom acc || e.setter == .unowned
  match off with
  | 0x00 => wd (b2n (s.boot.done && bstPermitted s) * 0x80000000 + b2n (fullPermitted s) * 0x40000000)
  | 0x04 => s.copy a 0xF0004 0
  | 0x08 => if mine then
      wd (b2n e.enable * 0x80000000 + b2n (decide (56 ≤ k)) * 0x40000000 + ocode (setterOf s k e) * 0x1000000 +
        e.test * 0x10000 + (if e.test = 0 then 0 else entryBudget s e)) else 0
  | 0x0C => if mine then wd e.target else 0
  | 0x10 => if mine then wd e.period else 0
  | 0x14 => if mine then
      wd (b2n ((slicesNow s).any fun x => x.2.entry == some k) * 0x80000000 + scode e.status * 0x10000 + e.skips) else 0
  | 0x18 => runningWord s
  | 0x1C => wd s.bst.ended
  | 0x20 => wd (s.bst.fails * 0x10000 + s.bst.aborts)
  | 0x24 => s.bst.lastF
  | 0x28 => s.copy a 0xF0028 0
  | 0x2C => s.copy a 0xF002C 0
  | _ => 0

/-- A write of a BST register. -/
def bstWrite (acc : Accessor) (off : Nat) (v : Word) (s : State) : State :=
  let a := acode acc
  match off with
  | 0x04 => s.setCopy a 0xF0004 0 (v &&& 0x3F)
  | 0x28 => s.clearCopy a 0xF0028 0 v
  | 0x2C => s.setCopy a 0xF002C 0 (v &&& 7)
  | _ => s

end Sys2Proof.Machine
end

