-- ==== Sys2Proof/Machine/UanFrames.lean ====
section
/-! DEFINITION. What the return of each Uanov frame does, the cycle boundary and the return deadline (R298–R324). -/
namespace Sys2Proof.Machine
open Sys2Proof

/-! ## Running -/

/-- The first boundary φ + nC at or after an instant (R298). -/
def boundary (g : Ring) (t : Nat) : Nat :=
  if t ≤ g.aPhase then g.aPhase else g.aPhase + g.aCycle * ((t - g.aPhase + g.aCycle - 1) / g.aCycle)

/-- The ring enters RUNNING (R316 step 7, R320): the first CYCLE leaves at least 2 µs later. -/
def enterRunning (s : State) (r : Nat) : State :=
  let g := s.ringOf r
  let s1 := uanInt (s.setRing r { g with
    state := .running, sNext := boundary g (s.now + 2000), recover := false, noRoom := !ctrlRoom g, status := .ok }) r 1
  if g.recover then uanEvent s1 r 3 .ok 0 else s1

/-- Pods that wait in JOINED (R316, R318). -/
def joinEvent (s : State) (r : Nat) : State := uanEvent (uanInt s r 8) r 4 .ok 0

/-- Stations given a number are told. -/
def givenEvents (s : State) (r : Nat) (ns : List Nat) : State := ns.foldl (fun u n => uanEvent u r 7 .ok n) s

/-! ## DELAY (R304, R307) -/

/-- The stations whose d_p changes by more than 1 ns when it is worked out anew. -/
def movedStations (g : Ring) : List Nat := (numbered g).filter fun n =>
  let x := stnOf g n
  let d := delayOf g x.pos
  x.pos != 0 && (x.dp + 16 < d || d + 16 < x.dp)

/-- Every d_p worked out anew; the stations that moved wait for a CONFIG. -/
def replaceDelays (g : Ring) : Ring :=
  let g1 := ((numbered g).filter fun n => (stnOf g n).pos != 0).foldl
    (fun h n => setStn h n { stnOf h n with dp := delayOf g (stnOf g n).pos }) g
  (movedStations g).foldl (fun h n => queueFrame h (.config n)) g1

/-- A change of the delays while RUNNING. -/
def delayChange (s : State) (r : Nat) : State :=
  let g := s.ringOf r
  uanEvent (uanInt (s.setRing r (replaceDelays g)) r 0x80) r 6 (if delayNegative g then .badParameter else .ok) 0

/-- A START or a recovery ends with RING_BREAK. -/
def delaysUnsteady (s : State) (r : Nat) : State := breakRing s r

/-- DELAY_FRAME: 8 that lie within 4 ns give L as their mean; otherwise the measurement is repeated, up to 3 times. `loop` is the time from
its /S/ at TX to its /S/ at RX, in 1/16 ns: no longer than the frame has been gone. -/
def delayFrame (r : Nat) (bs : List Byte) (loop : Nat) (s : State) : State :=
  if 16 * (s.uptime - (s.ringOf r).sentAt) < loop then s else
  returned s r .delay (frameOk 5 bs && bs.length == 16) fun u =>
    let g := u.ringOf r
    match g.state with
    | .discovering =>
      let ds := g.delays ++ [loop]
      let hi := ds.foldl max 0
      let lo := ds.foldl min loop
      if ds.length < 8 then pumpCtrl (u.setRing r (queueFrame { g with delays := ds } .delay)) r
      else if 64 < hi - lo then
        if g.tries < 3 then
          pumpCtrl (u.setRing r (queueFrame { g with delays := [], tries := g.tries + 1 } .delay)) r
        else delaysUnsteady u r
      else pumpCtrl (u.setRing r (queueFrame { g with delays := [], loop := (ds.foldl (· + ·) 0 + 4) / 8 } .discover)) r
    | .running =>
      if g.loop + 32 < loop || loop + 32 < g.loop then
        let g1 := { g with loop := loop }
        pumpCtrl (delayChange (u.setRing r { g1 with noRoom := !ctrlRoom g1 }) r) r
      else pumpCtrl u r
    | _ => pumpCtrl u r

/-- DELAY_FRAME. -/
def execDelayFrame (ring : Nat) (groups : List (BitVec 10)) (loop : Nat) (s : State) : Host.Outcome State Fault Refusal :=
  done (received ring groups fun bs => delayFrame ring bs loop) s

/-! ## DISCOVER (R294, R316, R318, R320) -/

/-- The topology that a DISCOVER frame returns with: P, and the records of the first 63 positions. -/
def setTopology (g : Ring) (bs : List Byte) : Ring :=
  let n := (bs.length - 12) / 24
  { g with
    pods := n
    topo := (List.range (min 63 n)).map fun i => (i + 1, (bs.drop (8 + 24 * i)).take 24) }

/-- The ID, state and station of the pod at a position. -/
def podId (g : Ring) (p : Nat) : Nat := leAt (topoOf g p) 4 8
def podState (g : Ring) (p : Nat) : Nat := leAt (topoOf g p) 2 1 % 16
def podStn (g : Ring) (p : Nat) : Nat := leAt (topoOf g p) 1 1

/-- The positions recorded. -/
def positions (g : Ring) : List Nat := (List.range (min 63 g.pods)).map (· + 1)

/-- Step 5 of R316: station p to the pod at position p, until one does not fit. -/
def autoAssign : Nat → Nat → Ring → Ring
  | 0, _, g => g
  | n + 1, p, g =>
    if p ≤ g.pods && p ≤ 32 then
      match giveStation g p p with
      | some g1 => autoAssign n (p + 1) g1
      | none => g
    else g

/-- The apply offset in force (R299). -/
def applyOffset (g : Ring) : Nat := if g.aApply = 0 then (aMin g + 15999) / 16000 else g.aApply

/-- A START that cannot run ends, and the ring goes back to STOPPED by way of RESET (R299, R316). -/
def failStart (s : State) (r : Nat) : State :=
  let s1 := ringDone s r .badParameter []
  pumpCtrl (s1.setRing r { s1.ringOf r with state := .stopping, since := s.uptime, status := .badParameter, queue := [.reset] }) r

/-- A station holds a pod: it has its ID, and its pod is not back in JOINED nor gone. -/
def holds (g : Ring) (u n : Nat) : Bool :=
  let x := stnOf g n
  x.id == u && (x.state == .assigned || x.state == .operational || x.state == .safe)

/-- The IDs of the recorded pods that are JOINED without a station. -/
def unheld (g : Ring) : List Nat :=
  ((positions g).filter fun p => podStn g p == 0).map (podId g) |>.filter fun u => !(numbered g).any (holds g u)

/-- Steps 5 and 6 of R316. -/
def discoverStart (s : State) (r : Nat) : State :=
  let g := s.ringOf r
  let g1 := if wb g.aCfg 30 then autoAssign 32 1 g else g
  let a := applyOffset g1
  if !feasible g || 16000 * a < aMin g1 then failStart s r
  else
    let g2 := { g1 with aApply := a, lead := leadNs g1, waiting := unheld g1 }
    let neg (u : State) : State := if delayNegative g1 then
      uanEvent (uanInt u r 0x80) r 6 .badParameter 0 else u
    let s1 := givenEvents (neg (s.setRing r g2)) r (numbered g2)
    let s2 := if g2.waiting.isEmpty && g2.pods ≤ 63 then s1 else joinEvent s1 r
    if (numbered g2).isEmpty then enterRunning s2 r
    else pumpCtrl (s2.setRing r (queueFrame (s2.ringOf r) .assign)) r

/-- The lowest station without a number. -/
def freeStation (g : Ring) : Option Nat := ((List.range 32).map (· + 1)).find? fun n => (stnOf g n).id == 0

/-- R318: pods that have joined take the lowest free station, where auto_assign is set and their ID has not held one. -/
def autoJoin (g : Ring) : Ring :=
  (positions g).foldl (fun h p =>
    if wb h.aCfg 30 && podStn g p == 0 && !h.noRoom && !h.usedIds.contains (podId g p) then
      match freeStation h with
      | some n => (match giveStation h n p with | some h1 => queueFrame h1 .assign | none => h)
      | none => h
    else h) g

/-- A station after a break, by what its pod's record shows (R320). -/
def recoverStation (g : Ring) (n : Nat) : Ring :=
  let x := stnOf g n
  match podAt g x.id with
  | none => setStn g n { x with state := .left, left := true, pos := 0 }
  | some p =>
    let d := delayOf g p
    if podStn g p == n && podState g p == 4 then setStn g n { x with state := .safe, pos := p, dp := d }
    else if podStn g p == n && podState g p == 3 then
      let y := { x with state := .operational, pos := p, dp := d }
      if x.dp ≤ d + 32 && d ≤ x.dp + 32 then setStn g n y else queueFrame (setStn g n { y with conf := false }) (.config n)
    else setStn g n { x with state := if podStn g p == n then .assigned else .joined, pos := p }

/-- The positions that a DISCOVER gives the stations (R318). -/
def placeStations (g : Ring) : Ring :=
  (numbered g).foldl (fun h n => setStn h n { stnOf h n with pos := ((podAt h (stnOf h n).id).getD 0) }) g

/-- Joins that a DISCOVER shows, once the stations stand at their positions. -/
def joins (s : State) (r : Nat) (g : Ring) : State :=
  let g1 := autoJoin g
  let g2 := { g1 with waiting := unheld g1 }
  givenEvents (s.setRing r g2) r ((numbered g2).filter fun n => (stnOf g n).id == 0)

/-- The recovery ends (R320): the ring runs again. -/
def discoverRecover (s : State) (r : Nat) : State :=
  let g := s.ringOf r
  let g1 := (numbered g).foldl recoverStation { g with aApply := applyOffset g }
  let s1 := joins s r { g1 with lead := leadNs g1 }
  pumpCtrl (enterRunning s1 r) r

/-- The topology area of Table 10.17, 32 bytes for each position. -/
def topoArea (g : Ring) : List Byte :=
  (List.range 63).flatMap fun i =>
    let p := i + 1
    let d := ((numbered g).find? fun n => (stnOf g n).pos == p).map fun n => (stnOf g n).dp
    if p ≤ g.pods then (topoOf g p ++ zeros (24 - (topoOf g p).length)) ++ leBytes 4 (d.getD 0) ++ zeros 4 else zeros 32

/-- REDISCOVER completes; the topology command behind it takes the area first (R326). -/
def refreshDone (s : State) (r : Nat) : State :=
  let g := s.ringOf r
  if g.busy && g.cmd == 5 then
    match g.cmdRef.bind fun x => running? s ⟨x.1, x.2⟩ with
    | some c => if c.op == 0x0503 then ringDone (writeBuf s c (pw c 1) (topoArea g)) r .ok [wd g.pods] else ringDone s r .ok []
    | none => ringDone s r .ok []
  else s

/-- DISCOVER_FRAME (R294): a valid one of 12 + 24 P bytes sets the topology. -/
def discoverFrame (r : Nat) (bs : List Byte) (s : State) : State :=
  returned s r .discover (frameOk 2 bs && 12 ≤ bs.length && (bs.length - 12) % 24 == 0) fun u =>
    let g := setTopology (u.ringOf r) bs
    let s1 := u.setRing r g
    match g.state with
    | .discovering => if g.recover then discoverRecover s1 r else discoverStart s1 r
    | .running =>
      let g1 := placeStations g
      let s2 := joins s1 r g1
      let s3 := if (movedStations g1).isEmpty then s2 else delayChange s2 r
      pumpCtrl (refreshDone s3 r) r
    | _ => pumpCtrl s1 r

/-- DISCOVER_FRAME. -/
def execDiscoverFrame (ring : Nat) (groups : List (BitVec 10)) (s : State) : Host.Outcome State Fault Refusal :=
  done (received ring groups (discoverFrame ring)) s

/-! ## ASSIGN, CONFIG and SAFE (R295–R297, R316, R317) -/

/-- The stations that the entries of an ASSIGN frame name. -/
def assigned (bs : List Byte) : List Nat := (List.range (leAt bs 4 1)).map fun i => leAt bs (8 + 12 * i + 8) 1

/-- ASSIGN_FRAME: each station it gave is configured next. -/
def assignFrame (r : Nat) (bs : List Byte) (s : State) : State :=
  returned s r .assign (frameOk 3 bs && bs.length == 12 + 12 * leAt bs 4 1) fun u =>
    let g := (assigned bs).foldl (fun h n => queueFrame (setStn h n { stnOf h n with toAsn := false }) (.config n)) (u.ringOf r)
    pumpCtrl (u.setRing r g) r

/-- ASSIGN_FRAME. -/
def execAssignFrame (ring : Nat) (groups : List (BitVec 10)) (s : State) : Host.Outcome State Fault Refusal :=
  done (received ring groups (assignFrame ring)) s

/-- CONFIG_FRAME: the station is configured. During START the last one lets the ring run; an ASSIGN completes. -/
def configFrame (r : Nat) (bs : List Byte) (s : State) : State :=
  match (s.ringOf r).onRing with
  | .config n => returned s r (.config n) (frameOk 4 bs && leAt bs 4 1 == n && bs.length == 32 + leAt bs 6 1) fun u =>
    let g := u.ringOf r
    let g1 := setStn g n { stnOf g n with conf := true }
    let s1 := u.setRing r g1
    if g.state == .discovering && (numbered g1).all (fun m => (stnOf g1 m).conf) then enterRunning s1 r
    else if g.busy && g.cmd == 3 && g.cmdStn == n then pumpCtrl (ringDone s1 r .ok []) r
    else pumpCtrl s1 r
  | _ => s

/-- CONFIG_FRAME. -/
def execConfigFrame (ring : Nat) (groups : List (BitVec 10)) (s : State) : Host.Outcome State Fault Refusal :=
  done (received ring groups (configFrame ring)) s

/-- SAFE_FRAME: a stopping ring stops. -/
def safeFrame (r : Nat) (bs : List Byte) (s : State) : State :=
  returned s r .safe (frameOk 6 bs && bs.length == 16) fun u =>
    if (u.ringOf r).state == .stopping then ringStopped u r else pumpCtrl u r

/-- SAFE_FRAME. -/
def execSafeFrame (ring : Nat) (groups : List (BitVec 10)) (s : State) : Host.Outcome State Fault Refusal :=
  done (received ring groups (safeFrame ring)) s

/-! ## Cycles (R298–R303, R318–R324) -/

/-- The fresh bits of a set of stations. -/
def freshBits (ns : List Nat) : Nat := ns.foldl (fun n x => n + 2 ^ (x - 1)) 0

/-- At S_(n+1) the receive buffer becomes the input image with the status of cycle n (R323). -/
def switchImage (g : Ring) : Ring :=
  { g with
    inImg := g.rxBuf, csS := g.sN, csCyc := g.cycles, csFresh := wd (freshBits g.rxFresh), csStat := g.rxStat
    stns := g.stns.map fun e =>
      (e.1, { e.2 with fresh := g.rxFresh.contains e.1, cyc := if g.rxFresh.contains e.1 then g.cycles else e.2.cyc }) }

/-- Bytes 0–31 of the cycle status (R322). -/
def cycleStatus (g : Ring) : List Byte :=
  leBytes 8 g.csS ++ leBytes 4 g.csCyc ++ leBytes 4 g.csFresh.toNat ++ [BitVec.ofNat 8 (scode g.csStat)] ++ zeros 15

/-- The notice of a cycle, a posted write stamped with the owner's domain (R324). -/
def notice (s : State) (r : Nat) : State :=
  let g := s.ringOf r
  let a := g.noticeLo.toNat + g.noticeHi.toNat * 0x100000000
  if a = 0 then s
  else inject s { op := .wrP, src := 0xC0 + r, gen := 0, epoch := 0, dom := ringOwner s r, dst := a, len := 16, tag := 0,
                  urgent := false, mask := 0, status := .ok, data := (cycleStatus g).take 16 }

/-- CYCLE_FRAME (R298): at the boundary the images switch, settings take effect, and the frame leaves. The first one
completes START. -/
def cycleFrame (r : Nat) (s : State) : State :=
  let g := s.ringOf r
  if g.state != .running || g.onRing != .none || s.now < g.sNext then s
  else
    let first := g.cycles == 0
    let g1 := if first then g else switchImage g
    let g2 := { g1 with
      run := wb g.cfg 31, aSig := g.sig, aWeights := g.weights, sN := g.sNext, sNext := boundary g (g.sNext + g.aCycle)
      cycles := (g.cycles + 1) % 4294967296, rxFresh := [], rxStat := .ok
      sinceDly := if g.sinceDly + 1 = 256 then 0 else g.sinceDly + 1 }
    let out := g2.outImg
    let s1 := if first then s.setRing r g2 else notice (s.setRing r g2) r
    let s2 := sendFrame (s1.setRing r { s1.ringOf r with outImg := g.snap.getD out }) r .cycle
    let g3 := s2.ringOf r
    let s3 := s2.setRing r { g3 with outImg := out, snap := none, stepped := false }
    let s4 := if g2.sinceDly = 0 then s3.setRing r (queueFrame (s3.ringOf r) .delay) else s3
    if g.starting then ringDone s4 r .ok [] else s4

/-- CYCLE_FRAME. -/
def execCycleFrame (ring : Nat) (s : State) : Host.Outcome State Fault Refusal := done (cycleFrame ring) s

/-- A record of a returned CYCLE: kind, station, state byte and data (Table 10.8). -/
structure Record where
  kind : Nat
  stn  : Nat
  b2   : Nat
  data : List Byte
  deriving DecidableEq, Repr

/-- The records that fill a run of bytes; none where it does not hold whole records. -/
def records : Nat → List Byte → Option (List Record)
  | _, [] => some []
  | 0, _ => none
  | n + 1, bs =>
    let len := leAt bs 3 1
    if bs.length < 4 || bs.length < 4 + len then none
    else (records n (bs.drop (4 + len))).map fun rs =>
      { kind := leAt bs 0 1, stn := leAt bs 1 1, b2 := leAt bs 2 1, data := (bs.drop 4).take len } :: rs

/-- The records of a returned CYCLE frame; none where it is not valid (R287, R292, R300). -/
def cycleRecords (bs : List Byte) : Option (List Record) :=
  let start := 36 + leAt bs 30 2
  if frameOk 1 bs && start + 4 ≤ bs.length && bs.length ≤ 4096 then
    records 64 ((bs.drop start).take (bs.length - 4 - start))
  else none

/-- The engine state that a pod's state shows (DEDUCED, log entry 39). -/
def shownState : Nat → StnState
  | 1 => .joined | 2 => .assigned | 3 => .operational | 4 => .safe | _ => .none

/-- The record of a station in a frame, where there is a valid one (R319). -/
def recordOf (rs : List Record) (n : Nat) (x : Station) : Option Record :=
  rs.find? fun c => c.stn == n && ((c.kind == 1 && c.data.length == x.i) || (c.kind == 3 && c.data.isEmpty))

/-- What a station's record, or its absence, does to the station (R319) (DEDUCED, log entry 39). -/
def stationAfter (limit : Nat) (rs : List Record) (n : Nat) (x : Station) : Station :=
  match recordOf rs n x with
  | some c => { x with miss := 0, flags := c.b2 / 16, byte2 := c.b2, state := shownState (c.b2 % 16) }
  | none =>
    let m := sat 255 x.miss
    let y := { x with miss := m, state := if rs.any (fun c => c.kind == 2 && leNat (c.data.take 8) == x.id) && !x.left
                                          then .joined else x.state }
    if limit ≤ m then { y with left := true, state := .left } else y

/-- The stations after a frame, with their images and events: `rs` is empty for a missed frame. -/
def stationsAfter (s : State) (r : Nat) (rs : List Record) : State :=
  let g := s.ringOf r
  let limit := wf g.aCfg 7 0
  (numbered g).foldl (fun u n =>
    let h := u.ringOf r
    let x := stnOf h n
    let y := stationAfter limit rs n x
    let fresh := match recordOf rs n x with | some c => c.kind == 1 && !y.left | none => false
    let data := match recordOf rs n x with | some c => c.data | none => []
    let h1 := setStn h n y
    let u1 := u.setRing r (if fresh then
      { h1 with rxBuf := Memory.writeN 0 h1.rxBuf (0x80 * (n - 1)) data, rxFresh := h1.rxFresh ++ [n] } else h1)
    let u2 := if y.left && !x.left then uanEvent (uanInt u1 r 2) r 1 .podLost n else u1
    if y.state == .safe && x.state != .safe then uanEvent (uanInt u2 r 0x10) r 5 .ok n else u2) s

/-- Pods that wait in JOINED and were not seen before: the engine tells of them and sends DISCOVER (R318). -/
def newJoins (s : State) (r : Nat) (rs : List Record) : State :=
  let g := s.ringOf r
  let ids := (rs.filter fun c => c.kind == 2 && c.stn == 0).map fun c => leNat (c.data.take 8)
  let new := (ids.filter fun u => !g.waiting.contains u).eraseDups
  if new.isEmpty then s
  else joinEvent (s.setRing r (queueFrame { g with waiting := g.waiting ++ new } .discover)) r

/-- After the frame of a cycle: the signals follow, a ring that was to stop after one cycle stops, and control frames go
out. -/
def afterCycle (s : State) (r : Nat) : State :=
  let s1 := ringSignals s r
  if (s1.ringOf r).stopAfter && (s1.ringOf r).stopCyc != (s1.ringOf r).cycles then stopRing s1 r else pumpCtrl s1 r

/-- A missed frame (R301): a miss for every station. -/
def missedFrame (s : State) (r : Nat) (st : Status) : State :=
  let s1 := s.setRing r { s.ringOf r with onRing := .none, rxStat := st }
  afterCycle (stationsAfter (uanEvent (uanInt s1 r 0x20) r 8 st 0) r []) r

/-- CYCLE_RETURN (R301, R318, R319): the records of a valid frame update the stations; an invalid one is missed. -/
def cycleReturn (r : Nat) (bs : List Byte) (s : State) : State :=
  let g := s.ringOf r
  if g.onRing != .cycle then s
  else match cycleRecords bs with
    | none => missedFrame (s.setRing r { g with errInv := sat 0xFFFF g.errInv }) r .crcFail
    | some rs =>
      let s1 := s.setRing r { g with onRing := .none, rxStat := .ok }
      afterCycle (newJoins (stationsAfter s1 r rs) r rs) r

/-- CYCLE_RETURN. -/
def execCycleReturn (ring : Nat) (groups : List (BitVec 10)) (s : State) : Host.Outcome State Fault Refusal :=
  done (received ring groups (cycleReturn ring)) s

/-- RETURN_DEADLINE (R301): a CYCLE not back by its deadline is missed; a control frame is sent again (DESIGN CHOICE, log entry 38). -/
def returnDeadline (r : Nat) (s : State) : State :=
  let g := s.ringOf r
  match g.onRing with
  | .none => s
  | .cycle =>
    if s.now < deadlineNs g then s
    else missedFrame (s.setRing r { g with errLate := sat 0xFFFF g.errLate }) r .timeout
  | k =>
    if g.state == .stopping || (if g.state == .running then s.now < deadlineNs g else s.uptime < g.sentAt + Config.ctrlReturnNs r) then s
    else pumpCtrl (s.setRing r (queueFrame { g with onRing := .none, errLate := sat 0xFFFF g.errLate } k)) r

/-- RETURN_DEADLINE. -/
def execReturnDeadline (ring : Nat) (s : State) : Host.Outcome State Fault Refusal := done (returnDeadline ring) s

/-! ## The endpoint's offset space (R322) -/

/-- One byte of the offset space below 0x4000. -/
def ringByte (g : Ring) (x : Nat) : Byte :=
  if x < 0x1000 then Memory.read 0 g.outImg x
  else if x < 0x2000 then 0
  else if x < 0x3000 then Memory.read 0 g.inImg (x - 0x2000)
  else if x < 0x3100 then
    let n := (x - 0x3000) / 8 + 1
    let y := stnOf g n
    let st : Nat := match y.state with
      | .none => 0 | .joined => 1 | .assigned => 2 | .operational => 3 | .safe => 4 | .left => 5 | .lost => 6
    ([BitVec.ofNat 8 st, BitVec.ofNat 8 y.byte2, BitVec.ofNat 8 y.miss, BitVec.ofNat 8 (b2n y.fresh)] ++ leBytes 4 y.cyc).getD (x % 8) 0
  else if x < 0x3120 then (cycleStatus g).getD (x - 0x3100) 0
  else 0

/-- The bytes that a read of a ring endpoint returns. -/
def ringRead (s : State) (r off len : Nat) : List Byte :=
  let g := s.ringOf r
  (List.range len).map fun i =>
    let x := off + i
    if x < 0x4000 then ringByte g x
    else if x < 0x4100 then (leBytes 4 (ctrlRead s r ((x - 0x4000) / 4 * 4)).toNat).getD (x % 4) 0
    else if 0x4200 ≤ x then (topoArea g).getD (x - 0x4200) 0
    else 0

/-- A write of the output image: what stood there at S_n − 1 µs goes out in cycle n (R323). -/
def writeOutput (s : State) (r off : Nat) (data : List Byte) : State :=
  let g := s.ringOf r
  let late := g.state == .running && g.sNext ≤ s.now + 1000 && g.snap.isNone
  s.setRing r { g with
    snap := if late then some g.outImg else g.snap
    outImg := Memory.writeN 0 g.outImg off data }

/-- Words written to the control block, in ascending order. -/
def writeCtrl : List Word → Nat → Nat → State → State
  | [], _, _, s => s
  | w :: ws, r, off, s => writeCtrl ws r (off + 4) (ctrlWrite r off w s)

/-- A write of a ring endpoint: its status and the state that follows. -/
def ringWrite (s : State) (r off : Nat) (data : List Byte) : Status × State :=
  if off < 0x1000 then (.ok, writeOutput s r off data)
  else if off < 0x2000 then (.ok, s)
  else if 0x4000 ≤ off && off < 0x4100 && off % 4 = 0 && data.length % 4 = 0 then
    (.ok, writeCtrl (bytesWords data) r (off - 0x4000) s)
  else (.badParameter, s)

/-! ## UAN registers (R328) -/

/-- The code of a ring state (Table 10.15). -/
def ringCode : RingState → Nat
  | .stopped => 0 | .starting => 1 | .discovering => 2 | .running => 3 | .broken => 4 | .stopping => 5

/-- The code of a station state (Table 10.23). -/
def stnCode : StnState → Nat
  | .none => 0 | .joined => 1 | .assigned => 2 | .operational => 3 | .safe => 4 | .left => 5 | .lost => 6

/-- A register of the selected ring and station. -/
def ringReg (g : Ring) (n off : Nat) : Word :=
  let x := stnOf g n
  match off with
  | 0x04 => setBits g.aCfg 31 31 (b2n g.run)
  | 0x08 => wd (ringCode g.state * 0x10000000 + b2n g.run * 0x8000000 + b2n g.noRoom * 0x4000000 +
      scode g.status * 0x10000 + min 63 g.pods * 0x100 + (numbered g).length)
  | 0x0C => wd (g.aCycle / 1000)
  | 0x10 => wd g.aPhase
  | 0x14 => wd (g.aApply * 0x10000 + g.lead)
  | 0x18 => wd (g.loop % 0x1000000)
  | 0x1C => wd g.cycles
  | 0x20 => wd (g.errInv * 0x10000 + g.errLate)
  | 0x24 => wd (bMax g * 0x10000 + outLen g)
  | 0x2C => wd (stnCode x.state * 0x10000000 + x.flags * 0x1000000 + x.pos * 0x10000 + x.miss * 0x100 + b2n (wb g.safeMask (n - 1)))
  | 0x30 => wd x.id
  | 0x34 => wd (x.id / 0x100000000)
  | 0x38 => wd (x.vendor * 0x10000 + x.prod)
  | 0x3C => wd (x.i * 0x1000000 + x.o * 0x10000 + x.cls * 0x1000 + x.off)
  | 0x40 => wd x.dp
  | 0x44 => wd (min 63 (g.waiting.length + (g.pods - 63)))
  | _ => 0

/-- A read of a UAN register: a ring that the accessor does not own reads 0. -/
def uanRead (acc : Accessor) (off : Nat) (s : State) : Word :=
  let a := acode acc
  let r := wf (s.copy a 0x80000 0) 5 0
  match off with
  | 0x00 => s.copy a 0x80000 0
  | 0x28 => s.copy a 0x80028 0
  | 0x48 => s.uan.last
  | 0x4C => s.copy a 0x8004C 0
  | 0x50 => s.copy a 0x80050 0
  | _ => if mayTouch acc (ringOwner s r) then ringReg (s.ringOf r) (wf (s.copy a 0x80028 0) 4 0 + 1) off else 0

/-- A write of a UAN register: each accessor its own copies. -/
def uanWrite (acc : Accessor) (off : Nat) (v : Word) (s : State) : State :=
  let a := acode acc
  match off with
  | 0x00 => s.setCopy a 0x80000 0 (v &&& 0x3F)
  | 0x28 => s.setCopy a 0x80028 0 (v &&& 0x1F)
  | 0x4C => s.clearCopy a 0x8004C 0 v
  | 0x50 => s.setCopy a 0x80050 0 (v &&& 0xFF)
  | _ => s

/-! ## Mailbox commands (R326) -/

/-- A ring command's ring must be the issuer's. -/
def ringOwned (c : RunCmd) (s : State) : Bool := ringOwner s (pw c 0 % 64) == cmdOwner c

/-- Runs a ring command behind a mailbox command, which waits for it. -/
def ringMail (c : RunCmd) (cmd : Nat) (s : State) : State :=
  ringCommand (waitCmd c [] s) (pw c 0 % 64) cmd (some (c.d, c.tag))

/-- Puts the fields of UAN_START_RING into the control block. -/
def startFields (c : RunCmd) (r : Nat) (s : State) : State :=
  let put (u : State) (x : Nat × Nat) : State := ctrlWrite r x.1 (nth c.p x.2) u
  ([(0x08, 1), (0x0C, 2), (0x10, 3), (0x14, 4)] ++ (List.range 9).map fun i => (0x40 + 4 * i, 5 + i)).foldl put s

/-- UAN_START_RING. A command that meets another has no effect on the control block. -/
def uanStartRing (d : Nat) (s : State) : State :=
  serve d 0x0501 .owner (fun c s =>
    let r := pw c 0 % 64
    if !ringOwned c s then finish c .notOwner 0 [] [] s
    else ringMail c 1 (if wb (nth c.p 0) 8 || (s.ringOf r).busy then s else startFields c r s)) s

/-- UAN_START_RING. -/
def execUanStartRing (d : Nat) (s : State) : Host.Outcome State Fault Refusal := done (uanStartRing d) s

/-- UAN_STOP_RING. -/
def uanStopRing (d : Nat) (s : State) : State :=
  serve d 0x0502 .owner (fun c s => if ringOwned c s then ringMail c 2 s else finish c .notOwner 0 [] [] s) s

/-- UAN_STOP_RING. -/
def execUanStopRing (d : Nat) (s : State) : Host.Outcome State Fault Refusal := done (uanStopRing d) s

/-- UAN_GET_TOPOLOGY: the topology area into the buffer; with refresh, REDISCOVER first. -/
def uanGetTopology (d : Nat) (s : State) : State :=
  serve d 0x0503 .owner (fun c s =>
    let g := s.ringOf (pw c 0 % 64)
    if !ringOwned c s then finish c .notOwner 0 [] [] s
    else if !bufOk (pw c 1) 2016 then finish c .badParameter 0 [] [] s
    else if wb (nth c.p 0) 8 then ringMail c 5 s
    else finish c .ok 7 [] [wd g.pods] (writeBuf s c (pw c 1) (topoArea g))) s

/-- UAN_GET_TOPOLOGY. -/
def execUanGetTopology (d : Nat) (s : State) : Host.Outcome State Fault Refusal := done (uanGetTopology d) s

/-- UAN_ASSIGN: the fields go into the control block, then ASSIGN runs. -/
def uanAssign (d : Nat) (s : State) : State :=
  serve d 0x0504 .owner (fun c s =>
    let r := pw c 0 % 64
    if !ringOwned c s then finish c .notOwner 0 [] [] s
    else if (s.ringOf r).busy then ringMail c 3 s
    else ringMail c 3 (ctrlWrite r 0x3C (nth c.p 3) (ctrlWrite r 0x38 (nth c.p 2) (ctrlWrite r 0x34 (nth c.p 1) s)))) s

/-- UAN_ASSIGN. -/
def execUanAssign (d : Nat) (s : State) : Host.Outcome State Fault Refusal := done (uanAssign d) s

/-- UAN_SAFE: the stations join the safe mask and SAFE runs. -/
def uanSafe (d : Nat) (s : State) : State :=
  serve d 0x0505 .owner (fun c s =>
    let r := pw c 0 % 64
    if !ringOwned c s then finish c .notOwner 0 [] [] s
    else ringMail c 4 (if (s.ringOf r).state == .running && !(s.ringOf r).busy then ctrlWrite r 0x30 (nth c.p 1) s else s)) s

/-- UAN_SAFE. -/
def execUanSafe (d : Nat) (s : State) : Host.Outcome State Fault Refusal := done (uanSafe d) s

end Sys2Proof.Machine
end

