-- ==== Sys2Proof/Machine/Reset.lean ====
section
/-! DEFINITION. The reach of power-on and warm reset (Table 1.5, R34–R39, R227, R510, R511), in two operations that the
life cycle, boot and device sleep share. -/
namespace Sys2Proof.Machine
open Sys2Proof

/-! ## The NV store (R38, R405, R407) -/

/-- Bytes whose program was cut off are undefined: free values (DESIGN CHOICE, log entry 5). -/
def scramble (s : State) (a n : Nat) : State :=
  { s with
    free := s.free + n
    nv := { s.nv with
      arr := (List.range n).foldl (fun m i =>
        Memory.write erased m (nvAddr s (a + i)) ((Config.freeBits (s.free + i)).setWidth 8)) s.nv.arr } }

/-- An erase that was cut off leaves its sector TORN. -/
def tearSector (s : State) (bank p : Nat) : State :=
  let b := s.bankOf bank
  s.setBank bank { b with
    busy := .idle, susp := 0, started := if b.started.contains p then b.started else b.started ++ [p] }

/-- The operation of a bank is abandoned: an erase leaves its sector TORN, a program its pages undefined. -/
def tearOp (s : State) (bank : Nat) : State :=
  match bankOp s bank with
  | none => s
  | some x =>
    match openPart x bank with
    | none => s
    | some p =>
      if x.op = 3 then tearSector s bank (physOf (s.bankOf bank) (laSector p.1))
      else if x.op = 2 || x.op = 7 then
        (partPieces (targetAddr x) x.len p.1).foldl (fun u q => scramble u q.1 q.2) s
      else s

/-- What a bank was doing is abandoned: a gap or refresh copy is given up and its gap erased; the erase of a gap leaves the
gap TORN. -/
def tearBank (s : State) (bank : Nat) : State :=
  let b := s.bankOf bank
  match b.busy with
  | .copy => s.setBank bank { b with busy := .gapErase, gapSec := slotPhys b b.g, due := !b.copyRef || b.due }
  | .gapErase => tearOp (tearSector s bank b.gapSec) bank
  | .idle => tearOp s bank

/-- Every bank's work is abandoned. -/
def tearNv (s : State) : State := (List.range 64).foldl tearBank s

/-! ## What a reset keeps -/

/-- The copies of the always-on blocks, AON and PMB (Table 1.2). -/
def aonCopies (m : SMap Word) : SMap Word :=
  m.filter fun e => let page := e.1 / 1024 % 16777216 / 65536; page = 0xD || page = 0xE

/-- An endpoint after a warm reset: the link and configuration space stay, unless the lanes were raw, and the RW registers
return to their reset values (R510, R331). -/
def warmPci (c : Pci) : Pci :=
  if c.raw then { perst := c.perst, losses := c.losses }
  else
    { up := c.up, everUp := c.up, perst := c.perst, gen := c.gen, width := c.width, bme := c.bme, msixEn := c.msixEn,
      d3 := c.d3, bars := c.bars, mask := c.mask, pba := c.pba, msix := c.msix, lost := c.lost, cause := c.cause,
      losses := c.losses }

/-- A port in reset: its pad is an input, the forced-safe latch stays through a warm reset (R243). -/
def warmPort (p : Port) : Port := { pad := p.pad, fpIn := p.fpIn, fpAt := p.fpAt, fout := p.fout, foe := p.foe, rout := p.rout, roe := p.roe, forced := p.forced, held := p.held }

/-- The store after a reset: array, wear state, ranges, selectors, indexes and keys stay; a warm reset keeps lockouts and
failure counts, which the always-on domain holds (R398). -/
def keptNv (v : Nv) (por : Bool) : Nv :=
  { arr := v.arr, banks := v.banks, selA := v.selA, selB := v.selB, index := v.index, pkeys := v.pkeys, refDay := v.refDay,
    rewrit := v.rewrit, retired := v.retired,
    ranges := v.ranges.map fun (e : Nat × NvRange) =>
      (e.1, { e.2 with sess := [], so := .unowned, fails := if por then 0 else e.2.fails, lock := !por && e.2.lock }) }

/-- Power after a reset of the logic die: every band is ON, no entry is in progress; all else is always on
(DEDUCED, log entry 48). -/
def keptPwr (p : Pwr) : Pwr :=
  { p with
    bands := [], dev := none, latched := none, armed := false, kept := none
    rails := p.rails.map fun (e : Nat × Rail) => (e.1, { e.2 with cmdAt := none }) }

/-- The logic die is reset while the always-on domain goes on: warm reset and device sleep (Table 1.5, R227, R511). The
timebase is handed in, since a warm reset keeps it and sleep stops it. -/
def resetLogic (s0 : State) (tbs : Tbs) (ph : Phase) : State :=
  let s := tearNv s0
  { pending := s.pending, uptime := s.uptime, free := s.free, out := s.out
    copies := aonCopies s.copies
    boot := { phase := ph, cfgMode := s.boot.cfgMode, cause := s.boot.cause, suppliesOk := s.boot.suppliesOk }
    pci := s.pci.map fun (e : Nat × Pci) => (e.1, warmPci e.2)
    xcv := { quads := s.xcv.quads.map fun (e : Nat × Quad) => (e.1, ({ ref := e.2.ref } : Quad))
             lanes := s.xcv.lanes.map fun (e : Nat × Lane) => (e.1, ({ sig := e.2.sig } : Lane)) }
    port := s.port.map fun (e : Nat × Port) => (e.1, warmPort e.2)
    tbs := tbs
    mc := { restarts := s.mc.restarts, warmCnt := s.mc.warmCnt, vccint := s.mc.vccint }
    nv := keptNv s.nv false
    pwr := keptPwr s.pwr
    bst := { ended := s.bst.ended }
    lcs := { otp := s.lcs.otp, boot := s.lcs.boot, state := s.lcs.state, imgKey := s.lcs.imgKey, kek := s.lcs.kek, gseq := s.lcs.gseq, ir := s.lcs.ir,
             denied := s.lcs.denied, bsr := s.lcs.bsr, drive := s.lcs.drive, hiz := s.lcs.hiz, csrData := s.lcs.csrData }
    clk := { plls := s.clk.plls.map fun (e : Nat × Pll) => (e.1, ({ lol := e.2.lol, ref := e.2.ref } : Pll)) } }

/-- The pins as a reset leaves them: DONE low, CFG_ERR_N released, TB_PPS_OUT low, ports in Hi-Z (Table 4.7, R259). -/
def resetPins (s : State) : State :=
  let s1 := if s.boot.done then s.emit (.pin "DONE" false) else s
  let s2 := if s1.boot.cfgErr then s1.emit (.pin "CFG_ERR_N" true) else s1
  (s2.port.filter fun e => e.2.pin != .z).foldl (fun u e => u.emit (.wire "FP" e.1 2)) (ppsLow s2)

/-- Host requests in flight at a reset complete with CA (R510). -/
def abortReads (s : State) : State :=
  (List.range 4).foldl (fun u p => (s.pciOf p).rds.foldl (fun v (e : Nat × Option W2Read) =>
    match e.2 with | some _ => v.emit (.cpl p e.1 .ca []) | none => v) u) s

/-- The arrays of a state that a reset maps element by element, in canonical form. -/
def tidy (s : State) : State :=
  { s with
    pci := SMap.normal dPci s.pci
    port := SMap.normal dPort s.port
    xcv := { s.xcv with quads := SMap.normal dQuad s.xcv.quads, lanes := SMap.normal dLane s.xcv.lanes }
    nv := { s.nv with ranges := SMap.normal dRange s.nv.ranges }
    pwr := { s.pwr with rails := SMap.normal dRail s.pwr.rails }
    clk := { s.clk with plls := SMap.normal dPll s.clk.plls } }

/-- A warm reset takes effect (R34, R36, R227, R510, R511): the device is held until RESET_N rises and boot starts. The rings
of the mailboxes read as zero; their buffers are not said to (R358, DEDUCED, log entry 30). -/
def warmNow (s : State) : State :=
  let s1 := abortReads (resetPins s)
  let s2 := tidy (resetLogic s1 { s1.tbs with ppsOut := false, ppsEn := false, setPend := none, setCmd := none } .resetHeld)
  { s2 with mc := { s2.mc with
    warmCnt := sat 0xFFFFFFFF s.mc.warmCnt
    ram := s.mc.ram.filter fun (c : Host.Cell) => 0x2000 ≤ c.1 % 0x10000 } }

end Sys2Proof.Machine
end

