-- ==== Sys2Proof/Machine/Lcs.lean ====
section
/-! DEFINITION. Life cycle and debug authorisation (R454–R473): decoding the OTP, transitions and their programming runs,
leash grants, the TAP and boundary scan, the LCS registers. CSR_ACCESS stands in Csr.lean. -/
namespace Sys2Proof.Machine
open Sys2Proof

/-! ## OTP (R454–R457) -/

/-- The state word patterns of Table 16.2. -/
def lcPattern : Nat → Word
  | 0 => 0x00000000 | 1 => 0x00000033 | 2 => 0x00003333 | 3 => 0x00333333 | 4 => 0x33333333 | _ => 0xFFFFFFFF

/-- The code of a pattern, 15 for any other content. -/
def patternCode (w : Word) : Nat := ((List.range 6).find? fun k => lcPattern k == w).getD 15

/-- All 256 bits 1. -/
def ones256 : BitVec 256 := 0#256 - 1#256

/-- Words 8–20 are all zero. -/
def hashBlank (m : SMap Word) : Bool := (List.range 13).all fun i => SMap.get dWord m (8 + i) == 0

/-- Word 20 is the CRC of words 8–19. -/
def hashMatches (m : SMap Word) : Bool :=
  SMap.get dWord m 20 == crc32c (wordBytes ((List.range 12).map fun i => SMap.get dWord m (8 + i)))

/-- Keys and check words are all zero. -/
def keysBlank (m : SMap Word) (k1 k2 : BitVec 256) : Bool :=
  k1 == 0 && k2 == 0 && SMap.get dWord m 21 == 0 && SMap.get dWord m 22 == 0

/-- Keys are programmed with matching check words. -/
def keysGood (m : SMap Word) (k1 k2 : BitVec 256) : Bool :=
  k1 != 0 && k2 != 0 && SMap.get dWord m 21 == checkWord k1 && SMap.get dWord m 22 == checkWord k2

/-- Keys and check words are all ones. -/
def keysGone (m : SMap Word) (k1 k2 : BitVec 256) : Bool :=
  k1 == ones256 && k2 == ones256 && SMap.get dWord m 21 == 0xFFFFFFFF && SMap.get dWord m 22 == 0xFFFFFFFF

/-- The state that the OTP decodes to (R456, Table 16.3). -/
def lcDecode (m : SMap Word) (k1 k2 : BitVec 256) : Nat :=
  let w0 := SMap.get dWord m 0
  let r := SMap.get dWord m 23
  let c := patternCode w0
  let same := (List.range 8).all fun i => SMap.get dWord m i == w0
  let agrees := match c with
    | 0 => keysBlank m k1 k2 && hashBlank m && r == 0
    | 1 => (keysBlank m k1 k2 || keysGood m k1 k2) && hashBlank m && r == 0
    | 2 => keysGood m k1 k2 && hashBlank m && r == 0
    | 3 => keysGood m k1 k2 && hashMatches m && (r == 0 || r == 0xFFFFFFFF)
    | 4 => keysGood m k1 k2 && hashMatches m && r == 0xFFFFFFFF
    | 5 => keysGone m k1 k2
    | _ => false
  if same && agrees then c else 15

/-- The MC reads and decodes every area (R456). -/
def lcRead (s : State) : State :=
  { s with lcs := { s.lcs with boot := s.lcs.otp, state := lcDecode s.lcs.otp s.lcs.imgKey s.lcs.kek } }

/-- The return mark is set (Table 16.3). -/
def returnMark (s : State) : Bool := s.otpWord 23 != 0

/-- Programs one OTP word: bits go from 0 to 1 and never back (R454). Key words are numbered 32–39 for the image key and
40–47 for the key-encryption key, lowest bits first. -/
def otpPut (s : State) (e : Nat × Word) : State :=
  let wide : BitVec 256 := (e.2.setWidth 256 : BitVec 256) <<< (32 * (e.1 % 8) : Nat)
  if e.1 < 24 then { s with lcs := { s.lcs with
    otp := SMap.set dWord s.lcs.otp e.1 (SMap.get dWord s.lcs.otp e.1 ||| e.2) } }
  else if e.1 < 40 then { s with lcs := { s.lcs with imgKey := s.lcs.imgKey ||| wide } }
  else { s with lcs := { s.lcs with kek := s.lcs.kek ||| wide } }

/-- The 8 state words of a state. -/
def stateWords (t : Nat) : List (Nat × Word) := (List.range 8).map fun i => (i, lcPattern t)

/-- The words that the run in progress programs, in order (Table 16.4). -/
def runWords (s : State) (r : LcRun) : List (Nat × Word) :=
  if r.target = 4 && !r.run2 then [(23, 0xFFFFFFFF)]
  else if r.target = 3 then
    let h := bytesWords (sha s.boot.imgOwner)
    ((List.range 12).map fun i => (8 + i, nth h i)) ++ [(20, crc32c (wordBytes h))] ++ stateWords 3
  else if r.target = 5 then
    ((List.range 16).map fun i => (32 + i, 0xFFFFFFFF)) ++ [(21, 0xFFFFFFFF), (22, 0xFFFFFFFF)] ++ stateWords 5
  else stateWords r.target

/-- The programming time of the words of a run in ns: 0.5 ms for a state word, 0.1 ms for any other (Table 16.1). -/
def runNs (ws : List (Nat × Word)) : Nat := ws.foldl (fun n e => n + if e.1 < 8 then 500000 else 100000) 0

/-- A programming run is under way: not the erase between the two runs of a return. -/
def programming (s : State) : Option LcRun := if s.lcs.erasing then none else s.lcs.run

/-- The supplies collapse during a run (R457, R461): it stops after its first write and before its last, at a point that is
free. A run of one word leaves that word partly programmed. -/
def tornRun (s : State) : State :=
  match programming s with
  | none => s
  | some r =>
    let ws := runWords s r
    let f := (Config.freeBits s.free).toNat
    if ws.length < 2 then
      let v : Word := (wd f ||| 1#32) &&& 0xFFFFFFFD#32
      ws.foldl (fun u e => otpPut u (e.1, v)) s.takeFree
    else (ws.take (1 + f % (ws.length - 1))).foldl otpPut s.takeFree

/-! ## Grants (R466–R469) -/

/-- Ends the grant of a slot: the requester is told, and pins that a drive instruction held under it are released. -/
def endGrant (s : State) (slot : Nat) : State :=
  match SMap.get dNone s.lcs.grants slot with
  | none => s
  | some g =>
    let s1 := ({ s with lcs := { s.lcs with grants := SMap.set dNone s.lcs.grants slot none } }).raiseFor [g.who] 0x100020 0 8
    if g.scope = 1 && s.boot.done && !freeDebug s && !grantWith s1 (fun x => x.scope == 1) then
      { s1 with lcs := { s1.lcs with drive := false, hiz := false } }
    else s1

/-- Every grant in force ends. -/
def endGrants (s : State) : State := (List.range 8).foldl endGrant s

/-- The nonce of a host that is outstanding (R466). -/
def nonceOf (s : State) (d : Nat) : Option Nonce := SMap.get dNone s.lcs.nonces d

/-- Sets or ends it. -/
def setNonce (s : State) (d : Nat) (n : Option Nonce) : State :=
  { s with lcs := { s.lcs with nonces := SMap.set dNone s.lcs.nonces d n } }

/-- DBG_CHALLENGE (R466, Table 16.7) (DEDUCED, log entry 65). -/
def dbgChallenge (d : Nat) (s : State) : State :=
  serve d 0x0902 .h (fun c s =>
    let scope := bf (pw c 0) 3 0
    let dom := bf (pw c 0) 6 4
    if ((scope = 2 || scope = 4) && s.lead != some c.d) || (scope = 3 && dom != c.d) then finish c .notOwner 0 [] [] s
    else if 4 < scope then finish c .badParameter 0 [] [] s
    else
      let v := Config.freeBits s.free
      finish c .ok 0x18 [] ((List.range 4).map fun i => v.extractLsb' (32 * i) 32)
        (setNonce s.takeFree c.d (some { scope, dom, value := v, t := s.pwr.rtc }))) s

/-- DBG_CHALLENGE. -/
def execDbgChallenge (d : Nat) (s : State) : Host.Outcome State Fault Refusal := done (dbgChallenge d) s

/-- Ticks in 10 minutes. -/
def nonceLife : Nat := 600 * 32768

/-- NONCE_EXPIRY (R466). -/
def nonceExpiry (h : Nat) (s : State) : State :=
  match nonceOf s h with
  | some n => if n.t + nonceLife ≤ s.pwr.rtc then setNonce s h none else s
  | none => s

/-- NONCE_EXPIRY. -/
def execNonceExpiry (h : Nat) (s : State) : Host.Outcome State Fault Refusal := done (nonceExpiry h) s

/-- The fused owner key: that of the running image, which matches the hash, or the key of the hash itself
(DEDUCED, log entry 64). -/
def fusedKey (s : State) : List Byte := if s.boot.imgActive then s.boot.imgOwner else Config.fusedOwnerKey (fusedHash s)

/-- The key that signs grants in a state (R464, R467); none where there is none (DEDUCED, log entry 65). -/
def grantKey (s : State) : Option (List Byte) :=
  match s.lcs.state with
  | 2 => if s.boot.imgActive then some s.boot.imgOwner else none
  | 3 => some (fusedKey s)
  | _ => some Config.vendorKey

/-- A signature by a key. -/
def signedBy (key : Option (List Byte)) (body sig : List Byte) : Bool :=
  match key with
  | some k => Crypto.ecdsaVerify k (Crypto.sha384 body) sig
  | none => false

/-- The bytes of a 128-bit nonce. -/
def nonceBytes (n : Nonce) : List Byte := leBytes 16 n.value.toNat

/-- The device serial number as 8 bytes. -/
def serialBytes : List Byte := leBytes 8 Config.serial.toNat

/-- The grant slots that are free. -/
def freeSlots (s : State) : List Nat := (List.range 8).filter fun k => (SMap.get dNone s.lcs.grants k).isNone

/-- A grant is right: magic, scope, domain, serial, nonce and signature (R467). -/
def grantRight (s : State) (n : Nonce) (b : List Byte) : Bool :=
  leAt b 0 4 == 0xB10E1EA5 && 1 ≤ n.scope && leAt b 4 1 == n.scope &&
    leAt b 5 1 == (if n.scope = 3 then n.dom else 0) && (b.drop 0x0C).take 8 == serialBytes &&
    (b.drop 0x14).take 16 == nonceBytes n && signedBy (grantKey s) (b.take 0x30) ((b.drop 0x30).take 96)

/-- A grant is stored in a free slot; which one is not given, and is free (DESIGN CHOICE, log entry 28). -/
def storeGrant (c : RunCmd) (n : Nonce) (minutes : Nat) (s : State) : State :=
  let ks := freeSlots s
  let k := ks.getD ((Config.freeBits s.free).toNat % ks.length) 0
  let q := if s.lcs.gseq ≥ 0xFFFF then 1 else s.lcs.gseq + 1
  let g : Grant := { who := c.d, scope := n.scope, dom := if n.scope = 3 then n.dom else 0, seq := q,
                     until_ := rtcSec s + 60 * minutes }
  let s1 := s.takeFree
  finish c .ok 0x18 [] [wd (q * 0x10000 + k)]
    (({ s1 with lcs := { s1.lcs with gseq := q, grants := SMap.set dNone s1.lcs.grants k (some g) } }).raiseFor [c.d]
      0x100020 0 4)

/-- DBG_GRANT (R468). The nonce ends at its use, whatever comes of it. -/
def dbgGrant (d : Nat) (s : State) : State :=
  serve d 0x0903 .h (fun c s =>
    let b := readBuf s c (pw c 0) 144
    let minutes := leAt b 8 4
    if !bufOk (pw c 0) 144 then finish c .badParameter 0 [] [] s
    else match nonceOf s c.d with
      | none => finish c .notReady 0x18 [] [] s
      | some n =>
        let s1 := setNonce s c.d none
        if minutes = 0 || 1440 < minutes || leAt b 6 2 != 0 || leAt b 0x24 12 != 0 then finish c .badParameter 0x18 [] [] s1
        else if !grantRight s n b then finish c .authFail 0x18 [] [] s1
        else if (freeSlots s).isEmpty then finish c .busy 0x18 [] [] s1
        else storeGrant c n minutes s1) s

/-- DBG_GRANT. -/
def execDbgGrant (d : Nat) (s : State) : Host.Outcome State Fault Refusal := done (dbgGrant d) s

/-- The slot that holds a grant ID. -/
def grantSlot (s : State) (id : Nat) : Option (Nat × Grant) :=
  match SMap.get dNone s.lcs.grants (bf id 2 0) with
  | some g => if g.seq = bf id 31 16 then some (bf id 2 0, g) else none
  | none => none

/-- DBG_REVOKE (R469). -/
def dbgRevoke (d : Nat) (s : State) : State :=
  serve d 0x0904 .h (fun c s =>
    match grantSlot s (pw c 0) with
    | none => finish c .badParameter 0x18 [] [] s
    | some (k, g) =>
      if g.who != c.d && s.lead != some c.d then finish c .notOwner 0 [] [] s
      else finish c .ok 0x18 [] [] (endGrant s k)) s

/-- DBG_REVOKE. -/
def execDbgRevoke (d : Nat) (s : State) : Host.Outcome State Fault Refusal := done (dbgRevoke d) s

/-- LEASH_EXPIRY (R469): the duration has elapsed in whole RTC seconds. -/
def leashExpiry (slot : Nat) (s : State) : State :=
  match SMap.get dNone s.lcs.grants slot with
  | some g => if g.until_ ≤ rtcSec s then endGrant s slot else s
  | none => s

/-- LEASH_EXPIRY. -/
def execLeashExpiry (slot : Nat) (s : State) : Host.Outcome State Fault Refusal := done (leashExpiry slot) s

/-! ## Transitions (R458–R463) -/

/-- The pairs of Table 16.4. -/
def lcPair (a b : Nat) : Bool :=
  (a = 0 && b = 1) || (a = 1 && b = 2) || (a = 2 && b = 3) || (a = 3 && b = 4) || (a ≤ 4 && b = 5)

/-- The keys that may make signature 1 (Table 16.4). -/
def lcKeys (s : State) (target : Nat) : List (List Byte) :=
  let owner := if s.boot.imgActive then [s.boot.imgOwner] else []
  match s.lcs.state with
  | 2 => if target = 3 then owner else Config.vendorKey :: owner
  | 3 => if target = 4 then [fusedKey s] else [fusedKey s, Config.vendorKey]
  | _ => [Config.vendorKey]

/-- The required signatures are right. Where the transition needs the key of a running image and none is active, the
condition of Table 16.4 fails instead. -/
def lcSigned (s : State) (target : Nat) (b : List Byte) : Bool :=
  let body := b.take 0x20
  let sig1 := (b.drop 0x20).take 96
  let first := (s.lcs.state = 2 && target = 3 && !s.boot.imgActive) ||
    (lcKeys s target).any fun k => signedBy (some k) body sig1
  first && (!(s.lcs.state = 3 && target = 4) || signedBy (some Config.vendorKey) body ((b.drop 0x80).take 96))

/-- Magic, serial, nonce and signatures (R459). -/
def lcAuth (s : State) (target : Nat) (n : Nonce) (b : List Byte) : Bool :=
  leAt b 0 4 == 0xB10E1C7A && (b.drop 8).take 8 == serialBytes && (b.drop 0x10).take 16 == nonceBytes n && lcSigned s target b

/-- The conditions of Table 16.4, and the end of a background erase (R462) (DEDUCED, log entry 64). -/
def lcCondition (s : State) (target : Nat) : Bool :=
  match s.lcs.state, target with
  | 1, 2 => keysGood s.lcs.otp s.lcs.imgKey s.lcs.kek
  | 2, 3 => s.boot.imgActive
  | 3, 4 => !s.lcs.erasing
  | _, _ => true

/-- LC_TRANSITION ends, with its status in LCS.STATE. -/
def lcEnd (c : RunCmd) (st : Status) (s : State) : State :=
  finish c st 0x18 [] [] { s with lcs := { s.lcs with status := st } }

/-- LC_TRANSITION (R460). -/
def lcTransition (d : Nat) (s : State) : State :=
  serve d 0x0901 .h (fun c s =>
    let t := bf (pw c 0) 3 0
    let b := readBuf s c (pw c 1) 0xE0
    if !bufOk (pw c 1) 0xE0 then finish c .badParameter 0 [] [] s
    else if s.lcs.run.isSome then finish c .busy 0x18 [] [] s
    else if !lcPair s.lcs.state t || leAt b 4 1 != s.lcs.state || leAt b 5 1 != t then lcEnd c .lifecycleDeny s
    else match (nonceOf s c.d).filter (fun n => n.scope == 0) with
      | none => lcEnd c .notReady s
      | some n =>
        let s1 := setNonce s c.d none
        if !lcAuth s t n b then lcEnd c .authFail s1
        else if !lcCondition s t then lcEnd c .notReady s1
        else if !s.pwr.holdup || !s.boot.suppliesOk then lcEnd c .holdupAbsent s1
        else
          let s2 := waitCmd c [] s1
          { s2 with lcs := { s2.lcs with run := some { cmd := some ⟨c.d, c.tag⟩, target := t, run2 := t = 4 && returnMark s, since := s.uptime } } }) s

/-- LC_TRANSITION. -/
def execLcTransition (d : Nat) (s : State) : Host.Outcome State Fault Refusal := done (lcTransition d) s

/-- The running design stops as a warm reset stops it: DONE low, ports in Hi-Z, GSR asserted; it does not reload (R462
step 3). -/
def stopDesign (s : State) : State :=
  let s1 := resetPins s
  let s2 := { s1 with boot := { s1.boot with
    done := false, released := false, gsr := true, we := false, suActive := false, imgActive := false, cfgErr := false,
    phase := .denied } }
  let s3 := gsrFabric s2 (fun _ _ => true)
  let s4 := { s3 with
    port := SMap.normal dPort (s3.port.map fun (e : Nat × Port) => (e.1, warmPort e.2))
    rfx := {}
    uan := {}
    scr := {}
    tbs := { s3.tbs with ppsEn := false } }
  ((List.range 4).foldl (fun u k => match SMap.get dNone u.bst.slices k with
    | some x => abortSlice u k x
    | none => u) s4)

/-- OTP_RUN_END (R460–R462): the words of the run are written, no sooner than their programming times allow. The first run of a return is followed by the erase; any
other ends the transition: the new state governs and every leash ends. A warm reset that was put off takes effect now. -/
def otpRunEnd (s : State) : State :=
  match programming s with
  | none => s
  | some r =>
    if s.uptime < r.since + runNs (runWords s r) then s else
    let s1 := (runWords s r).foldl otpPut s
    let s2 :=
      if r.target = 4 && !r.run2 then
        let u := stopDesign s1
        { u with lcs := { u.lcs with
          run := some { r with run2 := true }, erasing := true, boot := SMap.set dWord u.lcs.boot 23 (SMap.get dWord u.lcs.otp 23) } }
      else
        let u := endGrants (lcRead { s1 with lcs := { s1.lcs with run := none, status := .ok } })
        endCmd? r.cmd .ok 0x18 [wd u.lcs.state] (u.raiseAll 0x100020 0 1)
    if s2.lcs.warmDef then warmNow { s2 with lcs := { s2.lcs with warmDef := false } } else s2

/-- OTP_RUN_END. -/
def execOtpRunEnd (s : State) : Host.Outcome State Fault Refusal := done otpRunEnd s

/-- One bank's sectors that hold logical sectors are erased. -/
def eraseOwner (s : State) (bank : Nat) : State :=
  let b := s.bankOf bank
  let ps := ((List.range 1017).filter (· != b.g)).map (slotPhys b)
  let s1 := s.setBank bank { b with
    erases := min 0xFFFFFFFF (b.erases + ps.length)
    cnt := ps.foldl (fun m p => SMap.set dNat m p (SMap.get dNat m p + 1)) b.cnt
    started := b.started.filter fun p => !ps.contains p }
  { s1 with nv := { s1.nv with
    arr := s1.nv.arr.filter fun e => !(e.1 / 32768 / 1024 == bank && ps.contains (e.1 / 32768 % 1024)) } }

/-- The erase of R462 step 4. -/
def ownerErase (s : State) : State :=
  let s1 := (List.range 64).foldl eraseOwner s
  { s1 with nv := { s1.nv with ranges := [], pkeys := [], selA := {}, selB := {}, index := [] } }

/-- RETURN_ERASE_DONE (R462 steps 4 and 5): HOLDUP_OK is checked again, and the second run begins. -/
def returnEraseDone (s : State) : State :=
  if !s.lcs.erasing then s
  else
    let s1 := ownerErase s
    let s2 := { s1 with lcs := { s1.lcs with erasing := false } }
    match s.lcs.run with
    | none => s2
    | some r =>
      if s.pwr.holdup && s.boot.suppliesOk then { s2 with lcs := { s2.lcs with run := some { r with since := s.uptime } } }
      else endCmd? r.cmd .holdupAbsent 0x18 [] { s2 with lcs := { s2.lcs with run := none, status := .holdupAbsent } }

/-- RETURN_ERASE_DONE. -/
def execReturnEraseDone (s : State) : Host.Outcome State Fault Refusal := done returnEraseDone s

/-! ## The TAP (R470–R472) -/

/-- The codes of Table 16.8. -/
def jtagListed (code : Nat) : Bool :=
  code ≤ 6 || code = 0x10 || code = 0x18 || code = 0x20 || code = 0x21 || code = 0x3FF

/-- A debug scope is open (Table 16.6). -/
def scopeOpen (s : State) (scope : Nat) : Bool := s.lcs.state ≤ 4 && (freeDebug s || grantWith s fun g => g.scope == scope)

/-- Whether an instruction is permitted now (Table 16.8, R471). With the MC down only boundary scan works (Table 4.8)
(DESIGN CHOICE, log entry 13). -/
def jtagPermits (s : State) (code : Nat) : Bool :=
  match code with
  | 0x000 => s.lcs.state != 5 && (!s.boot.done || scopeOpen s 1)
  | 0x003 => s.lcs.state != 5 && (!s.boot.done || scopeOpen s 1)
  | 0x004 => s.lcs.state != 5 && (!s.boot.done || scopeOpen s 1)
  | 0x005 => s.lcs.state != 5 && (!s.boot.done || scopeOpen s 1)
  | 0x006 => s.lcs.state != 5 && (!s.boot.done || scopeOpen s 1)
  | 0x001 => s.lcs.state != 5
  | 0x018 => s.boot.mcUp && s.lcs.state = 1
  | 0x020 => s.boot.mcUp && scopeOpen s 4
  | 0x021 => s.boot.mcUp && scopeOpen s 2
  | _ => true

/-- An instruction is loaded: pins that a drive instruction held are released, and any but the drive instructions leave
them to their functional drivers. -/
def loadIr (code : Nat) (s : State) : State := { s with lcs := { s.lcs with ir := code % 1024, drive := false, hiz := false } }

/-- An instruction that is not permitted acts as BYPASS, and is counted (R470). -/
def jtagDenied (code : Nat) (s : State) : State :=
  let s1 := loadIr code s
  (({ s1 with lcs := { s1.lcs with denied := sat 0xFFFF s1.lcs.denied } }).raiseAll 0x100020 0 2).emit (.tdo 1 0)

/-- Loads an instruction and does its work where it is permitted. -/
def jtag (code : Nat) (f : State → State) (s : State) : State :=
  if jtagPermits s code then f (loadIr code s) else jtagDenied code s

/-- A number with one bit set or cleared. -/
def bitTo (n i : Nat) (b : Bool) : Nat := n - (if n.testBit i then 2 ^ i else 0) + (if b then 2 ^ i else 0)

/-- The three cells of a field port: the level at its pad, and what its functional driver drives (R472). -/
def portCells (pad : Bool) (pin : Pin) : Nat :=
  match pin with
  | .z => b2n pad
  | .low => 4
  | .high => 7

/-- What the boundary-scan register captures (R472): of the field ports, HOLDUP_OK, the WAKE and PERST_N pins and the outputs, what the
device holds; of the other cells, what the pins show. -/
def bsCapture (pins : BitVec 3300) (s : State) : Nat :=
  let fp := s.port.foldl (fun n e => if e.1 < 1024 then n + portCells e.2.pad e.2.pin * 8 ^ e.1 else n) 0
  let fp := fp - portCells (s.portOf 34).pad (s.portOf 34).pin * 8 ^ 34 + portCells (s.portOf 34).pad (sppPin s) * 8 ^ 34
  let io := (List.range 8).foldl (fun n i => bitTo n (196 + i) (s.pwr.pins.testBit i)) (bitTo (pins.toNat / 2 ^ 3072) 195 s.pwr.holdup)
  let io1 := (List.range 4).foldl (fun n i => bitTo n (206 + i) (!(s.pciOf i).perst)) io
  fp + 2 ^ 3072 * bitTo (bitTo (bitTo (bitTo io1 224 s.boot.done) 225 (!s.boot.cfgErr)) 226 (!s.alert)) 227 s.tbs.ppsOut

/-- A scan of the boundary-scan register: what it captured leaves, cell 0 first, and the new contents are updated. -/
def bscan (dr : BscanDr) (s : State) : State :=
  ({ s with lcs := { s.lcs with bsr := dr.shiftIn } }).emit (.tdo 3300 (bsCapture dr.pins s))

/-- The pins are driven from the boundary-scan register (R471). -/
def driven (s : State) : State := { s with lcs := { s.lcs with drive := true } }

/-- What a field-port pin shows with the TAP in view: Hi-Z under HIGHZ, cells 3n + 1 and 3n + 2 under a drive instruction
(R472). -/
def padPin (s : State) (n : Nat) : Pin :=
  if s.lcs.hiz then .z
  else if s.lcs.drive then
    (if s.lcs.bsr.getLsbD (3 * n + 2) then lvl (s.lcs.bsr.getLsbD (3 * n + 1)) else .z)
  else if n = 34 then sppPin s else (s.portOf n).pin

/-- EXTEST (R471). -/
def execExtest (dr : BscanDr) (s : State) : Host.Outcome State Fault Refusal :=
  done (jtag 0x000 fun s => driven (bscan dr s)) s
/-- SAMPLE/PRELOAD (R470): the pins keep their functional drivers. -/
def execSamplePreload (dr : BscanDr) (s : State) : Host.Outcome State Fault Refusal := done (jtag 0x001 (bscan dr)) s
/-- IDCODE (R470). -/
def execIdcode (s : State) : Host.Outcome State Fault Refusal := done (jtag 0x002 fun s => s.emit (.tdo 32 0x14096B3D)) s
/-- HIGHZ (R471). -/
def execHighz (s : State) : Host.Outcome State Fault Refusal :=
  done (jtag 0x003 fun s => ({ s with lcs := { s.lcs with hiz := true } }).emit (.tdo 1 0)) s
/-- CLAMP (R471). -/
def execClamp (s : State) : Host.Outcome State Fault Refusal := done (jtag 0x004 fun s => (driven s).emit (.tdo 1 0)) s
/-- EXTEST_PULSE (R471): the transceiver lanes send IEEE 1149.6 pulses. -/
def execExtestPulse (dr : BscanDr) (s : State) : Host.Outcome State Fault Refusal :=
  done (jtag 0x005 fun s => driven (bscan dr s)) s
/-- EXTEST_TRAIN (R471): the transceiver lanes send IEEE 1149.6 pulse trains. -/
def execExtestTrain (dr : BscanDr) (s : State) : Host.Outcome State Fault Refusal :=
  done (jtag 0x006 fun s => driven (bscan dr s)) s

/-- LCS.STATE (Table 16.10). -/
def lcsState (s : State) : Word :=
  let m := s.lcs.boot
  let mis := (List.range 8).foldl (fun n w => if s.otpWord w != s.otpWord 0 then n + 2 ^ w else n) 0
  wd (s.lcs.state * 0x10000000 + b2n s.lcs.run.isSome * 0x8000000 + b2n (returnMark s) * 0x4000000 +
    b2n (keysMatch s) * 0x2000000 + b2n (!hashBlank m && hashMatches m) * 0x1000000 + scode s.lcs.status * 0x10000 + mis)

/-- LC_STATUS (R470). -/
def execLcStatus (s : State) : Host.Outcome State Fault Refusal :=
  done (jtag 0x010 fun s => s.emit (.tdo 32 (lcsState s).toNat)) s

/-- The words of a key, as OTP words from an index. -/
def keyWords (base : Nat) (k : BitVec 256) : List (Nat × Word) := (List.range 8).map fun i => (base + i, k.extractLsb' (32 * i) 32)

/-- KEY_LOAD (R458): keys and check words are programmed in TEST. A package that the device does not accept changes
nothing. -/
def keyLoad (pkg : List Byte) (s : State) : State :=
  match Config.keyPackage pkg with
  | none => s
  | some (k1, k2) =>
    lcRead ((keyWords 32 k1 ++ keyWords 40 k2 ++ [(21, checkWord k1), (22, checkWord k2)]).foldl otpPut s)

/-- KEY_LOAD. -/
def execKeyLoad (pkg : List Byte) (s : State) : Host.Outcome State Fault Refusal := done (jtag 0x018 (keyLoad pkg)) s

/-- FRAME_READBACK (R470): FAR, payload and signature in the order of R370. What an address that names no frame returns is
free. -/
def frameReadback (far : Word) (s : State) : State :=
  let w := far &&& 0xBFFFFFFF
  if farValid w then
    s.passRead.emit (.tdo 4160 (leNat (readFrame s (w.toNat / 256) (wb far 30))))
  else s.takeFree.emit (.tdo 4160 (Config.freeBits s.free).toNat)

/-- FRAME_READBACK. -/
def execFrameReadback (far : Word) (s : State) : Host.Outcome State Fault Refusal := done (jtag 0x021 (frameReadback far)) s

/-- BYPASS (R470): also for a code that is not listed, and for a listed one that is not permitted. A listed code that is
permitted is its own command. -/
def bypass (code : Nat) (s : State) : State :=
  let c := code % 1024
  if c = 0x3FF || !jtagListed c then (loadIr c s).emit (.tdo 1 0)
  else if jtagPermits s c then s
  else jtagDenied c s

/-- BYPASS. -/
def execBypass (code : Nat) (s : State) : Host.Outcome State Fault Refusal := done (bypass code) s

/-! ## Registers (Table 16.9) -/

/-- The selected grant slot of an accessor. -/
def leashIx (s : State) (acc : Accessor) : Nat := wf (s.copy (acode acc) 0x100010 0) 2 0

/-- LCS.CHALLENGE of an accessor. -/
def challengeWord (s : State) (acc : Accessor) : Word :=
  match acc with
  | .dom o => match (if ocode o < 4 then nonceOf s (ocode o) else none) with
    | some n => wd (0x80000000 + n.scope * 0x1000000 + min 0xFFFF ((n.t + nonceLife - s.pwr.rtc + 32767) / 32768))
    | none => 0
  | .jtag => 0

/-- LCS.LEASH_INFO: a grant that the accessor neither requested nor may revoke reads 0 (R473). -/
def leashInfo (s : State) (acc : Accessor) : Word :=
  match SMap.get dNone s.lcs.grants (leashIx s acc) with
  | some g =>
    if adom acc == .mc || ocode (adom acc) == g.who || s.lead == some (ocode (adom acc)) then
      wd (0x80000000 + g.who * 0x10000000 + g.scope * 0x1000000 + g.dom * 0x100000 + g.seq)
    else 0
  | none => 0

/-- A read of an LCS register. -/
def lcsRead (acc : Accessor) (off : Nat) (s : State) : Word :=
  let a := acode acc
  match off with
  | 0x00 => lcsState s
  | 0x04 => s.copy a 0x100004 0
  | 0x08 => let i := wf (s.copy a 0x100004 0) 4 0; if i < 24 then s.otpWord i else 0
  | 0x0C => challengeWord s acc
  | 0x10 => s.copy a 0x100010 0
  | 0x14 => leashInfo s acc
  | 0x18 => match SMap.get dNone s.lcs.grants (leashIx s acc) with
    | some g => wd (g.until_ - rtcSec s)
    | none => 0
  | 0x1C => wd (s.lcs.denied * 0x10000 + s.lcs.ir)
  | 0x20 => s.copy a 0x100020 0
  | 0x24 => s.copy a 0x100024 0
  | _ => 0

/-- A write of an LCS register (R473). -/
def lcsWrite (acc : Accessor) (off : Nat) (v : Word) (s : State) : State :=
  let a := acode acc
  match off with
  | 0x04 => s.setCopy a 0x100004 0 (v &&& 0x1F)
  | 0x10 => s.setCopy a 0x100010 0 (v &&& 7)
  | 0x20 => s.clearCopy a 0x100020 0 v
  | 0x24 => s.setCopy a 0x100024 0 (v &&& 0xF)
  | _ => s

end Sys2Proof.Machine
end

