-- ==== Sys2Proof/Machine/Hmb.lean ====
section
/-! DEFINITION. The mailbox registers and windows (R356, R357, R379), the serial port's window (R123), the restart of the
MC's firmware (R355), and the commands IDENTIFY, GET_STATUS, GET_REPORT, SET_POLICY and GET_POLICY (R365, R371–R374). -/
namespace Sys2Proof.Machine
open Sys2Proof

/-! ## Registers (Tables 12.17–12.20) -/

/-- An accessor reaches a mailbox's registers: its domain, and the MC (R379). -/
def hmbMine (acc : Accessor) (d : Nat) : Bool := d < 5 && (adom acc == .mc || ocode (adom acc) == d)

/-- A doorbell or head write that is ignored (R357). -/
def dbError (s : State) (d : Nat) : State :=
  let m := s.mbxOf d
  s.setMbx d { m with dbErr := true, intSt := m.intSt ||| 2#32 }

/-- A write of CMD_TAIL (R357). -/
def doorbellAt (d : Nat) (v : Word) (s : State) : State :=
  let m := s.mbxOf d
  if 64 < ringFill (wf v 6 0) m.cmdHead then dbError s d
  else serveRest (s.setMbx d { m with cmdTail := wf v 6 0, dbErr := false })

/-- DOORBELL (R357). -/
def doorbell (acc : Accessor) (d : Nat) (v : Word) (s : State) : State := if hmbMine acc d then doorbellAt d v s else s

/-- DOORBELL. -/
def execDoorbell (acc : Accessor) (d : Nat) (v : Word) (s : State) : Host.Outcome State Fault Refusal :=
  done (doorbell acc d v) s

/-- A write of CPL_HEAD: it frees slots, and completions held back are posted (R357). -/
def cplHeadAt (d : Nat) (v : Word) (s : State) : State :=
  let m := s.mbxOf d
  if ringFill m.cplTail m.cplHead < ringFill m.cplTail (wf v 6 0) then dbError s d
  else serveRest (drainHeld 64 (s.setMbx d { m with cplHead := wf v 6 0, dbErr := false }) d)

/-- CPL_HEAD_WRITE (R357). -/
def cplHeadWrite (acc : Accessor) (d : Nat) (v : Word) (s : State) : State := if hmbMine acc d then cplHeadAt d v s else s

/-- CPL_HEAD_WRITE. -/
def execCplHeadWrite (acc : Accessor) (d : Nat) (v : Word) (s : State) : Host.Outcome State Fault Refusal :=
  done (cplHeadWrite acc d v) s

/-- A write of CTRL (Table 12.18): a ring reset needs that no command of the domain runs. -/
def hmbCtrl (d : Nat) (v : Word) (s : State) : State :=
  let m := s.mbxOf d
  if wb v 31 then
    if runCount s d = 0 then
      drainHeld 64 (s.setMbx d { m with cmdTail := 0, cmdHead := 0, cplTail := 0, cplHead := 0, intCpl := wb v 0 }) d
    else dbError s d
  else s.setMbx d { m with intCpl := wb v 0 }

/-- RING_RESET (R379). -/
def ringReset (acc : Accessor) (d : Nat) (v : Word) (s : State) : State := if hmbMine acc d then hmbCtrl d v s else s

/-- RING_RESET. -/
def execRingReset (acc : Accessor) (d : Nat) (v : Word) (s : State) : Host.Outcome State Fault Refusal :=
  done (ringReset acc d v) s

/-- HMB.STATUS. -/
def hmbStatus (s : State) (d : Nat) : Word :=
  let m := s.mbxOf d
  wd (b2n (mcServes s d) * 0x80000000 + b2n m.dbErr * 0x40000000 + min 16 (runCount s d) * 0x10000 + scode m.last)

/-- Register `r` of mailbox d (Table 12.17). -/
def hmbReg (s : State) (d r : Nat) : Word :=
  let m := s.mbxOf d
  match r with
  | 0x00 => wd m.cmdTail
  | 0x04 => wd m.cmdHead
  | 0x08 => wd m.cplTail
  | 0x0C => wd m.cplHead
  | 0x10 => wd (b2n m.intCpl)
  | 0x14 => hmbStatus s d
  | 0x18 => m.intSt
  | 0x1C => m.intEn
  | _ => 0

/-- A write of register `r` of mailbox d. -/
def hmbPut (d r : Nat) (v : Word) (s : State) : State :=
  let m := s.mbxOf d
  match r with
  | 0x00 => doorbellAt d v s
  | 0x0C => cplHeadAt d v s
  | 0x10 => hmbCtrl d v s
  | 0x18 => s.setMbx d { m with intSt := m.intSt &&& ~~~ v }
  | 0x1C => s.setMbx d { m with intEn := v &&& 7 }
  | _ => s

/-- A read of an HMB register in CSR space. -/
def hmbRead (acc : Accessor) (off : Nat) (s : State) : Word :=
  if hmbMine acc (off / 0x20) then hmbReg s (off / 0x20) (off % 0x20) else 0

/-- A write of an HMB register in CSR space. -/
def hmbWrite (acc : Accessor) (off : Nat) (v : Word) (s : State) : State :=
  if hmbMine acc (off / 0x20) then hmbPut (off / 0x20) (off % 0x20) v s else s

/-! ## The mailbox window (R356, Table 12.1) -/

/-- An offset in the HMB register area. -/
def hmbArea (off : Nat) : Bool := 0x1800 ≤ off && off < 0x1820

/-- One byte of the memory areas of a window. -/
def mbxByte (s : State) (d off : Nat) : Byte :=
  if 0x1800 ≤ off && off < 0x2000 then 0 else Memory.read 0 s.mc.ram (mbxBase d + off)

/-- Bytes of a window's memory; the reserved area reads 0. -/
def mbxBytes (s : State) (d off : Nat) : Nat → List Byte
  | 0 => []
  | n + 1 => mbxByte s d off :: mbxBytes s d (off + 1) n

/-- Whether the domain writes a byte: the command ring and the buffer. -/
def mbxWritable (off : Nat) : Bool := off < 0x1000 || (0x2000 ≤ off && off < 0x10000)

/-- Writes bytes of a window's memory; the completion ring and the reserved area ignore them. -/
def mbxStore (d : Nat) : Nat → List Byte → State → State
  | _, [], s => s
  | off, b :: bs, s =>
    mbxStore d (off + 1) bs
      (if mbxWritable off then { s with mc := { s.mc with ram := Memory.write 0 s.mc.ram (mbxBase d + off) b } } else s)

/-- A word of a window as its domain reads it. -/
def mbxWord (s : State) (d off : Nat) : Word :=
  if hmbArea off then hmbReg s d (off - 0x1800) else wd (leNat (mbxBytes s d off 4))

/-- A word written into a window by its domain. NVC acts on the index words of the HS mailbox as on registers (R389). -/
def mbxPut (d off : Nat) (v : Word) (s : State) : State :=
  if hmbArea off then hmbPut d (off - 0x1800) v s
  else
    let s1 := mbxStore d off (leBytes 4 v.toNat) s
    if d = 4 then hsIndex off v s1 else s1

/-- Words written one at a time in ascending order. -/
def mbxPutWords (d : Nat) : Nat → List Word → State → State
  | _, [], s => s
  | off, w :: ws, s => mbxPutWords d (off + 4) ws (if off < 0x10000 then mbxPut d off w s else s)

/-- WIN_WRITE (R123, R356): the HS window; higher addresses ignore writes. It works from the end of boot step 2 on. -/
def winWrite (addr : Nat) (ws : List Word) (s : State) : State :=
  if s.boot.mcUp then mbxPutWords 4 (addr / 4 * 4) ws s else s

/-- WIN_WRITE. -/
def execWinWrite (addr : Nat) (ws : List Word) (s : State) : Host.Outcome State Fault Refusal := done (winWrite addr ws) s

/-- WIN_READ (R123, R356): higher addresses read 0. -/
def winRead (addr n : Nat) (s : State) : State :=
  if s.boot.mcUp then
    s.emit (.words ((List.range n).map fun i =>
      let off := addr / 4 * 4 + 4 * i
      if off < 0x10000 then mbxWord s 4 off else 0))
  else s

/-- WIN_READ. -/
def execWinRead (addr n : Nat) (s : State) : Host.Outcome State Fault Refusal := done (winRead addr n) s

/-! ## MC restart (R355) -/

/-- Every command that was running completes with INTERNAL_ERROR (DEDUCED, log entry 47). -/
def abortRunning (s : State) : State :=
  s.mc.running.foldl (fun u c =>
    postCpl { u with mc := { u.mc with running := u.mc.running.erase c } }
      { d := c.d, tag := c.tag, op := c.op, noIrq := c.noIrq, status := .internalError, block := 0, handle := 0, res := [] }) s

/-- What stood behind those commands goes on without them. -/
def forgetCmds (s : State) : State :=
  { s with
    cfg := { s.cfg with
      loads := s.cfg.loads.map fun (e : Nat × Load) => (e.1, { e.2 with cmd := none })
      targets := SMap.normal dTarget (s.cfg.targets.map fun (e : Nat × Target) => (e.1, { e.2 with prep := none, comm := none })) }
    pwr := { s.pwr with
      bands := s.pwr.bands.map fun (e : Nat × BandP) =>
        (e.1, { e.2 with cmd := none, entry := e.2.entry.map fun x => { x with cmd := none } })
      dev := s.pwr.dev.map fun x => { x with cmd := none } }
    nv := { s.nv with scans := [], stores := [] }
    bst := { s.bst with
      waiting := []
      slices := s.bst.slices.map fun (e : Nat × Option Slice) => (e.1, e.2.map fun x => { x with cmd := none }) }
    uan := { s.uan with rings := s.uan.rings.map fun (e : Nat × Ring) => (e.1, { e.2 with cmdRef := none }) }
    tbs := { s.tbs with setPend := none, setCmd := none }
    noc := { s.noc with routeCmd := none }
    lcs := { s.lcs with run := s.lcs.run.map fun x => { x with cmd := none } } }

/-- The reports are lost, and each event report starts with the restart entry. -/
def dropReports (s : State) : State :=
  ({ s with mc := { s.mc with events := [], clamps := [] } }).post allDomains 0 .internalError 1 0 0

/-- The exits from OFF in progress fail (R423). -/
def failExits (s : State) : State :=
  (List.range 16).foldl (fun u b =>
    if (u.bandOf b).state == .off && (u.bandOf b).waking then holdBand u b .internalError else u) s

/-- MC_RESTART (R355): a second mismatch within 1 s of a restart halts the MC (DEDUCED, log entry 47). -/
def mcRestart (s : State) : State :=
  if !s.boot.mcUp || s.mc.halted then s
  else
    let again := s.mc.lastRst != 0 && s.uptime + 1 < s.mc.lastRst + 1000000000
    let s1 := forgetCmds (failExits (abortRunning s))
    if again then { s1 with mc := { s1.mc with halted := true, restart := false } }
    else
      dropReports { s1 with mc := { s1.mc with
        restart := true, restarts := sat 0xFFFFFFFF s1.mc.restarts, lastRst := s.uptime + 1, avsHigh := 0, idleTry := [] } }

/-- MC_RESTART. -/
def execMcRestart (s : State) : Host.Outcome State Fault Refusal := done mcRestart s

/-- MC_RESTART_DONE (R355, R476): command service resumes, and writes that waited for the MC take effect. -/
def mcRestartDone (s : State) : State :=
  if !s.mc.restart then s
  else
    let s1 := s.clk.pend.foldl applyPll { s with mc := { s.mc with restart := false } }
    serveRest { s1 with clk := { s1.clk with pend := [] } }

/-- MC_RESTART_DONE. -/
def execMcRestartDone (s : State) : Host.Outcome State Fault Refusal := done mcRestartDone s

/-! ## IDENTIFY and GET_STATUS -/

/-- IDENTIFY (Table 12.4). -/
def identify (d : Nat) (s : State) : State :=
  serve d 0x0001 .any (fun c s =>
    finish c .ok 0 [] [0x14096B3D, 0x00010000, wd s.lcs.state, wd (s.leadCode * 16 + c.d), Config.serial.extractLsb' 0 32,
                       Config.serial.extractLsb' 32 32] s) s

/-- IDENTIFY. -/
def execIdentify (d : Nat) (s : State) : Host.Outcome State Fault Refusal := done (identify d) s

/-- The device state that GET_STATUS reports. -/
def phaseCode : Phase → Nat
  | .waitImage => 1 | .startupHeld => 2 | .running => 3 | .unconfigured => 4 | .denied => 5 | _ => 0

/-- CFG.STARTUP_STATE (Table 4.11). -/
def startupWord (s : State) : Word :=
  let b := s.boot
  wd (b2n b.suActive * 0x80000000 + b2n b.suDone * 0x40000000 + b.suPhase * 0x100000 + b.suComp * 256 + b.suWait)

/-- The flags of GET_STATUS Res1. -/
def statusFlags (s : State) : Nat :=
  [s.scr.halted, s.scr.bands.any (fun e => e.2.detect), s.tbs.state == .holdover, s.tbs.est, !s.tbs.ref, s.mc.thAlert,
   s.mc.thCrit, s.mc.supAlarm != 0, s.mc.avsStop, s.pol 7 = 0, s.mc.refOver, !s.rfx.within,
   s.mc.restarts != 0].foldr (fun b n => 2 * n + b2n b) 0

/-- The bits of the numbers below n that have a property. -/
def maskOf (n : Nat) (p : Nat → Bool) : Nat := (List.range n).foldl (fun m i => if p i then m + 2 ^ i else m) 0

/-- GET_STATUS (Table 12.11). `corrected` are the SRAM errors that the MC has corrected since the last one: their count is their only
effect (R354). -/
def getStatus (d corrected : Nat) (s0 : State) : State :=
  let s := { s0 with mc := { s0.mc with sramCorr := min 0xFFF (s0.mc.sramCorr + corrected) } }
  serve d 0x0002 .any (fun c s =>
    finish c .ok 0 []
      [wd (phaseCode s.boot.phase * 0x10000000 + s.lcs.state * 0x1000000 + scode s.boot.first * 0x10000 +
         scode s.boot.second * 0x100 + scode (s.loadOf mgmt).status),
       wd (statusFlags s),
       wd (maskOf 16 (fun b => (s.bandOf b).state != .on) * 0x10000 + maskOf 16 (bankHeld s)),
       wd (min 0xFFF s.mc.sramCorr * 0x100000 + (hottest s).1 * 0x10000 + (hottest s).2 % 4096),
       wd (SMap.get dReport s.mc.events c.d).es.length,
       startupWord s] s) s

/-- GET_STATUS. -/
def execGetStatus (d corrected : Nat) (s : State) : Host.Outcome State Fault Refusal := done (getStatus d corrected) s

/-! ## GET_REPORT (R371–R373) -/

/-- A clamp report entry (Table 3.13). -/
def clampWords (c : Clamp) : List Word := [wd (c.src * 0x1000000 + c.fid), c.req, c.app, wd c.pos]

/-- An event or policy entry (Table 12.13). -/
def entryWords (e : REntry) : List Word :=
  [wd (e.block * 0x1000000 + scode e.status * 0x10000 + e.kind * 256 + e.detail), e.object, wd e.t, wd (e.t / 0x100000000)]

/-- What a report request finds: the entries from the first one asked for, the entries the report holds, the
entries lost, the sequence number of the first. -/
structure Found where
  es   : List (List Word)
  held : Nat
  lost : Nat
  seq0 : Nat

/-- One entry of the configuration report; `cmd` says that a command set it. -/
def cfgEntry (cmd : Bool) (addr index : Nat) (v : Word) : List Word :=
  [wd ((if cmd then 0 else 0x3000000) + addr), wd index, v, 0]

/-- The TEN_ENTRY of a resource (Table 3.11). -/
def tenWord (s : State) (res : Nat) : Word :=
  let ti := if res < 136 then (0, res) else if res < 200 then (1, res - 136) else if res < 264 then (2, res - 200)
            else if res < 280 then (3, res - 264) else (4, res - 280)
  wd (ti.1 * 0x10000000 + ti.2 * 256 + ocode (s.owner res))

/-- The applied value of a configuration register, and whether a command set it. -/
def cfgApplied (s : State) (addr : Nat) : Bool × Word :=
  let pol (ids : List Nat) (v : Nat) : Bool × Word := (ids.any s.mc.polSet.contains, wd v)
  match addr with
  | 0x0010 => (s.mc.byCmd.contains 0x1010, wd (s.tbs.macPort * 16 + s.tbs.source))
  | 0x0050 => pol [1] (s.pol 1)
  | 0x0051 => pol [2] (s.pol 2)
  | 0x0052 => (s.mc.byCmd.contains 0x1052, wd ((List.range 4).foldl (fun n p => n + (s.pciOf p).policy * 4 ^ p) 0))
  | 0x0053 => pol [5, 6, 7] (s.pol 5 + 2 * s.pol 6 + 4 * s.pol 7)
  | 0x0054 => pol [3] (s.pol 3)
  | 0x0055 => pol [8] (s.pol 8)
  | 0x0056 => pol [9] (s.pol 9)
  | a => (false, s.cfgReg a)

/-- The configuration report (R373), by register address. -/
def cfgReport (s : State) : List (List Word) :=
  let one (a : Nat) : List Word := let x := cfgApplied s a; cfgEntry x.1 a (if 0x20 ≤ a && a < 0x30 then a - 0x20 else 0) x.2
  ([0x0000, 0x0001, 0x0002, 0x0008, 0x0009, 0x000A, 0x000B, 0x000C, 0x000D].map one) ++
  ((List.range 16).map fun b => cfgEntry false 0x000E b (wd (b * 0x1000000) ||| s.cfgReg (0x10000 + b))) ++
  [one 0x0010] ++ ((List.range 16).map fun k => one (0x20 + k)) ++
  ((List.range 312).map fun r => cfgEntry (s.mc.byCmd.contains r) 0x0030 r (tenWord s r)) ++
  ((List.range 136).map fun r => cfgEntry false 0x0031 r (attrWord r (s.regionOf r))) ++
  ((List.range 16).map fun b => one (0x40 + b)) ++ ((List.range 7).map fun i => one (0x50 + i))

/-- The clamp report of a handle that is still held for some reader. -/
def clampReport (s : State) (h : Nat) : Option (ClampRep × List ClampRep) :=
  let rest := s.mc.clamps.dropWhile fun r => r.handle != h
  match rest with
  | r :: later => some (r, later)
  | [] => none

/-- The report of a handle (Table 12.12), or the status that refuses it. -/
def findReport (s : State) (d h from_ : Nat) : Status ⊕ Found :=
  if h = 0x8001 then
    let r := SMap.get dReport s.mc.events d
    .inr { es := r.es.map entryWords, held := r.es.length, lost := r.lost, seq0 := r.seq0 }
  else if h = 0x8002 then
    let r := s.mc.policy
    let k := min (from_ - r.seq0) r.es.length
    .inr { es := (r.es.drop k).map entryWords, held := r.es.length, lost := r.lost, seq0 := r.seq0 + k }
  else if h = 0x8003 then .inr { es := cfgReport s, held := (cfgReport s).length, lost := 0, seq0 := 0 }
  else match clampReport s h with
    | none => .inl .badParameter
    | some (r, later) =>
      if !r.readers.contains d then .inl .notOwner
      else if !repHeld later d then .inl .badParameter
      else .inr { es := r.es.map clampWords, held := r.es.length, lost := r.lost, seq0 := 0 }

/-- The entries of a report that a domain's own event report loses by a read. -/
def takeEvents (s : State) (d n : Nat) : State :=
  let r := SMap.get dReport s.mc.events d
  { s with mc := { s.mc with events := SMap.set dReport s.mc.events d { r with es := r.es.drop n, seq0 := r.seq0 + n } } }

/-- GET_REPORT (R371). -/
def getReport (d : Nat) (s : State) : State :=
  serve d 0x0003 .any (fun c s =>
    let h := bf (pw c 0) 15 0
    let n := bf (pw c 2) 15 0
    match findReport s c.d h (pw c 3) with
    | .inl st => finish c st 0 [] [] s
    | .inr f =>
      if n < 32 || 57344 < n || !bufOk (pw c 1) n then finish c .badParameter 0 [] [] s
      else
        let es := f.es.take ((n - 16) / 16)
        let bytes := wordBytes ([wd h, wd f.held, wd f.lost, wd f.seq0] ++ es.flatten)
        let s1 := writeBuf s c (pw c 1) bytes
        let s2 := if h = 0x8001 then takeEvents s1 c.d es.length else s1
        finish c .ok 0 [] [wd es.length, wd (f.es.length - es.length), wd f.lost] s2) s

/-- GET_REPORT. -/
def execGetReport (d : Nat) (s : State) : Host.Outcome State Fault Refusal := done (getReport d) s

/-! ## Policy (R374) -/

/-- The parameters of Table 12.14. -/
def polKnown (id : Nat) : Bool := (1 ≤ id && id ≤ 0x0C) || (0x10 ≤ id && id ≤ 0x1F)

/-- The value applied for a request; none gives BAD_PARAMETER. `alert` is THERMAL_ALERT as it will stand. -/
def polValue (alert id v : Nat) : Option Nat :=
  match id with
  | 0x01 => some (nearest 5 10000 v)
  | 0x02 => some (nearest 1 10000 v)
  | 0x03 => some (nearest 1408 3648 v)
  | 0x04 => some (max (nearest 1424 3728 v) (alert + 16))
  | 0x05 => some (min v 1)
  | 0x06 => some (min v 1)
  | 0x07 => some (min v 1)
  | 0x08 => some (nearest 5 500 v)
  | 0x09 => some (nearest 1 255 v)
  | 0x0A => some (v % 65536)
  | 0x0B => some (nearest 10 60000 v)
  | 0x0C => some (nearest 1 30 v)
  | _ =>
    if !polKnown id || id = 0x10 || id = 0x1E || bf v 27 16 < bf v 11 0 then none
    else some (bf v 31 31 * 0x80000000 + bf v 27 16 * 0x10000 + bf v 11 0)

/-- Reserved bits of a value, which are no clamp (R361 step 6). -/
def polField (id v : Nat) : Nat :=
  if id = 0x0A then v % 65536
  else if 0x10 ≤ id then bf v 31 31 * 0x80000000 + bf v 27 16 * 0x10000 + bf v 11 0 else v

/-- The pairs of a SET_POLICY, checked in order: the values applied and the clamps. -/
def polPairs (c : RunCmd) (alert0 : Nat) : (k : Nat) → (n : Nat) → Option (List (Nat × Nat) × List Clamp)
  | _, 0 => some ([], [])
  | k, n + 1 =>
    let id := bf (pw c (2 * k - 1)) 7 0
    let v := pw c (2 * k)
    match polValue alert0 id v with
    | none => none
    | some a =>
      let here := if a = polField id v then [] else [cmdClamp (2 * k) 0 v a]
      match polPairs c (if id = 3 then a else alert0) (k + 1) n with
      | none => none
      | some r => some ((id, a) :: r.1, here ++ r.2)

/-- A parameter takes a value, with what follows at once: the monitor window, the scrub period to come, the voltage loop's
release (R376). -/
def setPol (s : State) (x : Nat × Nat) : State :=
  let id := x.1
  let v := x.2
  let s1 := { s with mc := { s.mc with
    pol := SMap.set dWord s.mc.pol id (wd v), polSet := if s.mc.polSet.contains id then s.mc.polSet else s.mc.polSet ++ [id] } }
  let s2 := s1.policy .ok 0 id v
  if id = 1 then { s2 with scr := { s2.scr with newCfg := some v } }
  else if id = 5 && v = 1 then { s2 with mc := { s2.mc with avsStop := false } }
  else if 0x10 ≤ id then
    let ch := s2.chanOf (id - 0x10)
    s2.setChan (id - 0x10) { ch with
      cfg := (ch.cfg &&& 0xBFFFFFFF) ||| wd (bf v 31 31 * 0x40000000), hi := bf v 27 16, lo := bf v 11 0 }
  else s2

/-- SET_POLICY (R374). -/
def setPolicy (d : Nat) (s : State) : State :=
  serve d 0x0004 .lead (fun c s =>
    let n := bf (pw c 0) 2 0
    if n = 0 || 6 < n then finish c .badParameter 0 [] [] s
    else match polPairs c (s.pol 3) 1 n with
      | none => finish c .badParameter 0 [] [] s
      | some r => finish c .ok 0 r.2 [wd n] (r.1.foldl setPol s)) s

/-- SET_POLICY. -/
def execSetPolicy (d : Nat) (s : State) : Host.Outcome State Fault Refusal := done (setPolicy d) s

/-- GET_POLICY (Table 12.4). -/
def getPolicy (d : Nat) (s : State) : State :=
  serve d 0x0005 .any (fun c s =>
    let id := bf (pw c 0) 7 0
    if !polKnown id then finish c .badParameter 0 [] [] s
    else
      let now := if id = 1 then s.scr.active else if id = 5 then s.mc.vccint else 0
      finish c .ok 0 [] [wd (s.pol id), wd now, wd (s.polDefault id)] s) s

/-- GET_POLICY. -/
def execGetPolicy (d : Nat) (s : State) : Host.Outcome State Fault Refusal := done (getPolicy d) s

/-! ## Policy loops 1 and 5 (R375, R376) -/

/-- Loop 1 commands a voltage. -/
def avsCommand (s : State) (rail mv : Nat) : State := (voutCommand s rail mv).policy .ok 1 rail mv

/-- The least of a list of margins. -/
def leastMargin : List Int → Option Int
  | [] => none
  | m :: ms => some (ms.foldl (fun a b => if b < a then b else a) m)

/-- AVS_PERIOD (loop 1): `margins` are those of the bands in ON. -/
def avsPeriod (margins : List Int) (s0 : State) : State :=
  let s := { s0 with mc := { s0.mc with avsAt := s0.uptime } }
  if !mcRuns s || !s.boot.done || s.mc.avsStop || s0.uptime < s0.mc.avsAt + 10000000 then s0
  else match vccintRail s with
  | none => s
  | some r =>
    if s.pol 5 = 0 then
      (if s.mc.vccint = 750 || (s.railOf r).cmdAt.isSome then s else avsCommand { s with mc := { s.mc with avsHigh := 0 } } r 750)
    else match leastMargin margins with
      | none => s
      | some m =>
        let high := if 80 < m then s.mc.avsHigh + 1 else 0
        let s1 := { s with mc := { s.mc with margin := m, avsHigh := if 10 ≤ high then 0 else high } }
        if m < 40 && s.mc.vccint < 850 then avsCommand s1 r (min 850 (s.mc.vccint + 10))
        else if 10 ≤ high && 700 < s.mc.vccint then avsCommand s1 r (max 700 (s.mc.vccint - 5))
        else s1

/-- AVS_PERIOD. -/
def execAvsPeriod (margins : List Int) (s : State) : Host.Outcome State Fault Refusal := done (avsPeriod margins) s

/-- MARGIN_REPORT (R376): once an hour while the margin is short at the highest voltage. -/
def marginReport (s : State) : State :=
  if !(s.mc.margin < 40 && s.mc.vccint = 850) then { s with mc := { s.mc with marginAt := none } }
  else if mcRuns s && (s.mc.marginAt.map fun t => decide (t + 3600000000000 ≤ s.uptime)).getD true then
    let r := (vccintRail s).getD 0
    ({ s with mc := { s.mc with marginAt := some s.uptime } }.policy .testFail 1 r 850).post allDomains 0 .testFail 1 r 850
  else s

/-- MARGIN_REPORT. -/
def execMarginReport (s : State) : Host.Outcome State Fault Refusal := done marginReport s

/-- A band has had no packet and no ICP load for IDLE_BAND_DELAY. -/
def bandIdle (s : State) (b : Nat) : Bool := SMap.get dNat s.noc.busyAt b + 1000000 * s.pol 0x0B ≤ s.uptime

/-- Loop 5 on one band: after a refusal it waits; then NAP is requested of a band that has been idle. -/
def idleOne (s : State) (b : Nat) : State :=
  if (SMap.get (fun _ => (0, 0)) s.mc.idleTry b).2 ≤ s.uptime && bandIdle s b && (s.pol 0x0A).testBit b && (s.bandOf b).state == .on &&
      !inTransition (s.bandOf b) && s.pwr.dev.isNone then
    (beginEntry s b 2 none).policy .ok 5 b 2
  else s

/-- IDLE_BAND_CHECK (loop 5), each 1 ms. -/
def idleBandCheck (s : State) : State :=
  if mcRuns s && s.boot.done && s.pol 6 = 1 && s.mc.idleAt + 1000000 ≤ s.uptime then
    (List.range 16).foldl idleOne { s with mc := { s.mc with idleAt := s.uptime } }
  else s

/-- IDLE_BAND_CHECK. -/
def execIdleBandCheck (s : State) : Host.Outcome State Fault Refusal := done idleBandCheck s

end Sys2Proof.Machine
end

