-- ==== Sys2Proof/Machine/CfgCsr.lean ====
section
/-! DEFINITION. The registers of the CFG block (Tables 3.15, 4.9, 5.8) with the filters of R176. -/
namespace Sys2Proof.Machine
open Sys2Proof

/-- The code of a region state (Table 5.3). -/
def rstateCode : RState → Nat
  | .empty => 0 | .loading => 1 | .incomplete => 2 | .prepared => 3 | .switching => 4 | .switchPending => 5 | .isolated => 6

/-- The code of a target state (Table 5.6). -/
def tstateCode : TState → Nat
  | .idle => 0 | .verifying => 1 | .ready => 2 | .armed => 3 | .switching => 4 | .deviceLoaded => 5

/-- CFG.STREAM_STATUS (Table 3.16). -/
def streamStatus (s : State) : Word :=
  let l := s.loadOf mgmt
  wd (b2n (l.phase != .idle) * 0x80000000 + b2n l.done * 0x40000000 + l.source * 0x8000000 + scode l.rep.status * 0x10000 + l.rep.errChunk)

/-- CFG.BOOT_STATUS (Table 4.10). -/
def bootStatus (s : State) : Word :=
  let b := s.boot
  wd (b.cfgMode * 0x40000000 + b2n b.selA * 0x20000000 + b2n b.selB * 0x10000000 + b.selSlot * 0x8000000 +
    b.bootSlot.getD 0 * 0x4000000 + b2n b.fallback * 0x2000000 + b2n b.imageOk * 0x1000000 + scode b.first * 0x10000 +
    scode b.second * 0x100)

/-- CFG.CFGREG_DATA: the applied value of a register; TEN_ENTRY, REGION_ATTR and RCLK_EN read 0. -/
def cfgregData (s : State) (addr : Nat) : Word :=
  if addr = 0x0E || addr = 0x30 || addr = 0x31 then 0 else (cfgApplied s addr).2

/-- CFG.REGION_STATE (Table 5.9). -/
def regionState (s : State) (r : Nat) : Word :=
  let g := s.regionOf r
  wd (rstateCode g.state * 0x10000000 + ocode (s.owner r) * 0x2000000 + b2n (g.isolated || g.safeDec) * 0x1000000 +
    g.group * 0x100000 + b2n g.groupEn * 0x80000 + g.clock * 0x1000 + b2n (!(s.rects r).isEmpty) * 0x800 +
    b2n (isLocked s r) * 0x400 + ((s.rects r).length - 1) * 0x100 + scode g.last)

/-- CFG.SWAP_STATE (Table 5.10). -/
def swapState (s : State) (t : Nat) : Word :=
  let g := s.targetOf t
  wd (tstateCode g.state * 0x10000000 + b2n g.init * 0x8000000 + b2n (t == 15 && g.unswap) * 0x4000000 +
    scode g.status * 0x10000 + g.member * 0x100 + g.cause)

/-- CFG.ICP_STATUS (Table 5.11). -/
def icpStatus (s : State) (i : Nat) : Word :=
  let l := s.loadOf i
  wd (b2n (l.phase != .idle && l.phase != .drain) * 0x80000000 + b2n l.direct * 0x40000000 + b2n (l.phase == .drain) * 0x20000000 +
    scode l.rep.status * 0x10000 + l.region * 0x100)

/-- The target that an index selects. -/
def idxTarget (w : Word) : Nat := if wb w 8 then 256 + wf w 7 0 else wf w 7 0

/-- Whether an index names a target. -/
def targetNamed (t : Nat) : Bool := t < 16 || (256 ≤ t && t ≤ 391)

/-- A target's window is open to an accessor (R176). -/
def seesTarget (acc : Accessor) (s : State) (t : Nat) : Bool :=
  let o := adom acc
  targetNamed t && (o == .mc ||
    (if t = 15 then ocode o < 4 && ownsAny s.ten o
     else !(members s t).isEmpty && (members s t).all fun r => s.owner r == o))

/-- A region's window is open to an accessor. -/
def seesRegion (acc : Accessor) (s : State) (r : Nat) : Bool :=
  r ≤ 135 && (adom acc == .mc || s.owner r == adom acc)

/-- An ICP's registers are open to an accessor (R176): to the MC and, once it has had a load, to the host that owns the region of its
current or last one; never to FAB. -/
def seesIcp (acc : Accessor) (s : State) (i : Nat) : Bool :=
  adom acc == .mc || (adom acc != .fab && (s.loadOf i).used && s.owner (s.loadOf i).region == adom acc)

/-- A read of a CFG register. -/
def cfgRead (acc : Accessor) (off : Nat) (s : State) : Word :=
  let a := acode acc
  let l := s.loadOf mgmt
  let r := wf (s.copy a 0x20028 0) 7 0
  let t := idxTarget (s.copy a 0x20038 0)
  let i := wf (s.copy a 0x20050 0) 3 0
  let region (w : Word) : Word := if seesRegion acc s r then w else 0
  let target (w : Word) : Word := if seesTarget acc s t then w else 0
  let icp (w : Word) : Word := if seesIcp acc s i then w else 0
  match off with
  | 0x00 => streamStatus s
  | 0x04 => wd l.rep.errFar
  | 0x08 => wd l.rep.errPos
  | 0x0C => wd l.written
  | 0x10 => s.copy a 0x20010 0
  | 0x14 => cfgregData s (s.copy a 0x20010 0).toNat
  | 0x18 => wd (s.cfg.clampN * 0x10000 + s.cfg.clampH)
  | 0x1C => bootStatus s
  | 0x20 => startupWord s
  | 0x24 => wd s.boot.bootTime
  | 0x28 => s.copy a 0x20028 0
  | 0x2C => region (regionState s r)
  | 0x30 => region (nth (s.rects r) (wf (s.copy a 0x20028 0) 9 8))
  | 0x34 => region (wd (s.regionOf r).shadow.length)
  | 0x38 => s.copy a 0x20038 0
  | 0x3C => target (swapState s t)
  | 0x40 => target (wd (s.targetOf t).tPrime)
  | 0x44 => target (wd ((s.targetOf t).tPrime / 0x100000000))
  | 0x48 => target (wd (s.targetOf t).tEnd)
  | 0x4C => target (wd ((s.targetOf t).tEnd / 0x100000000))
  | 0x50 => s.copy a 0x20050 0
  | 0x54 => icp (icpStatus s i)
  | 0x58 => icp (wd (s.loadOf i).written)
  | 0x5C => s.copy a 0x2005C 0
  | 0x60 => s.copy a 0x20060 0
  | 0x64 => icp (wd (s.loadOf i).rep.errFar)
  | 0x68 => icp (wd (s.loadOf i).rep.errPos)
  | _ => 0

/-- A write of a CFG register. -/
def cfgWrite (acc : Accessor) (off : Nat) (v : Word) (s : State) : State :=
  let a := acode acc
  match off with
  | 0x10 => s.setCopy a 0x20010 0 (v &&& 0xFFFF)
  | 0x28 => s.setCopy a 0x20028 0 (v &&& 0x3FF)
  | 0x38 => s.setCopy a 0x20038 0 (v &&& 0x1FF)
  | 0x50 => s.setCopy a 0x20050 0 (v &&& 0xF)
  | 0x5C => s.clearCopy a 0x2005C 0 v
  | 0x60 => s.setCopy a 0x20060 0 (v &&& 0x1F)
  | _ => s

end Sys2Proof.Machine
end

