-- ==== Sys2Proof/Machine/Csr.lean ====
section
/-! DEFINITION. The CSR space: GLB, the routing of an access to its block, and the paths to it (R338, R474–R479). -/
namespace Sys2Proof.Machine
open Sys2Proof

/-! ## GLB (Tables 17.3, 17.4) -/

/-- A read of a GLB register. -/
def glbRead (acc : Accessor) (off : Nat) (s : State) : Word :=
  match off with
  | 0x00 => 0x14096B3D
  | 0x04 => 0x00010000
  | 0x08 => Config.serial.extractLsb' 0 32
  | 0x0C => Config.serial.extractLsb' 32 32
  | 0x10 => wd (s.leadCode * 16 + ocode (adom acc))
  | 0x14 => wd (b2n s.boot.done * 0x80000000 + b2n s.boot.cfgErr * 0x40000000 + s.boot.cfgMode * 0x10000000 +
      s.lcs.state * 0x1000000 + phaseCode s.boot.phase * 0x10000)
  | 0x18 => wd (s.boot.cause * 0x10000000 + if s.boot.cause = 3 then scode s.pwr.wakeS else 0)
  | 0x1C => wd s.mc.warmCnt
  | 0x20 => wd s.mc.restarts
  | 0x24 => wd (s.summary acc)
  | 0x28 => s.copy (acode acc) 0x28 0
  | _ => 0

/-- A write of a GLB register. -/
def glbWrite (acc : Accessor) (off : Nat) (v : Word) (s : State) : State :=
  if off = 0x28 then s.setCopy (acode acc) 0x28 0 v else s

/-! ## Routing (R474, R475) -/

/-- The path of HS reaches its own HMB set alone (Table 17.2). -/
def csrReaches (acc : Accessor) (page : Nat) : Bool := acc != .dom .hs || page == 1

/-- A write that a host could make somewhere, which is all that JTAG may make (R466): not of the HS mailbox, of a queue that
no host owns, or of a kennel bank that is no host's (DESIGN CHOICE, log entry 13). -/
def jtagMay (s : State) (addr : Nat) : Bool :=
  let off := addr % 0x10000
  match addr / 0x10000 with
  | 0x1 => off / 0x20 < 4
  | 0x4 => !(0x0C ≤ off && off ≤ 0x30) || (let q := wf (s.copy 8 0x40004 0) 2 0; 1 ≤ q && q ≤ 4)
  | 0xD => off != 0x14 || (match bankOwner (wf (s.copy 8 0xD0010 0) 20 16) with | some o => ocode o < 4 | none => false)
  | _ => true

/-- A read at a CSR address: the word, and the state after the effects of the read. -/
def csrRead (acc : Accessor) (addr : Nat) (s : State) : Word × State :=
  let off := addr % 0x10000
  if addr % 4 != 0 || !csrReaches acc (addr / 0x10000) then (0, s)
  else match addr / 0x10000 with
    | 0x00 => (glbRead acc off s, s)
    | 0x01 => (hmbRead acc off s, s)
    | 0x02 => (cfgRead acc off s, s)
    | 0x03 => (scrRead acc off s, s)
    | 0x04 => (nvcRead acc off s, s)
    | 0x05 => (nocRead acc off s, s)
    | 0x06 => (rfxRead acc off s, s)
    | 0x07 => fpeRead acc off s
    | 0x08 => (uanRead acc off s, s)
    | 0x09 => (xcvRead acc off s, s)
    | 0x0A => (pciRead acc off s, s)
    | 0x0B => (ethRead acc off s, s)
    | 0x0C => (pwrRead acc off s, s)
    | 0x0D => aonRead acc off s
    | 0x0E => (pmbRead acc off s, s)
    | 0x0F => (bstRead acc off s, s)
    | 0x10 => (lcsRead acc off s, s)
    | 0x11 => (smnRead acc off s, s)
    | 0x12 => (clkRead acc off s, s)
    | 0x13 => tbsRead acc off s
    | _ => (0, s)

/-- A write at a CSR address. -/
def csrWrite (acc : Accessor) (addr : Nat) (v : Word) (s : State) : State :=
  let off := addr % 0x10000
  if addr % 4 != 0 || !csrReaches acc (addr / 0x10000) || (acc == .jtag && !jtagMay s addr) then s
  else match addr / 0x10000 with
    | 0x00 => glbWrite acc off v s
    | 0x01 => hmbWrite acc off v s
    | 0x02 => cfgWrite acc off v s
    | 0x03 => scrWrite acc off v s
    | 0x04 => nvcWrite acc off v s
    | 0x05 => nocWrite acc off v s
    | 0x06 => rfxWrite acc off v s
    | 0x07 => fpeWrite acc off v s
    | 0x08 => uanWrite acc off v s
    | 0x09 => xcvWrite acc off v s
    | 0x0A => pciWrite acc off v s
    | 0x0B => ethWrite acc off v s
    | 0x0C => pwrWrite acc off v s
    | 0x0D => aonWrite acc off v s
    | 0x0E => pmbWrite acc off v s
    | 0x0F => bstWrite acc off v s
    | 0x10 => lcsWrite acc off v s
    | 0x11 => smnWrite acc off v s
    | 0x12 => clkWrite acc off v s
    | 0x13 => tbsWrite acc off v s
    | _ => s

/-- REGISTER_WRITE (R12). -/
def execRegisterWrite (acc : Accessor) (addr : Nat) (v : Word) (s : State) : Host.Outcome State Fault Refusal :=
  done (csrWrite acc addr v) s

/-! ## Words in ascending order (R338, R476, R512) -/

/-- Reads `n` words in ascending order, each with the effects of its own read. -/
def readWords (f : Nat → State → Word × State) : Nat → Nat → State → List Word × State
  | _, 0, s => ([], s)
  | a, n + 1, s =>
    let r := f a s
    let t := readWords f (a + 4) n r.2
    (r.1 :: t.1, t.2)

/-- Writes words in ascending order. -/
def writeWords (f : Nat → Word → State → State) : Nat → List Word → State → State
  | _, [], s => s
  | a, w :: ws, s => writeWords f (a + 4) ws (f a w s)

/-- A request to registers at an endpoint (R476, R512): word by word, or BAD_PARAMETER. -/
def wordAccess (rd : Nat → State → Word × State) (wr : Nat → Word → State → State) (p : Pkt) (s : State) : State :=
  if pktOff p % 4 != 0 || p.len % 4 != 0 then reply s p .badParameter []
  else if p.op == .rd then
    let r := readWords rd (pktOff p) (p.len / 4) s
    reply r.2 p .ok (wordBytes r.1)
  else reply (writeWords wr (pktOff p) (bytesWords (p.data.take p.len)) s) p .ok []

/-! ## The CSR endpoint (R476) -/

/-- A request at the CSR endpoint; an offset beyond the space is denied (R209). -/
def csrEndpoint (p : Pkt) (s : State) : State :=
  if 0x1000000 < pktOff p + p.len then deny s p
  else wordAccess (csrRead (.dom p.dom)) (csrWrite (.dom p.dom)) p s

/-- CSR_ENDPOINT_ACCESS: a request that is on its way to the endpoint. -/
def csrEndpointAccess (p : Pkt) (s : State) : State :=
  if (p.op == .rd || p.op == .wrNp || p.op == .wrP) && pktEp p == 0x119 then
    match takeFlight s p with
    | some s1 => csrEndpoint p s1
    | none => s
  else s

/-- CSR_ENDPOINT_ACCESS. -/
def execCsrEndpointAccess (p : Pkt) (s : State) : Host.Outcome State Fault Refusal := done (csrEndpointAccess p) s

/-! ## Window 0 (R337, R338) -/

/-- A dword read through window 0 of PCI_p: page 0x00FF_0000 holds the MSI-X table and PBA (DEDUCED, log entry 41). -/
def win0Read (p addr : Nat) (s : State) : Word × State :=
  if addr / 0x10000 = 0xFF then (msixRead (s.pciOf p) (addr % 0x10000), s) else csrRead (.dom (ownerOf p)) addr s

/-- A dword written through window 0. -/
def win0Write (p addr : Nat) (v : Word) (s : State) : State :=
  if addr / 0x10000 = 0xFF then msixWrite p (addr % 0x10000) v s else csrWrite (.dom (ownerOf p)) addr v s

/-- Dwords written one at a time in ascending order; one with partial byte enables is ignored. -/
def win0Writes (p : Nat) : Nat → List (Word × Bool) → State → State
  | _, [], s => s
  | a, (w, full) :: ws, s => win0Writes p (a + 4) ws (if full then win0Write p a w s else s)

/-- WINDOW0_TLP (R338): BAR0 of an endpoint whose link is up; a function in D3hot accepts no access
(DEDUCED, log entry 41). -/
def window0Tlp (p addr : Nat) (t : TlpOp) (s : State) : State :=
  let c := s.pciOf p
  if 4 ≤ p || !c.up || sleepNear s then s
  else match t with
    | .read n =>
      if c.d3 then s.emit (.cpl p 0 .ur [])
      else
        let r := readWords (win0Read p) (addr / 4 * 4 % 0x1000000) n s
        r.2.emit (.words r.1)
    | .write ws => if c.d3 then s else win0Writes p (addr / 4 * 4 % 0x1000000) ws s

/-- WINDOW0_TLP. -/
def execWindow0Tlp (p addr : Nat) (t : TlpOp) (s : State) : Host.Outcome State Fault Refusal :=
  done (window0Tlp p addr t) s

/-! ## JTAG (R466, R470) -/

/-- CSR_ACCESS: the scan returns the data that the last read left. -/
def csrScan (dr : BitVec 64) (s : State) : State :=
  let addr := bf dr.toNat 55 32
  let s1 := s.emit (.tdo 64 s.lcs.csrData.toNat)
  if dr.getLsbD 63 then csrWrite .jtag addr (dr.extractLsb' 0 32) s1
  else
    let r := csrRead .jtag addr s1
    { r.2 with lcs := { r.2.lcs with csrData := r.1 } }

/-- CSR_ACCESS. -/
def execCsrAccess (dr : BitVec 64) (s : State) : Host.Outcome State Fault Refusal := done (jtag 0x020 (csrScan dr)) s

end Sys2Proof.Machine
end

