-- ==== Sys2Proof/Machine/Sleep.lean ====
section
/-! DEFINITION. Device sleep (R426–R433, R485): the entry at an RTC tick, Sentry sampling, wake events, failed wakes. -/
namespace Sys2Proof.Machine
open Sys2Proof

/-- The device is in SENTRY or HIBERNATE. -/
def asleep (s : State) : Bool := s.boot.phase == .sentry || s.boot.phase == .hibernate

/-! ## Rails (R484, R485) -/

/-- Rail entries in power-up order; VCCIO follows VCCAUX. -/
def railOrder (s : State) : List Nat :=
  ([3, 8, 1, 2, 4, 5, 6, 7] : List Nat).flatMap fun k =>
    (List.range 8).filter fun i => mapped s i && railByte (s.railOf i).cfg 1 == k

/-- The mapped rails are switched on. -/
def railsOn (s : State) : State := (railOrder s).foldl (fun u i => pmbWrite1 u i 0x01 0x80) s

/-- The mapped rails that a property picks are switched off, in reverse order. -/
def railsOff (s : State) (p : Nat → Bool) : State :=
  ((railOrder s).reverse.filter p).foldl (fun u i => pmbWrite1 u i 0x01 0x00) s

/-- The sequencer starts a wake. -/
def startWake (s : State) : State := railsOn { s with pwr := { s.pwr with wakeAt := s.uptime, opAt := some s.uptime } }

/-! ## Entry (R427) -/

/-- A region's part of bank 16: its window and its attributes. -/
def keptRegion (g : Region) : Region := { window := g.window, group := g.group, groupEn := g.groupEn, clock := g.clock }

/-- A frame of a region as its recorded source gives it back: the active plane. -/
def keptFrame (key : Nat) (f : Frame) : Frame :=
  if isContent key then { f with a := { f.a with pend := false, uncorr := false } }
  else { a := { f.active with pend := false, uncorr := false }, blank := f.blank }

/-- An endpoint's part of bank 16 (Table 14.9). -/
def keptPci (c : Pci) : Pci := { xlts := c.xlts, obLo := c.obLo, obHi := c.obHi, obLimit := c.obLimit, policy := c.policy }

/-- Bank 16 (Table 14.9) (DEDUCED, log entry 59). -/
def keptOf (s : State) : Kept :=
  { slot := s.boot.bootSlot.getD 0, sig := s.boot.imgSig, owner := s.boot.imgOwner, ten := s.ten
    regions := SMap.normal dRegion (s.cfg.regions.map fun (e : Nat × Region) => (e.1, keptRegion e.2))
    frames := SMap.normal dFrame ((s.cfg.frames.filter fun (e : Nat × Frame) => (s.frameRegion e.1).isSome).map
      fun (e : Nat × Frame) => (e.1, keptFrame e.1 e.2))
    pol := s.mc.pol, polSet := s.mc.polSet, fw := s.noc.fw
    pci := SMap.normal dPci (s.pci.map fun (e : Nat × Pci) => (e.1, keptPci e.2))
    map := s.noc.map, ni := s.noc.ni, routes := s.noc.routes, epoch := s.noc.epoch
    forced := (s.port.filter fun (e : Nat × Port) => e.2.forced).map fun (e : Nat × Port) => e.1
    urgent := s.nv.urgent, xip := s.nv.xip, grants := s.lcs.grants, gseq := s.lcs.gseq
    source := s.tbs.source, macPort := s.tbs.macPort
    off := (List.range 16).filter fun b => (s.bandOf b).state == .off }

/-- The CRC of a kennel bank is written anew. -/
def crcBank (s : State) (n : Nat) : State :=
  { s with pwr := { s.pwr with
    kCrc := SMap.set dNat s.pwr.kCrc n (crc32c (Memory.readN 0 s.pwr.kennel (n * 65536) 65536)).toNat } }

/-- Steps 2–5: images, retained state, scratch CRCs, the DTB, the completion. -/
def sleepSave (e : Entry) (s : State) : State :=
  let s1 := ((List.range 16).filter fun b => (s.bandOf b).state == .on || (s.bandOf b).state == .doze).foldl saveBand s
  let s2 := ((List.range 15).map (17 + ·)).foldl crcBank s1
  endCmd? e.cmd .ok 0x17 [] { s2 with pwr := { s2.pwr with
    kept := some (keptOf s), savedDtb := s.now16, savedR0 := s.pwr.rtc
    delays := if e.delayed then sat 0xFFFFFFFF s.pwr.delays else s.pwr.delays } }

/-- A PCI endpoint asleep: only its pin is left. -/
def sleepPci (c : Pci) : Pci := { perst := c.perst }

/-- Steps 6 and 7: the pins, then everything but the always-on domain goes off. -/
def sleepOff (e : Entry) (s : State) : State :=
  let ph : Phase := if e.target = 8 then .sentry else .hibernate
  let s1 := resetPins s
  let s2 := resetLogic s1 { steps := s1.tbs.steps, ref := s1.tbs.ref } ph
  let s3 := tidy { s2 with
    pci := s2.pci.map fun (x : Nat × Pci) => (x.1, sleepPci x.2)
    pwr := { s2.pwr with
      kept := s.pwr.kept, latched := s.pwr.latched, armed := ph == .sentry, mism := 0, samples := 0, fbTicks := false
      sampleAt := s.pwr.rtc, wakeTry := [] } }
  railsOff s3 fun i => (railByte (s3.railOf i).cfg 5).testBit (e.target - 8)

/-- The device enters sleep; a wake event that was latched wakes it at once (DEDUCED, log entry 59). -/
def sleepNow (e : Entry) (s : State) : State :=
  let s1 := sleepOff e (sleepSave e s)
  if s1.pwr.latched.isSome then startWake s1 else s1

/-- The RTC counts a tick (R433). -/
def rtcCount (s : State) : State :=
  { s with pwr := { s.pwr with
    rtc := (s.pwr.rtc + 1) % 0x1000000000000, counting := true, fbTicks := s.pwr.fbTicks || !s.pwr.xclk
    xclkAt := if s.pwr.xclk then s.uptime else s.pwr.xclkAt } }

/-- RTC_TICK (R427, R433). A packet for a band's endpoint ends the entry (Table 14.3). -/
def rtcTick (s0 : State) : State :=
  let s := rtcCount s0
  match s.pwr.dev with
  | some e =>
    if !e.past then s
    else if (List.range 16).any (packetsFor s) then refuseDev s 0x01 0x0A
    else sleepNow e s
  | none => s

/-- RTC_TICK. -/
def execRtcTick (s : State) : Host.Outcome State Fault Refusal := done rtcTick s

/-! ## Wake events (R432) -/

/-- PWR.WAKE_CAUSE. -/
def wakeWord (cause num mon : Nat) : Word := wd (cause * 0x10000000 + num % 256 * 0x10000 + mon)

/-- The first cause seen is recorded; in sleep it starts the wake, during entry it is latched. -/
def wakeBy (cause num mon : Nat) (s : State) : State :=
  if s.pwr.latched.isSome || !(asleep s || sleepNear s) then s
  else
    let s1 := { s with pwr := { s.pwr with latched := some (cause, num), wakeC := wakeWord cause num mon } }
    if asleep s then startWake s1 else s1

/-- Word 0x90 of the record: the wake configuration. -/
def wakeCfg (s : State) : Nat := recWord s.pwr.record 0x90

/-- A wake pin takes its active level (DEDUCED, log entry 60). -/
def pinEvent (s : State) (n : Nat) : State :=
  let b := s.pwr.pins.testBit n
  let high := (wakeCfg s).testBit (8 + n)
  { s with pwr := { s.pwr with pins := s.pwr.pins - (if b then 2 ^ n else 0) + (if high then 2 ^ n else 0) } }

/-- A PERST_N deassertion. -/
def perstEvent (s : State) (p : Nat) : State := s.setPci p { s.pciOf p with perst := false }

/-- WAKE_EVENT (R432): a WAKE pin (1), the RTC alarm (2) or a PERST_N deassertion (3) that the record enables. `edgeWindow`
says that it came in the last 3 ACLK cycles of entry, where an edge is lost (DEDUCED, log entry 60). -/
def wakeEvent (cause num : Nat) (edgeWindow : Bool) (s : State) : State :=
  let w := wakeCfg s
  match cause with
  | 1 =>
    if 7 < num then s
    else
      let s1 := pinEvent s num
      if !w.testBit num || (edgeWindow && !w.testBit (16 + num)) then s1 else wakeBy 1 num 0xF s1
  | 2 => if w.testBit 28 && recWord s.pwr.record 0x94 ≤ rtcSec s then wakeBy 2 0 0xF s else s
  | 3 =>
    if 3 < num then s
    else
      let s1 := perstEvent s num
      if !w.testBit (24 + num) || edgeWindow then s1 else wakeBy 3 num 0xF s1
  | _ => s

/-- WAKE_EVENT. -/
def execWakeEvent (cause num : Nat) (edgeWindow : Bool) (s : State) : Host.Outcome State Fault Refusal :=
  done (wakeEvent cause num edgeWindow) s

/-- RESET_N in sleep wakes the device into a warm-reset boot: the band images and the retained state are discarded, with no
RETENTION_LOST (R432). -/
def resetWake (s : State) : State :=
  if s.pwr.latched.isSome then s
  else
    wakeBy 5 0 0xF { s with
      pwr := { s.pwr with kept := none, kennel := s.pwr.kennel.filter fun c => 16 ≤ c.1 / 65536 }
      mc := { s.mc with warmCnt := sat 0xFFFFFFFF s.mc.warmCnt } }

/-! ## Sentry sampling (R431) -/

/-- A half of the care mask counts where its Sentry bank is set. -/
def sentryCare (r : List Byte) : BitVec 128 :=
  let half (off : Nat) : Nat := if bf (recWord r 0x4C) (off + 7) off = 0xFF then 0 else 0xFFFFFFFFFFFFFFFF
  BitVec.ofNat 128 (leAt r 0x60 16) &&& BitVec.ofNat 128 (half 0 + half 8 * 0x10000000000000000)

/-- The lowest enabled monitor entry whose channel lies outside its window; a channel without a conversion does not count. -/
def sentryMon (r : List Byte) (codes : List (Nat × Nat)) : Option Nat :=
  (List.range 8).find? fun i =>
    let w := recMon r i
    w.testBit 31 && codes.any fun c => c.1 == bf w 27 24 && (bf w 23 12 < c.2 || c.2 < bf w 11 0)

/-- SENTRY_SAMPLE (R431): the 128 inputs, and the code of each channel converted. -/
def sentrySample (bits : BitVec 128) (codes : List (Nat × Nat)) (s : State) : State :=
  let r := s.pwr.record
  if !s.pwr.armed || s.boot.phase != .sentry || s.pwr.latched.isSome || s.pwr.rtc < s.pwr.sampleAt + recWord r 0x48 then s
  else
    let mon := sentryMon r codes
    let bad := (bits ^^^ BitVec.ofNat 128 (leAt r 0x50 16)) &&& sentryCare r != 0
    let n := if bad || mon.isSome then s.pwr.mism + 1 else 0
    let s1 := { s with pwr := { s.pwr with mism := n, samples := sat 0xFFFF s.pwr.samples, sampleAt := s.pwr.rtc } }
    if n != 0 && bf (recWord r 0x4C) 23 16 ≤ n then
      wakeBy 4 0 (mon.getD 0xF) { s1 with pwr := { s1.pwr with waking := bits } }
    else s1

/-- SENTRY_SAMPLE. -/
def execSentrySample (bits : BitVec 128) (codes : List (Nat × Nat)) (s : State) : Host.Outcome State Fault Refusal :=
  done (sentrySample bits codes) s

/-- WAKE_RETRY (R485): t0 has not come 100 ms after an attempt's first OPERATION, and the rails go off, with the first rail entry that is
not good recorded; 1 s later the wake starts again. -/
def wakeRetry (rail : Nat) (s : State) : State :=
  if !(asleep s && s.pwr.latched.isSome) then s
  else match s.pwr.opAt with
    | some t =>
      if s.uptime < t + 100000000 then s
      else railsOff { s with pwr := { s.pwr with wakeTry := s.pwr.wakeTry ++ [rail % 8], opAt := none, offAt := s.uptime } } fun _ => true
    | none => if s.uptime < s.pwr.offAt + 1000000000 then s else railsOn { s with pwr := { s.pwr with opAt := some s.uptime } }

/-- WAKE_RETRY. -/
def execWakeRetry (rail : Nat) (s : State) : Host.Outcome State Fault Refusal := done (wakeRetry rail) s

end Sys2Proof.Machine
end

