-- ==== Sys2Proof/Machine/Boot.lean ====
section
/-! DEFINITION. Power-on reset, warm reset, boot, start-up and device wake (R34–R39, R112–R134, R428–R433). -/
namespace Sys2Proof.Machine
open Sys2Proof

/-! ## Resets -/

/-- SUPPLY_LOSS (R34, R114, R457): power-on reset. What is not electronic state of the device stays: NV contents, OTP, and
the levels at its pins. -/
def supplyLoss (s0 : State) : State :=
  let s := tearNv (tornRun (resetPins s0))
  tidy
    { pending := s.pending, uptime := s.uptime, free := s.free, out := s.out
      pci := s.pci.map fun (e : Nat × Pci) => (e.1, sleepPci e.2)
      xcv := { quads := s.xcv.quads.map fun (e : Nat × Quad) => (e.1, ({ ref := e.2.ref } : Quad))
               lanes := s.xcv.lanes.map fun (e : Nat × Lane) => (e.1, ({ sig := e.2.sig } : Lane)) }
      port := s.port.map fun (e : Nat × Port) => (e.1, ({ pad := e.2.pad, fpIn := e.2.fpIn, fpAt := e.2.fpAt, fout := e.2.fout, foe := e.2.foe, rout := e.2.rout, roe := e.2.roe } : Port))
      nv := keptNv s.nv true
      pwr := { pins := s.pwr.pins, holdup := s.pwr.holdup }
      lcs := { otp := s.lcs.otp, imgKey := s.lcs.imgKey, kek := s.lcs.kek }
      tbs := { ref := s.tbs.ref }
      clk := { plls := s.clk.plls.map fun (e : Nat × Pll) => (e.1, ({ ref := e.2.ref } : Pll)) } }

/-- SUPPLY_LOSS. -/
def execSupplyLoss (s : State) : Host.Outcome State Fault Refusal := done supplyLoss s

/-- A warm reset reaches the device: at once, in sleep as a wake, or once a programming run has ended (R39). -/
def warmReach (s : State) : State :=
  if asleep s then resetWake s
  else if (programming s).isSome then { s with lcs := { s.lcs with warmDef := true } }
  else warmNow s

/-- WARM_RESET (R37): by how long RESET_N is low. From 0.5 µs to 1 µs it is open whether the reset happens: a free value
(DEDUCED, log entry 48). -/
def warmReset (lowNs : Nat) (s : State) : State :=
  if s.boot.phase == .powerReset || lowNs < 500 then s
  else if 1000 ≤ lowNs then warmReach s
  else if Config.freeBit s.free then warmReach s.takeFree
  else s.takeFree

/-- WARM_RESET. -/
def execWarmReset (lowNs : Nat) (s : State) : Host.Outcome State Fault Refusal := done (warmReset lowNs) s

/-- TAP_RESET (R34, R470): IDCODE is selected, and pins that the TAP drove are released. -/
def tapReset (s : State) : State := { s with lcs := { s.lcs with ir := 2, drive := false, hiz := false } }

/-- TAP_RESET. -/
def execTapReset (s : State) : Host.Outcome State Fault Refusal := done tapReset s

/-! ## Boot (R112–R122) -/

/-- The cause of a boot that may start now (Table 17.4): from power-on reset once the timebase PLL has TB_10M_IN (R253), as RESET_N rises,
or as a wake reaches t0. -/
def bootCause (s : State) : Option Nat :=
  match s.boot.phase with
  | .powerReset => if s.tbs.ref then some 1 else none
  | .resetHeld => some 2
  | .sentry => s.pwr.latched.map fun x => if x.1 = 5 then 4 else 3
  | .hibernate => s.pwr.latched.map fun x => if x.1 = 5 then 4 else 3
  | _ => none

/-- The timebase at t0: it starts at 0 after power-on, goes on through a warm reset, and after sleep restarts from the
saved value and the RTC ticks since (R252, R433). -/
def bootTbs (s : State) (cause : Nat) : Tbs :=
  if cause = 1 then { run := true, ref := s.tbs.ref }
  else if cause = 2 then s.tbs
  else
    { s.tbs with
      dtb := (s.pwr.savedDtb + (s.pwr.rtc - s.pwr.savedR0) * 1953125 / 4) * 2 ^ 40 % 2 ^ 108
      run := true, est := true, aclkEst := s.pwr.fbTicks, hist := []
      state := if s.tbs.ref then s.tbs.state else .holdover }

/-- The scratch banks are checked at a device wake; an owner is told of one that fails (R425). -/
def checkScratch (s : State) (n : Nat) : State :=
  let u := checkBank s n
  if bankOk u n then u
  else match bankOwner n with
    | some o => u.raiseFor [ocode o] 0xC0030 0 4
    | none => u

/-- Boot ends before a load with CFG_ERR_N asserted. -/
def bootStop (ph : Phase) (st : Status) (s : State) : State :=
  { s with boot := { s.boot with phase := ph, first := st, cfgErr := true } }.emit (.pin "CFG_ERR_N" false)

/-- Steps 4–8 from NV: the selector copies, then the slot that wins, or slot 0 (R118). BLANK refuses both slots (R465). -/
def bootNv (s : State) : State :=
  let w := selWinner s.nv.selA s.nv.selB
  let slot := match w with | some true => selSlot s.nv.selB | some false => selSlot s.nv.selA | none => 0
  let b := { s.boot with
    selA := selValid s.nv.selA, selB := selValid s.nv.selB, selSlot := if w.isSome then slot else 0 }
  if lcImages s then startSlot { s with boot := { b with phase := .booting, tried := slot } } slot
  else bootStop .unconfigured .lifecycleDeny { s with boot := { b with fallback := true, second := .lifecycleDeny } }

/-- A device wake: the recorded slot is loaded, whatever the selector says (R428). -/
def bootWake (s : State) : State :=
  match s.pwr.kept with
  | some k =>
    let s1 := ((List.range 15).map (17 + ·)).foldl checkScratch s
    startSlot { s1 with
      boot := { s1.boot with phase := .booting, tried := k.slot, devWake := true }
      pwr := { s1.pwr with wakeS := .ok, kValid := s1.pwr.kValid % 0x10000 + 0x10000 + s1.pwr.kValid / 0x20000 * 0x20000 } } k.slot
  | none => bootNv (wakeLost s)

/-- Steps 3 and on: the life-cycle read, then the source that CFG_MODE names. -/
def bootLoad (cause : Nat) (s0 : State) : State :=
  let s := lcRead s0
  if 5 ≤ s.lcs.state then bootStop .denied .lifecycleDeny s
  else if s.lcs.state = 3 && returnMark s then
    bootStop .denied .lifecycleDeny { s with lcs := { s.lcs with erasing := true } }
  else if cause = 3 then bootWake s
  else if s.boot.cfgMode = 0 then bootNv s
  else { s with boot := { s.boot with phase := .waitImage } }

/-- What t0 does before the MC boots: the NoC runs, muzzled where a link is down (R215, R227); the canaries are written
(R188). -/
def bootBase (cause cfgMode : Nat) (vccio : List Nat) (s : State) : State :=
  let s1 := { s with
    boot := { phase := .booting, cfgMode := if cause = 3 then s.boot.cfgMode else cfgMode % 4, t0 := s.uptime
              vccio := vccio, cause := cause, suppliesOk := true }
    tbs := bootTbs s cause
    noc := { s.noc with running := true }
    pwr := { s.pwr with latched := none, armed := false } }
  (List.range 16).foldl writeCanary (linkMuzzles s1)

/-- BOOT_START (R112): a ROM parity or lockstep mismatch halts the MC (Table 4.8). In slave parallel mode VCCIO_0 is a monitored supply,
and t0 waits until it has one of its levels (R125). -/
def bootStart (cfgMode : Nat) (romOk : Bool) (vccioMv : List Nat) (s : State) : State :=
  match bootCause s with
  | none => s
  | some cause =>
    if cause != 3 && cfgMode % 4 = 2 && !sppLevel vccioMv then s else
    let s1 := bootBase cause cfgMode vccioMv s
    if romOk then bootLoad cause { s1 with boot := { s1.boot with mcUp := true } }
    else bootStop .unconfigured .ok { s1 with mc := { s1.mc with halted := true } }

/-- BOOT_START. -/
def execBootStart (cfgMode : Nat) (romOk : Bool) (vccioMv : List Nat) (s : State) : Host.Outcome State Fault Refusal :=
  done (bootStart cfgMode romOk vccioMv) s

/-! ## Start-up (R128–R132) -/

/-- The phase of start-up event i in the order of Table 4.6, 0 for one that is omitted (Table 3.10). -/
def eventPhase (s : State) (i : Nat) : Nat := wf (s.cfgReg 0x0002) (4 * i + 3) (4 * i)

/-- The next phase that has an event. -/
def nextPhase (s : State) : Option Nat :=
  (List.range 9).find? fun q => s.boot.suPhase < q && (List.range 6).any fun i => eventPhase s i == q

/-- A wait event is satisfied: every enabled PLL is locked; the timebase is disciplined, or free-running by choice. -/
def waitMet (s : State) (i : Nat) : Bool :=
  if i = 0 then s.clk.plls.all fun e => !wb e.2.aCtrl 30 || e.2.locked
  else s.tbs.source == 0 || s.tbs.state == .locked

/-- GSR_RELEASE. After a wake each band takes its kennel image; one that was OFF keeps its initial values (R428). -/
def gsrRelease (s : State) : State :=
  let s1 := { s with boot := { s.boot with gsr := false } }
  match s1.boot.devWake, s1.pwr.kept with
  | true, some k =>
    let s2 := ((List.range 16).filter fun b => !k.off.contains b).foldl restoreBand s1
    { s2 with boot := { s2.boot with devWake := false }, pwr := { s2.pwr with kept := none } }
  | _, _ => s1

/-- The owners of a bank's groups. -/
def bankOwners (s : State) (k : Nat) : List Nat :=
  (((List.range 4).map fun i => ocode (s.owner (136 + 4 * k + i))).filter (· < 7)).eraseDups

/-- A declared bank that is not at its level is reported to its owners (R233) (DEDUCED, log entry 52). -/
def reportBanks (s : State) : State :=
  ((List.range 16).filter (bankHeld s)).foldl (fun u k =>
    u.post (bankOwners u k) 0x11 .voutMismatch 1 k (u.boot.vccio.getD k 0)) s

/-- The PCI blocks whose quads the image makes raw pass to the fabric (R331). -/
def rawPci (s : State) (p : Nat) : State :=
  if SMap.get (fun _ => QuadUse.pci) s.design.quads ([0, 2, 6, 8].getD p 0) == .raw then
    linkMuzzles (s.setPci p { s.pciOf p with up := false, raw := true })
  else s

/-- OUTPUTS_RELEASE: ports take their image configuration, engines start, reflex tables arm (DEDUCED, log entry 52). -/
def outputsRelease (s : State) : State :=
  let s1 := { s with boot := { s.boot with released := true } }
  let s2 := (knownPorts s1).foldl startPort s1
  (List.range 4).foldl rawPci (armAll (reportBanks s2))

/-- Failed wake attempts are posted once the device runs (R485). -/
def postTries (s : State) : State :=
  let s1 := s.pwr.wakeTry.foldl (fun (u : State) r => u.post allDomains 0 .ok 3 r 0) s
  { s1 with pwr := { s1.pwr with wakeTry := [] } }

/-- A boot that ended a sleep: the duration of the wake, and the change of the device's state. -/
def wakeEnd (s : State) : State :=
  if 3 ≤ s.boot.cause then
    ({ s with pwr := { s.pwr with wakeDur := min 0xFFFF ((s.uptime - s.pwr.wakeAt) / 100000) } }).raiseAll 0xC0030 0 1
  else s

/-- DONE_ASSERT (R131): DONE rises, BOOT_TIME latches; the scrubber, the torn scan, the pulse output and self-test start. -/
def doneAssert (s : State) : State :=
  let s1 := { s with
    boot := { s.boot with done := true, doneAt := s.uptime, bootTime := min 0xFFFFFFFF ((s.uptime - s.boot.t0) / 1000) }
    nv := { s.nv with scanDone := false }
    tbs := { s.tbs with ppsEn := true } }
  wakeEnd (postTries ((scrStart s1).emit (.pin "DONE" true)))

/-- A start-up event that is not a wait fires. -/
def fireEvent (s : State) (i : Nat) : State :=
  match i with
  | 2 => gsrRelease s
  | 3 => { s with boot := { s.boot with we := true } }
  | 4 => outputsRelease s
  | 5 => doneAssert s
  | _ => s

/-- Start-up has ended once its last phase is complete. -/
def startupEnd (s : State) : State :=
  if s.boot.suWait = 0 && (nextPhase s).isNone then
    { s with boot := { s.boot with suActive := false, suDone := true, imageOk := true, phase := .running } }
  else s

/-- STARTUP_PHASE (R129): every event of the next phase fires; a wait that is not satisfied holds start-up (R130). -/
def startupPhase (s : State) : State :=
  if !s.boot.suActive || s.boot.suWait != 0 then s
  else match nextPhase s with
    | none => startupEnd s
    | some q =>
      let es := (List.range 6).filter fun i => eventPhase s i == q
      let wait := es.filter fun i => i < 2 && !waitMet s i
      let s1 := es.foldl fireEvent { s with boot := { s.boot with suPhase := q } }
      let comp := (es.filter fun i => !wait.contains i).foldl (fun n i => n + 2 ^ i) s1.boot.suComp
      startupEnd { s1 with boot := { s1.boot with
        suComp := comp, suWait := wait.foldl (fun n i => n + 2 ^ i) 0
        phase := if wait.isEmpty then .booting else .startupHeld } }

/-- STARTUP_PHASE. -/
def execStartupPhase (s : State) : Host.Outcome State Fault Refusal := done startupPhase s

/-- WAIT_EVENT_COMPLETE (R130): the wait events whose condition now holds complete. -/
def waitEventComplete (s : State) : State :=
  let met := (List.range 2).filter fun i => s.boot.suWait.testBit i && waitMet s i
  let n := met.foldl (fun n i => n + 2 ^ i) 0
  if !s.boot.suActive || n = 0 then s
  else
    startupEnd { s with boot := { s.boot with
      suComp := s.boot.suComp + n, suWait := s.boot.suWait - n
      phase := if s.boot.suWait = n then .booting else .startupHeld } }

/-- WAIT_EVENT_COMPLETE. -/
def execWaitEventComplete (s : State) : Host.Outcome State Fault Refusal := done waitEventComplete s

end Sys2Proof.Machine
end

