-- ==== Sys2Proof/Machine/Deliver.lean ====
section
/-! DEFINITION. Requests that reach their destination: muzzling, the firewall, parking, and what each endpoint of Table 7.1
does with a read or a write (R194, R203–R226). -/
namespace Sys2Proof.Machine
open Sys2Proof

/-- A request for a design in the fabric: delivered, parked, or refused by a band that is not woken (R224, R225). -/
def deliverFabric (p : Pkt) (s : State) : State :=
  let b := (s.mapOf (pktEp p)).row
  let g := s.bandOf b
  match g.state with
  | .on => (if sleepNear s then refuseDev s 0x01 0x0A else s).emitPkt (s.mapOf (pktEp p)).phys p
  | .doze => wakeBand (park s p) b
  | _ => if g.held && !g.waking then parkRefused s p else wakeBand (park s p) b

/-- A request at a field-port group: the registers of its 16 engines (R194, R253, R476). -/
def deliverGroup (p : Pkt) (s : State) : State :=
  let g := pktEp p - 0x80
  if 0x400 < pktOff p + p.len then deny s p
  else wordAccess (groupRead (.dom p.dom) g) (groupWrite (.dom p.dom) g) p s

/-- A request at a Uanov engine: the images, the control block and the topology table (R323). -/
def deliverUan (p : Pkt) (s : State) : State :=
  let r := pktEp p - 0xC0
  let off := pktOff p
  if 0x49E0 < off + p.len then deny s p
  else if 0x4000 ≤ off && off < 0x4100 && (off % 4 != 0 || p.len % 4 != 0) then reply s p .badParameter []
  else if p.op == .rd then reply s p .ok (ringRead s r off p.len)
  else
    let u := ringWrite s r off (p.data.take p.len)
    reply u.2 p u.1 []

/-- A request at an Ethernet block: the registers of a MAC port (R194, R476). -/
def deliverEth (p : Pkt) (s : State) : State :=
  let m := 4 * (pktEp p - 0x114) + pktOff p / 0x10000
  let r := pktOff p % 0x10000
  if 0x40000 ≤ pktOff p || r < 0x04 || 0x6C < r + p.len then deny s p
  else wordAccess (fun a u => (macReg (.dom p.dom) m (a % 0x10000) u, u)) (fun a v u => macPut (.dom p.dom) m (a % 0x10000) v u) p s

/-- NVC acts on the index words of the HS mailbox that a write has covered (R389). -/
def hsIndices (s : State) (x len : Nat) : State :=
  let touch (u : State) (w : Nat) : State :=
    if x < w + 4 && w < x + len then hsIndex w (mbxWord u 4 w) u else u
  touch (touch s 0xF000) 0xF00C

/-- A request at the mailbox endpoint: a mailbox is open to its own domain alone (R209, R356, R476). -/
def deliverMbx (p : Pkt) (s : State) : State :=
  let d := pktOff p / 0x10000
  let x := pktOff p % 0x10000
  if 5 ≤ d || ocode p.dom != d then deny s p
  else if x < 0x1820 && 0x1800 < x + p.len then
    wordAccess (fun a u => (mbxWord u d (a % 0x10000), u)) (fun a v u => mbxPut d (a % 0x10000) v u) p s
  else if p.op == .rd then reply s p .ok (mbxBytes s d x p.len)
  else
    let s1 := mbxStore d x (p.data.take p.len) s
    reply (if d = 4 then hsIndices s1 x p.len else s1) p .ok []

/-- An NVC answer: data of a read that is not OK carry the pattern of R400. -/
def nvcReply (s : State) (p : Pkt) (st : Status) : State :=
  reply s p st (if p.op == .rd && st != .ok then nvPattern st (pktOff p) p.len else [])

/-- A request at NVC: a direct read, a write to the logical space, or the registers of a queue (R194, R388, R399, R400). -/
def deliverNvc (p : Pkt) (s : State) : State :=
  let off := pktOff p
  let q := (off - 0x4000000000) / 0x100
  let r := off % 0x100
  if off < 0x7F000000 then
    if p.op == .rd then directRead p s
    else if p.op == .wrNp then reply s p .badParameter []
    else bump s 0x11B 0
  else if off < 0x4000000000 || 8 ≤ q || q = 0 || q = 5 || r < 0x0C || 0x34 < r + p.len || !ownsQ (.dom p.dom) q then
    nvcReply (bump s 0x11B 4) p .firewallDeny
  else if off % 4 != 0 || p.len % 4 != 0 then nvcReply s p .badParameter
  else
    wordAccess (fun a u => (nvqRead u q (a % 0x100), u))
      (fun a v u => if qWritable (.dom p.dom) q then nvqWrite q (a % 0x100) v u else u) p s

/-- A request passes the muzzle and the firewall and is served (R209, R213, R215, R225). -/
def deliver (p : Pkt) (s : State) : State :=
  let id := pktEp p
  if isMuzzled s id || linkDown s id then absorb s p
  else if !(fwPass s p || ownRules id) || isTable id || id = 0x118 || 0x11C ≤ id then deny s p
  else if id < 0x80 then deliverFabric p s
  else if id < 0xC0 then deliverGroup p s
  else if id < 0x100 then deliverUan p s
  else if id < 0x114 then outbound (id - 0x110) p s
  else if id < 0x118 then deliverEth p s
  else if id = 0x119 then csrEndpoint p s
  else if id = 0x11A then deliverMbx p s
  else deliverNvc p s

/-- The arrival of a request that is on its way. -/
def arrive (op : PktOp) (p : Pkt) (s : State) : State :=
  if p.op == op then
    match takeFlight s p with
    | some s1 => deliver p s1
    | none => s
  else s

/-- RD (R209). -/
def execRd (p : Pkt) (s : State) : Host.Outcome State Fault Refusal := done (arrive .rd p) s
/-- WR_NP (R209). -/
def execWrNp (p : Pkt) (s : State) : Host.Outcome State Fault Refusal := done (arrive .wrNp p) s
/-- WR_P (R209). -/
def execWrP (p : Pkt) (s : State) : Host.Outcome State Fault Refusal := done (arrive .wrP p) s

end Sys2Proof.Machine
end

