-- ==== Sys2Proof/Machine/Fabric.lean ====
section
/-! DEFINITION. The logic fabric at a clock edge: LUT cells, carry chains and flip-flops (R42–R46), block RAM
(R47–R55) and DSP blocks (R56–R61). -/
namespace Sys2Proof.Machine
open Sys2Proof

/-! ## Whether an element sees the edge -/

/-- The global or the local GSR holds an intersection's flip-flops (R44). -/
def gsrAt (s : State) (band col : Nat) : Bool :=
  s.boot.gsr ||
    if deviceSwaps s then
      (s.targetOf 15).members.any fun r => memberArea s 15 r band col && if r = staticMember then s.cfg.gsrStat else (s.regionOf r).gsr
    else (s.regionAt band col).any fun r => (s.regionOf r).gsr

/-- The global and the local write enable of an intersection (Table 4.6, R155). -/
def weAt (s : State) (band col : Nat) : Bool :=
  s.boot.we && match s.regionAt band col with
    | some r => (s.regionOf r).we
    | none => true

/-! ## Logic tile -/

/-- Output f of a LUT cell (R42). -/
def lutF (c : CellCfg) (x : BitVec 6) : Bool :=
  if c.split then c.mask.getLsbD (x.toNat % 32) else c.mask.getLsbD x.toNat

/-- Output g of a LUT cell: the upper half in split mode, and 0 in whole mode (R42). -/
def lutG (c : CellCfg) (x : BitVec 6) : Bool := c.split && c.mask.getLsbD (32 + x.toNat % 32)

/-- The sum of a carry stage (R46). -/
def carrySum (f g c : Bool) : Bool := Bool.xor (Bool.xor f g) c
/-- The carry-out of a carry stage (R46). -/
def carryOut (f g c : Bool) : Bool := (f && g) || (c && (f || g))

/-- f, g, sum and x5 of the cells of a tile from cell 0 up, with the carry into the first (R46). -/
def tileCells : List CellCfg → List (BitVec 6) → Bool → List (Bool × Bool × Bool × Bool)
  | [], _, _ => []
  | c :: cs, xs, cin =>
    let x := xs.headD 0
    let f := lutF c x
    let g := lutG c x
    (f, g, carrySum f g cin, c.split && x.getLsbD 5) :: tileCells cs xs.tail (carryOut f g cin)

/-- The data that a flip-flop's selector takes (R43). -/
def ffData (i : Nat) (c : FfCfg) (cells : List (Bool × Bool × Bool × Bool)) (direct : BitVec 16) : Bool :=
  let v := cells.getD (i / 2) (false, false, false, false)
  match c.src with
  | 0 => if i % 2 = 0 then v.1 else v.2.1
  | 1 => if i % 2 = 0 then v.2.2.1 else v.2.2.2
  | _ => direct.getLsbD i

/-- Which of a tile's clock inputs take an edge of a net: ck0 and ck1 (R44). -/
def tileTakes (t : TileCfg) (net : Nat) (rising : Bool) : Bool × Bool :=
  (t.net0 == some net && rising != t.fall0, t.net1 == some net && rising != t.fall1)

/-- The value of a flip-flop after an edge (R44): initial under GSR; its reset value while its set/reset input is asserted,
a synchronous one at an edge of its own clock; unchanged before WRITE_ENABLE; otherwise its data if it is enabled and the
edge is one of its own clock. -/
def ffNext (gsr we : Bool) (t : TileCfg) (i : Nat) (c : FfCfg) (takes : Bool × Bool) (e : TileEdge)
    (cells : List (Bool × Bool × Bool × Bool)) (old : Bool) : Bool :=
  let own := if c.ck1 then takes.2 else takes.1
  if gsr then c.init
  else if (match c.sr with
      | some n => e.sr.getLsbD n && (own || (if n = 1 then t.async1 else t.async0))
      | none => false) then c.reset
  else if we && own && (match c.en with | some n => e.en.getLsbD n | none => true) then ffData i c cells e.direct
  else old

/-- The sixteen flip-flops of a tile after an edge, with the carry into its chain. -/
def tileNext (gsr we : Bool) (t : TileCfg) (takes : Bool × Bool) (e : TileEdge) (cin : Bool) (old : BitVec 16) :
    BitVec 16 :=
  let cells := tileCells ((List.range 8).map fun k => t.cells.getD k {}) e.x cin
  BitVec.ofNat 16 ((List.range 16).foldl (fun n i =>
    let c := t.ffs.getD i {}
    n + (if ffNext gsr we t i c takes e cells (old.getLsbD i) then 2 ^ i else 0)) 0)

def dTileCfg : Nat → TileCfg := fun _ => {}
def dTileIn : Nat → TileEdge := fun t => { tile := t }
def dFf : Nat → BitVec 16 := fun _ => 0

/-- The carry-out of a tile whose carry-in is given (R46). -/
def tileCout (t : TileCfg) (e : TileEdge) (cin : Bool) : Bool :=
  let c := tileCells ((List.range 8).map fun k => t.cells.getD k {}) e.x cin
  let v := c.getD 7 (false, false, false, false)
  -- s_7 = f ⊕ g ⊕ c_7 gives c_7 back, and with it the carry-out of stage 7
  carryOut v.1 v.2.1 (Bool.xor (Bool.xor v.1 v.2.1) v.2.2.1)

/-- The carry into the tile `r` rows above tile `base`, the lowest of its column and band (R46): the chain runs upward and
does not cross the band boundary, so the lowest tile has no tile below. -/
def carryInto (d : SMap TileCfg) (ins : SMap TileEdge) (base : Nat) : Nat → Bool
  | 0 => match (SMap.get dTileCfg d base).carry with
    | .one => true
    | .routing => (SMap.get dTileIn ins base).cin
    | _ => false
  | r + 1 => match (SMap.get dTileCfg d (base + r + 1)).carry with
    | .zero => false
    | .one => true
    | .routing => (SMap.get dTileIn ins (base + r + 1)).cin
    | .below => tileCout (SMap.get dTileCfg d (base + r)) (SMap.get dTileIn ins (base + r)) (carryInto d ins base r)

/-- The carry into a tile. -/
def tileCin (s : State) (f : Fab) (t : Nat) : Bool := carryInto s.design.tiles f.tileIn (t / 64 * 64) (t % 64)

/-- Bits gathered into a word, the first lowest. -/
def bits8 (p : Nat → Bool) : BitVec 8 :=
  BitVec.ofNat 8 ((List.range 8).foldl (fun n i => if p i then n + 2 ^ i else n) 0)

/-- What a tile offers to routing: every f, g and sum unregistered, its carry-out and its flip-flops (R43, R46). -/
def tileOut (s : State) (f : Fab) (t : Nat) : TileOut :=
  let c := SMap.get dTileCfg s.design.tiles t
  let e := SMap.get dTileIn f.tileIn t
  let cells := tileCells ((List.range 8).map fun k => c.cells.getD k {}) e.x (tileCin s f t)
  let v := fun i => cells.getD i (false, false, false, false)
  { f := bits8 fun i => (v i).1, g := bits8 fun i => (v i).2.1, sum := bits8 fun i => (v i).2.2.1,
    cout := tileCout c e (tileCin s f t), q := SMap.get dFf f.ffs t }

/-- The flip-flops of a tile after an edge of a net. The clock nets stop in a band that is not ON; an asynchronous set/reset
acts there as long as the band keeps its flip-flops (R44, R63). -/
def tileEdge (s : State) (net : Nat) (rising : Bool) (f : Fab) (t : Nat) : BitVec 16 :=
  let c := SMap.get dTileCfg s.design.tiles t
  let takes := if netRuns s net (tileBand t) then tileTakes c net rising else (false, false)
  let old := SMap.get dFf f.ffs t
  if (s.bandOf (tileBand t)).state == .on || (s.bandOf (tileBand t)).state == .doze then
    tileNext (gsrAt s (tileBand t) (tileCol t)) (weAt s (tileBand t) (tileCol t)) c takes (SMap.get dTileIn f.tileIn t)
      (tileCin s f t) old
  else old

/-! ## Block RAM -/

def dRamCfg : Nat → RamCfg := fun _ => {}
def dRamPort : Nat → RamPort := fun _ => {}
def dW72 : Nat → BitVec 72 := fun _ => 0

/-- The address of the word a port accesses (R49). -/
def ramWord (c : RamCfg) (e : RamEdge) : Nat :=
  e.block * 2048 + (match c.mode with | .tdp36 => e.addr % 2048 | _ => e.addr % 2048 / 2)

/-- The 9-bit bytes that a write stores (R47): we[3:0] in TDP36, we[7:0] in TDP72. In ECC64 the byte enables are ignored and only
whole words are written: any of we[7:0] makes the access a write of the whole word (DESIGN CHOICE, log entry 73). -/
def ramBytes (c : RamCfg) (e : RamEdge) : List Nat :=
  match c.mode with
  | .tdp36 => (List.range 4).filter fun i => e.we.getLsbD i
  | .tdp72 => (List.range 8).filter fun i => e.we.getLsbD i
  | .ecc64 => if e.we != 0 then List.range 8 else []

/-- The word a port offers for writing: in ECC64 the data with their check bits. -/
def ramDin (c : RamCfg) (e : RamEdge) : BitVec 72 :=
  match c.mode with
  | .ecc64 => (checkBits ramCols (e.din.extractLsb' 0 64)) ++ e.din.extractLsb' 0 64
  | _ => e.din

/-- A word with some of its 9-bit bytes replaced. -/
def putBytes9 (old new : BitVec 72) (bs : List Nat) : BitVec 72 :=
  bs.foldl (fun w i =>
    let m : BitVec 72 := (0x1FF#72) <<< (9 * i)
    (w &&& ~~~ m) ||| (new &&& m)) old

/-- Whether a port writes at this edge. Block RAM ignores writes before the write enables (Table 4.6). -/
def ramWrites (s : State) (c : RamCfg) (e : RamEdge) : Bool :=
  e.en && !(ramBytes c e).isEmpty && weAt s (ramBand e.block) (ramCol e.block)

/-- What a read delivers. -/
def ramRead (c : RamCfg) (w : BitVec 72) : RamLatch :=
  match c.mode with
  | .tdp36 => { data := (w.extractLsb' 0 36).setWidth 72, sbe := false, dbe := false }
  | .tdp72 => { data := w, sbe := false, dbe := false }
  | .ecc64 =>
    let r := secDed ramCols (w.extractLsb' 0 64) (w.extractLsb' 64 8)
    { data := w.extractLsb' 64 8 ++ r.1, sbe := r.2.1, dbe := r.2.2 }

/-- A block whose reads arrive one cycle late: its spare serves it, in the march and restore phases of a slice that runs on it
or since it failed one (R54, R443). The copy phase, 2,048 ns, reads the block itself. -/
def ramSlow (s : State) (block : Nat) : Bool :=
  s.bst.spares.contains block ||
    s.bst.slices.any (fun e => match e.2 with
      | some x => x.test == 1 && x.target == block && decide (x.t + 2048 ≤ s.uptime)
      | none => false)

/-- The reads on their way after an edge: each is one edge nearer, and a new one joins them. Reads leave in order, one an edge,
so that one that a slice delayed is not overtaken (R54) (DESIGN CHOICE, log entry 73). -/
def pipeNext (p : List (Nat × RamLatch)) (delay : Nat) (read : Option RamLatch) : List (Nat × RamLatch) :=
  (p.map fun e => (e.1 - 1, e.2)) ++ (match read with | some x => [(delay, x)] | none => [])

/-- One port's outputs after an edge at which it made a read, or none. A read arrives at once, or one edge later for the output
register, and one more while the spare serves the block (R50, R54). oreg_rst clears the output register and prevails over
oreg_ce; a read that is due while the register is reset or not enabled is lost (DESIGN CHOICE, log entry 73). -/
def portEdge (oreg slow ce rst : Bool) (read : Option RamLatch) (p : RamPort) : RamPort :=
  let q := pipeNext p.pipe (b2n oreg + b2n slow) read
  let due : Option RamLatch := match q with | (0, x) :: _ => some x | _ => none
  let p1 := { p with pipe := if due.isSome then q.tail else q }
  if oreg && rst then { p1 with dout := 0, valid := false, sbe := false, dbe := false }
  else if oreg && !ce then { p1 with valid := false }
  else match due with
    | some x => { p1 with dout := x.data, valid := true, sbe := x.sbe, dbe := x.dbe }
    | none => { p1 with valid := false }

/-- What one port's edge reads. `word0` is the word before the edge: with a common clock the other port's write is not
seen (R51). A read within 0.8 ns of the other port's write reads a free word, and in ECC64 its flags are those of that word
(DESIGN CHOICE, log entry 73). After a write the read data count as read, with rd_valid high, in READ_FIRST and WRITE_FIRST and
not in NO_CHANGE (R50; DESIGN CHOICE, log entry 73). -/
def portRead (s : State) (c : RamCfg) (e : RamEdge) (free : Nat) (word0 : BitVec 72) : Option RamLatch :=
  let old := ramRead c (if e.near != 0 then (Config.freeBits free).setWidth 72 else word0)
  if !e.en then none
  else if ramWrites s c e then
    match c.wmode with
    | .readFirst => some old
    | .writeFirst => some (ramRead c (putBytes9 word0 (ramDin c e) (ramBytes c e)))
    | .noChange => none
  else some old

/-- The 9-bit bytes of a port's write that its own data fill. Where the other port wrote the same word within 0.8 ns on an
unrelated clock, a free value says for each byte that both wrote whose data it holds (R51). -/
def portBytes (c : RamCfg) (e : RamEdge) (free : Nat) (other : RamPort) : List Nat :=
  (ramBytes c e).filter fun i =>
    match other.wrote with
    | some (a, bs) => e.near != 2 || a != ramWord c e || !bs.contains i || (Config.freeBits (free + 1)).getLsbD i
    | none => true

/-- The design's configuration of a block. -/
def ramCfgOf (s : State) (block : Nat) : RamCfg := SMap.get dRamCfg s.design.rams block

def dRamIn : Nat → RamEdge := fun n => { block := n / 2, portB := n % 2 == 1 }

/-- A port's access at an edge: its outputs, and the words its reads and writes leave. `near` is that of the edge alone. Port b's
accesses of an edge are made before port a's, so that port a's data are stored where both write one word (R51). -/
def ramEdge (s : State) (ram0 : SMap (BitVec 72)) (near : Nat → Nat) (f : Fab) (id : Nat) : Fab :=
  let c := ramCfgOf s (id / 2)
  let e := { SMap.get dRamIn f.ramIn id with near := near id, block := id / 2 }
  let a := ramWord c e
  let free := s.free + 2 * id
  let rd := portRead s c e free (SMap.get dW72 ram0 a)
  let w := ramWrites s c e
  let other := SMap.get dRamPort f.ports (if id % 2 = 0 then id + 1 else id - 1)
  let p := portEdge (if id % 2 = 1 then c.oregB else c.oregA) (ramSlow s (id / 2)) e.oregCe e.oregRst rd
    (SMap.get dRamPort f.ports id)
  { f with
    ram := if w then SMap.set dW72 f.ram a (putBytes9 (SMap.get dW72 f.ram a) (ramDin c e) (portBytes c e free other))
           else f.ram,
    ports := SMap.set dRamPort f.ports id { p with wrote := if w then some (a, ramBytes c e) else none } }

/-- The ports that take a rising edge of a net: those whose clock it is, in a band where it runs (R49, R62, R63), but for a block that a
full-mode test has out of service (R452). -/
def ramPorts (s : State) (net : Nat) : List Nat :=
  let on := s.design.rams.filter fun e => netRuns s net (ramBand e.1) && !outOfService s 0x81 e.1
  ((on.filter fun e => e.2.netB == some net).map fun e => 2 * e.1 + 1) ++
    (on.filter fun e => e.2.netA == some net).map fun e => 2 * e.1

/-! ## DSP block -/

/-- A 27-bit operand as the image's signedness reads it (R56). -/
def dspVal (signed : Bool) (v : BitVec 27) : Int := if signed then v.toInt else v.toNat

/-- The lower 27 bits of a pre-adder sum, and whether it left the range of the signedness (R57). -/
def preNarrow (signed : Bool) (n : Int) : Int × Bool :=
  let low := BitVec.ofInt 27 n
  let v := dspVal signed low
  (v, v != n)

/-- The accumulator narrowed to 64 bits, wrapping or saturating, and q_ovf (R58). -/
def accNarrow (saturate : Bool) (n : Int) : BitVec 64 × Bool :=
  if n > 9223372036854775807 then (if saturate then 0x7FFFFFFFFFFFFFFF else BitVec.ofInt 64 n, true)
  else if n < -9223372036854775808 then (if saturate then 0x8000000000000000 else BitVec.ofInt 64 n, true)
  else (BitVec.ofInt 64 n, false)

/-- The accumulator source (R56, Table 2.3), of the block's own result and the result of the block below. -/
def accSource (e : DspEdge) (q qcin : BitVec 64) : Int :=
  match e.accSel with
  | 1 => q.toInt
  | 2 => e.ad.toInt
  | 3 => qcin.toInt
  | 4 => (qcin.sshiftRight 27).toInt
  | _ => 0

def dDspCfg : Nat → DspCfg := fun _ => {}
def dDspIn : Nat → DspEdge := fun d => { dsp := d }
def dDspReg : Nat → DspReg := fun _ => {}

/-- What the stages of a DSP block are given and pass on: each stage that is registered passes on what it holds, each other one
what it is given (R59). The pre-adder is signed if mx or pz is (DESIGN CHOICE, log entry 15). mx_sel, pre_en, pre_neg, acc_sel and
neg act where their stage computes and are not carried along with the operands (DESIGN CHOICE, log entry 15). -/
structure DspFlow where
  mxIn : BitVec 27                       -- into the operand registers
  x    : Int                             -- into the pre-adder stage
  y    : Int
  xv   : Bool
  prod : Int                             -- into the multiplier stage
  pv   : Bool
  acc  : Int                             -- into the accumulator-source stage, with the product beside it
  ap   : Int
  av   : Bool
  q    : BitVec 64                       -- into the q stage
  qv   : Bool
  pre  : Bool
  mxOut : BitVec 27                      -- mxcout: the operand as the multiplier's stage takes it
  deriving DecidableEq, Repr, Inhabited

/-- The flow through a block. A block whose accumulator source is its own result, with neither the accumulator source nor q
registered, is a loop without a register: its source is a free value (R56; DESIGN CHOICE, log entry 15). -/
def dspFlow (c : DspCfg) (e : DspEdge) (r : DspReg) (mxcin : BitVec 27) (qcin : BitVec 64) (free : Nat) : DspFlow :=
  let mxIn := if e.mxSel then mxcin else e.mx
  let mx := if c.stages.getLsbD 0 then r.mx else mxIn
  let my := if c.stages.getLsbD 0 then r.my else e.my
  let pz := if c.stages.getLsbD 0 then r.pz else e.pz
  let m := dspVal c.sx mx
  let pre := preNarrow (c.sx || c.sz) (if e.preNeg then dspVal c.sz pz - m else dspVal c.sz pz + m)
  let xIn := if e.preEn then pre.1 else m
  let yIn := dspVal c.sy my
  let xo := e.preEn && pre.2
  let x := if c.stages.getLsbD 1 then r.x else xIn
  let y := if c.stages.getLsbD 1 then r.y else yIn
  let xv := if c.stages.getLsbD 1 then r.xOvf else xo
  let prod := if c.stages.getLsbD 2 then r.prod else x * y
  let pv := if c.stages.getLsbD 2 then r.pOvf else xv
  let sum := fun acc ap : Int => accNarrow c.saturate (if e.neg then acc - ap else acc + ap)
  -- the block's own result: the register, or the sum of the registered accumulator source
  let own := if c.stages.getLsbD 4 then r.q
    else if c.stages.getLsbD 3 then (sum r.acc r.accP).1 else (Config.freeBits free).setWidth 64
  let accIn := accSource e own qcin
  let acc := if c.stages.getLsbD 3 then r.acc else accIn
  let ap := if c.stages.getLsbD 3 then r.accP else prod
  let av := if c.stages.getLsbD 3 then r.aOvf else pv
  let qn := sum acc ap
  { mxIn := mxIn, x := xIn, y := yIn, xv := xo, prod := x * y, pv := xv, acc := accIn, ap := prod, av := pv,
    q := qn.1, qv := qn.2, pre := av, mxOut := mx }

/-- The outputs of a block: the q registers, or what flows through where q is not registered (R59). -/
def dspOutOf (c : DspCfg) (r : DspReg) (w : DspFlow) : DspOut :=
  if c.stages.getLsbD 4 then { q := r.q, qOvf := r.qOvf, preOvf := r.preOvf, mxOut := w.mxOut }
  else { q := w.q, qOvf := w.qv, preOvf := w.pre, mxOut := w.mxOut }

/-- The outputs of the block `k` above block `base`, the lowest of its column and band (R59): cascades run upward from it and do
not cross the band boundary, so that its own cascade inputs are connected to nothing: free values (DESIGN CHOICE, log
entry 15). -/
def dspChain (s : State) (f : Fab) (base : Nat) : Nat → DspFlow × DspOut
  | 0 =>
    let c := SMap.get dDspCfg s.design.dsps base
    let r := SMap.get dDspReg f.dsps base
    let free := s.free + 12288 + 3 * base
    let w := dspFlow c (SMap.get dDspIn f.dspIn base) r ((Config.freeBits free).setWidth 27)
      ((Config.freeBits (free + 1)).setWidth 64) (free + 2)
    (w, dspOutOf c r w)
  | k + 1 =>
    let b := (dspChain s f base k).2
    let c := SMap.get dDspCfg s.design.dsps (base + k + 1)
    let r := SMap.get dDspReg f.dsps (base + k + 1)
    let w := dspFlow c (SMap.get dDspIn f.dspIn (base + k + 1)) r b.mxOut b.q (s.free + 12288 + 3 * (base + k + 1) + 2)
    (w, dspOutOf c r w)

/-- The flow through a DSP block, and its outputs. -/
def dspView (s : State) (f : Fab) (d : Nat) : DspFlow × DspOut := dspChain s f (d / 16 * 16) (d % 16)

/-- The registers of a DSP block after an edge (R59): each registered stage takes what it is given where its enable is set, and
a stage that is not registered holds nothing. The product stays beside the accumulator source, so that each registered stage
adds one cycle (DESIGN CHOICE, log entry 15). -/
def dspNext (c : DspCfg) (e : DspEdge) (w : DspFlow) (r : DspReg) : DspReg :=
  if e.rst then {}
  else
    let t := fun i => e.ce.getLsbD i && c.stages.getLsbD i
    { mx := if t 0 then w.mxIn else r.mx, my := if t 0 then e.my else r.my, pz := if t 0 then e.pz else r.pz,
      x := if t 1 then w.x else r.x, y := if t 1 then w.y else r.y, xOvf := if t 1 then w.xv else r.xOvf,
      prod := if t 2 then w.prod else r.prod, pOvf := if t 2 then w.pv else r.pOvf,
      acc := if t 3 then w.acc else r.acc, accP := if t 3 then w.ap else r.accP, aOvf := if t 3 then w.av else r.aOvf,
      q := if t 4 then w.q else r.q, qOvf := if t 4 then w.qv else r.qOvf, preOvf := if t 4 then w.pre else r.preOvf }

/-- The blocks that take a rising edge of a net. -/
def dspsOf (s : State) (net : Nat) : List Nat :=
  (s.design.dsps.filter fun e => e.2.net == some net && netRuns s net (dspBand e.1)).map (·.1)

/-! ## An edge of a net -/

/-- The inputs from routing that have changed. -/
def takeInputs (e : ClockEdge) (f : Fab) : Fab :=
  { f with
    tileIn := e.tiles.foldl (fun m x => SMap.set dTileIn m x.tile x) f.tileIn,
    ramIn := e.rams.foldl (fun m x => SMap.set dRamIn m (2 * x.block + b2n x.portB) { x with near := 0 }) f.ramIn,
    dspIn := e.dsps.foldl (fun m x => SMap.set dDspIn m x.dsp x) f.dspIn }

/-- The tiles that an edge concerns: those with a clock input on the net, and those whose inputs changed, for their
asynchronous set/reset. -/
def edgeTiles (s : State) (e : ClockEdge) : List Nat :=
  ((s.design.tiles.filter fun x => x.2.net0 == some e.net || x.2.net1 == some e.net).map (·.1)
    ++ e.tiles.map (·.tile)).eraseDups

/-- The storage of the fabric after an edge: every element takes what its inputs and the other elements showed before it. -/
def fabEdge (s : State) (e : ClockEdge) : Fab :=
  let f0 := takeInputs e s.fab
  let near := fun id => ((e.rams.find? fun x => 2 * x.block + b2n x.portB == id).map (·.near)).getD 0
  let ts := edgeTiles s e
  let f1 := { f0 with
    ffs := ts.foldl (fun m t => SMap.set dFf m t (tileEdge s e.net e.rising f0 t)) f0.ffs }
  if e.rising then
    let f2 := (ramPorts s e.net).foldl (ramEdge s f0.ram near) f1
    { f2 with
      dsps := (dspsOf s e.net).foldl (fun m d => SMap.set dDspReg m d
        (dspNext (SMap.get dDspCfg s.design.dsps d) (SMap.get dDspIn f0.dspIn d) (dspView s f0 d).1
          (SMap.get dDspReg f0.dsps d))) f0.dsps }
  else f1

/-- What the elements that an edge concerns then show (R43, R46, R50, R59). -/
def edgeOuts (s : State) (e : ClockEdge) (f : Fab) : List Out :=
  ((edgeTiles s e).map fun t => Out.tile t (tileOut s f t)) ++
    (if e.rising then
      ((ramPorts s e.net).map fun id =>
        let p := SMap.get dRamPort f.ports id
        Out.ram id p.dout p.valid p.sbe p.dbe) ++
      (dspsOf s e.net).map fun d => Out.dsp d (dspView s f d).2
    else [])

/-- Whether an edge can come: a net rises from low while its driver drives it and it is enabled, and falls from high; a PLL
output that is stopped completes its high phase (R62, R70). -/
def edgeComes (s : State) (e : ClockEdge) : Bool :=
  e.net < 448 && if e.rising then !SMap.get (fun _ => false) s.clk.high e.net && netDriven s e.net && netEnabled s e.net
    else SMap.get (fun _ => false) s.clk.high e.net

/-- An edge of a user clock net: every element on the net takes it, with the inputs from routing as they stand (DESIGN CHOICE, log
entry 14). Each port has two free values of its own and each DSP block three. -/
def userClockEdge (e : ClockEdge) (s : State) : State :=
  if edgeComes s e then
    let f := fabEdge s e
    { s with
      fab := f, free := s.free + 24576, out := s.out ++ edgeOuts s e f,
      clk := { s.clk with
        high := SMap.set (fun _ => false) s.clk.high e.net e.rising } }
  else s

/-- USER_CLOCK_EDGE (R50). -/
def execUserClockEdge (e : ClockEdge) (s : State) : Host.Outcome State Fault Refusal := done (userClockEdge e) s

end Sys2Proof.Machine
end

