-- ==== Sys2Proof/Machine/Dispatch.lean ====
section
/-! DEFINITION. The meaning of every command: one arm per row of the table. Each acts on everything but the
queue of waiting commands. -/
namespace Sys2Proof.Machine
open Sys2Proof

def exec (i : Instr) (s : State) : Host.Outcome State Fault Refusal :=
  match i with
  | .supplyLoss => Sys2Proof.Machine.execSupplyLoss s
  | .bootStart cfgMode romOk vccioMv => Sys2Proof.Machine.execBootStart cfgMode romOk vccioMv s
  | .warmReset lowNs => Sys2Proof.Machine.execWarmReset lowNs s
  | .tapReset => Sys2Proof.Machine.execTapReset s
  | .streamSync ld ignored => Sys2Proof.Machine.execStreamSync ld ignored s
  | .manifestVerify ld bytes => Sys2Proof.Machine.execManifestVerify ld bytes s
  | .nop ld hdr => Sys2Proof.Machine.execNop ld hdr s
  | .far ld arg w => Sys2Proof.Machine.execFar ld arg w s
  | .fdata ld arg body => Sys2Proof.Machine.execFdata ld arg body s
  | .setreg ld arg w => Sys2Proof.Machine.execSetreg ld arg w s
  | .roll ld arg body => Sys2Proof.Machine.execRoll ld arg body s
  | .chunk ld arg body => Sys2Proof.Machine.execChunk ld arg body s
  | .tag ld arg body => Sys2Proof.Machine.execTag ld arg body s
  | .check ld arg w => Sys2Proof.Machine.execCheck ld arg w s
  | .startup ld arg => Sys2Proof.Machine.execStartup ld arg s
  | .region ld arg body => Sys2Proof.Machine.execRegion ld arg body s
  | .sigs ld arg body => Sys2Proof.Machine.execSigs ld arg body s
  | .desync ld arg => Sys2Proof.Machine.execDesync ld arg s
  | .streamWrite bytes => Sys2Proof.Machine.execStreamWrite bytes s
  | .statusRead => Sys2Proof.Machine.execStatusRead s
  | .winWrite addr ws => Sys2Proof.Machine.execWinWrite addr ws s
  | .winRead addr n => Sys2Proof.Machine.execWinRead addr n s
  | .sppWord w => Sys2Proof.Machine.execSppWord w s
  | .startupPhase => Sys2Proof.Machine.execStartupPhase s
  | .waitEventComplete => Sys2Proof.Machine.execWaitEventComplete s
  | .icpBeat icp data sop eop region => Sys2Proof.Machine.execIcpBeat icp data sop eop region s
  | .directLoadWait ld => Sys2Proof.Machine.execDirectLoadWait ld s
  | .prepareSwap d => Sys2Proof.Machine.execPrepareSwap d s
  | .verifyDone target => Sys2Proof.Machine.execVerifyDone target s
  | .commitSwap d => Sys2Proof.Machine.execCommitSwap d s
  | .swapDecision target alive => Sys2Proof.Machine.execSwapDecision target alive s
  | .switchingEdge target region => Sys2Proof.Machine.execSwitchingEdge target region s
  | .swapCycleEnd target region => Sys2Proof.Machine.execSwapCycleEnd target region s
  | .commitTimeout target => Sys2Proof.Machine.execCommitTimeout target s
  | .abortSwap d => Sys2Proof.Machine.execAbortSwap d s
  | .scrubPassStart band path1 path2 => Sys2Proof.Machine.execScrubPassStart band path1 path2 s
  | .frameCheck band upsets tmr path1 path2 => Sys2Proof.Machine.execFrameCheck band upsets tmr path1 path2 s
  | .frameReload far plane r path1 path2 => Sys2Proof.Machine.execFrameReload far plane r path1 path2 s
  | .microcodeParityError => Sys2Proof.Machine.execMicrocodeParityError s
  | .activePeriodDouble => Sys2Proof.Machine.execActivePeriodDouble s
  | .niInject ep rsp flits => Sys2Proof.Machine.execNiInject ep rsp flits s
  | .rd p => Sys2Proof.Machine.execRd p s
  | .wrNp p => Sys2Proof.Machine.execWrNp p s
  | .wrP p => Sys2Proof.Machine.execWrP p s
  | .mcw p => Sys2Proof.Machine.execMcw p s
  | .rdRsp p => Sys2Proof.Machine.execRdRsp p s
  | .wrRsp p => Sys2Proof.Machine.execWrRsp p s
  | .mgRd p => Sys2Proof.Machine.execMgRd p s
  | .mgWr p => Sys2Proof.Machine.execMgWr p s
  | .mgRsp p => Sys2Proof.Machine.execMgRsp p s
  | .nocTimeout ep tag => Sys2Proof.Machine.execNocTimeout ep tag s
  | .ejectionStall ep => Sys2Proof.Machine.execEjectionStall ep s
  | .routeDrainDone => Sys2Proof.Machine.execRouteDrainDone s
  | .routeUpdateTimeout => Sys2Proof.Machine.execRouteUpdateTimeout s
  | .rtrClear acc v => Sys2Proof.Machine.execRtrClear acc v s
  | .acceptedEdge port level word => Sys2Proof.Machine.execAcceptedEdge port level word s
  | .tsLoRead acc => Sys2Proof.Machine.execTsLoRead acc s
  | .schedPush acc v => Sys2Proof.Machine.execSchedPush acc v s
  | .schedFlush acc v => Sys2Proof.Machine.execSchedFlush acc v s
  | .scheduleApply port => Sys2Proof.Machine.execScheduleApply port s
  | .modeChange acc v => Sys2Proof.Machine.execModeChange acc v s
  | .levelWrite acc v => Sys2Proof.Machine.execLevelWrite acc v s
  | .safeClear acc v => Sys2Proof.Machine.execSafeClear acc v s
  | .pwmEdge port => Sys2Proof.Machine.execPwmEdge port s
  | .quadTransition port => Sys2Proof.Machine.execQuadTransition port s
  | .pairDataWrite acc v => Sys2Proof.Machine.execPairDataWrite acc v s
  | .pairDataRead acc => Sys2Proof.Machine.execPairDataRead acc s
  | .encoderFrame port => Sys2Proof.Machine.execEncoderFrame port s
  | .encoderFrameEnd port => Sys2Proof.Machine.execEncoderFrameEnd port s
  | .uartRxByte port => Sys2Proof.Machine.execUartRxByte port s
  | .uartTxByte port => Sys2Proof.Machine.execUartTxByte port s
  | .refLost => Sys2Proof.Machine.execRefLost s
  | .refReturn => Sys2Proof.Machine.execRefReturn s
  | .ppsEdge => Sys2Proof.Machine.execPpsEdge s
  | .syncMessage macPort gmNs rate => Sys2Proof.Machine.execSyncMessage macPort gmNs rate s
  | .ppsTimeout => Sys2Proof.Machine.execPpsTimeout s
  | .syncTimeout => Sys2Proof.Machine.execSyncTimeout s
  | .nowLoRead acc => Sys2Proof.Machine.execNowLoRead acc s
  | .ppsOutPulse => Sys2Proof.Machine.execPpsOutPulse s
  | .ppsPulseEnd => Sys2Proof.Machine.execPpsPulseEnd s
  | .pllApply acc v => Sys2Proof.Machine.execPllApply acc v s
  | .pllLock pll => Sys2Proof.Machine.execPllLock pll s
  | .lossOfLock pll refGone => Sys2Proof.Machine.execLossOfLock pll refGone s
  | .fcountStart acc v => Sys2Proof.Machine.execFcountStart acc v s
  | .fcountDone khz => Sys2Proof.Machine.execFcountDone khz s
  | .smnResult ch code => Sys2Proof.Machine.execSmnResult ch code s
  | .tempSample codes => Sys2Proof.Machine.execTempSample codes s
  | .minmaxClear acc v => Sys2Proof.Machine.execMinmaxClear acc v s
  | .termFire table rfxIn => Sys2Proof.Machine.execTermFire table rfxIn s
  | .flowInterval src dst => Sys2Proof.Machine.execFlowInterval src dst s
  | .event e => Sys2Proof.Machine.execEvent e s
  | .rfxArm acc v => Sys2Proof.Machine.execRfxArm acc v s
  | .start dom ring => Sys2Proof.Machine.execStart dom ring s
  | .stop dom ring => Sys2Proof.Machine.execStop dom ring s
  | .assign dom ring => Sys2Proof.Machine.execAssign dom ring s
  | .safe dom ring => Sys2Proof.Machine.execSafe dom ring s
  | .rediscover dom ring => Sys2Proof.Machine.execRediscover dom ring s
  | .safeMask dom ring v => Sys2Proof.Machine.execSafeMask dom ring v s
  | .cycleFrame ring => Sys2Proof.Machine.execCycleFrame ring s
  | .cycleReturn ring groups => Sys2Proof.Machine.execCycleReturn ring groups s
  | .returnDeadline ring => Sys2Proof.Machine.execReturnDeadline ring s
  | .discoverFrame ring groups => Sys2Proof.Machine.execDiscoverFrame ring groups s
  | .assignFrame ring groups => Sys2Proof.Machine.execAssignFrame ring groups s
  | .configFrame ring groups => Sys2Proof.Machine.execConfigFrame ring groups s
  | .delayFrame ring groups loop => Sys2Proof.Machine.execDelayFrame ring groups loop s
  | .safeFrame ring groups => Sys2Proof.Machine.execSafeFrame ring groups s
  | .resetFrame ring groups => Sys2Proof.Machine.execResetFrame ring groups s
  | .rxSync ring groups => Sys2Proof.Machine.execRxSync ring groups s
  | .ringBreak ring groups => Sys2Proof.Machine.execRingBreak ring groups s
  | .startSyncTimeout ring => Sys2Proof.Machine.execStartSyncTimeout ring s
  | .stopTimeout ring => Sys2Proof.Machine.execStopTimeout ring s
  | .perstDeassert p => Sys2Proof.Machine.execPerstDeassert p s
  | .linkUp p gen width => Sys2Proof.Machine.execLinkUp p gen width s
  | .hostLoss p cause => Sys2Proof.Machine.execHostLoss p cause s
  | .window0Tlp p addr t => Sys2Proof.Machine.execWindow0Tlp p addr t s
  | .window2Tlp p off t => Sys2Proof.Machine.execWindow2Tlp p off t s
  | .xltCtrl acc v => Sys2Proof.Machine.execXltCtrl acc v s
  | .hostLossRelease acc v => Sys2Proof.Machine.execHostLossRelease acc v s
  | .hostCompletion p tag ok data => Sys2Proof.Machine.execHostCompletion p tag ok data s
  | .outboundTimeout p tag => Sys2Proof.Machine.execOutboundTimeout p tag s
  | .rxFrame port bytes fcsOk tsNs dma => Sys2Proof.Machine.execRxFrame port bytes fcsOk tsNs dma s
  | .tailWrite acc tx v => Sys2Proof.Machine.execTailWrite acc tx v s
  | .txFrame port dma tsNs frags => Sys2Proof.Machine.execTxFrame port dma tsNs frags s
  | .portEnable acc v => Sys2Proof.Machine.execPortEnable acc v s
  | .gclCommit acc v => Sys2Proof.Machine.execGclCommit acc v s
  | .gclSwitch port => Sys2Proof.Machine.execGclSwitch port s
  | .gateInterval port => Sys2Proof.Machine.execGateInterval port s
  | .preemptVerify port => Sys2Proof.Machine.execPreemptVerify port s
  | .rxSlip lane => Sys2Proof.Machine.execRxSlip lane s
  | .xcvLossOfLock quad refGone => Sys2Proof.Machine.execXcvLossOfLock quad refGone s
  | .doorbell acc d v => Sys2Proof.Machine.execDoorbell acc d v s
  | .cplHeadWrite acc d v => Sys2Proof.Machine.execCplHeadWrite acc d v s
  | .ringReset acc d v => Sys2Proof.Machine.execRingReset acc d v s
  | .mcRestart => Sys2Proof.Machine.execMcRestart s
  | .mcRestartDone => Sys2Proof.Machine.execMcRestartDone s
  | .avsPeriod margins => Sys2Proof.Machine.execAvsPeriod margins s
  | .marginReport => Sys2Proof.Machine.execMarginReport s
  | .idleBandCheck => Sys2Proof.Machine.execIdleBandCheck s
  | .identify d => Sys2Proof.Machine.execIdentify d s
  | .getStatus d corrected => Sys2Proof.Machine.execGetStatus d corrected s
  | .getReport d => Sys2Proof.Machine.execGetReport d s
  | .setPolicy d => Sys2Proof.Machine.execSetPolicy d s
  | .getPolicy d => Sys2Proof.Machine.execGetPolicy d s
  | .resetDomain d => Sys2Proof.Machine.execResetDomain d s
  | .claimRegion d => Sys2Proof.Machine.execClaimRegion d s
  | .releaseRegion d => Sys2Proof.Machine.execReleaseRegion d s
  | .setFirewall d => Sys2Proof.Machine.execSetFirewall d s
  | .setHostLossPolicy d => Sys2Proof.Machine.execSetHostLossPolicy d s
  | .loadImage d => Sys2Proof.Machine.execLoadImage d s
  | .loadPartial d => Sys2Proof.Machine.execLoadPartial d s
  | .readbackRegion d => Sys2Proof.Machine.execReadbackRegion d s
  | .storeImage d container => Sys2Proof.Machine.execStoreImage d container s
  | .selectImage d => Sys2Proof.Machine.execSelectImage d s
  | .storePartial d container => Sys2Proof.Machine.execStorePartial d container s
  | .wrapKey d => Sys2Proof.Machine.execWrapKey d s
  | .nvProtect d => Sys2Proof.Machine.execNvProtect d s
  | .nvUnlock d => Sys2Proof.Machine.execNvUnlock d s
  | .nvSetPassword d => Sys2Proof.Machine.execNvSetPassword d s
  | .nvRefreshScan d => Sys2Proof.Machine.execNvRefreshScan d s
  | .nvGrantUrgent d => Sys2Proof.Machine.execNvGrantUrgent d s
  | .nocMuzzle d => Sys2Proof.Machine.execNocMuzzle d s
  | .nocRehabilitate d => Sys2Proof.Machine.execNocRehabilitate d s
  | .nocRemap d => Sys2Proof.Machine.execNocRemap d s
  | .nocRouteUpdate d => Sys2Proof.Machine.execNocRouteUpdate d s
  | .uanStartRing d => Sys2Proof.Machine.execUanStartRing d s
  | .uanStopRing d => Sys2Proof.Machine.execUanStopRing d s
  | .uanGetTopology d => Sys2Proof.Machine.execUanGetTopology d s
  | .uanAssign d => Sys2Proof.Machine.execUanAssign d s
  | .uanSafe d => Sys2Proof.Machine.execUanSafe d s
  | .pwrRequestState d => Sys2Proof.Machine.execPwrRequestState d s
  | .pwrSetSentry d => Sys2Proof.Machine.execPwrSetSentry d s
  | .pwrGetAccounting d => Sys2Proof.Machine.execPwrGetAccounting d s
  | .timeSet d => Sys2Proof.Machine.execTimeSet d s
  | .timeDiscipline d => Sys2Proof.Machine.execTimeDiscipline d s
  | .bistSchedule d => Sys2Proof.Machine.execBistSchedule d s
  | .bistRun d => Sys2Proof.Machine.execBistRun d s
  | .bistRunTimeout d tag => Sys2Proof.Machine.execBistRunTimeout d tag s
  | .bistGetResult d => Sys2Proof.Machine.execBistGetResult d s
  | .lcTransition d => Sys2Proof.Machine.execLcTransition d s
  | .dbgChallenge d => Sys2Proof.Machine.execDbgChallenge d s
  | .dbgGrant d => Sys2Proof.Machine.execDbgGrant d s
  | .dbgRevoke d => Sys2Proof.Machine.execDbgRevoke d s
  | .qTailWrite acc v => Sys2Proof.Machine.execQTailWrite acc v s
  | .cqHeadWrite acc v => Sys2Proof.Machine.execCqHeadWrite acc v s
  | .queueEnable acc v => Sys2Proof.Machine.execQueueEnable acc v s
  | .descriptorStart q fetch => Sys2Proof.Machine.execDescriptorStart q fetch s
  | .read q tag part r => Sys2Proof.Machine.execRead q tag part r s
  | .program q tag part r => Sys2Proof.Machine.execProgram q tag part r s
  | .erase q tag part r => Sys2Proof.Machine.execErase q tag part r s
  | .verify q tag part r => Sys2Proof.Machine.execVerify q tag part r s
  | .blankCheck q tag part r => Sys2Proof.Machine.execBlankCheck q tag part r s
  | .marginRead q tag part r => Sys2Proof.Machine.execMarginRead q tag part r s
  | .copy q tag part r => Sys2Proof.Machine.execCopy q tag part r s
  | .xipDeclare q tag => Sys2Proof.Machine.execXipDeclare q tag s
  | .xipRelease q tag => Sys2Proof.Machine.execXipRelease q tag s
  | .partDone q tag wr => Sys2Proof.Machine.execPartDone q tag wr s
  | .directRead p => Sys2Proof.Machine.execDirectRead p s
  | .gapMove bank => Sys2Proof.Machine.execGapMove bank s
  | .gapCopyDone bank => Sys2Proof.Machine.execGapCopyDone bank s
  | .gapEraseDone bank => Sys2Proof.Machine.execGapEraseDone bank s
  | .tornScanDone => Sys2Proof.Machine.execTornScanDone s
  | .nvRefreshStep bank sector differs => Sys2Proof.Machine.execNvRefreshStep bank sector differs s
  | .voteAnswer band voter v => Sys2Proof.Machine.execVoteAnswer band voter v s
  | .voteTimeout band => Sys2Proof.Machine.execVoteTimeout band s
  | .userSample band stay wait => Sys2Proof.Machine.execUserSample band stay wait s
  | .bandWake band => Sys2Proof.Machine.execBandWake band s
  | .bandPowerGood band => Sys2Proof.Machine.execBandPowerGood band s
  | .offReloadDone band r bad => Sys2Proof.Machine.execOffReloadDone band r bad s
  | .wakeEvent cause num edgeWindow => Sys2Proof.Machine.execWakeEvent cause num edgeWindow s
  | .sentrySample bits codes => Sys2Proof.Machine.execSentrySample bits codes s
  | .wakeRetry rail => Sys2Proof.Machine.execWakeRetry rail s
  | .rtcFallback => Sys2Proof.Machine.execRtcFallback s
  | .pmbusPoll reads => Sys2Proof.Machine.execPmbusPoll reads s
  | .readVoutPoll rail mv pecBad => Sys2Proof.Machine.execReadVoutPoll rail mv pecBad s
  | .voutTimeout rail => Sys2Proof.Machine.execVoutTimeout rail s
  | .pmbusRetry rail acked => Sys2Proof.Machine.execPmbusRetry rail acked s
  | .pmbAlert words pecBad => Sys2Proof.Machine.execPmbAlert words pecBad s
  | .kennelData acc wr => Sys2Proof.Machine.execKennelData acc wr s
  | .rtcLoRead acc => Sys2Proof.Machine.execRtcLoRead acc s
  | .entryDue entry => Sys2Proof.Machine.execEntryDue entry s
  | .sliceEnd slot r => Sys2Proof.Machine.execSliceEnd slot r s
  | .sliceBudget slot patterns misr => Sys2Proof.Machine.execSliceBudget slot patterns misr s
  | .otpRunEnd => Sys2Proof.Machine.execOtpRunEnd s
  | .returnEraseDone => Sys2Proof.Machine.execReturnEraseDone s
  | .nonceExpiry h => Sys2Proof.Machine.execNonceExpiry h s
  | .leashExpiry slot => Sys2Proof.Machine.execLeashExpiry slot s
  | .extest dr => Sys2Proof.Machine.execExtest dr s
  | .samplePreload dr => Sys2Proof.Machine.execSamplePreload dr s
  | .idcode => Sys2Proof.Machine.execIdcode s
  | .highz => Sys2Proof.Machine.execHighz s
  | .clamp => Sys2Proof.Machine.execClamp s
  | .extestPulse dr => Sys2Proof.Machine.execExtestPulse dr s
  | .extestTrain dr => Sys2Proof.Machine.execExtestTrain dr s
  | .lcStatus => Sys2Proof.Machine.execLcStatus s
  | .keyLoad pkg => Sys2Proof.Machine.execKeyLoad pkg s
  | .csrAccess dr => Sys2Proof.Machine.execCsrAccess dr s
  | .frameReadback far => Sys2Proof.Machine.execFrameReadback far s
  | .bypass code => Sys2Proof.Machine.execBypass code s
  | .csrEndpointAccess p => Sys2Proof.Machine.execCsrEndpointAccess p s
  | .registerWrite acc addr v => Sys2Proof.Machine.execRegisterWrite acc addr v s
  | .ethLinkChange port up anDone fecLock => Sys2Proof.Machine.execEthLinkChange port up anDone fecLock s
  | .configRequest p r => Sys2Proof.Machine.execConfigRequest p r s
  | .laneTraffic lane => Sys2Proof.Machine.execLaneTraffic lane s
  | .rxLockChange lane locked => Sys2Proof.Machine.execRxLockChange lane locked s
  | .rawWordTime lane rx txPush rxPop txIdle => Sys2Proof.Machine.execRawWordTime lane rx txPush rxPop txIdle s
  | .quadPllLock quad => Sys2Proof.Machine.execQuadPllLock quad s
  | .userClockEdge e => Sys2Proof.Machine.execUserClockEdge e s
  | .fpOutChange port out oe word => Sys2Proof.Machine.execFpOutChange port out oe word s
  | .stayAwakeRise band => Sys2Proof.Machine.execStayAwakeRise band s
  | .rtcTick => Sys2Proof.Machine.execRtcTick s
  | .nvRefreshOverdue bank sector => Sys2Proof.Machine.execNvRefreshOverdue bank sector s

end Sys2Proof.Machine
end

