-- ==== Sys2Proof/Machine/Time.lean ====
section
/-! DEFINITION. One cycle of PCLK, a nanosecond, in which no command comes (DESIGN CHOICE, log entry 7): the model's clock and the
Device Timebase advance, and a self-test run that waits starts as soon as it may (R252, R255, R447). -/
namespace Sys2Proof.Machine
open Sys2Proof

/-- The DTB one nanosecond later, with its rate adjustment (R252, R255). -/
def dtbTick (t : Tbs) : Tbs :=
  if t.run then { t with dtb := (((t.dtb : Int) + 0x100000000000 + 16 * t.rate) % 0x1000000000000000000000000000).toNat }
  else t

/-- One cycle of PCLK (DESIGN CHOICE, log entry 32). -/
def tick (s : State) : State :=
  startWaiting { s with uptime := s.uptime + 1, out := [], tbs := dtbTick s.tbs }

end Sys2Proof.Machine
end

