-- ==== Sys2Proof/Safety.lean ====
section
/-! DEFINITION. What the model's claims hold of every state: the ranges of fields that only a step could break, and what
no step may undo. -/
namespace Sys2Proof.Machine

/-- The state in which a command acts: the outputs of the command before are gone. -/
abbrev State.start (s : State) : State := { s with out := [] }

/-- The life-cycle state is one of Table 16.2 (R455), or LOST (R456). -/
def LcOk (s : State) : Prop := s.lcs.state ≤ 5 ∨ s.lcs.state = 15

/-- The byte memories are in canonical form: the mailbox RAM, whose unlisted bytes read 0, and the NV array, whose erased
bytes read 0xFF. -/
def MemWf (s : State) : Prop := Memory.wf 0 s.mc.ram = true ∧ Memory.wf 0xFF s.nv.arr = true

/-- The OTP words are in canonical form. -/
def OtpWf (s : State) : Prop := SMap.wf dWord s.lcs.otp = true

/-- An OTP bit of a word is set. -/
def otpBit (s : State) (w i : Nat) : Bool := (SMap.get dWord s.lcs.otp w).getLsbD i

/-- No OTP bit of `s`, of a word or of one of the two fused secrets, is clear in `t`: one-time programmable cells are only
ever set (R454). -/
def OtpKept (s t : State) : Prop :=
  (∀ w i, otpBit s w i = true → otpBit t w i = true) ∧
  (∀ i, s.lcs.imgKey.getLsbD i = true → t.lcs.imgKey.getLsbD i = true) ∧
  (∀ i, s.lcs.kek.getLsbD i = true → t.lcs.kek.getLsbD i = true)

end Sys2Proof.Machine
end

