-- ==== Sys2Proof/Claims.lean ====
section
/-! DEFINITION. The words in which the claims are stated: when a record of a stream or an entry of a mailbox is taken, and the
state in which its own effect then happens. -/
namespace Sys2Proof.Machine
open Sys2Proof

/-- A load is ready for the record `ws`, header and following words: it streams, is past the sync words, has that record at hand, and
the record leaves words of the stream for DESYNC (R87, R89). -/
def recReady (s : State) (ld : Nat) (ws : List Word) : Prop :=
  (s.loadOf ld).phase = .stream ∧ (s.loadOf ld).sync = 2 ∧ recAt s (s.loadOf ld) ws = true ∧
    4 * ((s.loadOf ld).skip + ((s.loadOf ld).pos + ws.length)) < (s.loadOf ld).m.streamLen

/-- A load is ready for DESYNC, whose header is `hdr`: no plaintext is left, no ROLL is due, and one word of the stream is left (R89). -/
def lastReady (s : State) (ld : Nat) (hdr : Word) : Prop :=
  (s.loadOf ld).phase = .stream ∧ (s.loadOf ld).sync = 2 ∧ recAt s (s.loadOf ld) [hdr] = true ∧
    4 * ((s.loadOf ld).skip + ((s.loadOf ld).pos + 1)) = (s.loadOf ld).m.streamLen ∧ (s.loadOf ld).segLeft = 0 ∧
    (s.loadOf ld).rollDue = false

/-- The load once the words of such a record have been taken. -/
def recTaken (s : State) (ld : Nat) (ws : List Word) : Load :=
  { s.loadOf ld with
    recPos := (s.loadOf ld).pos, pos := (s.loadOf ld).pos + ws.length, buf := [], rdX := (s.loadOf ld).rdX + 4 * ws.length }

/-- The state then. -/
def recState (s : State) (ld : Nat) (ws : List Word) : State := s.start.setLoad ld (recTaken s ld ws)

/-- A record of the outer stream may come: no plaintext of the segment is left and no ROLL is due (R89). -/
def outerReady (s : State) (ld : Nat) (ws : List Word) : Prop :=
  recReady s ld ws ∧ (s.loadOf ld).segLeft = 0 ∧ (s.loadOf ld).rollDue = false

/-- A record may come inside a segment's plaintext, in the control chunk or in a frame chunk (Table 3.4). -/
def plainReady (s : State) (ld : Nat) (hdr : Word) (body : List Word) (control : Bool) : Prop :=
  recReady s ld (hdr :: body) ∧ 1 + body.length ≤ (s.loadOf ld).segLeft ∧ ((s.loadOf ld).chunk == some 0) = control

/-- The load once such a record has been taken into the segment's plaintext. -/
def plainTaken (s : State) (ld : Nat) (hdr : Word) (body : List Word) : Load :=
  { recTaken s ld (hdr :: body) with
    segLeft := (s.loadOf ld).segLeft - (1 + body.length), plain := (s.loadOf ld).plain ++ wordBytes (hdr :: body) }

/-- The state then. -/
def plainState (s : State) (ld : Nat) (hdr : Word) (body : List Word) : State :=
  (recState s ld (hdr :: body)).setLoad ld (plainTaken s ld hdr body)

/-- The state that a record leaves once it has had its effect `u`: the words of the next one leave the FIFO (R124), and the interrupts
are raised. -/
def recDone (s : State) (ld : Nat) (u : State) : State := interrupts s (settle ld u)

/-- The state in which a beat of an ICP acts: the band has seen it for its idle time (R417). -/
def icpSeen (s : State) (icp : Nat) : State :=
  { s.start with noc := { s.noc with busyAt := SMap.set dNat s.noc.busyAt icp s.uptime } }

/-- Code-groups that come back to ring r keep its receiver in synchronisation, and are a frame of these bytes; those that no frame is made
of give none (R285). -/
def framed (s : State) (r : Nat) (gs : List CodeGroup) (bs : List Byte) : Prop :=
  (s.ringOf r).state ≠ .stopped ∧ synced (s.ringOf r).rx = true ∧ synced (syncRun (s.ringOf r).rx gs) = true ∧
    (lineBytes (s.ringOf r).rx.rd gs).getD [] = bs

/-- The state in which such a frame acts: its receiver has taken the code-groups. -/
def heard (s : State) (r : Nat) (gs : List CodeGroup) : State :=
  s.start.setRing r { s.ringOf r with rx := syncRun (s.ringOf r).rx gs }

/-- The entry at CMD_HEAD of mailbox d holds this opcode, may be taken, and passes every check of R361 that comes before its
parameters. -/
def served (s : State) (d op : Nat) (iss : Issuer) : Prop :=
  mayTake s d = true ∧ (frontEntry s d).op = op ∧ running? s ⟨d, (frontEntry s d).tag⟩ = none ∧ issuerOk s d iss = true ∧
    lcPermits s.lcs.state op = true ∧ (s.boot.done = true ∨ preDone s op = true)

/-- The state in which its body acts: the entry has been taken. -/
def servedState (s : State) (d : Nat) : State := takeEntry s.start d

/-- The state that a mailbox command leaves once its body has left `u`: entries of unknown opcode that the MC meets next are completed
(R361), and the interrupts are raised. -/
def answered (s u : State) : State := interrupts s (serveRest u)

/-- Part k of the running descriptor x of an NV queue may end with these inputs: its bank works on it, or an urgent read that it is
suspends its bank; no gap or refresh copy and no full-mode test has it; and the data are of its length (R392, R394, R401, R452). -/
def partReady (s : State) (op q tag k : Nat) (x : Desc) (r : PartInput) : Prop :=
  (s.qOf q).run.find? (fun x => x.tag == tag && x.op == op && partOpen x k) = some x ∧
    (bankOp s (laBank (x.parts.getD k (0, 0)).1) = some x ∨ urgentPart s q x (laBank (x.parts.getD k (0, 0)).1) = true) ∧
    (s.bankOf (laBank (x.parts.getD k (0, 0)).1)).busy ≠ .copy ∧
    outOfService s 0x84 (laSector (x.parts.getD k (0, 0)).1) = false ∧
    dataFits q x (partPieces (targetAddr x) x.len (x.parts.getD k (0, 0)).1) r = true

/-- The state once part k of x, which has become y, has ended with this status. -/
def partEnded (q k : Nat) (x y : Desc) (st : Status) (u : State) : State :=
  u.setQ q { u.qOf q with
    run := (u.qOf q).run.map fun z => if z == x then
      { y with
        ended := x.ended ++ [(k, st)], doneB := if st == .ok then x.doneB + (x.parts.getD k (0, 0)).2 else x.doneB }
      else z }

end Sys2Proof.Machine
end

