-- ==== Sys2Proof/WellFormed.lean ====
section
/-! DEFINITION. Which commands name something that exists: instance numbers in their ranges (Device Organisation, Tables
7.1, 8.1, 10.1, 11.1, 13.1), packets with fields of their widths (R202). A command that names nothing is no fault: the
model leaves the state as it is. -/
namespace Sys2Proof

/-- The fields of a packet have the widths of Table 7.4, and its length is one of R203. -/
def Pkt.ok (p : Pkt) : Bool :=
  decide (p.src < 512) && decide (p.gen < 16) && decide (p.epoch < 2) && decide (p.dst < 0x1000000000000) &&
    decide (1 ≤ p.len ∧ p.len ≤ 256) && decide (p.tag < 256) && decide (p.mask < 65536)

/-- Every operand that numbers an instance names one. Bands 0–15; 16 names the device as a whole in a power handshake.
Loaders 0–15 are the ICPs, 16 the management port. -/
def Instr.wellFormed (i : Instr) : Bool :=
  match i with
  | .supplyLoss => true
  | .bootStart cfgMode _ _ => decide (cfgMode < 4)
  | .warmReset _ => true
  | .tapReset => true
  | .streamSync ld _ => decide (ld < 17)
  | .manifestVerify ld _ => decide (ld < 17)
  | .nop ld _ => decide (ld < 17)
  | .far ld _ _ => decide (ld < 17)
  | .fdata ld _ _ => decide (ld < 17)
  | .setreg ld _ _ => decide (ld < 17)
  | .roll ld _ _ => decide (ld < 17)
  | .chunk ld _ _ => decide (ld < 17)
  | .tag ld _ _ => decide (ld < 17)
  | .check ld _ _ => decide (ld < 17)
  | .startup ld _ => decide (ld < 17)
  | .region ld _ _ => decide (ld < 17)
  | .sigs ld _ _ => decide (ld < 17)
  | .desync ld _ => decide (ld < 17)
  | .streamWrite _ => true
  | .statusRead => true
  | .winWrite _ _ => true
  | .winRead _ _ => true
  | .sppWord _ => true
  | .startupPhase => true
  | .waitEventComplete => true
  | .icpBeat icp _ _ _ _ => decide (icp < 16)
  | .directLoadWait ld => decide (ld < 17)
  | .prepareSwap d => decide (d < 5)
  | .verifyDone _ => true
  | .commitSwap d => decide (d < 5)
  | .swapDecision _ _ => true
  | .switchingEdge _ _ => true
  | .swapCycleEnd _ _ => true
  | .commitTimeout _ => true
  | .abortSwap d => decide (d < 5)
  | .scrubPassStart band _ _ => decide (band < 16)
  | .frameCheck band _ _ _ _ => decide (band < 16)
  | .frameReload _ _ _ _ _ => true
  | .microcodeParityError => true
  | .activePeriodDouble => true
  | .niInject ep _ _ => decide (ep < 128)
  | .rd p => p.ok
  | .wrNp p => p.ok
  | .wrP p => p.ok
  | .mcw p => p.ok
  | .rdRsp p => p.ok
  | .wrRsp p => p.ok
  | .mgRd p => p.ok
  | .mgWr p => p.ok
  | .mgRsp p => p.ok
  | .nocTimeout ep _ => decide (ep < 512)
  | .ejectionStall ep => decide (ep < 512)
  | .routeDrainDone => true
  | .routeUpdateTimeout => true
  | .rtrClear _ _ => true
  | .acceptedEdge port _ _ => decide (port < 1024)
  | .tsLoRead _ => true
  | .schedPush _ _ => true
  | .schedFlush _ _ => true
  | .scheduleApply port => decide (port < 1024)
  | .modeChange _ _ => true
  | .levelWrite _ _ => true
  | .safeClear _ _ => true
  | .pwmEdge port => decide (port < 1024)
  | .quadTransition port => decide (port < 1024)
  | .pairDataWrite _ _ => true
  | .pairDataRead _ => true
  | .encoderFrame port => decide (port < 1024)
  | .encoderFrameEnd port => decide (port < 1024)
  | .uartRxByte port => decide (port < 1024)
  | .uartTxByte port => decide (port < 1024)
  | .refLost => true
  | .refReturn => true
  | .ppsEdge => true
  | .syncMessage macPort _ _ => decide (macPort < 16)
  | .ppsTimeout => true
  | .syncTimeout => true
  | .nowLoRead _ => true
  | .ppsOutPulse => true
  | .ppsPulseEnd => true
  | .pllApply _ _ => true
  | .pllLock pll => decide (pll < 32)
  | .lossOfLock pll _ => decide (pll < 32)
  | .fcountStart _ _ => true
  | .fcountDone _ => true
  | .smnResult ch _ => decide (ch < 16)
  | .tempSample _ => true
  | .minmaxClear _ _ => true
  | .termFire table _ => decide (table < 0x80 ∨ (0x100 ≤ table ∧ table < 0x110))
  | .flowInterval _ _ => true
  | .event _ => true
  | .rfxArm _ _ => true
  | .start _ ring => decide (ring < 64)
  | .stop _ ring => decide (ring < 64)
  | .assign _ ring => decide (ring < 64)
  | .safe _ ring => decide (ring < 64)
  | .rediscover _ ring => decide (ring < 64)
  | .safeMask _ ring _ => decide (ring < 64)
  | .cycleFrame ring => decide (ring < 64)
  | .cycleReturn ring _ => decide (ring < 64)
  | .returnDeadline ring => decide (ring < 64)
  | .discoverFrame ring _ => decide (ring < 64)
  | .assignFrame ring _ => decide (ring < 64)
  | .configFrame ring _ => decide (ring < 64)
  | .delayFrame ring _ _ => decide (ring < 64)
  | .safeFrame ring _ => decide (ring < 64)
  | .resetFrame ring _ => decide (ring < 64)
  | .rxSync ring _ => decide (ring < 64)
  | .ringBreak ring _ => decide (ring < 64)
  | .startSyncTimeout ring => decide (ring < 64)
  | .stopTimeout ring => decide (ring < 64)
  | .perstDeassert p => decide (p < 4)
  | .linkUp p _ _ => decide (p < 4)
  | .hostLoss p _ => decide (p < 4)
  | .window0Tlp p addr _ => decide (p < 4) && decide (addr < 0x1000000)
  | .window2Tlp p _ _ => decide (p < 4)
  | .xltCtrl _ _ => true
  | .hostLossRelease _ _ => true
  | .hostCompletion p _ _ _ => decide (p < 4)
  | .outboundTimeout p _ => decide (p < 4)
  | .rxFrame port _ _ _ _ => decide (port < 16)
  | .tailWrite _ _ _ => true
  | .txFrame port _ _ _ => decide (port < 16)
  | .portEnable _ _ => true
  | .gclCommit _ _ => true
  | .gclSwitch port => decide (port < 16)
  | .gateInterval port => decide (port < 16)
  | .preemptVerify port => decide (port < 16)
  | .rxSlip lane => decide (lane < 48)
  | .xcvLossOfLock quad _ => decide (quad < 12)
  | .doorbell _ d _ => decide (d < 5)
  | .cplHeadWrite _ d _ => decide (d < 5)
  | .ringReset _ d _ => decide (d < 5)
  | .mcRestart => true
  | .mcRestartDone => true
  | .avsPeriod _ => true
  | .marginReport => true
  | .idleBandCheck => true
  | .identify d => decide (d < 5)
  | .getStatus d _ => decide (d < 5)
  | .getReport d => decide (d < 5)
  | .setPolicy d => decide (d < 5)
  | .getPolicy d => decide (d < 5)
  | .resetDomain d => decide (d < 5)
  | .claimRegion d => decide (d < 5)
  | .releaseRegion d => decide (d < 5)
  | .setFirewall d => decide (d < 5)
  | .setHostLossPolicy d => decide (d < 5)
  | .loadImage d => decide (d < 5)
  | .loadPartial d => decide (d < 5)
  | .readbackRegion d => decide (d < 5)
  | .storeImage d _ => decide (d < 5)
  | .selectImage d => decide (d < 5)
  | .storePartial d _ => decide (d < 5)
  | .wrapKey d => decide (d < 5)
  | .nvProtect d => decide (d < 5)
  | .nvUnlock d => decide (d < 5)
  | .nvSetPassword d => decide (d < 5)
  | .nvRefreshScan d => decide (d < 5)
  | .nvGrantUrgent d => decide (d < 5)
  | .nocMuzzle d => decide (d < 5)
  | .nocRehabilitate d => decide (d < 5)
  | .nocRemap d => decide (d < 5)
  | .nocRouteUpdate d => decide (d < 5)
  | .uanStartRing d => decide (d < 5)
  | .uanStopRing d => decide (d < 5)
  | .uanGetTopology d => decide (d < 5)
  | .uanAssign d => decide (d < 5)
  | .uanSafe d => decide (d < 5)
  | .pwrRequestState d => decide (d < 5)
  | .pwrSetSentry d => decide (d < 5)
  | .pwrGetAccounting d => decide (d < 5)
  | .timeSet d => decide (d < 5)
  | .timeDiscipline d => decide (d < 5)
  | .bistSchedule d => decide (d < 5)
  | .bistRun d => decide (d < 5)
  | .bistRunTimeout d _ => decide (d < 5)
  | .bistGetResult d => decide (d < 5)
  | .lcTransition d => decide (d < 5)
  | .dbgChallenge d => decide (d < 5)
  | .dbgGrant d => decide (d < 5)
  | .dbgRevoke d => decide (d < 5)
  | .qTailWrite _ _ => true
  | .cqHeadWrite _ _ => true
  | .queueEnable _ _ => true
  | .descriptorStart q _ => decide (q < 8)
  | .read q _ _ _ => decide (q < 8)
  | .program q _ _ _ => decide (q < 8)
  | .erase q _ _ _ => decide (q < 8)
  | .verify q _ _ _ => decide (q < 8)
  | .blankCheck q _ _ _ => decide (q < 8)
  | .marginRead q _ _ _ => decide (q < 8)
  | .copy q _ _ _ => decide (q < 8)
  | .xipDeclare q _ => decide (q < 8)
  | .xipRelease q _ => decide (q < 8)
  | .partDone q _ _ => decide (q < 8)
  | .directRead p => p.ok
  | .gapMove bank => decide (bank < 64)
  | .gapCopyDone bank => decide (bank < 64)
  | .gapEraseDone bank => decide (bank < 64)
  | .tornScanDone => true
  | .nvRefreshStep bank sector _ => decide (bank < 64) && decide (sector < 1024)
  | .voteAnswer band _ _ => decide (band < 17)
  | .voteTimeout band => decide (band < 17)
  | .userSample band _ _ => decide (band < 17)
  | .bandWake band => decide (band < 16)
  | .bandPowerGood band => decide (band < 16)
  | .offReloadDone band _ _ => decide (band < 16)
  | .wakeEvent _ _ _ => true
  | .sentrySample _ _ => true
  | .wakeRetry rail => decide (rail < 8)
  | .rtcFallback => true
  | .pmbusPoll _ => true
  | .readVoutPoll rail _ _ => decide (rail < 8)
  | .voutTimeout rail => decide (rail < 8)
  | .pmbusRetry rail _ => decide (rail < 8)
  | .pmbAlert _ _ => true
  | .kennelData _ _ => true
  | .rtcLoRead _ => true
  | .entryDue entry => decide (entry < 64)
  | .sliceEnd _ _ => true
  | .sliceBudget _ _ _ => true
  | .otpRunEnd => true
  | .returnEraseDone => true
  | .nonceExpiry h => decide (h < 4)
  | .leashExpiry slot => decide (slot < 8)
  | .extest _ => true
  | .samplePreload _ => true
  | .idcode => true
  | .highz => true
  | .clamp => true
  | .extestPulse _ => true
  | .extestTrain _ => true
  | .lcStatus => true
  | .keyLoad _ => true
  | .csrAccess _ => true
  | .frameReadback _ => true
  | .bypass _ => true
  | .csrEndpointAccess p => p.ok
  | .registerWrite _ addr _ => decide (addr < 0x1000000)
  | .ethLinkChange port _ _ _ => decide (port < 16)
  | .configRequest p _ => decide (p < 4)
  | .laneTraffic lane => decide (lane < 48)
  | .rxLockChange lane _ => decide (lane < 48)
  | .rawWordTime lane _ _ _ _ => decide (lane < 48)
  | .quadPllLock quad => decide (quad < 12)
  | .userClockEdge _ => true
  | .fpOutChange port _ _ _ => decide (port < 1024)
  | .stayAwakeRise band => decide (band < 17)
  | .rtcTick => true
  | .nvRefreshOverdue bank sector => decide (bank < 64) && decide (sector < 1024)

end Sys2Proof
end

