-- ==== Sys2Proof/Certificates/Slice0/Obligations.lean ====
section
/-! DEFINITION. The statements for the provers. Each says what a command does in the cases that its hypotheses give; an
equation of the next state is its frame as well: whatever it does not name is unchanged. -/

open Sys2Proof Sys2Proof.Machine

/-- Power-on reset: the parts named here of the logic die, the tenancy and every accessor's registers are as at reset, and
the OTP stays unless a programming run was under way. RESET_N: less than 0.5 µs low changes nothing; 1 µs or more
resets a device that is neither in power-on reset nor asleep nor in a programming run, and waits for the end of such a
run; between the two it is open whether the reset happens. TAP_RESET selects IDCODE and releases the pins that the TAP
drove. -/
def Obligations.Resets : Prop :=
  (∀ s : State, ∃ t, exec .supplyLoss s = .next t ∧
    t.boot = {} ∧ t.ten = [] ∧ t.copies = [] ∧ t.design = {} ∧ t.cfg = {} ∧ t.scr = {} ∧ t.noc = {} ∧ t.mac = [] ∧
    t.tbs = { ref := s.tbs.ref } ∧ t.rfx = {} ∧ t.uan = {} ∧ t.mc = {} ∧ t.bst = {} ∧ t.smn = {} ∧ t.fab = {} ∧
    t.nv.qs = [] ∧ t.nv.xip = [] ∧ t.lcs.nonces = [] ∧ t.lcs.grants = [] ∧
    (programming s = none → t.lcs.otp = s.lcs.otp ∧ t.lcs.imgKey = s.lcs.imgKey ∧ t.lcs.kek = s.lcs.kek)) ∧
  (∀ (lowNs : Nat) (s : State), lowNs < 500 → exec (.warmReset lowNs) s = .next (interrupts s s.start)) ∧
  (∀ (lowNs : Nat) (s : State), 1000 ≤ lowNs → s.boot.phase ≠ .powerReset → asleep s = false → programming s = none →
    ∃ t, exec (.warmReset lowNs) s = .next t ∧
      t.boot.phase = .resetHeld ∧ t.boot.done = false ∧ t.ten = [] ∧ t.cfg = {} ∧
      t.scr = {} ∧ t.noc = {} ∧ t.mac = [] ∧ t.rfx = {} ∧ t.uan = {} ∧ t.fab = {} ∧ t.smn = {} ∧
      t.mc.warmCnt = sat 0xFFFFFFFF s.mc.warmCnt ∧ t.lcs.otp = s.lcs.otp ∧ t.lcs.state = s.lcs.state) ∧
  (∀ (lowNs : Nat) (s : State), 1000 ≤ lowNs → s.boot.phase ≠ .powerReset → asleep s = false → (programming s).isSome →
    exec (.warmReset lowNs) s = .next (interrupts s { s.start with lcs := { s.lcs with warmDef := true } })) ∧
  (∀ (lowNs : Nat) (s : State), 500 ≤ lowNs → lowNs < 1000 → s.boot.phase ≠ .powerReset →
    exec (.warmReset lowNs) s = .next (interrupts s
      (if Config.freeBit s.free then warmReach s.start.takeFree else s.start.takeFree))) ∧
  (∀ s : State, exec .tapReset s =
    .next (interrupts s { s.start with lcs := { s.lcs with ir := 2, drive := false, hiz := false } }))

/-- BOOT_START from power-on reset with TB_10M_IN present, or as RESET_N rises: a ROM mismatch halts the MC and asserts
CFG_ERR_N; a life-cycle state of code 5 or more refuses every load; in the states of code 0 to 2 a CFG_MODE other than
0 leaves the device waiting for its image. Where nothing starts a boot, or slave parallel mode finds VCCIO_0 at none
of its levels, nothing happens. -/
def Obligations.BootStart : Prop :=
  (∀ (m : Nat) (rom : Bool) (mv : List Nat) (s : State), bootCause s = none →
    exec (.bootStart m rom mv) s = .next (interrupts s s.start)) ∧
  (∀ (m : Nat) (rom : Bool) (mv : List Nat) (s : State), s.boot.phase = .powerReset ∨ s.boot.phase = .resetHeld → m % 4 = 2 →
    sppLevel mv = false → exec (.bootStart m rom mv) s = .next (interrupts s s.start)) ∧
  (∀ (m : Nat) (mv : List Nat) (s : State), (s.boot.phase = .powerReset ∧ s.tbs.ref = true) ∨ s.boot.phase = .resetHeld →
    (m % 4 = 2 → sppLevel mv = true) →
    ∃ t, exec (.bootStart m false mv) s = .next t ∧
      t.boot.phase = .unconfigured ∧ t.boot.cfgErr = true ∧ t.mc.halted = true) ∧
  (∀ (m : Nat) (mv : List Nat) (s : State), (s.boot.phase = .powerReset ∧ s.tbs.ref = true) ∨ s.boot.phase = .resetHeld →
    (m % 4 = 2 → sppLevel mv = true) →
    5 ≤ lcDecode s.lcs.otp s.lcs.imgKey s.lcs.kek →
    ∃ t, exec (.bootStart m true mv) s = .next t ∧
      t.boot.phase = .denied ∧ t.boot.first = .lifecycleDeny ∧ t.boot.cfgErr = true) ∧
  (∀ (m : Nat) (mv : List Nat) (s : State), (s.boot.phase = .powerReset ∧ s.tbs.ref = true) ∨ s.boot.phase = .resetHeld →
    (m % 4 = 2 → sppLevel mv = true) →
    lcDecode s.lcs.otp s.lcs.imgKey s.lcs.kek ≤ 2 → m % 4 ≠ 0 →
    ∃ t, exec (.bootStart m true mv) s = .next t ∧
      t.boot.phase = .waitImage ∧ t.boot.cfgMode = m % 4 ∧ t.boot.mcUp = true ∧ t.noc.running = true)

/-- The sync words put the load behind them, and a stream of a command that ends without them ends the load with
BAD_PARAMETER; a complete manifest is taken when the checks of R103 and R104 pass, and otherwise ends the load with
the status of the first that fails; a NOP is passed over, inside a segment and outside; the wait of a direct load that
has begun ends in its stream. -/
def Obligations.StreamStarts : Prop :=
  (∀ (ld n : Nat) (ignored : List Word) (s : State), (s.loadOf ld).phase = .stream → (s.loadOf ld).sync ≠ 2 →
    ((s.loadOf ld).port = true → bufFull (s.loadOf ld) = true) → beforeSync ignored = none →
    syncAt s (s.loadOf ld) ignored = some n →
    exec (.streamSync ld ignored) s = .next (recDone s ld (s.start.setLoad ld { s.loadOf ld with
      sync := 2, skip := n, pos := 2, recPos := 0, buf := [], rdX := (s.loadOf ld).rdX + 4 * (n + 2) }))) ∧
  (∀ (ld : Nat) (ignored : List Word) (s : State), (s.loadOf ld).phase = .stream → (s.loadOf ld).sync ≠ 2 →
    (s.loadOf ld).port = false → beforeSync ignored = none → syncAt s (s.loadOf ld) ignored = none →
    exec (.streamSync ld ignored) s = .next (interrupts s (loadFail ld .badParameter s.start))) ∧
  (∀ (ld : Nat) (b0 b : List Byte) (s : State), (s.loadOf ld).phase = .manifest → s.boot.cfgErr = false →
    manAt s (s.loadOf ld) b0 = some b → loadManCheck s.start (s.loadOf ld) b = .ok →
    exec (.manifestVerify ld b0) s = .next (recDone s ld (s.start.setLoad ld { s.loadOf ld with
      phase := .stream, man := some (parseMan b), manBytes := b.take (parseMan b).len, buf := [],
      rdX := (s.loadOf ld).rdX + (parseMan b).len }))) ∧
  (∀ (ld : Nat) (b0 b : List Byte) (s : State), (s.loadOf ld).phase = .manifest →
    manAt s (s.loadOf ld) b0 = some b → loadManCheck s.start (s.loadOf ld) b ≠ .ok →
    exec (.manifestVerify ld b0) s = .next (interrupts s
      (loadFail ld (loadManCheck s.start (s.loadOf ld) b) s.start))) ∧
  (∀ (ld : Nat) (hdr : Word) (s : State), recReady s ld [hdr] → wf hdr 31 24 = 0 → (s.loadOf ld).segLeft = 0 →
    exec (.nop ld hdr) s = .next (recDone s ld (recState s ld [hdr]))) ∧
  (∀ (ld : Nat) (hdr : Word) (s : State), recReady s ld [hdr] → wf hdr 31 24 = 0 → 0 < (s.loadOf ld).segLeft →
    exec (.nop ld hdr) s = .next (recDone s ld ((recState s ld [hdr]).setLoad ld { recTaken s ld [hdr] with
      segLeft := (s.loadOf ld).segLeft - 1, plain := (s.loadOf ld).plain ++ leBytes 4 hdr.toNat }))) ∧
  (∀ (ld : Nat) (s : State), (s.loadOf ld).phase = .wait1us → (s.loadOf ld).began = true →
    exec (.directLoadWait ld) s = .next (recDone s ld (s.start.setLoad ld { s.loadOf ld with phase := .stream })))

/-- The records of the control chunk: a SETREG and the STARTUP of a full image record the register's value after clamping
with the clamps made; a REGION of a full image records the rectangles of a region not declared before, and that of a
partial image the window that the region already has. -/
def Obligations.StreamControl : Prop :=
  (∀ (ld arg : Nat) (w v : Word) (cs : List FieldClamp) (s : State), plainReady s ld (header 3 arg) [w] true → bf arg 23 16 = 0 →
    checkReg (s.loadOf ld).m.idcode (if (s.loadOf ld).full then none else some (s.loadOf ld).region) (bf arg 15 0) w =
      some (v, cs) →
    exec (.setreg ld arg w) s = .next (recDone s ld ((plainState s ld (header 3 arg) [w]).setLoad ld
      { recordReg (plainTaken s ld (header 3 arg) [w]) (bf arg 15 0) v with
        clamps := noteClamps (plainTaken s ld (header 3 arg) [w]) (bf arg 15 0) cs }))) ∧
  (∀ (ld arg : Nat) (v : Word) (cs : List FieldClamp) (s : State), plainReady s ld (header 8 arg) [] true → (s.loadOf ld).full = true →
    checkReg (s.loadOf ld).m.idcode none 0x0002 (wd (arg % 0x1000000)) = some (v, cs) →
    exec (.startup ld arg) s = .next (recDone s ld ((plainState s ld (header 8 arg) []).setLoad ld
      { recordReg (plainTaken s ld (header 8 arg) []) 0x0002 v with
        clamps := noteClamps (plainTaken s ld (header 8 arg) []) 0x0002 cs }))) ∧
  (∀ (ld arg : Nat) (body : List Word) (s : State), plainReady s ld (header 9 arg) body true → (s.loadOf ld).full = true →
    bf arg 23 16 = 0 → 1 ≤ bf arg 15 8 → bf arg 15 8 ≤ 4 → bf arg 7 0 ≤ 127 → body.length = bf arg 15 8 →
    (s.loadOf ld).decls.any (fun e => e.1 == bf arg 7 0) = false →
    rectsOk ((s.loadOf ld).decls.map (·.2)) body = true →
    exec (.region ld arg body) s = .next (recDone s ld ((plainState s ld (header 9 arg) body).setLoad ld
      { plainTaken s ld (header 9 arg) body with
        decls := SMap.put (s.loadOf ld).decls (bf arg 7 0) body, declPos := (s.loadOf ld).pos }))) ∧
  (∀ (ld arg : Nat) (body : List Word) (s : State), plainReady s ld (header 9 arg) body true → (s.loadOf ld).full = false →
    bf arg 23 16 = 0 → 1 ≤ bf arg 15 8 → bf arg 15 8 ≤ 4 → bf arg 7 0 ≤ 127 → body.length = bf arg 15 8 →
    (s.loadOf ld).decls.any (fun e => e.1 == bf arg 7 0) = false → bf arg 7 0 = (s.loadOf ld).region →
    (s.regionOf (bf arg 7 0)).window.isEmpty = false → (s.regionOf (bf arg 7 0)).window = body →
    exec (.region ld arg body) s = .next (recDone s ld ((plainState s ld (header 9 arg) body).setLoad ld
      { plainTaken s ld (header 9 arg) body with decls := SMap.put (s.loadOf ld).decls (bf arg 7 0) body })))

/-- A CHUNK in order opens a segment with the chunk's derived key; a ROLL derives the next key from the last; a TAG that
is not the chunk's last ends its segment when its bytes equal the computed tag, and otherwise ends the load with
AUTH_FAIL after the segment's frames are taken back. The last TAG of a frame chunk whose segments are right ends the
chunk where it is the manifest's entry for it, and else the load with AUTH_FAIL; that of the control chunk does what
the control chunk's end asks. -/
def Obligations.StreamSegments : Prop :=
  (∀ (ld arg : Nat) (body : List Word) (s : State), outerReady s ld (header 5 arg :: body) →
    (s.loadOf ld).segOpen = false → (s.loadOf ld).checked = false →
    (arg = 1 → ((s.loadOf ld).nv = some .slot0 → indexOk s 0 = true) ∧ ((s.loadOf ld).nv = some .slot1 → indexOk s 1 = true)) →
    arg = ((s.loadOf ld).chunk.map (· + 1)).getD 0 → arg < (s.loadOf ld).m.chunks →
    wf (nth body 0) 27 13 = 0 → body.length = 4 + (wf (nth body 0) 31 28 + 1) →
    (if arg = 0 then wf (nth body 0) 12 0 = 0 else 1 ≤ wf (nth body 0) 12 0 ∧ wf (nth body 0) 12 0 ≤ 4096) →
    (wordBytes ((body.drop 1).take 3)).take 4 = Crypto.beBytes 4 arg → (wordBytes ((body.drop 1).take 3)).drop 11 = [0] →
    ∃ u : State, exec (.chunk ld arg body) s = .next (recDone s ld u) ∧
      (∃ l, u = ((if arg = 1 then beginFrames ld else id) ((recState s ld (header 5 arg :: body)).setLoad ld
          { recTaken s ld (header 5 arg :: body) with chunk := some arg, segOpen := true })).setLoad ld l ∧
        l.seg = 0 ∧ l.lens = (body.drop 4).map BitVec.toNat ∧ l.declared = wf (nth body 0) 12 0 ∧ l.inChunk = 0 ∧
        l.segLeft = ((body.drop 4).map BitVec.toNat).headD 0 ∧ l.tagDue = true ∧ l.rollDue = false ∧ l.far = none ∧
        l.key = kdf ((selKey s (s.loadOf ld).m.keySel).getD 0) (ascii "BRLC-CHUNK")
          ((s.loadOf ld).m.nonce ++ Crypto.beBytes 4 arg))) ∧
  (∀ (ld : Nat) (body : List Word) (s : State), recReady s ld (header 4 0 :: body) → body.length = 4 →
    (s.loadOf ld).segLeft = 0 → (s.loadOf ld).rollDue = true →
    exec (.roll ld 0 body) s = .next (recDone s ld ((recState s ld (header 4 0 :: body)).setLoad ld
      { recTaken s ld (header 4 0 :: body) with
        rollDue := false, tagDue := true, segLeft := (s.loadOf ld).lens.getD (s.loadOf ld).seg 0, plain := [], inSeg := 0,
        aad := wordBytes (header 4 0 :: body) ++ (s.loadOf ld).prevTag, undo := [],
        undoSh := loadShadow s (s.loadOf ld), undoN := (s.loadOf ld).written,
        key := kdf (s.loadOf ld).key (ascii "BRLC-ROLL")
          (wordBytes body ++ Crypto.beBytes 4 ((s.loadOf ld).chunk.getD 0) ++ [BitVec.ofNat 8 (s.loadOf ld).seg]) }))) ∧
  (∀ (ld arg : Nat) (body : List Word) (s : State), outerReady s ld (header 6 arg :: body) → (s.loadOf ld).tagDue = true →
    arg = (s.loadOf ld).seg → body.length = 4 → arg + 1 ≠ (s.loadOf ld).lens.length →
    exec (.tag ld arg body) s = .next (recDone s ld
      (if wordBytes body = Crypto.beBytes 16 (Crypto.gcmTag (s.loadOf ld).key ((s.loadOf ld).iv.take 11 ++ [BitVec.ofNat 8 arg])
          (s.loadOf ld).aad (s.loadOf ld).plain).toNat then
        (recState s ld (header 6 arg :: body)).setLoad ld { recTaken s ld (header 6 arg :: body) with
          tagDue := false, rollDue := true, seg := arg + 1, prevTag := wordBytes body, undo := [] }
       else loadFail ld .authFail (undoSegment ld (recState s ld (header 6 arg :: body)))))) ∧
  (∀ (ld arg : Nat) (body : List Word) (s : State), outerReady s ld (header 6 arg :: body) → (s.loadOf ld).tagDue = true →
    arg = (s.loadOf ld).seg → body.length = 4 → arg + 1 = (s.loadOf ld).lens.length → (s.loadOf ld).chunk ≠ some 0 →
    wordBytes body = Crypto.beBytes 16 (Crypto.gcmTag (s.loadOf ld).key ((s.loadOf ld).iv.take 11 ++ [BitVec.ofNat 8 arg])
      (s.loadOf ld).aad (s.loadOf ld).plain).toNat → (s.loadOf ld).inChunk = (s.loadOf ld).declared →
    exec (.tag ld arg body) s = .next (recDone s ld
      (if wordBytes body = (s.loadOf ld).m.tags.getD ((s.loadOf ld).chunk.getD 0) [] then
        (recState s ld (header 6 arg :: body)).setLoad ld (chunkPlace (recState s ld (header 6 arg :: body))
          { recTaken s ld (header 6 arg :: body) with tagDue := false, undo := [], segOpen := false })
       else loadFail ld .authFail (undoSegment ld (recState s ld (header 6 arg :: body)))))) ∧
  (∀ (ld arg : Nat) (body : List Word) (s : State), outerReady s ld (header 6 arg :: body) → (s.loadOf ld).tagDue = true →
    arg = (s.loadOf ld).seg → body.length = 4 → arg + 1 = (s.loadOf ld).lens.length → (s.loadOf ld).chunk = some 0 →
    wordBytes body = Crypto.beBytes 16 (Crypto.gcmTag (s.loadOf ld).key ((s.loadOf ld).iv.take 11 ++ [BitVec.ofNat 8 arg])
      (s.loadOf ld).aad (s.loadOf ld).plain).toNat → (s.loadOf ld).inChunk = (s.loadOf ld).declared →
    wordBytes body = (s.loadOf ld).m.tags.getD 0 [] →
    ∃ u : State, exec (.tag ld arg body) s = .next (recDone s ld (u.setLoad ld { u.loadOf ld with segOpen := false })) ∧
      u = controlEnd ld ((recState s ld (header 6 arg :: body)).setLoad ld (chunkPlace (recState s ld (header 6 arg :: body))
        { recTaken s ld (header 6 arg :: body) with tagDue := false, undo := [], segOpen := true })))

/-- A FAR sets the current address; FDATA and SIGS hand their frames to the rule that stores them one by one, and a frame
that passes its checks is stored at the current address; a CHECK that finds every count and the CRC right notes it,
and a DESYNC at the end of the stream completes the load. -/
def Obligations.StreamFrames : Prop :=
  (∀ (ld : Nat) (w : Word) (s : State), plainReady s ld (header 1 0) [w] false → (s.loadOf ld).full = true → farValid w = true →
    exec (.far ld 0 w) s = .next (recDone s ld ((plainState s ld (header 1 0) [w]).setLoad ld
      { plainTaken s ld (header 1 0) [w] with far := some w.toNat, farNow := some w.toNat }))) ∧
  (∀ (ld : Nat) (w : Word) (s : State), plainReady s ld (header 1 0) [w] false → (s.loadOf ld).full = false →
    (s.rects (s.loadOf ld).region).isEmpty = false → farValid w = true →
    exec (.far ld 0 w) s = .next (recDone s ld ((plainState s ld (header 1 0) [w]).setLoad ld
      { plainTaken s ld (header 1 0) [w] with far := some w.toNat, farNow := some w.toNat }))) ∧
  (∀ (ld arg : Nat) (body : List Word) (s : State), plainReady s ld (header 2 arg) body false → 0 < arg →
    body.length = 129 * arg → (s.loadOf ld).inSeg + arg ≤ 1024 → (s.loadOf ld).far.isSome →
    exec (.fdata ld arg body) s = .next (recDone s ld
      (fdataFrames ld (groups 129 arg body) ((recState s ld (header 2 arg :: body)).setLoad ld
        { plainTaken s ld (header 2 arg) body with
          inSeg := (s.loadOf ld).inSeg + arg, inChunk := (s.loadOf ld).inChunk + arg,
          fdataN := (s.loadOf ld).fdataN + arg,
          fdFirst := (s.loadOf ld).far.getD 0, fdCount := arg })))) ∧
  (∀ (ld arg : Nat) (body : List Word) (s : State), plainReady s ld (header 10 arg) body false → 1 ≤ arg → arg ≤ 1024 →
    body.length = arg → (s.loadOf ld).shadow = true → (s.loadOf ld).far.isSome →
    exec (.sigs ld arg body) s = .next (recDone s ld
      (sigsFrames ld body ((plainState s ld (header 10 arg) body).setLoad ld
        { plainTaken s ld (header 10 arg) body with sigsN := (s.loadOf ld).sigsN + arg })))) ∧
  (∀ (ld : Nat) (fr : List Word) (rest : List (List Word)) (s : State),
    addrCheck s (s.loadOf ld) (wd ((s.loadOf ld).far.getD 0)) = .ok →
    isContent ((wd ((s.loadOf ld).far.getD 0)).toNat / 256) = false → nth fr 128 = crc32c (wordBytes (fr.take 128)) →
    fdataFrames ld (fr :: rest) s = fdataFrames ld rest (storeFrame ld ((wd ((s.loadOf ld).far.getD 0)).toNat / 256)
      (wd ((s.loadOf ld).far.getD 0))
      (fdataPlane s (s.loadOf ld) ((wd ((s.loadOf ld).far.getD 0)).toNat / 256) (fr.take 128) (nth fr 128))
      { s.loadOf ld with crc := crcRun polyC (s.loadOf ld).crc (wordBytes (fr.take 128)) } s)) ∧
  (∀ (ld : Nat) (w : Word) (s : State), outerReady s ld [header 7 0, w] → (s.loadOf ld).tagDue = false →
    (s.loadOf ld).checked = false → (s.loadOf ld).chunk = some ((s.loadOf ld).m.chunks - 1) →
    (s.loadOf ld).fdataN = (s.loadOf ld).m.fdata → (s.loadOf ld).sigsN = (s.loadOf ld).m.sigs →
    w = wd ((s.loadOf ld).crc ^^^ 0xFFFFFFFF) → w = (s.loadOf ld).m.crc →
    exec (.check ld 0 w) s = .next (recDone s ld ((recState s ld [header 7 0, w]).setLoad ld
      { recTaken s ld [header 7 0, w] with checked := true }))) ∧
  (∀ (ld : Nat) (s : State), lastReady s ld (header 15 0) → (s.loadOf ld).tagDue = false → (s.loadOf ld).checked = true →
    exec (.desync ld 0) s = .next (recDone s ld (loadOk ld (recState s ld [header 15 0]))))

/-- R83: the address that follows a frame names the next minor of its column; after the last minor of a column, minor 0 of
the next column in the same band; and it never names a frame of another band. Each frame that an FDATA or SIGS record
stores leaves the load's current address there. -/
def Obligations.FrameAddressAdvances : Prop :=
  (∀ (band col minor : Nat), band < 16 → col ≤ 558 → minor < frameCount col →
    (minor + 1 < frameCount col →
      nextAddr (wd (farWord (frameKey band col minor) false)) = farWord (frameKey band col (minor + 1)) false) ∧
    (minor + 1 = frameCount col → col < 558 →
      nextAddr (wd (farWord (frameKey band col minor) false)) = farWord (frameKey band (col + 1) 0) false) ∧
    (farValid (wd (nextAddr (wd (farWord (frameKey band col minor) false)))) = true →
      keyBand (nextAddr (wd (farWord (frameKey band col minor) false)) / 256) = band)) ∧
  (∀ (ld : Nat) (w : Word) (fr : List Word) (rest : List (List Word)) (s : State), w = wd ((s.loadOf ld).far.getD 0) →
    addrCheck s (s.loadOf ld) w = .ok →
    isContent (w.toNat / 256) = false ∨ (s.loadOf ld).full = true ∨ (s.loadOf ld).direct = true →
    nth fr 128 = crc32c (wordBytes (fr.take 128)) →
    ∃ t : State, fdataFrames ld (fr :: rest) s = fdataFrames ld rest t ∧ (t.loadOf ld).far = some (nextAddr w)) ∧
  (∀ (ld : Nat) (w sig : Word) (rest : List Word) (p : Plane) (s : State), w = wd ((s.loadOf ld).far.getD 0) →
    addrCheck s (s.loadOf ld) w = .ok → isContent (w.toNat / 256) = false → p = (s.frameOf (w.toNat / 256)).active →
    sig = p.sig → planeBad p = false → crc32c (wordBytes (planeRead p)) = p.sig →
    ∃ t : State, sigsFrames ld (sig :: rest) s = sigsFrames ld rest t ∧ (t.loadOf ld).far = some (nextAddr w))

/-- Where no wait is unmet, every event of the next phase fires in the order of its number and the phase is complete; an
unmet GWAIT of that phase holds it; event 3 sets the write enable and event 5 DONE; a wait that is met completes. -/
def Obligations.Startup : Prop :=
  (∀ (q : Nat) (s : State), s.boot.suActive = true → s.boot.suWait = 0 → nextPhase s = some q →
    (∀ i, i < 2 → eventPhase s i = q → waitMet s i = true) →
    exec .startupPhase s = .next (interrupts s (startupEnd
      { ((List.range 6).filter fun i => eventPhase s i == q).foldl fireEvent
          { s.start with boot := { s.boot with suPhase := q } } with
        boot := { (((List.range 6).filter fun i => eventPhase s i == q).foldl fireEvent
            { s.start with boot := { s.boot with suPhase := q } }).boot with
          suComp := ((List.range 6).filter fun i => eventPhase s i == q).foldl (fun n i => n + 2 ^ i)
            (((List.range 6).filter fun i => eventPhase s i == q).foldl fireEvent
              { s.start with boot := { s.boot with suPhase := q } }).boot.suComp
          suWait := 0, phase := .booting } }))) ∧
  (∀ (q : Nat) (s : State), s.boot.suActive = true → s.boot.suWait = 0 → nextPhase s = some q →
    eventPhase s 0 = q → waitMet s 0 = false →
    ∃ t, exec .startupPhase s = .next t ∧ t.boot.phase = .startupHeld ∧ t.boot.suWait ≠ 0) ∧
  (∀ s : State, (fireEvent s 3).boot.we = true ∧ (fireEvent s 5).boot.done = true) ∧
  (∀ (n : Nat) (s : State), s.boot.suActive = true → n = 0 ∨ n = 1 → s.boot.suWait = 2 ^ n → waitMet s n = true →
    exec .waitEventComplete s = .next (interrupts s (startupEnd { s.start with boot := { s.boot with
      suComp := s.boot.suComp + 2 ^ n, suWait := 0, phase := .booting } })))

/-- A word of the parallel port joins the FIFO of the load that takes its words there unless SPP_WAIT is high; the first
word of a container, while the device waits for an image in mode 2, starts a load; the bytes of the serial port are
taken as words in order, a full FIFO stops the load with BAD_PARAMETER, and bytes that are no whole word stop a load
that takes its words there; a status read answers the status word. -/
def Obligations.PushedWords : Prop :=
  (∀ (w : Word) (s : State), sppPort s = true → sppWait s = false → takesFrom s 2 = true →
    exec (.sppWord w) s = .next (recDone s mgmt (s.start.setLoad mgmt { s.loadOf mgmt with
      fifo := (s.loadOf mgmt).fifo ++ [w], bytesIn := (s.loadOf mgmt).bytesIn + 4 }))) ∧
  (∀ s : State, sppPort s = true → sppWait s = false → (s.loadOf mgmt).phase = .idle → s.boot.cfgMode = 2 →
    s.boot.mcUp = true → s.boot.imgActive = false → s.boot.phase = .waitImage → lcImages s = true →
    exec (.sppWord 0xB10E5C0A) s = .next (recDone s mgmt (newLoad s.start mgmt
      { phase := .manifest, used := true, source := 3, full := true, sup := true, port := true, fifo := [0xB10E5C0A],
        bytesIn := 4 }))) ∧
  (∀ (bs : List Byte) (s : State), bs.length % 4 = 0 →
    exec (.streamWrite bs) s = .next (interrupts s ((bytesWords bs).foldl (pushWord 1) s.start))) ∧
  (∀ (bs : List Byte) (s : State), bs.length % 4 ≠ 0 →
    exec (.streamWrite bs) s = .next (interrupts s
      (if takesFrom ((bytesWords bs).foldl (pushWord 1) s.start) 1 = true then
        loadFail mgmt .badParameter ((bytesWords bs).foldl (pushWord 1) s.start)
       else (bytesWords bs).foldl (pushWord 1) s.start))) ∧
  (∀ (w : Word) (s : State), takesFrom s 1 = true → (s.loadOf mgmt).fifo.length < 4096 →
    pushWord 1 s w = settle mgmt (s.setLoad mgmt { s.loadOf mgmt with
      fifo := (s.loadOf mgmt).fifo ++ [w], bytesIn := (s.loadOf mgmt).bytesIn + 4 })) ∧
  (∀ (w : Word) (s : State), takesFrom s 1 = true → 4096 ≤ (s.loadOf mgmt).fifo.length →
    pushWord 1 s w = loadFail mgmt .badParameter s) ∧
  (∀ s : State, exec .statusRead s = .next (interrupts s { s.start with out := [.words [sspStatus s]] }))

/-- The first beat of a container for a region that may be loaded starts a load of it, and one for a region that may not
is answered BUSY; a later beat that stays within the container joins the FIFO; after an error the last beat makes the
port idle again. -/
def Obligations.IcpBeats : Prop :=
  (∀ (icp region : Nat) (d : BitVec 128) (eop : Bool) (s : State), icp ≤ 15 → icpReady s icp = true →
    (s.loadOf icp).phase = .idle → mayLoad s (region % 128) = true → loadHeld s (region % 128) = false →
    exec (.icpBeat icp d true eop region) s = .next (interrupts s
      (icpTake (startRegion (icpSeen s icp) icp (region % 128)
        { direct := 128 ≤ region % 256, region := region % 128, used := true, source := 5, port := true }) icp d eop))) ∧
  (∀ (icp region : Nat) (d : BitVec 128) (eop : Bool) (s : State), icp ≤ 15 → icpReady s icp = true →
    (s.loadOf icp).phase = .idle → mayLoad s (region % 128) = false ∨ loadHeld s (region % 128) = true →
    exec (.icpBeat icp d true eop region) s = .next (interrupts s
      (icpEop (loadRefuse icp .busy ((icpSeen s icp).setLoad icp
        { direct := 128 ≤ region % 256, region := region % 128, used := true, source := 5, port := true })) icp eop))) ∧
  (∀ (icp region : Nat) (d : BitVec 128) (s : State), icp ≤ 15 → icpReady s icp = true →
    (s.loadOf icp).phase = .manifest ∨ (s.loadOf icp).phase = .stream →
    (∀ n, containerLen (s.loadOf icp) = some n → (s.loadOf icp).bytesIn < n) →
    exec (.icpBeat icp d false false region) s = .next (recDone s icp ((icpSeen s icp).setLoad icp { s.loadOf icp with
      fifo := (s.loadOf icp).fifo ++ beatWords d, bytesIn := (s.loadOf icp).bytesIn + 16 }))) ∧
  (∀ (icp region : Nat) (d : BitVec 128) (sop : Bool) (s : State), icp ≤ 15 → icpReady s icp = true →
    (s.loadOf icp).phase = .drain →
    exec (.icpBeat icp d sop true region) s = .next (interrupts s ((icpSeen s icp).setLoad icp
      { s.loadOf icp with phase := .idle })))

/-- On a target of groups or single regions whose every member the issuer owns: PREPARE_SWAP starts the verification once
its checks pass; COMMIT_SWAP arms a READY target for a time at least 2 µs and at most 100 s ahead; ABORT_SWAP ends a
target that is verifying, READY or armed. -/
def Obligations.SwapCommands : Prop :=
  (∀ (d : Nat) (s : State), served s d 0x0203 .owner →
    targetId (frontEntry s d) ≠ 15 → ownsTarget s (frontEntry s d) (targetId (frontEntry s d)) = true →
    badTarget s (targetId (frontEntry s d)) = false →
    prepareHeld s (members s (targetId (frontEntry s d))) = false →
    prepareCheck s (targetId (frontEntry s d)) (members s (targetId (frontEntry s d))) = (.ok, 0xFF) →
    exec (.prepareSwap d) s = .next (answered s (waitCmd (frontEntry s d) []
      ((servedState s d).setTarget (targetId (frontEntry s d)) { s.targetOf (targetId (frontEntry s d)) with
        state := .verifying, status := .ok, member := 0xFF, cause := 0, prep := some ⟨d, (frontEntry s d).tag⟩, comm := none,
        members := members s (targetId (frontEntry s d)), pending := [], issuer := d })))) ∧
  (∀ (d : Nat) (s : State), served s d 0x0204 .owner →
    targetId (frontEntry s d) ≠ 15 → ownsTarget s (frontEntry s d) (targetId (frontEntry s d)) = true →
    badTarget s (targetId (frontEntry s d)) = false → (s.targetOf (targetId (frontEntry s d))).state = .ready →
    s.now + 2000 ≤ pw (frontEntry s d) 1 + pw (frontEntry s d) 2 * 0x100000000 →
    pw (frontEntry s d) 1 + pw (frontEntry s d) 2 * 0x100000000 ≤ s.now + 100000000000 →
    exec (.commitSwap d) s = .next (answered s (waitCmd (frontEntry s d) []
      ((servedState s d).setTarget (targetId (frontEntry s d)) { s.targetOf (targetId (frontEntry s d)) with
        state := .armed, init := bf (pw (frontEntry s d) 0) 16 16 == 1,
        t := pw (frontEntry s d) 1 + pw (frontEntry s d) 2 * 0x100000000, moved := 0, comm := some ⟨d, (frontEntry s d).tag⟩,
        status := .ok, member := 0xFF, cause := 0, issuer := d })))) ∧
  (∀ (d : Nat) (s : State), served s d 0x0205 .owner →
    targetId (frontEntry s d) ≠ 15 → ownsTarget s (frontEntry s d) (targetId (frontEntry s d)) = true →
    badTarget s (targetId (frontEntry s d)) = false →
    (s.targetOf (targetId (frontEntry s d))).state = .verifying ∨ (s.targetOf (targetId (frontEntry s d))).state = .ready ∨
      (s.targetOf (targetId (frontEntry s d))).state = .armed →
    exec (.abortSwap d) s = .next (answered s (finish (frontEntry s d) .ok 3 [] []
      (endTarget (targetId (frontEntry s d)) 3 (servedState s d)))))

/-- Verification without a bad frame leaves the target READY; with one it ends CRC_FAIL naming the lowest failing member,
and its failing members INCOMPLETE. At its time an armed target starts switching, group 15 applying what is staged, or
ends SWAP_ABORTED with the first member that fails. At an edge all members of one clock net take it together: a region
that keeps its state flips its frames and is held. The end of their cycle leaves the target as it is while others
wait, and the last completes it OK; one with a member still pending 1 ms after T' ends TIMEOUT. -/
def Obligations.SwapRuns : Prop :=
  (∀ (t : Nat) (s : State), (s.targetOf t).state = .verifying → (∀ k ∈ verifyFrames s t, shadowFails s k = false) →
    exec (.verifyDone t) s = .next (interrupts s (endCmd? (s.targetOf t).prep .ok 3 [0xFF]
      (s.start.setTarget t { s.targetOf t with state := .ready, prep := none, status := .ok })))) ∧
  (∀ (t k m : Nat) (s : State), (s.targetOf t).state = .verifying → k ∈ verifyFrames s t → shadowFails s k = true →
    m = (failingMembers s t ((verifyFrames s t).filter (shadowFails s))).min?.getD 0xFF →
    exec (.verifyDone t) s = .next (interrupts s (endCmd? (s.targetOf t).prep .crcFail 3 [wd m]
      (((failingMembers s t ((verifyFrames s t).filter (shadowFails s))).foldl
        (fun u r => u.setRegion r { u.regionOf r with state := .incomplete }) s.start).setTarget t { s.targetOf t with
          state := .idle, prep := none, status := .crcFail, member := m, cause := 0, consents := [] })))) ∧
  (∀ (t t' : Nat) (alive : List Nat) (s : State), t ≠ 15 → (s.targetOf t).state = .armed → decisionAt s t = some t' →
    decideFail s t alive = none →
    exec (.swapDecision t alive) s = .next (interrupts s
      (((s.targetOf t).members.filter (· != staticMember)).foldl
        (fun u r => u.setRegion r { u.regionOf r with state := .switchPending })
        (s.start.setTarget t { s.targetOf t with
          state := .switching, tPrime := t', pending := (s.targetOf t).members, switched := false })))) ∧
  (∀ (t' : Nat) (alive : List Nat) (s : State), (s.targetOf 15).state = .armed → decisionAt s 15 = some t' →
    decideFail s 15 alive = none →
    exec (.swapDecision 15 alive) s = .next (interrupts s (applyStaged
      (((s.targetOf 15).members.filter (· != staticMember)).foldl
        (fun u r => u.setRegion r { u.regionOf r with state := .switchPending })
        (s.start.setTarget 15 { s.targetOf 15 with
          state := .switching, tPrime := t', pending := (s.targetOf 15).members, switched := false }))))) ∧
  (∀ (t t' m cause : Nat) (alive : List Nat) (s : State), (s.targetOf t).state = .armed → decisionAt s t = some t' →
    decideFail s t alive = some (m, cause) →
    exec (.swapDecision t alive) s = .next (interrupts s
      ((endCmd? (s.targetOf t).comm .swapAborted 3 (commitRes m cause) (s.start.setTarget t { s.targetOf t with
        state := .idle, comm := none, tPrime := t', status := .swapAborted, member := m, cause := cause,
        consents := [] })).raiseFor (targetAccs s t) 0x2005C 0 2))) ∧
  (∀ (t r : Nat) (s : State), awaits s t r false = true →
    exec (.switchingEdge t r) s = .next (interrupts s ((netMembers s t r false).foldl (memberE0 t) s.start))) ∧
  (∀ (t r : Nat) (s u : State), r ≠ staticMember → (s.targetOf t).init = false →
    u = (flipFrames s (flipSet s t r)).setRegion r { (flipFrames s (flipSet s t r)).regionOf r with
      state := .switching, hold := true, gsr := ((flipFrames s (flipSet s t r)).regionOf r).isolated } →
    memberE0 t s r = setCycle u.refresh (tablesIn (memberArea u t r)) true) ∧
  (∀ (t r : Nat) (s : State), awaits s t r true = true → s.now ≤ (s.targetOf t).tPrime + 1000000 →
    ((((netMembers s t r true).foldl (memberE1 t) s.start).targetOf t).pending.isEmpty = false ∨
      (((netMembers s t r true).foldl (memberE1 t) s.start).targetOf t).state ≠ .switching) →
    exec (.swapCycleEnd t r) s = .next (interrupts s ((netMembers s t r true).foldl (memberE1 t) s.start))) ∧
  (∀ (t r : Nat) (s u : State), awaits s t r true = true → s.now ≤ (s.targetOf t).tPrime + 1000000 →
    u = (netMembers s t r true).foldl (memberE1 t) s.start → (u.targetOf t).pending.isEmpty = true →
    (u.targetOf t).state = .switching →
    exec (.swapCycleEnd t r) s = .next (interrupts s
      ((endCmd? (u.targetOf t).comm .ok 3
          [wd (u.targetOf t).tPrime, wd ((u.targetOf t).tPrime / 0x100000000), wd s.now, wd (s.now / 0x100000000)]
        (u.setTarget t { u.targetOf t with
          state := restState t, comm := none, tEnd := s.now, status := .ok, member := 0xFF, cause := 0,
          consents := [] })).raiseFor (targetAccs s t) 0x2005C 0 1))) ∧
  (∀ (t : Nat) (s : State), (s.targetOf t).state = .switching → (s.targetOf t).pending.isEmpty = false →
    (s.targetOf t).tPrime + 1000000 < s.now →
    exec (.commitTimeout t) s = .next (interrupts s
      ((endCmd? (s.targetOf t).comm .timeout 3 (commitRes ((s.targetOf t).pending.min?.getD 0xFF) 2)
        ((((s.targetOf t).pending.filter (· != staticMember)).foldl
            (fun u r => u.setRegion r { u.regionOf r with late := true }) s.start).setTarget t { s.targetOf t with
          state := .idle, comm := none, status := .timeout, member := (s.targetOf t).pending.min?.getD 0xFF, cause := 2,
          consents := [] })).raiseFor (targetAccs s t) 0x2005C 0 4)))

/-- A pass that is due begins with its canary read, and at a period boundary each pass that has not ended counts as an
overrun; a canary that fails is rewritten and its band only detects from then on; a read that completes is decided on
and the engine moves on; a frame without an error is left alone, one with correctable errors is corrected, and a
damaged one of a recorded source waits for a reload, which restores it or marks it; a microcode parity error halts
every engine and leaves the configuration alone; a clean day doubles the active period up to the configured one. -/
def Obligations.Scrubbing : Prop :=
  (∀ (b : Nat) (c1 c2 : Bool) (s : State), b ≤ 15 → s.scr.enable = true → s.scr.halted = false → scrRuns s b = true →
    boundaryDue s = false → (s.scrOf b).reading = false → (s.scrOf b).due = true →
    exec (.scrubPassStart b c1 c2) s = .next (interrupts s (canaryRead (passBegin s.start b false) b c1 c2))) ∧
  (∀ (b : Nat) (c1 c2 : Bool) (s : State), b ≤ 15 → s.scr.enable = true → s.scr.halted = false → scrRuns s b = true →
    boundaryDue s = true →
    exec (.scrubPassStart b c1 c2) s = .next (interrupts s
      (if (s.scrOf b).reading = true then scrBoundary s.start
       else canaryRead (passBegin (scrBoundary s.start) b false) b c1 c2))) ∧
  (∀ s : State, (scrBoundary s).scr.overrun =
    min 0xFFFFFFFF (s.scr.overrun + ((List.range 16).filter fun b => scrRuns s b && (s.scrOf b).reading).length)) ∧
  (∀ (b : Nat) (c2 : Bool) (s : State), canaryOk s b = true → canaryRead s b true c2 = s) ∧
  (∀ (b : Nat) (c1 : Bool) (s : State), (c1 && canaryOk s b) = false → (s.scrOf b).detect = false →
    canaryRead s b c1 false = scrEvent ((writeCanary s b).setScr b { (writeCanary s b).scrOf b with detect := true })
      5 (canaryKey b) true .ok 4 0) ∧
  (∀ (b tmr : Nat) (ups : List (Nat × Bool × Nat)) (c1 c2 : Bool) (s u : State), b ≤ 15 → u = checkState ups tmr s.start →
    (u.scrOf b).reading = true → u.scr.halted = false → scrRuns u b = true → (u.scrOf b).canary = true →
    exec (.frameCheck b ups tmr c1 c2) s = .next (interrupts s
      (canaryRead (u.setScr b { u.scrOf b with canary := false, at_ := u.now }) b c1 c2))) ∧
  (∀ (b key tmr : Nat) (ups : List (Nat × Bool × Nat)) (c1 c2 : Bool) (s u : State), b ≤ 15 → u = checkState ups tmr s.start →
    (u.scrOf b).reading = true → u.scr.halted = false → scrRuns u b = true → (u.scrOf b).canary = false →
    key = frameKey b (u.scrOf b).col (u.scrOf b).minor →
    exec (.frameCheck b ups tmr c1 c2) s = .next (interrupts s (scrAdvance
      (readEnds (if scrLeaves u b = true then u else frameDecide b key c1 c2 u) b key) b))) ∧
  (∀ (b key : Nat) (c1 c2 : Bool) (s : State), planeErrs (s.frameOf key).active = [] →
    crc32c (wordBytes (planeRead (s.frameOf key).active)) = (s.frameOf key).active.sig →
    planeBad (s.frameOf key).active = false → frameDecide b key c1 c2 s = s) ∧
  (∀ (b key w : Nat) (c1 c2 : Bool) (s : State), (s.frameOf key).active.uncorr = false → (s.frameOf key).active.pend = false →
    planeBad (s.frameOf key).active = false →
    crc32c (wordBytes (planeRead (s.frameOf key).active)) = (s.frameOf key).active.sig →
    ((planeErrs (s.frameOf key).active).map fun e => e.1).min? = some w →
    frameDecide b key c1 c2 s = frameCorrect b key w c1 c2 s) ∧
  (∀ (b key w : Nat) (s : State), (s.frameOf key).active.src ≠ .pushed → (s.frameOf key).active.src ≠ .unwritten →
    scrWrites s b = true →
    frameDamaged b key w s = setActive s key { (s.frameOf key).active with pend := true, word := w }) ∧
  (∀ (far : Nat) (physB : Bool) (r : ReloadRead) (c2 : Bool) (p : Plane) (s u : State),
    p = (if physB = true then (s.frameOf (bf far 29 8)).b else (s.frameOf (bf far 29 8)).a) → p.pend = true →
    s.scr.halted = false → mcRuns s = true → reloadWaits s.start p = false → canaryOk s (keyBand (bf far 29 8)) = true →
    (s.scrOf (keyBand (bf far 29 8))).detect = false → u = reloadMeets s.start p →
    exec (.frameReload far physB r true c2) s = .next (interrupts s
      (if reloadStatus u (bf far 29 8) p r = .ok then
        scrEvent (scrActed (((setPhys u (bf far 29 8) physB
            { p with payload := packWords (fetchFrame u (bf far 29 8) p true).words, flips := [], pend := false }).refresh).setScr
          (keyBand (bf far 29 8)) { u.scrOf (keyBand (bf far 29 8)) with
            rel := sat 0xFFFFFFFF (u.scrOf (keyBand (bf far 29 8))).rel }) (keyBand (bf far 29 8)))
          2 (bf far 29 8) true .ok (srcCode p.src) p.word
       else markUncorr u (bf far 29 8) physB (reloadStatus u (bf far 29 8) p r) p.word))) ∧
  (∀ s : State, ∃ u, exec .microcodeParityError s = .next (interrupts s u) ∧ u.scr.halted = true ∧ u.cfg = s.cfg ∧
    u = (({ s.start with scr := { s.scr with
        halted := true
        bands := s.scr.bands.foldl (fun (m : SMap ScrBand) (e : Nat × ScrBand) =>
          SMap.set dScrB m e.1 { e.2 with reading := false, due := false }) [] } }).raiseAll 0x30040 0 0x10).post
      allDomains 4 .testFail 0 0xFF 0) ∧
  (∀ s : State, s.scr.enable = true → s.scr.since + 86400000000000 ≤ s.uptime → s.scr.active < s.scr.cfg →
    exec .activePeriodDouble s = .next (interrupts s
      (({ s.start with scr := { s.scr with
          since := s.scr.since + 86400000000000, active := min s.scr.cfg (2 * s.scr.active) } }).policy .ok 2 0
        (min s.scr.cfg (2 * s.scr.active))))) ∧
  (∀ s : State, s.scr.enable = true → s.scr.since + 86400000000000 ≤ s.uptime → s.scr.cfg ≤ s.scr.active →
    exec .activePeriodDouble s = .next (interrupts s
      { s.start with scr := { s.scr with since := s.scr.since + 86400000000000 } })) ∧
  (∀ s : State, s.uptime < s.scr.since + 86400000000000 →
    exec .activePeriodDouble s = .next (interrupts s s.start))

/-- The flits of a packet that a design presents at a network interface of a band that is ON and not latched: a well-
formed packet from a live endpoint that is not muzzled, with room on its path, is stamped with the interface's source,
generation, epoch and, if a request, domain, recorded while an answer is owed, and routed, a multicast as such; a
malformed one is counted, and answered with BAD_PARAMETER where an answer is owed. -/
def Obligations.NocInjection : Prop :=
  (∀ (ep : Nat) (rsp : Bool) (fl : List (BitVec 256)) (q : Pkt) (s : State), ep < 128 → fl.isEmpty = false →
    s.noc.running = true → (s.bandOf (ep / 8)).state = .on → latchAt s (ep / 8) (niCol (ep % 8)) = false →
    q = (if (stamped s ep (pktOf fl)).op = .rdRsp then
      { stamped s ep (pktOf fl) with data := payload fl (stamped s ep (pktOf fl)).len } else stamped s ep (pktOf fl)) →
    malformed s (servedId s ep) rsp q fl.length = false → isMuzzled s (servedId s ep) = false → isMuzzled s q.src = false →
    (s.mapOf q.src).phys = ep → (s.mapOf q.src).gen = q.gen → q.op = .mcw ∨ pathRoom s q = true →
    exec (.niInject ep rsp fl) s = .next (interrupts s ((if q.op = .mcw then sendPkt else route)
      (if nonPosted q.op then setOut s.start (servedId s ep) q.tag (some (outOf s q)) else s.start) q))) ∧
  (∀ (ep : Nat) (rsp : Bool) (fl : List (BitVec 256)) (q : Pkt) (s : State), ep < 128 → fl.isEmpty = false →
    s.noc.running = true → (s.bandOf (ep / 8)).state = .on → latchAt s (ep / 8) (niCol (ep % 8)) = false →
    q = (if (stamped s ep (pktOf fl)).op = .rdRsp then
      { stamped s ep (pktOf fl) with data := payload fl (stamped s ep (pktOf fl)).len } else stamped s ep (pktOf fl)) →
    malformed s (servedId s ep) rsp q fl.length = true →
    exec (.niInject ep rsp fl) s = .next (interrupts s
      (if nonPosted q.op then
        (bump s.start q.src 8).emitPkt ep (localAnswer s q.src q.tag (outOf s q) .badParameter)
       else bump s.start q.src 8))) ∧
  (∀ (ep : Nat) (fl : List (BitVec 256)) (s : State), (stamped s ep (pktOf fl)).src = (niOf s ep).1 ∧
    (stamped s ep (pktOf fl)).gen = (niOf s ep).2 ∧ (stamped s ep (pktOf fl)).epoch = s.noc.epoch ∧
    (isRsp (pktOf fl).op = false → (stamped s ep (pktOf fl)).dom = fabDomain s (ep % 8) (ep / 8)))

/-- A packet leaves the network where nothing that it may not pass is ahead of it, and a parked one for a band being
drained where it is the first of its router. A request that arrives is delivered, a multicast to each member, one for
the CSR endpoint to the registers; one that no firewall window passes is denied where the endpoint has no rules of its
own; one for a fabric endpoint in a band that is ON appears at its interface. -/
def Obligations.NocArrival : Prop :=
  (∀ (p : Pkt) (s : State), draining s p = false → p ∈ s.noc.flight →
    (ahead p s.noc.flight).any (holdsBack p) = false →
    takeFlight s p = some { s with noc := { s.noc with
      ejAt := SMap.set dNat s.noc.ejAt (pktEp p) s.uptime, busyAt := busyBand s s.noc.busyAt (pktEp p),
      flight := s.noc.flight.erase p } }) ∧
  (∀ (p : Pkt) (qs : List Pkt) (s : State), draining s p = true → parkedAt s (epRouter s (pktEp p)) = p :: qs →
    takeFlight s p = some (setParked { s with noc := { s.noc with
      ejAt := SMap.set dNat s.noc.ejAt (pktEp p) s.uptime, busyAt := busyBand s s.noc.busyAt (pktEp p) } }
      (epRouter s (pktEp p)) qs)) ∧
  (∀ (p : Pkt) (s u : State), p.op = .rd → takeFlight s.start p = some u →
    exec (.rd p) s = .next (interrupts s (deliver p u))) ∧
  (∀ (p : Pkt) (s u : State), p.op = .wrNp → takeFlight s.start p = some u →
    exec (.wrNp p) s = .next (interrupts s (deliver p u))) ∧
  (∀ (p : Pkt) (s u : State), p.op = .wrP → takeFlight s.start p = some u →
    exec (.wrP p) s = .next (interrupts s (deliver p u))) ∧
  (∀ (p : Pkt) (r : OutReq) (s u : State), p.op = .mcw → takeFlight s.start p = some u → outReq u p.src p.tag = some r →
    exec (.mcw p) s = .next (interrupts s ((maskMembers p.mask).foldl (sendMember p)
      (setOut u p.src p.tag (some { r with t := s.uptime }))))) ∧
  (∀ (p : Pkt) (s u : State), p.op = .rd ∨ p.op = .wrNp ∨ p.op = .wrP → pktEp p = 0x119 → takeFlight s.start p = some u →
    exec (.csrEndpointAccess p) s = .next (interrupts s (csrEndpoint p u))) ∧
  (∀ (p : Pkt) (s : State), isMuzzled s (pktEp p) = false → linkDown s (pktEp p) = false → fwPass s p = false →
    ownRules (pktEp p) = false → deliver p s = deny s p) ∧
  (∀ (p : Pkt) (s : State), pktEp p < 0x80 → isMuzzled s (pktEp p) = false → fwPass s p = true → sleepNear s = false →
    (s.bandOf (s.mapOf (pktEp p)).row).state = .on →
    deliver p s = { s with out := s.out ++ [.noc (s.mapOf (pktEp p)).phys (pktFlits p)] })

/-- An answer for an endpoint outside the fabric ends the request it belongs to; one to a multicast counts for its member;
one that comes late is dropped and counted; a management request is answered with a packet that is then under way,
while fewer than four are; the answer's arrival ends it. The data of a management read are free (log entry 23). -/
def Obligations.NocAnswers : Prop :=
  (∀ (p : Pkt) (r : OutReq) (s u : State), p.op = .rdRsp → takeFlight s.start p = some u → isMuzzled u (pktEp p) = false →
    epBand u (pktEp p) = none → lateOf u p = none → outReq u (pktEp p) p.tag = some r → r.op ≠ .mcw →
    exec (.rdRsp p) s = .next (interrupts s (deliverAnswer (setOut u (pktEp p) p.tag none) (pktEp p) p))) ∧
  (∀ (p : Pkt) (r : OutReq) (s u : State), p.op = .wrRsp ∨ p.op = .mcwRsp → takeFlight s.start p = some u →
    isMuzzled u (pktEp p) = false → epBand u (pktEp p) = none → lateOf u p = none →
    outReq u (pktEp p) p.tag = some r → r.op ≠ .mcw →
    exec (.wrRsp p) s = .next (interrupts s (deliverAnswer (setOut u (pktEp p) p.tag none) (pktEp p) p))) ∧
  (∀ (p : Pkt) (r : OutReq) (s u : State), p.op = .wrRsp → takeFlight s.start p = some u →
    isMuzzled u (pktEp p) = false → epBand u (pktEp p) = none → lateOf u p = none →
    outReq u (pktEp p) p.tag = some r → r.op = .mcw →
    exec (.wrRsp p) s = .next (interrupts s (memberAnswer u (pktEp p) p.tag r (p.src - naEp r.dst) p.status))) ∧
  (∀ (p : Pkt) (l : LateRsp) (s u : State), p.op = .rdRsp → takeFlight s.start p = some u →
    isMuzzled u (pktEp p) = false → epBand u (pktEp p) = none → lateOf u p = some l →
    exec (.rdRsp p) s = .next (interrupts s (dropRsp u p l.ctr))) ∧
  (∀ (p : Pkt) (s : State), p.op = .mgRd → s.noc.running = true → s.noc.mgOut < 4 → 0x80 ≤ pktEp p →
    (s.mapOf (pktEp p)).state ≠ .unassigned →
    ∃ a : Pkt, a.op = .mgRsp ∧ a.len = 4 ∧ a.data = leBytes 4 (Config.freeBits s.free).toNat ∧
      exec (.mgRd p) s = .next (interrupts s (sendPkt { s.start with
        free := s.free + 1, noc := { s.noc with mgOut := s.noc.mgOut + 1 } } a))) ∧
  (∀ (p : Pkt) (s : State), p.op = .mgWr → s.noc.running = true → s.noc.mgOut < 4 → 0x80 ≤ pktEp p →
    (s.mapOf (pktEp p)).state ≠ .unassigned →
    ∃ a : Pkt, a.op = .mgRsp ∧ a.len = 4 ∧ exec (.mgWr p) s = .next (interrupts s (sendPkt { s.start with
      noc := { s.noc with mgOut := s.noc.mgOut + 1 } } a))) ∧
  (∀ (p : Pkt) (s u : State), p.op = .mgRsp → takeFlight s.start p = some u →
    exec (.mgRsp p) s = .next (interrupts s
      (({ u with noc := { u.noc with mgOut := u.noc.mgOut - 1 } }).emitPkt 0x118 p)))

/-- A request that is not answered in its time completes with TIMEOUT and its destination is declared dead, of a multicast
each member that is silent; an endpoint that has not ejected for 100 µs is muzzled with cause 2; a route update ends
when no packet of the old epoch is left, or with TIMEOUT after 10 ms; only the MC clears a router's counters. -/
def Obligations.NocTimeouts : Prop :=
  (∀ (ep tag : Nat) (r : OutReq) (s u : State), outReq s ep tag = some r → timerPaused s ep = false → requestDue s r = true →
    r.op ≠ .mcw →
    u = expectLate (nocLast (nocInt (bump s.start ep 5) (epOwner s ep) 2) 5 0 .timeout ep) ep tag r 6 →
    exec (.nocTimeout ep tag) s = .next (interrupts s (declareDead
      (deliverAnswer (setOut u ep tag none) ep (localAnswer u ep tag r .timeout)) (naEp r.dst)))) ∧
  (∀ (ep tag : Nat) (r : OutReq) (s u : State), outReq s ep tag = some r → timerPaused s ep = false → requestDue s r = true →
    r.op = .mcw →
    u = expectLate ((silent r).foldl (fun u _ => nocLast (nocInt (bump u ep 5) (epOwner u ep) 2) 5 0 .timeout ep) s.start)
      ep tag r 6 →
    exec (.nocTimeout ep tag) s = .next (interrupts s ((silent r).foldl declareDead
      (mcwDone u ep tag { r with mcw := r.mcw ++ (silent r).map fun i => (i - naEp r.dst, Status.timeout) })))) ∧
  (∀ (ep : Nat) (s : State), neverDead ep = false → (s.mapOf ep).state = .live →
    (s.noc.flight.any fun p => pktEp p == ep && p.op != .mcw) = true → SMap.get dNat s.noc.ejAt ep + 100000 ≤ s.uptime →
    exec (.ejectionStall ep) s = .next (interrupts s (muzzle s.start ep 2))) ∧
  (∀ s : State, s.noc.drain = true → drained s = true →
    exec .routeDrainDone s = .next (interrupts s
      (routeEnd { s.start with noc := { s.noc with drain := false, drain10 := false } } .ok))) ∧
  (∀ s : State, s.noc.drain = true → s.noc.routeCmd ≠ none → drained s = false → s.noc.routeAt + 10000000 ≤ s.uptime →
    exec .routeUpdateTimeout s = .next (interrupts s
      (routeEnd { s.start with noc := { s.noc with drain10 := true } } .timeout))) ∧
  (∀ (v : Word) (s : State), wb v 0 = true → exec (.rtrClear (.dom .mc) v) s = .next (interrupts s { s.start with
      noc := { s.noc with vc0 := s.noc.vc0.filter fun e => e.1 / 8 != rtrIx s (.dom .mc) } })) ∧
  (∀ (acc : Accessor) (v : Word) (s : State), acc ≠ .dom .mc → exec (.rtrClear acc v) s = .next (interrupts s s.start))

/-- NOC_MUZZLE muzzles an endpoint of the issuer with cause 3; NOC_REHABILITATE makes one that is not live live again;
NOC_REMAP moves the identity of a muzzled fabric endpoint to a live one of the same owner; NOC_ROUTE_UPDATE of the
lead domain writes the table of the other epoch and switches to it where no refusal holds. -/
def Obligations.NocCommands : Prop :=
  (∀ (d id : Nat) (s : State), served s d 0x0401 .owner → id = pw (frontEntry s d) 0 % 512 → unownable s id = false →
    epOwner s id = ownerOf d → (s.mapOf id).state ≠ .retired →
    exec (.nocMuzzle d) s = .next (answered s (finish (frontEntry s d) .ok 1 [] [] (muzzle (servedState s d) id 3)))) ∧
  (∀ (d id : Nat) (s : State), served s d 0x0402 .owner → id = pw (frontEntry s d) 0 % 512 → unownable s id = false →
    epOwner s id = ownerOf d → (s.mapOf id).state ≠ .live →
    exec (.nocRehabilitate d) s = .next (answered s (finish (frontEntry s d) .ok 1 [] []
      (rehabilitate (servedState s d) id)))) ∧
  (∀ (d a b : Nat) (s : State), served s d 0x0403 .owner → a = pw (frontEntry s d) 0 % 512 →
    b = pw (frontEntry s d) 1 % 512 → a < 0x80 → b < 0x80 → epOwner s a = ownerOf d → epOwner s b = ownerOf d →
    (s.mapOf a).state = .muzzled → (s.mapOf b).state = .live → outTags s b = [] → parkedFor s b = 0 →
    exec (.nocRemap d) s = .next (answered s (finish (frontEntry s d) .ok 1 [] [] (remap (servedState s d) a b)))) ∧
  (∀ (d n : Nat) (es : List (Nat × Nat × Nat)) (s u new : State), served s d 0x0404 .lead → u = servedState s d →
    n = (if pw (frontEntry s d) 1 % 1024 = 0 then 1024 else pw (frontEntry s d) 1 % 1024) →
    bufOk (pw (frontEntry s d) 0) (4 * n) = true →
    es = (bytesWords (readBuf u (frontEntry s d) (pw (frontEntry s d) 0) (4 * n))).map (fun w => routeEntry w.toNat) →
    es.any (fun x => 4 < x.2.2) = false → s.noc.drain = false →
    new = { u with noc := { u.noc with routes := updatedRoutes u es, epoch := otherEpoch u } } →
    routeRefusal new = none →
    exec (.nocRouteUpdate d) s = .next (answered s (waitCmd (frontEntry s d) [] { new with
      noc := { new.noc with
        drain := true, drain10 := false, routeCmd := some (d, (frontEntry s d).tag),
        routeAt := s.uptime } })))

/-- An input of a live port that takes its pin: the level accepted after the filter's run of samples reaches fp_in, and
fp_evt in modes 1 to 4; where the capture of that edge is on, the time of the first sample is queued with its
direction, and an edge that finds four waiting is counted and marked instead; a shorter run changes the pad alone; an
LVDS pair in mode 5 takes its word. A read of TS_LO by one who may touch the port pops the oldest and latches the rest
for that accessor; another reads 0. -/
def Obligations.PortInputs : Prop :=
  (∀ (n : Nat) (level : Bool) (word : BitVec 8) (p : Port) (s u v : State), n < 1024 → p = s.portOf n → portLive s n = true →
    lvds s n = false → takesInput (portMode s n) = true → p.fpIn ≠ level → p.fpAt + wf p.cfg 15 0 + 1 ≤ s.uptime →
    u = rawIn (s.start.setPort n { p with pad := level != wb p.cfg 25 }) n p.pad (level != wb p.cfg 25) →
    v = lineChange (edgeEvent (portMode s n) n ((u.setPort n { u.portOf n with fpIn := level, fpAt := s.uptime }).emit
      (.wire "fp_in" n (b2n level)))) n level →
    exec (.acceptedEdge n level word) s = .next (interrupts s
      (if wb p.cfg (if level then 26 else 27) = true ∧ portMode s n ≠ 7 ∧ portMode s n ≠ 9 then
        pushStamp v n (stampAt s.start (s.uptime - wf p.cfg 15 0)) level else v))) ∧
  (∀ (n : Nat) (level : Bool) (word : BitVec 8) (p : Port) (s : State), n < 1024 → p = s.portOf n → portLive s n = true →
    lvds s n = false → takesInput (portMode s n) = false ∨ p.fpIn = level ∨ s.uptime < p.fpAt + wf p.cfg 15 0 + 1 →
    exec (.acceptedEdge n level word) s = .next (interrupts s
      (rawIn (s.start.setPort n { p with pad := level != wb p.cfg 25 }) n p.pad (level != wb p.cfg 25)))) ∧
  (∀ (n : Nat) (level : Bool) (word : BitVec 8) (p : Port) (s u : State), n < 1024 → p = s.portOf n → portLive s n = true →
    lvds s n = true → n % 2 = 0 → portMode s n = 5 →
    u = rawIn (s.start.setPort n { p with pad := level != wb p.cfg 25 }) n p.pad (level != wb p.cfg 25) →
    exec (.acceptedEdge n level word) s = .next (interrupts s
      ((u.setPort n { u.portOf n with des := word }).emit (.wire "lvds_word" n word.toNat)))) ∧
  (∀ (m n : Nat) (s : State), edgeEvent m n s =
    if m = 1 ∨ m = 2 ∨ m = 3 ∨ m = 4 then s.emit (.wire "fp_evt" n 1) else s) ∧
  (∀ (n t : Nat) (rising : Bool) (s : State), (s.portOf n).ts.length < 4 →
    pushStamp s n t rising = portBits (s.setPort n { s.portOf n with
      ts := (s.portOf n).ts ++ [{ t, rising, ovf := (s.portOf n).ovfPend }], ovfPend := false }) n 1) ∧
  (∀ (n t : Nat) (rising : Bool) (s : State), 4 ≤ (s.portOf n).ts.length →
    pushStamp s n t rising = portEvent (s.setPort n { s.portOf n with
      ovfCnt := sat 255 (s.portOf n).ovfCnt, ovfPend := true }) n 2) ∧
  (∀ (acc : Accessor) (e : Stamp) (rest : List Stamp) (s : State), mayTouch acc (s.owner (resPort (portIx s acc))) = true →
    (s.portOf (portIx s acc)).ts = e :: rest →
    exec (.tsLoRead acc) s = .next (interrupts s ((((s.start.setPort (portIx s acc)
      { s.portOf (portIx s acc) with ts := rest }).setCopy (acode acc) 0x70028 0 (wd (e.t / 2 ^ 32))).setCopy (acode acc) 0x70020 0
      (wd (2 ^ 31 + b2n e.rising * 2 ^ 30 + b2n e.ovf * 2 ^ 29))).emit (.words [wd e.t])))) ∧
  (∀ (acc : Accessor) (s : State), mayTouch acc (s.owner (resPort (portIx s acc))) = false →
    exec (.tsLoRead acc) s = .next (interrupts s (s.start.emit (.words [0]))))

/-- An entry is queued behind the others or refused with the status that says why; a flush empties the queue; the head is
not applied before its time, and then with all entries of the same time; entries that were already due are applied at
once and counted as late. -/
def Obligations.PortSchedules : Prop :=
  (∀ (acc : Accessor) (n : Nat) (v : Word) (p : Port) (s : State), n = portIx s acc → p = s.portOf n →
    mayTouch acc (s.owner (resPort n)) = true → wb v 31 = true → wb v 30 = false → pushStatus s n (wf v 1 0) = .ok →
    exec (.schedPush acc v) s = .next (interrupts s (s.start.setPort n { p with
      sched := p.sched ++ [{ t := p.tLo.toNat + p.tHi.toNat * 2 ^ 32, act := wf v 1 0, oneShot := wb v 2 }],
      headAt := if p.sched.isEmpty then s.now else p.headAt, schedSt := .ok }))) ∧
  (∀ (acc : Accessor) (n : Nat) (v : Word) (s : State), n = portIx s acc →
    mayTouch acc (s.owner (resPort n)) = true → wb v 31 = true → wb v 30 = false → pushStatus s n (wf v 1 0) ≠ .ok →
    exec (.schedPush acc v) s = .next (interrupts s (s.start.setPort n
      { s.portOf n with schedSt := pushStatus s n (wf v 1 0) }))) ∧
  (∀ (acc : Accessor) (n : Nat) (v : Word) (s : State), n = portIx s acc →
    mayTouch acc (s.owner (resPort n)) = true → wb v 31 = false → wb v 30 = true →
    exec (.schedFlush acc v) s = .next (interrupts s (s.start.setPort n { s.portOf n with sched := [] }))) ∧
  (∀ (n : Nat) (e : Sched) (rest : List Sched) (s : State), (s.portOf n).sched = e :: rest → portLive s n = true →
    s.now < e.t → (s.portOf n).headAt + 8 < e.t →
    exec (.scheduleApply n) s = .next (interrupts s s.start)) ∧
  (∀ (n : Nat) (e : Sched) (rest : List Sched) (s : State), (s.portOf n).sched = e :: rest → portLive s n = true →
    e.t ≤ s.now → (s.portOf n).headAt + 8 < e.t →
    exec (.scheduleApply n) s = .next (interrupts s (((sameTime (e :: rest)).1).foldl
      (fun u x => portEvent (applyEntry u n (s.portOf n).headAt x) n 4)
      (s.start.setPort n { s.portOf n with sched := (sameTime (e :: rest)).2, headAt := s.now })))) ∧
  (∀ (n : Nat) (e : Sched) (rest : List Sched) (s : State), (s.portOf n).sched = e :: rest → portLive s n = true →
    e.t ≤ (s.portOf n).headAt + 8 →
    exec (.scheduleApply n) s = .next (interrupts s (portLate (((sameTime (e :: rest)).1).foldl
      (fun u x => portEvent (applyEntry u n s.now x) n 4)
      (s.start.setPort n { s.portOf n with
        sched := (sameTime (e :: rest)).2, headAt := s.now,
        late := min 255 ((s.portOf n).late + ((sameTime (e :: rest)).1).length) })) n)))

/-- A write of OUT_CTRL drives a port in level mode at once and clears a forced-safe latch where bit 3 is 1; a write of a
mode that the port cannot take is an error, and a change to mode 0 makes the port enter it; PWM places its falling
edge and its next rising edge. -/
def Obligations.PortOutputs : Prop :=
  (∀ (acc : Accessor) (n : Nat) (v : Word) (s : State), n = portIx s acc → mayTouch acc (s.owner (resPort n)) = true →
    portMode s n = 2 →
    exec (.levelWrite acc v) s = .next (interrupts s (driveMode (s.start.setPort n { s.portOf n with
      outCtrl := v &&& 0x35, forced := (s.portOf n).forced && !wb v 3 }) n (if wb v 2 then lvl (wb v 0) else .z) 1))) ∧
  (∀ (acc : Accessor) (n : Nat) (v : Word) (s : State), n = portIx s acc → mayTouch acc (s.owner (resPort n)) = true →
    portMode s n ≠ 2 →
    exec (.levelWrite acc v) s = .next (interrupts s (putPort s.start n { s.portOf n with
      outCtrl := v &&& 0x35, forced := (s.portOf n).forced && !wb v 3 }))) ∧
  (∀ (acc : Accessor) (n : Nat) (v : Word) (s : State), n = portIx s acc → mayTouch acc (s.owner (resPort n)) = true →
    wb v 3 = true →
    exec (.safeClear acc v) s = exec (.levelWrite acc v) s) ∧
  (∀ (acc : Accessor) (v : Word) (s : State), wb v 3 = false →
    exec (.safeClear acc v) s = .next (interrupts s s.start)) ∧
  (∀ (acc : Accessor) (n : Nat) (v : Word) (s : State), n = portIx s acc → mayTouch acc (s.owner (resPort n)) = true →
    ringTakes s n = false → 9 ≤ wf v 31 28 ∨ (pairMode (wf v 31 28) = true ∧ n % 2 = 1) →
    exec (.modeChange acc v) s = .next (interrupts s (s.start.setPort n
      { s.portOf n with int := (s.portOf n).int ||| 0x40 }))) ∧
  (∀ (acc : Accessor) (n : Nat) (v : Word) (s : State), n = portIx s acc → mayTouch acc (s.owner (resPort n)) = true →
    ringTakes s n = false → portMode s n ≠ 9 → wf v 31 28 = 0 → wf (s.portOf n).cfg 31 28 ≠ 0 → n % 2 = 1 →
    exec (.modeChange acc v) s = .next (interrupts s
      (enterMode (s.start.setPort n { s.portOf n with cfg := v &&& 0xFEFFFFFF }) n 0))) ∧
  (∀ (n : Nat) (r : PwmRun) (s : State), (s.portOf n).run = some r → portLive s n = true → portMode s n = 3 →
    r.high = true → r.wait = false → r.since + 8 < r.t0 + r.h → r.t0 + r.h ≤ s.now →
    exec (.pwmEdge n) s = .next (interrupts s (driveMode (s.start.setPort n { s.portOf n with
      run := some { r with high := false } }) n .low 3))) ∧
  (∀ (n : Nat) (r : PwmRun) (s : State), (s.portOf n).run = some r → portLive s n = true → portMode s n = 3 →
    r.high = false → r.wait = false → r.since + 8 < r.t0 + r.p → r.oneShot = false → r.t0 + r.p ≤ s.now →
    (s.portOf n).pwmP ≠ 0 → (s.portOf n).pwmH ≠ 0 →
    exec (.pwmEdge n) s = .next (interrupts s (driveMode (s.start.setPort n { s.portOf n with
      run := some { r with
        t0 := r.t0 + r.p, wait := false, p := (s.portOf n).pwmP.toNat, h := (s.portOf n).pwmH.toNat,
        high := decide ((s.portOf n).pwmH.toNat < (s.portOf n).pwmP.toNat) } }) n .high 3)))

/-- The quadrature counter follows the inputs of both ports in the order of their changes, counts up or down by the
direction and takes a change of both in one sample for an error; an encoder frame begins at its time, or raises
PAIR_ERR where the data line is low, and its end stores the position read or raises PAIR_ERR; a UART byte received is
queued with its error flags and 16 deep, a byte to send waits in turn, and a read of PAIR_DATA pops the oldest. -/
def Obligations.PortPairs : Prop :=
  (∀ (n : Nat) (p q : Port) (s : State), n < 1024 → n % 2 = 0 → portLive s n = true → portMode s n = 6 →
    p = s.portOf n → q = s.portOf (n + 1) →
    exec (.quadTransition n) s = .next (interrupts s
      (if p.fpAt < q.fpAt then quadStep n p.fpIn q.fpIn (quadStep n p.fpIn p.quadB s.start)
       else if q.fpAt < p.fpAt then quadStep n p.fpIn q.fpIn (quadStep n p.quadA q.fpIn s.start)
       else quadStep n p.fpIn q.fpIn s.start))) ∧
  (∀ (n : Nat) (a b : Bool) (s u : State), (s.portOf n).quadA ≠ a → (s.portOf n).quadB ≠ b →
    u = s.setPort n { s.portOf n with quadA := a, quadB := b } →
    quadStep n a b s = portPairErr (u.setPort n { u.portOf n with errCnt := sat 255 (s.portOf n).errCnt }) n) ∧
  (∀ (n : Nat) (a : Bool) (c : Word) (s u : State), (s.portOf n).quadA ≠ a → wf (s.portOf n).pairCfg 1 0 = 2 →
    c = (if (a != (s.portOf n).quadB) != wb (s.portOf n).pairCfg 2 then (s.portOf n).pairData + 1
         else (s.portOf n).pairData - 1) → u = s.setPort n { s.portOf n with quadA := a } →
    quadStep n a (s.portOf n).quadB s =
      if c = (s.portOf n).pwmH then portPair (u.setPort n { u.portOf n with pairData := c }) n
      else u.setPort n { u.portOf n with pairData := c }) ∧
  (∀ (n : Nat) (r : PwmRun) (s u : State), (s.portOf n).run = some r → portLive s n = true → portMode s n = 7 →
    r.t0 ≤ s.now → (s.portOf n).busy = false → r.oneShot = true → (s.portOf (n + 1)).fpIn = true →
    u = s.start.setPort n { s.portOf n with run := none } →
    exec (.encoderFrame n) s = .next (interrupts s ((putPort u n { u.portOf n with
      busy := true, frameAt := s.uptime, frameNs := s.now, line := [(s.uptime, true)], mode := .low, driver := 7 }).emit
        (.wire "enc_clock" n (encBits (s.portOf n) * 0x10000 + encHalf (s.portOf n)))))) ∧
  (∀ (n : Nat) (r : PwmRun) (s : State), (s.portOf n).run = some r → portLive s n = true → portMode s n = 7 →
    r.t0 ≤ s.now → (s.portOf n).busy = false → r.oneShot = true → (s.portOf (n + 1)).fpIn = false →
    exec (.encoderFrame n) s = .next (interrupts s
      (portPairErr (s.start.setPort n { s.portOf n with run := none }) n))) ∧
  (∀ (n : Nat) (p : Port) (s : State), p = s.portOf n → p.busy = true → portMode s n = 7 → encReady p = false →
    p.frameAt + 2 * encHalf p * encBits p ≤ s.uptime → encLimit p < s.uptime →
    exec (.encoderFrameEnd n) s = .next (interrupts s
      (portPairErr (putPort s.start n { p with busy := false, line := [], mode := .high }) n))) ∧
  (∀ (n : Nat) (p : Port) (s u : State), p = s.portOf n → p.busy = true → portMode s n = 7 → encReady p = true →
    p.frameAt + 2 * encHalf p * encBits p ≤ s.uptime → u = putPort s.start n { p with busy := false, line := [], mode := .high } →
    exec (.encoderFrameEnd n) s = .next (interrupts s (pushStamp (portPair (u.setPort n { u.portOf n with
      pairData := wd (if wb p.pairCfg 23 then grayDecode (encBits p) (encRaw p) else encRaw p) }) n) n p.frameNs false))) ∧
  (∀ (n t0 due : Nat) (p : Port) (s : State), n < 1024 → p = s.portOf n → p.rxAt = some t0 → portLive s n = true →
    portMode s n = 8 → wb p.pairCfg 19 = true → due = uartSample p t0 (uartLen p.pairCfg - 1) → due ≤ s.uptime →
    exec (.uartRxByte n) s = .next (interrupts s (portPair (s.start.setPort n
      (if p.rx.length < 16 then { uartNext p due with rx := p.rx ++ [uartByte p t0], rxOvr := false }
       else { uartNext p due with rxOvr := true })) n))) ∧
  (∀ (n t : Nat) (b : Byte) (rest : List Byte) (p : Port) (s : State), p = s.portOf n → p.tx = b :: rest → p.txAt = some t →
    portLive s n = true → portMode s n = 8 → t + uartLen p.pairCfg * wf p.pairCfg 15 0 ≤ s.uptime →
    exec (.uartTxByte n) s = .next (interrupts s
      ((s.start.setPort n (uartStart { p with tx := rest, txAt := none } s.uptime)).emit
        (.wire "uart_tx" n (bitsNum (uartBits p.pairCfg b)))))) ∧
  (∀ (acc : Accessor) (n : Nat) (v : Word) (s : State), n = portIx s acc → mayTouch acc (s.owner (resPort n)) = true →
    portMode s n = 6 →
    exec (.pairDataWrite acc v) s = .next (interrupts s (s.start.setPort n { s.portOf n with pairData := v }))) ∧
  (∀ (acc : Accessor) (n : Nat) (v : Word) (s : State), n = portIx s acc → mayTouch acc (s.owner (resPort n)) = true →
    portMode s n = 8 → (s.portOf n).tx.length < 16 →
    exec (.pairDataWrite acc v) s = .next (interrupts s (s.start.setPort n
      (uartStart { s.portOf n with tx := (s.portOf n).tx ++ [v.extractLsb' 0 8] } s.uptime)))) ∧
  (∀ (acc : Accessor) (n : Nat) (b : UartByte) (rest : List UartByte) (s : State), n = portIx s acc →
    mayTouch acc (s.owner (resPort n)) = true → portMode s n = 8 → (s.portOf n).rx = b :: rest →
    exec (.pairDataRead acc) s = .next (interrupts s ((s.start.setPort n { s.portOf n with rx := rest }).emit (.words
      [wd (2 ^ 31 + b2n b.framing * 2 ^ 30 + b2n b.parity * 2 ^ 29 + b2n b.overrun * 2 ^ 28 + b.b.toNat)]))))

/-- Losing the reference while the timebase runs puts it in holdover and is reported, and its return starts the
acquisition anew; a PPS that has been missing for 1.1 s, and a Sync missing for three intervals, is counted, and a
second missed PPS in a row or a missed Sync puts the discipline in holdover; a PPS edge and a Sync message measure the
offset at that instant, and an offset above 1 ms steps the time while acquiring; a PPS edge applies a TIME_SET that
waits for it. -/
def Obligations.TimebaseReference : Prop :=
  (∀ s : State, s.tbs.run = true → s.tbs.ref = true →
    exec .refLost s = .next (interrupts s (holdover ((({ s.start with tbs := { s.tbs with ref := false } }).raiseAll
      0x130028 0 8).post allDomains 0x16 .ok 2 0 0)))) ∧
  (∀ s : State, s.tbs.run = false ∨ s.tbs.ref = false →
    exec .refLost s = .next (interrupts s { s.start with tbs := { s.tbs with ref := false } })) ∧
  (∀ s : State, s.tbs.run = true → s.tbs.ref = false →
    exec .refReturn s = .next (interrupts s { s.start with tbs := { s.tbs with
      ref := true, good := 0, state := if s.tbs.source = 0 then .free else .acquiring, ppsAt := s.uptime,
      syncAt := s.uptime } })) ∧
  (∀ s : State, s.tbs.run = true → s.tbs.source = 1 → s.tbs.ppsAt + 1100000000 ≤ s.uptime → s.tbs.missRun = 0 →
    exec .ppsTimeout s = .next (interrupts s (({ s.start with tbs := { s.tbs with
      pps := false, ppsAt := s.uptime, missed := sat 0xFFFF s.tbs.missed, missRun := 1, good := 0 } }).raiseAll
      0x130028 0 4))) ∧
  (∀ s : State, s.tbs.run = true → s.tbs.source = 1 → s.tbs.ppsAt + 1100000000 ≤ s.uptime → 1 ≤ s.tbs.missRun →
    exec .ppsTimeout s = .next (interrupts s (holdover (({ s.start with tbs := { s.tbs with
      pps := false, ppsAt := s.uptime, missed := sat 0xFFFF s.tbs.missed, missRun := sat 255 s.tbs.missRun,
      good := 0 } }).raiseAll 0x130028 0 4)))) ∧
  (∀ s : State, s.tbs.run = true → s.tbs.source = 2 →
    s.tbs.syncAt + 3 * Config.syncIntervalNs s.tbs.macPort ≤ s.uptime →
    exec .syncTimeout s = .next (interrupts s (holdover { s.start with tbs := { s.tbs with
      syncAt := s.uptime, missed := sat 0xFFFF s.tbs.missed, good := 0 } }))) ∧
  (∀ s u : State, s.tbs.run = true → s.tbs.source = 1 →
    u = applySet { s.start with tbs := { s.tbs with pps := true, ppsAt := s.uptime } } →
    exec .ppsEdge s = .next (interrupts s
      (refInstant { u with free := u.free + 1 } (secondOffset u.now) 20 3 (freeRate u.free)))) ∧
  (∀ s : State, s.tbs.source ≠ 1 →
    exec .ppsEdge s = .next (interrupts s { s.start with tbs := { s.tbs with pps := true, ppsAt := s.uptime } })) ∧
  (∀ (v : Nat) (s : State), s.tbs.setPend = some v →
    applySet s = endCmd? (s.tbs.setCmd.map fun x => ⟨x.1, x.2⟩) .ok 0 [wd v, wd (v / 2 ^ 32)]
      (dtbStep { s with tbs := { s.tbs with setPend := none, setCmd := none, est := false, aclkEst := false } } (v * 2 ^ 44))) ∧
  (∀ s : State, s.tbs.setPend = none → applySet s = s) ∧
  (∀ (p gm : Nat) (rate : Int) (s : State), s.tbs.run = true → s.tbs.source = 2 → s.tbs.macPort = p → (s.macOf p).up = true →
    exec (.syncMessage p gm rate) s = .next (interrupts s
      (refInstant { s.start with tbs := { s.tbs with syncAt := s.uptime } } ((s.now : Int) - gm) 100 8 rate))) ∧
  (∀ (s : State) (off rate : Int) (bound need : Nat), s.tbs.ref = true → s.tbs.state = .acquiring → 1000000 < off.natAbs →
    bound ≤ 1000000 →
    refInstant s off bound need rate = dtbStep { s with tbs := { s.tbs with
      offset := offsetClamp off, accepted := sat 0xFFFF s.tbs.accepted, missRun := 0, good := 0 } }
      (((s.tbs.dtb : Int) - off * 2 ^ 44) % 2 ^ 108).toNat)

/-- Reading NOW_LO latches the upper half and the fraction for that accessor; TB_PPS_OUT rises at a whole second and falls
again; TIME_SET steps the timebase at once, or waits where PPS disciplines it; TIME_DISCIPLINE selects the source and
the port, and a source of 3 is clamped to 0. -/
def Obligations.TimebaseCommands : Prop :=
  (∀ (acc : Accessor) (s : State), exec (.nowLoRead acc) s = .next (interrupts s
    (((s.start.setCopy (acode acc) 0x130004 0 (wd (s.now / 2 ^ 32))).setCopy (acode acc) 0x130008 0 (wd (s.now16 % 16))).emit
      (.words [wd s.now])))) ∧
  (∀ s : State, s.tbs.run = true → s.tbs.ppsEn = true → s.tbs.ppsOut = false → (s.now + 1) % 1000000000 ≤ 2 →
    exec .ppsOutPulse s = .next (interrupts s
      (({ s.start with tbs := { s.tbs with ppsOut := true, ppsRise := s.uptime } }).emit (.pin "TB_PPS_OUT" true)))) ∧
  (∀ s : State, s.tbs.ppsOut = true → s.tbs.ppsRise + 100000 ≤ s.uptime →
    exec .ppsPulseEnd s = .next (interrupts s
      (({ s.start with tbs := { s.tbs with ppsOut := false } }).emit (.pin "TB_PPS_OUT" false)))) ∧
  (∀ (d v : Nat) (u : State) (s : State), served s d 0x0701 .lead → u = servedState s d →
    v = pw (frontEntry s d) 0 + pw (frontEntry s d) 1 * 2 ^ 32 → s.tbs.setPend = none → s.tbs.source ≠ 1 →
    exec (.timeSet d) s = .next (answered s (finish (frontEntry s d) .ok 0 [] [wd v, wd (v / 2 ^ 32)]
      (dtbStep { u with tbs := { u.tbs with est := false, aclkEst := false } } (v * 2 ^ 44))))) ∧
  (∀ (d v : Nat) (u : State) (s : State), served s d 0x0701 .lead → u = servedState s d →
    v = pw (frontEntry s d) 0 + pw (frontEntry s d) 1 * 2 ^ 32 → s.tbs.setPend = none → s.tbs.source = 1 →
    exec (.timeSet d) s = .next (answered s (waitCmd (frontEntry s d) []
      { u with tbs := { u.tbs with setPend := some v, setCmd := some (d, (frontEntry s d).tag) } }))) ∧
  (∀ (d : Nat) (u : State) (s : State), served s d 0x0702 .lead → u = servedState s d →
    bf (pw (frontEntry s d) 0) 1 0 = 1 →
    exec (.timeDiscipline d) s = .next (answered s (finish (frontEntry s d) .ok 0 [] []
      (noteCmd { u with tbs := discipline u.tbs 1 (bf (pw (frontEntry s d) 0) 7 4) s.uptime } 0x1010)))) ∧
  (∀ (d : Nat) (u : State) (s : State), served s d 0x0702 .lead → u = servedState s d →
    bf (pw (frontEntry s d) 0) 1 0 = 3 →
    exec (.timeDiscipline d) s = .next (answered s (finish (frontEntry s d) .ok 0 [cmdClamp 0 0 3 0] []
      (applySet (noteCmd { u with tbs := discipline u.tbs 0 (bf (pw (frontEntry s d) 0) 7 4) s.uptime } 0x1010)))))

/-- PLL_APPLY makes the staged settings of the selected PLL act and restarts it; a running PLL whose reference runs locks,
and one that loses lock is counted and raises its interrupt; the loss of the reference is noted; a frequency count
runs to its result; only the MC writes here. A result of a channel that converts updates its value, extremes, count
and alarm, and a second result in a row outside the window raises the interrupt of a channel that is no supply;
channel 0 also drives the thermal rule; a channel that does not convert gives no result; a sample updates the band
temperatures; MINMAX_CLEAR of the MC starts every channel's extremes anew. The reset minimum 0xFFF is the model's (log
entry 11). -/
def Obligations.ClocksAndMonitors : Prop :=
  (∀ (v : Word) (n : Nat) (s : State), wb v 0 = true → s.mc.restart = false → n = wf (s.copy (acode (.dom .mc)) 0x120000 0) 4 0 →
    exec (.pllApply (.dom .mc) v) s = .next (interrupts s (s.start.setPll n { s.pllOf n with
      aCtrl := (s.pllOf n).ctrl, aDiv := (s.pllOf n).div, aOuts := (s.pllOf n).outs, locked := false }))) ∧
  (∀ (acc : Accessor) (v : Word) (s : State), acc ≠ .dom .mc → exec (.pllApply acc v) s = .next (interrupts s s.start)) ∧
  (∀ (n : Nat) (s : State), n < 32 → pllRuns (s.pllOf n) = true → refRuns s n = true →
    exec (.pllLock n) s = .next (interrupts s (s.start.setPll n { s.pllOf n with locked := true, ref := true }))) ∧
  (∀ (n : Nat) (gone : Bool) (s : State), n < 32 → (s.pllOf n).locked = true →
    exec (.lossOfLock n gone) s = .next (interrupts s ((s.start.setPll n
      { s.pllOf n with locked := false, ref := (s.pllOf n).ref && !gone, lol := sat 0xFFFF (s.pllOf n).lol }).raiseAll
      0x120020 0 (1#32 <<< n)))) ∧
  (∀ (n : Nat) (s : State), n < 32 → (s.pllOf n).locked = false →
    exec (.lossOfLock n true) s = .next (interrupts s (s.start.setPll n { s.pllOf n with ref := false }))) ∧
  (∀ (v : Word) (s : State), wb v 31 = true →
    exec (.fcountStart (.dom .mc) v) s = .next (interrupts s { s.start with
      clk := { s.clk with fctrl := v &&& 0x800000FF, fdone := false, fover := false, fkhz := 0 } })) ∧
  (∀ (khz : Nat) (s : State), wb s.clk.fctrl 31 = true → s.clk.fdone = false →
    exec (.fcountDone khz) s = .next (interrupts s { s.start with
      clk := { s.clk with fdone := true, fover := decide (0x100000 ≤ khz), fkhz := khz % 0x100000 } })) ∧
  (∀ (ch code c : Nat) (s : State), ch ≠ 0 → converts s ch = true → c = resultCode s ch code →
    wb (s.chanOf ch).cfg 30 = false →
    exec (.smnResult ch code) s = .next (interrupts s (s.start.setChan ch { s.chanOf ch with
      valid := true, alarm := outside (s.chanOf ch) c, seq := ((s.chanOf ch).seq + 1) % 4096, code := c,
      min := if c < (s.chanOf ch).min then c else (s.chanOf ch).min,
      max := if (s.chanOf ch).max < c then c else (s.chanOf ch).max, out1 := false }))) ∧
  (∀ (ch code c : Nat) (s : State), ch ≠ 0 → converts s ch = true → c = resultCode s ch code → supplyCh ch = false →
    wb (s.chanOf ch).cfg 30 = true → (s.chanOf ch).out1 = true → outside (s.chanOf ch) c = true →
    exec (.smnResult ch code) s = .next (interrupts s ((s.start.setChan ch (chanNext (s.chanOf ch) c)).raiseAll
      0x110020 0 (1#32 <<< ch)))) ∧
  (∀ (code c : Nat) (s : State), converts s 0 = true → c = resultCode s 0 code → wb (s.chanOf 0).cfg 30 = false →
    exec (.smnResult 0 code) s = .next (interrupts s (thermal c (s.start.setChan 0 (chanNext (s.chanOf 0) c))))) ∧
  (∀ (ch code : Nat) (s : State), converts s ch = false →
    exec (.smnResult ch code) s = .next (interrupts s s.start)) ∧
  (∀ (codes : List Nat) (s : State), exec (.tempSample codes) s = .next (interrupts s { s.start with smn := { s.smn with
    temps := (List.range 16).foldl (fun m b => SMap.set dNat m b (codes.getD b 0 % 4096)) s.smn.temps } })) ∧
  (∀ (v : Word) (s : State), wb v 0 = true → exec (.minmaxClear (.dom .mc) v) s = .next (interrupts s { s.start with
    smn := { s.smn with chans := (List.range 16).foldl (fun m c =>
      SMap.set dChan m c { SMap.get dChan m c with min := 0xFFF, max := 0 }) s.smn.chans } })) ∧
  (∀ (acc : Accessor) (v : Word) (s : State), acc ≠ .dom .mc → exec (.minmaxClear acc v) s = .next (interrupts s s.start))

/-- Where a table's signals change, an armed table that runs no cycle runs the actions of the terms that rise or fall, in
term order; one that is not armed runs none. An EVENT is received where none that it may not pass is ahead: it clears,
sets or pulses the remote signal it names, or is dropped where its destination is muzzled or its table is not up; a
held EVENT is sent when its flow's interval ends; RFX.CTRL arms a fabric table for those who may read it, a table of
another kind refuses with NOT_OWNER, and one whose destination is powered down ends DEST_POWERED_DOWN. -/
def Obligations.ReflexTables : Prop :=
  (∀ (t : Nat) (v : BitVec 64) (s u : State), isTableId t = true →
    s.boot.released = false ∨ (s.tableOf t).armed = false ∨ (s.tableOf t).inCycle = true →
    u = s.start.setTable t { s.tableOf t with rfxIn := seenIn s t v } → u.tableOf t = { s.tableOf t with rfxIn := seenIn s t v } →
    exec (.termFire t v) s = .next (interrupts s (u.setTable t { u.tableOf t with
      prev := tableSignals u t, live := [], pulses := 0, rfxOut := 0, remote0 := (u.tableOf t).remote }))) ∧
  (∀ (t : Nat) (v : BitVec 64) (now : List Nat) (acts : List (Nat × Bool)) (s u w : State), isTableId t = true →
    s.boot.released = true → (s.tableOf t).armed = true → (s.tableOf t).inCycle = false →
    u = s.start.setTable t { s.tableOf t with rfxIn := seenIn s t v } → u.tableOf t = { s.tableOf t with rfxIn := seenIn s t v } →
    now = liveTerms u t (tableSignals u t) (s.tableOf t).prev →
    acts = ((List.range 256).filter fun i => now.contains i != (s.tableOf t).live.contains i).map
      (fun i => (i, !now.contains i)) →
    w = runCycle t acts (u.setTable t { u.tableOf t with
      prev := tableSignals u t, live := now, pulses := 0, rfxOut := 0, remote0 := (u.tableOf t).remote }) →
    exec (.termFire t v) s = .next (interrupts s
      (if acts.any (fun x => !x.2) = true then w.raiseFor (tableReaders s t) 0x60038 0 1 else w))) ∧
  (∀ (t : Nat) (acts : List (Nat × Bool)) (s : State), runCycle t acts s =
    runTerms false t (s.image t).terms acts [] (runTerms true t (s.image t).terms acts [] s)) ∧
  (∀ (e : EventPkt) (s u : State), e ∈ s.noc.events → (eventsAhead e s.noc.events).any (eventHolds e) = false →
    isMuzzled s e.dst = false → tableUp s (tableAt s e.dst) = true →
    u = { s.start with noc := { s.noc with
      events := s.noc.events.erase e, busyAt := busyBand s s.noc.busyAt e.dst } } →
    exec (.event e) s = .next (interrupts s (u.setTable (tableAt s e.dst)
      { remoteEvent (s.tableOf (tableAt s e.dst)) e.r e.mode with
        latMax := max (s.tableOf (tableAt s e.dst)).latMax (min 0xFFFF (s.now16 - e.origin)) }))) ∧
  (∀ (g : RTable) (r : Nat), (remoteEvent g r 1).remote = g.remote ||| (1#32 <<< r) ∧
    (remoteEvent g r 0).remote = g.remote &&& ~~~(1#32 <<< r) ∧
    (remoteEvent g r 2).pulses = g.pulses ||| (1#256 <<< (0xC0 + r))) ∧
  (∀ (e : EventPkt) (s : State), e ∈ s.noc.events → (eventsAhead e s.noc.events).any (eventHolds e) = false →
    isMuzzled s e.dst = true ∨ tableUp s (tableAt s e.dst) = false →
    exec (.event e) s = .next (interrupts s (eventDrop (bump { s.start with noc := { s.noc with
      events := s.noc.events.erase e, busyAt := busyBand s s.noc.busyAt e.dst } } e.dst 1) e.table))) ∧
  (∀ (src dst : Nat) (h : HeldEvt) (s : State), (s.tableOf src).held.filter (fun x => x.dst == dst) = [h] →
    SMap.get dNat (s.tableOf src).sent dst - 1 + spacing s.start src dst ≤ s.uptime →
    exec (.flowInterval src dst) s = .next (interrupts s (sendEvent
      (s.start.setTable src { s.tableOf src with held := (s.tableOf src).held.erase h }) src h))) ∧
  (∀ (acc : Accessor) (v : Word) (t : Nat) (s : State), t = rfxIx s (acode acc) → mayReadTable s acc t = true → t < 0x100 →
    rfxHolds s t = false →
    exec (.rfxArm acc v) s = .next (interrupts s (routeCheck (setArm s.start t (wb v 31) true)))) ∧
  (∀ (acc : Accessor) (v : Word) (t : Nat) (s : State), t = rfxIx s (acode acc) → mayReadTable s acc t = true → 0x100 ≤ t →
    exec (.rfxArm acc v) s = .next (interrupts s (s.start.setTable t { s.tableOf t with armSt := .notOwner }))) ∧
  (∀ (s : State) (t : Nat), 0x80 ≤ t ∨ armRefused s t = false →
    setArm s t true true = s.setTable t { s.tableOf t with armed := true, armSt := .ok }) ∧
  (∀ (s : State) (t : Nat), t < 0x80 → armRefused s t = true →
    setArm s t true true = (s.setTable t { s.tableOf t with armed := false, armSt := .destPoweredDown, live := [] }).raiseFor
      (tableReaders s t) 0x60038 0 4) ∧
  (∀ (s : State) (t : Nat), setArm s t false true = s.setTable t { s.tableOf t with armed := false, armSt := .ok, live := [] })

/-- Only the ring's owner acts on it. START of a ring that may start takes its pins and begins, and else ends with the
status of its check; STOP of a ring that is not stopped begins its stop and of a stopped one ends OK; ASSIGN acts by
its row's checks; SAFE and REDISCOVER of a running ring send their frames and of another end NOT_READY; a command
given while another runs answers BUSY; a write of SAFE_MASK adds stations to the mask. -/
def Obligations.RingCommands : Prop :=
  (∀ (o : Owner) (r : Nat) (s : State), r < 64 → o = ringOwner s r → o ≠ .unowned → (s.ringOf r).busy = false →
    startCheck s r = .ok →
    exec (.start o r) s = .next (interrupts s (startRing (ringBegin s.start r 1 none) r))) ∧
  (∀ (o : Owner) (r : Nat) (s : State), r < 64 → o = ringOwner s r → o ≠ .unowned → (s.ringOf r).busy = false →
    startCheck s r ≠ .ok →
    exec (.start o r) s = .next (interrupts s (ringDone (ringBegin s.start r 1 none) r (startCheck s r) []))) ∧
  (∀ (o : Owner) (r : Nat) (s : State), r < 64 → o = ringOwner s r → o ≠ .unowned → (s.ringOf r).busy = false →
    (s.ringOf r).state ≠ .stopped →
    exec (.stop o r) s = .next (interrupts s (stopRing (ringBegin s.start r 2 none) r))) ∧
  (∀ (o : Owner) (r : Nat) (g : Ring) (s u : State), r < 64 → o = ringOwner s r → o ≠ .unowned →
    (s.ringOf r).busy = false → u = ringBegin s.start r 3 none →
    assignRow (u.ringOf r) (s.ringOf r).asnStn ((s.ringOf r).asnLo.toNat + (s.ringOf r).asnHi.toNat * 2 ^ 32) = (.ok, g, true) →
    exec (.assign o r) s = .next (interrupts s (pumpCtrl
      (if (stnOf (s.ringOf r) (s.ringOf r).asnStn).id = 0 then
        uanEvent (u.setRing r { g with cmdStn := (s.ringOf r).asnStn }) r 7 .ok (s.ringOf r).asnStn
       else u.setRing r { g with cmdStn := (s.ringOf r).asnStn }) r))) ∧
  (∀ (o : Owner) (r : Nat) (g : Ring) (st : Status) (s u : State), r < 64 → o = ringOwner s r → o ≠ .unowned →
    (s.ringOf r).busy = false → u = ringBegin s.start r 3 none →
    assignRow (u.ringOf r) (s.ringOf r).asnStn ((s.ringOf r).asnLo.toNat + (s.ringOf r).asnHi.toNat * 2 ^ 32) = (st, g, false) →
    exec (.assign o r) s = .next (interrupts s (ringDone (u.setRing r g) r st []))) ∧
  (∀ (o : Owner) (r : Nat) (s u : State), r < 64 → o = ringOwner s r → o ≠ .unowned → (s.ringOf r).busy = false →
    u = ringBegin s.start r 4 none → (s.ringOf r).state = .running →
    exec (.safe o r) s = .next (interrupts s
      (ringDone (pumpCtrl (u.setRing r (queueFrame (u.ringOf r) .safe)) r) r .ok []))) ∧
  (∀ (o : Owner) (r : Nat) (s u : State), r < 64 → o = ringOwner s r → o ≠ .unowned → (s.ringOf r).busy = false →
    u = ringBegin s.start r 5 none → (s.ringOf r).state = .running →
    exec (.rediscover o r) s = .next (interrupts s (pumpCtrl (u.setRing r (queueFrame (u.ringOf r) .discover)) r))) ∧
  (∀ (o : Owner) (r : Nat) (s : State), r < 64 → o = ringOwner s r → o ≠ .unowned → (s.ringOf r).busy = false →
    (s.ringOf r).state ≠ .running →
    exec (.rediscover o r) s = .next (interrupts s (ringDone (ringBegin s.start r 5 none) r .notReady [])) ∧
    exec (.safe o r) s = .next (interrupts s (ringDone (ringBegin s.start r 4 none) r .notReady []))) ∧
  (∀ (o : Owner) (r : Nat) (s : State), r < 64 → o = ringOwner s r → o ≠ .unowned → (s.ringOf r).busy = false →
    (s.ringOf r).state = .stopped →
    exec (.stop o r) s = .next (interrupts s (ringDone (ringBegin s.start r 2 none) r .ok []))) ∧
  (∀ (o : Owner) (r : Nat) (s : State), r < 64 → o = ringOwner s r → o ≠ .unowned → (s.ringOf r).busy = true →
    exec (.start o r) s = .next (interrupts s (uanInt (s.start.setRing r { s.ringOf r with cmdSt := .busy, lastCmd := 1 }) r 0x40)) ∧
    exec (.stop o r) s = .next (interrupts s (uanInt (s.start.setRing r { s.ringOf r with cmdSt := .busy, lastCmd := 2 }) r 0x40)) ∧
    exec (.assign o r) s = .next (interrupts s (uanInt (s.start.setRing r { s.ringOf r with cmdSt := .busy, lastCmd := 3 }) r 0x40)) ∧
    exec (.safe o r) s = .next (interrupts s (uanInt (s.start.setRing r { s.ringOf r with cmdSt := .busy, lastCmd := 4 }) r 0x40)) ∧
    exec (.rediscover o r) s = .next (interrupts s
      (uanInt (s.start.setRing r { s.ringOf r with cmdSt := .busy, lastCmd := 5 }) r 0x40))) ∧
  (∀ (o : Owner) (r : Nat) (v : Word) (s : State), r < 64 → o = ringOwner s r → o ≠ .unowned →
    exec (.safeMask o r v) s = .next (interrupts s (s.start.setRing r { s.ringOf r with
      safeMask := (s.ringOf r).safeMask ||| v }))) ∧
  (∀ (o : Owner) (r : Nat) (v : Word) (s : State), o ≠ ringOwner s r →
    exec (.start o r) s = .next (interrupts s s.start) ∧ exec (.stop o r) s = .next (interrupts s s.start) ∧
    exec (.assign o r) s = .next (interrupts s s.start) ∧ exec (.safe o r) s = .next (interrupts s s.start) ∧
    exec (.rediscover o r) s = .next (interrupts s s.start) ∧ exec (.safeMask o r v) s = .next (interrupts s s.start))

/-- On a ring of another owner they answer NOT_OWNER; otherwise UAN_START_RING loads the parameters it carries unless told
to keep them and starts, UAN_STOP_RING stops, UAN_ASSIGN and UAN_SAFE load their parameters and act, and
UAN_GET_TOPOLOGY writes the ring's topology to the buffer or has it read anew. -/
def Obligations.RingMailbox : Prop :=
  (∀ (d r : Nat) (c : RunCmd) (u s : State), served s d 0x0501 .owner → u = servedState s d → c = frontEntry s d →
    r = pw c 0 % 64 → ringOwned c u = true →
    exec (.uanStartRing d) s = .next (answered s
      (ringMail c 1 (if wb (nth c.p 0) 8 || (s.ringOf r).busy then u else startFields c r u)))) ∧
  (∀ (d : Nat) (c : RunCmd) (u s : State), served s d 0x0502 .owner → u = servedState s d → c = frontEntry s d →
    ringOwned c u = true →
    exec (.uanStopRing d) s = .next (answered s (ringMail c 2 u))) ∧
  (∀ (d : Nat) (c : RunCmd) (u s : State), served s d 0x0503 .owner → u = servedState s d → c = frontEntry s d →
    ringOwned c u = true → bufOk (pw c 1) 2016 = true → wb (nth c.p 0) 8 = false →
    exec (.uanGetTopology d) s = .next (answered s (finish c .ok 7 [] [wd (s.ringOf (pw c 0 % 64)).pods]
      (writeBuf u c (pw c 1) (topoArea (s.ringOf (pw c 0 % 64))))))) ∧
  (∀ (d : Nat) (c : RunCmd) (u s : State), served s d 0x0503 .owner → u = servedState s d → c = frontEntry s d →
    ringOwned c u = true → bufOk (pw c 1) 2016 = true → wb (nth c.p 0) 8 = true →
    exec (.uanGetTopology d) s = .next (answered s (ringMail c 5 u))) ∧
  (∀ (d r : Nat) (c : RunCmd) (u s : State), served s d 0x0504 .owner → u = servedState s d → c = frontEntry s d →
    r = pw c 0 % 64 → ringOwned c u = true →
    exec (.uanAssign d) s = .next (answered s (if (s.ringOf r).busy then ringMail c 3 u else ringMail c 3
      (ctrlWrite r 0x3C (nth c.p 3) (ctrlWrite r 0x38 (nth c.p 2) (ctrlWrite r 0x34 (nth c.p 1) u)))))) ∧
  (∀ (d r : Nat) (c : RunCmd) (u s : State), served s d 0x0505 .owner → u = servedState s d → c = frontEntry s d →
    r = pw c 0 % 64 → ringOwned c u = true →
    exec (.uanSafe d) s = .next (answered s (ringMail c 4
      (if (s.ringOf r).state == .running && !(s.ringOf r).busy then ctrlWrite r 0x30 (nth c.p 1) u else u)))) ∧
  (∀ (d : Nat) (c : RunCmd) (u s : State), served s d 0x0503 .owner → u = servedState s d → c = frontEntry s d →
    ringOwned c u = true → bufOk (pw c 1) 2016 = false →
    exec (.uanGetTopology d) s = .next (answered s (finish c .badParameter 0 [] [] u))) ∧
  (∀ (d : Nat) (c : RunCmd) (u s : State), u = servedState s d → c = frontEntry s d → ringOwned c u = false →
    (served s d 0x0501 .owner → exec (.uanStartRing d) s = .next (answered s (finish c .notOwner 0 [] [] u))) ∧
    (served s d 0x0502 .owner → exec (.uanStopRing d) s = .next (answered s (finish c .notOwner 0 [] [] u))) ∧
    (served s d 0x0503 .owner → exec (.uanGetTopology d) s = .next (answered s (finish c .notOwner 0 [] [] u))) ∧
    (served s d 0x0504 .owner → exec (.uanAssign d) s = .next (answered s (finish c .notOwner 0 [] [] u))) ∧
    (served s d 0x0505 .owner → exec (.uanSafe d) s = .next (answered s (finish c .notOwner 0 [] [] u))))

/-- The code-groups of a control frame that comes back on a ring, from which its receiver reads the bytes: RESET of a ring
in discovery begins the measurement of its delay, SAFE of a stopping ring ends the stop, ASSIGN queues the CONFIG of
its stations and CONFIG notes its station configured, a DELAY of a running ring renews its loop delay where that has
moved by more than 2 ns and one of a ring in discovery is noted, a DELAY that claims longer than its frame has been
gone only reaches the receiver, and DISCOVER gives the topology. A RESET frame that comes back damaged is counted and
queued again. -/
def Obligations.RingFrames : Prop :=
  (∀ (r : Nat) (gs : List CodeGroup) (bs : List Byte) (u s : State), framed s r gs bs → (s.ringOf r).onRing = .reset →
    frameOk 7 bs = true → bs.length = 16 → u = (heard s r gs).setRing r { (heard s r gs).ringOf r with onRing := .none } →
    exec (.resetFrame r gs) s = .next (interrupts s (
      if (s.ringOf r).state = .stopping then ringStopped u r
      else if (s.ringOf r).state = .discovering then measure u r else pumpCtrl u r))) ∧
  (∀ (r : Nat) (gs : List CodeGroup) (bs : List Byte) (u s : State), framed s r gs bs → (s.ringOf r).onRing = .safe →
    frameOk 6 bs = true → bs.length = 16 → u = (heard s r gs).setRing r { (heard s r gs).ringOf r with onRing := .none } →
    exec (.safeFrame r gs) s = .next (interrupts s (
      if (s.ringOf r).state = .stopping then ringStopped u r else pumpCtrl u r))) ∧
  (∀ (r : Nat) (gs : List CodeGroup) (bs : List Byte) (u s : State), framed s r gs bs → (s.ringOf r).onRing = .assign →
    frameOk 3 bs = true → bs.length = 12 + 12 * leAt bs 4 1 →
    u = (heard s r gs).setRing r { (heard s r gs).ringOf r with onRing := .none } →
    exec (.assignFrame r gs) s = .next (interrupts s (pumpCtrl (u.setRing r ((assigned bs).foldl
      (fun h n => queueFrame (setStn h n { stnOf h n with toAsn := false }) (.config n)) (u.ringOf r))) r))) ∧
  (∀ (r n : Nat) (gs : List CodeGroup) (bs : List Byte) (u s : State), framed s r gs bs → leAt bs 4 1 = n →
    (s.ringOf r).onRing = .config n → frameOk 4 bs = true → bs.length = 32 + leAt bs 6 1 →
    u = (heard s r gs).setRing r { (heard s r gs).ringOf r with onRing := .none } →
    (s.ringOf r).state = .running → (s.ringOf r).busy = false →
    exec (.configFrame r gs) s = .next (interrupts s (pumpCtrl
      (u.setRing r (setStn (u.ringOf r) n { stnOf (u.ringOf r) n with conf := true })) r))) ∧
  (∀ (r loop : Nat) (gs : List CodeGroup) (bs : List Byte) (u s : State), framed s r gs bs → (s.ringOf r).onRing = .delay →
    loop ≤ 16 * (s.uptime - (s.ringOf r).sentAt) → frameOk 5 bs = true → bs.length = 16 →
    u = (heard s r gs).setRing r { (heard s r gs).ringOf r with onRing := .none } → (s.ringOf r).state = .running →
    exec (.delayFrame r gs loop) s = .next (interrupts s (pumpCtrl
      (if loop ≤ (s.ringOf r).loop + 32 ∧ (s.ringOf r).loop ≤ loop + 32 then u
       else delayChange (u.setRing r { u.ringOf r with
         loop := loop, noRoom := !ctrlRoom { u.ringOf r with loop := loop } }) r) r))) ∧
  (∀ (r loop : Nat) (gs : List CodeGroup) (bs : List Byte) (u s : State), framed s r gs bs → (s.ringOf r).onRing = .delay →
    loop ≤ 16 * (s.uptime - (s.ringOf r).sentAt) → frameOk 5 bs = true → bs.length = 16 →
    u = (heard s r gs).setRing r { (heard s r gs).ringOf r with onRing := .none } → (s.ringOf r).state = .discovering →
    (s.ringOf r).delays.length < 7 →
    exec (.delayFrame r gs loop) s = .next (interrupts s (pumpCtrl (u.setRing r
      (queueFrame { u.ringOf r with delays := (s.ringOf r).delays ++ [loop] } .delay)) r))) ∧
  (∀ (r loop : Nat) (gs : List CodeGroup) (bs : List Byte) (s : State), framed s r gs bs →
    16 * (s.uptime - (s.ringOf r).sentAt) < loop →
    exec (.delayFrame r gs loop) s = .next (interrupts s (heard s r gs))) ∧
  (∀ (r : Nat) (gs : List CodeGroup) (bs : List Byte) (u s : State), framed s r gs bs → (s.ringOf r).onRing = .discover →
    frameOk 2 bs = true → 12 ≤ bs.length → (bs.length - 12) % 24 = 0 →
    u = (heard s r gs).setRing r { (heard s r gs).ringOf r with onRing := .none } →
    (s.ringOf r).state = .discovering → (s.ringOf r).recover = false →
    exec (.discoverFrame r gs) s = .next (interrupts s (discoverStart (u.setRing r (setTopology (u.ringOf r) bs)) r))) ∧
  (∀ (r : Nat) (gs : List CodeGroup) (bs : List Byte) (u s : State), framed s r gs bs → (s.ringOf r).onRing = .reset →
    frameOk 7 bs = false → u = (heard s r gs).setRing r { (heard s r gs).ringOf r with onRing := .none } →
    exec (.resetFrame r gs) s = .next (interrupts s (pumpCtrl (u.setRing r
      (queueFrame { u.ringOf r with errInv := sat 0xFFFF (s.ringOf r).errInv } .reset)) r)))

/-- At its boundary, and not before, a CYCLE frame goes out; one that comes back valid updates the stations, one that is
damaged or past its deadline is a missed frame; code-groups that gain sync start a ring or bring it back, those that
lose it break a ring that runs or is in discovery, and a break makes every assigned station LOST; a ring that gets no
sync in 10 ms is broken, and a stop that gets no answer in 1 ms ends, neither sooner. -/
def Obligations.RingRunning : Prop :=
  (∀ (r : Nat) (g h : Ring) (u v w x s : State), (s.ringOf r).state = .running → (s.ringOf r).onRing = .none →
    (s.ringOf r).sNext ≤ s.now → h = (if (s.ringOf r).cycles = 0 then s.ringOf r else switchImage (s.ringOf r)) →
    g = { h with
      run := wb (s.ringOf r).cfg 31, aSig := (s.ringOf r).sig, aWeights := (s.ringOf r).weights, sN := (s.ringOf r).sNext,
      sNext := boundary (s.ringOf r) ((s.ringOf r).sNext + (s.ringOf r).aCycle), cycles := ((s.ringOf r).cycles + 1) % 2 ^ 32,
      rxFresh := [], rxStat := .ok,
      sinceDly := if (s.ringOf r).sinceDly = 255 then 0 else (s.ringOf r).sinceDly + 1 } →
    u = (if (s.ringOf r).cycles = 0 then s.start.setRing r g else notice (s.start.setRing r g) r) →
    v = sendFrame (u.setRing r { u.ringOf r with outImg := (s.ringOf r).snap.getD g.outImg }) r .cycle →
    w = v.setRing r { v.ringOf r with outImg := g.outImg, snap := none, stepped := false } →
    x = (if (s.ringOf r).sinceDly = 255 then w.setRing r (queueFrame (w.ringOf r) .delay) else w) →
    exec (.cycleFrame r) s = .next (interrupts s (if (s.ringOf r).starting then ringDone x r .ok [] else x))) ∧
  (∀ (r : Nat) (s : State), s.now < (s.ringOf r).sNext → exec (.cycleFrame r) s = .next (interrupts s s.start)) ∧
  (∀ (r : Nat) (gs : List CodeGroup) (bs : List Byte) (rs : List Record) (s : State), framed s r gs bs →
    (s.ringOf r).onRing = .cycle → cycleRecords bs = some rs →
    exec (.cycleReturn r gs) s = .next (interrupts s (afterCycle (newJoins (stationsAfter
      ((heard s r gs).setRing r { (heard s r gs).ringOf r with onRing := .none, rxStat := .ok }) r rs) r rs) r))) ∧
  (∀ (r : Nat) (gs : List CodeGroup) (bs : List Byte) (s : State), framed s r gs bs → (s.ringOf r).onRing = .cycle →
    cycleRecords bs = none →
    exec (.cycleReturn r gs) s = .next (interrupts s (missedFrame
      ((heard s r gs).setRing r { (heard s r gs).ringOf r with errInv := sat 0xFFFF (s.ringOf r).errInv }) r .crcFail))) ∧
  (∀ (r : Nat) (s : State), (s.ringOf r).onRing = .cycle → deadlineNs (s.ringOf r) ≤ s.now →
    exec (.returnDeadline r) s = .next (interrupts s (missedFrame
      (s.start.setRing r { s.ringOf r with errLate := sat 0xFFFF (s.ringOf r).errLate }) r .timeout))) ∧
  (∀ (r : Nat) (s : State), (s.ringOf r).onRing = .cycle → s.now < deadlineNs (s.ringOf r) →
    exec (.returnDeadline r) s = .next (interrupts s s.start)) ∧
  (∀ (r : Nat) (gs : List CodeGroup) (s : State), synced (s.ringOf r).rx = false →
    synced (syncRun (s.ringOf r).rx gs) = true →
    ((s.ringOf r).state = .starting → exec (.rxSync r gs) s = .next (interrupts s (pumpCtrl
      ((heard s r gs).setRing r { (heard s r gs).ringOf r with state := .discovering, queue := [.reset] }) r))) ∧
    ((s.ringOf r).state = .broken → exec (.rxSync r gs) s = .next (interrupts s (measure
      ((heard s r gs).setRing r { (heard s r gs).ringOf r with state := .discovering, recover := true, tries := 0 }) r)))) ∧
  (∀ (r : Nat) (gs : List CodeGroup) (s : State), synced (s.ringOf r).rx = true →
    synced (syncRun (s.ringOf r).rx gs) = false → (s.ringOf r).state = .running ∨ (s.ringOf r).state = .discovering →
    exec (.ringBreak r gs) s = .next (interrupts s (breakRing (heard s r gs) r))) ∧
  (∀ (r : Nat) (gs : List CodeGroup) (s : State), (s.ringOf r).state ≠ .stopped →
    synced (syncRun (s.ringOf r).rx gs) = synced (s.ringOf r).rx →
    exec (.rxSync r gs) s = .next (interrupts s (heard s r gs)) ∧
    exec (.ringBreak r gs) s = .next (interrupts s (heard s r gs))) ∧
  (∀ (r : Nat) (g : Ring) (u v s : State), g = s.ringOf r →
    u = sendIdle (s.setRing r { g with
      state := .broken, onRing := .none, queue := [], status := .ringBreak, rxFresh := [], csFresh := 0,
      stns := g.stns.map fun e => (e.1, if e.2.id = 0 then e.2 else { e.2 with state := .lost, fresh := false }) }) r →
    v = ringSignals (uanEvent (uanInt u r 4) r 2 .ringBreak 0) r →
    breakRing s r = ringDone v r .ringBreak []) ∧
  (∀ (r : Nat) (s : State), (s.ringOf r).state = .starting → (s.ringOf r).since + 10000000 ≤ s.uptime →
    exec (.startSyncTimeout r) s = .next (interrupts s (ringDone (s.start.setRing r
      { s.ringOf r with state := .broken, status := .ringBreak }) r .ringBreak []))) ∧
  (∀ (r : Nat) (s : State), (s.ringOf r).state ≠ .starting ∨ s.uptime < (s.ringOf r).since + 10000000 →
    exec (.startSyncTimeout r) s = .next (interrupts s s.start)) ∧
  (∀ (r : Nat) (s : State), (s.ringOf r).state = .stopping → (s.ringOf r).since + 1000000 ≤ s.uptime →
    exec (.stopTimeout r) s = .next (interrupts s (ringStopped s.start r))) ∧
  (∀ (r : Nat) (s : State), (s.ringOf r).state ≠ .stopping ∨ s.uptime < (s.ringOf r).since + 1000000 →
    exec (.stopTimeout r) s = .next (interrupts s s.start))

/-- PERST_N rising ends the reset of the link; a link out of reset whose quad has its reference comes up at a rate and
width that it is allowed and ends its muzzle of cause 4; a configuration request acts while the link is up and not
otherwise; a host loss by PERST_N of a link out of reset, or by causes 2 to 4 of a link that is up, drops what was
outstanding, resets the function, ends the host's sessions, muzzles the endpoint, is reported, and applies the policy
where none is in force yet; HOST_LOSS release is for those who may touch the endpoint, and without a loss changes
nothing. -/
def Obligations.PciLinks : Prop :=
  (∀ (p : Nat) (s : State), p < 4 →
    exec (.perstDeassert p) s = .next (interrupts s (s.start.setPci p { s.pciOf p with perst := false }))) ∧
  (∀ (p gen width : Nat) (s : State), p < 4 → (s.pciOf p).up = false → (s.pciOf p).perst = false →
    (s.pciOf p).raw = false → s.boot.mcUp = true → (s.quadOf (pciQuad p)).ref = true → linkAllowed (s.pciOf p) gen width = true →
    exec (.linkUp p gen width) s = .next (interrupts s (pciInt (clearLinkMuzzle (s.start.setPci p { s.pciOf p with
      up := true, everUp := true, gen := gen, width := width }) p) p 1))) ∧
  (∀ (p : Nat) (s : State) (r : CfgReq), (s.pciOf p).up = false → exec (.configRequest p r) s = .next (interrupts s s.start)) ∧
  (∀ (p n v : Nat) (s : State), p < 4 → (s.pciOf p).up = true →
    exec (.configRequest p (.setBar n v)) s = .next (interrupts s (s.start.setPci p { s.pciOf p with
      bars := SMap.set dNat (s.pciOf p).bars n (v &&& barMask n) }))) ∧
  (∀ (p : Nat) (on : Bool) (s : State), p < 4 → (s.pciOf p).up = true →
    exec (.configRequest p (.setBusMaster on)) s = .next (interrupts s (s.start.setPci p { s.pciOf p with bme := on })) ∧
    exec (.configRequest p (.setMsixEnable on)) s = .next (interrupts s
      (sendPending (s.start.setPci p { s.pciOf p with msixEn := on }) p)) ∧
    exec (.configRequest p (.setD3hot on)) s = .next (interrupts s (s.start.setPci p { s.pciOf p with d3 := on }))) ∧
  (∀ (p : Nat) (s : State), p < 4 → (s.pciOf p).up = true → exec (.configRequest p .readId) s = .next (interrupts s
    (s.start.emit (.words [0x40961F3A, 0x118000A1, wd (p * 0x10000 + 0x1F3A)])))) ∧
  (∀ (p cause : Nat) (u v s : State), p < 4 → 0 < cause → cause ≤ 4 →
    (if cause = 1 then (s.pciOf p).perst = false else (s.pciOf p).up = true) →
    u = dropOutbound (dropReads s.start p) p →
    v = (pciInt (linkMuzzle (endSessions (u.setPci p (resetFunction (u.pciOf p) cause)) (ownerOf p)) p) p 2).post
      [p] (8 + p) .ok 1 cause p →
    exec (.hostLoss p cause) s = .next (interrupts s
      (if (s.pciOf p).lost then v
       else if (s.pciOf p).policy = 1 then policySafe v p
       else if (s.pciOf p).policy = 2 then policyReset v p else v))) ∧
  (∀ (p : Nat) (s : State), p < 4 → (s.pciOf p).perst = true → exec (.hostLoss p 1) s = .next (interrupts s s.start)) ∧
  (∀ (p cause : Nat) (s : State), cause ≠ 1 → (s.pciOf p).up = false →
    exec (.hostLoss p cause) s = .next (interrupts s s.start)) ∧
  (∀ (acc : Accessor) (p : Nat) (v : Word) (s : State), p = pciIx s acc → mayTouch acc (ownerOf p) = true →
    exec (.hostLossRelease acc v) s = .next (interrupts s (release p v s.start))) ∧
  (∀ (p : Nat) (v : Word) (s : State), (s.pciOf p).lost = false → release p v s = s)

/-- On a device that is not asleep or entering sleep: a TLP to window 0 reads or writes the registers from its dword
address, and a read is refused in D3hot; one to window 2 goes through the first translation that holds its address
where it permits the access, and is refused where none does or it forbids it, in D3hot and before DONE, and while the
endpoint is muzzled. XLT_CTRL applies what is staged unless it is refused; a completion from the host, or its absence
for 50 ms, answers the outbound request. -/
def Obligations.PciTraffic : Prop :=
  (∀ (p addr n : Nat) (s : State), p < 4 → (s.pciOf p).up = true → sleepNear s = false → (s.pciOf p).d3 = false →
    exec (.window0Tlp p addr (.read n)) s = .next (interrupts s
      ((readWords (win0Read p) (addr / 4 * 4 % 0x1000000) n s.start).2.emit
        (.words (readWords (win0Read p) (addr / 4 * 4 % 0x1000000) n s.start).1)))) ∧
  (∀ (p addr : Nat) (ws : List (Word × Bool)) (s : State), p < 4 → (s.pciOf p).up = true → sleepNear s = false → (s.pciOf p).d3 = false →
    exec (.window0Tlp p addr (.write ws)) s = .next (interrupts s
      (win0Writes p (addr / 4 * 4 % 0x1000000) ws s.start))) ∧
  (∀ (p addr n : Nat) (s : State), p < 4 → (s.pciOf p).up = true → sleepNear s = false → (s.pciOf p).d3 = true →
    exec (.window0Tlp p addr (.read n)) s = .next (interrupts s (s.start.emit (.cpl p 0 .ur [])))) ∧
  (∀ (p off i : Nat) (data : List Byte) (x : Xlt) (s : State), p < 4 → (s.pciOf p).up = true → sleepNear s = false → (s.pciOf p).d3 = false →
    s.boot.done = true → xltFor (s.pciOf p) off = some i → x = SMap.get dXlt (s.pciOf p).xlts i → x.write = true →
    isMuzzled s (pciId p) = false →
    exec (.window2Tlp p off (.write data)) s = .next (interrupts s
      (sendWrites p (cut (data.length + 1) (x.tgt + (off - x.bar * 4096)) data.length) data s.start))) ∧
  (∀ (p off i tag len : Nat) (x : Xlt) (s : State), p < 4 → (s.pciOf p).up = true → sleepNear s = false → (s.pciOf p).d3 = false →
    s.boot.done = true → xltFor (s.pciOf p) off = some i → x = SMap.get dXlt (s.pciOf p).xlts i → x.read = true →
    isMuzzled s (pciId p) = false →
    exec (.window2Tlp p off (.read tag len)) s = .next (interrupts s
      (sendRead p i off tag len (x.tgt + (off - x.bar * 4096)) s.start))) ∧
  (∀ (p off i tag len : Nat) (data : List Byte) (x : Xlt) (s : State), p < 4 → (s.pciOf p).up = true → sleepNear s = false →
    (s.pciOf p).d3 = false → s.boot.done = true → xltFor (s.pciOf p) off = some i → x = SMap.get dXlt (s.pciOf p).xlts i →
    (x.write = false → exec (.window2Tlp p off (.write data)) s = .next (interrupts s (pciErr s.start p 2 .ok i off))) ∧
    (x.read = false → exec (.window2Tlp p off (.read tag len)) s = .next (interrupts s
      ((pciErr s.start p 2 .ok i off).emit (.cpl p tag .ur [])))) ∧
    (x.write = true → isMuzzled s (pciId p) = true →
      exec (.window2Tlp p off (.write data)) s = .next (interrupts s (bump s.start (pciId p) 2))) ∧
    (x.read = true → isMuzzled s (pciId p) = true → exec (.window2Tlp p off (.read tag len)) s = .next (interrupts s
      ((pciErr (bump s.start (pciId p) 2) p 3 .destMuzzled i off).emit (.cpl p tag .ca []))))) ∧
  (∀ (p off tag len : Nat) (data : List Byte) (s : State), p < 4 → (s.pciOf p).up = true → sleepNear s = false →
    (s.pciOf p).d3 = true ∨ s.boot.done = false →
    exec (.window2Tlp p off (.write data)) s = .next (interrupts s s.start) ∧
    exec (.window2Tlp p off (.read tag len)) s = .next (interrupts s (s.start.emit (.cpl p tag .ur [])))) ∧
  (∀ (p off tag len : Nat) (s : State), p < 4 → (s.pciOf p).up = true → sleepNear s = false → (s.pciOf p).d3 = false →
    s.boot.done = true → xltFor (s.pciOf p) off = none →
    exec (.window2Tlp p off (.read tag len)) s = .next (interrupts s ((pciErr s.start p 1 .ok 0 off).emit (.cpl p tag .ur [])))) ∧
  (∀ (acc : Accessor) (p : Nat) (v : Word) (c : Pci) (x : Xlt) (s : State), p = pciIx s acc → mayTouch acc (ownerOf p) = true →
    c = s.pciOf p →
    x = { valid := wb v 31, read := wb v 30, write := wb v 29, pages := wf v 23 0, bar := c.stBar,
          tgt := wf c.stLo 31 12 * 4096 + wf c.stHi 15 0 * 0x100000000 } →
    exec (.xltCtrl acc v) s = .next (interrupts s
      (if x.valid = true ∧ xltRefused c c.xltIdx x = true then pciInt (s.start.setPci p { c with
         xlts := SMap.set dXlt c.xlts c.xltIdx { SMap.get dXlt c.xlts c.xltIdx with rej := true } }) p 8
       else s.start.setPci p { c with xlts := SMap.set dXlt c.xlts c.xltIdx x }))) ∧
  (∀ (p tag : Nat) (data : List Byte) (q : Pkt) (u s : State), SMap.get dNone (s.pciOf p).ob tag = some q →
    u = s.start.setPci p { s.pciOf p with ob := SMap.set dNone (s.pciOf p).ob tag none } →
    exec (.hostCompletion p tag true data) s = .next (interrupts s (respond u q .ok data)) ∧
    exec (.hostCompletion p tag false data) s = .next (interrupts s (respond u q .refused [])) ∧
    (SMap.get dNat (s.pciOf p).obAt tag + 50000000 ≤ s.uptime →
      exec (.outboundTimeout p tag) s = .next (interrupts s (respond u q .timeout [])))) ∧
  (∀ (p tag : Nat) (s : State), s.uptime < SMap.get dNat (s.pciOf p).obAt tag + 50000000 →
    exec (.outboundTimeout p tag) s = .next (interrupts s s.start))

/-- R338: a TLP to window 0 of a function that takes accesses, of a device that is not asleep or entering sleep, is
handled one dword at a time, in ascending address order, each from the state that the one before it left. A read
returns every dword whole; a dword written with partial byte enables is ignored. -/
def Obligations.WindowZeroByDwords : Prop :=
  ∀ (p addr a : Nat) (s : State), p < 4 → (s.pciOf p).up = true → (s.pciOf p).d3 = false → sleepNear s = false →
    a = addr / 4 * 4 % 0x1000000 →
    (∀ n : Nat, ∃ (f : Nat → State) (ws : List Word), f 0 = s.start ∧ ws.length = n ∧
      (∀ i < n, win0Read p (a + 4 * i) (f i) = (ws.getD i 0, f (i + 1))) ∧
      exec (.window0Tlp p addr (.read n)) s = .next (interrupts s ((f n).emit (.words ws)))) ∧
    (∀ ws : List (Word × Bool), ∃ f : Nat → State, f 0 = s.start ∧
      (∀ i < ws.length, f (i + 1) =
        if (ws.getD i (0, false)).2 then win0Write p (a + 4 * i) (ws.getD i (0, false)).1 (f i) else f i) ∧
      exec (.window0Tlp p addr (.write ws)) s = .next (interrupts s (f ws.length)))

/-- A transmit descriptor's frame is sent with its check sequence when its gate is open and long enough, one of a length
that is none's is not, and either way the descriptor is written back and HEAD advances; a received frame that is for
the port is moved to the host's memory with its descriptor, one that is not or belongs to the timebase is dropped, and
a PAUSE frame, one with a bad check sequence or length, and one that finds no descriptor are counted; an access that
fails stops the queue; a TAIL write hands descriptors over, and one beyond the ring is refused. -/
def Obligations.EthernetFrames : Prop :=
  (∀ (m ts frags len cls : Nat) (dma : DmaResult) (frame : List Byte) (u v : Status × State) (s : State), m < 16 →
    macRuns s m = true → (s.macOf m).up = true → (s.macOf m).txHalt = false → (s.macOf m).tx.stop = false →
    (s.macOf m).tx.head ≠ (s.macOf m).tx.tail → len = leAt (dma.data.take 32) 6 2 → cls = leAt (dma.data.take 32) 9 1 % 8 →
    u = macFetch s.start m (descAddr (s.macOf m).tx (s.macOf m).tx.head) 32 dma.status → u.1 = .ok →
    gateOpen (s.macOf m) cls = true → gateFits s m cls len = true → 60 ≤ len → len ≤ (s.macOf m).maxF - 4 →
    v = macFetch u.2 m (leAt (dma.data.take 32) 0 6) len .ok → frame = (dma.data.drop 32).take len →
    exec (.txFrame m dma ts frags) s = .next (interrupts s (
      if v.1 = .ok then
        descDone ((countFrags (macCount v.2 m 0) m (fragCount (s.macOf m) cls len frags)).emit (.eth m (frame ++ leBytes 4 (crc32u frame))))
          m true (writeBack (dma.data.take 32)
            (if wb (wd (leAt (dma.data.take 32) 8 1)) 1 then ts else leAt (dma.data.take 32) 16 8) .ok 0)
      else stopQueue m true v.1 v.2))) ∧
  (∀ (m ts frags len cls : Nat) (dma : DmaResult) (u : Status × State) (s : State), m < 16 →
    macRuns s m = true → (s.macOf m).up = true → (s.macOf m).txHalt = false → (s.macOf m).tx.stop = false →
    (s.macOf m).tx.head ≠ (s.macOf m).tx.tail → len = leAt (dma.data.take 32) 6 2 → cls = leAt (dma.data.take 32) 9 1 % 8 →
    u = macFetch s.start m (descAddr (s.macOf m).tx (s.macOf m).tx.head) 32 dma.status → u.1 = .ok →
    gateOpen (s.macOf m) cls = true → len < 60 ∨ (s.macOf m).maxF - 4 < len →
    exec (.txFrame m dma ts frags) s = .next (interrupts s
      (descDone u.2 m true (writeBack (dma.data.take 32) (leAt (dma.data.take 32) 16 8) .badParameter 0)))) ∧
  (∀ (m ts frags : Nat) (dma : DmaResult) (u : Status × State) (s : State), m < 16 → macRuns s m = true →
    (s.macOf m).up = true → (s.macOf m).txHalt = false → (s.macOf m).tx.stop = false →
    (s.macOf m).tx.head ≠ (s.macOf m).tx.tail →
    u = macFetch s.start m (descAddr (s.macOf m).tx (s.macOf m).tx.head) 32 dma.status → u.1 ≠ .ok →
    exec (.txFrame m dma ts frags) s = .next (interrupts s (stopQueue m true u.1 u.2))) ∧
  (∀ (m ts : Nat) (bs : List Byte) (dma : DmaResult) (u v : Status × State) (s : State), m < 16 → macRuns s m = true →
    (s.macOf m).up = true → 64 ≤ bs.length + 4 → bs.length + 4 ≤ (s.macOf m).maxF → etherType bs ≠ 0x8808 →
    gptpFrame s m bs = false → addressed (s.macOf m) bs = true → (s.macOf m).txHalt = false →
    (s.macOf m).rx.stop = false → (s.macOf m).rx.head ≠ (s.macOf m).rx.tail →
    u = macFetch s.start m (descAddr (s.macOf m).rx (s.macOf m).rx.head) 32 dma.status →
    v = (if u.1 = .ok then macStore u.2 m (leAt (dma.data.take 32) 0 6) bs else u) →
    exec (.rxFrame m bs true ts dma) s = .next (interrupts s (
      if v.1 = .ok then descDone (macCount v.2 m 1) m false (writeBack (dma.data.take 32) ts .ok bs.length)
      else stopQueue m false v.1 v.2))) ∧
  (∀ (s : State) (m : Nat) (tx : Bool) (bs : List Byte) (r : EthRing) (u : Status × State),
    r = (if tx then (s.macOf m).tx else (s.macOf m).rx) → u = macStore s m (descAddr r r.head) bs →
    descDone s m tx bs =
      if u.1 = .ok then
        ethInt (u.2.setMac m (if tx then { s.macOf m with tx := { r with head := (r.head + 1) % ringLen r } }
          else { s.macOf m with rx := { r with head := (r.head + 1) % ringLen r } })) m (if tx then 1 else 2)
      else stopQueue m tx u.1 u.2) ∧
  (∀ (m ts : Nat) (bs : List Byte) (dma : DmaResult) (s : State), m < 16 → macRuns s m = true → (s.macOf m).up = true →
    64 ≤ bs.length + 4 → bs.length + 4 ≤ (s.macOf m).maxF → etherType bs ≠ 0x8808 →
    (gptpFrame s m bs = true ∨ addressed (s.macOf m) bs = false →
      exec (.rxFrame m bs true ts dma) s = .next (interrupts s s.start)) ∧
    (gptpFrame s m bs = false → addressed (s.macOf m) bs = true →
      (s.macOf m).txHalt = true ∨ (s.macOf m).rx.stop = true ∨ (s.macOf m).rx.head = (s.macOf m).rx.tail →
      exec (.rxFrame m bs true ts dma) s = .next (interrupts s (macCount s.start m 3)))) ∧
  (∀ (m ts : Nat) (bs : List Byte) (dma : DmaResult) (s : State), m < 16 → macRuns s m = true → (s.macOf m).up = true →
    64 ≤ bs.length + 4 → bs.length + 4 ≤ (s.macOf m).maxF → etherType bs = 0x8808 →
    exec (.rxFrame m bs true ts dma) s = .next (interrupts s (macCount s.start m 5))) ∧
  (∀ (m ts : Nat) (bs : List Byte) (dma : DmaResult) (s : State), m < 16 → macRuns s m = true → (s.macOf m).up = true →
    exec (.rxFrame m bs false ts dma) s = .next (interrupts s (macCount s.start m 2))) ∧
  (∀ (m ts : Nat) (bs : List Byte) (dma : DmaResult) (s : State), m < 16 → macRuns s m = true → (s.macOf m).up = true →
    bs.length + 4 < 64 ∨ (s.macOf m).maxF < bs.length + 4 →
    exec (.rxFrame m bs true ts dma) s = .next (interrupts s (macCount s.start m 4))) ∧
  (∀ (acc : Accessor) (m : Nat) (v : Word) (s : State), m = macIx s acc → mayTouch acc (macOwner s m) = true →
    wf v 11 0 < ringLen (s.macOf m).tx → wf v 11 0 ≠ (s.macOf m).tx.head →
    exec (.tailWrite acc true v) s = .next (interrupts s (s.start.setMac m { s.macOf m with
      tx := { (s.macOf m).tx with tail := wf v 11 0 } }))) ∧
  (∀ (acc : Accessor) (m : Nat) (v : Word) (s : State), m = macIx s acc → mayTouch acc (macOwner s m) = true →
    ringLen (s.macOf m).rx ≤ wf v 11 0 →
    exec (.tailWrite acc false v) s = .next (interrupts s (ethInt s.start m 0x20)))

/-- Enabling a used port empties its rings and an unused one is refused; a committed gate list of 1 to 256 entries waits
for its switch time and then acts, and not sooner, and another length is refused; a gate interval puts the entry of
that time in force; verified preemption becomes active. -/
def Obligations.EthernetControl : Prop :=
  (∀ (acc : Accessor) (m : Nat) (v : Word) (s : State), m = macIx s acc → mayTouch acc (macOwner s m) = true →
    macUsed s m = true → wf v 26 25 ≠ 1 → wb v 31 = true → wb (s.macOf m).ctrl 31 = false →
    exec (.portEnable acc v) s = .next (interrupts s (s.start.setMac m { s.macOf m with
      ctrl := v &&& 0xFF00FF00,
      pre := wb v 28 && (!wb v 27 || ((s.macOf m).pre && !true)),
      tx := { (s.macOf m).tx with head := 0, tail := 0, stop := false },
      rx := { (s.macOf m).rx with head := 0, tail := 0, stop := false }, qStat := .ok }))) ∧
  (∀ (acc : Accessor) (m : Nat) (v : Word) (s : State), m = macIx s acc → mayTouch acc (macOwner s m) = true →
    macUsed s m = false → wb v 31 = true →
    exec (.portEnable acc v) s = .next (interrupts s (ethInt s.start m 0x20))) ∧
  (∀ (acc : Accessor) (m : Nat) (v : Word) (s : State), m = macIx s acc → mayTouch acc (macOwner s m) = true →
    1 ≤ wf v 8 0 → wf v 8 0 ≤ 256 → wb v 30 = true →
    exec (.gclCommit acc v) s = .next (interrupts s (s.start.setMac m { s.macOf m with
      admin := { (s.macOf m).admin with len := wf v 8 0 }, gclEn := wb v 31,
      pend := some (switchAt { (s.macOf m).admin with len := wf v 8 0 } s.now,
        { (s.macOf m).admin with len := wf v 8 0 }) }))) ∧
  (∀ (acc : Accessor) (m : Nat) (v : Word) (s : State), m = macIx s acc → mayTouch acc (macOwner s m) = true →
    wf v 8 0 = 0 ∨ 256 < wf v 8 0 →
    exec (.gclCommit acc v) s = .next (interrupts s (ethInt s.start m 0x20))) ∧
  (∀ (m t : Nat) (l : GateList) (s : State), (s.macOf m).pend = some (t, l) → t ≤ s.now →
    exec (.gclSwitch m) s = .next (interrupts s (ethInt (s.start.setMac m { s.macOf m with
      oper := l, pend := none, gateAt := 0, gateRe := false }) m 0x10))) ∧
  (∀ (m t : Nat) (l : GateList) (s : State), (s.macOf m).pend = some (t, l) → s.now < t →
    exec (.gclSwitch m) s = .next (interrupts s s.start)) ∧
  (∀ (m i : Nat) (s : State), (s.macOf m).gclEn = true → (s.macOf m).oper.len ≠ 0 → (s.macOf m).oper.base ≤ s.now →
    (s.macOf m).gateRe = false →
    i = gateEntry (s.macOf m).oper.ents ((s.macOf m).oper.len - 1) 0
      ((s.now - (s.macOf m).oper.base) % (s.macOf m).oper.cycle) →
    exec (.gateInterval m) s = .next (interrupts s (s.start.setMac m { s.macOf m with gateAt := i, gateRe := false }))) ∧
  (∀ (m : Nat) (s : State), macRuns s m = true → wb (s.macOf m).ctrl 28 = true →
    exec (.preemptVerify m) s = .next (interrupts s (s.start.setMac m { s.macOf m with pre := true })))

/-- A quad loses lock, with its reference or without, and regains it, and one that is not locked has none to lose; a raw
lane's clock recovery and word alignment follow their events; at a word time a raw lane of a locked quad that is in
service sends the oldest word or the fill word and takes the received one where it has room, and a lane that is not
raw does nothing; the traffic of a lane under test aborts the test, and that of another leaves it. -/
def Obligations.TransceiverLanes : Prop :=
  (∀ (q : Nat) (s : State), q < 12 → (s.quadOf q).locked = true →
    exec (.xcvLossOfLock q false) s = .next (interrupts s ((s.start.setQuad q { s.quadOf q with
      locked := false, lol := sat 0xFF (s.quadOf q).lol }).raiseAll 0x9001C 0 (1#32 <<< q))) ∧
    exec (.xcvLossOfLock q true) s = .next (interrupts s (quadDark ((s.start.setQuad q { s.quadOf q with
      locked := false, lol := sat 0xFF (s.quadOf q).lol }).raiseAll 0x9001C 0 (1#32 <<< q)) q))) ∧
  (∀ (q : Nat) (b : Bool) (s : State), (s.quadOf q).locked = false →
    exec (.xcvLossOfLock q b) s = .next (interrupts s s.start)) ∧
  (∀ (q : Nat) (s : State), q < 12 →
    exec (.quadPllLock q) s = .next (interrupts s ((List.range 4).foldl
      (fun u i => u.setLane (4 * q + i) { u.laneOf (4 * q + i) with
        idle := false, eye := (Config.freeBits (s.free + i)).setWidth 32 })
      ({ s.start with free := s.free + 4 }.setQuad q { s.quadOf q with ref := true, locked := true })))) ∧
  (∀ (l : Nat) (locked : Bool) (s : State), rawLane s l = true →
    exec (.rxLockChange l locked) s = .next (interrupts s ((s.start.takeFree.setLane l { s.laneOf l with
      lock := locked, sig := (s.laneOf l).sig || locked,
      eye := if locked then (Config.freeBits s.free).setWidth 32 else (s.laneOf l).eye }).emit (.wire "xcv_rx_lock" l (b2n locked))))) ∧
  (∀ (l : Nat) (s : State), rawLane s l = true →
    exec (.rxSlip l) s = .next (interrupts s (s.start.setLane l { s.laneOf l with
      slip := ((s.laneOf l).slip + 1) % (if (laneImage s l).pam4 then 64 else 128) }))) ∧
  (∀ (l : Nat) (rx push : Option (BitVec 128)) (pop idle : Bool) (tx rf : List (BitVec 128)) (g c : Lane) (u s : State),
    rawLane s l = true → (s.quadOf (l / 4)).locked = true → outOfService s 0x82 l = false → laneSlice s l = false → g = s.laneOf l →
    tx = (if g.txF.length < Config.laneDepth + 1 then g.txF ++ push.toList else g.txF) →
    rf = (if pop then g.rxF.drop 1 else g.rxF) →
    c = { g with
      idle := idle, txF := if idle then tx else tx.drop 1,
      under := if tx = [] ∧ idle = false then sat 0xFFFF g.under else g.under,
      rxF := if rf.length < Config.laneDepth + 1 then rf ++ rx.toList else rf,
      overf := if rx ≠ none ∧ Config.laneDepth + 1 ≤ rf.length then sat 0xFFFF g.overf else g.overf } →
    u = (if idle then s.start.setLane l c else (s.start.setLane l c).emit (.lane l (tx.headD fillWord))) →
    exec (.rawWordTime l rx push pop idle) s = .next (interrupts s
      (if pop = true ∧ g.rxF ≠ [] then u.emit (.wire "xcv_rx_data" l (g.rxF.headD 0).toNat) else u))) ∧
  (∀ (l : Nat) (s : State) (rx push : Option (BitVec 128)) (pop idle locked : Bool), rawLane s l = false →
    exec (.rawWordTime l rx push pop idle) s = .next (interrupts s s.start) ∧ exec (.rxSlip l) s = .next (interrupts s s.start) ∧
    exec (.rxLockChange l locked) s = .next (interrupts s s.start)) ∧
  (∀ (l k : Nat) (x : Slice) (s : State), s.bst.slices = [(k, some x)] →
    (baseTest x.test = 4 → x.target = l →
      exec (.laneTraffic l) s = .next (interrupts s (abortSlice s.start k x))) ∧
    (baseTest x.test ≠ 4 ∨ x.target ≠ l → exec (.laneTraffic l) s = .next (interrupts s s.start))) ∧
  (∀ (l : Nat) (s : State), s.bst.slices = [] → exec (.laneTraffic l) s = .next (interrupts s s.start))

/-- A doorbell within the ring hands commands over and one beyond it is an error; a completion head frees slots;
ring_reset empties the ring unless a command runs; nobody but the domain and the MC does so; the slave serial window
reads and writes the HS mailbox word by word; an MC restart completes what runs and drops the reports, a second within
a second halts the MC, and after a restart the settings that waited act and the rings are served again. -/
def Obligations.MailboxPorts : Prop :=
  (∀ (acc : Accessor) (d : Nat) (v : Word) (s : State), hmbMine acc d = true →
    ringFill (wf v 6 0) (s.mbxOf d).cmdHead ≤ 64 →
    exec (.doorbell acc d v) s = .next (interrupts s (serveRest
      (s.start.setMbx d { s.mbxOf d with cmdTail := wf v 6 0, dbErr := false })))) ∧
  (∀ (acc : Accessor) (d : Nat) (v : Word) (s : State), hmbMine acc d = true →
    64 < ringFill (wf v 6 0) (s.mbxOf d).cmdHead →
    exec (.doorbell acc d v) s = .next (interrupts s
      (s.start.setMbx d { s.mbxOf d with dbErr := true, intSt := (s.mbxOf d).intSt ||| 2#32 }))) ∧
  (∀ (acc : Accessor) (d : Nat) (v : Word) (s : State), hmbMine acc d = true →
    ringFill (s.mbxOf d).cplTail (wf v 6 0) ≤ ringFill (s.mbxOf d).cplTail (s.mbxOf d).cplHead →
    exec (.cplHeadWrite acc d v) s = .next (interrupts s (serveRest (drainHeld 64
      (s.start.setMbx d { s.mbxOf d with cplHead := wf v 6 0, dbErr := false }) d)))) ∧
  (∀ (acc : Accessor) (d : Nat) (v : Word) (s : State), hmbMine acc d = true → wb v 31 = true → runCount s d = 0 →
    exec (.ringReset acc d v) s = .next (interrupts s (drainHeld 64 (s.start.setMbx d { s.mbxOf d with
      cmdTail := 0, cmdHead := 0, cplTail := 0, cplHead := 0, intCpl := wb v 0 }) d))) ∧
  (∀ (acc : Accessor) (d : Nat) (v : Word) (s : State), hmbMine acc d = true → wb v 31 = true → runCount s d ≠ 0 →
    exec (.ringReset acc d v) s = .next (interrupts s
      (s.start.setMbx d { s.mbxOf d with dbErr := true, intSt := (s.mbxOf d).intSt ||| 2#32 }))) ∧
  (∀ (acc : Accessor) (d : Nat) (v : Word) (s : State), hmbMine acc d = false →
    exec (.doorbell acc d v) s = .next (interrupts s s.start) ∧ exec (.cplHeadWrite acc d v) s = .next (interrupts s s.start) ∧
    exec (.ringReset acc d v) s = .next (interrupts s s.start)) ∧
  (∀ (addr n : Nat) (ws : List Word) (s : State), s.boot.mcUp = true →
    exec (.winWrite addr ws) s = .next (interrupts s (mbxPutWords 4 (addr / 4 * 4) ws s.start)) ∧
    exec (.winRead addr n) s = .next (interrupts s (s.start.emit (.words ((List.range n).map fun i =>
      if addr / 4 * 4 + 4 * i < 0x10000 then mbxWord s.start 4 (addr / 4 * 4 + 4 * i) else 0))))) ∧
  (∀ (u s : State), s.boot.mcUp = true → s.mc.halted = false → s.mc.lastRst = 0 →
    u = forgetCmds (failExits (abortRunning s.start)) →
    exec .mcRestart s = .next (interrupts s (dropReports { u with mc := { u.mc with
      restart := true, restarts := sat 0xFFFFFFFF u.mc.restarts, lastRst := s.uptime + 1, avsHigh := 0, idleTry := [] } }))) ∧
  (∀ (u s : State), s.boot.mcUp = true → s.mc.halted = false → s.mc.lastRst ≠ 0 →
    s.uptime + 1 < s.mc.lastRst + 1000000000 → u = forgetCmds (failExits (abortRunning s.start)) →
    exec .mcRestart s = .next (interrupts s { u with mc := { u.mc with halted := true, restart := false } })) ∧
  (∀ (u s : State), s.mc.restart = true →
    u = s.clk.pend.foldl applyPll { s.start with mc := { s.mc with restart := false } } →
    exec .mcRestartDone s = .next (interrupts s (serveRest { u with clk := { u.clk with pend := [] } })))

/-- IDENTIFY and GET_STATUS answer with the device's words; GET_REPORT copies what the handle names and takes delivered
events away, or fails with the status of what it cannot find; SET_POLICY applies every pair it carries, with its
clamps, or none; GET_POLICY returns a known parameter. -/
def Obligations.MailboxQueries : Prop :=
  (∀ (d : Nat) (c : RunCmd) (u s : State), served s d 0x0001 .any → u = servedState s d → c = frontEntry s d →
    exec (.identify d) s = .next (answered s (finish c .ok 0 [] [0x14096B3D, 0x00010000, wd s.lcs.state,
      wd (s.leadCode * 16 + c.d), Config.serial.extractLsb' 0 32, Config.serial.extractLsb' 32 32] u))) ∧
  (∀ (d k : Nat) (c : RunCmd) (t u s : State), served s d 0x0002 .any → c = frontEntry s d →
    t = { s with mc := { s.mc with sramCorr := min 0xFFF (s.mc.sramCorr + k) } } → u = servedState t d →
    exec (.getStatus d k) s = .next (answered s (finish c .ok 0 []
      [wd (phaseCode u.boot.phase * 0x10000000 + u.lcs.state * 0x1000000 + scode u.boot.first * 0x10000 +
         scode u.boot.second * 0x100 + scode (u.loadOf mgmt).status),
       wd (statusFlags u),
       wd (maskOf 16 (fun b => (u.bandOf b).state != .on) * 0x10000 + maskOf 16 (bankHeld u)),
       wd (min 0xFFF u.mc.sramCorr * 0x100000 + (hottest u).1 * 0x10000 + (hottest u).2 % 4096),
       wd (SMap.get dReport u.mc.events c.d).es.length, startupWord u] u))) ∧
  (∀ (d n : Nat) (f : Found) (es : List (List Word)) (c : RunCmd) (u v s : State), served s d 0x0003 .any →
    u = servedState s d → c = frontEntry s d → n = bf (pw c 2) 15 0 →
    findReport u c.d (bf (pw c 0) 15 0) (pw c 3) = .inr f → 32 ≤ n → n ≤ 57344 → bufOk (pw c 1) n = true →
    es = f.es.take ((n - 16) / 16) →
    v = writeBuf u c (pw c 1)
      (wordBytes ([wd (bf (pw c 0) 15 0), wd f.held, wd f.lost, wd f.seq0] ++ es.flatten)) →
    exec (.getReport d) s = .next (answered s (finish c .ok 0 []
      [wd es.length, wd (f.es.length - es.length), wd f.lost]
      (if bf (pw c 0) 15 0 = 0x8001 then takeEvents v c.d es.length else v)))) ∧
  (∀ (d : Nat) (st : Status) (c : RunCmd) (u s : State), served s d 0x0003 .any → u = servedState s d → c = frontEntry s d →
    findReport u c.d (bf (pw c 0) 15 0) (pw c 3) = .inl st →
    exec (.getReport d) s = .next (answered s (finish c st 0 [] [] u))) ∧
  (∀ (d n : Nat) (r : List (Nat × Nat) × List Clamp) (c : RunCmd) (u s : State), served s d 0x0004 .lead →
    u = servedState s d → c = frontEntry s d → n = bf (pw c 0) 2 0 → 1 ≤ n → n ≤ 6 → polPairs c (u.pol 3) 1 n = some r →
    exec (.setPolicy d) s = .next (answered s (finish c .ok 0 r.2 [wd n] (r.1.foldl setPol u)))) ∧
  (∀ (d n : Nat) (c : RunCmd) (u s : State), served s d 0x0004 .lead →
    u = servedState s d → c = frontEntry s d → n = bf (pw c 0) 2 0 → n = 0 ∨ 6 < n ∨ polPairs c (u.pol 3) 1 n = none →
    exec (.setPolicy d) s = .next (answered s (finish c .badParameter 0 [] [] u))) ∧
  (∀ (d id : Nat) (c : RunCmd) (u s : State), served s d 0x0005 .any → u = servedState s d → c = frontEntry s d →
    id = bf (pw c 0) 7 0 → polKnown id = true →
    exec (.getPolicy d) s = .next (answered s (finish c .ok 0 [] [wd (u.pol id),
      wd (if id = 1 then u.scr.active else if id = 5 then u.mc.vccint else 0), wd (u.polDefault id)] u))) ∧
  (∀ (d id : Nat) (c : RunCmd) (u s : State), served s d 0x0005 .any → u = servedState s d → c = frontEntry s d →
    id = bf (pw c 0) 7 0 → polKnown id = false →
    exec (.getPolicy d) s = .next (answered s (finish c .badParameter 0 [] [] u)))

/-- RESET_DOMAIN resets what the issuer owns; CLAIM_REGION takes an unowned region and RELEASE_REGION gives the issuer's
own back unless it is loading or locked; SET_FIREWALL sets one of the issuer's windows within what it owns;
SET_HOST_LOSS_POLICY sets the issuer's policy, 3 acting as 1. -/
def Obligations.TenancyCommands : Prop :=
  (∀ (d : Nat) (c : RunCmd) (u s : State), served s d 0x0006 .h → u = servedState s d → c = frontEntry s d →
    exec (.resetDomain d) s = .next (answered s (finish c .ok 0 []
      [wd ((regionsOf u (cmdOwner c)).filter fun r => u.windowed.contains r).length] (domainReset u c.d)))) ∧
  (∀ (d r : Nat) (c : RunCmd) (u s : State), served s d 0x0101 .h → u = servedState s d → c = frontEntry s d →
    r = pw c 0 % 256 →
    (r ≤ 135 → u.owner r = .unowned →
      exec (.claimRegion d) s = .next (answered s (finish c .ok 0 [] [] (setOwner u r (cmdOwner c))))) ∧
    (r ≤ 135 → u.owner r ≠ .unowned → u.owner r = cmdOwner c →
      exec (.claimRegion d) s = .next (answered s (finish c .ok 0 [] [] u))) ∧
    (r ≤ 135 → u.owner r ≠ .unowned → u.owner r ≠ cmdOwner c →
      exec (.claimRegion d) s = .next (answered s (finish c .notOwner 0 [] [] u))) ∧
    (135 < r → exec (.claimRegion d) s = .next (answered s (finish c .badParameter 0 [] [] u)))) ∧
  (∀ (d r : Nat) (c : RunCmd) (u s : State), served s d 0x0102 .owner → u = servedState s d → c = frontEntry s d →
    r = pw c 0 % 256 →
    (r ≤ 135 → u.owner r = cmdOwner c → (u.regionOf r).state ≠ .loading → isLocked u r = false →
      exec (.releaseRegion d) s = .next (answered s (finish c .ok 0 [] [] (setOwner u r .unowned)))) ∧
    (r ≤ 135 → u.owner r = cmdOwner c → (u.regionOf r).state = .loading ∨ isLocked u r = true →
      exec (.releaseRegion d) s = .next (answered s (finish c .busy 0 [] [] u))) ∧
    (r ≤ 135 → u.owner r ≠ cmdOwner c →
      exec (.releaseRegion d) s = .next (answered s (finish c .notOwner 0 [] [] u))) ∧
    (135 < r → exec (.releaseRegion d) s = .next (answered s (finish c .badParameter 0 [] [] u)))) ∧
  (∀ (d id base lim top g1 : Nat) (cs : List Clamp) (c : RunCmd) (u s : State), served s d 0x0103 .h → u = servedState s d →
    c = frontEntry s d → id = pw c 1 % 512 → base = pw c 2 % 2 ^ 27 → lim = pw c 3 % 2 ^ 27 → wb (nth c.p 0) 31 = true →
    isMgmt id = false → isTable id = false → (u.mapOf id).state ≠ .unassigned → top = min lim (lastPage id) →
    g1 = (if (pw c 4 % 64).testBit c.d then pw c 4 % 64 - 2 ^ c.d else pw c 4 % 64) →
    cs = (if top ≠ lim then [cmdClamp 3 0 lim top] else []) ++ (if g1 ≠ pw c 4 % 64 then [cmdClamp 4 0 (pw c 4 % 64) g1] else []) →
    exec (.setFirewall d) s = .next (answered s (
      if ownsRange u (cmdOwner c) id base top = false then finish c .notOwner 0 [] [] u
      else if top < base then finish c .badParameter 0 cs [] u
      else finish c .ok 0 cs [] { u with noc := { u.noc with
        fw := SMap.set dFw u.noc.fw (32 * c.d + pw c 0 % 32)
          { valid := true, read := wb (nth c.p 4) 8, write := wb (nth c.p 4) 9, grantees := g1, ep := id,
            base := base, limit := top } } }))) ∧
  (∀ (d id : Nat) (c : RunCmd) (u s : State), served s d 0x0103 .h → u = servedState s d → c = frontEntry s d →
    id = pw c 1 % 512 →
    (wb (nth c.p 0) 31 = false → exec (.setFirewall d) s = .next (answered s (finish c .ok 0 [] []
      { u with noc := { u.noc with fw := SMap.set dFw u.noc.fw (32 * c.d + pw c 0 % 32) {} } }))) ∧
    (wb (nth c.p 0) 31 = true → isMgmt id = true ∨ isTable id = true ∨ (u.mapOf id).state = .unassigned →
      exec (.setFirewall d) s = .next (answered s (finish c .badParameter 0 [] [] u)))) ∧
  (∀ (d q : Nat) (c : RunCmd) (u s : State), served s d 0x0104 .h → u = servedState s d → c = frontEntry s d →
    q = pw c 0 % 4 →
    exec (.setHostLossPolicy d) s = .next (answered s (finish c .ok 0 (if q = 3 then [cmdClamp 0 0 3 1] else []) []
      (noteCmd (u.setPci c.d { u.pciOf c.d with policy := if q = 3 then 1 else q }) 0x1052))))

/-- LOAD_IMAGE begins an initial load where none runs and no image is active, or with the shadow bit a load of the whole
device's shadow plane when nothing else is in progress, and is else refused or BUSY; from an address that the issuer
may not use, or a source that is none of its own, it fails. LOAD_PARTIAL begins a load into a region that may be
loaded, and is BUSY, NOT_OWNER or BAD_PARAMETER otherwise. READBACK_REGION of a region of the issuer, or of the lead
domain, with the rights to debug writes the frames asked for to the destination, stamped MC; without a leash it gives
NO_LEASH and on another's region NOT_OWNER. -/
def Obligations.LoadCommands : Prop :=
  (∀ (d src : Nat) (c : RunCmd) (l : Load) (u v s : State), served s d 0x0201 .any → u = servedState s d → c = frontEntry s d →
    src = bf (pw c 0) 1 0 → src ≠ 2 → (src = 3 → c.d = 4) → (src = 0 → srcCheck u c (pw c 3) = .ok) →
    l = { phase := .manifest, used := true, source := 4, full := true, cmd := some ⟨c.d, c.tag⟩, sup := src == 3, port := src == 3,
          nv := if src = 1 then some (if bf (pw c 0) 8 8 = 0 then .slot0 else .slot1) else none,
          limit := if src = 0 then some (pw c 3) else none } →
    ((u.loadOf mgmt).phase ≠ .idle → exec (.loadImage d) s = .next (answered s (finish c .busy 3 [] [] u))) ∧
    ((u.loadOf mgmt).phase = .idle → u.boot.imgActive = false →
      exec (.loadImage d) s = .next (answered s (waitCmd c [] (newLoad u mgmt l)))) ∧
    ((u.loadOf mgmt).phase = .idle → u.boot.imgActive = true → bf (pw c 0) 4 4 = 0 →
      exec (.loadImage d) s = .next (answered s (finish c .refused 3 [] [] u))) ∧
    ((u.loadOf mgmt).phase = .idle → u.boot.imgActive = true → bf (pw c 0) 4 4 = 1 →
      (deviceBusy u || (List.range 16).any (holdsVote u 3)) = true →
      exec (.loadImage d) s = .next (answered s (finish c .busy 3 [] [] u))) ∧
    ((u.loadOf mgmt).phase = .idle → u.boot.imgActive = true → bf (pw c 0) 4 4 = 1 →
      (deviceBusy u || (List.range 16).any (holdsVote u 3)) = false →
      v = (clearShadows u).setTarget 15 { (clearShadows u).targetOf 15 with state := .idle, consents := [] } →
      exec (.loadImage d) s = .next (answered s (waitCmd c [] (newLoad v mgmt { l with shadow := true, whole := true }))))) ∧
  (∀ (d : Nat) (c : RunCmd) (u s : State), served s d 0x0201 .any → u = servedState s d → c = frontEntry s d →
    bf (pw c 0) 1 0 = 0 → srcCheck u c (pw c 3) ≠ .ok →
    exec (.loadImage d) s = .next (answered s (finish c (srcCheck u c (pw c 3)) 0 [] [] u))) ∧
  (∀ (d : Nat) (c : RunCmd) (u s : State), served s d 0x0201 .any → u = servedState s d → c = frontEntry s d →
    bf (pw c 0) 1 0 = 2 ∨ (bf (pw c 0) 1 0 = 3 ∧ c.d ≠ 4) →
    exec (.loadImage d) s = .next (answered s (finish c .badParameter 0 [] [] u))) ∧
  (∀ (d src r : Nat) (c : RunCmd) (u s : State), served s d 0x0202 .any → u = servedState s d → c = frontEntry s d →
    partialOwner u c = true → src = bf (pw c 0) 10 9 → r = bf (pw c 0) 7 0 → (src = 0 → srcCheck u c (pw c 3) = .ok) →
    (135 < r ∨ src = 1 ∨ src = 3 → exec (.loadPartial d) s = .next (answered s (finish c .badParameter 0 [] [] u))) ∧
    (r ≤ 135 → src = 0 ∨ src = 2 → (u.loadOf mgmt).phase ≠ .idle ∨ mayLoad u r = false ∨ loadHeld u r = true →
      exec (.loadPartial d) s = .next (answered s (finish c .busy 3 [] [] u))) ∧
    (r ≤ 135 → src = 0 ∨ src = 2 → (u.loadOf mgmt).phase = .idle → mayLoad u r = true → loadHeld u r = false →
      exec (.loadPartial d) s = .next (answered s (waitCmd c [] (startRegion u mgmt r
        { source := 5, direct := bf (pw c 0) 8 8 == 1, cmd := some ⟨c.d, c.tag⟩,
          nv := if src = 2 then some (.library (bf (pw c 4) 7 0)) else none,
          limit := if src = 0 then some (pw c 3) else none }))))) ∧
  (∀ (d : Nat) (c : RunCmd) (u s : State), served s d 0x0202 .any → u = servedState s d → c = frontEntry s d →
    partialOwner u c = false →
    exec (.loadPartial d) s = .next (answered s (finish c .notOwner 0 [] [] u))) ∧
  (∀ (d r n : Nat) (fs : List Nat) (cs : List Clamp) (c : RunCmd) (u : State) (x : Status × State) (s : State),
    served s d 0x0206 .h → u = servedState s d → c = frontEntry s d → r = bf (pw c 0) 7 0 →
    (u.owner r = cmdOwner c ∨ u.lead = some c.d) →
    (freeDebug u = true ∨ (u.owner r = cmdOwner c ∧ grantWith u (fun g => g.scope == 3 && g.dom == c.d) = true) ∨
      (u.lead = some c.d ∧ grantWith u (fun g => g.scope == 2) = true)) →
    n = nearest 1 4096 (bf (pw c 4) 15 0) → cs = (if n = bf (pw c 4) 15 0 then [] else [cmdClamp 4 0 (bf (pw c 4) 15 0) n]) →
    nocArgOk u c (srcAddr c) (520 * n) = true → r ≤ 135 →
    fs = ((windowFrames (u.rects r)).drop (pw c 3)).take n →
    x = blockWrite { u with free := u.free + 516 * fs.length } 0x118 .mc (srcAddr c)
      (readFrames (bf (pw c 0) 8 8 == 0) fs u) .ok →
    (x.1 = .ok → exec (.readbackRegion d) s = .next (answered s (finish c .ok 3 cs
      [wd fs.length, wd (if (windowFrames (u.rects r)).length ≤ pw c 3 + n then 0xFFFFFFFF else pw c 3 + n)] x.2))) ∧
    (x.1 ≠ .ok → exec (.readbackRegion d) s = .next (answered s (finish c x.1 3 cs [wd 0, wd (pw c 3)] x.2)))) ∧
  (∀ (d : Nat) (c : RunCmd) (u s : State), served s d 0x0206 .h → u = servedState s d → c = frontEntry s d →
    u.owner (bf (pw c 0) 7 0) = cmdOwner c → freeDebug u = false → grantWith u (fun g => g.scope == 3 && g.dom == c.d) = false →
    grantWith u (fun g => g.scope == 2) = false →
    exec (.readbackRegion d) s = .next (answered s (finish c .noLeash 0 [] [] u))) ∧
  (∀ (d : Nat) (c : RunCmd) (u s : State), served s d 0x0206 .h → u = servedState s d → c = frontEntry s d →
    u.owner (bf (pw c 0) 7 0) ≠ cmdOwner c → u.lead ≠ some c.d →
    exec (.readbackRegion d) s = .next (answered s (finish c .notOwner 0 [] [] u)))

/-- The first row of STORE_IMAGE or STORE_PARTIAL starts it, or ends it with the status of its source; once it is the
oldest that runs, a row with its container checks it, writes it into the slot that is not active or into library units
that no source uses, and ends it, or ends it with the status that the first failing check gives; SELECT_IMAGE of a
slot that verifies rewrites the older copy of the selector, and of another ends with its status; WRAP_KEY takes a
wrapped key whose signature, serial number and counter are right, and one whose signature is wrong fails. -/
def Obligations.StoreCommands : Prop :=
  (∀ (d : Nat) (b : List Byte) (c : RunCmd) (u s : State), u = servedState s d → c = frontEntry s d →
    (served s d 0x0207 .any → exec (.storeImage d b) s = .next (answered s (
      if storeSource u c (bf (pw c 0) 1 0) = .ok then waitCmd c [] { u with nv := { u.nv with stores := u.nv.stores ++ [c] } }
      else finish c (storeSource u c (bf (pw c 0) 1 0)) 0 [] [] u))) ∧
    (served s d 0x0209 .any → exec (.storePartial d b) s = .next (answered s (
      if storeSource u c (bf (pw c 0) 10 9) = .ok then waitCmd c [] { u with nv := { u.nv with stores := u.nv.stores ++ [c] } }
      else finish c (storeSource u c (bf (pw c 0) 10 9)) 0 [] [] u)))) ∧
  (∀ (d : Nat) (b : List Byte) (st : Status) (rest : List RunCmd) (c : RunCmd) (u s : State),
    mayTake s d = false ∨ (frontEntry s d).op ≠ 0x0207 → s.nv.stores = c :: rest → c.d = d → c.op = 0x0207 →
    storeHeld s = false → mcServes s d = true → u = { s.start with nv := { s.nv with stores := rest } } →
    st = storeCheck u c (bf (pw c 0) 1 0) 1 b →
    (st ≠ .ok → exec (.storeImage d b) s = .next (interrupts s (endCmd ⟨d, c.tag⟩ st 2 [wd (storeSlot u c)] u))) ∧
    (st = .ok → 0x10000000 < (parseMan b).len + (parseMan b).streamLen →
      exec (.storeImage d b) s = .next (interrupts s (endCmd ⟨d, c.tag⟩ .rangeInvalid 2 [wd (storeSlot u c)] u))) ∧
    (st = .ok → (parseMan b).len + (parseMan b).streamLen ≤ 0x10000000 →
      exec (.storeImage d b) s = .next (interrupts s (endCmd ⟨d, c.tag⟩ (storeImageRun (storeSlot u c) (parseMan b) b u).1 2
        [wd (storeSlot u c)] (storeImageRun (storeSlot u c) (parseMan b) b u).2)))) ∧
  (∀ (d n first : Nat) (b : List Byte) (st : Status) (rest : List RunCmd) (c : RunCmd) (u t s : State),
    mayTake s d = false ∨ (frontEntry s d).op ≠ 0x0209 → s.nv.stores = c :: rest → c.d = d → c.op = 0x0209 →
    storeHeld s = false → mcServes s d = true → u = { s.start with nv := { s.nv with stores := rest } } →
    st = storeCheck u c (bf (pw c 0) 10 9) 2 b → first = bf (pw c 0) 7 0 →
    n = ((parseMan b).len + (parseMan b).streamLen + 0x1FFFFF) / 0x200000 →
    t = storeUnits first (b.take ((parseMan b).len + (parseMan b).streamLen)) (eraseSectors (256 + first) n u) →
    (st ≠ .ok → exec (.storePartial d b) s = .next (interrupts s (endCmd ⟨d, c.tag⟩ st 2 [0] u))) ∧
    (st = .ok → 256 < first + n →
      exec (.storePartial d b) s = .next (interrupts s (endCmd ⟨d, c.tag⟩ .rangeInvalid 2 [0] u))) ∧
    (st = .ok → first + n ≤ 256 → unitsInUse u first n = true →
      exec (.storePartial d b) s = .next (interrupts s (endCmd ⟨d, c.tag⟩ .busy 2 [0] u))) ∧
    (st = .ok → first + n ≤ 256 → unitsInUse u first n = false →
      (List.range n).all (fun i => mayWriteRange u (cmdOwner c) (256 + first + i)) = false →
      exec (.storePartial d b) s = .next (interrupts s (endCmd ⟨d, c.tag⟩ .protectedRange 2 [0] u))) ∧
    (st = .ok → first + n ≤ 256 → unitsInUse u first n = false →
      (List.range n).all (fun i => mayWriteRange u (cmdOwner c) (256 + first + i)) = true →
      exec (.storePartial d b) s = .next (interrupts s (endCmd ⟨d, c.tag⟩
        (if nvRead t (unitAddr first 0) (parseMan b).len == b.take (parseMan b).len then .ok else .authFail) 2 [wd n] t)))) ∧
  (∀ (d seq : Nat) (c : RunCmd) (u s : State), served s d 0x0208 .any → u = servedState s d → c = frontEntry s d →
    slotCheck u (bf (pw c 0) 0 0) = .ok → selWinner u.nv.selA u.nv.selB = some true → selValid u.nv.selA = true →
    selValid u.nv.selB = true → seq = selSeq u.nv.selB + 1 →
    exec (.selectImage d) s = .next (answered s (finish c .ok 0 [] [wd seq]
      { u with nv := { u.nv with selA := { bytes := selBytes (seq % 0x100000000) (bf (pw c 0) 0 0) } } }))) ∧
  (∀ (d : Nat) (st : Status) (c : RunCmd) (u s : State), served s d 0x0208 .any → u = servedState s d → c = frontEntry s d →
    slotCheck u (bf (pw c 0) 0 0) = st → st ≠ .ok →
    exec (.selectImage d) s = .next (answered s (finish c st 2 [] [] u))) ∧
  (∀ (d o n : Nat) (b : List Byte) (k : BitVec 256) (c : RunCmd) (u s : State), served s d 0x020A .h → u = servedState s d →
    c = frontEntry s d → bufOk (pw c 0) 156 = true → b = readBuf u c (pw c 0) 156 → leAt b 0 4 = 0xB10E4B57 →
    o = leAt b 4 1 → o ≤ 5 → n = leAt b 8 4 → leAt b 0x0C 8 = Config.serial.toNat →
    (∀ x, SMap.get dNone u.nv.pkeys o = some x → x.2 < n) →
    Crypto.ecdsaVerify (wrapSigner u) (Crypto.sha384 (b.take 0x3C)) ((b.drop 0x3C).take 96) = true →
    Crypto.aesKwUnwrap u.lcs.kek ((b.drop 0x14).take 40) = some k →
    exec (.wrapKey d) s = .next (answered s (finish c .ok 2 [] []
      { u with nv := { u.nv with pkeys := SMap.set dNone u.nv.pkeys o (some (k, n)) } }))) ∧
  (∀ (d : Nat) (c : RunCmd) (u s : State), served s d 0x020A .h → u = servedState s d →
    c = frontEntry s d → bufOk (pw c 0) 156 = true →
    Crypto.ecdsaVerify (wrapSigner u) (Crypto.sha384 ((readBuf u c (pw c 0) 156).take 0x3C))
      (((readBuf u c (pw c 0) 156).drop 0x3C).take 96) = false →
    exec (.wrapKey d) s = .next (answered s (finish c .authFail 2 [] [] u)))

/-- A tail or head write within the ring moves the index and one beyond it is an error; enabling a disabled queue starts
it anew; only the queue's owner does so; the next descriptor is fetched, checked and started, or stops the queue where
the fetch fails; a descriptor that is over is completed in the queue's completion ring, and held where the queue is
stopped or the write fails. -/
def Obligations.NvQueues : Prop :=
  (∀ (acc : Accessor) (q : Nat) (v : Word) (s : State), q = qSel acc s → qWritable acc q = true →
    idxFill (wf v 8 0) (s.qOf q).head ≤ 256 →
    exec (.qTailWrite acc v) s = .next (interrupts s (putQ s.start q { s.qOf q with tail := wf v 8 0, idxErr := false }))) ∧
  (∀ (acc : Accessor) (q : Nat) (v : Word) (s : State), q = qSel acc s → qWritable acc q = true →
    256 < idxFill (wf v 8 0) (s.qOf q).head →
    exec (.qTailWrite acc v) s = .next (interrupts s (putQ s.start q { s.qOf q with idxErr := true }))) ∧
  (∀ (acc : Accessor) (q : Nat) (v : Word) (s : State), q = qSel acc s → qWritable acc q = true →
    idxFill (s.qOf q).cqTail (wf v 8 0) ≤ idxFill (s.qOf q).cqTail (s.qOf q).cqHead →
    exec (.cqHeadWrite acc v) s = .next (interrupts s (putQ s.start q { s.qOf q with cqHead := wf v 8 0, idxErr := false }))) ∧
  (∀ (acc : Accessor) (q : Nat) (v : Word) (s : State), q = qSel acc s → qWritable acc q = true → wb v 31 = true →
    (s.qOf q).enable = false →
    exec (.queueEnable acc v) s = .next (interrupts s (putQ s.start q { s.qOf q with
      enable := true, tail := 0, head := 0, cqTail := 0, cqHead := 0, stop := false, idxErr := false, status := .ok,
      held := [] }))) ∧
  (∀ (acc : Accessor) (v : Word) (s : State), qWritable acc (qSel acc s) = false →
    exec (.qTailWrite acc v) s = .next (interrupts s s.start) ∧ exec (.cqHeadWrite acc v) s = .next (interrupts s s.start) ∧
    exec (.queueEnable acc v) s = .next (interrupts s s.start)) ∧
  (∀ (acc : Accessor) (q : Nat) (v : Word) (s : State), q = qSel acc s → qWritable acc q = true →
    idxFill (s.qOf q).cqTail (s.qOf q).cqHead < idxFill (s.qOf q).cqTail (wf v 8 0) →
    exec (.cqHeadWrite acc v) s = .next (interrupts s (putQ s.start q { s.qOf q with idxErr := true }))) ∧
  (∀ (acc : Accessor) (q : Nat) (v : Word) (s : State), q = qSel acc s → qWritable acc q = true →
    wb v 31 = false ∨ (s.qOf q).enable = true →
    exec (.queueEnable acc v) s = .next (interrupts s (putQ s.start q { s.qOf q with enable := wb v 31 }))) ∧
  (∀ (q : Nat) (f : DmaResult) (bytes : List Byte) (x : Desc) (m : Status × State) (u v s : State), qNext s.start = some q →
    m = (if q = 5 then (.ok, s.start)
         else blockAccess s.start 0x11B (qOwner q) false ((s.qOf q).base + 32 * ((s.qOf q).head % 256)) 32 f.status) →
    m.1 = .ok → bytes = (if q = 5 then Memory.readN 0 s.mc.ram (0x4C000 + 32 * ((s.qOf q).head % 256)) 32 else f.data) →
    bytes.length = 32 → x = parseDesc bytes → u = takeTurn m.2 q →
    v = putQ u q { s.qOf q with
      head := ((s.qOf q).head + 1) % 512, run := (s.qOf q).run ++ [startDesc s.start q x] } →
    exec (.descriptorStart q f) s = .next (interrupts s (
      if (x.flags.testBit 1 && !(s.qOf q).run.isEmpty) || nvcHolds s.start (s.qOf q).base x then u
      else { v with nv := { v.nv with seq := v.nv.seq + 1 } }))) ∧
  (∀ (q : Nat) (f : DmaResult) (m : Status × State) (s : State), qNext s.start = some q → q ≠ 5 →
    m = blockAccess s.start 0x11B (qOwner q) false ((s.qOf q).base + 32 * ((s.qOf q).head % 256)) 32 f.status → m.1 ≠ .ok →
    exec (.descriptorStart q f) s = .next (interrupts s (stopQ (takeTurn m.2 q) q m.1))) ∧
  (∀ (q tag : Nat) (wr : Status) (x : Desc) (bs : List Byte) (m : Status × State) (u s : State),
    (s.qOf q).run.find? (fun x => x.tag == tag && descOver x) = some x →
    (s.qOf q).stop = false → idxFill (s.qOf q).cqTail (s.qOf q).cqHead ≠ 256 → bs = descCpl s.start x (s.qOf q).cqTail →
    m = (if q = 5 then (.ok, hsPut s.start (0xE000 + 16 * ((s.qOf q).cqTail % 256)) bs)
         else blockWrite s.start 0x11B (qOwner q) (cqBase s.start q + 16 * ((s.qOf q).cqTail % 256)) bs wr) →
    u = putQ m.2 q { s.qOf q with run := (s.qOf q).run.erase x, cqTail := ((s.qOf q).cqTail + 1) % 512 } →
    (m.1 = .ok → exec (.partDone q tag wr) s = .next (interrupts s (
      if 1 ≤ q && q ≤ 4 then u.raiseFor [ocode (qOwner q)] 0x40074 0 1 else u))) ∧
    (m.1 ≠ .ok → exec (.partDone q tag wr) s = .next (interrupts s
      (stopQ (m.2.setQ q { s.qOf q with run := (s.qOf q).run.erase x, held := (s.qOf q).held ++ [bs] }) q m.1)))) ∧
  (∀ (q tag : Nat) (wr : Status) (x : Desc) (s : State), (s.qOf q).run.find? (fun x => x.tag == tag && descOver x) = some x →
    (s.qOf q).stop = true →
    exec (.partDone q tag wr) s = .next (interrupts s (s.start.setQ q { s.qOf q with
      run := (s.qOf q).run.erase x, held := (s.qOf q).held ++ [descCpl s.start x (s.qOf q).cqTail] })))

/-- On a bank that is free for the descriptor: a part of any operation but ERASE that meets a torn sector ends with
SECTOR_TORN, and PROGRAM, ERASE and COPY of a bank declared for execution in place with XIP_LOCKED; otherwise READ
moves the bytes to the buffer, PROGRAM and COPY program the destination, ERASE erases the sector, VERIFY looks at it,
BLANK_CHECK finds the first used byte and MARGIN_READ adds what differs. An urgent READ, VERIFY or MARGIN_READ that
meets an erase suspends it. XIP_DECLARE takes the first free declaration, and is BUSY without one; XIP_RELEASE removes
the one of the same owner and banks, and without one is BAD_PARAMETER. -/
def Obligations.NvDescriptors : Prop :=
  (∀ (q tag k a : Nat) (r : PartInput) (x : Desc) (s : State), partReady s.start 1 q tag k x r → x.op = 1 →
    a = (x.parts.getD k (0, 0)).1 → bankOp s.start (laBank a) = some x →
    (tornAt s.start a = false →
      exec (.read q tag k r) s = .next (interrupts s
        (partEnded q k x x (readPart q x r (partPieces x.addr x.len a) s.start).1
          (metSlice q x (laBank a) (readPart q x r (partPieces x.addr x.len a) s.start).2)))) ∧
    (tornAt s.start a = true →
      exec (.read q tag k r) s = .next (interrupts s (partEnded q k x x .sectorTorn (metSlice q x (laBank a) s.start))))) ∧
  (∀ (q tag k a : Nat) (r : PartInput) (x : Desc) (ps : List (Nat × Nat)) (m w : Status × State) (s : State),
    partReady s.start 2 q tag k x r → x.op = 2 → a = (x.parts.getD k (0, 0)).1 → bankOp s.start (laBank a) = some x →
    ps = partPieces x.addr x.len a → m = bufMeets q x ps r.status s.start →
    w = programPart (fun b n => bufRead s.start q (x.buf + (b - x.addr)) n r (usedBefore ps b)) r a ps m.2 →
    (tornAt s.start a = true → exec (.program q tag k r) s = .next (interrupts s (partEnded q k x x .sectorTorn s.start))) ∧
    (tornAt s.start a = false → xipHas s.start (qOwner q) (laBank a) = true →
      exec (.program q tag k r) s = .next (interrupts s (partEnded q k x x .xipLocked s.start))) ∧
    (tornAt s.start a = false → xipHas s.start (qOwner q) (laBank a) = false → m.1 ≠ .ok →
      exec (.program q tag k r) s = .next (interrupts s (partEnded q k x x m.1 m.2))) ∧
    (tornAt s.start a = false → xipHas s.start (qOwner q) (laBank a) = false → m.1 = .ok →
      exec (.program q tag k r) s = .next (interrupts s (partEnded q k x x w.1 w.2)))) ∧
  (∀ (q tag k a : Nat) (r : PartInput) (x : Desc) (s : State), partReady s.start 3 q tag k x r → x.op = 3 →
    a = (x.parts.getD k (0, 0)).1 → bankOp s.start (laBank a) = some x →
    (xipHas s.start (qOwner q) (laBank a) = false →
      exec (.erase q tag k r) s = .next (interrupts s
        (partEnded q k x x (erasePart r a s.start).1 (erasePart r a s.start).2))) ∧
    (xipHas s.start (qOwner q) (laBank a) = true →
      exec (.erase q tag k r) s = .next (interrupts s (partEnded q k x x .xipLocked s.start)))) ∧
  (∀ (q tag k a : Nat) (r : PartInput) (x : Desc) (s : State), partReady s.start 4 q tag k x r → x.op = 4 →
    a = (x.parts.getD k (0, 0)).1 → bankOp s.start (laBank a) = some x →
    exec (.verify q tag k r) s = .next (interrupts s (partEnded q k x x (if tornAt s.start a then .sectorTorn else .ok)
      (metSlice q x (laBank a) s.start)))) ∧
  (∀ (q tag k a : Nat) (r : PartInput) (x : Desc) (s : State), partReady s.start 5 q tag k x r → x.op = 5 →
    a = (x.parts.getD k (0, 0)).1 → bankOp s.start (laBank a) = some x →
    (tornAt s.start a = true → exec (.blankCheck q tag k r) s = .next (interrupts s (partEnded q k x x .sectorTorn s.start))) ∧
    (tornAt s.start a = false → firstUsed s.start (partPieces x.addr x.len a) = none →
      exec (.blankCheck q tag k r) s = .next (interrupts s (partEnded q k x x .ok s.start))) ∧
    (∀ b, tornAt s.start a = false → firstUsed s.start (partPieces x.addr x.len a) = some b →
      exec (.blankCheck q tag k r) s = .next (interrupts s
        (partEnded q k x { x with failAt := min x.failAt b } .eraseFail s.start)))) ∧
  (∀ (q tag k a : Nat) (r : PartInput) (x : Desc) (s : State), partReady s.start 6 q tag k x r → x.op = 6 →
    a = (x.parts.getD k (0, 0)).1 → bankOp s.start (laBank a) = some x →
    (tornAt s.start a = false → exec (.marginRead q tag k r) s = .next (interrupts s
      (partEnded q k x { x with result := x.result + wd r.differs } .ok (metSlice q x (laBank a) s.start)))) ∧
    (tornAt s.start a = true → exec (.marginRead q tag k r) s = .next (interrupts s
      (partEnded q k x x .sectorTorn (metSlice q x (laBank a) s.start))))) ∧
  (∀ (q tag k a : Nat) (r : PartInput) (x : Desc) (ps : List (Nat × Nat)) (w : Status × State) (s : State),
    partReady s.start 7 q tag k x r → x.op = 7 → a = (x.parts.getD k (0, 0)).1 → bankOp s.start (laBank a) = some x →
    ps = partPieces x.aux x.len a → w = programPart (copyData s.start x) r a ps s.start →
    (srcTorn s.start x ps = true ∨ tornAt s.start a = true →
      exec (.copy q tag k r) s = .next (interrupts s (partEnded q k x x .sectorTorn s.start))) ∧
    (srcTorn s.start x ps = false → tornAt s.start a = false → xipHas s.start (qOwner q) (laBank a) = true →
      exec (.copy q tag k r) s = .next (interrupts s (partEnded q k x x .xipLocked s.start))) ∧
    (srcTorn s.start x ps = false → tornAt s.start a = false → xipHas s.start (qOwner q) (laBank a) = false →
      exec (.copy q tag k r) s = .next (interrupts s (partEnded q k x x w.1 w.2)))) ∧
  (∀ (q tag k a : Nat) (r : PartInput) (x : Desc) (u s : State), a = (x.parts.getD k (0, 0)).1 →
    urgentPart s.start q x (laBank a) = true → u = suspend s.start (laBank a) →
    (partReady s.start 1 q tag k x r → exec (.read q tag k r) s = .next (interrupts s (
      if erasing s.start (laBank a) (laSector a) then partEnded q k x x .sectorTorn u
      else partEnded q k x (doPart q x a r u).2.1 (doPart q x a r u).1 (doPart q x a r u).2.2))) ∧
    (partReady s.start 4 q tag k x r → exec (.verify q tag k r) s = .next (interrupts s (
      if erasing s.start (laBank a) (laSector a) then partEnded q k x x .sectorTorn u
      else partEnded q k x (doPart q x a r u).2.1 (doPart q x a r u).1 (doPart q x a r u).2.2))) ∧
    (partReady s.start 6 q tag k x r → exec (.marginRead q tag k r) s = .next (interrupts s (
      if erasing s.start (laBank a) (laSector a) then partEnded q k x x .sectorTorn u
      else partEnded q k x (doPart q x a r u).2.1 (doPart q x a r u).1 (doPart q x a r u).2.2)))) ∧
  (∀ (q tag i : Nat) (x : Desc) (u s : State),
    (s.qOf q).run.find? (fun x => x.tag == tag && x.op == 8 && x.fin.isNone) = some x →
    (List.range 16).find? (fun i => (SMap.get dNone s.nv.xip i).isNone) = some i →
    u = { s.start with nv := { s.nv with xip := SMap.set dNone s.nv.xip i (some (qOwner q, bankMask x.addr x.len)) } } →
    exec (.xipDeclare q tag) s = .next (interrupts s (u.setQ q { u.qOf q with
      run := (u.qOf q).run.map fun z => if z == x then { x with fin := some .ok } else z }))) ∧
  (∀ (q tag : Nat) (x : Desc) (s : State),
    (s.qOf q).run.find? (fun x => x.tag == tag && x.op == 8 && x.fin.isNone) = some x →
    (List.range 16).find? (fun i => (SMap.get dNone s.nv.xip i).isNone) = none →
    exec (.xipDeclare q tag) s = .next (interrupts s (s.start.setQ q { s.qOf q with
      run := (s.qOf q).run.map fun z => if z == x then { x with fin := some .busy } else z }))) ∧
  (∀ (q tag i : Nat) (x : Desc) (u s : State),
    (s.qOf q).run.find? (fun x => x.tag == tag && x.op == 9 && x.fin.isNone) = some x →
    (List.range 16).find? (fun i => SMap.get dNone s.nv.xip i == some (qOwner q, bankMask x.addr x.len)) = some i →
    u = { s.start with nv := { s.nv with xip := SMap.set dNone s.nv.xip i none } } →
    exec (.xipRelease q tag) s = .next (interrupts s (u.setQ q { u.qOf q with
      run := (u.qOf q).run.map fun z => if z == x then { x with fin := some .ok } else z }))) ∧
  (∀ (q tag : Nat) (x : Desc) (s : State),
    (s.qOf q).run.find? (fun x => x.tag == tag && x.op == 9 && x.fin.isNone) = some x →
    (List.range 16).find? (fun i => SMap.get dNone s.nv.xip i == some (qOwner q, bankMask x.addr x.len)) = none →
    exec (.xipRelease q tag) s = .next (interrupts s (s.start.setQ q { s.qOf q with
      run := (s.qOf q).run.map fun z => if z == x then { x with fin := some .badParameter } else z })))

/-- A direct read that has arrived answers with its bytes where the reader may read them and their bank is free, and with
BUSY, SECTOR_TORN or a denial otherwise, an urgent one suspending an erase; the gap of a bank moves by a copy, whose
end rewrites the wear state and whose erase ends in the background; the scan for torn sectors runs once after DONE; a
refresh step reads a sector and has it rewritten by a copy where a word differs; an overdue sector is reported. Each
leaves the state alone where it is not due. -/
def Obligations.NvArray : Prop :=
  (∀ (p : Pkt) (u s : State), p.op = .rd → pktEp p = 0x11B → pktOff p < 0x7F000000 → takeFlight s.start p = some u →
    (isMuzzled u 0x11B = false → exec (.directRead p) s = .next (interrupts s
      (reply (nvDirect u p.dom p.urgent (pktOff p) p.len).2.2 p (nvDirect u p.dom p.urgent (pktOff p) p.len).1
        (nvDirect u p.dom p.urgent (pktOff p) p.len).2.1))) ∧
    (isMuzzled u 0x11B = true → exec (.directRead p) s = .next (interrupts s (absorb u p)))) ∧
  (∀ (s : State) (o : Owner) (g : Bool) (a len b sec : Nat), b = laBank a → sec = laSector a →
    (0x7F000000 < a + len ∨ 0x7F000000 ≤ a → nvDirect s o g a len = (.firewallDeny, nvPattern .firewallDeny a len, s)) ∧
    (a + len ≤ 0x7F000000 → a < 0x7F000000 →
      (mayRead s o sec = false → nvDirect s o g a len = (.protectedRange, nvPattern .protectedRange a len, s)) ∧
      (mayRead s o sec = true → outOfService s 0x84 sec = true → nvDirect s o g a len = (.busy, nvPattern .busy a len, s)) ∧
      (mayRead s o sec = true → outOfService s 0x84 sec = false → bankBusy s b = true → suspends s o g b = false →
        nvDirect s o g a len = (.busy, nvPattern .busy a len, s)) ∧
      (mayRead s o sec = true → outOfService s 0x84 sec = false → bankBusy s b = true → suspends s o g b = true →
        tornAt s a = true ∨ erasing s b sec = true →
        nvDirect s o g a len = (.sectorTorn, nvPattern .sectorTorn a len, suspend s b)) ∧
      (mayRead s o sec = true → outOfService s 0x84 sec = false → bankBusy s b = true → suspends s o g b = true →
        tornAt s a = false → erasing s b sec = false → nvDirect s o g a len = (.ok, nvRead s a len, suspend s b)) ∧
      (mayRead s o sec = true → outOfService s 0x84 sec = false → bankBusy s b = false → tornAt s a = true →
        nvDirect s o g a len = (.sectorTorn, nvPattern .sectorTorn a len, s)) ∧
      (mayRead s o sec = true → outOfService s 0x84 sec = false → bankBusy s b = false → tornAt s a = false →
        nvDirect s o g a len = (.ok, nvRead s a len, if g && urgentRights s o then meetSlice s 7 b else s)))) ∧
  (∀ (b : Nat) (s : State), b ≤ 63 → (s.bankOf b).due = true → nvcDevHeld s = false → (s.bankOf b).busy = .idle →
    (s.bankOf b).started.contains (slotPhys (s.bankOf b) (s.bankOf b).g) = false →
    exec (.gapMove b) s = .next (interrupts s (s.start.setBank b { s.bankOf b with
      busy := .copy, due := false, copyRef := false,
      copySlot := if (s.bankOf b).g = 0 then 1016 else (s.bankOf b).g - 1 }))) ∧
  (∀ (b : Nat) (s : State), (s.bankOf b).due = false ∨ nvcDevHeld s = true ∨ (s.bankOf b).busy ≠ .idle ∨
    (s.bankOf b).started.contains (slotPhys (s.bankOf b) (s.bankOf b).g) = true →
    exec (.gapMove b) s = .next (interrupts s s.start)) ∧
  (∀ (b src dst : Nat) (g : Bank) (s : State), b ≤ 63 → g = s.bankOf b → g.busy = .copy →
    src = slotPhys g g.copySlot → dst = slotPhys g g.g →
    exec (.gapCopyDone b) s = .next (interrupts s ((copySector s.start b src dst).setBank b (
      if g.copyRef then { g with
        busy := .gapErase, gapSec := src,
        ring := SMap.set (fun r => r) (SMap.set (fun r => r) g.ring g.copySlot dst) g.g src }
      else if g.g = 0 then { g with busy := .gapErase, gapSec := src, g := 1016, s := (g.s + 1) % 1016 }
      else { g with busy := .gapErase, gapSec := src, g := g.g - 1 })))) ∧
  (∀ (b : Nat) (s : State), (s.bankOf b).busy ≠ .copy → exec (.gapCopyDone b) s = .next (interrupts s s.start)) ∧
  (∀ (b : Nat) (s : State), b ≤ 63 → (s.bankOf b).busy = .gapErase →
    exec (.gapEraseDone b) s = .next (interrupts s (nvErasePhys (s.start.setBank b { s.bankOf b with
      busy := .idle, erases := min 0xFFFFFFFF ((s.bankOf b).erases + 1),
      cnt := SMap.set dNat (s.bankOf b).cnt (s.bankOf b).gapSec (SMap.get dNat (s.bankOf b).cnt (s.bankOf b).gapSec + 1),
      started := (s.bankOf b).started.erase (s.bankOf b).gapSec }) b (s.bankOf b).gapSec))) ∧
  (∀ (b : Nat) (s : State), (s.bankOf b).busy ≠ .gapErase → exec (.gapEraseDone b) s = .next (interrupts s s.start)) ∧
  (∀ (found : List (Nat × Nat × Nat)) (u s : State), s.boot.done = true → s.nv.scanDone = false →
    found = (List.range 64).flatMap (fun b => (tornIn s.start b).map fun x => (b, x)) →
    u = { s.start with nv := { s.nv with
      scanDone := true, torn := found.map fun e => (e.1, e.2.1), tornN := found.length } } →
    exec .tornScanDone s = .next (interrupts s (found.foldl (fun u e => tornOne e.1 u e.2) u))) ∧
  (∀ (s : State), s.boot.done = false ∨ s.nv.scanDone = true → exec .tornScanDone s = .next (interrupts s s.start)) ∧
  (∀ (b p slot : Nat) (differs loop rew : Bool) (g : Bank) (u v s : State), b ≤ 63 → p ≤ 1023 → g = s.bankOf b →
    loop = (decide (s.pol 7 = 1) && mcRuns s && refreshAt s b == some p) →
    loop = true ∨ s.nv.scans.any (fun x => x.left.contains (b, p)) = true → bankState s b = 0 →
    holdsData s b p = true → g.started.contains p = false → slotOf g p = some slot →
    rew = (differs && !nvcDevHeld s && slot != g.g && !g.started.contains (slotPhys g g.g)) →
    u = (if rew then
      State.policy { s.start.setBank b { g with busy := .copy, copyRef := true, copySlot := slot } with
        nv := { (s.start.setBank b { g with busy := .copy, copyRef := true, copySlot := slot }).nv with
          rewrit := s.nv.rewrit + 1 } } .ok 3 b p
      else s.start) →
    v = s.nv.scans.foldl (scanRead b p rew)
      { u with nv := { u.nv with readAt := SMap.set dNat u.nv.readAt (b * 1024 + p) s.pwr.rtc } } →
    exec (.nvRefreshStep b p differs) s = .next (interrupts s (if loop then refreshNext b p v else v))) ∧
  (∀ (b p : Nat) (differs : Bool) (s : State), bankState s b ≠ 0 ∨ holdsData s b p = false →
    exec (.nvRefreshStep b p differs) s = .next (interrupts s s.start)) ∧
  (∀ (b p : Nat) (s : State), s.pol 7 = 1 → b < 64 → p < 1024 → holdsData s b p = true →
    SMap.get dNat s.nv.readAt (b * 1024 + p) + 2831155200 * (s.pol 0x0C + 1) ≤ s.pwr.rtc →
    exec (.nvRefreshOverdue b p) s = .next (interrupts s
      ((({ s.start with mc := { s.mc with refOver := true } }).policy .timeout 3 b p).post allDomains 0 .timeout 3 b p))) ∧
  (∀ (b p : Nat) (s : State), s.pol 7 ≠ 1 ∨ holdsData s b p = false ∨
    s.pwr.rtc < SMap.get dNat s.nv.readAt (b * 1024 + p) + 2831155200 * (s.pol 0x0C + 1) →
    exec (.nvRefreshOverdue b p) s = .next (interrupts s s.start))

/-- NV_PROTECT sets a range's span and protection for its owner unless it is permanent; NV_UNLOCK opens a session with the
right password, counts a wrong one and is locked out; NV_SET_PASSWORD replaces the password where the old one is
given; NV_REFRESH_SCAN with nothing to read ends at once, and of all sectors is the lead domain's; NV_GRANT_URGENT
sets a queue's right. -/
def Obligations.NvRangeCommands : Prop :=
  (∀ (d r first last : Nat) (g : NvRange) (c : RunCmd) (u s : State), served s d 0x0301 .any → u = servedState s d →
    c = frontEntry s d → r = bf (pw c 0) 4 0 → g = u.rangeOf r → rangeOwner u r = cmdOwner c → g.perm = false →
    (pw c 0).testBit 11 = false → first = bf (pw c 1) 9 0 → last = bf (pw c 2) 9 0 → 256 ≤ first → last ≤ 1015 →
    first ≤ last →
    u.nv.ranges.any (fun e => e.1 != r && e.2.first ≤ e.2.last && e.2.first ≤ last && first ≤ e.2.last) = false →
    exec (.nvProtect d) s = .next (answered s (finish c .ok 2 [] [] (u.setRange r { g with
      first := first, last := last, wp := (pw c 0).testBit 8, rp := (pw c 0).testBit 9, perm := (pw c 0).testBit 10,
      sess := [] })))) ∧
  (∀ (d : Nat) (c : RunCmd) (u s : State), served s d 0x0301 .any → u = servedState s d →
    c = frontEntry s d → rangeOwner u (bf (pw c 0) 4 0) ≠ cmdOwner c →
    exec (.nvProtect d) s = .next (answered s (finish c .notOwner 0 [] [] u))) ∧
  (∀ (d : Nat) (c : RunCmd) (u s : State), served s d 0x0301 .any → u = servedState s d →
    c = frontEntry s d → rangeOwner u (bf (pw c 0) 4 0) = cmdOwner c → (u.rangeOf (bf (pw c 0) 4 0)).perm = true →
    exec (.nvProtect d) s = .next (answered s (finish c .protectedRange 2 [] [] u))) ∧
  (∀ (d r : Nat) (g : NvRange) (h : BitVec 384) (c : RunCmd) (u s : State), served s d 0x0302 .any → u = servedState s d →
    c = frontEntry s d → r = bf (pw c 0) 4 0 → g = u.rangeOf r → g.lock = false → g.pw = some h →
    (Crypto.sha384 (password c 1) = h →
      exec (.nvUnlock d) s = .next (answered s (finish c .ok 2 [] [] (u.setRange r { g with
        fails := 0, sess := (sessions u r).filter (· != cmdOwner c) ++ [cmdOwner c], so := rangeOwner u r })))) ∧
    (Crypto.sha384 (password c 1) ≠ h →
      exec (.nvUnlock d) s = .next (answered s (finish c .protectedRange 2 [] [] (pwFail r u))))) ∧
  (∀ (d : Nat) (c : RunCmd) (u s : State), served s d 0x0302 .any → u = servedState s d →
    c = frontEntry s d → (u.rangeOf (bf (pw c 0) 4 0)).lock = true →
    exec (.nvUnlock d) s = .next (answered s (finish c .passwordLockout 2 [] [] u))) ∧
  (∀ (d r : Nat) (g : NvRange) (h : BitVec 384) (c : RunCmd) (u s : State), served s d 0x0303 .any → u = servedState s d →
    c = frontEntry s d → r = bf (pw c 0) 4 0 → g = u.rangeOf r → rangeOwner u r = cmdOwner c → g.lock = false → g.pw = some h →
    Crypto.sha384 (password c 1) = h →
    exec (.nvSetPassword d) s = .next (answered s (finish c .ok 2 [] [] (u.setRange r { g with
      pw := some (Crypto.sha384 (password c 5)), fails := 0 })))) ∧
  (∀ (d : Nat) (c : RunCmd) (u s : State), served s d 0x0304 .any → u = servedState s d → c = frontEntry s d →
    (pw c 0).testBit 0 = false → scanList u false (cmdOwner c) = [] →
    exec (.nvRefreshScan d) s = .next (answered s (finish c .ok 2 [] [0, 0] u))) ∧
  (∀ (d : Nat) (c : RunCmd) (u s : State), served s d 0x0304 .any → u = servedState s d → c = frontEntry s d →
    (pw c 0).testBit 0 = true → u.lead ≠ some c.d →
    exec (.nvRefreshScan d) s = .next (answered s (finish c .notOwner 0 [] [] u))) ∧
  (∀ (d q : Nat) (c : RunCmd) (u s : State), served s d 0x0305 .lead → u = servedState s d → c = frontEntry s d →
    q = bf (pw c 0) 2 0 → q ≠ 0 → (pw c 0).testBit 8 = true →
    exec (.nvGrantUrgent d) s = .next (answered s (finish c .ok 2 [] []
      { u with nv := { u.nv with urgent := u.nv.urgent ||| 2 ^ q } })))

/-- Each 10 ms, and not sooner, the voltage loop commands VCCINT 10 mV up where the least margin is below 40 ps, 5 mV down
after ten periods above 80 ps, within 700 to 850 mV, or to 750 mV where policy 5 is 0; the margin report is made while
850 mV does not suffice, once an hour; the idle-band loop asks NAP of a band that has been idle long enough and may
enter it. PWR_REQUEST_STATE begins the handshake of a band or of the device, or wakes a band, or fails as its rules
say; PWR_SET_SENTRY sets the power record with its clamps or refuses it; PWR_GET_ACCOUNTING writes the accounting
record (its layout is open, log entry 24). -/
def Obligations.PowerControl : Prop :=
  (∀ (ms : List Int) (r : Nat) (w s : State), mcRuns s = true → s.boot.done = true → s.mc.avsStop = false →
    s.mc.avsAt + 10000000 ≤ s.uptime → vccintRail s = some r →
    w = { s.start with mc := { s.start.mc with avsAt := s.uptime } } →
    (∀ m, s.pol 5 ≠ 0 → leastMargin ms = some m →
      (m < 40 → s.mc.vccint < 850 →
        exec (.avsPeriod ms) s = .next (interrupts s (avsCommand { w with mc := { w.mc with margin := m, avsHigh := 0 } } r
          (min 850 (s.mc.vccint + 10))))) ∧
      (40 ≤ m → m ≤ 80 →
        exec (.avsPeriod ms) s = .next (interrupts s { w with mc := { w.mc with margin := m, avsHigh := 0 } })) ∧
      (80 < m → s.mc.avsHigh < 9 →
        exec (.avsPeriod ms) s = .next (interrupts s { w with mc := { w.mc with
          margin := m, avsHigh := s.mc.avsHigh + 1 } })) ∧
      (80 < m → 9 ≤ s.mc.avsHigh → 700 < s.mc.vccint →
        exec (.avsPeriod ms) s = .next (interrupts s (avsCommand { w with mc := { w.mc with margin := m, avsHigh := 0 } } r
          (max 700 (s.mc.vccint - 5)))))) ∧
    (s.pol 5 = 0 → s.mc.vccint ≠ 750 → (s.railOf r).cmdAt = none →
      exec (.avsPeriod ms) s = .next (interrupts s (avsCommand { w with mc := { w.mc with avsHigh := 0 } } r 750))) ∧
    (s.pol 5 = 0 → s.mc.vccint = 750 → exec (.avsPeriod ms) s = .next (interrupts s w))) ∧
  (∀ (ms : List Int) (s : State), s.uptime < s.mc.avsAt + 10000000 →
    exec (.avsPeriod ms) s = .next (interrupts s s.start)) ∧
  (∀ (r : Nat) (s : State), vccintRail s = some r →
    (mcRuns s = true → s.mc.margin < 40 → s.mc.vccint = 850 →
      (s.mc.marginAt = none ∨ ∃ t, s.mc.marginAt = some t ∧ t + 3600000000000 ≤ s.uptime) →
      exec .marginReport s = .next (interrupts s
        (({ s.start with mc := { s.start.mc with marginAt := some s.uptime } }.policy .testFail 1 r 850).post
          allDomains 0 .testFail 1 r 850))) ∧
    (∀ t, s.mc.margin < 40 → s.mc.vccint = 850 → s.mc.marginAt = some t → s.uptime < t + 3600000000000 →
      exec .marginReport s = .next (interrupts s s.start)) ∧
    (40 ≤ s.mc.margin ∨ s.mc.vccint ≠ 850 →
      exec .marginReport s = .next (interrupts s { s.start with mc := { s.start.mc with marginAt := none } }))) ∧
  (∀ (s : State),
    (mcRuns s = true → s.boot.done = true → s.pol 6 = 1 → s.mc.idleAt + 1000000 ≤ s.uptime →
      exec .idleBandCheck s = .next (interrupts s
        ((List.range 16).foldl idleOne { s.start with mc := { s.start.mc with idleAt := s.uptime } }))) ∧
    (s.uptime < s.mc.idleAt + 1000000 ∨ s.pol 6 ≠ 1 → exec .idleBandCheck s = .next (interrupts s s.start))) ∧
  (∀ (b : Nat) (s : State),
    (SMap.get dNat s.noc.busyAt b + 1000000 * s.pol 0x0B ≤ s.uptime →
      (SMap.get (fun _ => (0, 0)) s.mc.idleTry b).2 ≤ s.uptime → (s.pol 0x0A).testBit b = true → (s.bandOf b).state = .on →
      inTransition (s.bandOf b) = false → s.pwr.dev = none →
      idleOne s b = (beginEntry s b 2 none).policy .ok 5 b 2) ∧
    (s.uptime < SMap.get dNat s.noc.busyAt b + 1000000 * s.pol 0x0B ∨ (s.pol 0x0A).testBit b = false ∨
      s.uptime < (SMap.get (fun _ => (0, 0)) s.mc.idleTry b).2 → idleOne s b = s)) ∧
  (∀ (d b t : Nat) (c : RunCmd) (u s : State), served s d 0x0601 .owner → u = servedState s d → c = frontEntry s d →
    b = bf (pw c 0) 3 0 → t = bf (pw c 0) 7 4 →
    (mayCommand u c b = false → exec (.pwrRequestState d) s = .next (answered s (finish c .notOwner 0 [] [] u))) ∧
    (mayCommand u c b = true → b ≠ 15 → t ≤ 3 → inTransition (u.bandOf b) = true ∨ u.pwr.dev ≠ none →
      exec (.pwrRequestState d) s = .next (answered s (finish c .busy 0x17 [] [] u))) ∧
    (mayCommand u c b = true → b ≠ 15 → 1 ≤ t → t ≤ 3 → inTransition (u.bandOf b) = false → u.pwr.dev = none →
      (u.bandOf b).state = .on →
      exec (.pwrRequestState d) s = .next (answered s (beginEntry (waitCmd c [] u) b t (some ⟨c.d, c.tag⟩)))) ∧
    (mayCommand u c b = true → b ≠ 15 → 1 ≤ t → t ≤ 3 → inTransition (u.bandOf b) = false → u.pwr.dev = none →
      (u.bandOf b).state ≠ .on →
      exec (.pwrRequestState d) s = .next (answered s (finish c .notReady 0x17 [] [] u))) ∧
    (mayCommand u c b = true → b ≠ 15 → t = 0 → inTransition (u.bandOf b) = false → u.pwr.dev = none →
      (u.bandOf b).state ≠ .on →
      exec (.pwrRequestState d) s = .next (answered s (requestOn c b u))) ∧
    (mayCommand u c b = true → b = 15 → 1 ≤ t → t ≤ 2 → u.pwr.dev = none →
      u.pwr.bands.any (fun e => inTransition e.2) = false → u.pwr.recSet = true →
      exec (.pwrRequestState d) s = .next (answered s
        (beginEntry (waitCmd c [] u) devEntry (7 + t) (some ⟨c.d, c.tag⟩))))) ∧
  (∀ (d : Nat) (x : List Byte × List Clamp) (c : RunCmd) (u s : State), served s d 0x0602 .lead → u = servedState s d →
    c = frontEntry s d → bufOk (pw c 0) (pw c 1) = true → pw c 1 = 152 → x = recClamped (readBuf u c (pw c 0) 152) →
    (recBad x.1 = false →
      exec (.pwrSetSentry d) s = .next (answered s (finish c .ok 0x17 x.2 [] (applyRecord x.1 u)))) ∧
    (recBad x.1 = true →
      exec (.pwrSetSentry d) s = .next (answered s (finish c .badParameter 0 x.2 [] u)))) ∧
  (∀ (d : Nat) (r : List Byte) (c : RunCmd) (u s : State), served s d 0x0603 .any → u = servedState s d →
    c = frontEntry s d →
    r = Config.accounting u.pwr.refTotal ((List.range 6).map (SMap.get dNat u.pwr.refCnt)) u.pwr.lastRef.toNat u.pwr.delays →
    bufOk (pw c 0) r.length = true →
    exec (.pwrGetAccounting d) s = .next (answered s
      (finish c .ok 0 [] [wd u.pwr.refTotal, u.pwr.lastRef &&& 0x1FFF0000] (writeBuf u c (pw c 0) r))))

/-- A voter's refusal ends an entry, its delay and its acceptance are noted, and the last acceptance carries the entry
out; a voter still undecided 1 ms after the request refuses; USER votes by its ports, sampled 2 µs after the request
and each 1 µs while they wait. A packet parked for a band, or a pulse held for it, starts its exit, and good power
restores its kennel image or starts the reload after OFF; the band opens when every frame has been read back from its
source, and is held where one cannot be. A device entry completes at an RTC tick; an enabled wake source, or as many
mismatching Sentry samples as the record asks, one each interval, start the wake; 100 ms after its rails were switched
on a wake that failed switches them off, and 1 s later it tries again. -/
def Obligations.BandPower : Prop :=
  (∀ (b v r : Nat) (e : Entry) (s : State), entryOf s.start b = some e → e.undec.contains v = true →
    voteHolds s.start b e v (.refuse r) = true →
    exec (.voteAnswer b v (.refuse r)) s = .next (interrupts s (refuse s.start b v r))) ∧
  (∀ (b v : Nat) (e : Entry) (s : State), entryOf s.start b = some e → e.undec.contains v = true →
    voteHolds s.start b e v .delay = true →
    exec (.voteAnswer b v .delay) s = .next (interrupts s (setEntry s.start b (some { e with delayed := true })))) ∧
  (∀ (b v : Nat) (e f : Entry) (s : State), entryOf s.start b = some e → e.undec.contains v = true →
    voteHolds s.start b e v .accept = true → f = { e with undec := e.undec.erase v } →
    (f.undec ≠ [] →
      exec (.voteAnswer b v .accept) s = .next (interrupts s (setEntry s.start b (some f)))) ∧
    (f.undec = [] → b ≠ devEntry →
      exec (.voteAnswer b v .accept) s = .next (interrupts s (carryBand (setEntry s.start b (some f)) b f))) ∧
    (f.undec = [] → b = devEntry →
      exec (.voteAnswer b v .accept) s = .next (interrupts s ((List.range 64).foldl stopRing
        (setEntry (setEntry s.start b (some f)) b (some { f with past := true })))))) ∧
  (∀ (b : Nat) (e : Entry) (w : Nat × Nat) (s : State), entryOf s.start b = some e → lateVoter e.undec = some w →
    (e.t + 1000000 ≤ s.uptime → exec (.voteTimeout b) s = .next (interrupts s (refuse s.start b w.1 w.2))) ∧
    (s.uptime < e.t + 1000000 → exec (.voteTimeout b) s = .next (interrupts s s.start))) ∧
  (∀ (b k due : Nat) (e : Entry) (s : State), k = portEntry s.start b → entryOf s.start k = some e →
    portOpen e b = true → due = (e.sampled.find? fun x => x.1 == b).elim (e.t + 2000) (fun x => x.2 + 1000) →
    (due ≤ s.uptime →
      (∀ wait, exec (.userSample b true wait) s = .next (interrupts s (refuse s.start k 0x12 0x0B))) ∧
      exec (.userSample b false true) s = .next (interrupts s (setEntry s.start k (some { e with
        delayed := true, sampled := (b, s.uptime) :: e.sampled.filter fun x => x.1 != b })))) ∧
    (s.uptime < due → ∀ stay wait, exec (.userSample b stay wait) s = .next (interrupts s s.start))) ∧
  (∀ (b k : Nat) (e f : Entry) (s : State), k = portEntry s.start b → entryOf s.start k = some e → portOpen e b = true →
    (e.sampled.find? fun x => x.1 == b).elim (e.t + 2000) (fun x => x.2 + 1000) ≤ s.uptime →
    f = { e with ports := e.ports.erase b } →
    (f.ports ≠ [] → exec (.userSample b false false) s = .next (interrupts s (setEntry s.start k (some f)))) ∧
    (f.ports = [] →
      exec (.userSample b false false) s = .next (interrupts s (answer (setEntry s.start k (some f)) k 0x12 .accept)))) ∧
  (∀ (b k : Nat) (e : Entry) (s : State), k = portEntry s.start b → entryOf s.start k = some e → portOpen e b = false →
    portAwake s.start b = true →
    exec (.stayAwakeRise b) s = .next (interrupts s (refuse s.start k 0x12 0x0B))) ∧
  (∀ (b : Nat) (g : BandP) (s : State), b < 16 → parkedWake s.start b = true ∨ pulseHeld s.start b = true → g = s.bandOf b →
    (g.state = .doze →
      exec (.bandWake b) s = .next (interrupts s (bandOn (s.start.setBand b { g with woken := s.uptime }) b))) ∧
    (g.state = .nap ∨ g.state = .off → g.waking = false → g.held = false →
      exec (.bandWake b) s = .next (interrupts s (s.start.setBand b { g with waking := true, woken := s.uptime })))) ∧
  (∀ (b : Nat) (g : BandP) (s : State), g = s.bandOf b → g.waking = true → g.good = false →
    (g.state = .nap → exec (.bandPowerGood b) s = .next (interrupts s (bandOn (restoreBand s.start b) b))) ∧
    (g.state = .off → exec (.bandPowerGood b) s = .next (interrupts s (s.start.setBand b { g with good := true })))) ∧
  (∀ (b i : Nat) (r : Status) (g : BandP) (u : Status × State) (s : State), g = s.bandOf b → g.good = true → g.state = .off →
    u = offReload s.start b r i →
    (u.1 = .ok →
      exec (.offReloadDone b r i) s = .next (interrupts s (bandOn (emptyAfterOff (ramFabric (initBand ((State.refresh
        { u.2 with cfg := { u.2.cfg with held := u.2.cfg.held.filter fun e => keyBand e.1 != b } }).setBand b
        { g with status := .ok }) b) (fun k _ => k == b)) b) b))) ∧
    (u.1 ≠ .ok →
      exec (.offReloadDone b r i) s = .next (interrupts s (holdBand (loseFrames u.2 b) b u.1)))) ∧
  (∀ (u s : State), u = rtcCount s.start →
    (s.pwr.dev = none → exec .rtcTick s = .next (interrupts s u)) ∧
    (∀ e : Entry, s.pwr.dev = some e → e.past = false → exec .rtcTick s = .next (interrupts s u)) ∧
    (∀ e : Entry, s.pwr.dev = some e → e.past = true → (List.range 16).any (packetsFor u) = false →
      exec .rtcTick s = .next (interrupts s (sleepNow e u)))) ∧
  (∀ (n : Nat) (w : Bool) (s : State), n ≤ 7 → (wakeCfg s).testBit n = true → (w && !(wakeCfg s).testBit (16 + n)) = false →
    exec (.wakeEvent 1 n w) s = .next (interrupts s (wakeBy 1 n 0xF (pinEvent s.start n)))) ∧
  (∀ (n : Nat) (w : Bool) (s : State), (wakeCfg s).testBit 28 = true → recWord s.pwr.record 0x94 ≤ rtcSec s →
    exec (.wakeEvent 2 n w) s = .next (interrupts s (wakeBy 2 0 0xF s.start))) ∧
  (∀ (n : Nat) (s : State), n ≤ 3 → (wakeCfg s).testBit (24 + n) = true →
    exec (.wakeEvent 3 n false) s = .next (interrupts s (wakeBy 3 n 0xF (perstEvent s.start n)))) ∧
  (∀ (cause n mon : Nat) (u : State), u.pwr.latched = none → asleep u = true →
    wakeBy cause n mon u = startWake { u with pwr := { u.pwr with
      latched := some (cause, n), wakeC := wakeWord cause n mon } }) ∧
  (∀ (x : BitVec 128) (cs : List (Nat × Nat)) (s : State), s.pwr.armed = true → s.boot.phase = .sentry →
    s.pwr.latched = none → s.pwr.sampleAt + recWord s.pwr.record 0x48 ≤ s.pwr.rtc → sentryMon s.pwr.record cs = none →
    (((x ^^^ BitVec.ofNat 128 (leAt s.pwr.record 0x50 16)) &&& sentryCare s.pwr.record) = 0 →
      exec (.sentrySample x cs) s = .next (interrupts s { s.start with pwr := { s.start.pwr with
        mism := 0, samples := sat 0xFFFF s.pwr.samples, sampleAt := s.pwr.rtc } })) ∧
    (((x ^^^ BitVec.ofNat 128 (leAt s.pwr.record 0x50 16)) &&& sentryCare s.pwr.record) ≠ 0 →
      bf (recWord s.pwr.record 0x4C) 23 16 ≤ s.pwr.mism + 1 →
      exec (.sentrySample x cs) s = .next (interrupts s (wakeBy 4 0 0xF { s.start with pwr := { s.start.pwr with
        mism := s.pwr.mism + 1, samples := sat 0xFFFF s.pwr.samples, sampleAt := s.pwr.rtc, waking := x } })))) ∧
  (∀ (x : BitVec 128) (cs : List (Nat × Nat)) (s : State), s.pwr.rtc < s.pwr.sampleAt + recWord s.pwr.record 0x48 →
    exec (.sentrySample x cs) s = .next (interrupts s s.start)) ∧
  (∀ (rail : Nat) (s : State), asleep s = true → s.pwr.latched.isSome = true →
    (∀ t, s.pwr.opAt = some t → t + 100000000 ≤ s.uptime →
      exec (.wakeRetry rail) s = .next (interrupts s (railsOff { s.start with pwr := { s.start.pwr with
        wakeTry := s.pwr.wakeTry ++ [rail % 8], opAt := none, offAt := s.uptime } } fun _ => true))) ∧
    (s.pwr.opAt = none → s.pwr.offAt + 1000000000 ≤ s.uptime →
      exec (.wakeRetry rail) s = .next (interrupts s
        (railsOn { s.start with pwr := { s.start.pwr with opAt := some s.uptime } }))) ∧
    ((∃ t, s.pwr.opAt = some t ∧ s.uptime < t + 100000000) ∨ (s.pwr.opAt = none ∧ s.uptime < s.pwr.offAt + 1000000000) →
      exec (.wakeRetry rail) s = .next (interrupts s s.start)))

/-- An RTC without an XCLK edge for 64 µs falls back; a read of RTC_LO latches RTC_HI for that accessor. Each 100 ms a
poll notes current and temperature of a mapped rail, and a value with a wrong PEC is counted and not taken; a
VOUT_COMMAND is confirmed by a read within 1 %, each 100 µs, and is reported after 5 ms; a transaction is retried once
after a NACK; an alert reads every mapped rail's status. KENNEL_DATA moves one word of a bank the accessor may reach
and advances the address, which it does for another bank too. -/
def Obligations.PowerUnits : Prop :=
  (∀ s : State,
    (s.pwr.xclkAt + 64000 ≤ s.uptime → exec .rtcFallback s = .next (interrupts s { s.start with pwr := { s.start.pwr with
      fallback := true, xclk := false } })) ∧
    (s.uptime < s.pwr.xclkAt + 64000 → exec .rtcFallback s = .next (interrupts s s.start))) ∧
  (∀ (acc : Accessor) (s : State), exec (.rtcLoRead acc) s = .next (interrupts s
    ((s.start.setCopy (acode acc) 0xD0004 0 (wd (bf s.pwr.rtc 47 32))).emit (.words [wd s.pwr.rtc])))) ∧
  (∀ (x : RailRead) (u s : State), u = { s.start with pwr := { s.start.pwr with pollAt := s.uptime } } → pmbRuns s = true →
    s.pwr.pollAt + 100000000 ≤ s.uptime →
    (mapped s x.rail = true → (x.pecBad && railPec s x.rail) = false → exec (.pmbusPoll [x]) s = .next (interrupts s
      (lastXact (u.setRail x.rail { s.railOf x.rail with iout := x.iout % 65536, temp := x.temp }) x.rail 0x8D .ok))) ∧
    (mapped s x.rail = true → (x.pecBad && railPec s x.rail) = true →
      exec (.pmbusPoll [x]) s = .next (interrupts s (pecFail u))) ∧
    (mapped s x.rail = false → exec (.pmbusPoll [x]) s = .next (interrupts s u))) ∧
  (∀ (xs : List RailRead) (s : State), s.uptime < s.pwr.pollAt + 100000000 →
    exec (.pmbusPoll xs) s = .next (interrupts s s.start)) ∧
  (∀ (rail mv : Nat) (pb : Bool) (g : Rail) (u s : State), g = s.railOf rail → mapped s rail = true → g.cmdAt.isSome = true →
    pmbRuns s = true → g.xactAt + 100000 ≤ s.uptime →
    ((pb && railPec s rail) = false →
      (within1 mv g.vout = true →
        u = lastXact (s.start.setRail rail { g with rd := mv % 65536, cmdAt := none }) rail 0x8B .ok →
        (railByte g.cfg 1 ≠ 1 → exec (.readVoutPoll rail mv pb) s = .next (interrupts s u)) ∧
        (railByte g.cfg 1 = 1 →
          exec (.readVoutPoll rail mv pb) s = .next (interrupts s { u with mc := { u.mc with vccint := g.vout } }))) ∧
      (within1 mv g.vout = false →
        exec (.readVoutPoll rail mv pb) s = .next (interrupts s
          (lastXact (s.start.setRail rail { g with rd := mv % 65536 }) rail 0x8B .ok)))) ∧
    ((pb && railPec s rail) = true →
      exec (.readVoutPoll rail mv pb) s = .next (interrupts s (pecFail (s.start.setRail rail { g with xactAt := s.uptime }))))) ∧
  (∀ (rail mv : Nat) (pb : Bool) (s : State), s.uptime < (s.railOf rail).xactAt + 100000 →
    exec (.readVoutPoll rail mv pb) s = .next (interrupts s s.start)) ∧
  (∀ (rail t : Nat) (s : State), mapped s rail = true → pmbRuns s = true → (s.railOf rail).cmdAt = some t →
    (t + 5000000 ≤ s.uptime → exec (.voutTimeout rail) s = .next (interrupts s
      (avsFail ((lastXact s.start rail 0x8B .voutMismatch).raiseAll 0xE002C 0 2) rail .voutMismatch))) ∧
    (s.uptime < t + 5000000 → exec (.voutTimeout rail) s = .next (interrupts s s.start))) ∧
  (∀ (rail : Nat) (u v s : State), mapped s rail = true → pmbRuns s = true → (s.railOf rail).cmdAt.isSome = true →
    (s.railOf rail).xactAt + 100000 ≤ s.uptime →
    u = { s.start with pwr := { s.start.pwr with nacks := sat 0xFFFF s.pwr.nacks } } →
    v = { s.start with pwr := { s.start.pwr with nacks := sat 0xFFFF (sat 0xFFFF s.pwr.nacks) } } →
    exec (.pmbusRetry rail true) s = .next (interrupts s (lastXact u rail 0x21 .ok)) ∧
    exec (.pmbusRetry rail false) s = .next (interrupts s
      (avsFail ((lastXact v rail 0x21 .pmbusNack).raiseAll 0xE002C 0 1) rail .pmbusNack))) ∧
  (∀ (rail : Nat) (a : Bool) (s : State), s.uptime < (s.railOf rail).xactAt + 100000 →
    exec (.pmbusRetry rail a) s = .next (interrupts s s.start)) ∧
  (∀ (ws bad : List Nat) (s : State), pmbRuns s = true →
    exec (.pmbAlert ws bad) s = .next (interrupts s ((List.range 8).foldl (fun u i =>
      if mapped u i && railPec u i && bad.contains i then (pecFail u).emit (.pmbus i 0x79 [])
      else if mapped u i then
        (((lastXact (u.setRail i { u.railOf i with status := ws.getD i 0 % 65536 }) i 0x03 .ok).post allDomains 0 .ok 3 i
          (ws.getD i 0 % 65536)).emit (.pmbus i 0x79 [])).emit (.pmbus i 0x03 (pmbBytes u i 0x03 []))
      else u) (s.start.raiseAll 0xE002C 0 4)))) ∧
  (∀ (acc : Accessor) (a : Nat) (v : Word) (s : State), a = wf (s.copy (acode acc) 0xD0010 0) 20 0 →
    kennelMine acc (a / 65536) = true →
    exec (.kennelData acc (some v)) s = .next (interrupts s ((({ s.start with pwr := { s.start.pwr with
      kennel := Memory.writeN 0 s.pwr.kennel a (leBytes 4 v.toNat) } } : State).setCopy (acode acc) 0xD0010 0
        (wd ((a + 4) % 0x200000))))) ∧
    exec (.kennelData acc none) s = .next (interrupts s ((s.start.setCopy (acode acc) 0xD0010 0
      (wd ((a + 4) % 0x200000))).emit (.words [wd (leNat (Memory.readN 0 s.pwr.kennel a 4))])))) ∧
  (∀ (acc : Accessor) (a : Nat) (v : Word) (s : State), a = wf (s.copy (acode acc) 0xD0010 0) 20 0 →
    kennelMine acc (a / 65536) = false →
    exec (.kennelData acc (some v)) s = .next (interrupts s (s.start.setCopy (acode acc) 0xD0010 0
      (wd ((a + 4) % 0x200000)))) ∧
    exec (.kennelData acc none) s = .next (interrupts s ((s.start.setCopy (acode acc) 0xD0010 0
      (wd ((a + 4) % 0x200000))).emit (.words [0]))))

/-- BIST_SCHEDULE of the lead domain sets one schedule entry, and is refused for a full-mode test where the state forbids
it and for another domain's high entries; an entry whose instant has come starts one slice where the rules permit and
else counts a skip; a slice that ends, no sooner than its test lasts, is judged by its signature, and a block RAM that
fails its march stays served from its spare; one that exceeds its budget, or 1 s in full mode, ends TEST_ABORTED;
BIST_RUN waits at most 100 ms for its slice, and ends REFUSED where the target is not eligible or no slice starts in
time; BIST_GET_RESULT reads a record, marking it read by its issuer. -/
def Obligations.SelfTest : Prop :=
  (∀ (d k test target per : Nat) (b : Nat × List Clamp) (e : BstEntry) (c : RunCmd) (u s : State), served s d 0x0801 .owner →
    u = servedState s d → c = frontEntry s d → k = bf (pw c 0) 5 0 → test = pw c 1 → target = bf (pw c 2) 23 0 →
    per = nearest 1 3600000 (pw c 3) → b = budgetOf c test →
    e = ({
      enable := (pw c 0).testBit 31, test, target, period := per, budget := b.1, setter := cmdOwner c,
      status := (SMap.get dBstE u.bst.entries k).status, skips := (SMap.get dBstE u.bst.entries k).skips,
      seen := duePast u k per } : BstEntry) →
    (u.lead = some c.d → serviceTest test = true → fullMode test = false → target = sweepTarget →
      exec (.bistSchedule d) s = .next (answered s (finish c .ok 5
        ((if per = pw c 3 then [] else [cmdClamp 3 0 (pw c 3) per]) ++ b.2) []
        { u with bst := { u.bst with entries := SMap.set dBstE u.bst.entries k e } }))) ∧
    (fullMode test = true → fullPermitted u = false →
      exec (.bistSchedule d) s = .next (answered s (finish c .lifecycleDeny 0 [] [] u))) ∧
    (fullMode test = false → u.lead ≠ some c.d → 56 ≤ k →
      exec (.bistSchedule d) s = .next (answered s (finish c .notOwner 0 [] [] u)))) ∧
  (∀ (d test target : Nat) (b : Nat × List Clamp) (c : RunCmd) (u w s : State), served s d 0x0802 .owner →
    u = servedState s d → c = frontEntry s d → test = pw c 1 → target = bf (pw c 2) 23 0 → b = budgetOf c test →
    serviceTest test = true → fullMode test = false → target ≠ sweepTarget → targetValid test target = true →
    (mayTest u c test target = true → eligible u test target = true → w = waitCmd c b.2 u →
      exec (.bistRun d) s = .next (answered s (startWaiting { w with bst := { w.bst with
        waiting := w.bst.waiting ++ [{ cmd := ⟨c.d, c.tag⟩, test, target, budget := b.1, t := u.uptime }] } }))) ∧
    (mayTest u c test target = true → eligible u test target = false →
      exec (.bistRun d) s = .next (answered s (finish c .refused 5 b.2 [] u))) ∧
    (mayTest u c test target = false →
      exec (.bistRun d) s = .next (answered s (finish c .notOwner 0 [] [] u)))) ∧
  (∀ (d tag : Nat) (w : BstWait) (s : State), s.bst.waiting.find? (fun w => w.cmd.d == d && w.cmd.tag == tag) = some w →
    (w.t + 100000000 ≤ s.uptime →
      exec (.bistRunTimeout d tag) s = .next (interrupts s (endCmd w.cmd .refused 5 [] { s.start with
        bst := { s.start.bst with waiting := s.bst.waiting.erase w } }))) ∧
    (s.uptime < w.t + 100000000 → exec (.bistRunTimeout d tag) s = .next (interrupts s s.start))) ∧
  (∀ (d test target : Nat) (c : RunCmd) (u s : State), served s d 0x0803 .any → u = servedState s d → c = frontEntry s d →
    test = pw c 0 → target = bf (pw c 1) 23 0 → serviceTest test = true → targetValid test target = true →
    (findRec u test target = none →
      exec (.bistGetResult d) s = .next (answered s (finish c .notReady 5 [] [0, 0, 0, 0, 0, 0] u))) ∧
    (∀ (k : Nat) (r : BstRec), findRec u test target = some (k, r) → runsOn u test target = false →
      r.readBy.contains c.d = false →
      exec (.bistGetResult d) s = .next (answered s (finish c .ok 5 [] (recWords r) { u with bst := { u.bst with
        recs := SMap.set dNone u.bst.recs k (some { r with readBy := r.readBy ++ [c.d] }) } }))) ∧
    (∀ (k : Nat) (r : BstRec), findRec u test target = some (k, r) → runsOn u test target = false →
      r.readBy.contains c.d = true →
      exec (.bistGetResult d) s = .next (answered s (finish c .alreadyRead 5 [] (recWords r) u)))) ∧
  (∀ (k t : Nat) (e0 e : BstEntry) (s : State), k ≤ 63 → e0 = SMap.get dBstE s.bst.entries k →
    e = { e0 with seen := duePast s k e0.period } → e0.enable = true → s.boot.done = true → bstPermitted s = true →
    mcRuns s = true →
    (e0.seen < duePast s k e0.period → dueTarget s.start k e = some t →
      (((slicesNow s.start).any fun x => x.2.entry == some k) = false → canStart s.start e.test t = true →
        exec (.entryDue k) s = .next (interrupts s (startSlice { s.start with bst := { s.start.bst with
          entries := SMap.set dBstE s.bst.entries k { e with next := t + 1 } } } e.test t (some k) (entryBudget s e) none))) ∧
      (canStart s.start e.test t = false →
        exec (.entryDue k) s = .next (interrupts s { s.start with bst := { s.start.bst with
          entries := SMap.set dBstE s.bst.entries k { e with skips := sat 0xFFFF e.skips } } }))) ∧
    (duePast s k e0.period ≤ e0.seen → exec (.entryDue k) s = .next (interrupts s s.start))) ∧
  (∀ (slot : Nat) (x : Slice) (r : SliceResult) (m : BitVec 64) (st : Status) (v s : State),
    SMap.get dNone s.bst.slices slot = some x → (x.test = 1 → r.spareFault = false) → m = misrEnd r.misr r.patterns false →
    st = (if m == Config.bstExpected x.test x.target (targetConfig s.start x.test x.target) then .ok else .testFail) →
    v = afterTest x r.detail (endSlice s.start slot x st (faultDetail x.test st r) (s.uptime - x.t) m) →
    (x.t + testNs x.test st ≤ s.uptime → s.uptime ≤ sliceLimit x + 2000 →
      (x.test ≠ 1 ∨ st = .ok → exec (.sliceEnd slot r) s = .next (interrupts s (startWaiting v))) ∧
      (x.test = 1 → st = .testFail → exec (.sliceEnd slot r) s = .next (interrupts s (startWaiting
        (({ v with bst := { v.bst with spares := v.bst.spares ++ [x.target] } }).raiseFor
          (targetAccsB s.start x.test x.target) 0xF0028 0 4))))) ∧
    (s.uptime < x.t + testNs x.test st → exec (.sliceEnd slot r) s = .next (interrupts s s.start))) ∧
  (∀ (slot : Nat) (x : Slice) (r : SliceResult) (s : State), SMap.get dNone s.bst.slices slot = some x → x.test = 1 →
    r.spareFault = true →
    exec (.sliceEnd slot r) s = .next (interrupts s (startWaiting
      (endSlice s.start slot x .testFail 2 (s.uptime - x.t) (misrEnd r.misr r.patterns true))))) ∧
  (∀ (slot n : Nat) (x : Slice) (m : BitVec 64) (s : State), SMap.get dNone s.bst.slices slot = some x →
    (sliceLimit x ≤ s.uptime →
      exec (.sliceBudget slot n m) s = .next (interrupts s (startWaiting
        (endSlice s.start slot x .testAborted 0 (s.uptime - x.t) (misrEnd m n true))))) ∧
    (s.uptime < sliceLimit x → exec (.sliceBudget slot n m) s = .next (interrupts s s.start)))

/-- LC_TRANSITION begins its OTP run only with a permitted pair, a right authorisation bound to the issuer's nonce, the
pair's condition met and the hold-up supply present; the run's end, no sooner than the words take, programs them,
reads the life cycle anew and ends every grant, or begins the erase of a return, and a warm reset that was put off
then takes effect. DBG_CHALLENGE gives a nonce, which a judged authorisation consumes and which expires; DBG_GRANT
stores a grant that a right authorisation asks for; DBG_REVOKE and the leash end one. The nonce's value is free (log
entry 5). -/
def Obligations.LifeCycleDebug : Prop :=
  (∀ (d t : Nat) (b : List Byte) (n : Nonce) (c : RunCmd) (u v w s : State), served s d 0x0901 .h → u = servedState s d →
    c = frontEntry s d → t = bf (pw c 0) 3 0 → b = readBuf u c (pw c 1) 0xE0 → bufOk (pw c 1) 0xE0 = true →
    u.lcs.run = none → v = setNonce u c.d none → w = waitCmd c [] v →
    ((lcPair u.lcs.state t = false →
      exec (.lcTransition d) s = .next (answered s (lcEnd c .lifecycleDeny u))) ∧
    (lcPair u.lcs.state t = true → leAt b 4 1 = u.lcs.state → leAt b 5 1 = t →
      (nonceOf u c.d).filter (fun n => n.scope == 0) = none →
      exec (.lcTransition d) s = .next (answered s (lcEnd c .notReady u))) ∧
    (lcPair u.lcs.state t = true → leAt b 4 1 = u.lcs.state → leAt b 5 1 = t →
      (nonceOf u c.d).filter (fun n => n.scope == 0) = some n →
      (lcAuth u t n b = false → exec (.lcTransition d) s = .next (answered s (lcEnd c .authFail v))) ∧
      (lcAuth u t n b = true → lcCondition u t = false →
        exec (.lcTransition d) s = .next (answered s (lcEnd c .notReady v))) ∧
      (lcAuth u t n b = true → lcCondition u t = true → u.pwr.holdup = false ∨ u.boot.suppliesOk = false →
        exec (.lcTransition d) s = .next (answered s (lcEnd c .holdupAbsent v))) ∧
      (lcAuth u t n b = true → lcCondition u t = true → u.pwr.holdup = true → u.boot.suppliesOk = true →
        exec (.lcTransition d) s = .next (answered s { w with lcs := { w.lcs with
          run := some { cmd := some ⟨c.d, c.tag⟩, target := t, run2 := t = 4 && returnMark u, since := u.uptime } } }))))) ∧
  (∀ (r : LcRun) (u v z s : State), programming s = some r → u = (runWords s r).foldl otpPut s.start →
    (r.since + runNs (runWords s r) ≤ s.uptime →
      ((r.target ≠ 4 ∨ r.run2 = true) →
        v = endGrants (lcRead { u with lcs := { u.lcs with run := none, status := .ok } }) →
        z = endCmd? r.cmd .ok 0x18 [wd v.lcs.state] (v.raiseAll 0x100020 0 1) →
        (z.lcs.warmDef = false → exec .otpRunEnd s = .next (interrupts s z)) ∧
        (z.lcs.warmDef = true →
          exec .otpRunEnd s = .next (interrupts s (warmNow { z with lcs := { z.lcs with warmDef := false } })))) ∧
      (r.target = 4 → r.run2 = false → v = stopDesign u →
        z = { v with lcs := { v.lcs with
          run := some { r with run2 := true }, erasing := true,
          boot := SMap.set dWord v.lcs.boot 23 (SMap.get dWord v.lcs.otp 23) } } →
        (z.lcs.warmDef = false → exec .otpRunEnd s = .next (interrupts s z)) ∧
        (z.lcs.warmDef = true →
          exec .otpRunEnd s = .next (interrupts s (warmNow { z with lcs := { z.lcs with warmDef := false } }))))) ∧
    (s.uptime < r.since + runNs (runWords s r) → exec .otpRunEnd s = .next (interrupts s s.start))) ∧
  (∀ (u v s : State), s.lcs.erasing = true → u = ownerErase s.start →
    v = { u with lcs := { u.lcs with erasing := false } } →
    (s.lcs.run = none → exec .returnEraseDone s = .next (interrupts s v)) ∧
    (∀ r : LcRun, s.lcs.run = some r → s.pwr.holdup = true → s.boot.suppliesOk = true →
      exec .returnEraseDone s = .next (interrupts s { v with lcs := { v.lcs with run := some { r with since := s.uptime } } })) ∧
    (∀ r : LcRun, s.lcs.run = some r → s.pwr.holdup = false ∨ s.boot.suppliesOk = false →
      exec .returnEraseDone s = .next (interrupts s (endCmd? r.cmd .holdupAbsent 0x18 []
        { v with lcs := { v.lcs with run := none, status := .holdupAbsent } })))) ∧
  (∀ (d sc dom : Nat) (c : RunCmd) (u s : State), served s d 0x0902 .h → u = servedState s d → c = frontEntry s d →
    sc = bf (pw c 0) 3 0 → dom = bf (pw c 0) 6 4 →
    (sc ≤ 4 → sc ≠ 2 ∧ sc ≠ 4 ∨ u.lead = some c.d → sc ≠ 3 ∨ dom = c.d →
      exec (.dbgChallenge d) s = .next (answered s (finish c .ok 0x18 []
        ((List.range 4).map fun i => (Config.freeBits u.free).extractLsb' (32 * i) 32)
        (setNonce u.takeFree c.d (some { scope := sc, dom, value := Config.freeBits u.free, t := u.pwr.rtc }))))) ∧
    (sc = 2 ∨ sc = 4 → u.lead ≠ some c.d →
      exec (.dbgChallenge d) s = .next (answered s (finish c .notOwner 0 [] [] u))) ∧
    (4 < sc → exec (.dbgChallenge d) s = .next (answered s (finish c .badParameter 0 [] [] u)))) ∧
  (∀ (h : Nat) (n : Nonce) (s : State), nonceOf s h = some n →
    (n.t + nonceLife ≤ s.pwr.rtc → exec (.nonceExpiry h) s = .next (interrupts s (setNonce s.start h none))) ∧
    (s.pwr.rtc < n.t + nonceLife → exec (.nonceExpiry h) s = .next (interrupts s s.start))) ∧
  (∀ (d m : Nat) (b : List Byte) (n : Nonce) (c : RunCmd) (u v s : State), served s d 0x0903 .h → u = servedState s d →
    c = frontEntry s d → b = readBuf u c (pw c 0) 144 → m = leAt b 8 4 → bufOk (pw c 0) 144 = true →
    nonceOf u c.d = some n → v = setNonce u c.d none → 1 ≤ m → m ≤ 1440 → leAt b 6 2 = 0 → leAt b 0x24 12 = 0 →
    (grantRight u n b = true → (freeSlots u).isEmpty = false →
      exec (.dbgGrant d) s = .next (answered s (storeGrant c n m v))) ∧
    (grantRight u n b = false →
      exec (.dbgGrant d) s = .next (answered s (finish c .authFail 0x18 [] [] v))) ∧
    (grantRight u n b = true → (freeSlots u).isEmpty = true →
      exec (.dbgGrant d) s = .next (answered s (finish c .busy 0x18 [] [] v)))) ∧
  (∀ (d : Nat) (c : RunCmd) (u s : State), served s d 0x0904 .h → u = servedState s d → c = frontEntry s d →
    (grantSlot u (pw c 0) = none →
      exec (.dbgRevoke d) s = .next (answered s (finish c .badParameter 0x18 [] [] u))) ∧
    (∀ (k : Nat) (g : Grant), grantSlot u (pw c 0) = some (k, g) → g.who = c.d ∨ u.lead = some c.d →
      exec (.dbgRevoke d) s = .next (answered s (finish c .ok 0x18 [] [] (endGrant u k)))) ∧
    (∀ (k : Nat) (g : Grant), grantSlot u (pw c 0) = some (k, g) → g.who ≠ c.d → u.lead ≠ some c.d →
      exec (.dbgRevoke d) s = .next (answered s (finish c .notOwner 0 [] [] u)))) ∧
  (∀ (k : Nat) (g : Grant) (s : State), SMap.get dNone s.lcs.grants k = some g →
    (g.until_ ≤ rtcSec s → exec (.leashExpiry k) s = .next (interrupts s (endGrant s.start k))) ∧
    (rtcSec s < g.until_ → exec (.leashExpiry k) s = .next (interrupts s s.start)))

/-- A permitted instruction loads the instruction register and has its effect, the boundary scan capturing the pins and
shifting its register in; the commands BYPASS, EXTEST and CSR_ACCESS whose code is listed but not permitted act as
BYPASS, are counted and raise tap_denied, and an unlisted code is BYPASS. A readback of an invalid address shows free
data (the model's choice, log entry 5). -/
def Obligations.TestAccessPort : Prop :=
  (∀ (x : BscanDr) (u s : State), jtagPermits s 0x001 = true → u = loadIr 0x001 s.start →
    exec (.samplePreload x) s = .next (interrupts s (({ u with lcs := { u.lcs with bsr := x.shiftIn } }).emit
      (.tdo 3300 (bsCapture x.pins u))))) ∧
  (∀ (x : BscanDr) (k : Nat) (u s : State), k = 0x000 ∨ k = 0x005 ∨ k = 0x006 → jtagPermits s k = true →
    u = loadIr k s.start →
    exec (if k = 0x000 then .extest x else if k = 0x005 then .extestPulse x else .extestTrain x) s =
      .next (interrupts s (driven (({ u with lcs := { u.lcs with bsr := x.shiftIn } }).emit
        (.tdo 3300 (bsCapture x.pins u)))))) ∧
  (∀ s : State, exec .idcode s = .next (interrupts s ((loadIr 0x002 s.start).emit (.tdo 32 0x14096B3D)))) ∧
  (∀ (u s : State), jtagPermits s 0x003 = true → u = loadIr 0x003 s.start →
    exec .highz s = .next (interrupts s (({ u with lcs := { u.lcs with hiz := true } }).emit (.tdo 1 0)))) ∧
  (∀ (u s : State), jtagPermits s 0x004 = true → u = loadIr 0x004 s.start →
    exec .clamp s = .next (interrupts s (({ u with lcs := { u.lcs with drive := true } }).emit (.tdo 1 0)))) ∧
  (∀ s : State, exec .lcStatus s = .next (interrupts s ((loadIr 0x010 s.start).emit (.tdo 32 (lcsState s).toNat)))) ∧
  (∀ (pkg : List Byte) (x : BitVec 256 × BitVec 256) (s : State), jtagPermits s 0x018 = true →
    Config.keyPackage pkg = some x →
    exec (.keyLoad pkg) s = .next (interrupts s (lcRead ((keyWords 32 x.1 ++ keyWords 40 x.2 ++
      [(21, checkWord x.1), (22, checkWord x.2)]).foldl otpPut (loadIr 0x018 s.start))))) ∧
  (∀ (pkg : List Byte) (s : State), jtagPermits s 0x018 = true → Config.keyPackage pkg = none →
    exec (.keyLoad pkg) s = .next (interrupts s (loadIr 0x018 s.start))) ∧
  (∀ (dr : BitVec 64) (a : Nat) (u s : State), jtagPermits s 0x020 = true → dr.getLsbD 63 = true → a = bf dr.toNat 55 32 →
    u = (loadIr 0x020 s.start).emit (.tdo 64 s.lcs.csrData.toNat) →
    exec (.csrAccess dr) s = .next (interrupts s (csrWrite .jtag a (dr.extractLsb' 0 32) u))) ∧
  (∀ (dr : BitVec 64) (a : Nat) (r : Word × State) (u s : State), jtagPermits s 0x020 = true → dr.getLsbD 63 = false →
    a = bf dr.toNat 55 32 → u = (loadIr 0x020 s.start).emit (.tdo 64 s.lcs.csrData.toNat) → r = csrRead .jtag a u →
    exec (.csrAccess dr) s = .next (interrupts s { r.2 with lcs := { r.2.lcs with csrData := r.1 } })) ∧
  (∀ (far : Word) (u s : State), jtagPermits s 0x021 = true → u = loadIr 0x021 s.start →
    (farValid (far &&& 0xBFFFFFFF) = true →
      exec (.frameReadback far) s = .next (interrupts s (u.passRead.emit
        (.tdo 4160 (leNat (readFrame u ((far &&& 0xBFFFFFFF).toNat / 256) (wb far 30))))))) ∧
    (farValid (far &&& 0xBFFFFFFF) = false →
      exec (.frameReadback far) s = .next (interrupts s (u.takeFree.emit (.tdo 4160 (Config.freeBits s.free).toNat))))) ∧
  (∀ (k : Nat) (s : State), k < 1024 → k = 0x3FF ∨ jtagListed k = false →
    exec (.bypass k) s = .next (interrupts s ((loadIr k s.start).emit (.tdo 1 0)))) ∧
  (∀ (k : Nat) (u s : State), u = loadIr k s.start → jtagPermits s k = false → k < 1024 →
    (k ≠ 0x3FF → jtagListed k = true →
      exec (.bypass k) s = .next (interrupts s ((({ u with lcs := { u.lcs with
        denied := sat 0xFFFF s.lcs.denied } }).raiseAll 0x100020 0 2).emit (.tdo 1 0)))) ∧
    (∀ x : BscanDr, k = 0x000 → exec (.extest x) s = .next (interrupts s ((({ u with lcs := { u.lcs with
        denied := sat 0xFFFF s.lcs.denied } }).raiseAll 0x100020 0 2).emit (.tdo 1 0)))) ∧
    (∀ dr : BitVec 64, k = 0x020 → exec (.csrAccess dr) s = .next (interrupts s ((({ u with lcs := { u.lcs with
        denied := sat 0xFFFF s.lcs.denied } }).raiseAll 0x100020 0 2).emit (.tdo 1 0)))))

/-- A write of GLB.SCRATCH, PWR's refusal index, PWR.INT_STATUS or LCS.INT_EN acts on the accessor's own copy; a write at
a misaligned or unmapped address, or by HS outside its page, changes nothing. An edge of a user clock net that comes
gives each tile that it reaches the values that its inputs and the other elements made before the edge, and a rising
edge the registers of each DSP block on the net too, and leaves the others; where the block's maps are in canonical
form each element is as said; another edge changes nothing. A change at a port's fabric output reaches the port while
its band is ON and no boundary latch holds it; the link state of a MAC in use changes with its event, a link comes up
only with its quad's reference, and the loss of the disciplining one puts the timebase in holdover. -/
def Obligations.FabricAndRegisters : Prop :=
  (∀ (acc : Accessor) (v : Word) (s : State), acc ≠ .dom .hs →
    exec (.registerWrite acc 0x28 v) s = .next (interrupts s (s.start.setCopy (acode acc) 0x28 0 v)) ∧
    exec (.registerWrite acc 0xC0014 v) s = .next (interrupts s (s.start.setCopy (acode acc) 0xC0014 0 (v &&& 7))) ∧
    exec (.registerWrite acc 0xC0030 v) s = .next (interrupts s (s.start.clearCopy (acode acc) 0xC0030 0 v)) ∧
    exec (.registerWrite acc 0x100024 v) s = .next (interrupts s (s.start.setCopy (acode acc) 0x100024 0 (v &&& 0xF)))) ∧
  (∀ (acc : Accessor) (a : Nat) (v : Word) (s : State), a % 4 ≠ 0 ∨ 0x13 < a / 0x10000 →
    exec (.registerWrite acc a v) s = .next (interrupts s s.start)) ∧
  (∀ (a : Nat) (v : Word) (s : State), a / 0x10000 ≠ 1 →
    exec (.registerWrite (.dom .hs) a v) s = .next (interrupts s s.start)) ∧
  (∀ (x : ClockEdge) (f g : Fab) (s : State), f = fabEdge s.start x → g = takeInputs x s.fab →
    (edgeComes s.start x = true →
      exec (.userClockEdge x) s = .next (interrupts s { s.start with
        fab := f, free := s.free + 24576, out := edgeOuts s.start x f,
        clk := { s.clk with high := SMap.set (fun _ => false) s.clk.high x.net x.rising } })) ∧
    (edgeComes s.start x = false → exec (.userClockEdge x) s = .next (interrupts s s.start)) ∧
    (∀ t ∈ edgeTiles s.start x, SMap.wf dFf s.fab.ffs = true → SMap.get dFf f.ffs t = tileEdge s.start x.net x.rising g t) ∧
    (∀ t, t ∉ edgeTiles s.start x → SMap.wf dFf s.fab.ffs = true → SMap.get dFf f.ffs t = SMap.get dFf s.fab.ffs t) ∧
    (x.rising = true → ∀ d ∈ dspsOf s.start x.net, SMap.wf dDspReg s.fab.dsps = true → SMap.get dDspReg f.dsps d =
      dspNext (SMap.get dDspCfg s.design.dsps d) (SMap.get dDspIn g.dspIn d) (dspView s.start g d).1
        (SMap.get dDspReg s.fab.dsps d)) ∧
    (∀ d, x.rising = false ∨ d ∉ dspsOf s.start x.net → SMap.wf dDspReg s.fab.dsps = true →
      SMap.get dDspReg f.dsps d = SMap.get dDspReg s.fab.dsps d) ∧
    (x.rising = false ∨ ramPorts s.start x.net = [] → f.ram = s.fab.ram ∧ f.ports = s.fab.ports)) ∧
  (∀ (n : Nat) (o oe : Bool) (w : BitVec 8) (u s : State), n ≤ 1023 → (s.bandOf (portBand n)).state = .on →
    u = s.start.setPort n { s.portOf n with rout := o, roe := oe } →
    (portLatched s.start n = true → exec (.fpOutChange n o oe w) s = .next (interrupts s u)) ∧
    (portLatched s.start n = false → portMode s n ≠ 5 →
      exec (.fpOutChange n o oe w) s = .next (interrupts s (takeOut u n o oe))) ∧
    (portLatched s.start n = false → lvds s.start n = true → n % 2 = 0 → portMode s.start n = 5 → portLive s.start n = true →
      exec (.fpOutChange n o oe w) s = .next (interrupts s
        ((u.setPort n { u.portOf n with ser := w, fout := o, foe := oe }).emit (.wire "lvds_out" n w.toNat))))) ∧
  (∀ (n : Nat) (o oe : Bool) (w : BitVec 8) (s : State), 1023 < n ∨ (s.bandOf (portBand n)).state ≠ .on →
    exec (.fpOutChange n o oe w) s = .next (interrupts s s.start)) ∧
  (∀ (m : Nat) (up an fec : Bool) (s : State), m < 16 → macUsed s m = true → up ≠ (s.macOf m).up →
    (up = true → (s.quadOf (ethQuad m)).ref = true) →
    (up = true ∨ s.tbs.source ≠ 2) →
    exec (.ethLinkChange m up an fec) s = .next (interrupts s
      (ethInt (s.start.setMac m { s.macOf m with up := up, an := an && up, fec := fec && up }) m 4))) ∧
  (∀ (m : Nat) (an fec : Bool) (s : State), (s.macOf m).up = false → (s.quadOf (ethQuad m)).ref = false →
    exec (.ethLinkChange m true an fec) s = .next (interrupts s s.start)) ∧
  (∀ (m : Nat) (an fec : Bool) (u s : State), m < 16 → macUsed s m = true → (s.macOf m).up = true →
    u = ethInt (s.start.setMac m { s.macOf m with up := false, an := false, fec := false }) m 4 →
    s.tbs.run = true → s.tbs.source = 2 → s.tbs.macPort = m →
    exec (.ethLinkChange m false an fec) s = .next (interrupts s (holdover u)))

/-- A step takes the command at the front of the queue and is exec of it on the rest of the queue; on an empty queue one
cycle of PCLK passes (the model's choice, log entry 7). -/
def Obligations.StepRunsFront : Prop :=
  (∀ (c : Instr) (rest : List Instr) (s : State), s.pending = c :: rest → step s = exec c { s with pending := rest }) ∧
  (∀ s : State, s.pending = [] → step s = .next (tick s))

/-- Every command completes in every state, and takes nothing from the queue and no time of its own. -/
def Obligations.CommandsComplete : Prop :=
  ∀ (c : Instr) (s : State), ∃ t : State, exec c s = .next t ∧ t.pending = s.pending ∧ t.uptime = s.uptime

/-- No step clears an OTP bit, of a word or of a key, and only the four commands that program OTP or read it at boot
change OTP words, keys or the life-cycle state. -/
def Obligations.OtpOneWay : Prop :=
  (∀ s t : State, OtpWf s → step s = .next t → OtpKept s t) ∧
  (∀ (c : Instr) (s t : State), exec c s = .next t → c ≠ .supplyLoss → (∀ m r v, c ≠ .bootStart m r v) → c ≠ .otpRunEnd →
    (∀ p, c ≠ .keyLoad p) →
    t.lcs.otp = s.lcs.otp ∧ t.lcs.imgKey = s.lcs.imgKey ∧ t.lcs.kek = s.lcs.kek ∧ t.lcs.state = s.lcs.state)

/-- Every step keeps the life cycle in a state of Table 16.2 or LOST, and the mailbox RAM, the NV array and the OTP words
in canonical form. -/
def Obligations.StepInvariant : Prop :=
  ∀ s t : State, LcOk s ∧ MemWf s ∧ OtpWf s → step s = .next t → LcOk t ∧ MemWf t ∧ OtpWf t

/-- The state after power-on reset satisfies the step invariant; nothing runs or waits, every port is in Hi-Z and every
resource is UNOWNED. -/
def Obligations.ResetHolds : Prop :=
  LcOk State.reset ∧ MemWf State.reset ∧ OtpWf State.reset ∧ State.reset.pending = [] ∧ State.reset.boot.done = false ∧
    State.reset.boot.mcUp = false ∧ State.reset.mc.running = [] ∧ State.reset.noc.flight = [] ∧
    ∀ n : Nat, padPin State.reset n = .z ∧ State.reset.owner n = .unowned

/-- The checks that every mailbox command passes before its parameters are looked at, in their order: the issuer, the life
cycle, and DONE. The first that fails completes the command with its status and changes nothing else. GET_STATUS,
which every issuer may send in every life-cycle state and before DONE, is not among the rows. -/
def Obligations.MailboxChecks : Prop :=
  (∀ (x : Nat × Instr × Issuer) (d : Nat) (bs : List Byte) (s : State), x ∈
    [(0x0001, .identify d, .any), (0x0003, .getReport d, .any),
     (0x0004, .setPolicy d, .lead), (0x0005, .getPolicy d, .any), (0x0006, .resetDomain d, .h),
     (0x0101, .claimRegion d, .h), (0x0102, .releaseRegion d, .owner), (0x0103, .setFirewall d, .h),
     (0x0104, .setHostLossPolicy d, .h), (0x0201, .loadImage d, .any), (0x0202, .loadPartial d, .any),
     (0x0203, .prepareSwap d, .owner), (0x0204, .commitSwap d, .owner), (0x0205, .abortSwap d, .owner),
     (0x0206, .readbackRegion d, .h), (0x0207, .storeImage d bs, .any), (0x0208, .selectImage d, .any),
     (0x0209, .storePartial d bs, .any), (0x020A, .wrapKey d, .h), (0x0301, .nvProtect d, .any),
     (0x0302, .nvUnlock d, .any), (0x0303, .nvSetPassword d, .any), (0x0304, .nvRefreshScan d, .any),
     (0x0305, .nvGrantUrgent d, .lead), (0x0401, .nocMuzzle d, .owner), (0x0402, .nocRehabilitate d, .owner),
     (0x0403, .nocRemap d, .owner), (0x0404, .nocRouteUpdate d, .lead), (0x0501, .uanStartRing d, .owner),
     (0x0502, .uanStopRing d, .owner), (0x0503, .uanGetTopology d, .owner), (0x0504, .uanAssign d, .owner),
     (0x0505, .uanSafe d, .owner), (0x0601, .pwrRequestState d, .owner), (0x0602, .pwrSetSentry d, .lead),
     (0x0603, .pwrGetAccounting d, .any), (0x0701, .timeSet d, .lead), (0x0702, .timeDiscipline d, .lead),
     (0x0801, .bistSchedule d, .owner), (0x0802, .bistRun d, .owner), (0x0803, .bistGetResult d, .any),
     (0x0901, .lcTransition d, .h), (0x0902, .dbgChallenge d, .h), (0x0903, .dbgGrant d, .h),
     (0x0904, .dbgRevoke d, .h)] →
    mayTake s d = true → (frontEntry s d).op = x.1 →
      running? s ⟨d, (frontEntry s d).tag⟩ = none →
      (issuerOk s d x.2.2 = false →
        exec x.2.1 s = .next (answered s (finish (frontEntry s d) .notOwner 0 [] [] (servedState s d)))) ∧
      (issuerOk s d x.2.2 = true → lcPermits s.lcs.state x.1 = false →
        exec x.2.1 s = .next (answered s (finish (frontEntry s d) .lifecycleDeny 0 [] [] (servedState s d)))) ∧
      (issuerOk s d x.2.2 = true → lcPermits s.lcs.state x.1 = true → s.boot.done = false → preDone s x.1 = false →
        exec x.2.1 s = .next (answered s (finish (frontEntry s d) .notReady 0 [] [] (servedState s d)))))

/-- R158, for groups 0–14 and single regions (group 15 is the whole-device target of R171 to R174): an issuer that does
not own every member gets NOT_OWNER and one that names no target gets BAD_PARAMETER, and nothing changes. -/
def Obligations.SwapIssuers : Prop :=
  ∀ (d op t : Nat) (i : Instr) (res : List Word) (c : RunCmd) (u s : State),
    (op, i, res) ∈ [(0x0203, .prepareSwap d, [0xFF]), (0x0204, .commitSwap d, []), (0x0205, .abortSwap d, [])] →
    served s d op .owner → u = servedState s d → c = frontEntry s d → t = targetId c → t ≠ 15 →
    ((∃ r ∈ members u t, u.owner r ≠ cmdOwner c) →
      exec i s = .next (answered s (finish c .notOwner 0 [] res u))) ∧
    ((∀ r ∈ members u t, u.owner r = cmdOwner c) →
      (t < 15 ∧ members u t = []) ∨
        (256 ≤ t ∧ ((u.regionOf (t - 256)).groupEn = true ∨ (t - 256 < 128 ∧ u.rects (t - 256) = []))) →
      exec i s = .next (answered s (finish c .badParameter 0 [] res u)))

/-- R455: the state words decode as Table 16.2 gives where the other OTP areas agree with the state, and as LOST
otherwise, and each pattern is a superset of the one before it. -/
def Obligations.StatePatterns : Prop :=
  (∀ (p : Nat × Word) (m : SMap Word) (k1 k2 : BitVec 256), p ∈ [(0, 0x00000000#32), (1, 0x00000033#32), (2, 0x00003333#32),
      (3, 0x00333333#32), (4, 0x33333333#32), (5, 0xFFFFFFFF#32)] →
    (∀ w < 8, SMap.get dWord m w = p.2) → lcDecode m k1 k2 = p.1 ∨ lcDecode m k1 k2 = 15) ∧
  (∀ (m : SMap Word) (k1 k2 : BitVec 256), (∀ w < 8, SMap.get dWord m w = 0) → keysBlank m k1 k2 = true →
    hashBlank m = true → SMap.get dWord m 23 = 0 → lcDecode m k1 k2 = 0) ∧
  (∀ (m : SMap Word) (k1 k2 : BitVec 256), (∀ w < 8, SMap.get dWord m w = 0x33) →
    keysBlank m k1 k2 = true ∨ keysGood m k1 k2 = true → hashBlank m = true → SMap.get dWord m 23 = 0 →
    lcDecode m k1 k2 = 1) ∧
  (∀ (m : SMap Word) (k1 k2 : BitVec 256), (∀ w < 8, SMap.get dWord m w = 0x3333) → keysGood m k1 k2 = true →
    hashBlank m = true → SMap.get dWord m 23 = 0 → lcDecode m k1 k2 = 2) ∧
  (∀ (m : SMap Word) (k1 k2 : BitVec 256), (∀ w < 8, SMap.get dWord m w = 0x333333) → keysGood m k1 k2 = true →
    hashMatches m = true → SMap.get dWord m 23 = 0 ∨ SMap.get dWord m 23 = 0xFFFFFFFF → lcDecode m k1 k2 = 3) ∧
  (∀ (m : SMap Word) (k1 k2 : BitVec 256), (∀ w < 8, SMap.get dWord m w = 0x33333333) → keysGood m k1 k2 = true →
    hashMatches m = true → SMap.get dWord m 23 = 0xFFFFFFFF → lcDecode m k1 k2 = 4) ∧
  (∀ (m : SMap Word) (k1 k2 : BitVec 256), (∀ w < 8, SMap.get dWord m w = 0xFFFFFFFF) → keysGone m k1 k2 = true →
    lcDecode m k1 k2 = 5) ∧
  (∀ (m : SMap Word) (k1 k2 : BitVec 256),
    (¬ ∃ p ∈ [0x00000000#32, 0x00000033#32, 0x00003333#32, 0x00333333#32, 0x33333333#32, 0xFFFFFFFF#32],
      ∀ w < 8, SMap.get dWord m w = p) → lcDecode m k1 k2 = 15) ∧
  (∀ k < 5, lcPattern k &&& lcPattern (k + 1) = lcPattern k)
end

