-- ==== Sys2Proof/Laws/Done.lean ====
section
/-! SUPPORT. What ends every command: raising the interrupts it calls for changes the PCI Express endpoints' pending bits
and the outputs alone. -/
namespace Sys2Proof.Machine
open Sys2Proof

theorem vectors_eq (s t : State) : ∀ (l : List Nat) (u : State), ∃ p o,
    l.foldl (fun u p => if s.summary (.dom (ownerOf p)) == 0 && t.summary (.dom (ownerOf p)) != 0 then u.vector p 1 else u) u =
      { u with pci := p, out := o }
  | [], u => ⟨u.pci, u.out, rfl⟩
  | k :: l, u => by
    rw [List.foldl_cons]
    by_cases h : (s.summary (.dom (ownerOf k)) == 0 && t.summary (.dom (ownerOf k)) != 0) = true
    · rw [if_pos h]
      obtain ⟨p, o, e⟩ := vectors_eq s t l (u.vector k 1)
      exact ⟨p, o, e.trans rfl⟩
    · rw [if_neg h]; exact vectors_eq s t l u

theorem sppDrive_eq (s t : State) : ∃ o, sppDrive s t = { t with out := o } := by
  unfold sppDrive
  split
  · exact ⟨_, rfl⟩
  · exact ⟨t.out, rfl⟩

theorem interrupts_eq (s t : State) : ∃ p o, interrupts s t = { t with pci := p, out := o } := by
  obtain ⟨o1, e1⟩ := sppDrive_eq s t
  obtain ⟨p, o, e⟩ := vectors_eq s t (List.range 4) (sppDrive s t)
  exact ⟨p, o, e.trans (by rw [e1])⟩

@[simp] theorem interrupts_pending (s t : State) : (interrupts s t).pending = t.pending := by
  obtain ⟨p, o, e⟩ := interrupts_eq s t
  rw [e]

@[simp] theorem interrupts_uptime (s t : State) : (interrupts s t).uptime = t.uptime := by
  obtain ⟨p, o, e⟩ := interrupts_eq s t
  rw [e]

@[simp] theorem interrupts_free (s t : State) : (interrupts s t).free = t.free := by
  obtain ⟨p, o, e⟩ := interrupts_eq s t
  rw [e]

@[simp] theorem interrupts_ten (s t : State) : (interrupts s t).ten = t.ten := by
  obtain ⟨p, o, e⟩ := interrupts_eq s t
  rw [e]

@[simp] theorem interrupts_copies (s t : State) : (interrupts s t).copies = t.copies := by
  obtain ⟨p, o, e⟩ := interrupts_eq s t
  rw [e]

@[simp] theorem interrupts_design (s t : State) : (interrupts s t).design = t.design := by
  obtain ⟨p, o, e⟩ := interrupts_eq s t
  rw [e]

@[simp] theorem interrupts_boot (s t : State) : (interrupts s t).boot = t.boot := by
  obtain ⟨p, o, e⟩ := interrupts_eq s t
  rw [e]

@[simp] theorem interrupts_cfg (s t : State) : (interrupts s t).cfg = t.cfg := by
  obtain ⟨p, o, e⟩ := interrupts_eq s t
  rw [e]

@[simp] theorem interrupts_scr (s t : State) : (interrupts s t).scr = t.scr := by
  obtain ⟨p, o, e⟩ := interrupts_eq s t
  rw [e]

@[simp] theorem interrupts_noc (s t : State) : (interrupts s t).noc = t.noc := by
  obtain ⟨p, o, e⟩ := interrupts_eq s t
  rw [e]

@[simp] theorem interrupts_mac (s t : State) : (interrupts s t).mac = t.mac := by
  obtain ⟨p, o, e⟩ := interrupts_eq s t
  rw [e]

@[simp] theorem interrupts_xcv (s t : State) : (interrupts s t).xcv = t.xcv := by
  obtain ⟨p, o, e⟩ := interrupts_eq s t
  rw [e]

@[simp] theorem interrupts_port (s t : State) : (interrupts s t).port = t.port := by
  obtain ⟨p, o, e⟩ := interrupts_eq s t
  rw [e]

@[simp] theorem interrupts_tbs (s t : State) : (interrupts s t).tbs = t.tbs := by
  obtain ⟨p, o, e⟩ := interrupts_eq s t
  rw [e]

@[simp] theorem interrupts_rfx (s t : State) : (interrupts s t).rfx = t.rfx := by
  obtain ⟨p, o, e⟩ := interrupts_eq s t
  rw [e]

@[simp] theorem interrupts_uan (s t : State) : (interrupts s t).uan = t.uan := by
  obtain ⟨p, o, e⟩ := interrupts_eq s t
  rw [e]

@[simp] theorem interrupts_mc (s t : State) : (interrupts s t).mc = t.mc := by
  obtain ⟨p, o, e⟩ := interrupts_eq s t
  rw [e]

@[simp] theorem interrupts_nv (s t : State) : (interrupts s t).nv = t.nv := by
  obtain ⟨p, o, e⟩ := interrupts_eq s t
  rw [e]

@[simp] theorem interrupts_pwr (s t : State) : (interrupts s t).pwr = t.pwr := by
  obtain ⟨p, o, e⟩ := interrupts_eq s t
  rw [e]

@[simp] theorem interrupts_bst (s t : State) : (interrupts s t).bst = t.bst := by
  obtain ⟨p, o, e⟩ := interrupts_eq s t
  rw [e]

@[simp] theorem interrupts_lcs (s t : State) : (interrupts s t).lcs = t.lcs := by
  obtain ⟨p, o, e⟩ := interrupts_eq s t
  rw [e]

@[simp] theorem interrupts_clk (s t : State) : (interrupts s t).clk = t.clk := by
  obtain ⟨p, o, e⟩ := interrupts_eq s t
  rw [e]

@[simp] theorem interrupts_smn (s t : State) : (interrupts s t).smn = t.smn := by
  obtain ⟨p, o, e⟩ := interrupts_eq s t
  rw [e]

@[simp] theorem interrupts_fab (s t : State) : (interrupts s t).fab = t.fab := by
  obtain ⟨p, o, e⟩ := interrupts_eq s t
  rw [e]

/-! ## The state in which a command acts -/

@[simp] theorem State.start_pending (s : State) : s.start.pending = s.pending := rfl
@[simp] theorem State.start_uptime (s : State) : s.start.uptime = s.uptime := rfl
@[simp] theorem State.start_free (s : State) : s.start.free = s.free := rfl
@[simp] theorem State.start_ten (s : State) : s.start.ten = s.ten := rfl
@[simp] theorem State.start_copies (s : State) : s.start.copies = s.copies := rfl
@[simp] theorem State.start_design (s : State) : s.start.design = s.design := rfl
@[simp] theorem State.start_boot (s : State) : s.start.boot = s.boot := rfl
@[simp] theorem State.start_cfg (s : State) : s.start.cfg = s.cfg := rfl
@[simp] theorem State.start_scr (s : State) : s.start.scr = s.scr := rfl
@[simp] theorem State.start_noc (s : State) : s.start.noc = s.noc := rfl
@[simp] theorem State.start_pci (s : State) : s.start.pci = s.pci := rfl
@[simp] theorem State.start_mac (s : State) : s.start.mac = s.mac := rfl
@[simp] theorem State.start_xcv (s : State) : s.start.xcv = s.xcv := rfl
@[simp] theorem State.start_port (s : State) : s.start.port = s.port := rfl
@[simp] theorem State.start_tbs (s : State) : s.start.tbs = s.tbs := rfl
@[simp] theorem State.start_rfx (s : State) : s.start.rfx = s.rfx := rfl
@[simp] theorem State.start_uan (s : State) : s.start.uan = s.uan := rfl
@[simp] theorem State.start_mc (s : State) : s.start.mc = s.mc := rfl
@[simp] theorem State.start_nv (s : State) : s.start.nv = s.nv := rfl
@[simp] theorem State.start_pwr (s : State) : s.start.pwr = s.pwr := rfl
@[simp] theorem State.start_bst (s : State) : s.start.bst = s.bst := rfl
@[simp] theorem State.start_lcs (s : State) : s.start.lcs = s.lcs := rfl
@[simp] theorem State.start_clk (s : State) : s.start.clk = s.clk := rfl
@[simp] theorem State.start_smn (s : State) : s.start.smn = s.smn := rfl
@[simp] theorem State.start_fab (s : State) : s.start.fab = s.fab := rfl
@[simp] theorem State.start_out (s : State) : s.start.out = [] := rfl
@[simp] theorem State.start_portOf (s : State) (n : Nat) : s.start.portOf n = s.portOf n := rfl
@[simp] theorem State.start_macOf (s : State) (n : Nat) : s.start.macOf n = s.macOf n := rfl
@[simp] theorem State.start_pciOf (s : State) (n : Nat) : s.start.pciOf n = s.pciOf n := rfl
@[simp] theorem State.start_mbxOf (s : State) (d : Nat) : s.start.mbxOf d = s.mbxOf d := rfl
@[simp] theorem State.start_loadOf (s : State) (n : Nat) : s.start.loadOf n = s.loadOf n := rfl
@[simp] theorem State.start_frameOf (s : State) (k : Nat) : s.start.frameOf k = s.frameOf k := rfl
@[simp] theorem State.start_regionOf (s : State) (r : Nat) : s.start.regionOf r = s.regionOf r := rfl
@[simp] theorem State.start_targetOf (s : State) (t : Nat) : s.start.targetOf t = s.targetOf t := rfl
@[simp] theorem State.start_ringOf (s : State) (r : Nat) : s.start.ringOf r = s.ringOf r := rfl
@[simp] theorem State.start_tableOf (s : State) (t : Nat) : s.start.tableOf t = s.tableOf t := rfl
@[simp] theorem State.start_mapOf (s : State) (e : Nat) : s.start.mapOf e = s.mapOf e := rfl
@[simp] theorem State.start_pllOf (s : State) (p : Nat) : s.start.pllOf p = s.pllOf p := rfl
@[simp] theorem State.start_chanOf (s : State) (c : Nat) : s.start.chanOf c = s.chanOf c := rfl
@[simp] theorem State.start_bankOf (s : State) (b : Nat) : s.start.bankOf b = s.bankOf b := rfl
@[simp] theorem State.start_qOf (s : State) (q : Nat) : s.start.qOf q = s.qOf q := rfl
@[simp] theorem State.start_rangeOf (s : State) (r : Nat) : s.start.rangeOf r = s.rangeOf r := rfl
@[simp] theorem State.start_bandOf (s : State) (b : Nat) : s.start.bandOf b = s.bandOf b := rfl
@[simp] theorem State.start_railOf (s : State) (r : Nat) : s.start.railOf r = s.railOf r := rfl
@[simp] theorem State.start_scrOf (s : State) (b : Nat) : s.start.scrOf b = s.scrOf b := rfl
@[simp] theorem State.start_quadOf (s : State) (q : Nat) : s.start.quadOf q = s.quadOf q := rfl
@[simp] theorem State.start_laneOf (s : State) (l : Nat) : s.start.laneOf l = s.laneOf l := rfl
@[simp] theorem State.start_owner (s : State) (r : Nat) : s.start.owner r = s.owner r := rfl
@[simp] theorem State.start_now (s : State) : s.start.now = s.now := rfl
@[simp] theorem State.start_copy (s : State) (a d i : Nat) : s.start.copy a d i = s.copy a d i := rfl
@[simp] theorem State.start_lead (s : State) : s.start.lead = s.lead := rfl

end Sys2Proof.Machine
end

