-- ==== Sys2Proof/Laws/SMap.lean ====
section
/-! SUPPORT. The laws of the sparse arrays: a read after a write, and that every operation keeps the canonical form. -/
namespace Sys2Proof.Machine

variable {α : Type}

/-- Reading below every listed index gives the unlisted value. -/
theorem SMap.get_of_wfFrom [DecidableEq α] {dflt : Nat → α} {m : SMap α} {lo k : Nat}
    (h : SMap.wfFrom dflt lo m = true) (hk : k < lo) : SMap.get dflt m k = dflt k := by
  cases m with
  | nil => rfl
  | cons e m =>
    obtain ⟨k', v⟩ := e
    simp only [SMap.wfFrom, Bool.and_eq_true, decide_eq_true_eq] at h
    have h1 : k ≠ k' := by omega
    have h2 : k < k' := by omega
    simp [SMap.get, h1, h2]

theorem SMap.wfFrom_mono [DecidableEq α] {dflt : Nat → α} {m : SMap α} {lo lo' : Nat}
    (h : SMap.wfFrom dflt lo m = true) (hl : lo' ≤ lo) : SMap.wfFrom dflt lo' m = true := by
  cases m with
  | nil => rfl
  | cons e m =>
    obtain ⟨k', v⟩ := e
    simp only [SMap.wfFrom, Bool.and_eq_true, decide_eq_true_eq] at h ⊢
    exact ⟨⟨by omega, h.1.2⟩, h.2⟩

theorem SMap.wfFrom_del [DecidableEq α] {dflt : Nat → α} (k : Nat) :
    ∀ {m : SMap α} {lo : Nat}, SMap.wfFrom dflt lo m = true → SMap.wfFrom dflt lo (SMap.del m k) = true := by
  intro m
  induction m with
  | nil => intro lo _; rfl
  | cons e m ih =>
    obtain ⟨k', v⟩ := e
    intro lo h
    have h' := h
    simp only [SMap.wfFrom, Bool.and_eq_true, decide_eq_true_eq] at h
    unfold SMap.del
    split
    · exact SMap.wfFrom_mono (ih h.2) (by omega)
    · split
      · exact h'
      · simp only [SMap.wfFrom, Bool.and_eq_true, decide_eq_true_eq]
        exact ⟨h.1, ih h.2⟩

theorem SMap.wfFrom_put [DecidableEq α] {dflt : Nat → α} (k : Nat) (v : α) (hv : v ≠ dflt k) :
    ∀ {m : SMap α} {lo : Nat}, lo ≤ k → SMap.wfFrom dflt lo m = true → SMap.wfFrom dflt lo (SMap.put m k v) = true := by
  intro m
  induction m with
  | nil => intro lo hk _; simp [SMap.put, SMap.wfFrom, hk, hv]
  | cons e m ih =>
    obtain ⟨k', v'⟩ := e
    intro lo hk h
    simp only [SMap.wfFrom, Bool.and_eq_true, decide_eq_true_eq] at h
    unfold SMap.put
    split
    · next he => subst he; simp [SMap.wfFrom, hk, hv, h.2]
    · split
      · next hlt =>
        simp only [SMap.wfFrom, Bool.and_eq_true, decide_eq_true_eq]
        exact ⟨⟨hk, by simp [hv]⟩, ⟨hlt, h.1.2⟩, h.2⟩
      · next hne hlt =>
        simp only [SMap.wfFrom, Bool.and_eq_true, decide_eq_true_eq]
        exact ⟨h.1, ih (by omega) h.2⟩

/-- A write keeps the canonical form. -/
theorem SMap.wf_set [DecidableEq α] {dflt : Nat → α} {m : SMap α} (k : Nat) (v : α)
    (h : SMap.wf dflt m = true) : SMap.wf dflt (SMap.set dflt m k v) = true := by
  unfold SMap.set SMap.wf
  split
  · exact SMap.wfFrom_del k h
  · next hv => exact SMap.wfFrom_put k v hv (Nat.zero_le k) h

theorem SMap.get_put_self {dflt : Nat → α} (m : SMap α) (k : Nat) (v : α) :
    SMap.get dflt (SMap.put m k v) k = v := by
  induction m with
  | nil => simp [SMap.put, SMap.get]
  | cons e m ih =>
    obtain ⟨k', v'⟩ := e
    unfold SMap.put
    split
    · simp [SMap.get]
    · split
      · simp [SMap.get]
      · next h1 h2 => simp [SMap.get, h1, h2, ih]

theorem SMap.get_put_ne {dflt : Nat → α} (m : SMap α) {k j : Nat} (v : α) (hj : j ≠ k) :
    SMap.get dflt (SMap.put m k v) j = SMap.get dflt m j := by
  induction m with
  | nil => simp [SMap.put, SMap.get, hj]
  | cons e m ih =>
    obtain ⟨k', v'⟩ := e
    unfold SMap.put
    split
    · next h => subst h; simp [SMap.get, hj]
    · split
      · next h1 h2 =>
        by_cases hlt : j < k
        · have : j ≠ k' := by omega
          have : j < k' := by omega
          simp [SMap.get, *]
        · simp [SMap.get, hj, hlt]
      · simp only [SMap.get, ih]

theorem SMap.get_del_self {dflt : Nat → α} (m : SMap α) (k : Nat) : SMap.get dflt (SMap.del m k) k = dflt k := by
  induction m with
  | nil => rfl
  | cons e m ih =>
    obtain ⟨k', v'⟩ := e
    unfold SMap.del
    split
    · exact ih
    · split
      · next h1 h2 => simp [SMap.get, h1, h2]
      · next h1 h2 => simp [SMap.get, h1, h2, ih]

/-- Removing an index that no listed one is below or at changes nothing. -/
theorem SMap.del_of_wfFrom [DecidableEq α] {dflt : Nat → α} {m : SMap α} {lo k : Nat}
    (h : SMap.wfFrom dflt lo m = true) (hk : k < lo) : SMap.del m k = m := by
  cases m with
  | nil => rfl
  | cons e m =>
    obtain ⟨k', v⟩ := e
    simp only [SMap.wfFrom, Bool.and_eq_true, decide_eq_true_eq] at h
    have h1 : k ≠ k' := by omega
    have h2 : k < k' := by omega
    simp [SMap.del, h1, h2]

theorem SMap.get_del_ne [DecidableEq α] {dflt : Nat → α} {lo : Nat} (m : SMap α) {k j : Nat} (hj : j ≠ k)
    (h : SMap.wfFrom dflt lo m = true) : SMap.get dflt (SMap.del m k) j = SMap.get dflt m j := by
  induction m generalizing lo with
  | nil => rfl
  | cons e m ih =>
    obtain ⟨k', v'⟩ := e
    simp only [SMap.wfFrom, Bool.and_eq_true, decide_eq_true_eq] at h
    unfold SMap.del
    split
    · next he =>
      subst he
      rw [SMap.del_of_wfFrom h.2 (by omega)]
      by_cases hlt : j < k
      · rw [SMap.get_of_wfFrom h.2 (by omega)]; simp [SMap.get, hj, hlt]
      · simp [SMap.get, hj, hlt]
    · split
      · rfl
      · simp only [SMap.get, ih h.2]

/-- A read after a write of the same index gives the value written. -/
@[simp] theorem SMap.get_set_self [DecidableEq α] {dflt : Nat → α} (m : SMap α) (k : Nat) (v : α) :
    SMap.get dflt (SMap.set dflt m k v) k = v := by
  unfold SMap.set
  split
  · next hv => rw [SMap.get_del_self m k, hv]
  · exact SMap.get_put_self m k v

/-- A write leaves every other index alone. -/
theorem SMap.get_set_ne [DecidableEq α] {dflt : Nat → α} {m : SMap α} {k j : Nat} (v : α) (hj : j ≠ k)
    (h : SMap.wf dflt m = true) : SMap.get dflt (SMap.set dflt m k v) j = SMap.get dflt m j := by
  unfold SMap.set
  split
  · exact SMap.get_del_ne m hj h
  · exact SMap.get_put_ne m v hj

theorem SMap.wfFrom_filter [DecidableEq α] {dflt : Nat → α} (p : Nat × α → Bool) :
    ∀ {m : SMap α} {lo : Nat}, SMap.wfFrom dflt lo m = true → SMap.wfFrom dflt lo (m.filter p) = true := by
  intro m
  induction m with
  | nil => intro lo h; exact h
  | cons e m ih =>
    obtain ⟨k', v⟩ := e
    intro lo h
    simp only [SMap.wfFrom, Bool.and_eq_true, decide_eq_true_eq] at h
    rw [List.filter_cons]
    split
    · simp only [SMap.wfFrom, Bool.and_eq_true, decide_eq_true_eq]; exact ⟨h.1, ih h.2⟩
    · exact SMap.wfFrom_mono (ih h.2) (by omega)

/-- Dropping entries keeps the canonical form. -/
theorem SMap.wf_filter [DecidableEq α] {dflt : Nat → α} {m : SMap α} (p : Nat × α → Bool)
    (h : SMap.wf dflt m = true) : SMap.wf dflt (m.filter p) = true := SMap.wfFrom_filter p h

/-- Writing bytes in ascending order keeps the canonical form of a byte memory. -/
theorem Memory.wf_writeN {u : Byte} : ∀ (bs : List Byte) {m : Memory} (a : Nat),
    Memory.wf u m = true → Memory.wf u (Memory.writeN u m a bs) = true
  | [], _, _, h => h
  | b :: bs, _, a, h => Memory.wf_writeN bs (a + 1) (SMap.wf_set a b h)

/-- Writing bytes leaves every address below them alone. -/
theorem Memory.read_writeN_lt {u : Byte} : ∀ (bs : List Byte) {m : Memory} (a : Nat) {x : Nat},
    Memory.wf u m = true → x < a → Memory.read u (Memory.writeN u m a bs) x = Memory.read u m x
  | [], _, _, _, _, _ => rfl
  | b :: bs, m, a, x, h, hx => by
    have h1 := Memory.read_writeN_lt bs (m := Memory.write u m a b) (a + 1) (x := x) (SMap.wf_set a b h) (by omega)
    rw [Memory.writeN, h1]
    exact SMap.get_set_ne b (by omega) h

/-- Writing bytes leaves every address outside them alone. -/
theorem Memory.read_writeN_ge {u : Byte} : ∀ (bs : List Byte) {m : Memory} (a : Nat) {x : Nat},
    Memory.wf u m = true → a + bs.length ≤ x → Memory.read u (Memory.writeN u m a bs) x = Memory.read u m x
  | [], _, _, _, _, _ => rfl
  | b :: bs, m, a, x, h, hx => by
    simp only [List.length_cons] at hx
    have h1 := Memory.read_writeN_ge bs (m := Memory.write u m a b) (a + 1) (x := x) (SMap.wf_set a b h) (by omega)
    rw [Memory.writeN, h1]
    exact SMap.get_set_ne b (by omega) h

/-- The bytes written read back. -/
theorem Memory.readN_writeN {u : Byte} : ∀ (bs : List Byte) {m : Memory} (a : Nat),
    Memory.wf u m = true → Memory.readN u (Memory.writeN u m a bs) a bs.length = bs
  | [], _, _, _ => rfl
  | b :: bs, m, a, h => by
    have hw : Memory.wf u (Memory.write u m a b) = true := SMap.wf_set a b h
    have h0 : Memory.read u (Memory.writeN u m a (b :: bs)) a = b := by
      rw [Memory.writeN, Memory.read_writeN_lt bs (a + 1) hw (by omega)]
      exact SMap.get_set_self m a b
    rw [List.length_cons, Memory.readN, h0, Memory.writeN, Memory.readN_writeN bs (a + 1) hw]

end Sys2Proof.Machine
end

