-- ==== Sys2Proof/Laws/Keeps.lean ====
section
/-! SUPPORT. Two relations between the states before and after an operation, and how they compose: `Keeps`, which all
operations but those of the life cycle obey, and the weaker `Evolves`, which every operation obeys. -/
namespace Sys2Proof.Machine

/-- The operation leaves the queue, the clock of the model, the OTP and the life-cycle state as they are, and the byte
memories in canonical form. -/
structure Keeps (s t : State) : Prop where
  pending : t.pending = s.pending
  uptime : t.uptime = s.uptime
  otp : t.lcs.otp = s.lcs.otp
  imgKey : t.lcs.imgKey = s.lcs.imgKey
  kek : t.lcs.kek = s.lcs.kek
  state : t.lcs.state = s.lcs.state
  mem : MemWf s → MemWf t

/-- The operation leaves the queue and the clock of the model as they are, clears no OTP bit, and keeps the life-cycle
state legal and the byte memories in canonical form. -/
structure Evolves (s t : State) : Prop where
  pending : t.pending = s.pending
  uptime : t.uptime = s.uptime
  otpWf : OtpWf s → OtpWf t
  otp : OtpWf s → OtpKept s t
  state : LcOk s → LcOk t
  mem : MemWf s → MemWf t

theorem Keeps.refl (s : State) : Keeps s s := ⟨rfl, rfl, rfl, rfl, rfl, rfl, id⟩

theorem Keeps.trans {s t u : State} (h : Keeps s t) (g : Keeps t u) : Keeps s u :=
  ⟨g.1.trans h.1, g.2.trans h.2, g.3.trans h.3, g.4.trans h.4, g.5.trans h.5, g.6.trans h.6, fun m => g.7 (h.7 m)⟩

/-- A change of fields that the relation does not name. -/
theorem Keeps.upd {s t : State} (h1 : t.pending = s.pending) (h2 : t.uptime = s.uptime) (h3 : t.lcs.otp = s.lcs.otp)
    (h4 : t.lcs.imgKey = s.lcs.imgKey) (h5 : t.lcs.kek = s.lcs.kek) (h6 : t.lcs.state = s.lcs.state)
    (h7 : t.mc.ram = s.mc.ram) (h8 : t.nv.arr = s.nv.arr) : Keeps s t :=
  ⟨h1, h2, h3, h4, h5, h6, fun m => by unfold MemWf at *; rw [h7, h8]; exact m⟩

/-- A change of the byte memories that keeps their form. -/
theorem Keeps.memUpd {s t : State} (h1 : t.pending = s.pending) (h2 : t.uptime = s.uptime) (h3 : t.lcs.otp = s.lcs.otp)
    (h4 : t.lcs.imgKey = s.lcs.imgKey) (h5 : t.lcs.kek = s.lcs.kek) (h6 : t.lcs.state = s.lcs.state)
    (h7 : Memory.wf 0 s.mc.ram = true → Memory.wf 0 t.mc.ram = true)
    (h8 : Memory.wf 0xFF s.nv.arr = true → Memory.wf 0xFF t.nv.arr = true) : Keeps s t :=
  ⟨h1, h2, h3, h4, h5, h6, fun m => ⟨h7 m.1, h8 m.2⟩⟩

/-- A change of fields that the relation does not name, of a state written out field by field. -/
theorem Keeps.mk8 {s : State} {free out ten copies design boot cfg scr noc pci mac xcv port tbs rfx uan mc nv pwr bst lcs clk smn fab}
    (h3 : lcs.otp = s.lcs.otp) (h4 : lcs.imgKey = s.lcs.imgKey) (h5 : lcs.kek = s.lcs.kek)
    (h6 : lcs.state = s.lcs.state) (h7 : mc.ram = s.mc.ram) (h8 : nv.arr = s.nv.arr) :
    Keeps s (State.mk s.pending s.uptime free out ten copies design boot cfg scr noc pci mac xcv port tbs rfx uan mc nv pwr bst lcs clk smn fab) :=
  .upd rfl rfl h3 h4 h5 h6 h7 h8

theorem OtpKept.refl (s : State) : OtpKept s s := ⟨fun _ _ h => h, fun _ h => h, fun _ h => h⟩

theorem OtpKept.trans {s t u : State} (h : OtpKept s t) (g : OtpKept t u) : OtpKept s u :=
  ⟨fun w i x => g.1 w i (h.1 w i x), fun i x => g.2.1 i (h.2.1 i x), fun i x => g.2.2 i (h.2.2 i x)⟩

theorem OtpKept.of_eq {s t : State} (h3 : t.lcs.otp = s.lcs.otp) (h4 : t.lcs.imgKey = s.lcs.imgKey)
    (h5 : t.lcs.kek = s.lcs.kek) : OtpKept s t := by
  unfold OtpKept otpBit; rw [h3, h4, h5]; exact ⟨fun _ _ h => h, fun _ h => h, fun _ h => h⟩

theorem Keeps.evolves {s t : State} (h : Keeps s t) : Evolves s t :=
  ⟨h.pending, h.uptime, fun m => by unfold OtpWf at *; rw [h.otp]; exact m, fun _ => OtpKept.of_eq h.otp h.imgKey h.kek,
    fun m => by unfold LcOk at *; rw [h.state]; exact m, h.mem⟩

theorem Evolves.refl (s : State) : Evolves s s := (Keeps.refl s).evolves

theorem Evolves.trans {s t u : State} (h : Evolves s t) (g : Evolves t u) : Evolves s u :=
  ⟨g.1.trans h.1, g.2.trans h.2, fun m => g.3 (h.3 m), fun m => (h.4 m).trans (g.4 (h.3 m)), fun m => g.5 (h.5 m),
    fun m => g.6 (h.6 m)⟩

theorem Evolves.upd {s t : State} (h1 : t.pending = s.pending) (h2 : t.uptime = s.uptime) (h3 : t.lcs.otp = s.lcs.otp)
    (h4 : t.lcs.imgKey = s.lcs.imgKey) (h5 : t.lcs.kek = s.lcs.kek) (h6 : t.lcs.state = s.lcs.state)
    (h7 : t.mc.ram = s.mc.ram) (h8 : t.nv.arr = s.nv.arr) : Evolves s t := (Keeps.upd h1 h2 h3 h4 h5 h6 h7 h8).evolves

theorem Keeps.step {s t u : State} (g : Keeps t u) (h : Keeps s t) : Keeps s u := h.trans g

theorem Evolves.step {s t u : State} (g : Evolves t u) (h : Evolves s t) : Evolves s u := h.trans g

/-! ## Folds and choices -/

theorem Memory.wf_foldl {α : Type} {u : Byte} {f : α → Nat} {g : α → Byte} : ∀ (l : List α) {m : Memory},
    Memory.wf u m = true → Memory.wf u (l.foldl (fun m a => Memory.write u m (f a) (g a)) m) = true
  | [], _, h => h
  | a :: l, _, h => Memory.wf_foldl l (SMap.wf_set (f a) (g a) h)

theorem Keeps.foldl {α : Type} {g : State → α → State} (hg : ∀ s a, Keeps s (g s a)) :
    ∀ (l : List α) (s : State), Keeps s (l.foldl g s)
  | [], s => .refl s
  | a :: l, s => (hg s a).trans (Keeps.foldl hg l (g s a))

theorem Keeps.foldlSnd {α β : Type} {g : β × State → α → β × State} (hg : ∀ p a, Keeps p.2 (g p a).2) :
    ∀ (l : List α) (p : β × State), Keeps p.2 (l.foldl g p).2
  | [], p => .refl p.2
  | a :: l, p => (hg p a).trans (Keeps.foldlSnd hg l (g p a))

theorem Keeps.foldlFst {α β : Type} {g : State × β → α → State × β} (hg : ∀ p a, Keeps p.1 (g p a).1) :
    ∀ (l : List α) (p : State × β), Keeps p.1 (l.foldl g p).1
  | [], p => .refl p.1
  | a :: l, p => (hg p a).trans (Keeps.foldlFst hg l (g p a))

theorem Evolves.foldl {α : Type} {g : State → α → State} (hg : ∀ s a, Evolves s (g s a)) :
    ∀ (l : List α) (s : State), Evolves s (l.foldl g s)
  | [], s => .refl s
  | a :: l, s => (hg s a).trans (Evolves.foldl hg l (g s a))

theorem Keeps.ite {s t u : State} {c : Prop} [Decidable c] (ht : Keeps s t) (hu : Keeps s u) :
    Keeps s (if c then t else u) := by split <;> assumption

/-- Taking a packet out of those under way. -/
theorem takeFlight_keeps {s t : State} {p : Pkt} (h : takeFlight s p = some t) : Keeps s t := by
  unfold takeFlight at h
  dsimp only at h
  split at h
  · split at h
    · split at h
      · cases h; exact .upd rfl rfl rfl rfl rfl rfl rfl rfl
      · cases h
    · cases h
  · split at h
    · cases h; exact .upd rfl rfl rfl rfl rfl rfl rfl rfl
    · cases h

theorem Evolves.ite {s t u : State} {c : Prop} [Decidable c] (ht : Evolves s t) (hu : Evolves s u) :
    Evolves s (if c then t else u) := by split <;> assumption

end Sys2Proof.Machine
end

