-- ==== Sys2Proof/Laws/KOps.lean ====
section
/-! SUPPORT. The operations of Machine/Ops.lean keep what `Keeps` names. -/
namespace Sys2Proof.Machine
open Sys2Proof

theorem State.setCopy_keeps (s : State) (acc : Nat) (addr : Nat) (inst : Nat) (v : Word) : Keeps s (State.setCopy s acc addr inst v) := by
  unfold State.setCopy
  repeat' with_reducible first
    | exact Keeps.refl _ | intro _ | apply Keeps.foldl | split | dsimp only | apply Keeps.step (Keeps.foldl ..)
    | apply Keeps.step (Keeps.mk8 ..)

theorem State.raiseAll_keeps (s : State) (addr : Nat) (inst : Nat) (v : Word) : Keeps s (State.raiseAll s addr inst v) := by
  unfold State.raiseAll
  repeat' with_reducible first
    | exact Keeps.refl _ | intro _ | apply Keeps.foldl | split | dsimp only | apply Keeps.step (Keeps.foldl ..)
    | apply Keeps.step (Keeps.mk8 ..)

theorem State.raiseFor_keeps (s : State) (accs : List Nat) (addr : Nat) (inst : Nat) (v : Word) : Keeps s (State.raiseFor s accs addr inst v) := by
  unfold State.raiseFor
  repeat' with_reducible first
    | exact Keeps.refl _ | intro _ | apply Keeps.foldl | split | dsimp only | apply Keeps.step (Keeps.foldl ..)
    | apply Keeps.step (Keeps.mk8 ..)

theorem State.clearCopy_keeps (s : State) (acc : Nat) (addr : Nat) (inst : Nat) (v : Word) : Keeps s (State.clearCopy s acc addr inst v) := by
  unfold State.clearCopy
  repeat' with_reducible first
    | exact Keeps.refl _ | intro _ | apply Keeps.foldl | apply Keeps.step (State.setCopy_keeps ..)

theorem State.setPort_keeps (s : State) (n : Nat) (p : Port) : Keeps s (State.setPort s n p) := by
  unfold State.setPort
  repeat' with_reducible first
    | exact Keeps.refl _ | intro _ | apply Keeps.foldl | split | dsimp only | apply Keeps.step (Keeps.foldl ..)
    | apply Keeps.step (Keeps.mk8 ..)

theorem State.setMac_keeps (s : State) (n : Nat) (m : Mac) : Keeps s (State.setMac s n m) := by
  unfold State.setMac
  repeat' with_reducible first
    | exact Keeps.refl _ | intro _ | apply Keeps.foldl | split | dsimp only | apply Keeps.step (Keeps.foldl ..)
    | apply Keeps.step (Keeps.mk8 ..)

theorem State.setPci_keeps (s : State) (n : Nat) (p : Pci) : Keeps s (State.setPci s n p) := by
  unfold State.setPci
  repeat' with_reducible first
    | exact Keeps.refl _ | intro _ | apply Keeps.foldl | split | dsimp only | apply Keeps.step (Keeps.foldl ..)
    | apply Keeps.step (Keeps.mk8 ..)

theorem State.setMbx_keeps (s : State) (d : Nat) (m : Mbx) : Keeps s (State.setMbx s d m) := by
  unfold State.setMbx
  repeat' with_reducible first
    | exact Keeps.refl _ | intro _ | apply Keeps.foldl | split | dsimp only | apply Keeps.step (Keeps.foldl ..)
    | apply Keeps.step (Keeps.mk8 ..)

theorem State.setLoad_keeps (s : State) (n : Nat) (l : Load) : Keeps s (State.setLoad s n l) := by
  unfold State.setLoad
  repeat' with_reducible first
    | exact Keeps.refl _ | intro _ | apply Keeps.foldl | split | dsimp only | apply Keeps.step (Keeps.foldl ..)
    | apply Keeps.step (Keeps.mk8 ..)

theorem State.setFrame_keeps (s : State) (k : Nat) (f : Frame) : Keeps s (State.setFrame s k f) := by
  unfold State.setFrame
  repeat' with_reducible first
    | exact Keeps.refl _ | intro _ | apply Keeps.foldl | split | dsimp only | apply Keeps.step (Keeps.foldl ..)
    | apply Keeps.step (Keeps.mk8 ..)

theorem State.setRegion_keeps (s : State) (r : Nat) (g : Region) : Keeps s (State.setRegion s r g) := by
  unfold State.setRegion
  repeat' with_reducible first
    | exact Keeps.refl _ | intro _ | apply Keeps.foldl | split | dsimp only | apply Keeps.step (Keeps.foldl ..)
    | apply Keeps.step (Keeps.mk8 ..)

theorem State.setTarget_keeps (s : State) (t : Nat) (g : Target) : Keeps s (State.setTarget s t g) := by
  unfold State.setTarget
  repeat' with_reducible first
    | exact Keeps.refl _ | intro _ | apply Keeps.foldl | split | dsimp only | apply Keeps.step (Keeps.foldl ..)
    | apply Keeps.step (Keeps.mk8 ..)

theorem State.setRing_keeps (s : State) (r : Nat) (g : Ring) : Keeps s (State.setRing s r g) := by
  unfold State.setRing
  repeat' with_reducible first
    | exact Keeps.refl _ | intro _ | apply Keeps.foldl | split | dsimp only | apply Keeps.step (Keeps.foldl ..)
    | apply Keeps.step (Keeps.mk8 ..)

theorem State.setTable_keeps (s : State) (t : Nat) (g : RTable) : Keeps s (State.setTable s t g) := by
  unfold State.setTable
  repeat' with_reducible first
    | exact Keeps.refl _ | intro _ | apply Keeps.foldl | split | dsimp only | apply Keeps.step (Keeps.foldl ..)
    | apply Keeps.step (Keeps.mk8 ..)

theorem State.setMap_keeps (s : State) (e : Nat) (m : MapEntry) : Keeps s (State.setMap s e m) := by
  unfold State.setMap
  repeat' with_reducible first
    | exact Keeps.refl _ | intro _ | apply Keeps.foldl | split | dsimp only | apply Keeps.step (Keeps.foldl ..)
    | apply Keeps.step (Keeps.mk8 ..)

theorem State.setPll_keeps (s : State) (p : Nat) (g : Pll) : Keeps s (State.setPll s p g) := by
  unfold State.setPll
  repeat' with_reducible first
    | exact Keeps.refl _ | intro _ | apply Keeps.foldl | split | dsimp only | apply Keeps.step (Keeps.foldl ..)
    | apply Keeps.step (Keeps.mk8 ..)

theorem State.setChan_keeps (s : State) (c : Nat) (g : Chan) : Keeps s (State.setChan s c g) := by
  unfold State.setChan
  repeat' with_reducible first
    | exact Keeps.refl _ | intro _ | apply Keeps.foldl | split | dsimp only | apply Keeps.step (Keeps.foldl ..)
    | apply Keeps.step (Keeps.mk8 ..)

theorem State.setBank_keeps (s : State) (b : Nat) (g : Bank) : Keeps s (State.setBank s b g) := by
  unfold State.setBank
  repeat' with_reducible first
    | exact Keeps.refl _ | intro _ | apply Keeps.foldl | split | dsimp only | apply Keeps.step (Keeps.foldl ..)
    | apply Keeps.step (Keeps.mk8 ..)

theorem State.setQ_keeps (s : State) (q : Nat) (g : NvQ) : Keeps s (State.setQ s q g) := by
  unfold State.setQ
  repeat' with_reducible first
    | exact Keeps.refl _ | intro _ | apply Keeps.foldl | split | dsimp only | apply Keeps.step (Keeps.foldl ..)
    | apply Keeps.step (Keeps.mk8 ..)

theorem State.setRange_keeps (s : State) (r : Nat) (g : NvRange) : Keeps s (State.setRange s r g) := by
  unfold State.setRange
  repeat' with_reducible first
    | exact Keeps.refl _ | intro _ | apply Keeps.foldl | split | dsimp only | apply Keeps.step (Keeps.foldl ..)
    | apply Keeps.step (Keeps.mk8 ..)

theorem State.setBand_keeps (s : State) (b : Nat) (g : BandP) : Keeps s (State.setBand s b g) := by
  unfold State.setBand
  repeat' with_reducible first
    | exact Keeps.refl _ | intro _ | apply Keeps.foldl | split | dsimp only | apply Keeps.step (Keeps.foldl ..)
    | apply Keeps.step (Keeps.mk8 ..)

theorem State.setRail_keeps (s : State) (r : Nat) (g : Rail) : Keeps s (State.setRail s r g) := by
  unfold State.setRail
  repeat' with_reducible first
    | exact Keeps.refl _ | intro _ | apply Keeps.foldl | split | dsimp only | apply Keeps.step (Keeps.foldl ..)
    | apply Keeps.step (Keeps.mk8 ..)

theorem State.setScr_keeps (s : State) (b : Nat) (g : ScrBand) : Keeps s (State.setScr s b g) := by
  unfold State.setScr
  repeat' with_reducible first
    | exact Keeps.refl _ | intro _ | apply Keeps.foldl | split | dsimp only | apply Keeps.step (Keeps.foldl ..)
    | apply Keeps.step (Keeps.mk8 ..)

theorem State.setQuad_keeps (s : State) (q : Nat) (g : Quad) : Keeps s (State.setQuad s q g) := by
  unfold State.setQuad
  repeat' with_reducible first
    | exact Keeps.refl _ | intro _ | apply Keeps.foldl | split | dsimp only | apply Keeps.step (Keeps.foldl ..)
    | apply Keeps.step (Keeps.mk8 ..)

theorem State.setLane_keeps (s : State) (l : Nat) (g : Lane) : Keeps s (State.setLane s l g) := by
  unfold State.setLane
  repeat' with_reducible first
    | exact Keeps.refl _ | intro _ | apply Keeps.foldl | split | dsimp only | apply Keeps.step (Keeps.foldl ..)
    | apply Keeps.step (Keeps.mk8 ..)

theorem State.emit_keeps (s : State) (o : Out) : Keeps s (State.emit s o) := by
  unfold State.emit
  repeat' with_reducible first
    | exact Keeps.refl _ | intro _ | apply Keeps.foldl | split | dsimp only | apply Keeps.step (Keeps.foldl ..)
    | apply Keeps.step (Keeps.mk8 ..)

theorem State.takeFree_keeps (s : State) : Keeps s (State.takeFree s) := by
  unfold State.takeFree
  repeat' with_reducible first
    | exact Keeps.refl _ | intro _ | apply Keeps.foldl | split | dsimp only | apply Keeps.step (Keeps.foldl ..)
    | apply Keeps.step (Keeps.mk8 ..)

theorem mcPost_fold_ram (e : REntry) : ∀ (l : List Nat) (m : Mc), (l.foldl (mcPost e) m).ram = m.ram
  | [], _ => rfl
  | d :: l, m => (mcPost_fold_ram e l (mcPost e m d)).trans rfl

theorem State.post_keeps (s : State) (ds : List Nat) (block : Nat) (st : Status) (kind detail object : Nat) :
    Keeps s (State.post s ds block st kind detail object) :=
  .upd rfl rfl rfl rfl rfl rfl (mcPost_fold_ram _ _ _) rfl

theorem State.policy_keeps (s : State) (st : Status) (loop : Nat) (item : Nat) (value : Nat) : Keeps s (State.policy s st loop item value) := by
  unfold State.policy
  repeat' with_reducible first
    | exact Keeps.refl _ | intro _ | apply Keeps.foldl | split | dsimp only | apply Keeps.step (Keeps.foldl ..)
    | apply Keeps.step (Keeps.mk8 ..)

theorem State.vector_keeps (s : State) (p : Nat) (v : Nat) : Keeps s (State.vector s p v) := by
  unfold State.vector
  repeat' with_reducible first
    | exact Keeps.refl _ | intro _ | apply Keeps.foldl | split | dsimp only | apply Keeps.step (Keeps.foldl ..)
    | apply Keeps.step (Keeps.mk8 ..)

theorem sppDrive_keeps (a : State) (s : State) : Keeps s (sppDrive a s) := by
  unfold sppDrive
  repeat' with_reducible first
    | exact Keeps.refl _ | intro _ | apply Keeps.foldl | apply Keeps.step (State.emit_keeps ..) | split

theorem interrupts_keeps (s' : State) (s : State) : Keeps s (interrupts s' s) := by
  unfold interrupts
  repeat' with_reducible first
    | exact Keeps.refl _ | intro _ | apply Keeps.foldl | apply Keeps.step (State.vector_keeps ..)
    | apply Keeps.step (sppDrive_keeps ..) | split | dsimp only | apply Keeps.step (Keeps.foldl ..)

end Sys2Proof.Machine
end

