-- ==== Sys2Proof/Laws/KGeometry.lean ====
section
/-! SUPPORT. The operations of Machine/Geometry.lean keep what `Keeps` names. -/
namespace Sys2Proof.Machine
open Sys2Proof

theorem State.refresh_keeps (s : State) : Keeps s (State.refresh s) := by
  unfold State.refresh
  repeat' with_reducible first
    | exact Keeps.refl _ | intro _ | apply Keeps.foldl | split | dsimp only | apply Keeps.step (Keeps.foldl ..)
    | apply Keeps.step (Keeps.mk8 ..)

end Sys2Proof.Machine
end

