-- ==== Sys2Proof/Laws/KFabricOps.lean ====
section
/-! SUPPORT. The operations of Machine/FabricOps.lean keep what `Keeps` names. -/
namespace Sys2Proof.Machine
open Sys2Proof

theorem gsrFabric_keeps (s : State) (p : Nat → Nat → Bool) : Keeps s (gsrFabric s p) := by
  unfold gsrFabric
  repeat' with_reducible first
    | exact Keeps.refl _ | intro _ | apply Keeps.foldl | split | dsimp only | apply Keeps.step (Keeps.foldl ..)
    | apply Keeps.step (Keeps.mk8 ..)

theorem ramFabric_keeps (s : State) (p : Nat → Nat → Bool) : Keeps s (ramFabric s p) := by
  unfold ramFabric
  repeat' with_reducible first
    | exact Keeps.refl _ | intro _ | apply Keeps.foldl | split | dsimp only | apply Keeps.step (Keeps.foldl ..)
    | apply Keeps.step (Keeps.mk8 ..)

end Sys2Proof.Machine
end

