-- ==== Sys2Proof/Laws/KMailbox.lean ====
section
/-! SUPPORT. The operations of Machine/Mailbox.lean keep what `Keeps` names. -/
namespace Sys2Proof.Machine
open Sys2Proof

theorem putCpl_keeps (s : State) (h : Held) : Keeps s (putCpl s h) := by
  have h1 : Keeps s { s with
      mc := { s.mc with
        ram := Memory.writeN 0 s.mc.ram (mbxBase h.d + 0x1000 + 0x20 * ((s.mbxOf h.d).cplTail % 64))
          (cplBytes h (s.mbxOf h.d).cplTail)
        mbx := SMap.set dMbx s.mc.mbx h.d { s.mbxOf h.d with
          cplTail := ((s.mbxOf h.d).cplTail + 1) % 128, last := h.status, intSt := (s.mbxOf h.d).intSt ||| 1#32 } }
      out := s.out ++ [.completion h.d h.tag h.status] } :=
    .memUpd rfl rfl rfl rfl rfl rfl (Memory.wf_writeN _ _) id
  exact .ite (h1.trans (State.vector_keeps ..)) h1

theorem postCpl_keeps (s : State) (h : Held) : Keeps s (postCpl s h) := by
  unfold postCpl
  repeat' with_reducible first
    | exact Keeps.refl _ | intro _ | apply Keeps.foldl | apply Keeps.step (putCpl_keeps ..) | split | dsimp only
    | apply Keeps.step (Keeps.foldl ..) | apply Keeps.step (Keeps.mk8 ..)

theorem drainHeld_keeps : ∀ (n : Nat) (s : State) (d : Nat), Keeps s (drainHeld n s d)
  | 0, s, _ => .refl s
  | n + 1, s, d => by
    unfold drainHeld
    repeat' with_reducible first
    | exact Keeps.refl _ | apply Keeps.step (drainHeld_keeps n ..) | apply Keeps.step (putCpl_keeps ..) | dsimp only
    | split | apply Keeps.step (Keeps.mk8 ..)

theorem addReport_keeps (s : State) (readers : List Nat) (cap : Nat) (cs : List Clamp) : Keeps s (addReport s readers cap cs).2 := by
  unfold addReport
  repeat' with_reducible first
    | exact Keeps.refl _ | intro _ | apply Keeps.foldl | split | dsimp only | apply Keeps.step (Keeps.foldl ..)
    | apply Keeps.step (Keeps.mk8 ..)

theorem finish_keeps (c : RunCmd) (st : Status) (block : Nat) (cs : List Clamp) (res : List Word) (s : State) : Keeps s (finish c st block cs res s) := by
  unfold finish
  repeat' with_reducible first
    | exact Keeps.refl _ | intro _ | apply Keeps.foldl | apply Keeps.step (addReport_keeps ..)
    | apply Keeps.step (postCpl_keeps ..)

theorem waitCmd_keeps (c : RunCmd) (cs : List Clamp) (s : State) : Keeps s (waitCmd c cs s) := by
  unfold waitCmd
  repeat' with_reducible first
    | exact Keeps.refl _ | intro _ | apply Keeps.foldl | apply Keeps.step (addReport_keeps ..) | split | dsimp only
    | apply Keeps.step (Keeps.foldl ..) | apply Keeps.step (Keeps.mk8 ..)

theorem endCmd_keeps (r : CmdRef) (st : Status) (block : Nat) (res : List Word) (s : State) : Keeps s (endCmd r st block res s) := by
  unfold endCmd
  repeat' with_reducible first
    | exact Keeps.refl _ | intro _ | apply Keeps.foldl | apply Keeps.step (postCpl_keeps ..) | split | dsimp only
    | apply Keeps.step (Keeps.foldl ..) | apply Keeps.step (Keeps.mk8 ..)

theorem endCmd?_keeps (r : Option CmdRef) (st : Status) (block : Nat) (res : List Word) (s : State) : Keeps s (endCmd? r st block res s) := by
  unfold endCmd?
  repeat' with_reducible first
    | exact Keeps.refl _ | intro _ | apply Keeps.foldl | apply Keeps.step (endCmd_keeps ..) | split

theorem takeEntry_keeps (s : State) (d : Nat) : Keeps s (takeEntry s d) := by
  unfold takeEntry
  repeat' with_reducible first
    | exact Keeps.refl _ | intro _ | apply Keeps.foldl | apply Keeps.step (State.setMbx_keeps ..) | split | dsimp only
    | apply Keeps.step (Keeps.foldl ..) | apply Keeps.step (Keeps.mk8 ..)

theorem serveUnknown_keeps : ∀ (n : Nat) (s : State), Keeps s (serveUnknown n s)
  | 0, s => .refl s
  | n + 1, s => by
    unfold serveUnknown
    split
    · exact .refl s
    · exact .ite (.refl s) (((takeEntry_keeps s _).trans (finish_keeps ..)).trans (serveUnknown_keeps n _))

theorem serveRest_keeps (s : State) : Keeps s (serveRest s) := serveUnknown_keeps 320 s

theorem serve_keeps (d : Nat) (op : Nat) (iss : Issuer) (body : RunCmd → State → State) (s : State)
    (hbody : ∀ a0 a1, Keeps a1 (body a0 a1)) : Keeps s (serve d op iss body s) := by
  have h1 := takeEntry_keeps s d
  unfold serve
  refine .ite (.step (serveRest_keeps _) ?_) (.refl s)
  exact .ite (h1.trans (finish_keeps ..)) (.ite (h1.trans (finish_keeps ..)) (.ite (h1.trans (finish_keeps ..))
    (.ite (h1.trans (finish_keeps ..)) (h1.trans (hbody ..)))))

theorem noteCmd_keeps (s : State) (n : Nat) : Keeps s (noteCmd s n) := by
  unfold noteCmd
  repeat' with_reducible first
    | exact Keeps.refl _ | intro _ | apply Keeps.foldl | split | dsimp only | apply Keeps.step (Keeps.foldl ..)
    | apply Keeps.step (Keeps.mk8 ..)

theorem writeBuf_keeps (s : State) (c : RunCmd) (off : Nat) (bs : List Byte) : Keeps s (writeBuf s c off bs) :=
  .memUpd rfl rfl rfl rfl rfl rfl (Memory.wf_writeN bs _) id

end Sys2Proof.Machine
end

