-- ==== Sys2Proof/Laws/KPowerOps.lean ====
section
/-! SUPPORT. The operations of Machine/PowerOps.lean keep what `Keeps` names. -/
namespace Sys2Proof.Machine
open Sys2Proof

theorem setBandEntry_keeps (s : State) (b : Nat) (e : Option Entry) : Keeps s (setBandEntry s b e) := by
  unfold setBandEntry
  repeat' with_reducible first
    | exact Keeps.refl _ | intro _ | apply Keeps.foldl | apply Keeps.step (State.setBand_keeps ..)

theorem idleBackoff_keeps (s : State) (b : Nat) : Keeps s (idleBackoff s b) := by
  unfold idleBackoff
  repeat' with_reducible first
    | exact Keeps.refl _ | intro _ | apply Keeps.foldl | split | dsimp only | apply Keeps.step (Keeps.foldl ..)
    | apply Keeps.step (Keeps.mk8 ..)

theorem refuseWith_keeps (s : State) (dev : Bool) (b : Nat) (e : Entry) (blk : Nat) (reason : Nat) : Keeps s (refuseWith s dev b e blk reason) := by
  unfold refuseWith
  repeat' with_reducible first
    | exact Keeps.refl _ | intro _ | apply Keeps.foldl | apply Keeps.step (setBandEntry_keeps ..)
    | apply Keeps.step (State.emit_keeps ..) | apply Keeps.step (endCmd_keeps ..)
    | apply Keeps.step (State.raiseFor_keeps ..) | apply Keeps.step (idleBackoff_keeps ..)
    | apply Keeps.step (State.policy_keeps ..) | apply Keeps.step (State.post_keeps ..) | split | dsimp only
    | apply Keeps.step (Keeps.foldl ..) | apply Keeps.step (Keeps.mk8 ..)

theorem refuseBand_keeps (s : State) (b : Nat) (blk : Nat) (reason : Nat) : Keeps s (refuseBand s b blk reason) := by
  unfold refuseBand
  repeat' with_reducible first
    | exact Keeps.refl _ | intro _ | apply Keeps.foldl | apply Keeps.step (refuseWith_keeps ..) | split

theorem refuseDev_keeps (s : State) (blk : Nat) (reason : Nat) : Keeps s (refuseDev s blk reason) := by
  unfold refuseDev
  repeat' with_reducible first
    | exact Keeps.refl _ | intro _ | apply Keeps.foldl | apply Keeps.step (refuseWith_keeps ..) | split

theorem saveBand_keeps (s : State) (b : Nat) : Keeps s (saveBand s b) := by
  unfold saveBand
  repeat' with_reducible first
    | exact Keeps.refl _ | intro _ | apply Keeps.foldl | split | dsimp only | apply Keeps.step (Keeps.foldl ..)
    | apply Keeps.step (Keeps.mk8 ..)

theorem loadBand_keeps (s : State) (b : Nat) : Keeps s (loadBand s b) := by
  unfold loadBand
  repeat' with_reducible first
    | exact Keeps.refl _ | intro _ | apply Keeps.foldl | split | dsimp only | apply Keeps.step (Keeps.foldl ..)
    | apply Keeps.step (Keeps.mk8 ..)

theorem initBand_keeps (s : State) (b : Nat) : Keeps s (initBand s b) := by
  unfold initBand
  repeat' with_reducible first
    | exact Keeps.refl _ | intro _ | apply Keeps.foldl | apply Keeps.step (gsrFabric_keeps ..)

theorem dropBand_keeps (s : State) (b : Nat) : Keeps s (dropBand s b) := by
  unfold dropBand
  repeat' with_reducible first
    | exact Keeps.refl _ | intro _ | apply Keeps.foldl | split | dsimp only | apply Keeps.step (Keeps.foldl ..)
    | apply Keeps.step (Keeps.mk8 ..)

theorem releaseHeld_keeps (s : State) (b : Nat) : Keeps s (releaseHeld s b) := by
  unfold releaseHeld
  repeat' with_reducible first
    | exact Keeps.refl _ | intro _ | apply Keeps.foldl | apply Keeps.step (State.setTable_keeps ..)
    | apply Keeps.step (State.emit_keeps ..) | split | dsimp only

theorem openIngress_keeps (s : State) (b : Nat) (paused : Nat) : Keeps s (openIngress s b paused) := by
  unfold openIngress
  repeat' with_reducible first
    | exact Keeps.refl _ | intro _ | apply Keeps.foldl | split | dsimp only | apply Keeps.step (Keeps.foldl ..)
    | apply Keeps.step (Keeps.mk8 ..)

theorem bandOn_keeps (s : State) (b : Nat) : Keeps s (bandOn s b) := by
  unfold bandOn
  repeat' with_reducible first
    | exact Keeps.refl _ | intro _ | apply Keeps.foldl | apply Keeps.step (State.setBand_keeps ..)
    | apply Keeps.step (State.setScr_keeps ..) | apply Keeps.step (endCmd?_keeps ..)
    | apply Keeps.step (openIngress_keeps ..) | apply Keeps.step (releaseHeld_keeps ..)
    | apply Keeps.step (State.raiseAll_keeps ..) | split

theorem wakeBand_keeps (s : State) (b : Nat) : Keeps s (wakeBand s b) := by
  unfold wakeBand
  repeat' with_reducible first
    | exact Keeps.refl _ | intro _ | apply Keeps.foldl | apply Keeps.step (bandOn_keeps ..)
    | apply Keeps.step (State.setBand_keeps ..) | split | dsimp only

end Sys2Proof.Machine
end

