-- ==== Sys2Proof/Laws/KNocOps.lean ====
section
/-! SUPPORT. The operations of Machine/NocOps.lean keep what `Keeps` names. -/
namespace Sys2Proof.Machine
open Sys2Proof

theorem bump_keeps (s : State) (id : Nat) (c : Nat) : Keeps s (bump s id c) := by
  unfold bump
  repeat' with_reducible first
    | exact Keeps.refl _ | intro _ | apply Keeps.foldl | split | dsimp only | apply Keeps.step (Keeps.foldl ..)
    | apply Keeps.step (Keeps.mk8 ..)

theorem nocInt_keeps (s : State) (o : Owner) (bits : Word) : Keeps s (nocInt s o bits) := by
  unfold nocInt
  repeat' with_reducible first
    | exact Keeps.refl _ | intro _ | apply Keeps.foldl | apply Keeps.step (State.raiseFor_keeps ..)

theorem nocLast_keeps (s : State) (kind : Nat) (cause : Nat) (st : Status) (id : Nat) : Keeps s (nocLast s kind cause st id) := by
  unfold nocLast
  repeat' with_reducible first
    | exact Keeps.refl _ | intro _ | apply Keeps.foldl | split | dsimp only | apply Keeps.step (Keeps.foldl ..)
    | apply Keeps.step (Keeps.mk8 ..)

theorem nocPost_keeps (s : State) (o : Owner) (st : Status) (kind : Nat) (cause : Nat) (id : Nat) : Keeps s (nocPost s o st kind cause id) := by
  unfold nocPost
  repeat' with_reducible first
    | exact Keeps.refl _ | intro _ | apply Keeps.foldl | apply Keeps.step (State.post_keeps ..)

theorem State.emitPkt_keeps (s : State) (ep : Nat) (p : Pkt) : Keeps s (State.emitPkt s ep p) := by
  unfold State.emitPkt
  repeat' with_reducible first
    | exact Keeps.refl _ | intro _ | apply Keeps.foldl | apply Keeps.step (State.emit_keeps ..)

theorem sendPkt_keeps (s : State) (p : Pkt) : Keeps s (sendPkt s p) := by
  unfold sendPkt
  repeat' with_reducible first
    | exact Keeps.refl _ | intro _ | apply Keeps.foldl | split | dsimp only | apply Keeps.step (Keeps.foldl ..)
    | apply Keeps.step (Keeps.mk8 ..)

theorem respond_keeps (s : State) (p : Pkt) (st : Status) (data : List Byte) : Keeps s (respond s p st data) := by
  unfold respond
  repeat' with_reducible first
    | exact Keeps.refl _ | intro _ | apply Keeps.foldl | apply Keeps.step (sendPkt_keeps ..)

theorem reply_keeps (s : State) (p : Pkt) (st : Status) (data : List Byte) : Keeps s (reply s p st data) := by
  unfold reply
  repeat' with_reducible first
    | exact Keeps.refl _ | intro _ | apply Keeps.foldl | apply Keeps.step (respond_keeps ..) | split

theorem deny_keeps (s : State) (p : Pkt) : Keeps s (deny s p) := by
  unfold deny
  repeat' with_reducible first
    | exact Keeps.refl _ | intro _ | apply Keeps.foldl | apply Keeps.step (reply_keeps ..)
    | apply Keeps.step (nocInt_keeps ..) | apply Keeps.step (bump_keeps ..)

theorem absorb_keeps (s : State) (p : Pkt) : Keeps s (absorb s p) := by
  unfold absorb
  repeat' with_reducible first
    | exact Keeps.refl _ | intro _ | apply Keeps.foldl | apply Keeps.step (respond_keeps ..)
    | apply Keeps.step (bump_keeps ..) | split

theorem setOut_keeps (s : State) (id : Nat) (tag : Nat) (r : Option OutReq) : Keeps s (setOut s id tag r) := by
  unfold setOut
  repeat' with_reducible first
    | exact Keeps.refl _ | intro _ | apply Keeps.foldl | split | dsimp only | apply Keeps.step (Keeps.foldl ..)
    | apply Keeps.step (Keeps.mk8 ..)

theorem pciErr_keeps (s : State) (p : Nat) (cause : Nat) (st : Status) (entry : Nat) (addr : Nat) : Keeps s (pciErr s p cause st entry addr) := by
  unfold pciErr
  repeat' with_reducible first
    | exact Keeps.refl _ | intro _ | apply Keeps.foldl | apply Keeps.step (State.setPci_keeps ..)
    | apply Keeps.step (State.raiseFor_keeps ..)

theorem w2Drain_keeps : ∀ (n : Nat) (s : State) (p ptag : Nat), Keeps s (w2Drain n s p ptag)
  | 0, s, _, _ => .refl s
  | n + 1, s, p, ptag => by
    unfold w2Drain
    repeat' with_reducible first
    | exact Keeps.refl _ | apply Keeps.step (w2Drain_keeps n ..) | apply Keeps.step (State.emit_keeps ..)
    | apply Keeps.step (pciErr_keeps ..) | apply Keeps.step (State.setPci_keeps ..) | dsimp only | split

theorem w2Part_keeps (s : State) (p : Nat) (tag : Nat) (st : Status) (data : List Byte) : Keeps s (w2Part s p tag st data) := by
  unfold w2Part
  repeat' with_reducible first
    | exact Keeps.refl _ | intro _ | apply Keeps.foldl | apply Keeps.step (w2Drain_keeps ..)
    | apply Keeps.step (State.setPci_keeps ..) | split

theorem deliverAnswer_keeps (s : State) (id : Nat) (p : Pkt) : Keeps s (deliverAnswer s id p) := by
  unfold deliverAnswer
  repeat' with_reducible first
    | exact Keeps.refl _ | intro _ | apply Keeps.foldl | apply Keeps.step (w2Part_keeps ..)
    | apply Keeps.step (State.emitPkt_keeps ..) | split

theorem expectLate_keeps (s : State) (id : Nat) (tag : Nat) (r : OutReq) (ctr : Nat) :
    Keeps s (expectLate s id tag r ctr) := by
  unfold expectLate
  repeat' with_reducible first
    | exact Keeps.refl _ | intro _ | apply Keeps.foldl | split | dsimp only | apply Keeps.step (Keeps.foldl ..)
    | apply Keeps.step (Keeps.mk8 ..)

theorem dropRsp_keeps (s : State) (p : Pkt) (ctr : Nat) : Keeps s (dropRsp s p ctr) := by
  unfold dropRsp
  repeat' with_reducible first
    | exact Keeps.refl _ | intro _ | apply Keeps.foldl | apply Keeps.step (bump_keeps ..) | split | dsimp only
    | apply Keeps.step (Keeps.foldl ..) | apply Keeps.step (Keeps.mk8 ..)

theorem forgetLate_keeps (s : State) (id : Nat) : Keeps s (forgetLate s id) := by
  unfold forgetLate
  repeat' with_reducible first
    | exact Keeps.refl _ | intro _ | apply Keeps.foldl | split | dsimp only | apply Keeps.step (Keeps.foldl ..)
    | apply Keeps.step (Keeps.mk8 ..)

theorem clearOut_keeps (s : State) (id : Nat) (st : Status) (ctr : Nat) : Keeps s (clearOut s id st ctr) := by
  unfold clearOut
  repeat' with_reducible first
    | exact Keeps.refl _ | intro _ | apply Keeps.foldl | apply Keeps.step (deliverAnswer_keeps ..)
    | apply Keeps.step (expectLate_keeps ..) | apply Keeps.step (setOut_keeps ..) | split

theorem forgetOut_keeps (s : State) (id : Nat) (ctr : Nat) : Keeps s (forgetOut s id ctr) := by
  unfold forgetOut
  repeat' with_reducible first
    | exact Keeps.refl _ | intro _ | apply Keeps.foldl | apply Keeps.step (expectLate_keeps ..)
    | apply Keeps.step (setOut_keeps ..) | split

theorem mcwDone_keeps (s : State) (id : Nat) (tag : Nat) (r : OutReq) : Keeps s (mcwDone s id tag r) := by
  unfold mcwDone
  repeat' with_reducible first
    | exact Keeps.refl _ | intro _ | apply Keeps.foldl | apply Keeps.step (setOut_keeps ..)
    | apply Keeps.step (deliverAnswer_keeps ..) | split

theorem setParked_keeps (s : State) (r : Nat) (ps : List Pkt) : Keeps s (setParked s r ps) := by
  unfold setParked
  repeat' with_reducible first
    | exact Keeps.refl _ | intro _ | apply Keeps.foldl | split | dsimp only | apply Keeps.step (Keeps.foldl ..)
    | apply Keeps.step (Keeps.mk8 ..)

theorem absorbQueued_keeps (s : State) (p : Pkt) : Keeps s (absorbQueued s p) := by
  unfold absorbQueued
  repeat' with_reducible first
    | exact Keeps.refl _ | intro _ | apply Keeps.foldl | apply Keeps.step (dropRsp_keeps ..)
    | apply Keeps.step (absorb_keeps ..) | split

theorem absorbAll_keeps (s : State) (id : Nat) : Keeps s (absorbAll s id) := by
  unfold absorbAll
  repeat' with_reducible first
    | exact Keeps.refl _ | intro _ | apply Keeps.foldl | apply Keeps.step (setParked_keeps ..)
    | apply Keeps.step (absorbQueued_keeps ..) | split | dsimp only | apply Keeps.step (Keeps.foldl ..)
    | apply Keeps.step (Keeps.mk8 ..)

theorem muzzledPin_keeps (s : State) (id : Nat) (v : Nat) : Keeps s (muzzledPin s id v) := by
  unfold muzzledPin
  repeat' with_reducible first
    | exact Keeps.refl _ | intro _ | apply Keeps.foldl | apply Keeps.step (State.emit_keeps ..) | split

theorem muzzle_keeps (s : State) (id : Nat) (cause : Nat) : Keeps s (muzzle s id cause) := by
  unfold muzzle
  repeat' with_reducible first
    | exact Keeps.refl _ | intro _ | apply Keeps.foldl | apply Keeps.step (State.setMap_keeps ..)
    | apply Keeps.step (absorbAll_keeps ..) | apply Keeps.step (clearOut_keeps ..)
    | apply Keeps.step (muzzledPin_keeps ..) | apply Keeps.step (nocPost_keeps ..)
    | apply Keeps.step (nocLast_keeps ..) | apply Keeps.step (nocInt_keeps ..)

theorem linkMuzzle_keeps (s : State) (p : Nat) : Keeps s (linkMuzzle s p) := by
  unfold linkMuzzle
  repeat' with_reducible first
    | exact Keeps.refl _ | intro _ | apply Keeps.foldl | apply Keeps.step (muzzle_keeps ..) | split

theorem declareDead_keeps (s : State) (id : Nat) : Keeps s (declareDead s id) := by
  unfold declareDead
  repeat' with_reducible first
    | exact Keeps.refl _ | intro _ | apply Keeps.foldl | apply Keeps.step (muzzle_keeps ..) | split

theorem setNi_keeps (s : State) (phys : Nat) (v : Nat × Nat) : Keeps s (setNi s phys v) := by
  unfold setNi
  repeat' with_reducible first
    | exact Keeps.refl _ | intro _ | apply Keeps.foldl | split | dsimp only | apply Keeps.step (Keeps.foldl ..)
    | apply Keeps.step (Keeps.mk8 ..)

theorem route_keeps (s : State) (p : Pkt) : Keeps s (route s p) := by
  unfold route
  repeat' with_reducible first
    | exact Keeps.refl _ | intro _ | apply Keeps.foldl | apply Keeps.step (reply_keeps ..)
    | apply Keeps.step (absorbQueued_keeps ..) | apply Keeps.step (bump_keeps ..)
    | apply Keeps.step (sendPkt_keeps ..) | split | dsimp only

theorem inject_keeps (s : State) (p : Pkt) : Keeps s (inject s p) := by
  unfold inject
  repeat' with_reducible first
    | exact Keeps.refl _ | intro _ | apply Keeps.foldl | apply Keeps.step (bump_keeps ..)
    | apply Keeps.step (route_keeps ..) | apply Keeps.step (setOut_keeps ..) | split

theorem blockMeets_keeps (s : State) (p : Pkt) : Keeps s (blockMeets s p).2 := by
  unfold blockMeets
  repeat' with_reducible first
    | exact Keeps.refl _ | intro _ | apply Keeps.foldl | apply Keeps.step (bump_keeps ..)
    | apply Keeps.step (nocInt_keeps ..) | apply Keeps.step (wakeBand_keeps ..) | split | dsimp only

theorem blockAccess_keeps (s : State) (src : Nat) (o : Owner) (write : Bool) (a n : Nat) (st : Status) :
    Keeps s (blockAccess s src o write a n st).2 := by
  have h := Keeps.foldlSnd (g := fun (u : Status × State) (x : Nat × Nat) =>
    if u.1 == .ok then blockMeets u.2 (blockPkt u.2 src o write x.1 x.2) else u)
    (fun p x => by
      split
      · exact blockMeets_keeps ..
      · exact .refl _) (cut (n + 1) a n) (.ok, s)
  unfold blockAccess
  dsimp only
  split
  · exact h
  · split
    · exact h.trans (.step (declareDead_keeps ..) (.step (nocLast_keeps ..) (.step (nocInt_keeps ..) (bump_keeps ..))))
    · exact h

theorem blockWrite_keeps (s : State) (src : Nat) (o : Owner) (a : Nat) (bs : List Byte) (st : Status) :
    Keeps s (blockWrite s src o a bs st).2 := by
  have h := blockAccess_keeps s src o true a bs.length st
  unfold blockWrite
  dsimp only
  split
  · exact h
  · split
    · exact h.trans (Keeps.foldl (fun v x => State.emit_keeps ..) _ _)
    · exact h.trans (State.emit_keeps ..)

end Sys2Proof.Machine
end

