-- ==== Sys2Proof/Laws/KPortOps.lean ====
section
/-! SUPPORT. The operations of Machine/PortOps.lean keep what `Keeps` names. -/
namespace Sys2Proof.Machine
open Sys2Proof

theorem rawIn_keeps (s : State) (n : Nat) (old : Bool) (new : Bool) : Keeps s (rawIn s n old new) := by
  unfold rawIn
  repeat' with_reducible first
    | exact Keeps.refl _ | intro _ | apply Keeps.foldl | apply Keeps.step (State.emit_keeps ..) | split

theorem placePin_keeps (s : State) (n : Nat) (p : Port) (q : Pin) : Keeps s (placePin s n p q) := by
  unfold placePin
  repeat' with_reducible first
    | exact Keeps.refl _ | intro _ | apply Keeps.foldl | apply Keeps.step (rawIn_keeps ..)
    | apply Keeps.step (State.setPort_keeps ..) | apply Keeps.step (State.emit_keeps ..) | split

theorem putPort_keeps (s : State) (n : Nat) (p : Port) : Keeps s (putPort s n p) := by
  unfold putPort
  repeat' with_reducible first
    | exact Keeps.refl _ | intro _ | apply Keeps.foldl | apply Keeps.step (placePin_keeps ..)
    | apply Keeps.step (State.setPort_keeps ..) | split

theorem portBits_keeps (s : State) (n : Nat) (bits : Word) : Keeps s (portBits s n bits) := by
  unfold portBits
  repeat' with_reducible first
    | exact Keeps.refl _ | intro _ | apply Keeps.foldl | apply Keeps.step (State.setPort_keeps ..)

theorem fpEvt_keeps (s : State) (n : Nat) : Keeps s (fpEvt s n) := by
  unfold fpEvt
  repeat' with_reducible first
    | exact Keeps.refl _ | intro _ | apply Keeps.foldl | apply Keeps.step (State.emit_keeps ..)

theorem portEvent_keeps (s : State) (n : Nat) (bits : Word) : Keeps s (portEvent s n bits) := by
  unfold portEvent
  repeat' with_reducible first
    | exact Keeps.refl _ | intro _ | apply Keeps.foldl | apply Keeps.step (fpEvt_keeps ..)
    | apply Keeps.step (portBits_keeps ..)

theorem raisePulse_keeps (s : State) (n : Nat) (sig : Nat) : Keeps s (raisePulse s n sig) := by
  unfold raisePulse
  repeat' with_reducible first
    | exact Keeps.refl _ | intro _ | apply Keeps.foldl | apply Keeps.step (State.setTable_keeps ..)

theorem portLate_keeps (s : State) (n : Nat) : Keeps s (portLate s n) := by
  unfold portLate
  repeat' with_reducible first
    | exact Keeps.refl _ | intro _ | apply Keeps.foldl | apply Keeps.step (fpEvt_keeps ..)
    | apply Keeps.step (raisePulse_keeps ..) | apply Keeps.step (State.raiseAll_keeps ..)

theorem portPair_keeps (s : State) (n : Nat) : Keeps s (portPair s n) := by
  unfold portPair
  repeat' with_reducible first
    | exact Keeps.refl _ | intro _ | apply Keeps.foldl | apply Keeps.step (raisePulse_keeps ..)
    | apply Keeps.step (portEvent_keeps ..)

theorem portPairErr_keeps (s : State) (n : Nat) : Keeps s (portPairErr s n) := by
  unfold portPairErr
  repeat' with_reducible first
    | exact Keeps.refl _ | intro _ | apply Keeps.foldl | apply Keeps.step (raisePulse_keeps ..)
    | apply Keeps.step (portEvent_keeps ..)

theorem pushStamp_keeps (s : State) (n : Nat) (t : Nat) (rising : Bool) : Keeps s (pushStamp s n t rising) := by
  unfold pushStamp
  repeat' with_reducible first
    | exact Keeps.refl _ | intro _ | apply Keeps.foldl | apply Keeps.step (portBits_keeps ..)
    | apply Keeps.step (State.setPort_keeps ..) | apply Keeps.step (portEvent_keeps ..) | split | dsimp only

theorem enterMode_keeps (s : State) (n : Nat) (m : Nat) : Keeps s (enterMode s n m) := by
  unfold enterMode
  repeat' with_reducible first
    | exact Keeps.refl _ | intro _ | apply Keeps.foldl | apply Keeps.step (putPort_keeps ..)

theorem takeOut_keeps (s : State) (n : Nat) (out : Bool) (oe : Bool) : Keeps s (takeOut s n out oe) := by
  unfold takeOut
  repeat' with_reducible first
    | exact Keeps.refl _ | intro _ | apply Keeps.foldl | apply Keeps.step (State.setPort_keeps ..)
    | apply Keeps.step (putPort_keeps ..) | split | dsimp only

theorem openOut_keeps (s : State) (n : Nat) : Keeps s (openOut s n) := by
  unfold openOut
  repeat' with_reducible first
    | exact Keeps.refl _ | intro _ | apply Keeps.foldl | apply Keeps.step (takeOut_keeps ..) | split | dsimp only

theorem openLatches_keeps (s : State) : Keeps s (openLatches s) := by
  unfold openLatches
  repeat' with_reducible first
    | exact Keeps.refl _ | intro _ | apply Keeps.foldl | apply Keeps.step (openOut_keeps ..)

theorem sealBorder_keeps (s : State) (r : Nat) : Keeps s (sealBorder s r) := by
  unfold sealBorder
  repeat' with_reducible first
    | exact Keeps.refl _ | intro _ | apply Keeps.foldl | apply Keeps.step (takeOut_keeps ..)
    | apply Keeps.step (State.setTable_keeps ..) | split | dsimp only | apply Keeps.step (Keeps.foldl ..)

theorem forceSafe_keeps (s : State) (n : Nat) : Keeps s (forceSafe s n) := by
  unfold forceSafe
  repeat' with_reducible first
    | exact Keeps.refl _ | intro _ | apply Keeps.foldl | apply Keeps.step (portBits_keeps ..)
    | apply Keeps.step (putPort_keeps ..) | split | dsimp only

theorem driveMode_keeps (s : State) (n : Nat) (v : Pin) (drv : Nat) : Keeps s (driveMode s n v drv) := by
  unfold driveMode
  repeat' with_reducible first
    | exact Keeps.refl _ | intro _ | apply Keeps.foldl | apply Keeps.step (putPort_keeps ..)

theorem initPort_keeps (s : State) (n : Nat) : Keeps s (initPort s n) := by
  unfold initPort
  repeat' with_reducible first
    | exact Keeps.refl _ | intro _ | apply Keeps.foldl | apply Keeps.step (State.setPort_keeps ..)

theorem startPort_keeps (s : State) (n : Nat) : Keeps s (startPort s n) := by
  unfold startPort
  repeat' with_reducible first
    | exact Keeps.refl _ | intro _ | apply Keeps.foldl | apply Keeps.step (initPort_keeps ..)
    | apply Keeps.step (enterMode_keeps ..)

theorem refreshPins_keeps (s : State) : Keeps s (refreshPins s) := by
  unfold refreshPins
  repeat' with_reducible first
    | exact Keeps.refl _ | intro _ | apply Keeps.foldl | apply Keeps.step (putPort_keeps ..)

theorem resetPort_keeps (s : State) (n : Nat) : Keeps s (resetPort s n) := by
  unfold resetPort
  repeat' with_reducible first
    | exact Keeps.refl _ | intro _ | apply Keeps.foldl | apply Keeps.step (startPort_keeps ..)
    | apply Keeps.step (forceSafe_keeps ..) | apply Keeps.step (State.setPort_keeps ..) | split

theorem resetGroups_keeps (s : State) (o : Owner) : Keeps s (resetGroups s o) := by
  unfold resetGroups
  repeat' with_reducible first
    | exact Keeps.refl _ | intro _ | apply Keeps.foldl | apply Keeps.step (resetPort_keeps ..)

theorem forceGroups_keeps (s : State) (o : Owner) : Keeps s (forceGroups s o) := by
  unfold forceGroups
  repeat' with_reducible first
    | exact Keeps.refl _ | intro _ | apply Keeps.foldl | apply Keeps.step (forceSafe_keeps ..)

end Sys2Proof.Machine
end

