-- ==== Sys2Proof/Laws/KBstOps.lean ====
section
/-! SUPPORT. The operations of Machine/BstOps.lean keep what `Keeps` names. -/
namespace Sys2Proof.Machine
open Sys2Proof

theorem dropEntries_keeps (s : State) : Keeps s (dropEntries s) := by
  unfold dropEntries
  repeat' with_reducible first
    | exact Keeps.refl _ | intro _ | apply Keeps.foldl | split | dsimp only | apply Keeps.step (Keeps.foldl ..)
    | apply Keeps.step (Keeps.mk8 ..)

theorem moveDecision_keeps (s : State) (began limit : Nat) (hit : Nat → Target → Bool) :
    Keeps s (moveDecision s began limit hit) := .upd rfl rfl rfl rfl rfl rfl rfl rfl

theorem endSlice_keeps (s : State) (slot : Nat) (x : Slice) (st : Status) (detail dur : Nat) (misr : BitVec 64) :
    Keeps s (endSlice s slot x st detail dur misr) := by
  unfold endSlice
  refine .step (endCmd?_keeps ..) (.step (moveDecision_keeps ..) ?_)
  refine .ite (.step (State.post_keeps ..) (.step (State.policy_keeps ..) (.step (State.raiseFor_keeps ..) ?_)))
    (.ite (.step (State.raiseFor_keeps ..) ?_) ?_) <;> exact .upd rfl rfl rfl rfl rfl rfl rfl rfl

theorem abortSlice_keeps (s : State) (slot : Nat) (x : Slice) : Keeps s (abortSlice s slot x) := by
  unfold abortSlice
  repeat' with_reducible first
    | exact Keeps.refl _ | intro _ | apply Keeps.foldl | apply Keeps.step (endSlice_keeps ..)
    | apply Keeps.step (State.takeFree_keeps ..)

theorem meetSlice_keeps (s : State) (test : Nat) (target : Nat) : Keeps s (meetSlice s test target) := by
  unfold meetSlice
  repeat' with_reducible first
    | exact Keeps.refl _ | intro _ | apply Keeps.foldl | apply Keeps.step (abortSlice_keeps ..) | split

end Sys2Proof.Machine
end

