-- ==== Sys2Proof/Laws/KRfxOps.lean ====
section
/-! SUPPORT. The operations of Machine/RfxOps.lean keep what `Keeps` names. -/
namespace Sys2Proof.Machine
open Sys2Proof

theorem routeCheck_keeps (s : State) : Keeps s (routeCheck s) := by
  unfold routeCheck
  repeat' with_reducible first
    | exact Keeps.refl _ | intro _ | apply Keeps.foldl | apply Keeps.step (State.raiseAll_keeps ..) | split
    | dsimp only | apply Keeps.step (Keeps.foldl ..) | apply Keeps.step (Keeps.mk8 ..)

theorem setArm_keeps (s : State) (t : Nat) (on : Bool) (ctrl : Bool) : Keeps s (setArm s t on ctrl) := by
  unfold setArm
  repeat' with_reducible first
    | exact Keeps.refl _ | intro _ | apply Keeps.foldl | apply Keeps.step (State.setTable_keeps ..)
    | apply Keeps.step (State.raiseFor_keeps ..) | split

theorem armFromImage_keeps (s : State) (t : Nat) : Keeps s (armFromImage s t) := by
  unfold armFromImage
  repeat' with_reducible first
    | exact Keeps.refl _ | intro _ | apply Keeps.foldl | apply Keeps.step (setArm_keeps ..)

theorem armAll_keeps (s : State) : Keeps s (armAll s) := by
  unfold armAll
  repeat' with_reducible first
    | exact Keeps.refl _ | intro _ | apply Keeps.foldl | apply Keeps.step (setArm_keeps ..)
    | apply Keeps.step (routeCheck_keeps ..) | apply Keeps.step (armFromImage_keeps ..) | split | dsimp only
    | apply Keeps.step (Keeps.foldl ..)

theorem clearRemote_keeps (s : State) (ts : List Nat) : Keeps s (clearRemote s ts) := by
  unfold clearRemote
  repeat' with_reducible first
    | exact Keeps.refl _ | intro _ | apply Keeps.foldl | apply Keeps.step (State.setTable_keeps ..)

theorem setCycle_keeps (s : State) (ts : List Nat) (on : Bool) : Keeps s (setCycle s ts on) := by
  unfold setCycle
  repeat' with_reducible first
    | exact Keeps.refl _ | intro _ | apply Keeps.foldl | apply Keeps.step (State.setTable_keeps ..)

theorem eventDrop_keeps (s : State) (t : Nat) : Keeps s (eventDrop s t) := by
  unfold eventDrop
  repeat' with_reducible first
    | exact Keeps.refl _ | intro _ | apply Keeps.foldl | apply Keeps.step (State.setTable_keeps ..)
    | apply Keeps.step (State.raiseFor_keeps ..)

theorem vc0Count_keeps (s : State) (e : EventPkt) : Keeps s (vc0Count s e) := by
  unfold vc0Count
  repeat' with_reducible first
    | exact Keeps.refl _ | intro _ | apply Keeps.foldl | apply Keeps.step (State.takeFree_keeps ..) | split
    | dsimp only | apply Keeps.step (Keeps.foldl ..) | apply Keeps.step (Keeps.mk8 ..)

theorem sendEvent_keeps (s : State) (t : Nat) (h : HeldEvt) : Keeps s (sendEvent s t h) := by
  unfold sendEvent
  repeat' with_reducible first
    | exact Keeps.refl _ | intro _ | apply Keeps.foldl | apply Keeps.step (State.setTable_keeps ..)
    | apply Keeps.step (eventDrop_keeps ..) | apply Keeps.step (bump_keeps ..) | apply Keeps.step (vc0Count_keeps ..)
    | apply Keeps.step (State.emit_keeps ..) | split | dsimp only | apply Keeps.step (Keeps.foldl ..)
    | apply Keeps.step (Keeps.mk8 ..)

theorem dueEvent_keeps (s : State) (t : Nat) (h : HeldEvt) : Keeps s (dueEvent s t h) := by
  unfold dueEvent
  repeat' with_reducible first
    | exact Keeps.refl _ | intro _ | apply Keeps.foldl | apply Keeps.step (sendEvent_keeps ..)
    | apply Keeps.step (State.setTable_keeps ..) | split | dsimp only

end Sys2Proof.Machine
end

