-- ==== Sys2Proof/Laws/KClocks.lean ====
section
/-! SUPPORT. The operations of Machine/Clocks.lean keep what `Keeps` names. -/
namespace Sys2Proof.Machine
open Sys2Proof

theorem applyPll_keeps (s : State) (p : Nat) : Keeps s (applyPll s p) := by
  unfold applyPll
  repeat' with_reducible first
    | exact Keeps.refl _ | intro _ | apply Keeps.foldl | apply Keeps.step (State.setPll_keeps ..)

theorem pllApply_keeps (acc : Accessor) (v : Word) (s : State) : Keeps s (pllApply acc v s) := by
  unfold pllApply
  repeat' with_reducible first
    | exact Keeps.refl _ | intro _ | apply Keeps.foldl | apply Keeps.step (applyPll_keeps ..) | split | dsimp only
    | apply Keeps.step (Keeps.foldl ..) | apply Keeps.step (Keeps.mk8 ..)

theorem pllLock_keeps (p : Nat) (s : State) : Keeps s (pllLock p s) := by
  unfold pllLock
  repeat' with_reducible first
    | exact Keeps.refl _ | intro _ | apply Keeps.foldl | apply Keeps.step (State.setPll_keeps ..) | split

theorem lossOfLock_keeps (p : Nat) (refGone : Bool) (s : State) : Keeps s (lossOfLock p refGone s) := by
  unfold lossOfLock
  repeat' with_reducible first
    | exact Keeps.refl _ | intro _ | apply Keeps.foldl | apply Keeps.step (State.setPll_keeps ..)
    | apply Keeps.step (State.raiseAll_keeps ..) | split

theorem fcountWrite_keeps (acc : Accessor) (v : Word) (s : State) : Keeps s (fcountWrite acc v s) := by
  unfold fcountWrite
  repeat' with_reducible first
    | exact Keeps.refl _ | intro _ | apply Keeps.foldl | split | dsimp only | apply Keeps.step (Keeps.foldl ..)
    | apply Keeps.step (Keeps.mk8 ..)

theorem fcountDone_keeps (khz : Nat) (s : State) : Keeps s (fcountDone khz s) := by
  unfold fcountDone
  repeat' with_reducible first
    | exact Keeps.refl _ | intro _ | apply Keeps.foldl | split | dsimp only | apply Keeps.step (Keeps.foldl ..)
    | apply Keeps.step (Keeps.mk8 ..)

theorem clkWrite_keeps (acc : Accessor) (off : Nat) (v : Word) (s : State) : Keeps s (clkWrite acc off v s) := by
  unfold clkWrite
  repeat' with_reducible first
    | exact Keeps.refl _ | intro _ | apply Keeps.foldl | apply Keeps.step (State.setCopy_keeps ..)
    | apply Keeps.step (State.clearCopy_keeps ..) | apply Keeps.step (State.setPll_keeps ..)
    | apply Keeps.step (pllApply_keeps ..) | apply Keeps.step (fcountWrite_keeps ..) | split | dsimp only
    | apply Keeps.step (Keeps.foldl ..) | apply Keeps.step (Keeps.mk8 ..)

theorem thermal_keeps (code : Nat) (s : State) : Keeps s (thermal code s) := by
  unfold thermal
  repeat' with_reducible first
    | exact Keeps.refl _ | intro _ | apply Keeps.foldl | apply Keeps.step (State.policy_keeps ..)
    | apply Keeps.step (State.post_keeps ..) | split | dsimp only | apply Keeps.step (Keeps.foldl ..)
    | apply Keeps.step (Keeps.mk8 ..)

theorem supply_keeps (ch : Nat) (code : Nat) (alarm : Bool) (s : State) : Keeps s (supply ch code alarm s) := by
  unfold supply
  repeat' with_reducible first
    | exact Keeps.refl _ | intro _ | apply Keeps.foldl | apply Keeps.step (State.policy_keeps ..)
    | apply Keeps.step (State.post_keeps ..) | split | dsimp only | apply Keeps.step (Keeps.foldl ..)
    | apply Keeps.step (Keeps.mk8 ..)

theorem smnResult_keeps (ch : Nat) (code0 : Nat) (s : State) : Keeps s (smnResult ch code0 s) := by
  unfold smnResult
  repeat' with_reducible first
    | exact Keeps.refl _ | intro _ | apply Keeps.foldl | apply Keeps.step (State.setChan_keeps ..)
    | apply Keeps.step (State.raiseAll_keeps ..) | apply Keeps.step (thermal_keeps ..)
    | apply Keeps.step (supply_keeps ..) | split | dsimp only

theorem tempSample_keeps (codes : List Nat) (s : State) : Keeps s (tempSample codes s) := by
  unfold tempSample
  repeat' with_reducible first
    | exact Keeps.refl _ | intro _ | apply Keeps.foldl | split | dsimp only | apply Keeps.step (Keeps.foldl ..)
    | apply Keeps.step (Keeps.mk8 ..)

theorem minmaxClear_keeps (acc : Accessor) (v : Word) (s : State) : Keeps s (minmaxClear acc v s) := by
  unfold minmaxClear
  repeat' with_reducible first
    | exact Keeps.refl _ | intro _ | apply Keeps.foldl | split | dsimp only | apply Keeps.step (Keeps.foldl ..)
    | apply Keeps.step (Keeps.mk8 ..)

theorem smnCtrl_keeps (v : Word) (s : State) : Keeps s (smnCtrl v s) := by
  unfold smnCtrl
  repeat' with_reducible first
    | exact Keeps.refl _ | intro _ | apply Keeps.foldl | apply Keeps.step (State.setChan_keeps ..) | split
    | dsimp only | apply Keeps.step (Keeps.foldl ..) | apply Keeps.step (Keeps.mk8 ..)

theorem smnWrite_keeps (acc : Accessor) (off : Nat) (v : Word) (s : State) : Keeps s (smnWrite acc off v s) := by
  unfold smnWrite
  repeat' with_reducible first
    | exact Keeps.refl _ | intro _ | apply Keeps.foldl | apply Keeps.step (State.setCopy_keeps ..)
    | apply Keeps.step (State.clearCopy_keeps ..) | apply Keeps.step (smnCtrl_keeps ..)
    | apply Keeps.step (State.setChan_keeps ..) | apply Keeps.step (minmaxClear_keeps ..) | split | dsimp only

end Sys2Proof.Machine
end

