-- ==== Sys2Proof/Laws/KNvOps.lean ====
section
/-! SUPPORT. The operations of Machine/NvOps.lean keep what `Keeps` names. -/
namespace Sys2Proof.Machine
open Sys2Proof


theorem nvProgram_keeps : ∀ (s : State) (a : Nat) (bs : List Byte), Keeps s (nvProgram s a bs)
  | s, _, [] => .refl s
  | s, a, b :: bs => by
    have h : Keeps s { s with nv := { s.nv with
        arr := Memory.write erased s.nv.arr (nvAddr s a) (nvByte s a &&& b) } } :=
      .memUpd rfl rfl rfl rfl rfl rfl id (SMap.wf_set _ _)
    exact h.trans (nvProgram_keeps _ (a + 1) bs)

theorem nvErasePhys_keeps (s : State) (bank phys : Nat) : Keeps s (nvErasePhys s bank phys) :=
  .memUpd rfl rfl rfl rfl rfl rfl id (SMap.wf_filter _)

end Sys2Proof.Machine
end

