-- ==== Sys2Proof/Laws/KLoadOps.lean ====
section
/-! SUPPORT. The operations of Machine/LoadOps.lean keep what `Keeps` names. -/
namespace Sys2Proof.Machine
open Sys2Proof

theorem scrEvent_keeps (s : State) (kind : Nat) (key : Nat) (active : Bool) (st : Status) (src : Nat) (word : Nat) : Keeps s (scrEvent s kind key active st src word) := by
  unfold scrEvent
  repeat' with_reducible first
    | exact Keeps.refl _ | intro _ | apply Keeps.foldl | apply Keeps.step (State.raiseFor_keeps ..)
    | apply Keeps.step (State.post_keeps ..) | split | dsimp only | apply Keeps.step (Keeps.foldl ..)
    | apply Keeps.step (Keeps.mk8 ..)

theorem writePlane_keeps (s : State) (key : Nat) (active : Bool) (p : Plane) :
    Keeps s (writePlane s key active p) := by
  unfold writePlane
  repeat' with_reducible first
    | exact Keeps.refl _ | intro _ | apply Keeps.foldl | apply Keeps.step (State.setFrame_keeps ..)
    | apply Keeps.step (scrEvent_keeps ..) | split | dsimp only

theorem writeCanary_keeps (s : State) (band : Nat) : Keeps s (writeCanary s band) := by
  unfold writeCanary
  repeat' with_reducible first
    | exact Keeps.refl _ | intro _ | apply Keeps.foldl | apply Keeps.step (State.setFrame_keeps ..)

theorem swapInt_keeps (s : State) (r : Nat) (bits : Word) : Keeps s (swapInt s r bits) := by
  unfold swapInt
  repeat' with_reducible first
    | exact Keeps.refl _ | intro _ | apply Keeps.foldl | apply Keeps.step (State.raiseFor_keeps ..)

theorem isolate_keeps (s : State) (r : Nat) : Keeps s (isolate s r) := by
  unfold isolate
  repeat' with_reducible first
    | exact Keeps.refl _ | intro _ | apply Keeps.foldl | apply Keeps.step (State.setRegion_keeps ..)
    | apply Keeps.step (sealBorder_keeps ..) | apply Keeps.step (gsrFabric_keeps ..)
    | apply Keeps.step (State.emit_keeps ..) | split

theorem unisolate_keeps (s : State) (r : Nat) : Keeps s (unisolate s r) := by
  unfold unisolate
  repeat' with_reducible first
    | exact Keeps.refl _ | intro _ | apply Keeps.foldl | apply Keeps.step (openLatches_keeps ..)
    | apply Keeps.step (State.setRegion_keeps ..) | apply Keeps.step (State.emit_keeps ..) | split

theorem stagePlls_keeps (s : State) (plls : SMap Word) (keep : Nat → Bool) : Keeps s (stagePlls s plls keep) := by
  unfold stagePlls
  repeat' with_reducible first
    | exact Keeps.refl _ | intro _ | apply Keeps.foldl | apply Keeps.step (applyPll_keeps ..)
    | apply Keeps.step (State.setPll_keeps ..) | split

theorem followPolicy_keeps (s : State) (running : Bool) : Keeps s (followPolicy s running) := by
  unfold followPolicy
  repeat' with_reducible first
    | exact Keeps.refl _ | intro _ | apply Keeps.foldl | split | dsimp only | apply Keeps.step (Keeps.foldl ..)
    | apply Keeps.step (Keeps.mk8 ..)

theorem applyImage_keeps (s : State) (regs : SMap Word) (ten : SMap Owner) (wins : SMap (List Word)) (attrs : SMap Word) (plls : SMap Word) (keepPll : Nat → Bool) (keepState : Bool) : Keeps s (applyImage s regs ten wins attrs plls keepPll keepState) := by
  unfold applyImage
  repeat' with_reducible first
    | exact Keeps.refl _ | intro _ | apply Keeps.foldl | apply Keeps.step (stagePlls_keeps ..)
    | apply Keeps.step (followPolicy_keeps ..) | split | dsimp only | apply Keeps.step (Keeps.foldl ..)
    | apply Keeps.step (Keeps.mk8 ..)

theorem loadReport_keeps (s : State) (ld : Nat) : Keeps s (loadReport s ld).2 := by
  unfold loadReport
  repeat' with_reducible first
    | exact Keeps.refl _ | intro _ | apply Keeps.foldl | apply Keeps.step (addReport_keeps ..) | split | dsimp only
    | apply Keeps.step (Keeps.foldl ..) | apply Keeps.step (Keeps.mk8 ..)

theorem loadCpl_keeps (s : State) (ld : Nat) (st : Status) (handle : Nat) : Keeps s (loadCpl s ld st handle) := by
  unfold loadCpl
  repeat' with_reducible first
    | exact Keeps.refl _ | intro _ | apply Keeps.foldl | apply Keeps.step (endCmd_keeps ..) | split | dsimp only
    | apply Keeps.step (Keeps.foldl ..) | apply Keeps.step (Keeps.mk8 ..)

theorem newLoad_keeps (s : State) (ld : Nat) (l : Load) : Keeps s (newLoad s ld l) := by
  unfold newLoad
  repeat' with_reducible first
    | exact Keeps.refl _ | intro _ | apply Keeps.foldl | apply Keeps.step (State.setLoad_keeps ..)

theorem startSlot_keeps (s : State) (slot : Nat) : Keeps s (startSlot s slot) := by
  unfold startSlot
  repeat' with_reducible first
    | exact Keeps.refl _ | intro _ | apply Keeps.foldl | apply Keeps.step (newLoad_keeps ..)

theorem restoreDefaults_keeps (s : State) : Keeps s (restoreDefaults s) := by
  unfold restoreDefaults
  repeat' with_reducible first
    | exact Keeps.refl _ | intro _ | apply Keeps.foldl | apply Keeps.step (applyImage_keeps ..)

theorem stopClocks_keeps (s : State) : Keeps s (stopClocks s) := by
  unfold stopClocks
  repeat' with_reducible first
    | exact Keeps.refl _ | intro _ | apply Keeps.foldl | apply Keeps.step (stagePlls_keeps ..) | split | dsimp only
    | apply Keeps.step (Keeps.foldl ..) | apply Keeps.step (Keeps.mk8 ..)

theorem applyKept_keeps (k : Kept) (s : State) : Keeps s (applyKept k s) := by
  unfold applyKept
  repeat' with_reducible first
    | exact Keeps.refl _ | intro _ | apply Keeps.foldl | apply Keeps.step (State.policy_keeps ..) | split | dsimp only
    | apply Keeps.step (Keeps.foldl ..) | apply Keeps.step (Keeps.mk8 ..)

theorem linkMuzzles_keeps (s : State) : Keeps s (linkMuzzles s) := by
  unfold linkMuzzles
  repeat' with_reducible first
    | exact Keeps.refl _ | intro _ | apply Keeps.foldl | apply Keeps.step (linkMuzzle_keeps ..)
    | apply Keeps.step (State.setMap_keeps ..) | split | dsimp only

theorem wakeLost_keeps (s : State) : Keeps s (wakeLost s) := by
  unfold wakeLost
  repeat' with_reducible first
    | exact Keeps.refl _ | intro _ | apply Keeps.foldl | apply Keeps.step (State.raiseAll_keeps ..) | split
    | dsimp only | apply Keeps.step (Keeps.foldl ..) | apply Keeps.step (Keeps.mk8 ..)

theorem wakeApply_keeps (s : State) (sig : List Byte) : Keeps s (wakeApply s sig) := by
  unfold wakeApply
  repeat' with_reducible first
    | exact Keeps.refl _ | intro _ | apply Keeps.foldl | apply Keeps.step (linkMuzzles_keeps ..)
    | apply Keeps.step (followPolicy_keeps ..) | apply Keeps.step (applyKept_keeps ..)
    | apply Keeps.step (wakeLost_keeps ..) | split

theorem bootFail_keeps (s : State) (st : Status) : Keeps s (bootFail s st) := by
  unfold bootFail
  repeat' with_reducible first
    | exact Keeps.refl _ | intro _ | apply Keeps.foldl | apply Keeps.step (wakeLost_keeps ..)
    | apply Keeps.step (restoreDefaults_keeps ..) | apply Keeps.step (stopClocks_keeps ..)
    | apply Keeps.step (State.emit_keeps ..) | apply Keeps.step (startSlot_keeps ..) | split | dsimp only
    | apply Keeps.step (Keeps.foldl ..) | apply Keeps.step (Keeps.mk8 ..)

theorem loadFail_keeps (ld : Nat) (st : Status) (s : State) : Keeps s (loadFail ld st s) := by
  unfold loadFail
  repeat' with_reducible first
    | exact Keeps.refl _ | intro _ | apply Keeps.foldl | apply Keeps.step (State.setLoad_keeps ..)
    | apply Keeps.step (loadReport_keeps ..) | apply Keeps.step (loadCpl_keeps ..)
    | apply Keeps.step (bootFail_keeps ..) | apply Keeps.step (State.setRegion_keeps ..)
    | apply Keeps.step (swapInt_keeps ..) | apply Keeps.step (State.emit_keeps ..) | split | dsimp only

theorem loadRefuse_keeps (ld : Nat) (st : Status) (s : State) : Keeps s (loadRefuse ld st s) := by
  unfold loadRefuse
  repeat' with_reducible first
    | exact Keeps.refl _ | intro _ | apply Keeps.foldl | apply Keeps.step (State.setLoad_keeps ..)
    | apply Keeps.step (swapInt_keeps ..) | apply Keeps.step (State.emit_keeps ..)

theorem armLoaded_keeps (s : State) (l : Load) : Keeps s (armLoaded s l) := by
  unfold armLoaded
  repeat' with_reducible first
    | exact Keeps.refl _ | intro _ | apply Keeps.foldl | apply Keeps.step (routeCheck_keeps ..)
    | apply Keeps.step (armFromImage_keeps ..)

theorem regionLoaded_keeps (ld : Nat) (s : State) : Keeps s (regionLoaded ld s) := by
  unfold regionLoaded
  repeat' with_reducible first
    | exact Keeps.refl _ | intro _ | apply Keeps.foldl | apply Keeps.step (State.setRegion_keeps ..)
    | apply Keeps.step (State.refresh_keeps ..) | apply Keeps.step (unisolate_keeps ..)
    | apply Keeps.step (gsrFabric_keeps ..) | apply Keeps.step (ramFabric_keeps ..)
    | apply Keeps.step (swapInt_keeps ..) | apply Keeps.step (armLoaded_keeps ..)
    | apply Keeps.step (State.emit_keeps ..) | split

theorem deviceLoaded_keeps (s : State) : Keeps s (deviceLoaded s) := by
  unfold deviceLoaded
  repeat' with_reducible first
    | exact Keeps.refl _ | intro _ | apply Keeps.foldl | apply Keeps.step (State.setTarget_keeps ..)
    | apply Keeps.step (routeCheck_keeps ..) | split | dsimp only | apply Keeps.step (Keeps.foldl ..)
    | apply Keeps.step (Keeps.mk8 ..)

theorem imageLoaded_keeps (s : State) : Keeps s (imageLoaded s) := by
  unfold imageLoaded
  repeat' with_reducible first
    | exact Keeps.refl _ | intro _ | apply Keeps.foldl | apply Keeps.step (wakeApply_keeps ..)
    | apply Keeps.step (State.refresh_keeps ..) | apply Keeps.step (routeCheck_keeps ..)
    | apply Keeps.step (gsrFabric_keeps ..) | apply Keeps.step (ramFabric_keeps ..) | split | dsimp only
    | apply Keeps.step (Keeps.foldl ..) | apply Keeps.step (Keeps.mk8 ..)

theorem loadOk_keeps (ld : Nat) (s : State) : Keeps s (loadOk ld s) := by
  unfold loadOk
  repeat' with_reducible first
    | exact Keeps.refl _ | intro _ | apply Keeps.foldl | apply Keeps.step (State.setLoad_keeps ..)
    | apply Keeps.step (loadReport_keeps ..) | apply Keeps.step (deviceLoaded_keeps ..)
    | apply Keeps.step (imageLoaded_keeps ..) | apply Keeps.step (regionLoaded_keeps ..)
    | apply Keeps.step (loadCpl_keeps ..) | split

end Sys2Proof.Machine
end

