-- ==== Sys2Proof/Laws/KStream.lean ====
section
/-! SUPPORT. The operations of Machine/Stream.lean keep what `Keeps` names. -/
namespace Sys2Proof.Machine
open Sys2Proof

theorem settle_keeps (ld : Nat) (s : State) : Keeps s (settle ld s) := by
  unfold settle
  repeat' with_reducible first
    | exact Keeps.refl _ | intro _ | apply Keeps.foldl | apply Keeps.step (State.setLoad_keeps ..)
    | apply Keeps.step (loadFail_keeps ..) | split | dsimp only

theorem manifestVerify_keeps (ld : Nat) (b0 : List Byte) (s : State) : Keeps s (manifestVerify ld b0 s) := by
  unfold manifestVerify
  repeat' with_reducible first
    | exact Keeps.refl _ | intro _ | apply Keeps.foldl | apply Keeps.step (State.setLoad_keeps ..)
    | apply Keeps.step (settle_keeps ..) | apply Keeps.step (State.emit_keeps ..)
    | apply Keeps.step (loadFail_keeps ..) | split | dsimp only | apply Keeps.step (Keeps.foldl ..)
    | apply Keeps.step (Keeps.mk8 ..)

theorem streamSync_keeps (ld : Nat) (ignored : List Word) (s : State) : Keeps s (streamSync ld ignored s) := by
  unfold streamSync
  repeat' with_reducible first
    | exact Keeps.refl _ | intro _ | apply Keeps.foldl | apply Keeps.step (settle_keeps ..)
    | apply Keeps.step (State.setLoad_keeps ..) | apply Keeps.step (loadFail_keeps ..) | split | dsimp only

theorem takeRec_keeps (ld : Nat) (ws : List Word) (f : Load → State → State) (s : State) (hf : ∀ a0 a1, Keeps a1 (f a0 a1)) :
    Keeps s (takeRec ld ws f s) := by
  unfold takeRec
  refine .ite (.refl s) (.step (settle_keeps ..) ?_)
  exact .ite ((State.setLoad_keeps ..).trans (loadFail_keeps ..)) ((State.setLoad_keeps ..).trans (hf ..))

theorem lengthEnd_keeps (ld : Nat) (s : State) : Keeps s (lengthEnd ld s) := by
  unfold lengthEnd
  repeat' with_reducible first
    | exact Keeps.refl _ | intro _ | apply Keeps.foldl | apply Keeps.step (loadFail_keeps ..) | split | dsimp only

theorem withRec_keeps (ld : Nat) (ws : List Word) (f : Load → State → State) (s : State) (hf : ∀ a0 a1, Keeps a1 (f a0 a1)) :
    Keeps s (withRec ld ws f s) := by
  unfold withRec
  exact takeRec_keeps _ _ _ _ fun l u => .ite ((hf l u).trans (lengthEnd_keeps _ _)) (hf l u)

theorem outerRec_keeps (ld : Nat) (ws : List Word) (inside : Status) (f : Load → State → State) (s : State)
    (hf : ∀ a0 a1, Keeps a1 (f a0 a1)) : Keeps s (outerRec ld ws inside f s) := by
  unfold outerRec
  exact withRec_keeps _ _ _ _ fun l u => .ite (loadFail_keeps ..) (.ite (loadFail_keeps ..) (hf l u))

theorem plainRec_keeps (ld : Nat) (hdr : Word) (body : List Word) (control : Bool) (f : Load → State → State) (s : State)
    (hf : ∀ a0 a1, Keeps a1 (f a0 a1)) : Keeps s (plainRec ld hdr body control f s) := by
  unfold plainRec
  exact withRec_keeps _ _ _ _ fun l u => .ite (loadFail_keeps ..) (.ite (loadFail_keeps ..) (.ite (loadFail_keeps ..)
    ((State.setLoad_keeps ..).trans (hf ..))))

theorem nop_keeps (ld : Nat) (hdr : Word) (s : State) : Keeps s (nop ld hdr s) := by
  unfold nop
  repeat' with_reducible first
    | exact Keeps.refl _ | intro _ | apply Keeps.foldl | apply Keeps.step (withRec_keeps ..)
    | apply Keeps.step (loadFail_keeps ..) | apply Keeps.step (State.setLoad_keeps ..) | split

theorem putReg_keeps (ld : Nat) (addr : Nat) (w : Word) (l : Load) (s : State) : Keeps s (putReg ld addr w l s) := by
  unfold putReg
  repeat' with_reducible first
    | exact Keeps.refl _ | intro _ | apply Keeps.foldl | apply Keeps.step (loadFail_keeps ..)
    | apply Keeps.step (State.setLoad_keeps ..) | split

theorem setreg_keeps (ld : Nat) (arg : Nat) (w : Word) (s : State) : Keeps s (setreg ld arg w s) := by
  unfold setreg
  repeat' with_reducible first
    | exact Keeps.refl _ | intro _ | apply Keeps.foldl | apply Keeps.step (plainRec_keeps ..)
    | apply Keeps.step (loadFail_keeps ..) | apply Keeps.step (putReg_keeps ..) | split

theorem startup_keeps (ld : Nat) (arg : Nat) (s : State) : Keeps s (startup ld arg s) := by
  unfold startup
  repeat' with_reducible first
    | exact Keeps.refl _ | intro _ | apply Keeps.foldl | apply Keeps.step (plainRec_keeps ..)
    | apply Keeps.step (putReg_keeps ..) | apply Keeps.step (loadFail_keeps ..) | split

theorem region_keeps (ld : Nat) (arg : Nat) (body : List Word) (s : State) : Keeps s (region ld arg body s) := by
  unfold region
  repeat' with_reducible first
    | exact Keeps.refl _ | intro _ | apply Keeps.foldl | apply Keeps.step (plainRec_keeps ..)
    | apply Keeps.step (loadFail_keeps ..) | apply Keeps.step (State.setLoad_keeps ..) | split | dsimp only

theorem beginFrames_keeps (ld : Nat) (s : State) : Keeps s (beginFrames ld s) := by
  unfold beginFrames
  repeat' with_reducible first
    | exact Keeps.refl _ | intro _ | apply Keeps.foldl | apply Keeps.step (State.setLoad_keeps ..)
    | apply Keeps.step (State.setRegion_keeps ..) | split | dsimp only

theorem chunk_keeps (ld arg : Nat) (body : List Word) (s : State) : Keeps s (chunk ld arg body s) := by
  unfold chunk
  refine outerRec_keeps _ _ _ _ _ (fun l u => ?_)
  have h0 : ∀ l0, Keeps u (u.setLoad ld l0) := fun l0 => State.setLoad_keeps u ld l0
  have h1 : ∀ l0, Keeps u (if arg = 1 then beginFrames ld (u.setLoad ld l0) else u.setLoad ld l0) :=
    fun l0 => .ite ((h0 l0).trans (beginFrames_keeps ..)) (h0 l0)
  refine .ite (loadFail_keeps ..) (.ite ((h0 _).trans (loadFail_keeps ..)) (.ite ((h0 _).trans (loadFail_keeps ..)) ?_))
  exact .ite ((h1 _).trans (loadFail_keeps ..)) ((h1 _).trans (State.setLoad_keeps ..))

theorem roll_keeps (ld : Nat) (arg : Nat) (body : List Word) (s : State) : Keeps s (roll ld arg body s) := by
  unfold roll
  repeat' with_reducible first
    | exact Keeps.refl _ | intro _ | apply Keeps.foldl | apply Keeps.step (withRec_keeps ..)
    | apply Keeps.step (loadFail_keeps ..) | apply Keeps.step (State.setLoad_keeps ..) | split

theorem undoSegment_keeps (ld : Nat) (s : State) : Keeps s (undoSegment ld s) := by
  unfold undoSegment
  repeat' with_reducible first
    | exact Keeps.refl _ | intro _ | apply Keeps.foldl | apply Keeps.step (State.setFrame_keeps ..)
    | apply Keeps.step (State.refresh_keeps ..) | apply Keeps.step (State.setRegion_keeps ..)
    | apply Keeps.step (State.setLoad_keeps ..) | split

theorem controlEnd_keeps (ld : Nat) (s : State) : Keeps s (controlEnd ld s) := by
  unfold controlEnd
  repeat' with_reducible first
    | exact Keeps.refl _ | intro _ | apply Keeps.foldl | apply Keeps.step (loadFail_keeps ..)
    | apply Keeps.step (State.setLoad_keeps ..) | apply Keeps.step (applyImage_keeps ..)
    | apply Keeps.step (State.setRegion_keeps ..) | apply Keeps.step (isolate_keeps ..) | split | dsimp only
    | apply Keeps.step (Keeps.foldl ..) | apply Keeps.step (Keeps.mk8 ..)

theorem tag_keeps (ld : Nat) (arg : Nat) (body : List Word) (s : State) : Keeps s (tag ld arg body s) := by
  unfold tag
  repeat' with_reducible first
    | exact Keeps.refl _ | intro _ | apply Keeps.foldl | apply Keeps.step (outerRec_keeps ..)
    | apply Keeps.step (loadFail_keeps ..) | apply Keeps.step (undoSegment_keeps ..)
    | apply Keeps.step (State.setLoad_keeps ..) | apply Keeps.step (controlEnd_keeps ..) | split | dsimp only

theorem far_keeps (ld : Nat) (arg : Nat) (w : Word) (s : State) : Keeps s (far ld arg w s) := by
  unfold far
  repeat' with_reducible first
    | exact Keeps.refl _ | intro _ | apply Keeps.foldl | apply Keeps.step (plainRec_keeps ..)
    | apply Keeps.step (loadFail_keeps ..) | apply Keeps.step (State.setLoad_keeps ..) | split

theorem storeFrame_keeps (ld : Nat) (key : Nat) (w : Word) (p : Plane) (l : Load) (s : State) :
    Keeps s (storeFrame ld key w p l s) := by
  unfold storeFrame
  repeat' with_reducible first
    | exact Keeps.refl _ | intro _ | apply Keeps.foldl | apply Keeps.step (writePlane_keeps ..)
    | apply Keeps.step (State.setRegion_keeps ..) | apply Keeps.step (State.refresh_keeps ..)
    | apply Keeps.step (State.setLoad_keeps ..) | split

theorem fdataFrames_keeps (ld : Nat) : ∀ (fs : List (List Word)) (s : State), Keeps s (fdataFrames ld fs s)
  | [], s => .refl s
  | fr :: rest, s => by
    unfold fdataFrames
    repeat' with_reducible first
    | exact Keeps.refl _ | apply Keeps.step (fdataFrames_keeps ld rest _) | apply Keeps.step (storeFrame_keeps ..)
    | apply Keeps.step (loadFail_keeps ..) | dsimp only | split

theorem fdata_keeps (ld : Nat) (arg : Nat) (body : List Word) (s : State) : Keeps s (fdata ld arg body s) := by
  unfold fdata
  repeat' with_reducible first
    | exact Keeps.refl _ | intro _ | apply Keeps.foldl | apply Keeps.step (withRec_keeps ..)
    | apply Keeps.step (loadFail_keeps ..) | apply Keeps.step (fdataFrames_keeps ..)
    | apply Keeps.step (State.setLoad_keeps ..) | split

theorem sigsFrames_keeps (ld : Nat) : ∀ (ws : List Word) (s : State), Keeps s (sigsFrames ld ws s)
  | [], s => .refl s
  | sig :: rest, s => by
    unfold sigsFrames
    repeat' with_reducible first
    | exact Keeps.refl _ | apply Keeps.step (sigsFrames_keeps ld rest _) | apply Keeps.step (storeFrame_keeps ..)
    | apply Keeps.step (loadFail_keeps ..) | dsimp only | split

theorem sigs_keeps (ld : Nat) (arg : Nat) (body : List Word) (s : State) : Keeps s (sigs ld arg body s) := by
  unfold sigs
  repeat' with_reducible first
    | exact Keeps.refl _ | intro _ | apply Keeps.foldl | apply Keeps.step (plainRec_keeps ..)
    | apply Keeps.step (loadFail_keeps ..) | apply Keeps.step (sigsFrames_keeps ..)
    | apply Keeps.step (State.setLoad_keeps ..) | split

theorem check_keeps (ld : Nat) (arg : Nat) (w : Word) (s : State) : Keeps s (check ld arg w s) := by
  unfold check
  repeat' with_reducible first
    | exact Keeps.refl _ | intro _ | apply Keeps.foldl | apply Keeps.step (outerRec_keeps ..)
    | apply Keeps.step (loadFail_keeps ..) | apply Keeps.step (State.setLoad_keeps ..) | split | dsimp only

theorem desync_keeps (ld : Nat) (arg : Nat) (s : State) : Keeps s (desync ld arg s) := by
  unfold desync
  repeat' with_reducible first
    | exact Keeps.refl _ | intro _ | apply Keeps.foldl | apply Keeps.step (takeRec_keeps ..)
    | apply Keeps.step (loadFail_keeps ..) | apply Keeps.step (loadOk_keeps ..) | split

theorem directLoadWait_keeps (ld : Nat) (s : State) : Keeps s (directLoadWait ld s) := by
  unfold directLoadWait
  repeat' with_reducible first
    | exact Keeps.refl _ | intro _ | apply Keeps.foldl | apply Keeps.step (settle_keeps ..)
    | apply Keeps.step (State.setLoad_keeps ..) | apply Keeps.step (isolate_keeps ..) | split | dsimp only

end Sys2Proof.Machine
end

