-- ==== Sys2Proof/Laws/KUan.lean ====
section
/-! SUPPORT. The operations of Machine/Uan.lean keep what `Keeps` names. -/
namespace Sys2Proof.Machine
open Sys2Proof

theorem uanInt_keeps (s : State) (r : Nat) (bits : Word) : Keeps s (uanInt s r bits) := by
  unfold uanInt
  repeat' with_reducible first
    | exact Keeps.refl _ | intro _ | apply Keeps.foldl | apply Keeps.step (State.raiseFor_keeps ..)

theorem uanEvent_keeps (s : State) (r : Nat) (kind : Nat) (st : Status) (stn : Nat) : Keeps s (uanEvent s r kind st stn) := by
  unfold uanEvent
  repeat' with_reducible first
    | exact Keeps.refl _ | intro _ | apply Keeps.foldl | apply Keeps.step (State.post_keeps ..) | split | dsimp only
    | apply Keeps.step (Keeps.foldl ..) | apply Keeps.step (Keeps.mk8 ..)

theorem ringDone_keeps (s : State) (r : Nat) (st : Status) (res : List Word) : Keeps s (ringDone s r st res) := by
  unfold ringDone
  repeat' with_reducible first
    | exact Keeps.refl _ | intro _ | apply Keeps.foldl | apply Keeps.step (uanInt_keeps ..)
    | apply Keeps.step (State.setRing_keeps ..) | apply Keeps.step (endCmd?_keeps ..) | split | dsimp only

theorem sendFrame_keeps (s : State) (r : Nat) (k : OnRing) : Keeps s (sendFrame s r k) := by
  unfold sendFrame
  repeat' with_reducible first
    | exact Keeps.refl _ | intro _ | apply Keeps.foldl | apply Keeps.step (State.setRing_keeps ..)
    | apply Keeps.step (State.emit_keeps ..)

theorem sendIdle_keeps (s : State) (r : Nat) : Keeps s (sendIdle s r) := by
  unfold sendIdle
  repeat' with_reducible first
    | exact Keeps.refl _ | intro _ | apply Keeps.foldl | apply Keeps.step (State.emit_keeps ..)

theorem pumpCtrl_keeps (s : State) (r : Nat) : Keeps s (pumpCtrl s r) := by
  unfold pumpCtrl
  repeat' with_reducible first
    | exact Keeps.refl _ | intro _ | apply Keeps.foldl | apply Keeps.step (sendFrame_keeps ..)
    | apply Keeps.step (State.setRing_keeps ..) | split | dsimp only

theorem ringSignals_keeps (s : State) (r : Nat) : Keeps s (ringSignals s r) := by
  unfold ringSignals
  repeat' with_reducible first
    | exact Keeps.refl _ | intro _ | apply Keeps.foldl | apply Keeps.step (State.setTable_keeps ..)

theorem ringStopped_keeps (s : State) (r : Nat) : Keeps s (ringStopped s r) := by
  unfold ringStopped
  repeat' with_reducible first
    | exact Keeps.refl _ | intro _ | apply Keeps.foldl | apply Keeps.step (State.setRing_keeps ..)
    | apply Keeps.step (ringSignals_keeps ..) | apply Keeps.step (ringDone_keeps ..)
    | apply Keeps.step (startPort_keeps ..) | split | dsimp only | apply Keeps.step (Keeps.foldl ..)

theorem stopRing_keeps (s : State) (r : Nat) : Keeps s (stopRing s r) := by
  unfold stopRing
  repeat' with_reducible first
    | exact Keeps.refl _ | intro _ | apply Keeps.foldl | apply Keeps.step (State.setRing_keeps ..)
    | apply Keeps.step (pumpCtrl_keeps ..) | split | dsimp only

theorem safeAll_keeps (s : State) (r : Nat) : Keeps s (safeAll s r) := by
  unfold safeAll
  repeat' with_reducible first
    | exact Keeps.refl _ | intro _ | apply Keeps.foldl | apply Keeps.step (State.setRing_keeps ..) | split
    | dsimp only

theorem resetRing_keeps (s : State) (r : Nat) : Keeps s (resetRing s r) := by
  unfold resetRing
  repeat' with_reducible first
    | exact Keeps.refl _ | intro _ | apply Keeps.foldl | apply Keeps.step (safeAll_keeps ..)
    | apply Keeps.step (State.setRing_keeps ..) | apply Keeps.step (stopRing_keeps ..) | split | dsimp only

theorem ringsAfterTenancy_keeps (old : State) (s : State) : Keeps s (ringsAfterTenancy old s) := by
  unfold ringsAfterTenancy
  repeat' with_reducible first
    | exact Keeps.refl _ | intro _ | apply Keeps.foldl | apply Keeps.step (stopRing_keeps ..) | split

theorem ringBegin_keeps (s : State) (r : Nat) (cmd : Nat) (ref : Option (Nat × Nat)) : Keeps s (ringBegin s r cmd ref) := by
  unfold ringBegin
  repeat' with_reducible first
    | exact Keeps.refl _ | intro _ | apply Keeps.foldl | apply Keeps.step (State.setRing_keeps ..)

theorem startRing_keeps (s : State) (r : Nat) : Keeps s (startRing s r) := by
  unfold startRing
  repeat' with_reducible first
    | exact Keeps.refl _ | intro _ | apply Keeps.foldl | apply Keeps.step (State.setRing_keeps ..)
    | apply Keeps.step (sendIdle_keeps ..) | apply Keeps.step (enterMode_keeps ..) | split | dsimp only
    | apply Keeps.step (Keeps.foldl ..)

theorem ringCommand_keeps (s : State) (r : Nat) (cmd : Nat) (ref : Option (Nat × Nat)) : Keeps s (ringCommand s r cmd ref) := by
  unfold ringCommand
  repeat' with_reducible first
    | exact Keeps.refl _ | intro _ | apply Keeps.foldl | apply Keeps.step (ringDone_keeps ..)
    | apply Keeps.step (endCmd?_keeps ..) | apply Keeps.step (uanInt_keeps ..)
    | apply Keeps.step (State.setRing_keeps ..) | apply Keeps.step (ringBegin_keeps ..)
    | apply Keeps.step (startRing_keeps ..) | apply Keeps.step (stopRing_keeps ..)
    | apply Keeps.step (pumpCtrl_keeps ..) | apply Keeps.step (uanEvent_keeps ..) | split | dsimp only

theorem ctrlWrite_keeps (r : Nat) (off : Nat) (v : Word) (s : State) : Keeps s (ctrlWrite r off v s) := by
  unfold ctrlWrite
  repeat' with_reducible first
    | exact Keeps.refl _ | intro _ | apply Keeps.foldl | apply Keeps.step (ringCommand_keeps ..)
    | apply Keeps.step (State.setRing_keeps ..) | split

theorem ringCmd_keeps (dom : Owner) (r : Nat) (cmd : Nat) (s : State) : Keeps s (ringCmd dom r cmd s) := by
  unfold ringCmd
  repeat' with_reducible first
    | exact Keeps.refl _ | intro _ | apply Keeps.foldl | apply Keeps.step (ctrlWrite_keeps ..) | split

theorem measure_keeps (s : State) (r : Nat) : Keeps s (measure s r) := by
  unfold measure
  repeat' with_reducible first
    | exact Keeps.refl _ | intro _ | apply Keeps.foldl | apply Keeps.step (pumpCtrl_keeps ..)
    | apply Keeps.step (State.setRing_keeps ..)

theorem ringSynced_keeps (s : State) (r : Nat) : Keeps s (ringSynced s r) := by
  unfold ringSynced
  repeat' with_reducible first
    | exact Keeps.refl _ | intro _ | apply Keeps.foldl | apply Keeps.step (pumpCtrl_keeps ..)
    | apply Keeps.step (State.setRing_keeps ..) | apply Keeps.step (measure_keeps ..) | split | dsimp only

theorem breakRing_keeps (s : State) (r : Nat) : Keeps s (breakRing s r) := by
  unfold breakRing
  repeat' with_reducible first
    | exact Keeps.refl _ | intro _ | apply Keeps.foldl | apply Keeps.step (sendIdle_keeps ..)
    | apply Keeps.step (State.setRing_keeps ..) | apply Keeps.step (ringDone_keeps ..)
    | apply Keeps.step (ringSignals_keeps ..) | apply Keeps.step (uanEvent_keeps ..)
    | apply Keeps.step (uanInt_keeps ..)

theorem ringUnsynced_keeps (s : State) (r : Nat) : Keeps s (ringUnsynced s r) := by
  unfold ringUnsynced
  repeat' with_reducible first
    | exact Keeps.refl _ | intro _ | apply Keeps.foldl | apply Keeps.step (breakRing_keeps ..) | split

theorem lineIn_keeps (s : State) (r : Nat) (gs : List CodeGroup) : Keeps s (lineIn s r gs) := by
  unfold lineIn
  repeat' with_reducible first
    | exact Keeps.refl _ | intro _ | apply Keeps.foldl | apply Keeps.step (State.setRing_keeps ..)
    | apply Keeps.step (ringSynced_keeps ..) | apply Keeps.step (ringUnsynced_keeps ..) | split | dsimp only

theorem startSyncTimeout_keeps (r : Nat) (s : State) : Keeps s (startSyncTimeout r s) := by
  unfold startSyncTimeout
  repeat' with_reducible first
    | exact Keeps.refl _ | intro _ | apply Keeps.foldl | apply Keeps.step (ringDone_keeps ..)
    | apply Keeps.step (State.setRing_keeps ..) | split | dsimp only

theorem stopTimeout_keeps (r : Nat) (s : State) : Keeps s (stopTimeout r s) := by
  unfold stopTimeout
  repeat' with_reducible first
    | exact Keeps.refl _ | intro _ | apply Keeps.foldl | apply Keeps.step (ringStopped_keeps ..) | split | dsimp only

theorem received_keeps (r : Nat) (gs : List CodeGroup) (f : List Byte → State → State) (s : State) (hf : ∀ a0 a1, Keeps a1 (f a0 a1)) :
    Keeps s (received r gs f s) := by
  unfold received
  repeat' with_reducible first
    | exact Keeps.refl _ | intro _ | apply Keeps.foldl | apply Keeps.step (hf ..) | apply Keeps.step (lineIn_keeps ..)
    | split | dsimp only

theorem returned_keeps (s : State) (r : Nat) (k : OnRing) (ok : Bool) (f : State → State) (hf : ∀ a0, Keeps a0 (f a0)) : Keeps s (returned s r k ok f) := by
  unfold returned
  repeat' with_reducible first
    | exact Keeps.refl _ | intro _ | apply Keeps.foldl | apply Keeps.step (hf ..)
    | apply Keeps.step (State.setRing_keeps ..) | apply Keeps.step (pumpCtrl_keeps ..) | split | dsimp only

theorem resetFrame_keeps (r : Nat) (bs : List Byte) (s : State) : Keeps s (resetFrame r bs s) := by
  unfold resetFrame
  repeat' with_reducible first
    | exact Keeps.refl _ | intro _ | apply Keeps.foldl | apply Keeps.step (returned_keeps ..)
    | apply Keeps.step (ringStopped_keeps ..) | apply Keeps.step (measure_keeps ..)
    | apply Keeps.step (pumpCtrl_keeps ..) | split

end Sys2Proof.Machine
end

