-- ==== Sys2Proof/Laws/KPower.lean ====
section
/-! SUPPORT. The operations of Machine/Power.lean keep what `Keeps` names. -/
namespace Sys2Proof.Machine
open Sys2Proof

theorem setEntry_keeps (s : State) (b : Nat) (e : Option Entry) : Keeps s (setEntry s b e) := by
  unfold setEntry
  repeat' with_reducible first
    | exact Keeps.refl _ | intro _ | apply Keeps.foldl | apply Keeps.step (setBandEntry_keeps ..) | split | dsimp only
    | apply Keeps.step (Keeps.foldl ..) | apply Keeps.step (Keeps.mk8 ..)

theorem refuse_keeps (s : State) (b : Nat) (blk : Nat) (reason : Nat) : Keeps s (refuse s b blk reason) := by
  unfold refuse
  repeat' with_reducible first
    | exact Keeps.refl _ | intro _ | apply Keeps.foldl | apply Keeps.step (refuseDev_keeps ..)
    | apply Keeps.step (refuseBand_keeps ..) | split

theorem bandLogicOff_keeps (s : State) (b : Nat) : Keeps s (bandLogicOff s b) := by
  unfold bandLogicOff
  repeat' with_reducible first
    | exact Keeps.refl _ | intro _ | apply Keeps.foldl | apply Keeps.step (dropBand_keeps ..) | split | dsimp only
    | apply Keeps.step (Keeps.foldl ..) | apply Keeps.step (Keeps.mk8 ..)

theorem loseFrames_keeps (s : State) (b : Nat) : Keeps s (loseFrames s b) := by
  unfold loseFrames
  repeat' with_reducible first
    | exact Keeps.refl _ | intro _ | apply Keeps.foldl | split | dsimp only | apply Keeps.step (Keeps.foldl ..)
    | apply Keeps.step (Keeps.mk8 ..)

theorem bandRetentionOff_keeps (s : State) (b : Nat) : Keeps s (bandRetentionOff s b) := by
  unfold bandRetentionOff
  repeat' with_reducible first
    | exact Keeps.refl _ | intro _ | apply Keeps.foldl | apply Keeps.step (State.refresh_keeps ..)
    | apply Keeps.step (loseFrames_keeps ..) | split | dsimp only | apply Keeps.step (Keeps.foldl ..)
    | apply Keeps.step (Keeps.mk8 ..)

theorem bandForget_keeps (s : State) (b : Nat) : Keeps s (bandForget s b) := by
  unfold bandForget
  repeat' with_reducible first
    | exact Keeps.refl _ | intro _ | apply Keeps.foldl | apply Keeps.step (forgetOut_keeps ..)

theorem carryBand_keeps (s : State) (b : Nat) (e : Entry) : Keeps s (carryBand s b e) := by
  unfold carryBand
  repeat' with_reducible first
    | exact Keeps.refl _ | intro _ | apply Keeps.foldl | apply Keeps.step (refuseBand_keeps ..)
    | apply Keeps.step (bandLogicOff_keeps ..) | apply Keeps.step (saveBand_keeps ..)
    | apply Keeps.step (bandForget_keeps ..) | apply Keeps.step (bandRetentionOff_keeps ..)
    | apply Keeps.step (State.setBand_keeps ..) | apply Keeps.step (endCmd?_keeps ..)
    | apply Keeps.step (State.raiseAll_keeps ..) | apply Keeps.step (State.emit_keeps ..) | split | dsimp only
    | apply Keeps.step (Keeps.foldl ..) | apply Keeps.step (Keeps.mk8 ..)

theorem accepted_keeps (s : State) (b : Nat) (e : Entry) : Keeps s (accepted s b e) := by
  unfold accepted
  repeat' with_reducible first
    | exact Keeps.refl _ | intro _ | apply Keeps.foldl | apply Keeps.step (stopRing_keeps ..)
    | apply Keeps.step (setEntry_keeps ..) | apply Keeps.step (carryBand_keeps ..) | split | dsimp only
    | apply Keeps.step (Keeps.foldl ..)

theorem answer_keeps (s : State) (b : Nat) (voter : Nat) (v : Vote) : Keeps s (answer s b voter v) := by
  unfold answer
  repeat' with_reducible first
    | exact Keeps.refl _ | intro _ | apply Keeps.foldl | apply Keeps.step (refuse_keeps ..)
    | apply Keeps.step (setEntry_keeps ..) | apply Keeps.step (accepted_keeps ..) | split | dsimp only

theorem voteAnswer_keeps (b : Nat) (voter : Nat) (v : Vote) (s : State) : Keeps s (voteAnswer b voter v s) := by
  unfold voteAnswer
  repeat' with_reducible first
    | exact Keeps.refl _ | intro _ | apply Keeps.foldl | apply Keeps.step (answer_keeps ..) | split

theorem voteTimeout_keeps (b : Nat) (s : State) : Keeps s (voteTimeout b s) := by
  unfold voteTimeout
  repeat' with_reducible first
    | exact Keeps.refl _ | intro _ | apply Keeps.foldl | apply Keeps.step (refuse_keeps ..) | split

theorem userSample_keeps (b : Nat) (stay : Bool) (wait : Bool) (s : State) : Keeps s (userSample b stay wait s) := by
  unfold userSample
  repeat' with_reducible first
    | exact Keeps.refl _ | intro _ | apply Keeps.foldl | apply Keeps.step (refuse_keeps ..)
    | apply Keeps.step (setEntry_keeps ..) | apply Keeps.step (answer_keeps ..) | split | dsimp only

theorem stayAwakeRise_keeps (b : Nat) (s : State) : Keeps s (stayAwakeRise b s) := by
  unfold stayAwakeRise
  repeat' with_reducible first
    | exact Keeps.refl _ | intro _ | apply Keeps.foldl | apply Keeps.step (refuse_keeps ..) | split | dsimp only

theorem beginEntry_keeps (s : State) (b : Nat) (target : Nat) (cmd : Option CmdRef) : Keeps s (beginEntry s b target cmd) := by
  unfold beginEntry
  repeat' with_reducible first
    | exact Keeps.refl _ | intro _ | apply Keeps.foldl | apply Keeps.step (setEntry_keeps ..)
    | apply Keeps.step (State.emit_keeps ..)

theorem requestOn_keeps (c : RunCmd) (b : Nat) (s : State) : Keeps s (requestOn c b s) := by
  unfold requestOn
  repeat' with_reducible first
    | exact Keeps.refl _ | intro _ | apply Keeps.foldl | apply Keeps.step (waitCmd_keeps ..)
    | apply Keeps.step (State.setBand_keeps ..) | apply Keeps.step (wakeBand_keeps ..) | split | dsimp only

theorem requestBand_keeps (c : RunCmd) (b : Nat) (target : Nat) (s : State) : Keeps s (requestBand c b target s) := by
  unfold requestBand
  repeat' with_reducible first
    | exact Keeps.refl _ | intro _ | apply Keeps.foldl | apply Keeps.step (finish_keeps ..)
    | apply Keeps.step (requestOn_keeps ..) | apply Keeps.step (beginEntry_keeps ..)
    | apply Keeps.step (waitCmd_keeps ..) | split | dsimp only

theorem requestDevice_keeps (c : RunCmd) (target : Nat) (s : State) : Keeps s (requestDevice c target s) := by
  unfold requestDevice
  repeat' with_reducible first
    | exact Keeps.refl _ | intro _ | apply Keeps.foldl | apply Keeps.step (finish_keeps ..)
    | apply Keeps.step (beginEntry_keeps ..) | apply Keeps.step (waitCmd_keeps ..) | split

theorem pwrRequestState_keeps (d : Nat) (s : State) : Keeps s (pwrRequestState d s) := by
  unfold pwrRequestState
  repeat' with_reducible first
    | exact Keeps.refl _ | intro _ | apply Keeps.foldl | apply Keeps.step (serve_keeps ..)
    | apply Keeps.step (finish_keeps ..) | apply Keeps.step (requestDevice_keeps ..)
    | apply Keeps.step (requestBand_keeps ..) | split | dsimp only

theorem bandWake_keeps (b : Nat) (s : State) : Keeps s (bandWake b s) := by
  unfold bandWake
  repeat' with_reducible first
    | exact Keeps.refl _ | intro _ | apply Keeps.foldl | apply Keeps.step (wakeBand_keeps ..) | split

theorem imageLost_keeps (s : State) (b : Nat) : Keeps s (imageLost s b) := by
  unfold imageLost
  repeat' with_reducible first
    | exact Keeps.refl _ | intro _ | apply Keeps.foldl | apply Keeps.step (initBand_keeps ..)
    | apply Keeps.step (State.setBand_keeps ..) | apply Keeps.step (State.raiseFor_keeps ..) | split | dsimp only
    | apply Keeps.step (Keeps.foldl ..) | apply Keeps.step (Keeps.mk8 ..)

theorem checkBank_keeps (s : State) (n : Nat) : Keeps s (checkBank s n) := by
  unfold checkBank
  repeat' with_reducible first
    | exact Keeps.refl _ | intro _ | apply Keeps.foldl | split | dsimp only | apply Keeps.step (Keeps.foldl ..)
    | apply Keeps.step (Keeps.mk8 ..)

theorem restoreBand_keeps (s : State) (b : Nat) : Keeps s (restoreBand s b) := by
  unfold restoreBand
  repeat' with_reducible first
    | exact Keeps.refl _ | intro _ | apply Keeps.foldl | apply Keeps.step (checkBank_keeps ..)
    | apply Keeps.step (loadBand_keeps ..) | apply Keeps.step (imageLost_keeps ..) | split | dsimp only
    | apply Keeps.step (Keeps.foldl ..) | apply Keeps.step (Keeps.mk8 ..)

theorem bandPowerGood_keeps (b : Nat) (s : State) : Keeps s (bandPowerGood b s) := by
  unfold bandPowerGood
  repeat' with_reducible first
    | exact Keeps.refl _ | intro _ | apply Keeps.foldl | apply Keeps.step (bandOn_keeps ..)
    | apply Keeps.step (restoreBand_keeps ..) | apply Keeps.step (State.setBand_keeps ..) | split | dsimp only

theorem parkRefused_keeps (s : State) (p : Pkt) : Keeps s (parkRefused s p) := by
  unfold parkRefused
  repeat' with_reducible first
    | exact Keeps.refl _ | intro _ | apply Keeps.foldl | apply Keeps.step (dropRsp_keeps ..)
    | apply Keeps.step (nocInt_keeps ..) | apply Keeps.step (respond_keeps ..) | apply Keeps.step (bump_keeps ..)
    | split

theorem holdBand_keeps (s : State) (b : Nat) (st : Status) : Keeps s (holdBand s b st) := by
  unfold holdBand
  repeat' with_reducible first
    | exact Keeps.refl _ | intro _ | apply Keeps.foldl | apply Keeps.step (State.setBand_keeps ..)
    | apply Keeps.step (endCmd?_keeps ..) | apply Keeps.step (parkRefused_keeps ..)
    | apply Keeps.step (State.raiseFor_keeps ..) | split | dsimp only | apply Keeps.step (Keeps.foldl ..)
    | apply Keeps.step (Keeps.mk8 ..)

theorem emptyAfterOff_keeps (s : State) (b : Nat) : Keeps s (emptyAfterOff s b) := by
  unfold emptyAfterOff
  repeat' with_reducible first
    | exact Keeps.refl _ | intro _ | apply Keeps.foldl | split | dsimp only | apply Keeps.step (Keeps.foldl ..)
    | apply Keeps.step (Keeps.mk8 ..)

theorem offFrames_keeps (fail : Status) : ∀ (i : Nat) (es : List (Nat × Frame)) (s : State), Keeps s (offFrames fail i es s).2
  | _, [], s => .refl s
  | i, e :: rest, s => by
    have h : ∀ r : Status × List Word, Keeps s (if r.1 != .ok then (r.1, s) else
        offFrames fail (i - 1) rest (s.setFrame e.1 (putPlane (s.frameOf e.1) e.1 true
          { reloadPlane e.1 e.2 with payload := packWords r.2, flips := [] }))).2 := fun r => by
      split
      · exact .refl s
      · exact (State.setFrame_keeps ..).trans (offFrames_keeps fail (i - 1) rest _)
    exact h _

theorem offReload_keeps (s : State) (b : Nat) (fail : Status) (i : Nat) : Keeps s (offReload s b fail i).2 := by
  unfold offReload
  repeat' with_reducible first
    | exact Keeps.refl _ | intro _ | apply Keeps.foldl | apply Keeps.step (offFrames_keeps ..)
    | apply Keeps.step (writeCanary_keeps ..) | split | dsimp only

theorem offReloadDone_keeps (b : Nat) (r : Status) (i : Nat) (s : State) : Keeps s (offReloadDone b r i s) := by
  unfold offReloadDone
  repeat' with_reducible first
    | exact Keeps.refl _ | intro _ | apply Keeps.foldl | apply Keeps.step (offReload_keeps ..)
    | apply Keeps.step (State.refresh_keeps ..) | apply Keeps.step (ramFabric_keeps ..)
    | apply Keeps.step (initBand_keeps ..) | apply Keeps.step (State.setBand_keeps ..)
    | apply Keeps.step (bandOn_keeps ..) | apply Keeps.step (emptyAfterOff_keeps ..)
    | apply Keeps.step (holdBand_keeps ..) | apply Keeps.step (loseFrames_keeps ..) | split | dsimp only
    | apply Keeps.step (Keeps.foldl ..) | apply Keeps.step (Keeps.mk8 ..)

theorem lastXact_keeps (s : State) (rail : Nat) (cmd : Nat) (st : Status) : Keeps s (lastXact s rail cmd st) := by
  unfold lastXact
  repeat' with_reducible first
    | exact Keeps.refl _ | intro _ | apply Keeps.foldl | split | dsimp only | apply Keeps.step (Keeps.foldl ..)
    | apply Keeps.step (Keeps.mk8 ..)

theorem pecFail_keeps (s : State) : Keeps s (pecFail s) := by
  unfold pecFail
  repeat' with_reducible first
    | exact Keeps.refl _ | intro _ | apply Keeps.foldl | split | dsimp only | apply Keeps.step (Keeps.foldl ..)
    | apply Keeps.step (Keeps.mk8 ..)

theorem pmbWrite1_keeps (s : State) (rail cmd : Nat) (b : Byte) : Keeps s (pmbWrite1 s rail cmd b) := by
  unfold pmbWrite1
  exact Keeps.step (State.emit_keeps ..) (lastXact_keeps ..)

theorem applyRecord_keeps (r : List Byte) (s : State) : Keeps s (applyRecord r s) := by
  unfold applyRecord
  repeat' with_reducible first
    | exact Keeps.refl _ | intro _ | apply Keeps.foldl | apply Keeps.step (pmbWrite1_keeps ..) | split | dsimp only
    | apply Keeps.step (Keeps.foldl ..) | apply Keeps.step (Keeps.mk8 ..)

theorem pwrSetSentry_keeps (d : Nat) (s : State) : Keeps s (pwrSetSentry d s) := by
  unfold pwrSetSentry
  repeat' with_reducible first
    | exact Keeps.refl _ | intro _ | apply Keeps.foldl | apply Keeps.step (serve_keeps ..)
    | apply Keeps.step (finish_keeps ..) | apply Keeps.step (applyRecord_keeps ..) | split | dsimp only

theorem pwrGetAccounting_keeps (d : Nat) (s : State) : Keeps s (pwrGetAccounting d s) := by
  unfold pwrGetAccounting
  repeat' with_reducible first
    | exact Keeps.refl _ | intro _ | apply Keeps.foldl | apply Keeps.step (serve_keeps ..)
    | apply Keeps.step (finish_keeps ..) | apply Keeps.step (writeBuf_keeps ..) | split | dsimp only

theorem voutCommand_keeps (s : State) (rail : Nat) (mv : Nat) : Keeps s (voutCommand s rail mv) := by
  unfold voutCommand
  repeat' with_reducible first
    | exact Keeps.refl _ | intro _ | apply Keeps.foldl | apply Keeps.step (lastXact_keeps ..)
    | apply Keeps.step (State.setRail_keeps ..) | apply Keeps.step (State.emit_keeps ..)

theorem avsFail_keeps (s : State) (rail : Nat) (st : Status) : Keeps s (avsFail s rail st) := by
  unfold avsFail
  repeat' with_reducible first
    | exact Keeps.refl _ | intro _ | apply Keeps.foldl | apply Keeps.step (State.setRail_keeps ..)
    | apply Keeps.step (State.policy_keeps ..) | apply Keeps.step (State.post_keeps ..) | split | dsimp only
    | apply Keeps.step (Keeps.foldl ..) | apply Keeps.step (Keeps.mk8 ..)

theorem pmbusPoll_keeps (reads : List RailRead) (s : State) : Keeps s (pmbusPoll reads s) := by
  unfold pmbusPoll
  repeat' with_reducible first
    | exact Keeps.refl _ | intro _ | apply Keeps.foldl | apply Keeps.step (pecFail_keeps ..)
    | apply Keeps.step (lastXact_keeps ..) | apply Keeps.step (State.setRail_keeps ..) | split | dsimp only
    | apply Keeps.step (Keeps.foldl ..) | apply Keeps.step (Keeps.mk8 ..)

theorem readVoutPoll_keeps (rail : Nat) (mv : Nat) (pecBad : Bool) (s : State) :
    Keeps s (readVoutPoll rail mv pecBad s) := by
  unfold readVoutPoll
  repeat' with_reducible first
    | exact Keeps.refl _ | intro _ | apply Keeps.foldl | apply Keeps.step (pecFail_keeps ..)
    | apply Keeps.step (State.setRail_keeps ..) | apply Keeps.step (lastXact_keeps ..) | split | dsimp only
    | apply Keeps.step (Keeps.foldl ..) | apply Keeps.step (Keeps.mk8 ..)

theorem voutTimeout_keeps (rail : Nat) (s : State) : Keeps s (voutTimeout rail s) := by
  unfold voutTimeout
  repeat' with_reducible first
    | exact Keeps.refl _ | intro _ | apply Keeps.foldl | apply Keeps.step (avsFail_keeps ..)
    | apply Keeps.step (lastXact_keeps ..) | apply Keeps.step (State.raiseAll_keeps ..) | split

theorem pmbusRetry_keeps (rail : Nat) (acked : Bool) (s : State) : Keeps s (pmbusRetry rail acked s) := by
  unfold pmbusRetry
  repeat' with_reducible first
    | exact Keeps.refl _ | intro _ | apply Keeps.foldl | apply Keeps.step (lastXact_keeps ..)
    | apply Keeps.step (avsFail_keeps ..) | apply Keeps.step (State.raiseAll_keeps ..) | split | dsimp only
    | apply Keeps.step (Keeps.foldl ..) | apply Keeps.step (Keeps.mk8 ..)

theorem pmbAlert_keeps (words : List Nat) (pecBad : List Nat) (s : State) : Keeps s (pmbAlert words pecBad s) := by
  unfold pmbAlert
  repeat' with_reducible first
    | exact Keeps.refl _ | intro _ | apply Keeps.foldl | apply Keeps.step (pecFail_keeps ..)
    | apply Keeps.step (State.emit_keeps ..) | apply Keeps.step (lastXact_keeps ..)
    | apply Keeps.step (State.setRail_keeps ..) | apply Keeps.step (State.post_keeps ..)
    | apply Keeps.step (State.raiseAll_keeps ..) | split | dsimp only | apply Keeps.step (Keeps.foldl ..)

theorem rtcFallback_keeps (s : State) : Keeps s (rtcFallback s) := by
  unfold rtcFallback
  repeat' with_reducible first
    | exact Keeps.refl _ | intro _ | apply Keeps.foldl | split | dsimp only | apply Keeps.step (Keeps.foldl ..)
    | apply Keeps.step (Keeps.mk8 ..)

theorem rtcLo_keeps (acc : Accessor) (s : State) : Keeps s (rtcLo acc s).2 := by
  unfold rtcLo
  repeat' with_reducible first
    | exact Keeps.refl _ | intro _ | apply Keeps.foldl | apply Keeps.step (State.setCopy_keeps ..)

theorem kennelAccess_keeps (acc : Accessor) (wr : Option Word) (s : State) : Keeps s (kennelAccess acc wr s).2 := by
  unfold kennelAccess
  repeat' with_reducible first
    | exact Keeps.refl _ | intro _ | apply Keeps.foldl | apply Keeps.step (State.setCopy_keeps ..) | split
    | dsimp only | apply Keeps.step (Keeps.foldl ..) | apply Keeps.step (Keeps.mk8 ..)

theorem kennelData_keeps (acc : Accessor) (wr : Option Word) (s : State) : Keeps s (kennelData acc wr s) := by
  unfold kennelData
  repeat' with_reducible first
    | exact Keeps.refl _ | intro _ | apply Keeps.foldl | apply Keeps.step (kennelAccess_keeps ..)
    | apply Keeps.step (State.emit_keeps ..) | split

theorem pwrWrite_keeps (acc : Accessor) (off : Nat) (v : Word) (s : State) : Keeps s (pwrWrite acc off v s) := by
  unfold pwrWrite
  repeat' with_reducible first
    | exact Keeps.refl _ | intro _ | apply Keeps.foldl | apply Keeps.step (State.setCopy_keeps ..)
    | apply Keeps.step (State.clearCopy_keeps ..) | split

theorem aonRead_keeps (acc : Accessor) (off : Nat) (s : State) : Keeps s (aonRead acc off s).2 := by
  unfold aonRead
  repeat' with_reducible first
    | exact Keeps.refl _ | intro _ | apply Keeps.foldl | apply Keeps.step (rtcLo_keeps ..)
    | apply Keeps.step (kennelAccess_keeps ..) | split

theorem aonWrite_keeps (acc : Accessor) (off : Nat) (v : Word) (s : State) : Keeps s (aonWrite acc off v s) := by
  unfold aonWrite
  repeat' with_reducible first
    | exact Keeps.refl _ | intro _ | apply Keeps.foldl | apply Keeps.step (State.setCopy_keeps ..)
    | apply Keeps.step (kennelAccess_keeps ..) | split

theorem pmbWrite_keeps (acc : Accessor) (off : Nat) (v : Word) (s : State) : Keeps s (pmbWrite acc off v s) := by
  unfold pmbWrite
  repeat' with_reducible first
    | exact Keeps.refl _ | intro _ | apply Keeps.foldl | apply Keeps.step (State.setCopy_keeps ..)
    | apply Keeps.step (State.clearCopy_keeps ..) | split

end Sys2Proof.Machine
end

