-- ==== Sys2Proof/Laws/KNv.lean ====
section
/-! SUPPORT. The operations of Machine/Nv.lean keep what `Keeps` names. -/
namespace Sys2Proof.Machine
open Sys2Proof

theorem hsPut_keeps (s : State) (off : Nat) (bs : List Byte) : Keeps s (hsPut s off bs) :=
  .memUpd rfl rfl rfl rfl rfl rfl (Memory.wf_writeN bs _) id

theorem putQ_keeps (s : State) (q : Nat) (g : NvQ) : Keeps s (putQ s q g) := by
  unfold putQ
  repeat' with_reducible first
    | exact Keeps.refl _ | intro _ | apply Keeps.foldl | apply Keeps.step (State.setQ_keeps ..)
    | apply Keeps.step (hsPut_keeps ..) | split

theorem takeTurn_keeps (s : State) (q : Nat) : Keeps s (takeTurn s q) := by
  unfold takeTurn
  repeat' with_reducible first
    | exact Keeps.refl _ | intro _ | apply Keeps.foldl | split | dsimp only | apply Keeps.step (Keeps.foldl ..)
    | apply Keeps.step (Keeps.mk8 ..)

theorem stopQ_keeps (s : State) (q : Nat) (st : Status) : Keeps s (stopQ s q st) := by
  unfold stopQ
  repeat' with_reducible first
    | exact Keeps.refl _ | intro _ | apply Keeps.foldl | apply Keeps.step (putQ_keeps ..)
    | apply Keeps.step (State.raiseFor_keeps ..)

theorem descriptorStart_keeps (q : Nat) (fetch : DmaResult) (s : State) : Keeps s (descriptorStart q fetch s) := by
  unfold descriptorStart
  repeat' with_reducible first
    | exact Keeps.refl _ | intro _ | apply Keeps.foldl | apply Keeps.step (blockAccess_keeps ..)
    | apply Keeps.step (takeTurn_keeps ..) | apply Keeps.step (stopQ_keeps ..) | apply Keeps.step (putQ_keeps ..)
    | split | dsimp only | apply Keeps.step (Keeps.foldl ..) | apply Keeps.step (Keeps.mk8 ..)

theorem suspend_keeps (s : State) (bank : Nat) : Keeps s (suspend s bank) := by
  unfold suspend
  exact State.setBank_keeps ..

theorem bufWrite_keeps (s : State) (q : Nat) (a : Nat) (bs : List Byte) (st : Status) : Keeps s (bufWrite s q a bs st).2 := by
  unfold bufWrite
  repeat' with_reducible first
    | exact Keeps.refl _ | intro _ | apply Keeps.foldl | apply Keeps.step (hsPut_keeps ..)
    | apply Keeps.step (blockWrite_keeps ..) | split

theorem bufMeets_keeps (q : Nat) (x : Desc) (ps : List (Nat × Nat)) (st : Status) (s : State) :
    Keeps s (bufMeets q x ps st s).2 :=
  Keeps.foldlSnd (g := fun (u : Status × State) (p : Nat × Nat) =>
    if u.1 != .ok || (hsBuf q (x.buf + (p.1 - x.addr)) p.2).isSome then u
    else blockAccess u.2 0x11B (qOwner q) false (x.buf + (p.1 - x.addr)) p.2 st)
    (fun u p => by
      split
      · exact .refl _
      · exact blockAccess_keeps ..) ps (.ok, s)

theorem readPart_keeps (q : Nat) (x : Desc) (r : PartInput) (ps : List (Nat × Nat)) (s : State) :
    Keeps s (readPart q x r ps s).2 := by
  unfold readPart
  refine Keeps.foldlSnd (fun u p => ?_) ps (Status.ok, s)
  by_cases h : (u.1 == Status.ok) = true
  · rw [if_pos h]; exact bufWrite_keeps ..
  · rw [if_neg h]; exact .refl _

theorem programPieces_keeps (data : Nat → Nat → List Byte) : ∀ (ps : List (Nat × Nat)) (s : State),
    Keeps s (programPieces data ps s).2
  | [], s => .refl s
  | p :: ps, s => (nvProgram_keeps s p.1 (data p.1 p.2)).trans (programPieces_keeps data ps _)

theorem markRetire_keeps (s : State) (a : Nat) : Keeps s (markRetire s a) := by
  unfold markRetire
  repeat' with_reducible first
    | exact Keeps.refl _ | intro _ | apply Keeps.foldl | apply Keeps.step (State.setBank_keeps ..)

theorem programPart_keeps (data : Nat → Nat → List Byte) (r : PartInput) (start : Nat) (ps : List (Nat × Nat)) (s : State) : Keeps s (programPart data r start ps s).2 := by
  unfold programPart
  repeat' with_reducible first
    | exact Keeps.refl _ | intro _ | apply Keeps.foldl | apply Keeps.step (programPieces_keeps ..)
    | apply Keeps.step (markRetire_keeps ..) | split | dsimp only

theorem retireTo_keeps (s : State) (bank : Nat) (slot : Nat) (p : Nat) (b : Bank) : Keeps s (retireTo s bank slot p b) := by
  unfold retireTo
  repeat' with_reducible first
    | exact Keeps.refl _ | intro _ | apply Keeps.foldl | apply Keeps.step (State.setBank_keeps ..)
    | apply Keeps.step (nvErasePhys_keeps ..) | apply Keeps.step (State.policy_keeps ..)
    | apply Keeps.step (State.raiseAll_keeps ..) | split | dsimp only | apply Keeps.step (Keeps.foldl ..)
    | apply Keeps.step (Keeps.mk8 ..)

theorem eraseSlot_keeps (bank : Nat) (slot : Nat) (v1 : Bool) (v2 : Bool) (s : State) : Keeps s (eraseSlot bank slot v1 v2 s).2 := by
  unfold eraseSlot
  repeat' with_reducible first
    | exact Keeps.refl _ | intro _ | apply Keeps.foldl | apply Keeps.step (retireTo_keeps ..)
    | apply Keeps.step (State.setBank_keeps ..) | apply Keeps.step (nvErasePhys_keeps ..) | split | dsimp only

theorem erasePart_keeps (r : PartInput) (start : Nat) (s : State) : Keeps s (erasePart r start s).2 := by
  unfold erasePart
  repeat' with_reducible first
    | exact Keeps.refl _ | intro _ | apply Keeps.foldl | apply Keeps.step (eraseSlot_keeps ..)

theorem doPart_keeps (q : Nat) (x : Desc) (start : Nat) (r : PartInput) (s : State) : Keeps s (doPart q x start r s).2.2 := by
  unfold doPart
  repeat' with_reducible first
    | exact Keeps.refl _ | intro _ | apply Keeps.foldl | apply Keeps.step (readPart_keeps ..)
    | apply Keeps.step (bufMeets_keeps ..) | apply Keeps.step (programPart_keeps ..)
    | apply Keeps.step (erasePart_keeps ..) | split | dsimp only

theorem metSlice_keeps (q : Nat) (x : Desc) (bank : Nat) (s : State) : Keeps s (metSlice q x bank s) := by
  unfold metSlice
  split
  · exact meetSlice_keeps ..
  · exact Keeps.refl _

theorem partRun_keeps (q : Nat) (x : Desc) (start : Nat) (r : PartInput) (s : State) :
    Keeps s (partRun q x start r s).2.2 := by
  unfold partRun
  split
  · split
    · exact suspend_keeps ..
    · exact Keeps.step (doPart_keeps ..) (suspend_keeps ..)
  · exact Keeps.step (metSlice_keeps ..) (doPart_keeps ..)

theorem partEvent_keeps (op : Nat) (q : Nat) (tag : Nat) (k : Nat) (r : PartInput) (s : State) : Keeps s (partEvent op q tag k r s) := by
  unfold partEvent
  repeat' with_reducible first
    | exact Keeps.refl _ | intro _ | apply Keeps.foldl | apply Keeps.step (tag_keeps ..)
    | apply Keeps.step (partRun_keeps ..) | apply Keeps.step (State.setQ_keeps ..) | split | dsimp only

theorem xipEvent_keeps (op : Nat) (q : Nat) (tag : Nat) (f : Desc → State → Status × State) (s : State) (hf : ∀ a0 a1, Keeps a1 (f a0 a1).2) : Keeps s (xipEvent op q tag f s) := by
  unfold xipEvent
  repeat' with_reducible first
    | exact Keeps.refl _ | intro _ | apply Keeps.foldl | apply Keeps.step (hf ..) | apply Keeps.step (tag_keeps ..)
    | apply Keeps.step (State.setQ_keeps ..) | split

theorem xipDeclare_keeps (q : Nat) (tag : Nat) (s : State) : Keeps s (xipDeclare q tag s) := by
  unfold xipDeclare
  repeat' with_reducible first
    | exact Keeps.refl _ | intro _ | apply Keeps.foldl | apply Keeps.step (xipEvent_keeps ..)
    | apply Keeps.step (tag_keeps ..) | split | dsimp only | apply Keeps.step (Keeps.foldl ..)
    | apply Keeps.step (Keeps.mk8 ..)

theorem xipRelease_keeps (q : Nat) (tag : Nat) (s : State) : Keeps s (xipRelease q tag s) := by
  unfold xipRelease
  repeat' with_reducible first
    | exact Keeps.refl _ | intro _ | apply Keeps.foldl | apply Keeps.step (xipEvent_keeps ..)
    | apply Keeps.step (tag_keeps ..) | split | dsimp only | apply Keeps.step (Keeps.foldl ..)
    | apply Keeps.step (Keeps.mk8 ..)

theorem partDone_keeps (q : Nat) (tag : Nat) (wr : Status) (s : State) : Keeps s (partDone q tag wr s) := by
  unfold partDone
  repeat' with_reducible first
    | exact Keeps.refl _ | intro _ | apply Keeps.foldl | apply Keeps.step (tag_keeps ..)
    | apply Keeps.step (State.setQ_keeps ..) | apply Keeps.step (hsPut_keeps ..)
    | apply Keeps.step (blockWrite_keeps ..) | apply Keeps.step (stopQ_keeps ..) | apply Keeps.step (putQ_keeps ..)
    | apply Keeps.step (State.raiseFor_keeps ..) | split | dsimp only

theorem qTail_keeps (q : Nat) (v : Word) (s : State) : Keeps s (qTail q v s) := by
  unfold qTail
  repeat' with_reducible first
    | exact Keeps.refl _ | intro _ | apply Keeps.foldl | apply Keeps.step (putQ_keeps ..) | split | dsimp only

theorem cqHead_keeps (q : Nat) (v : Word) (s : State) : Keeps s (cqHead q v s) := by
  unfold cqHead
  repeat' with_reducible first
    | exact Keeps.refl _ | intro _ | apply Keeps.foldl | apply Keeps.step (putQ_keeps ..) | split | dsimp only

theorem qCtrl_keeps (q : Nat) (v : Word) (s : State) : Keeps s (qCtrl q v s) := by
  unfold qCtrl
  repeat' with_reducible first
    | exact Keeps.refl _ | intro _ | apply Keeps.foldl | apply Keeps.step (putQ_keeps ..) | split | dsimp only

theorem qTailWrite_keeps (acc : Accessor) (v : Word) (s : State) : Keeps s (qTailWrite acc v s) := by
  unfold qTailWrite
  repeat' with_reducible first
    | exact Keeps.refl _ | intro _ | apply Keeps.foldl | apply Keeps.step (qTail_keeps ..) | split

theorem cqHeadWrite_keeps (acc : Accessor) (v : Word) (s : State) : Keeps s (cqHeadWrite acc v s) := by
  unfold cqHeadWrite
  repeat' with_reducible first
    | exact Keeps.refl _ | intro _ | apply Keeps.foldl | apply Keeps.step (cqHead_keeps ..) | split

theorem queueEnable_keeps (acc : Accessor) (v : Word) (s : State) : Keeps s (queueEnable acc v s) := by
  unfold queueEnable
  repeat' with_reducible first
    | exact Keeps.refl _ | intro _ | apply Keeps.foldl | apply Keeps.step (qCtrl_keeps ..) | split

theorem hsIndex_keeps (off : Nat) (v : Word) (s : State) : Keeps s (hsIndex off v s) := by
  unfold hsIndex
  repeat' with_reducible first
    | exact Keeps.refl _ | intro _ | apply Keeps.foldl | apply Keeps.step (qTail_keeps ..)
    | apply Keeps.step (cqHead_keeps ..) | split

theorem nvDirect_keeps (s : State) (o : Owner) (urgent : Bool) (a : Nat) (len : Nat) : Keeps s (nvDirect s o urgent a len).2.2 := by
  unfold nvDirect
  repeat' with_reducible first
    | exact Keeps.refl _ | intro _ | apply Keeps.foldl | apply Keeps.step (suspend_keeps ..)
    | apply Keeps.step (meetSlice_keeps ..) | split

theorem directRead_keeps (p : Pkt) (s : State) : Keeps s (directRead p s) := by
  unfold directRead
  repeat' with_reducible first
    | exact Keeps.refl _ | intro _ | apply Keeps.foldl | apply Keeps.step (nvDirect_keeps ..)
    | apply Keeps.step (reply_keeps ..)

theorem gapMove_keeps (bank : Nat) (s : State) : Keeps s (gapMove bank s) := by
  unfold gapMove
  repeat' with_reducible first
    | exact Keeps.refl _ | intro _ | apply Keeps.foldl | apply Keeps.step (State.setBank_keeps ..) | split
    | dsimp only

theorem copySector_keeps (s : State) (bank src dst : Nat) : Keeps s (copySector s bank src dst) :=
  .memUpd rfl rfl rfl rfl rfl rfl id (fun h => Memory.wf_foldl _ (SMap.wf_filter _ h))

theorem gapCopyDone_keeps (bank : Nat) (s : State) : Keeps s (gapCopyDone bank s) := by
  unfold gapCopyDone
  repeat' with_reducible first
    | exact Keeps.refl _ | intro _ | apply Keeps.foldl | apply Keeps.step (copySector_keeps ..)
    | apply Keeps.step (State.setBank_keeps ..) | split | dsimp only

theorem gapEraseDone_keeps (bank : Nat) (s : State) : Keeps s (gapEraseDone bank s) := by
  unfold gapEraseDone
  repeat' with_reducible first
    | exact Keeps.refl _ | intro _ | apply Keeps.foldl | apply Keeps.step (nvErasePhys_keeps ..)
    | apply Keeps.step (State.setBank_keeps ..) | split | dsimp only

theorem tornOne_keeps (bank : Nat) (s : State) (x : Nat × Nat) : Keeps s (tornOne bank s x) := by
  unfold tornOne
  repeat' with_reducible first
    | exact Keeps.refl _ | intro _ | apply Keeps.foldl | apply Keeps.step (State.raiseFor_keeps ..)
    | apply Keeps.step (eraseSlot_keeps ..) | split

theorem tornScanDone_keeps (s : State) : Keeps s (tornScanDone s) := by
  unfold tornScanDone
  repeat' with_reducible first
    | exact Keeps.refl _ | intro _ | apply Keeps.foldl | apply Keeps.step (tornOne_keeps ..) | split | dsimp only
    | apply Keeps.step (Keeps.foldl ..) | apply Keeps.step (Keeps.mk8 ..)

theorem scanRead_keeps (bank : Nat) (p : Nat) (rew : Bool) (s : State) (x : NvScan) : Keeps s (scanRead bank p rew s x) := by
  unfold scanRead
  repeat' with_reducible first
    | exact Keeps.refl _ | intro _ | apply Keeps.foldl | apply Keeps.step (endCmd_keeps ..) | split | dsimp only
    | apply Keeps.step (Keeps.foldl ..) | apply Keeps.step (Keeps.mk8 ..)

theorem refreshNext_keeps (bank : Nat) (p : Nat) (s : State) : Keeps s (refreshNext bank p s) := by
  unfold refreshNext
  repeat' with_reducible first
    | exact Keeps.refl _ | intro _ | apply Keeps.foldl | apply Keeps.step (State.setBank_keeps ..) | split
    | dsimp only | apply Keeps.step (Keeps.foldl ..) | apply Keeps.step (Keeps.mk8 ..)

theorem nvRefreshStep_keeps (bank : Nat) (p : Nat) (differs : Bool) (s : State) : Keeps s (nvRefreshStep bank p differs s) := by
  unfold nvRefreshStep
  repeat' with_reducible first
    | exact Keeps.refl _ | intro _ | apply Keeps.foldl | apply Keeps.step (State.setBank_keeps ..)
    | apply Keeps.step (State.policy_keeps ..) | apply Keeps.step (scanRead_keeps ..)
    | apply Keeps.step (refreshNext_keeps ..) | split | dsimp only | apply Keeps.step (Keeps.foldl ..)
    | apply Keeps.step (Keeps.mk8 ..)

theorem nvRefreshOverdue_keeps (bank : Nat) (p : Nat) (s : State) : Keeps s (nvRefreshOverdue bank p s) := by
  unfold nvRefreshOverdue
  repeat' with_reducible first
    | exact Keeps.refl _ | intro _ | apply Keeps.foldl | apply Keeps.step (State.policy_keeps ..)
    | apply Keeps.step (State.post_keeps ..) | split | dsimp only | apply Keeps.step (Keeps.foldl ..)
    | apply Keeps.step (Keeps.mk8 ..)

theorem nvProtect_keeps (d : Nat) (s : State) : Keeps s (nvProtect d s) := by
  unfold nvProtect
  repeat' with_reducible first
    | exact Keeps.refl _ | intro _ | apply Keeps.foldl | apply Keeps.step (serve_keeps ..)
    | apply Keeps.step (finish_keeps ..) | apply Keeps.step (State.setRange_keeps ..) | split | dsimp only

theorem pwFail_keeps (r : Nat) (s : State) : Keeps s (pwFail r s) := by
  unfold pwFail
  repeat' with_reducible first
    | exact Keeps.refl _ | intro _ | apply Keeps.foldl | apply Keeps.step (State.setRange_keeps ..)
    | apply Keeps.step (State.raiseFor_keeps ..) | split | dsimp only

theorem nvUnlock_keeps (d : Nat) (s : State) : Keeps s (nvUnlock d s) := by
  unfold nvUnlock
  repeat' with_reducible first
    | exact Keeps.refl _ | intro _ | apply Keeps.foldl | apply Keeps.step (serve_keeps ..)
    | apply Keeps.step (finish_keeps ..) | apply Keeps.step (State.setRange_keeps ..)
    | apply Keeps.step (pwFail_keeps ..) | split | dsimp only

theorem nvSetPassword_keeps (d : Nat) (s : State) : Keeps s (nvSetPassword d s) := by
  unfold nvSetPassword
  repeat' with_reducible first
    | exact Keeps.refl _ | intro _ | apply Keeps.foldl | apply Keeps.step (serve_keeps ..)
    | apply Keeps.step (finish_keeps ..) | apply Keeps.step (State.setRange_keeps ..)
    | apply Keeps.step (pwFail_keeps ..) | split | dsimp only

theorem nvRefreshScan_keeps (d : Nat) (s : State) : Keeps s (nvRefreshScan d s) := by
  unfold nvRefreshScan
  repeat' with_reducible first
    | exact Keeps.refl _ | intro _ | apply Keeps.foldl | apply Keeps.step (serve_keeps ..)
    | apply Keeps.step (finish_keeps ..) | apply Keeps.step (waitCmd_keeps ..) | split | dsimp only
    | apply Keeps.step (Keeps.foldl ..) | apply Keeps.step (Keeps.mk8 ..)

theorem nvGrantUrgent_keeps (d : Nat) (s : State) : Keeps s (nvGrantUrgent d s) := by
  unfold nvGrantUrgent
  repeat' with_reducible first
    | exact Keeps.refl _ | intro _ | apply Keeps.foldl | apply Keeps.step (serve_keeps ..)
    | apply Keeps.step (finish_keeps ..) | split | dsimp only | apply Keeps.step (Keeps.foldl ..)
    | apply Keeps.step (Keeps.mk8 ..)

theorem nvqWrite_keeps (q : Nat) (off : Nat) (v : Word) (s : State) : Keeps s (nvqWrite q off v s) := by
  unfold nvqWrite
  repeat' with_reducible first
    | exact Keeps.refl _ | intro _ | apply Keeps.foldl | apply Keeps.step (State.setQ_keeps ..)
    | apply Keeps.step (qCtrl_keeps ..) | apply Keeps.step (qTail_keeps ..) | apply Keeps.step (cqHead_keeps ..)
    | split

theorem nvcWrite_keeps (acc : Accessor) (off : Nat) (v : Word) (s : State) : Keeps s (nvcWrite acc off v s) := by
  unfold nvcWrite
  repeat' with_reducible first
    | exact Keeps.refl _ | intro _ | apply Keeps.foldl | apply Keeps.step (nvqWrite_keeps ..)
    | apply Keeps.step (State.setCopy_keeps ..) | apply Keeps.step (State.clearCopy_keeps ..) | split

end Sys2Proof.Machine
end

