-- ==== Sys2Proof/Laws/KPorts.lean ====
section
/-! SUPPORT. The operations of Machine/Ports.lean keep what `Keeps` names. -/
namespace Sys2Proof.Machine
open Sys2Proof

theorem edgeEvent_keeps (m n : Nat) (s : State) : Keeps s (edgeEvent m n s) := by
  unfold edgeEvent
  split
  · exact fpEvt_keeps ..
  · exact Keeps.refl _

theorem lineChange_keeps (s : State) (n : Nat) (level : Bool) : Keeps s (lineChange s n level) := by
  unfold lineChange
  repeat' with_reducible first
    | exact Keeps.refl _ | intro _ | apply Keeps.foldl | apply Keeps.step (State.setPort_keeps ..) | split
    | dsimp only

theorem acceptedEdge_keeps (n : Nat) (level : Bool) (word : BitVec 8) (s : State) :
    Keeps s (acceptedEdge n level word s) := by
  unfold acceptedEdge
  repeat' with_reducible first
    | exact Keeps.refl _ | intro _ | apply Keeps.foldl | apply Keeps.step (rawIn_keeps ..)
    | apply Keeps.step (State.setPort_keeps ..) | apply Keeps.step (State.emit_keeps ..)
    | apply Keeps.step (lineChange_keeps ..) | apply Keeps.step (edgeEvent_keeps ..)
    | apply Keeps.step (pushStamp_keeps ..) | split | dsimp only

theorem entryLevel_keeps (s : State) (n : Nat) (v : Pin) (drv : Nat) : Keeps s (entryLevel s n v drv) := by
  unfold entryLevel
  repeat' with_reducible first
    | exact Keeps.refl _ | intro _ | apply Keeps.foldl | apply Keeps.step (putPort_keeps ..)

theorem applyEntry_keeps (s : State) (n since : Nat) (e : Sched) : Keeps s (applyEntry s n since e) := by
  unfold applyEntry
  repeat' with_reducible first
    | exact Keeps.refl _ | intro _ | apply Keeps.foldl | apply Keeps.step (State.setPort_keeps ..)
    | apply Keeps.step (entryLevel_keeps ..) | split | dsimp only

theorem scheduleApply_keeps (n : Nat) (s : State) : Keeps s (scheduleApply n s) := by
  unfold scheduleApply
  repeat' with_reducible first
    | exact Keeps.refl _ | intro _ | apply Keeps.foldl | apply Keeps.step (State.setPort_keeps ..)
    | apply Keeps.step (portEvent_keeps ..) | apply Keeps.step (applyEntry_keeps ..)
    | apply Keeps.step (portLate_keeps ..) | split | dsimp only | apply Keeps.step (Keeps.foldl ..)

theorem pwmLate_keeps (r : PwmRun) (n : Nat) (s : State) : Keeps s (pwmLate r n s) := by
  unfold pwmLate
  repeat' with_reducible first
    | exact Keeps.refl _ | intro _ | apply Keeps.foldl | apply Keeps.step (portLate_keeps ..)
    | apply Keeps.step (State.setPort_keeps ..) | split

theorem pwmEdge_keeps (n : Nat) (s : State) : Keeps s (pwmEdge n s) := by
  unfold pwmEdge
  repeat' with_reducible first
    | exact Keeps.refl _ | intro _ | apply Keeps.foldl | apply Keeps.step (pwmLate_keeps ..)
    | apply Keeps.step (driveMode_keeps ..) | apply Keeps.step (State.setPort_keeps ..) | split | dsimp only

theorem fpOutChange_keeps (n : Nat) (out : Bool) (oe : Bool) (word : BitVec 8) (s : State) :
    Keeps s (fpOutChange n out oe word s) := by
  unfold fpOutChange
  repeat' with_reducible first
    | exact Keeps.refl _ | intro _ | apply Keeps.foldl | apply Keeps.step (State.setPort_keeps ..)
    | apply Keeps.step (State.emit_keeps ..) | apply Keeps.step (takeOut_keeps ..) | split

theorem quadStep_keeps (n : Nat) (a : Bool) (b : Bool) (s : State) : Keeps s (quadStep n a b s) := by
  unfold quadStep
  repeat' with_reducible first
    | exact Keeps.refl _ | intro _ | apply Keeps.foldl | apply Keeps.step (State.setPort_keeps ..)
    | apply Keeps.step (portPairErr_keeps ..) | apply Keeps.step (portPair_keeps ..) | split | dsimp only

theorem quadTransition_keeps (n : Nat) (s : State) : Keeps s (quadTransition n s) := by
  unfold quadTransition
  repeat' with_reducible first
    | exact Keeps.refl _ | intro _ | apply Keeps.foldl | apply Keeps.step (quadStep_keeps ..) | split | dsimp only

theorem encoderFrame_keeps (n : Nat) (s : State) : Keeps s (encoderFrame n s) := by
  unfold encoderFrame
  repeat' with_reducible first
    | exact Keeps.refl _ | intro _ | apply Keeps.foldl | apply Keeps.step (State.setPort_keeps ..)
    | apply Keeps.step (portLate_keeps ..) | apply Keeps.step (portPairErr_keeps ..)
    | apply Keeps.step (putPort_keeps ..) | apply Keeps.step (State.emit_keeps ..) | split | dsimp only

theorem encoderFrameEnd_keeps (n : Nat) (s : State) : Keeps s (encoderFrameEnd n s) := by
  unfold encoderFrameEnd
  repeat' with_reducible first
    | exact Keeps.refl _ | intro _ | apply Keeps.foldl | apply Keeps.step (putPort_keeps ..)
    | apply Keeps.step (portPairErr_keeps ..) | apply Keeps.step (State.setPort_keeps ..)
    | apply Keeps.step (pushStamp_keeps ..) | apply Keeps.step (portPair_keeps ..) | split | dsimp only

theorem uartRxByte_keeps (n : Nat) (s : State) : Keeps s (uartRxByte n s) := by
  unfold uartRxByte
  repeat' with_reducible first
    | exact Keeps.refl _ | intro _ | apply Keeps.foldl | apply Keeps.step (portPair_keeps ..)
    | apply Keeps.step (State.setPort_keeps ..) | split | dsimp only

theorem uartTxByte_keeps (n : Nat) (s : State) : Keeps s (uartTxByte n s) := by
  unfold uartTxByte
  repeat' with_reducible first
    | exact Keeps.refl _ | intro _ | apply Keeps.foldl | apply Keeps.step (State.setPort_keeps ..)
    | apply Keeps.step (State.emit_keeps ..) | split | dsimp only

theorem cfgReject_keeps (s : State) (n : Nat) : Keeps s (cfgReject s n) := by
  unfold cfgReject
  repeat' with_reducible first
    | exact Keeps.refl _ | intro _ | apply Keeps.foldl | apply Keeps.step (State.setPort_keeps ..)

theorem writePortCfg_keeps (n : Nat) (v : Word) (s : State) : Keeps s (writePortCfg n v s) := by
  unfold writePortCfg
  repeat' with_reducible first
    | exact Keeps.refl _ | intro _ | apply Keeps.foldl | apply Keeps.step (cfgReject_keeps ..)
    | apply Keeps.step (State.setPort_keeps ..) | apply Keeps.step (enterMode_keeps ..)
    | apply Keeps.step (meetSlice_keeps ..) | split | dsimp only

theorem writeOutCtrl_keeps (n : Nat) (v : Word) (s : State) : Keeps s (writeOutCtrl n v s) := by
  unfold writeOutCtrl
  repeat' with_reducible first
    | exact Keeps.refl _ | intro _ | apply Keeps.foldl | apply Keeps.step (driveMode_keeps ..)
    | apply Keeps.step (State.setPort_keeps ..) | apply Keeps.step (putPort_keeps ..) | split

theorem writeSchedCmd_keeps (n : Nat) (v : Word) (s : State) : Keeps s (writeSchedCmd n v s) := by
  unfold writeSchedCmd
  repeat' with_reducible first
    | exact Keeps.refl _ | intro _ | apply Keeps.foldl | apply Keeps.step (State.setPort_keeps ..) | split
    | dsimp only

theorem writePairCfg_keeps (n : Nat) (v : Word) (s : State) : Keeps s (writePairCfg n v s) := by
  unfold writePairCfg
  repeat' with_reducible first
    | exact Keeps.refl _ | intro _ | apply Keeps.foldl | apply Keeps.step (cfgReject_keeps ..)
    | apply Keeps.step (State.setPort_keeps ..) | split

theorem writePairData_keeps (n : Nat) (v : Word) (s : State) : Keeps s (writePairData n v s) := by
  unfold writePairData
  repeat' with_reducible first
    | exact Keeps.refl _ | intro _ | apply Keeps.foldl | apply Keeps.step (State.setPort_keeps ..)
    | apply Keeps.step (portPairErr_keeps ..) | split | dsimp only

theorem fpePut_keeps (acc : Accessor) (n : Nat) (r : Nat) (v : Word) (s : State) : Keeps s (fpePut acc n r v s) := by
  unfold fpePut
  repeat' with_reducible first
    | exact Keeps.refl _ | intro _ | apply Keeps.foldl | apply Keeps.step (writePortCfg_keeps ..)
    | apply Keeps.step (writeOutCtrl_keeps ..) | apply Keeps.step (State.setPort_keeps ..)
    | apply Keeps.step (writeSchedCmd_keeps ..) | apply Keeps.step (cfgReject_keeps ..)
    | apply Keeps.step (writePairCfg_keeps ..) | apply Keeps.step (writePairData_keeps ..)
    | apply Keeps.step (State.clearCopy_keeps ..) | split

theorem readPairData_keeps (n : Nat) (s : State) : Keeps s (readPairData n s).2 := by
  unfold readPairData
  repeat' with_reducible first
    | exact Keeps.refl _ | intro _ | apply Keeps.foldl | apply Keeps.step (State.setPort_keeps ..) | split
    | dsimp only

theorem readTsLo_keeps (acc : Accessor) (n : Nat) (s : State) : Keeps s (readTsLo acc n s).2 := by
  unfold readTsLo
  repeat' with_reducible first
    | exact Keeps.refl _ | intro _ | apply Keeps.foldl | apply Keeps.step (State.setCopy_keeps ..)
    | apply Keeps.step (State.setPort_keeps ..) | split | dsimp only

theorem fpeGet_keeps (acc : Accessor) (n : Nat) (r : Nat) (s : State) : Keeps s (fpeGet acc n r s).2 := by
  unfold fpeGet
  repeat' with_reducible first
    | exact Keeps.refl _ | intro _ | apply Keeps.foldl | apply Keeps.step (readTsLo_keeps ..)
    | apply Keeps.step (readPairData_keeps ..) | split

theorem fpeRead_keeps (acc : Accessor) (off : Nat) (s : State) : Keeps s (fpeRead acc off s).2 := by
  unfold fpeRead
  repeat' with_reducible first
    | exact Keeps.refl _ | intro _ | apply Keeps.foldl | apply Keeps.step (fpeGet_keeps ..) | split | dsimp only

theorem fpeWrite_keeps (acc : Accessor) (off : Nat) (v : Word) (s : State) : Keeps s (fpeWrite acc off v s) := by
  unfold fpeWrite
  repeat' with_reducible first
    | exact Keeps.refl _ | intro _ | apply Keeps.foldl | apply Keeps.step (State.setCopy_keeps ..)
    | apply Keeps.step (fpePut_keeps ..) | split | dsimp only

theorem groupRead_keeps (acc : Accessor) (g : Nat) (off : Nat) (s : State) : Keeps s (groupRead acc g off s).2 := by
  unfold groupRead
  repeat' with_reducible first
    | exact Keeps.refl _ | intro _ | apply Keeps.foldl | apply Keeps.step (fpeGet_keeps ..) | split

theorem groupWrite_keeps (acc : Accessor) (g : Nat) (off : Nat) (v : Word) (s : State) : Keeps s (groupWrite acc g off v s) := by
  unfold groupWrite
  repeat' with_reducible first
    | exact Keeps.refl _ | intro _ | apply Keeps.foldl | apply Keeps.step (fpePut_keeps ..) | split

end Sys2Proof.Machine
end

