-- ==== Sys2Proof/Laws/KSelfTest.lean ====
section
/-! SUPPORT. The operations of Machine/SelfTest.lean keep what `Keeps` names. -/
namespace Sys2Proof.Machine
open Sys2Proof

theorem startSlice_keeps (s : State) (test : Nat) (target : Nat) (entry : Option Nat) (budget : Nat) (cmd : Option CmdRef) : Keeps s (startSlice s test target entry budget cmd) := by
  unfold startSlice
  repeat' with_reducible first
    | exact Keeps.refl _ | intro _ | apply Keeps.foldl | split | dsimp only | apply Keeps.step (Keeps.foldl ..)
    | apply Keeps.step (Keeps.mk8 ..)

theorem startWaiting_keeps (s : State) : Keeps s (startWaiting s) := by
  unfold startWaiting
  repeat' with_reducible first
    | exact Keeps.refl _ | intro _ | apply Keeps.foldl | apply Keeps.step (startSlice_keeps ..) | split | dsimp only
    | apply Keeps.step (Keeps.foldl ..) | apply Keeps.step (Keeps.mk8 ..)

theorem bistRun_keeps (d : Nat) (s : State) : Keeps s (bistRun d s) := by
  unfold bistRun
  repeat' with_reducible first
    | exact Keeps.refl _ | intro _ | apply Keeps.foldl | apply Keeps.step (serve_keeps ..)
    | apply Keeps.step (finish_keeps ..) | apply Keeps.step (waitCmd_keeps ..)
    | apply Keeps.step (startWaiting_keeps ..) | split | dsimp only | apply Keeps.step (Keeps.foldl ..)
    | apply Keeps.step (Keeps.mk8 ..)

theorem bistRunTimeout_keeps (d : Nat) (tag : Nat) (s : State) : Keeps s (bistRunTimeout d tag s) := by
  unfold bistRunTimeout
  repeat' with_reducible first
    | exact Keeps.refl _ | intro _ | apply Keeps.foldl | apply Keeps.step (tag_keeps ..)
    | apply Keeps.step (endCmd_keeps ..) | split | dsimp only | apply Keeps.step (Keeps.foldl ..)
    | apply Keeps.step (Keeps.mk8 ..)

theorem bistSchedule_keeps (d : Nat) (s : State) : Keeps s (bistSchedule d s) := by
  unfold bistSchedule
  repeat' with_reducible first
    | exact Keeps.refl _ | intro _ | apply Keeps.foldl | apply Keeps.step (serve_keeps ..)
    | apply Keeps.step (finish_keeps ..) | split | dsimp only | apply Keeps.step (Keeps.foldl ..)
    | apply Keeps.step (Keeps.mk8 ..)

theorem entryDue_keeps (k : Nat) (s : State) : Keeps s (entryDue k s) := by
  unfold entryDue
  repeat' with_reducible first
    | exact Keeps.refl _ | intro _ | apply Keeps.foldl | apply Keeps.step (startSlice_keeps ..) | split | dsimp only
    | apply Keeps.step (Keeps.foldl ..) | apply Keeps.step (Keeps.mk8 ..)

theorem loseRam_keeps (s : State) (block : Nat) : Keeps s (loseRam s block) := by
  unfold loseRam
  repeat' with_reducible first
    | exact Keeps.refl _ | intro _ | apply Keeps.foldl | split | dsimp only | apply Keeps.step (Keeps.foldl ..)
    | apply Keeps.step (Keeps.mk8 ..)

theorem loseSector_keeps (s : State) (sec : Nat) : Keeps s (loseSector s sec) := by
  unfold loseSector
  generalize List.range 0x200000 = l
  exact .memUpd rfl rfl rfl rfl rfl rfl id (fun h => Memory.wf_foldl l h)

theorem afterTest_keeps (x : Slice) (errors : Nat) (s : State) : Keeps s (afterTest x errors s) := by
  unfold afterTest
  repeat' with_reducible first
    | exact Keeps.refl _ | intro _ | apply Keeps.foldl | apply Keeps.step (State.setLane_keeps ..)
    | apply Keeps.step (loseRam_keeps ..) | apply Keeps.step (loseSector_keeps ..) | split

theorem sliceEnd_keeps (slot : Nat) (r : SliceResult) (s : State) : Keeps s (sliceEnd slot r s) := by
  unfold sliceEnd
  repeat' with_reducible first
    | exact Keeps.refl _ | intro _ | apply Keeps.foldl | apply Keeps.step (startWaiting_keeps ..)
    | apply Keeps.step (endSlice_keeps ..) | apply Keeps.step (afterTest_keeps ..)
    | apply Keeps.step (State.raiseFor_keeps ..) | split | dsimp only | apply Keeps.step (Keeps.foldl ..)
    | apply Keeps.step (Keeps.mk8 ..)

theorem sliceBudget_keeps (slot : Nat) (patterns : Nat) (misr : BitVec 64) (s : State) : Keeps s (sliceBudget slot patterns misr s) := by
  unfold sliceBudget
  repeat' with_reducible first
    | exact Keeps.refl _ | intro _ | apply Keeps.foldl | apply Keeps.step (startWaiting_keeps ..)
    | apply Keeps.step (endSlice_keeps ..) | split

theorem bistGetResult_keeps (d : Nat) (s : State) : Keeps s (bistGetResult d s) := by
  unfold bistGetResult
  repeat' with_reducible first
    | exact Keeps.refl _ | intro _ | apply Keeps.foldl | apply Keeps.step (serve_keeps ..)
    | apply Keeps.step (finish_keeps ..) | split | dsimp only | apply Keeps.step (Keeps.foldl ..)
    | apply Keeps.step (Keeps.mk8 ..)

theorem bstWrite_keeps (acc : Accessor) (off : Nat) (v : Word) (s : State) : Keeps s (bstWrite acc off v s) := by
  unfold bstWrite
  repeat' with_reducible first
    | exact Keeps.refl _ | intro _ | apply Keeps.foldl | apply Keeps.step (State.setCopy_keeps ..)
    | apply Keeps.step (State.clearCopy_keeps ..) | split

end Sys2Proof.Machine
end

