-- ==== Sys2Proof/Laws/KLoading.lean ====
section
/-! SUPPORT. The operations of Machine/Loading.lean keep what `Keeps` names. -/
namespace Sys2Proof.Machine
open Sys2Proof

theorem startRegion_keeps (s : State) (ld : Nat) (r : Nat) (l : Load) : Keeps s (startRegion s ld r l) := by
  unfold startRegion
  repeat' with_reducible first
    | exact Keeps.refl _ | intro _ | apply Keeps.foldl | apply Keeps.step (newLoad_keeps ..)
    | apply Keeps.step (State.setRegion_keeps ..)

theorem icpEop_keeps (s : State) (icp : Nat) (eop : Bool) : Keeps s (icpEop s icp eop) := by
  unfold icpEop
  repeat' with_reducible first
    | exact Keeps.refl _ | intro _ | apply Keeps.foldl | apply Keeps.step (State.setLoad_keeps ..) | split
    | dsimp only

theorem icpTake_keeps (s : State) (icp : Nat) (d : BitVec 128) (eop : Bool) : Keeps s (icpTake s icp d eop) := by
  unfold icpTake
  repeat' with_reducible first
    | exact Keeps.refl _ | intro _ | apply Keeps.foldl | apply Keeps.step (State.setLoad_keeps ..)
    | apply Keeps.step (icpEop_keeps ..) | apply Keeps.step (loadFail_keeps ..) | apply Keeps.step (settle_keeps ..)
    | split | dsimp only

theorem icpBeat_keeps (icp : Nat) (d : BitVec 128) (sop : Bool) (eop : Bool) (region : Nat) (s : State) : Keeps s (icpBeat icp d sop eop region s) := by
  unfold icpBeat
  repeat' with_reducible first
    | exact Keeps.refl _ | intro _ | apply Keeps.foldl | apply Keeps.step (icpEop_keeps ..)
    | apply Keeps.step (region_keeps ..) | apply Keeps.step (icpTake_keeps ..)
    | apply Keeps.step (startRegion_keeps ..) | apply Keeps.step (loadRefuse_keeps ..)
    | apply Keeps.step (State.setLoad_keeps ..) | apply Keeps.step (loadFail_keeps ..) | split | dsimp only
    | apply Keeps.step (Keeps.foldl ..) | apply Keeps.step (Keeps.mk8 ..)

theorem pushWord_keeps (mode : Nat) (s : State) (w : Word) : Keeps s (pushWord mode s w) := by
  unfold pushWord
  repeat' with_reducible first
    | exact Keeps.refl _ | intro _ | apply Keeps.foldl | apply Keeps.step (newLoad_keeps ..)
    | apply Keeps.step (settle_keeps ..) | apply Keeps.step (loadFail_keeps ..)
    | apply Keeps.step (State.setLoad_keeps ..) | split | dsimp only

theorem streamWrite_keeps (bs : List Byte) (s : State) : Keeps s (streamWrite bs s) := by
  unfold streamWrite
  repeat' with_reducible first
    | exact Keeps.refl _ | intro _ | apply Keeps.foldl | apply Keeps.step (pushWord_keeps ..)
    | apply Keeps.step (loadFail_keeps ..) | split | dsimp only

theorem sppWord_keeps (w : Word) (s : State) : Keeps s (sppWord w s) := by
  unfold sppWord
  repeat' with_reducible first
    | exact Keeps.refl _ | intro _ | apply Keeps.foldl | apply Keeps.step (pushWord_keeps ..) | split

theorem clearShadows_keeps (s : State) : Keeps s (clearShadows s) := by
  unfold clearShadows
  repeat' with_reducible first
    | exact Keeps.refl _ | intro _ | apply Keeps.foldl | split | dsimp only | apply Keeps.step (Keeps.foldl ..)
    | apply Keeps.step (Keeps.mk8 ..)

theorem loadImageRun_keeps (c : RunCmd) (s : State) : Keeps s (loadImageRun c s) := by
  unfold loadImageRun
  repeat' with_reducible first
    | exact Keeps.refl _ | intro _ | apply Keeps.foldl | apply Keeps.step (finish_keeps ..)
    | apply Keeps.step (waitCmd_keeps ..) | apply Keeps.step (newLoad_keeps ..)
    | apply Keeps.step (clearShadows_keeps ..) | apply Keeps.step (State.setTarget_keeps ..) | split

theorem loadImage_keeps (d : Nat) (s : State) : Keeps s (loadImage d s) := by
  unfold loadImage
  repeat' with_reducible first
    | exact Keeps.refl _ | intro _ | apply Keeps.foldl | apply Keeps.step (serve_keeps ..)
    | apply Keeps.step (finish_keeps ..) | apply Keeps.step (loadImageRun_keeps ..) | split | dsimp only

theorem loadPartial_keeps (d : Nat) (s : State) : Keeps s (loadPartial d s) := by
  unfold loadPartial
  repeat' with_reducible first
    | exact Keeps.refl _ | intro _ | apply Keeps.foldl | apply Keeps.step (serve_keeps ..)
    | apply Keeps.step (finish_keeps ..) | apply Keeps.step (waitCmd_keeps ..)
    | apply Keeps.step (startRegion_keeps ..) | split | dsimp only

theorem State.passRead_keeps (s : State) : Keeps s (State.passRead s) := by
  unfold State.passRead
  repeat' with_reducible first
    | exact Keeps.refl _ | intro _ | apply Keeps.foldl | split | dsimp only | apply Keeps.step (Keeps.foldl ..)
    | apply Keeps.step (Keeps.mk8 ..)

theorem readbackRegion_keeps (d : Nat) (s : State) : Keeps s (readbackRegion d s) := by
  unfold readbackRegion
  repeat' with_reducible first
    | exact Keeps.refl _ | intro _ | apply Keeps.foldl | apply Keeps.step (serve_keeps ..)
    | apply Keeps.step (finish_keeps ..) | apply Keeps.step (blockWrite_keeps ..) | split | dsimp only
    | apply Keeps.step (Keeps.foldl ..) | apply Keeps.step (Keeps.mk8 ..)

end Sys2Proof.Machine
end

