-- ==== Sys2Proof/Laws/KNvImages.lean ====
section
/-! SUPPORT. The operations of Machine/NvImages.lean keep what `Keeps` names. -/
namespace Sys2Proof.Machine
open Sys2Proof

theorem dryRecord_keeps (ws : List Word) (s : State) : Keeps s (dryRecord ws s).2 := by
  unfold dryRecord
  repeat' with_reducible first
    | exact Keeps.refl _ | intro _ | apply Keeps.foldl | apply Keeps.step (far_keeps ..)
    | apply Keeps.step (fdata_keeps ..) | apply Keeps.step (setreg_keeps ..) | apply Keeps.step (roll_keeps ..)
    | apply Keeps.step (chunk_keeps ..) | apply Keeps.step (tag_keeps ..) | apply Keeps.step (check_keeps ..)
    | apply Keeps.step (startup_keeps ..) | apply Keeps.step (region_keeps ..) | apply Keeps.step (sigs_keeps ..)
    | apply Keeps.step (desync_keeps ..) | apply Keeps.step (nop_keeps ..) | split | dsimp only

theorem dryStream_keeps : ∀ (n : Nat) (ws : List Word) (s : State), Keeps s (dryStream n ws s)
  | 0, _, s => .refl s
  | n + 1, ws, s => by
    unfold dryStream
    exact .ite (.refl s) (.ite (loadFail_keeps ..) ((dryRecord_keeps ws s).trans (dryStream_keeps n _ _)))

theorem slotProgram_keeps (n g : Nat) : ∀ (x : Nat) (bs : List Byte) (s : State), Keeps s (slotProgram n g x bs s)
  | _, [], s => .refl s
  | x, b :: bs, s => (nvProgram_keeps s _ [b]).trans (slotProgram_keeps n g (x + 1) bs _)

theorem placeIn_keeps (slot g : Nat) (ws : List Word) (x : Placed × State) : Keeps x.2 (placeIn slot g ws x).2 := by
  unfold placeIn
  repeat' with_reducible first
    | exact Keeps.refl _ | intro _ | apply Keeps.foldl | apply Keeps.step (slotProgram_keeps ..) | split | dsimp only

theorem placeStream_keeps (slot : Nat) : ∀ (n : Nat) (ws : List Word) (x : Placed × State),
    Keeps x.2 (placeStream slot n ws x).2
  | 0, _, x => .refl x.2
  | n + 1, ws, x => by
    unfold placeStream
    repeat' with_reducible first
    | exact Keeps.refl _ | apply Keeps.step (placeStream_keeps slot n ..) | apply Keeps.step (placeIn_keeps ..)
    | dsimp only | split

theorem eraseSectors_keeps (first : Nat) (n : Nat) (s : State) : Keeps s (eraseSectors first n s) := by
  unfold eraseSectors
  repeat' with_reducible first
    | exact Keeps.refl _ | intro _ | apply Keeps.foldl | apply Keeps.step (eraseSlot_keeps ..)

theorem storeImageRun_keeps (slot : Nat) (m : Manifest) (b : List Byte) (s : State) :
    Keeps s (storeImageRun slot m b s).2 := by
  have h1 : Keeps s (slotProgram slot 0 0 (b.take m.len) (eraseSectors (128 * slot) 128 s)) :=
    (eraseSectors_keeps ..).trans (slotProgram_keeps ..)
  have h2 := h1.trans (placeStream_keeps slot ((bytesWords ((b.drop m.len).take m.streamLen)).length + 1)
    (bytesWords ((b.drop m.len).take m.streamLen))
    ({ used := SMap.put [] 0 m.len }, slotProgram slot 0 0 (b.take m.len) (eraseSectors (128 * slot) 128 s)))
  have hs : ∀ {p : Status × State} {c : Prop} [Decidable c] {q : Status × State}, Keeps s p.2 → Keeps s q.2 →
      Keeps s (if c then p else q).2 := fun hp hq => by split <;> assumption
  exact hs h2 (hs h2 (h2.trans (.upd rfl rfl rfl rfl rfl rfl rfl rfl)))

theorem storeStart_keeps (d op : Nat) (src : RunCmd → Nat) (s : State) : Keeps s (storeStart d op src s) := by
  unfold storeStart
  refine serve_keeps _ _ _ _ _ fun c u => ?_
  exact .ite (finish_keeps ..) (.step (waitCmd_keeps ..) (.upd rfl rfl rfl rfl rfl rfl rfl rfl))

theorem storeNext_keeps (d op : Nat) (run : RunCmd → State → Status × List Word × State) (s : State)
    (h : ∀ c u, Keeps u (run c u).2.2) : Keeps s (storeNext d op run s) := by
  unfold storeNext
  split
  · exact .refl s
  · exact .ite (.refl s) (.step (endCmd_keeps ..) (.step (h ..) (.upd rfl rfl rfl rfl rfl rfl rfl rfl)))

theorem storeRow_keeps (d op : Nat) (src : RunCmd → Nat) (run : RunCmd → State → Status × List Word × State) (s : State)
    (h : ∀ c u, Keeps u (run c u).2.2) : Keeps s (storeRow d op src run s) :=
  .ite (storeStart_keeps ..) (storeNext_keeps _ _ _ _ h)

theorem storeImageRow_keeps (b : List Byte) (c : RunCmd) (s : State) : Keeps s (storeImageRow b c s).2.2 := by
  unfold storeImageRow
  repeat' with_reducible first
    | exact Keeps.refl _ | intro _ | apply Keeps.foldl | apply Keeps.step (storeImageRun_keeps ..) | split
    | dsimp only

theorem storeImage_keeps (d : Nat) (b : List Byte) (s : State) : Keeps s (storeImage d b s) :=
  storeRow_keeps _ _ _ _ _ fun c u => storeImageRow_keeps b c u

theorem storeUnits_keeps (first : Nat) (b : List Byte) (s : State) : Keeps s (storeUnits first b s) := by
  unfold storeUnits
  repeat' with_reducible first
    | exact Keeps.refl _ | intro _ | apply Keeps.foldl | apply Keeps.step (nvProgram_keeps ..)

theorem storePartialRow_keeps (b : List Byte) (c : RunCmd) (s : State) : Keeps s (storePartialRow b c s).2.2 := by
  unfold storePartialRow
  repeat' with_reducible first
    | exact Keeps.refl _ | intro _ | apply Keeps.foldl | apply Keeps.step (storeUnits_keeps ..)
    | apply Keeps.step (eraseSectors_keeps ..) | split | dsimp only

theorem storePartial_keeps (d : Nat) (b : List Byte) (s : State) : Keeps s (storePartial d b s) :=
  storeRow_keeps _ _ _ _ _ fun c u => storePartialRow_keeps b c u

theorem selectImage_keeps (d : Nat) (s : State) : Keeps s (selectImage d s) := by
  unfold selectImage
  repeat' with_reducible first
    | exact Keeps.refl _ | intro _ | apply Keeps.foldl | apply Keeps.step (serve_keeps ..)
    | apply Keeps.step (finish_keeps ..) | split | dsimp only | apply Keeps.step (Keeps.foldl ..)
    | apply Keeps.step (Keeps.mk8 ..)

theorem wrapKey_keeps (d : Nat) (s : State) : Keeps s (wrapKey d s) := by
  unfold wrapKey
  repeat' with_reducible first
    | exact Keeps.refl _ | intro _ | apply Keeps.foldl | apply Keeps.step (serve_keeps ..)
    | apply Keeps.step (finish_keeps ..) | split | dsimp only | apply Keeps.step (Keeps.foldl ..)
    | apply Keeps.step (Keeps.mk8 ..)

end Sys2Proof.Machine
end

