-- ==== Sys2Proof/Laws/KScrub.lean ====
section
/-! SUPPORT. The operations of Machine/Scrub.lean keep what `Keeps` names. -/
namespace Sys2Proof.Machine
open Sys2Proof

theorem upset_keeps (s : State) (e : Nat × Bool × Nat) : Keeps s (upset s e) := by
  unfold upset
  repeat' with_reducible first
    | exact Keeps.refl _ | intro _ | apply Keeps.foldl | apply Keeps.step (State.setFrame_keeps ..) | split

theorem upsets_keeps (s : State) (es : List (Nat × Bool × Nat)) : Keeps s (upsets s es) := by
  unfold upsets
  repeat' with_reducible first
    | exact Keeps.refl _ | intro _ | apply Keeps.foldl | apply Keeps.step (upset_keeps ..)
    | apply Keeps.step (State.refresh_keeps ..) | split

theorem canaryRead_keeps (s : State) (band : Nat) (path1 : Bool) (path2 : Bool) :
    Keeps s (canaryRead s band path1 path2) := by
  unfold canaryRead
  repeat' with_reducible first
    | exact Keeps.refl _ | intro _ | apply Keeps.foldl | apply Keeps.step (writeCanary_keeps ..)
    | apply Keeps.step (scrEvent_keeps ..) | apply Keeps.step (State.setScr_keeps ..) | split

theorem scrBoundary_keeps (s : State) : Keeps s (scrBoundary s) := by
  unfold scrBoundary
  repeat' with_reducible first
    | exact Keeps.refl _ | intro _ | apply Keeps.foldl | apply Keeps.step (State.policy_keeps ..)
    | apply Keeps.step (State.raiseAll_keeps ..) | split | dsimp only | apply Keeps.step (Keeps.foldl ..)
    | apply Keeps.step (Keeps.mk8 ..)

theorem scrStart_keeps (s : State) : Keeps s (scrStart s) := by
  unfold scrStart
  repeat' with_reducible first
    | exact Keeps.refl _ | intro _ | apply Keeps.foldl | apply Keeps.step (scrBoundary_keeps ..) | split | dsimp only
    | apply Keeps.step (Keeps.foldl ..) | apply Keeps.step (Keeps.mk8 ..)

theorem passBegin_keeps (s : State) (band : Nat) (canary : Bool) : Keeps s (passBegin s band canary) := by
  unfold passBegin
  repeat' with_reducible first
    | exact Keeps.refl _ | intro _ | apply Keeps.foldl | apply Keeps.step (State.setScr_keeps ..)

theorem scrubPassStart_keeps (band : Nat) (path1 : Bool) (path2 : Bool) (s : State) :
    Keeps s (scrubPassStart band path1 path2 s) := by
  unfold scrubPassStart
  repeat' with_reducible first
    | exact Keeps.refl _ | intro _ | apply Keeps.foldl | apply Keeps.step (scrBoundary_keeps ..)
    | apply Keeps.step (canaryRead_keeps ..) | apply Keeps.step (passBegin_keeps ..) | split | dsimp only

theorem passEnd_keeps (s : State) : Keeps s (passEnd s) := by
  unfold passEnd
  repeat' with_reducible first
    | exact Keeps.refl _ | intro _ | apply Keeps.foldl | apply Keeps.step (State.policy_keeps ..) | split | dsimp only
    | apply Keeps.step (Keeps.foldl ..) | apply Keeps.step (Keeps.mk8 ..)

theorem readEnds_keeps (s : State) (band : Nat) (key : Nat) : Keeps s (readEnds s band key) := by
  unfold readEnds
  repeat' with_reducible first
    | exact Keeps.refl _ | intro _ | apply Keeps.foldl | apply Keeps.step (moveDecision_keeps ..)

theorem scrAdvance_keeps (s : State) (band : Nat) : Keeps s (scrAdvance s band) := by
  unfold scrAdvance
  repeat' with_reducible first
    | exact Keeps.refl _ | intro _ | apply Keeps.foldl | apply Keeps.step (State.setScr_keeps ..)
    | apply Keeps.step (passEnd_keeps ..) | apply Keeps.step (passBegin_keeps ..) | split | dsimp only

theorem scrActed_keeps (s : State) (band : Nat) : Keeps s (scrActed s band) := by
  unfold scrActed
  repeat' with_reducible first
    | exact Keeps.refl _ | intro _ | apply Keeps.foldl | apply Keeps.step (State.setScr_keeps ..) | split | dsimp only
    | apply Keeps.step (Keeps.foldl ..) | apply Keeps.step (Keeps.mk8 ..)

theorem markUnacted_keeps (s : State) (band : Nat) : Keeps s (markUnacted s band) := by
  unfold markUnacted
  repeat' with_reducible first
    | exact Keeps.refl _ | intro _ | apply Keeps.foldl | split | dsimp only | apply Keeps.step (Keeps.foldl ..)
    | apply Keeps.step (Keeps.mk8 ..)

theorem setActive_keeps (s : State) (key : Nat) (p : Plane) : Keeps s (setActive s key p) := by
  unfold setActive
  repeat' with_reducible first
    | exact Keeps.refl _ | intro _ | apply Keeps.foldl | apply Keeps.step (State.setFrame_keeps ..)

theorem setPhys_keeps (s : State) (key : Nat) (physB : Bool) (p : Plane) : Keeps s (setPhys s key physB p) := by
  unfold setPhys
  repeat' with_reducible first
    | exact Keeps.refl _ | intro _ | apply Keeps.foldl | apply Keeps.step (State.setFrame_keeps ..)

theorem markUncorr_keeps (s : State) (key : Nat) (physB : Bool) (st : Status) (word : Nat) : Keeps s (markUncorr s key physB st word) := by
  unfold markUncorr
  repeat' with_reducible first
    | exact Keeps.refl _ | intro _ | apply Keeps.foldl | apply Keeps.step (markUnacted_keeps ..)
    | apply Keeps.step (scrEvent_keeps ..) | apply Keeps.step (setPhys_keeps ..)
    | apply Keeps.step (State.setScr_keeps ..)

theorem frameCorrect_keeps (band : Nat) (key : Nat) (word : Nat) (path1 : Bool) (path2 : Bool) (s : State) :
    Keeps s (frameCorrect band key word path1 path2 s) := by
  unfold frameCorrect
  repeat' with_reducible first
    | exact Keeps.refl _ | intro _ | apply Keeps.foldl | apply Keeps.step (canaryRead_keeps ..)
    | apply Keeps.step (setActive_keeps ..) | apply Keeps.step (State.refresh_keeps ..)
    | apply Keeps.step (markUnacted_keeps ..) | apply Keeps.step (scrEvent_keeps ..)
    | apply Keeps.step (scrActed_keeps ..) | apply Keeps.step (State.setScr_keeps ..) | split

theorem frameDamaged_keeps (band : Nat) (key : Nat) (word : Nat) (s : State) :
    Keeps s (frameDamaged band key word s) := by
  unfold frameDamaged
  repeat' with_reducible first
    | exact Keeps.refl _ | intro _ | apply Keeps.foldl | apply Keeps.step (markUncorr_keeps ..)
    | apply Keeps.step (markUnacted_keeps ..) | apply Keeps.step (scrEvent_keeps ..)
    | apply Keeps.step (scrActed_keeps ..) | apply Keeps.step (State.setScr_keeps ..)
    | apply Keeps.step (setActive_keeps ..) | split | dsimp only

theorem frameDecide_keeps (band : Nat) (key : Nat) (path1 : Bool) (path2 : Bool) (s : State) :
    Keeps s (frameDecide band key path1 path2 s) := by
  unfold frameDecide
  repeat' with_reducible first
    | exact Keeps.refl _ | intro _ | apply Keeps.foldl | apply Keeps.step (frameDamaged_keeps ..)
    | apply Keeps.step (frameCorrect_keeps ..) | split | dsimp only

theorem checkState_keeps (ups : List (Nat × Bool × Nat)) (tmr : Nat) (s : State) :
    Keeps s (checkState ups tmr s) := by
  unfold checkState
  repeat' with_reducible first
    | exact Keeps.refl _ | intro _ | apply Keeps.foldl | apply Keeps.step (upsets_keeps ..) | split | dsimp only
    | apply Keeps.step (Keeps.foldl ..) | apply Keeps.step (Keeps.mk8 ..)

theorem frameCheck_keeps (band : Nat) (ups : List (Nat × Bool × Nat)) (tmr : Nat) (path1 : Bool) (path2 : Bool) (s0 : State) :
    Keeps s0 (frameCheck band ups tmr path1 path2 s0) := by
  unfold frameCheck
  repeat' with_reducible first
    | exact Keeps.refl _ | intro _ | apply Keeps.foldl | apply Keeps.step (checkState_keeps ..)
    | apply Keeps.step (canaryRead_keeps ..) | apply Keeps.step (State.setScr_keeps ..)
    | apply Keeps.step (scrAdvance_keeps ..) | apply Keeps.step (readEnds_keeps ..)
    | apply Keeps.step (frameDecide_keeps ..) | split | dsimp only

theorem reloadMeets_keeps (s : State) (p : Plane) : Keeps s (reloadMeets s p) := by
  unfold reloadMeets
  repeat' with_reducible first
    | exact Keeps.refl _ | intro _ | apply Keeps.foldl | apply Keeps.step (suspend_keeps ..)
    | apply Keeps.step (meetSlice_keeps ..) | split

theorem frameReload_keeps (far : Nat) (physB : Bool) (r : ReloadRead) (path1 : Bool) (path2 : Bool) (s : State) :
    Keeps s (frameReload far physB r path1 path2 s) := by
  unfold frameReload
  repeat' with_reducible first
    | exact Keeps.refl _ | intro _ | apply Keeps.foldl | apply Keeps.step (far_keeps ..)
    | apply Keeps.step (canaryRead_keeps ..) | apply Keeps.step (setPhys_keeps ..)
    | apply Keeps.step (reloadMeets_keeps ..) | apply Keeps.step (State.refresh_keeps ..)
    | apply Keeps.step (scrEvent_keeps ..) | apply Keeps.step (scrActed_keeps ..)
    | apply Keeps.step (State.setScr_keeps ..) | apply Keeps.step (markUncorr_keeps ..) | split | dsimp only

theorem microcodeParityError_keeps (s : State) : Keeps s (microcodeParityError s) := by
  unfold microcodeParityError
  repeat' with_reducible first
    | exact Keeps.refl _ | intro _ | apply Keeps.foldl | apply Keeps.step (State.raiseAll_keeps ..)
    | apply Keeps.step (State.post_keeps ..) | split | dsimp only | apply Keeps.step (Keeps.foldl ..)
    | apply Keeps.step (Keeps.mk8 ..)

theorem activePeriodDouble_keeps (s : State) : Keeps s (activePeriodDouble s) := by
  unfold activePeriodDouble
  repeat' with_reducible first
    | exact Keeps.refl _ | intro _ | apply Keeps.foldl | apply Keeps.step (State.policy_keeps ..) | split | dsimp only
    | apply Keeps.step (Keeps.foldl ..) | apply Keeps.step (Keeps.mk8 ..)

theorem scrWrite_keeps (acc : Accessor) (off : Nat) (v : Word) (s : State) : Keeps s (scrWrite acc off v s) := by
  unfold scrWrite
  repeat' with_reducible first
    | exact Keeps.refl _ | intro _ | apply Keeps.foldl | apply Keeps.step (State.setCopy_keeps ..)
    | apply Keeps.step (State.clearCopy_keeps ..) | split | dsimp only | apply Keeps.step (Keeps.foldl ..)
    | apply Keeps.step (Keeps.mk8 ..)

end Sys2Proof.Machine
end

