-- ==== Sys2Proof/Laws/KSwap.lean ====
section
/-! SUPPORT. The operations of Machine/Swap.lean keep what `Keeps` names. -/
namespace Sys2Proof.Machine
open Sys2Proof

theorem prepareDevice_keeps (c : RunCmd) (s : State) : Keeps s (prepareDevice c s) := by
  unfold prepareDevice
  repeat' with_reducible first
    | exact Keeps.refl _ | intro _ | apply Keeps.foldl | apply Keeps.step (finish_keeps ..)
    | apply Keeps.step (State.setTarget_keeps ..) | apply Keeps.step (waitCmd_keeps ..) | split | dsimp only

theorem prepareSwap_keeps (d : Nat) (s : State) : Keeps s (prepareSwap d s) := by
  unfold prepareSwap
  repeat' with_reducible first
    | exact Keeps.refl _ | intro _ | apply Keeps.foldl | apply Keeps.step (serve_keeps ..)
    | apply Keeps.step (prepareDevice_keeps ..) | apply Keeps.step (finish_keeps ..)
    | apply Keeps.step (waitCmd_keeps ..) | apply Keeps.step (State.setTarget_keeps ..) | split | dsimp only

theorem verifyDone_keeps (t : Nat) (s : State) : Keeps s (verifyDone t s) := by
  unfold verifyDone
  repeat' with_reducible first
    | exact Keeps.refl _ | intro _ | apply Keeps.foldl | apply Keeps.step (endCmd?_keeps ..)
    | apply Keeps.step (State.setTarget_keeps ..) | apply Keeps.step (State.setRegion_keeps ..) | split | dsimp only

theorem commitSwap_keeps (d : Nat) (s : State) : Keeps s (commitSwap d s) := by
  unfold commitSwap
  repeat' with_reducible first
    | exact Keeps.refl _ | intro _ | apply Keeps.foldl | apply Keeps.step (serve_keeps ..)
    | apply Keeps.step (finish_keeps ..) | apply Keeps.step (State.setTarget_keeps ..)
    | apply Keeps.step (waitCmd_keeps ..) | split | dsimp only

theorem endTarget_keeps (t : Nat) (cause : Nat) (s : State) : Keeps s (endTarget t cause s) := by
  unfold endTarget
  repeat' with_reducible first
    | exact Keeps.refl _ | intro _ | apply Keeps.foldl | apply Keeps.step (State.setTarget_keeps ..)
    | apply Keeps.step (endCmd?_keeps ..) | apply Keeps.step (State.raiseFor_keeps ..) | split | dsimp only

theorem applyStaged_keeps (s : State) : Keeps s (applyStaged s) := by
  unfold applyStaged
  repeat' with_reducible first
    | exact Keeps.refl _ | intro _ | apply Keeps.foldl | apply Keeps.step (applyImage_keeps ..)
    | apply Keeps.step (dropEntries_keeps ..) | apply Keeps.step (refreshPins_keeps ..)
    | apply Keeps.step (ringsAfterTenancy_keeps ..) | split | dsimp only | apply Keeps.step (Keeps.foldl ..)
    | apply Keeps.step (Keeps.mk8 ..)

theorem swapDecision_keeps (t : Nat) (alive : List Nat) (s : State) : Keeps s (swapDecision t alive s) := by
  unfold swapDecision
  repeat' with_reducible first
    | exact Keeps.refl _ | intro _ | apply Keeps.foldl | apply Keeps.step (State.setTarget_keeps ..)
    | apply Keeps.step (endCmd?_keeps ..) | apply Keeps.step (State.raiseFor_keeps ..)
    | apply Keeps.step (State.setRegion_keeps ..) | apply Keeps.step (applyStaged_keeps ..) | split | dsimp only
    | apply Keeps.step (Keeps.foldl ..)

theorem flipFrames_keeps (s : State) (ks : List Nat) : Keeps s (flipFrames s ks) := by
  unfold flipFrames
  repeat' with_reducible first
    | exact Keeps.refl _ | intro _ | apply Keeps.foldl | split | dsimp only | apply Keeps.step (Keeps.foldl ..)
    | apply Keeps.step (Keeps.mk8 ..)

theorem memberE0_keeps (t : Nat) (s : State) (r : Nat) : Keeps s (memberE0 t s r) := by
  unfold memberE0
  repeat' with_reducible first
    | exact Keeps.refl _ | intro _ | apply Keeps.foldl | apply Keeps.step (flipFrames_keeps ..)
    | apply Keeps.step (State.setTarget_keeps ..) | apply Keeps.step (State.setRegion_keeps ..)
    | apply Keeps.step (setCycle_keeps ..) | apply Keeps.step (State.refresh_keeps ..)
    | apply Keeps.step (clearRemote_keeps ..) | apply Keeps.step (gsrFabric_keeps ..) | split | dsimp only
    | apply Keeps.step (Keeps.foldl ..) | apply Keeps.step (Keeps.mk8 ..)

theorem tablesE1_keeps (t : Nat) (r : Nat) (s : State) : Keeps s (tablesE1 t r s) := by
  unfold tablesE1
  repeat' with_reducible first
    | exact Keeps.refl _ | intro _ | apply Keeps.foldl | apply Keeps.step (routeCheck_keeps ..)
    | apply Keeps.step (armFromImage_keeps ..) | apply Keeps.step (setCycle_keeps ..) | split | dsimp only
    | apply Keeps.step (Keeps.foldl ..)

theorem switchingEdge_keeps (t : Nat) (r : Nat) (s : State) : Keeps s (switchingEdge t r s) := by
  unfold switchingEdge
  repeat' with_reducible first
    | exact Keeps.refl _ | intro _ | apply Keeps.foldl | apply Keeps.step (memberE0_keeps ..) | split

theorem commitTimeout_keeps (t : Nat) (s : State) : Keeps s (commitTimeout t s) := by
  unfold commitTimeout
  repeat' with_reducible first
    | exact Keeps.refl _ | intro _ | apply Keeps.foldl | apply Keeps.step (State.setRegion_keeps ..)
    | apply Keeps.step (State.setTarget_keeps ..) | apply Keeps.step (endCmd?_keeps ..)
    | apply Keeps.step (State.raiseFor_keeps ..) | split | dsimp only

theorem memberE1_keeps (t : Nat) (s : State) (r : Nat) : Keeps s (memberE1 t s r) := by
  unfold memberE1
  repeat' with_reducible first
    | exact Keeps.refl _ | intro _ | apply Keeps.foldl | apply Keeps.step (tablesE1_keeps ..)
    | apply Keeps.step (State.setRegion_keeps ..) | apply Keeps.step (openLatches_keeps ..)
    | apply Keeps.step (State.setTarget_keeps ..) | split | dsimp only | apply Keeps.step (Keeps.foldl ..)
    | apply Keeps.step (Keeps.mk8 ..)

theorem swapCycleEnd_keeps (t : Nat) (r : Nat) (s0 : State) : Keeps s0 (swapCycleEnd t r s0) := by
  unfold swapCycleEnd
  repeat' with_reducible first
    | exact Keeps.refl _ | intro _ | apply Keeps.foldl | apply Keeps.step (commitTimeout_keeps ..)
    | apply Keeps.step (memberE1_keeps ..) | apply Keeps.step (State.setTarget_keeps ..)
    | apply Keeps.step (endCmd?_keeps ..) | apply Keeps.step (State.raiseFor_keeps ..) | split | dsimp only
    | apply Keeps.step (Keeps.foldl ..)

theorem discardDevice_keeps (s : State) : Keeps s (discardDevice s) := by
  unfold discardDevice
  repeat' with_reducible first
    | exact Keeps.refl _ | intro _ | apply Keeps.foldl | apply Keeps.step (clearShadows_keeps ..)
    | apply Keeps.step (State.setTarget_keeps ..) | split | dsimp only | apply Keeps.step (Keeps.foldl ..)
    | apply Keeps.step (Keeps.mk8 ..)

theorem abortSwap_keeps (d : Nat) (s : State) : Keeps s (abortSwap d s) := by
  unfold abortSwap
  repeat' with_reducible first
    | exact Keeps.refl _ | intro _ | apply Keeps.foldl | apply Keeps.step (serve_keeps ..)
    | apply Keeps.step (finish_keeps ..) | apply Keeps.step (endTarget_keeps ..)
    | apply Keeps.step (discardDevice_keeps ..) | split | dsimp only

end Sys2Proof.Machine
end

