-- ==== Sys2Proof/Laws/KOwners.lean ====
section
/-! SUPPORT. The operations of Machine/Owners.lean keep what `Keeps` names. -/
namespace Sys2Proof.Machine
open Sys2Proof

theorem endTargets_keeps (s : State) (o : Owner) : Keeps s (endTargets s o) := by
  unfold endTargets
  repeat' with_reducible first
    | exact Keeps.refl _ | intro _ | apply Keeps.foldl | apply Keeps.step (endTarget_keeps ..) | split

theorem resetRegions_keeps (s : State) (o : Owner) : Keeps s (resetRegions s o) := by
  unfold resetRegions
  repeat' with_reducible first
    | exact Keeps.refl _ | intro _ | apply Keeps.foldl | apply Keeps.step (gsrFabric_keeps ..)
    | apply Keeps.step (clearRemote_keeps ..)

theorem timeoutRequests_keeps (s : State) (o : Owner) : Keeps s (timeoutRequests s o) := by
  unfold timeoutRequests
  repeat' with_reducible first
    | exact Keeps.refl _ | intro _ | apply Keeps.foldl | apply Keeps.step (clearOut_keeps ..)

theorem emptyMailbox_keeps (s : State) (d : Nat) : Keeps s (emptyMailbox s d) :=
  (State.setMbx_keeps s d _).trans (.memUpd rfl rfl rfl rfl rfl rfl (SMap.wf_filter _) id)

theorem endSessions_keeps (s : State) (o : Owner) : Keeps s (endSessions s o) := by
  unfold endSessions
  repeat' with_reducible first
    | exact Keeps.refl _ | intro _ | apply Keeps.foldl | split | dsimp only | apply Keeps.step (Keeps.foldl ..)
    | apply Keeps.step (Keeps.mk8 ..)

theorem domainReset_keeps (s : State) (d : Nat) : Keeps s (domainReset s d) := by
  unfold domainReset
  repeat' with_reducible first
    | exact Keeps.refl _ | intro _ | apply Keeps.foldl | apply Keeps.step (resetRegions_keeps ..)
    | apply Keeps.step (endTargets_keeps ..) | apply Keeps.step (resetGroups_keeps ..)
    | apply Keeps.step (resetRing_keeps ..) | apply Keeps.step (endSessions_keeps ..)
    | apply Keeps.step (emptyMailbox_keeps ..) | apply Keeps.step (timeoutRequests_keeps ..) | split | dsimp only
    | apply Keeps.step (Keeps.foldl ..)

theorem resetDomain_keeps (d : Nat) (s : State) : Keeps s (resetDomain d s) := by
  unfold resetDomain
  repeat' with_reducible first
    | exact Keeps.refl _ | intro _ | apply Keeps.foldl | apply Keeps.step (serve_keeps ..)
    | apply Keeps.step (finish_keeps ..) | apply Keeps.step (domainReset_keeps ..)

theorem setOwner_keeps (s : State) (res : Nat) (o : Owner) : Keeps s (setOwner s res o) := by
  unfold setOwner
  repeat' with_reducible first
    | exact Keeps.refl _ | intro _ | apply Keeps.foldl | apply Keeps.step (noteCmd_keeps ..)
    | apply Keeps.step (dropEntries_keeps ..) | split | dsimp only | apply Keeps.step (Keeps.foldl ..)
    | apply Keeps.step (Keeps.mk8 ..)

theorem claimRegion_keeps (d : Nat) (s : State) : Keeps s (claimRegion d s) := by
  unfold claimRegion
  repeat' with_reducible first
    | exact Keeps.refl _ | intro _ | apply Keeps.foldl | apply Keeps.step (serve_keeps ..)
    | apply Keeps.step (finish_keeps ..) | apply Keeps.step (setOwner_keeps ..) | split | dsimp only

theorem releaseRegion_keeps (d : Nat) (s : State) : Keeps s (releaseRegion d s) := by
  unfold releaseRegion
  repeat' with_reducible first
    | exact Keeps.refl _ | intro _ | apply Keeps.foldl | apply Keeps.step (serve_keeps ..)
    | apply Keeps.step (finish_keeps ..) | apply Keeps.step (setOwner_keeps ..) | split | dsimp only

theorem setFirewall_keeps (d : Nat) (s : State) : Keeps s (setFirewall d s) := by
  unfold setFirewall
  repeat' with_reducible first
    | exact Keeps.refl _ | intro _ | apply Keeps.foldl | apply Keeps.step (serve_keeps ..)
    | apply Keeps.step (finish_keeps ..) | split | dsimp only | apply Keeps.step (Keeps.foldl ..)
    | apply Keeps.step (Keeps.mk8 ..)

theorem setHostLossPolicy_keeps (d : Nat) (s : State) : Keeps s (setHostLossPolicy d s) := by
  unfold setHostLossPolicy
  repeat' with_reducible first
    | exact Keeps.refl _ | intro _ | apply Keeps.foldl | apply Keeps.step (serve_keeps ..)
    | apply Keeps.step (finish_keeps ..) | apply Keeps.step (noteCmd_keeps ..)
    | apply Keeps.step (State.setPci_keeps ..)

end Sys2Proof.Machine
end

