-- ==== Sys2Proof/Laws/KNoc.lean ====
section
/-! SUPPORT. The operations of Machine/Noc.lean keep what `Keeps` names. -/
namespace Sys2Proof.Machine
open Sys2Proof

theorem staleDrop_keeps (s : State) (sid : Nat) : Keeps s (staleDrop s sid) := by
  unfold staleDrop
  repeat' with_reducible first
    | exact Keeps.refl _ | intro _ | apply Keeps.foldl | apply Keeps.step (nocLast_keeps ..)
    | apply Keeps.step (nocInt_keeps ..) | apply Keeps.step (bump_keeps ..)

theorem niInject_keeps (ep : Nat) (rsp : Bool) (fl : List (BitVec 256)) (s : State) :
    Keeps s (niInject ep rsp fl s) := by
  unfold niInject
  repeat' with_reducible first
    | exact Keeps.refl _ | intro _ | apply Keeps.foldl | apply Keeps.step (bump_keeps ..)
    | apply Keeps.step (State.emitPkt_keeps ..) | apply Keeps.step (setOut_keeps ..)
    | apply Keeps.step (staleDrop_keeps ..) | apply Keeps.step (sendPkt_keeps ..) | apply Keeps.step (route_keeps ..)
    | split | dsimp only

theorem memberAnswer_keeps (s : State) (id : Nat) (tag : Nat) (r : OutReq) (i : Nat) (st : Status) : Keeps s (memberAnswer s id tag r i st) := by
  unfold memberAnswer
  repeat' with_reducible first
    | exact Keeps.refl _ | intro _ | apply Keeps.foldl | apply Keeps.step (mcwDone_keeps ..)
    | apply Keeps.step (tag_keeps ..) | split

theorem sendMember_keeps (p : Pkt) (s : State) (i : Nat) : Keeps s (sendMember p s i) := by
  unfold sendMember
  repeat' with_reducible first
    | exact Keeps.refl _ | intro _ | apply Keeps.foldl | apply Keeps.step (route_keeps ..)
    | apply Keeps.step (memberAnswer_keeps ..) | split

theorem mcw_keeps (p : Pkt) (s : State) : Keeps s (mcw p s) := by
  unfold mcw
  refine .ite ?_ (.refl s)
  split
  · next h =>
    refine (takeFlight_keeps h).trans (.step (Keeps.foldl (fun u e => sendMember_keeps p u e) _ _) ?_)
    split
    · exact setOut_keeps ..
    · exact .refl _
  · exact .refl s

theorem park_keeps (s : State) (p : Pkt) : Keeps s (park s p) := by
  unfold park
  repeat' with_reducible first
    | exact Keeps.refl _ | intro _ | apply Keeps.foldl | apply Keeps.step (setParked_keeps ..) | split | dsimp only
    | apply Keeps.step (Keeps.foldl ..) | apply Keeps.step (Keeps.mk8 ..)

theorem complete_keeps (s : State) (p : Pkt) : Keeps s (complete s p) := by
  unfold complete
  repeat' with_reducible first
    | exact Keeps.refl _ | intro _ | apply Keeps.foldl | apply Keeps.step (dropRsp_keeps ..)
    | apply Keeps.step (bump_keeps ..) | apply Keeps.step (memberAnswer_keeps ..)
    | apply Keeps.step (deliverAnswer_keeps ..) | apply Keeps.step (setOut_keeps ..) | split | dsimp only

theorem response_keeps (p : Pkt) (s : State) : Keeps s (response p s) := by
  unfold response
  split
  · exact .refl s
  · next h =>
    refine (takeFlight_keeps h).trans ?_
    repeat' with_reducible first
    | exact Keeps.refl _ | apply Keeps.step (dropRsp_keeps ..) | apply Keeps.step (complete_keeps ..)
    | apply Keeps.step (wakeBand_keeps ..) | apply Keeps.step (park_keeps ..) | dsimp only | split

theorem manage_keeps (op : PktOp) (p : Pkt) (s : State) : Keeps s (manage op p s) := by
  unfold manage
  repeat' with_reducible first
    | exact Keeps.refl _ | intro _ | apply Keeps.foldl | apply Keeps.step (State.takeFree_keeps ..)
    | apply Keeps.step (sendPkt_keeps ..) | split | dsimp only | apply Keeps.step (Keeps.foldl ..)
    | apply Keeps.step (Keeps.mk8 ..)

theorem mgRsp_keeps (p : Pkt) (s : State) : Keeps s (mgRsp p s) := by
  unfold mgRsp
  refine .ite ?_ (.refl s)
  split
  · next h =>
    refine (takeFlight_keeps h).trans (.step (State.emit_keeps ..) ?_)
    exact .upd rfl rfl rfl rfl rfl rfl rfl rfl
  · exact .refl s

theorem nocTimeout_keeps (ep : Nat) (tag : Nat) (s : State) : Keeps s (nocTimeout ep tag s) := by
  unfold nocTimeout
  repeat' with_reducible first
    | exact Keeps.refl _ | intro _ | apply Keeps.foldl | apply Keeps.step (tag_keeps ..)
    | apply Keeps.step (nocLast_keeps ..) | apply Keeps.step (nocInt_keeps ..) | apply Keeps.step (bump_keeps ..)
    | apply Keeps.step (expectLate_keeps ..) | apply Keeps.step (deliverAnswer_keeps ..)
    | apply Keeps.step (setOut_keeps ..) | apply Keeps.step (mcwDone_keeps ..)
    | apply Keeps.step (declareDead_keeps ..) | split | dsimp only | apply Keeps.step (Keeps.foldl ..)

theorem ejectionStall_keeps (ep : Nat) (s : State) : Keeps s (ejectionStall ep s) := by
  unfold ejectionStall
  repeat' with_reducible first
    | exact Keeps.refl _ | intro _ | apply Keeps.foldl | apply Keeps.step (muzzle_keeps ..) | split

theorem nocMuzzle_keeps (d : Nat) (s : State) : Keeps s (nocMuzzle d s) := by
  unfold nocMuzzle
  repeat' with_reducible first
    | exact Keeps.refl _ | intro _ | apply Keeps.foldl | apply Keeps.step (serve_keeps ..)
    | apply Keeps.step (finish_keeps ..) | apply Keeps.step (muzzle_keeps ..) | split | dsimp only

theorem rehabilitate_keeps (s : State) (id : Nat) : Keeps s (rehabilitate s id) := by
  unfold rehabilitate
  repeat' with_reducible first
    | exact Keeps.refl _ | intro _ | apply Keeps.foldl | apply Keeps.step (forgetLate_keeps ..)
    | apply Keeps.step (forgetOut_keeps ..) | apply Keeps.step (nocLast_keeps ..)
    | apply Keeps.step (State.setMap_keeps ..) | apply Keeps.step (setNi_keeps ..)
    | apply Keeps.step (muzzledPin_keeps ..) | apply Keeps.step (linkMuzzle_keeps ..) | split

theorem nocRehabilitate_keeps (d : Nat) (s : State) : Keeps s (nocRehabilitate d s) := by
  unfold nocRehabilitate
  repeat' with_reducible first
    | exact Keeps.refl _ | intro _ | apply Keeps.foldl | apply Keeps.step (serve_keeps ..)
    | apply Keeps.step (finish_keeps ..) | apply Keeps.step (rehabilitate_keeps ..) | split | dsimp only

theorem remap_keeps (s : State) (a : Nat) (b : Nat) : Keeps s (remap s a b) := by
  unfold remap
  repeat' with_reducible first
    | exact Keeps.refl _ | intro _ | apply Keeps.foldl | apply Keeps.step (State.setMap_keeps ..)
    | apply Keeps.step (routeCheck_keeps ..) | apply Keeps.step (nocLast_keeps ..)
    | apply Keeps.step (forgetLate_keeps ..) | apply Keeps.step (setNi_keeps ..)

theorem nocRemap_keeps (d : Nat) (s : State) : Keeps s (nocRemap d s) := by
  unfold nocRemap
  repeat' with_reducible first
    | exact Keeps.refl _ | intro _ | apply Keeps.foldl | apply Keeps.step (serve_keeps ..)
    | apply Keeps.step (finish_keeps ..) | apply Keeps.step (remap_keeps ..) | split | dsimp only

theorem nocRouteUpdate_keeps (d : Nat) (s : State) : Keeps s (nocRouteUpdate d s) := by
  unfold nocRouteUpdate
  repeat' with_reducible first
    | exact Keeps.refl _ | intro _ | apply Keeps.foldl | apply Keeps.step (serve_keeps ..)
    | apply Keeps.step (finish_keeps ..) | apply Keeps.step (waitCmd_keeps ..) | split | dsimp only
    | apply Keeps.step (Keeps.foldl ..) | apply Keeps.step (Keeps.mk8 ..)

theorem routeEnd_keeps (s : State) (st : Status) : Keeps s (routeEnd s st) := by
  unfold routeEnd
  repeat' with_reducible first
    | exact Keeps.refl _ | intro _ | apply Keeps.foldl | apply Keeps.step (routeCheck_keeps ..)
    | apply Keeps.step (endCmd_keeps ..) | apply Keeps.step (nocLast_keeps ..)
    | apply Keeps.step (State.raiseAll_keeps ..) | split | dsimp only | apply Keeps.step (Keeps.foldl ..)
    | apply Keeps.step (Keeps.mk8 ..)

theorem routeDrainDone_keeps (s : State) : Keeps s (routeDrainDone s) := by
  unfold routeDrainDone
  repeat' with_reducible first
    | exact Keeps.refl _ | intro _ | apply Keeps.foldl | apply Keeps.step (routeEnd_keeps ..) | split | dsimp only
    | apply Keeps.step (Keeps.foldl ..) | apply Keeps.step (Keeps.mk8 ..)

theorem routeUpdateTimeout_keeps (s : State) : Keeps s (routeUpdateTimeout s) := by
  unfold routeUpdateTimeout
  repeat' with_reducible first
    | exact Keeps.refl _ | intro _ | apply Keeps.foldl | apply Keeps.step (routeEnd_keeps ..) | split | dsimp only
    | apply Keeps.step (Keeps.foldl ..) | apply Keeps.step (Keeps.mk8 ..)

theorem rtrClear_keeps (acc : Accessor) (v : Word) (s : State) : Keeps s (rtrClear acc v s) := by
  unfold rtrClear
  repeat' with_reducible first
    | exact Keeps.refl _ | intro _ | apply Keeps.foldl | split | dsimp only | apply Keeps.step (Keeps.foldl ..)
    | apply Keeps.step (Keeps.mk8 ..)

theorem nocWrite_keeps (acc : Accessor) (off : Nat) (v : Word) (s : State) : Keeps s (nocWrite acc off v s) := by
  unfold nocWrite
  repeat' with_reducible first
    | exact Keeps.refl _ | intro _ | apply Keeps.foldl | apply Keeps.step (State.setCopy_keeps ..)
    | apply Keeps.step (rtrClear_keeps ..) | apply Keeps.step (State.clearCopy_keeps ..) | split

end Sys2Proof.Machine
end

