-- ==== Sys2Proof/Laws/KPci.lean ====
section
/-! SUPPORT. The operations of Machine/Pci.lean keep what `Keeps` names. -/
namespace Sys2Proof.Machine
open Sys2Proof

theorem pciInt_keeps (s : State) (p : Nat) (bits : Word) : Keeps s (pciInt s p bits) := by
  unfold pciInt
  repeat' with_reducible first
    | exact Keeps.refl _ | intro _ | apply Keeps.foldl | apply Keeps.step (State.raiseFor_keeps ..)

theorem sendPending_keeps (s : State) (p : Nat) : Keeps s (sendPending s p) := by
  unfold sendPending
  repeat' with_reducible first
    | exact Keeps.refl _ | intro _ | apply Keeps.foldl | apply Keeps.step (State.setPci_keeps ..)
    | apply Keeps.step (State.vector_keeps ..) | split | dsimp only

theorem msixWrite_keeps (p : Nat) (off : Nat) (v : Word) (s : State) : Keeps s (msixWrite p off v s) := by
  unfold msixWrite
  repeat' with_reducible first
    | exact Keeps.refl _ | intro _ | apply Keeps.foldl | apply Keeps.step (sendPending_keeps ..)
    | apply Keeps.step (State.setPci_keeps ..) | split

theorem perstDeassert_keeps (p : Nat) (s : State) : Keeps s (perstDeassert p s) := by
  unfold perstDeassert
  repeat' with_reducible first
    | exact Keeps.refl _ | intro _ | apply Keeps.foldl | apply Keeps.step (State.setPci_keeps ..) | split

theorem clearLinkMuzzle_keeps (s : State) (p : Nat) : Keeps s (clearLinkMuzzle s p) := by
  unfold clearLinkMuzzle
  repeat' with_reducible first
    | exact Keeps.refl _ | intro _ | apply Keeps.foldl | apply Keeps.step (State.setMap_keeps ..) | split | dsimp only

theorem linkUp_keeps (p : Nat) (gen : Nat) (width : Nat) (s : State) : Keeps s (linkUp p gen width s) := by
  unfold linkUp
  repeat' with_reducible first
    | exact Keeps.refl _ | intro _ | apply Keeps.foldl | apply Keeps.step (pciInt_keeps ..)
    | apply Keeps.step (clearLinkMuzzle_keeps ..) | apply Keeps.step (State.setPci_keeps ..) | split | dsimp only

theorem configRequest_keeps (p : Nat) (r : CfgReq) (s : State) : Keeps s (configRequest p r s) := by
  unfold configRequest
  repeat' with_reducible first
    | exact Keeps.refl _ | intro _ | apply Keeps.foldl | apply Keeps.step (State.setPci_keeps ..)
    | apply Keeps.step (sendPending_keeps ..) | apply Keeps.step (State.emit_keeps ..) | split | dsimp only

theorem disableMac_keeps (s : State) (m : Nat) : Keeps s (disableMac s m) := by
  unfold disableMac
  repeat' with_reducible first
    | exact Keeps.refl _ | intro _ | apply Keeps.foldl | apply Keeps.step (State.setMac_keeps ..)

theorem policySafe_keeps (s : State) (p : Nat) : Keeps s (policySafe s p) := by
  unfold policySafe
  repeat' with_reducible first
    | exact Keeps.refl _ | intro _ | apply Keeps.foldl | apply Keeps.step (endTargets_keeps ..)
    | apply Keeps.step (sealBorder_keeps ..) | apply Keeps.step (State.setRegion_keeps ..)
    | apply Keeps.step (State.emit_keeps ..) | apply Keeps.step (pumpCtrl_keeps ..)
    | apply Keeps.step (safeAll_keeps ..) | apply Keeps.step (forceGroups_keeps ..)
    | apply Keeps.step (State.setMac_keeps ..) | split | dsimp only | apply Keeps.step (Keeps.foldl ..)

theorem policyReset_keeps (s : State) (p : Nat) : Keeps s (policyReset s p) := by
  unfold policyReset
  repeat' with_reducible first
    | exact Keeps.refl _ | intro _ | apply Keeps.foldl | apply Keeps.step (domainReset_keeps ..)
    | apply Keeps.step (disableMac_keeps ..) | split | dsimp only | apply Keeps.step (Keeps.foldl ..)

theorem dropReads_keeps (s : State) (p : Nat) : Keeps s (dropReads s p) := by
  unfold dropReads
  repeat' with_reducible first
    | exact Keeps.refl _ | intro _ | apply Keeps.foldl | apply Keeps.step (pciErr_keeps ..)
    | apply Keeps.step (forgetOut_keeps ..) | apply Keeps.step (State.setPci_keeps ..) | split

theorem dropOutbound_keeps (s : State) (p : Nat) : Keeps s (dropOutbound s p) := by
  unfold dropOutbound
  repeat' with_reducible first
    | exact Keeps.refl _ | intro _ | apply Keeps.foldl | apply Keeps.step (respond_keeps ..)
    | apply Keeps.step (State.setPci_keeps ..) | split

theorem hostLoss_keeps (p : Nat) (cause : Nat) (s : State) : Keeps s (hostLoss p cause s) := by
  unfold hostLoss
  repeat' with_reducible first
    | exact Keeps.refl _ | intro _ | apply Keeps.foldl | apply Keeps.step (dropOutbound_keeps ..)
    | apply Keeps.step (dropReads_keeps ..) | apply Keeps.step (endSessions_keeps ..)
    | apply Keeps.step (State.setPci_keeps ..) | apply Keeps.step (pciInt_keeps ..)
    | apply Keeps.step (linkMuzzle_keeps ..) | apply Keeps.step (State.post_keeps ..)
    | apply Keeps.step (State.policy_keeps ..) | apply Keeps.step (policySafe_keeps ..)
    | apply Keeps.step (policyReset_keeps ..) | split | dsimp only

theorem release_keeps (p : Nat) (v : Word) (s : State) : Keeps s (release p v s) := by
  unfold release
  repeat' with_reducible first
    | exact Keeps.refl _ | intro _ | apply Keeps.foldl | apply Keeps.step (State.setPci_keeps ..)
    | apply Keeps.step (openLatches_keeps ..) | apply Keeps.step (State.setRegion_keeps ..)
    | apply Keeps.step (State.emit_keeps ..) | apply Keeps.step (State.setMac_keeps ..) | split | dsimp only
    | apply Keeps.step (Keeps.foldl ..)

theorem writeXlt_keeps (p : Nat) (v : Word) (s : State) : Keeps s (writeXlt p v s) := by
  unfold writeXlt
  repeat' with_reducible first
    | exact Keeps.refl _ | intro _ | apply Keeps.foldl | apply Keeps.step (pciInt_keeps ..)
    | apply Keeps.step (State.setPci_keeps ..) | split | dsimp only

theorem sendWrites_keeps (p : Nat) : ∀ (ps : List (Nat × Nat)) (data : List Byte) (s : State),
    Keeps s (sendWrites p ps data s)
  | [], _, s => .refl s
  | (_, _) :: ps, _, s => (inject_keeps s _).trans (sendWrites_keeps p ps _ _)

theorem sendRead_keeps (p : Nat) (i : Nat) (off : Nat) (tag : Nat) (len : Nat) (a : Nat) (s : State) : Keeps s (sendRead p i off tag len a s) := by
  unfold sendRead
  repeat' with_reducible first
    | exact Keeps.refl _ | intro _ | apply Keeps.foldl | apply Keeps.step (tag_keeps ..)
    | apply Keeps.step (State.setPci_keeps ..) | apply Keeps.step (inject_keeps ..) | split | dsimp only
    | apply Keeps.step (Keeps.foldl ..)

theorem window2_keeps (p : Nat) (off : Nat) (t : TlpOp2) (s : State) : Keeps s (window2 p off t s) := by
  unfold window2
  repeat' with_reducible first
    | exact Keeps.refl _ | intro _ | apply Keeps.foldl | apply Keeps.step (refuse_keeps ..)
    | apply Keeps.step (tag_keeps ..) | apply Keeps.step (State.emit_keeps ..) | apply Keeps.step (pciErr_keeps ..)
    | apply Keeps.step (bump_keeps ..) | apply Keeps.step (sendRead_keeps ..) | apply Keeps.step (sendWrites_keeps ..)
    | split | dsimp only

theorem outboundWrite_keeps (p : Nat) (off : Nat) (bs : List Byte) (s : State) :
    Keeps s (outboundWrite p off bs s).2 := by
  unfold outboundWrite
  repeat' with_reducible first
    | exact Keeps.refl _ | intro _ | apply Keeps.foldl | apply Keeps.step (State.vector_keeps ..)
    | apply Keeps.step (State.emit_keeps ..) | split | dsimp only

theorem outbound_keeps (p : Nat) (q : Pkt) (s : State) : Keeps s (outbound p q s) := by
  unfold outbound
  repeat' with_reducible first
    | exact Keeps.refl _ | intro _ | apply Keeps.foldl | apply Keeps.step (reply_keeps ..)
    | apply Keeps.step (State.setPci_keeps ..) | apply Keeps.step (State.emit_keeps ..)
    | apply Keeps.step (outboundWrite_keeps ..) | split | dsimp only | apply Keeps.step (Keeps.foldl ..)
    | apply Keeps.step (Keeps.mk8 ..)

theorem endOutbound_keeps (p : Nat) (tag : Nat) (st : Status) (data : List Byte) (s : State) : Keeps s (endOutbound p tag st data s) := by
  unfold endOutbound
  repeat' with_reducible first
    | exact Keeps.refl _ | intro _ | apply Keeps.foldl | apply Keeps.step (tag_keeps ..)
    | apply Keeps.step (respond_keeps ..) | apply Keeps.step (State.setPci_keeps ..) | split

theorem outboundTimeout_keeps (p : Nat) (tag : Nat) (s : State) : Keeps s (outboundTimeout p tag s) := by
  unfold outboundTimeout
  repeat' with_reducible first
    | exact Keeps.refl _ | intro _ | apply Keeps.foldl | apply Keeps.step (tag_keeps ..)
    | apply Keeps.step (endOutbound_keeps ..) | split

theorem pciPut_keeps (acc : Accessor) (p : Nat) (off : Nat) (v : Word) (s : State) : Keeps s (pciPut acc p off v s) := by
  unfold pciPut
  repeat' with_reducible first
    | exact Keeps.refl _ | intro _ | apply Keeps.foldl | apply Keeps.step (State.setPci_keeps ..)
    | apply Keeps.step (pciInt_keeps ..) | apply Keeps.step (release_keeps ..) | apply Keeps.step (writeXlt_keeps ..)
    | apply Keeps.step (State.clearCopy_keeps ..) | apply Keeps.step (State.setCopy_keeps ..) | split

theorem pciWrite_keeps (acc : Accessor) (off : Nat) (v : Word) (s : State) : Keeps s (pciWrite acc off v s) := by
  unfold pciWrite
  repeat' with_reducible first
    | exact Keeps.refl _ | intro _ | apply Keeps.foldl | apply Keeps.step (State.setCopy_keeps ..)
    | apply Keeps.step (pciPut_keeps ..) | split

end Sys2Proof.Machine
end

