-- ==== Sys2Proof/Laws/KTimebase.lean ====
section
/-! SUPPORT. The operations of Machine/Timebase.lean keep what `Keeps` names. -/
namespace Sys2Proof.Machine
open Sys2Proof

theorem dtbStep_keeps (s : State) (v : Nat) : Keeps s (dtbStep s v) := by
  unfold dtbStep
  repeat' with_reducible first
    | exact Keeps.refl _ | intro _ | apply Keeps.foldl | apply Keeps.step (State.raiseAll_keeps ..)
    | apply Keeps.step (State.post_keeps ..) | split | dsimp only | apply Keeps.step (Keeps.foldl ..)
    | apply Keeps.step (Keeps.mk8 ..)

theorem holdover_keeps (s : State) : Keeps s (holdover s) := by
  unfold holdover
  repeat' with_reducible first
    | exact Keeps.refl _ | intro _ | apply Keeps.foldl | apply Keeps.step (State.raiseAll_keeps ..)
    | apply Keeps.step (State.post_keeps ..) | split | dsimp only | apply Keeps.step (Keeps.foldl ..)
    | apply Keeps.step (Keeps.mk8 ..)

theorem locked_keeps (s : State) : Keeps s (locked s) := by
  unfold locked
  repeat' with_reducible first
    | exact Keeps.refl _ | intro _ | apply Keeps.foldl | apply Keeps.step (State.raiseAll_keeps ..)
    | apply Keeps.step (State.post_keeps ..) | split | dsimp only | apply Keeps.step (Keeps.foldl ..)
    | apply Keeps.step (Keeps.mk8 ..)

theorem refLost_keeps (s : State) : Keeps s (refLost s) := by
  unfold refLost
  repeat' with_reducible first
    | exact Keeps.refl _ | intro _ | apply Keeps.foldl | apply Keeps.step (holdover_keeps ..)
    | apply Keeps.step (State.raiseAll_keeps ..) | apply Keeps.step (State.post_keeps ..) | split | dsimp only
    | apply Keeps.step (Keeps.foldl ..) | apply Keeps.step (Keeps.mk8 ..)

theorem refReturn_keeps (s : State) : Keeps s (refReturn s) := by
  unfold refReturn
  repeat' with_reducible first
    | exact Keeps.refl _ | intro _ | apply Keeps.foldl | split | dsimp only | apply Keeps.step (Keeps.foldl ..)
    | apply Keeps.step (Keeps.mk8 ..)

theorem refInstant_keeps (s : State) (off : Int) (bound : Nat) (need : Nat) (rate : Int) : Keeps s (refInstant s off bound need rate) := by
  unfold refInstant
  repeat' with_reducible first
    | exact Keeps.refl _ | intro _ | apply Keeps.foldl | apply Keeps.step (dtbStep_keeps ..)
    | apply Keeps.step (locked_keeps ..) | split | dsimp only | apply Keeps.step (Keeps.foldl ..)
    | apply Keeps.step (Keeps.mk8 ..)

theorem applySet_keeps (s : State) : Keeps s (applySet s) := by
  unfold applySet
  repeat' with_reducible first
    | exact Keeps.refl _ | intro _ | apply Keeps.foldl | apply Keeps.step (dtbStep_keeps ..)
    | apply Keeps.step (endCmd?_keeps ..) | split | dsimp only | apply Keeps.step (Keeps.foldl ..)
    | apply Keeps.step (Keeps.mk8 ..)

theorem ppsEdge_keeps (s : State) : Keeps s (ppsEdge s) := by
  unfold ppsEdge
  repeat' with_reducible first
    | exact Keeps.refl _ | intro _ | apply Keeps.foldl | apply Keeps.step (applySet_keeps ..)
    | apply Keeps.step (refInstant_keeps ..) | split | dsimp only | apply Keeps.step (Keeps.foldl ..)
    | apply Keeps.step (Keeps.mk8 ..)

theorem syncMessage_keeps (macPort : Nat) (gmNs : Nat) (rate : Int) (s : State) : Keeps s (syncMessage macPort gmNs rate s) := by
  unfold syncMessage
  repeat' with_reducible first
    | exact Keeps.refl _ | intro _ | apply Keeps.foldl | apply Keeps.step (refInstant_keeps ..) | split | dsimp only
    | apply Keeps.step (Keeps.foldl ..) | apply Keeps.step (Keeps.mk8 ..)

theorem ppsTimeout_keeps (s : State) : Keeps s (ppsTimeout s) := by
  unfold ppsTimeout
  repeat' with_reducible first
    | exact Keeps.refl _ | intro _ | apply Keeps.foldl | apply Keeps.step (State.raiseAll_keeps ..)
    | apply Keeps.step (holdover_keeps ..) | split | dsimp only | apply Keeps.step (Keeps.foldl ..)
    | apply Keeps.step (Keeps.mk8 ..)

theorem syncTimeout_keeps (s : State) : Keeps s (syncTimeout s) := by
  unfold syncTimeout
  repeat' with_reducible first
    | exact Keeps.refl _ | intro _ | apply Keeps.foldl | apply Keeps.step (holdover_keeps ..) | split | dsimp only
    | apply Keeps.step (Keeps.foldl ..) | apply Keeps.step (Keeps.mk8 ..)

theorem ppsOutPulse_keeps (s : State) : Keeps s (ppsOutPulse s) := by
  unfold ppsOutPulse
  repeat' with_reducible first
    | exact Keeps.refl _ | intro _ | apply Keeps.foldl | apply Keeps.step (State.emit_keeps ..) | split | dsimp only
    | apply Keeps.step (Keeps.foldl ..) | apply Keeps.step (Keeps.mk8 ..)

theorem ppsLow_keeps (s : State) : Keeps s (ppsLow s) := by
  unfold ppsLow
  repeat' with_reducible first
    | exact Keeps.refl _ | intro _ | apply Keeps.foldl | apply Keeps.step (State.emit_keeps ..) | split | dsimp only
    | apply Keeps.step (Keeps.foldl ..) | apply Keeps.step (Keeps.mk8 ..)

theorem ppsPulseEnd_keeps (s : State) : Keeps s (ppsPulseEnd s) := by
  unfold ppsPulseEnd
  repeat' with_reducible first
    | exact Keeps.refl _ | intro _ | apply Keeps.foldl | apply Keeps.step (ppsLow_keeps ..) | split

theorem timeSet_keeps (d : Nat) (s : State) : Keeps s (timeSet d s) := by
  unfold timeSet
  repeat' with_reducible first
    | exact Keeps.refl _ | intro _ | apply Keeps.foldl | apply Keeps.step (serve_keeps ..)
    | apply Keeps.step (finish_keeps ..) | apply Keeps.step (waitCmd_keeps ..) | apply Keeps.step (dtbStep_keeps ..)
    | split | dsimp only | apply Keeps.step (Keeps.foldl ..) | apply Keeps.step (Keeps.mk8 ..)

theorem timeDiscipline_keeps (d : Nat) (s : State) : Keeps s (timeDiscipline d s) := by
  unfold timeDiscipline
  repeat' with_reducible first
    | exact Keeps.refl _ | intro _ | apply Keeps.foldl | apply Keeps.step (serve_keeps ..)
    | apply Keeps.step (noteCmd_keeps ..) | apply Keeps.step (finish_keeps ..) | apply Keeps.step (applySet_keeps ..)
    | split | dsimp only | apply Keeps.step (Keeps.foldl ..) | apply Keeps.step (Keeps.mk8 ..)

theorem nowLo_keeps (acc : Accessor) (s : State) : Keeps s (nowLo acc s).2 := by
  unfold nowLo
  repeat' with_reducible first
    | exact Keeps.refl _ | intro _ | apply Keeps.foldl | apply Keeps.step (State.setCopy_keeps ..)

theorem tbsRead_keeps (acc : Accessor) (off : Nat) (s : State) : Keeps s (tbsRead acc off s).2 := by
  unfold tbsRead
  repeat' with_reducible first
    | exact Keeps.refl _ | intro _ | apply Keeps.foldl | apply Keeps.step (nowLo_keeps ..) | split

theorem tbsWrite_keeps (acc : Accessor) (off : Nat) (v : Word) (s : State) : Keeps s (tbsWrite acc off v s) := by
  unfold tbsWrite
  repeat' with_reducible first
    | exact Keeps.refl _ | intro _ | apply Keeps.foldl | apply Keeps.step (State.clearCopy_keeps ..)
    | apply Keeps.step (State.setCopy_keeps ..) | split

end Sys2Proof.Machine
end

