-- ==== Sys2Proof/Laws/KEth.lean ====
section
/-! SUPPORT. The operations of Machine/Eth.lean keep what `Keeps` names. -/
namespace Sys2Proof.Machine
open Sys2Proof

theorem ethInt_keeps (s : State) (m : Nat) (bits : Word) : Keeps s (ethInt s m bits) := by
  unfold ethInt
  repeat' with_reducible first
    | exact Keeps.refl _ | intro _ | apply Keeps.foldl | apply Keeps.step (State.raiseFor_keeps ..)

theorem macCount_keeps (s : State) (m : Nat) (i : Nat) : Keeps s (macCount s m i) := by
  unfold macCount
  repeat' with_reducible first
    | exact Keeps.refl _ | intro _ | apply Keeps.foldl | apply Keeps.step (State.setMac_keeps ..)

theorem ethLinkChange_keeps (m : Nat) (up : Bool) (an : Bool) (fec : Bool) (s : State) : Keeps s (ethLinkChange m up an fec s) := by
  unfold ethLinkChange
  repeat' with_reducible first
    | exact Keeps.refl _ | intro _ | apply Keeps.foldl | apply Keeps.step (ethInt_keeps ..)
    | apply Keeps.step (State.setMac_keeps ..) | apply Keeps.step (holdover_keeps ..) | split

theorem writeTail_keeps (m : Nat) (tx : Bool) (v : Word) (s : State) : Keeps s (writeTail m tx v s) := by
  unfold writeTail
  repeat' with_reducible first
    | exact Keeps.refl _ | intro _ | apply Keeps.foldl | apply Keeps.step (ethInt_keeps ..)
    | apply Keeps.step (State.setMac_keeps ..) | split | dsimp only

theorem stopQueue_keeps (m : Nat) (tx : Bool) (st : Status) (s : State) : Keeps s (stopQueue m tx st s) := by
  unfold stopQueue
  repeat' with_reducible first
    | exact Keeps.refl _ | intro _ | apply Keeps.foldl | apply Keeps.step (State.setMac_keeps ..)
    | apply Keeps.step (ethInt_keeps ..) | apply Keeps.step (macCount_keeps ..)

theorem macFetch_keeps (s : State) (m : Nat) (a : Nat) (n : Nat) (st : Status) : Keeps s (macFetch s m a n st).2 := by
  unfold macFetch
  repeat' with_reducible first
    | exact Keeps.refl _ | intro _ | apply Keeps.foldl | apply Keeps.step (blockAccess_keeps ..)

theorem macStore_keeps (s : State) (m : Nat) (a : Nat) (bs : List Byte) : Keeps s (macStore s m a bs).2 := by
  unfold macStore
  repeat' with_reducible first
    | exact Keeps.refl _ | intro _ | apply Keeps.foldl | apply Keeps.step (blockWrite_keeps ..)

theorem descDone_keeps (s : State) (m : Nat) (tx : Bool) (bs : List Byte) : Keeps s (descDone s m tx bs) := by
  unfold descDone
  repeat' with_reducible first
    | exact Keeps.refl _ | intro _ | apply Keeps.foldl | apply Keeps.step (macStore_keeps ..)
    | apply Keeps.step (stopQueue_keeps ..) | apply Keeps.step (ethInt_keeps ..)
    | apply Keeps.step (State.setMac_keeps ..) | split | dsimp only

theorem countFrags_keeps (s : State) (m : Nat) (n : Nat) : Keeps s (countFrags s m n) := by
  unfold countFrags
  repeat' with_reducible first
    | exact Keeps.refl _ | intro _ | apply Keeps.foldl | apply Keeps.step (State.setMac_keeps ..)

theorem txFrame_keeps (m : Nat) (dma : DmaResult) (ts : Nat) (frags : Nat) (s : State) :
    Keeps s (txFrame m dma ts frags s) := by
  unfold txFrame
  repeat' with_reducible first
    | exact Keeps.refl _ | intro _ | apply Keeps.foldl | apply Keeps.step (macFetch_keeps ..)
    | apply Keeps.step (stopQueue_keeps ..) | apply Keeps.step (countFrags_keeps ..)
    | apply Keeps.step (macCount_keeps ..) | apply Keeps.step (State.emit_keeps ..)
    | apply Keeps.step (descDone_keeps ..) | split | dsimp only

theorem rxFrame_keeps (m : Nat) (bs : List Byte) (fcsOk : Bool) (ts : Nat) (dma : DmaResult) (s : State) : Keeps s (rxFrame m bs fcsOk ts dma s) := by
  unfold rxFrame
  repeat' with_reducible first
    | exact Keeps.refl _ | intro _ | apply Keeps.foldl | apply Keeps.step (macCount_keeps ..)
    | apply Keeps.step (macFetch_keeps ..) | apply Keeps.step (macStore_keeps ..)
    | apply Keeps.step (stopQueue_keeps ..) | apply Keeps.step (descDone_keeps ..) | split | dsimp only

theorem writeGclCtrl_keeps (m : Nat) (v : Word) (s : State) : Keeps s (writeGclCtrl m v s) := by
  unfold writeGclCtrl
  repeat' with_reducible first
    | exact Keeps.refl _ | intro _ | apply Keeps.foldl | apply Keeps.step (ethInt_keeps ..)
    | apply Keeps.step (State.setMac_keeps ..) | split | dsimp only

theorem gclSwitch_keeps (m : Nat) (s : State) : Keeps s (gclSwitch m s) := by
  unfold gclSwitch
  repeat' with_reducible first
    | exact Keeps.refl _ | intro _ | apply Keeps.foldl | apply Keeps.step (ethInt_keeps ..)
    | apply Keeps.step (State.setMac_keeps ..) | split

theorem gateInterval_keeps (m : Nat) (s : State) : Keeps s (gateInterval m s) := by
  unfold gateInterval
  repeat' with_reducible first
    | exact Keeps.refl _ | intro _ | apply Keeps.foldl | apply Keeps.step (State.setMac_keeps ..) | split | dsimp only

theorem preemptVerify_keeps (m : Nat) (s : State) : Keeps s (preemptVerify m s) := by
  unfold preemptVerify
  repeat' with_reducible first
    | exact Keeps.refl _ | intro _ | apply Keeps.foldl | apply Keeps.step (State.setMac_keeps ..) | split

theorem writePortCtrl_keeps (m : Nat) (v : Word) (s : State) : Keeps s (writePortCtrl m v s) := by
  unfold writePortCtrl
  repeat' with_reducible first
    | exact Keeps.refl _ | intro _ | apply Keeps.foldl | apply Keeps.step (ethInt_keeps ..)
    | apply Keeps.step (State.setMac_keeps ..) | split

theorem putBase_keeps (s : State) (m : Nat) (tx : Bool) (hi : Bool) (v : Word) : Keeps s (putBase s m tx hi v) := by
  unfold putBase
  repeat' with_reducible first
    | exact Keeps.refl _ | intro _ | apply Keeps.foldl | apply Keeps.step (ethInt_keeps ..)
    | apply Keeps.step (State.setMac_keeps ..) | split | dsimp only

theorem putGate_keeps (s : State) (m : Nat) (f : Nat × Nat → Nat × Nat) : Keeps s (putGate s m f) := by
  unfold putGate
  repeat' with_reducible first
    | exact Keeps.refl _ | intro _ | apply Keeps.foldl | apply Keeps.step (State.setMac_keeps ..) | split | dsimp only

theorem macPut_keeps (acc : Accessor) (m : Nat) (off : Nat) (v : Word) (s : State) : Keeps s (macPut acc m off v s) := by
  unfold macPut
  repeat' with_reducible first
    | exact Keeps.refl _ | intro _ | apply Keeps.foldl | apply Keeps.step (writePortCtrl_keeps ..)
    | apply Keeps.step (State.setMac_keeps ..) | apply Keeps.step (ethInt_keeps ..)
    | apply Keeps.step (putBase_keeps ..) | apply Keeps.step (writeTail_keeps ..)
    | apply Keeps.step (putGate_keeps ..) | apply Keeps.step (writeGclCtrl_keeps ..)
    | apply Keeps.step (State.clearCopy_keeps ..) | apply Keeps.step (State.setCopy_keeps ..) | split

theorem ethWrite_keeps (acc : Accessor) (off : Nat) (v : Word) (s : State) : Keeps s (ethWrite acc off v s) := by
  unfold ethWrite
  repeat' with_reducible first
    | exact Keeps.refl _ | intro _ | apply Keeps.foldl | apply Keeps.step (State.setCopy_keeps ..)
    | apply Keeps.step (macPut_keeps ..) | split

theorem quadDark_keeps (s : State) (q : Nat) : Keeps s (quadDark s q) := by
  unfold quadDark
  repeat' with_reducible first
    | exact Keeps.refl _ | intro _ | apply Keeps.foldl | apply Keeps.step (State.setLane_keeps ..)
    | apply Keeps.step (State.setQuad_keeps ..) | split | dsimp only | apply Keeps.step (Keeps.foldl ..)

theorem xcvLossOfLock_keeps (q : Nat) (refGone : Bool) (s : State) : Keeps s (xcvLossOfLock q refGone s) := by
  unfold xcvLossOfLock
  repeat' with_reducible first
    | exact Keeps.refl _ | intro _ | apply Keeps.foldl | apply Keeps.step (State.setQuad_keeps ..)
    | apply Keeps.step (State.raiseAll_keeps ..) | apply Keeps.step (quadDark_keeps ..) | split

theorem quadPllLock_keeps (q : Nat) (s : State) : Keeps s (quadPllLock q s) := by
  unfold quadPllLock
  repeat' with_reducible first
    | exact Keeps.refl _ | intro _ | apply Keeps.foldl | apply Keeps.step (State.setLane_keeps ..)
    | apply Keeps.step (State.setQuad_keeps ..) | split | dsimp only | apply Keeps.step (Keeps.foldl ..)
    | apply Keeps.step (Keeps.mk8 ..)

theorem rxLockChange_keeps (l : Nat) (locked : Bool) (s : State) : Keeps s (rxLockChange l locked s) := by
  unfold rxLockChange
  repeat' with_reducible first
    | exact Keeps.refl _ | intro _ | apply Keeps.foldl | apply Keeps.step (State.takeFree_keeps ..)
    | apply Keeps.step (State.setLane_keeps ..) | apply Keeps.step (locked_keeps ..)
    | apply Keeps.step (State.emit_keeps ..) | split

theorem rxSlip_keeps (l : Nat) (s : State) : Keeps s (rxSlip l s) := by
  unfold rxSlip
  repeat' with_reducible first
    | exact Keeps.refl _ | intro _ | apply Keeps.foldl | apply Keeps.step (State.setLane_keeps ..) | split

theorem rawWordTime_keeps (l : Nat) (rx : Option (BitVec 128)) (push : Option (BitVec 128)) (pop : Bool) (txIdle : Bool) (s : State) :
    Keeps s (rawWordTime l rx push pop txIdle s) := by
  unfold rawWordTime
  repeat' with_reducible first
    | exact Keeps.refl _ | intro _ | apply Keeps.foldl | apply Keeps.step (State.setLane_keeps ..)
    | apply Keeps.step (State.emit_keeps ..) | split | dsimp only

theorem xcvWrite_keeps (acc : Accessor) (off : Nat) (v : Word) (s : State) : Keeps s (xcvWrite acc off v s) := by
  unfold xcvWrite
  repeat' with_reducible first
    | exact Keeps.refl _ | intro _ | apply Keeps.foldl | apply Keeps.step (State.setCopy_keeps ..)
    | apply Keeps.step (State.clearCopy_keeps ..) | split | dsimp only | apply Keeps.step (Keeps.foldl ..)
    | apply Keeps.step (Keeps.mk8 ..)

end Sys2Proof.Machine
end

