-- ==== Sys2Proof/Laws/KReflex.lean ====
section
/-! SUPPORT. The operations of Machine/Reflex.lean keep what `Keeps` names. -/
namespace Sys2Proof.Machine
open Sys2Proof

theorem ignoreAction_keeps (s : State) (t : Nat) : Keeps s (ignoreAction s t) := by
  unfold ignoreAction
  repeat' with_reducible first
    | exact Keeps.refl _ | intro _ | apply Keeps.foldl | apply Keeps.step (State.setTable_keeps ..)

theorem countFire_keeps (s : State) (t : Nat) : Keeps s (countFire s t) := by
  unfold countFire
  repeat' with_reducible first
    | exact Keeps.refl _ | intro _ | apply Keeps.foldl | apply Keeps.step (State.setTable_keeps ..)

theorem actSetLevel_keeps (s : State) (t : Nat) (n : Nat) (level : Bool) (done : Bool) : Keeps s (actSetLevel s t n level done) := by
  unfold actSetLevel
  repeat' with_reducible first
    | exact Keeps.refl _ | intro _ | apply Keeps.foldl | apply Keeps.step (countFire_keeps ..)
    | apply Keeps.step (putPort_keeps ..) | apply Keeps.step (ignoreAction_keeps ..) | split | dsimp only

theorem actForceSafe_keeps (s : State) (t : Nat) (set : Nat) : Keeps s (actForceSafe s t set) := by
  unfold actForceSafe
  repeat' with_reducible first
    | exact Keeps.refl _ | intro _ | apply Keeps.foldl | apply Keeps.step (ignoreAction_keeps ..)
    | apply Keeps.step (forceSafe_keeps ..) | apply Keeps.step (countFire_keeps ..) | split | dsimp only
    | apply Keeps.step (Keeps.foldl ..)

theorem actFabric_keeps (s : State) (t : Nat) (j : Nat) : Keeps s (actFabric s t j) := by
  unfold actFabric
  repeat' with_reducible first
    | exact Keeps.refl _ | intro _ | apply Keeps.foldl | apply Keeps.step (countFire_keeps ..)
    | apply Keeps.step (State.setTable_keeps ..) | apply Keeps.step (State.emit_keeps ..)
    | apply Keeps.step (wakeBand_keeps ..) | apply Keeps.step (eventDrop_keeps ..) | split | dsimp only

theorem actSend_keeps (s : State) (t : Nat) (term : Nat) (a : Word) (fall : Bool) : Keeps s (actSend s t term a fall) := by
  unfold actSend
  repeat' with_reducible first
    | exact Keeps.refl _ | intro _ | apply Keeps.foldl | apply Keeps.step (dueEvent_keeps ..)
    | apply Keeps.step (countFire_keeps ..) | apply Keeps.step (ignoreAction_keeps ..) | split | dsimp only

theorem runAction_keeps (safe : Bool) (t : Nat) (term : Nat) (fall : Bool) (earlier : List Nat) (s : State) (a : Word) :
    Keeps s (runAction safe t term fall earlier s a) := by
  unfold runAction
  repeat' with_reducible first
    | exact Keeps.refl _ | intro _ | apply Keeps.foldl | apply Keeps.step (actSetLevel_keeps ..)
    | apply Keeps.step (actForceSafe_keeps ..) | apply Keeps.step (actFabric_keeps ..)
    | apply Keeps.step (actSend_keeps ..) | split

theorem runTerms_keeps (safe : Bool) (t : Nat) (terms : List (List Word)) :
    ∀ (l : List (Nat × Bool)) (earlier : List Nat) (s : State), Keeps s (runTerms safe t terms l earlier s)
  | [], _, s => .refl s
  | (i, fall) :: rest, earlier, s =>
    (Keeps.foldl (fun u _ => runAction_keeps safe t i fall earlier u _) _ s).trans (runTerms_keeps safe t terms rest _ _)

theorem runCycle_keeps (t : Nat) (acts : List (Nat × Bool)) (s : State) : Keeps s (runCycle t acts s) := by
  unfold runCycle
  repeat' with_reducible first
    | exact Keeps.refl _ | intro _ | apply Keeps.foldl | apply Keeps.step (runTerms_keeps ..)

theorem termFire_keeps (t : Nat) (rfxIn : BitVec 64) (s0 : State) : Keeps s0 (termFire t rfxIn s0) := by
  unfold termFire
  repeat' with_reducible first
    | exact Keeps.refl _ | intro _ | apply Keeps.foldl | apply Keeps.step (State.setTable_keeps ..)
    | apply Keeps.step (runCycle_keeps ..) | apply Keeps.step (State.raiseFor_keeps ..) | split | dsimp only

theorem flowInterval_keeps (src : Nat) (dst : Nat) (s : State) : Keeps s (flowInterval src dst s) := by
  unfold flowInterval
  repeat' with_reducible first
    | exact Keeps.refl _ | intro _ | apply Keeps.foldl | apply Keeps.step (sendEvent_keeps ..)
    | apply Keeps.step (State.setTable_keeps ..) | split | dsimp only

theorem event_keeps (e : EventPkt) (s : State) : Keeps s (event e s) := by
  unfold event
  repeat' with_reducible first
    | exact Keeps.refl _ | intro _ | apply Keeps.foldl | apply Keeps.step (eventDrop_keeps ..)
    | apply Keeps.step (bump_keeps ..) | apply Keeps.step (State.setTable_keeps ..) | split | dsimp only
    | apply Keeps.step (Keeps.foldl ..) | apply Keeps.step (Keeps.mk8 ..)

theorem rfxCtrl_keeps (acc : Accessor) (v : Word) (s : State) : Keeps s (rfxCtrl acc v s) := by
  unfold rfxCtrl
  repeat' with_reducible first
    | exact Keeps.refl _ | intro _ | apply Keeps.foldl | apply Keeps.step (State.setTable_keeps ..)
    | apply Keeps.step (routeCheck_keeps ..) | apply Keeps.step (setArm_keeps ..) | split | dsimp only

theorem rfxWrite_keeps (acc : Accessor) (off : Nat) (v : Word) (s : State) : Keeps s (rfxWrite acc off v s) := by
  unfold rfxWrite
  repeat' with_reducible first
    | exact Keeps.refl _ | intro _ | apply Keeps.foldl | apply Keeps.step (State.setCopy_keeps ..)
    | apply Keeps.step (rfxCtrl_keeps ..) | apply Keeps.step (State.clearCopy_keeps ..) | split

end Sys2Proof.Machine
end

