-- ==== Sys2Proof/Laws/KUanFrames.lean ====
section
/-! SUPPORT. The operations of Machine/UanFrames.lean keep what `Keeps` names. -/
namespace Sys2Proof.Machine
open Sys2Proof

theorem enterRunning_keeps (s : State) (r : Nat) : Keeps s (enterRunning s r) := by
  unfold enterRunning
  repeat' with_reducible first
    | exact Keeps.refl _ | intro _ | apply Keeps.foldl | apply Keeps.step (uanInt_keeps ..)
    | apply Keeps.step (State.setRing_keeps ..) | apply Keeps.step (uanEvent_keeps ..) | split | dsimp only

theorem joinEvent_keeps (s : State) (r : Nat) : Keeps s (joinEvent s r) := by
  unfold joinEvent
  repeat' with_reducible first
    | exact Keeps.refl _ | intro _ | apply Keeps.foldl | apply Keeps.step (uanEvent_keeps ..)
    | apply Keeps.step (uanInt_keeps ..)

theorem givenEvents_keeps (s : State) (r : Nat) (ns : List Nat) : Keeps s (givenEvents s r ns) := by
  unfold givenEvents
  repeat' with_reducible first
    | exact Keeps.refl _ | intro _ | apply Keeps.foldl | apply Keeps.step (uanEvent_keeps ..)

theorem delayChange_keeps (s : State) (r : Nat) : Keeps s (delayChange s r) := by
  unfold delayChange
  repeat' with_reducible first
    | exact Keeps.refl _ | intro _ | apply Keeps.foldl | apply Keeps.step (uanEvent_keeps ..)
    | apply Keeps.step (uanInt_keeps ..) | apply Keeps.step (State.setRing_keeps ..)

theorem delaysUnsteady_keeps (s : State) (r : Nat) : Keeps s (delaysUnsteady s r) := by
  unfold delaysUnsteady
  repeat' with_reducible first
    | exact Keeps.refl _ | intro _ | apply Keeps.foldl | apply Keeps.step (breakRing_keeps ..)

theorem delayFrame_keeps (r : Nat) (bs : List Byte) (loop : Nat) (s : State) : Keeps s (delayFrame r bs loop s) := by
  unfold delayFrame
  repeat' with_reducible first
    | exact Keeps.refl _ | intro _ | apply Keeps.foldl | apply Keeps.step (returned_keeps ..)
    | apply Keeps.step (pumpCtrl_keeps ..) | apply Keeps.step (State.setRing_keeps ..)
    | apply Keeps.step (delaysUnsteady_keeps ..) | apply Keeps.step (delayChange_keeps ..) | split | dsimp only

theorem failStart_keeps (s : State) (r : Nat) : Keeps s (failStart s r) := by
  unfold failStart
  repeat' with_reducible first
    | exact Keeps.refl _ | intro _ | apply Keeps.foldl | apply Keeps.step (ringDone_keeps ..)
    | apply Keeps.step (pumpCtrl_keeps ..) | apply Keeps.step (State.setRing_keeps ..)

theorem discoverStart_keeps (s : State) (r : Nat) : Keeps s (discoverStart s r) := by
  unfold discoverStart
  repeat' with_reducible first
    | exact Keeps.refl _ | intro _ | apply Keeps.foldl | apply Keeps.step (failStart_keeps ..)
    | apply Keeps.step (uanEvent_keeps ..) | apply Keeps.step (uanInt_keeps ..)
    | apply Keeps.step (givenEvents_keeps ..) | apply Keeps.step (State.setRing_keeps ..)
    | apply Keeps.step (joinEvent_keeps ..) | apply Keeps.step (enterRunning_keeps ..)
    | apply Keeps.step (pumpCtrl_keeps ..) | split | dsimp only

theorem joins_keeps (s : State) (r : Nat) (g : Ring) : Keeps s (joins s r g) := by
  unfold joins
  repeat' with_reducible first
    | exact Keeps.refl _ | intro _ | apply Keeps.foldl | apply Keeps.step (givenEvents_keeps ..)
    | apply Keeps.step (State.setRing_keeps ..)

theorem discoverRecover_keeps (s : State) (r : Nat) : Keeps s (discoverRecover s r) := by
  unfold discoverRecover
  repeat' with_reducible first
    | exact Keeps.refl _ | intro _ | apply Keeps.foldl | apply Keeps.step (joins_keeps ..)
    | apply Keeps.step (pumpCtrl_keeps ..) | apply Keeps.step (enterRunning_keeps ..)

theorem refreshDone_keeps (s : State) (r : Nat) : Keeps s (refreshDone s r) := by
  unfold refreshDone
  repeat' with_reducible first
    | exact Keeps.refl _ | intro _ | apply Keeps.foldl | apply Keeps.step (ringDone_keeps ..)
    | apply Keeps.step (writeBuf_keeps ..) | split | dsimp only

theorem discoverFrame_keeps (r : Nat) (bs : List Byte) (s : State) : Keeps s (discoverFrame r bs s) := by
  unfold discoverFrame
  repeat' with_reducible first
    | exact Keeps.refl _ | intro _ | apply Keeps.foldl | apply Keeps.step (returned_keeps ..)
    | apply Keeps.step (State.setRing_keeps ..) | apply Keeps.step (discoverRecover_keeps ..)
    | apply Keeps.step (discoverStart_keeps ..) | apply Keeps.step (joins_keeps ..)
    | apply Keeps.step (delayChange_keeps ..) | apply Keeps.step (pumpCtrl_keeps ..)
    | apply Keeps.step (refreshDone_keeps ..) | split | dsimp only

theorem assignFrame_keeps (r : Nat) (bs : List Byte) (s : State) : Keeps s (assignFrame r bs s) := by
  unfold assignFrame
  repeat' with_reducible first
    | exact Keeps.refl _ | intro _ | apply Keeps.foldl | apply Keeps.step (returned_keeps ..)
    | apply Keeps.step (pumpCtrl_keeps ..) | apply Keeps.step (State.setRing_keeps ..)

theorem configFrame_keeps (r : Nat) (bs : List Byte) (s : State) : Keeps s (configFrame r bs s) := by
  unfold configFrame
  repeat' with_reducible first
    | exact Keeps.refl _ | intro _ | apply Keeps.foldl | apply Keeps.step (returned_keeps ..)
    | apply Keeps.step (State.setRing_keeps ..) | apply Keeps.step (enterRunning_keeps ..)
    | apply Keeps.step (pumpCtrl_keeps ..) | apply Keeps.step (ringDone_keeps ..) | split | dsimp only

theorem safeFrame_keeps (r : Nat) (bs : List Byte) (s : State) : Keeps s (safeFrame r bs s) := by
  unfold safeFrame
  repeat' with_reducible first
    | exact Keeps.refl _ | intro _ | apply Keeps.foldl | apply Keeps.step (returned_keeps ..)
    | apply Keeps.step (ringStopped_keeps ..) | apply Keeps.step (pumpCtrl_keeps ..) | split

theorem notice_keeps (s : State) (r : Nat) : Keeps s (notice s r) := by
  unfold notice
  repeat' with_reducible first
    | exact Keeps.refl _ | intro _ | apply Keeps.foldl | apply Keeps.step (inject_keeps ..) | split | dsimp only

theorem cycleFrame_keeps (r : Nat) (s : State) : Keeps s (cycleFrame r s) := by
  unfold cycleFrame
  repeat' with_reducible first
    | exact Keeps.refl _ | intro _ | apply Keeps.foldl | apply Keeps.step (State.setRing_keeps ..)
    | apply Keeps.step (notice_keeps ..) | apply Keeps.step (sendFrame_keeps ..)
    | apply Keeps.step (ringDone_keeps ..) | split | dsimp only

theorem stationsAfter_keeps (s : State) (r : Nat) (rs : List Record) : Keeps s (stationsAfter s r rs) := by
  unfold stationsAfter
  repeat' with_reducible first
    | exact Keeps.refl _ | intro _ | apply Keeps.foldl | apply Keeps.step (State.setRing_keeps ..)
    | apply Keeps.step (uanEvent_keeps ..) | apply Keeps.step (uanInt_keeps ..) | split | dsimp only

theorem newJoins_keeps (s : State) (r : Nat) (rs : List Record) : Keeps s (newJoins s r rs) := by
  unfold newJoins
  repeat' with_reducible first
    | exact Keeps.refl _ | intro _ | apply Keeps.foldl | apply Keeps.step (joinEvent_keeps ..)
    | apply Keeps.step (State.setRing_keeps ..) | split | dsimp only

theorem afterCycle_keeps (s : State) (r : Nat) : Keeps s (afterCycle s r) := by
  unfold afterCycle
  repeat' with_reducible first
    | exact Keeps.refl _ | intro _ | apply Keeps.foldl | apply Keeps.step (ringSignals_keeps ..)
    | apply Keeps.step (stopRing_keeps ..) | apply Keeps.step (pumpCtrl_keeps ..) | split | dsimp only

theorem missedFrame_keeps (s : State) (r : Nat) (st : Status) : Keeps s (missedFrame s r st) := by
  unfold missedFrame
  repeat' with_reducible first
    | exact Keeps.refl _ | intro _ | apply Keeps.foldl | apply Keeps.step (State.setRing_keeps ..)
    | apply Keeps.step (afterCycle_keeps ..) | apply Keeps.step (stationsAfter_keeps ..)
    | apply Keeps.step (uanEvent_keeps ..) | apply Keeps.step (uanInt_keeps ..)

theorem cycleReturn_keeps (r : Nat) (bs : List Byte) (s : State) : Keeps s (cycleReturn r bs s) := by
  unfold cycleReturn
  repeat' with_reducible first
    | exact Keeps.refl _ | intro _ | apply Keeps.foldl | apply Keeps.step (missedFrame_keeps ..)
    | apply Keeps.step (State.setRing_keeps ..) | apply Keeps.step (afterCycle_keeps ..)
    | apply Keeps.step (newJoins_keeps ..) | apply Keeps.step (stationsAfter_keeps ..) | split | dsimp only

theorem returnDeadline_keeps (r : Nat) (s : State) : Keeps s (returnDeadline r s) := by
  unfold returnDeadline
  repeat' with_reducible first
    | exact Keeps.refl _ | intro _ | apply Keeps.foldl | apply Keeps.step (missedFrame_keeps ..)
    | apply Keeps.step (State.setRing_keeps ..) | apply Keeps.step (pumpCtrl_keeps ..) | split | dsimp only

theorem writeOutput_keeps (s : State) (r : Nat) (off : Nat) (data : List Byte) : Keeps s (writeOutput s r off data) := by
  unfold writeOutput
  repeat' with_reducible first
    | exact Keeps.refl _ | intro _ | apply Keeps.foldl | apply Keeps.step (State.setRing_keeps ..)

theorem writeCtrl_keeps : ∀ (ws : List Word) (r off : Nat) (s : State), Keeps s (writeCtrl ws r off s)
  | [], _, _, s => .refl s
  | w :: ws, r, off, s => (ctrlWrite_keeps r off w s).trans (writeCtrl_keeps ws r (off + 4) _)

theorem ringWrite_keeps (s : State) (r : Nat) (off : Nat) (data : List Byte) : Keeps s (ringWrite s r off data).2 := by
  unfold ringWrite
  repeat' with_reducible first
    | exact Keeps.refl _ | intro _ | apply Keeps.foldl | apply Keeps.step (writeOutput_keeps ..)
    | apply Keeps.step (writeCtrl_keeps ..) | split

theorem uanWrite_keeps (acc : Accessor) (off : Nat) (v : Word) (s : State) : Keeps s (uanWrite acc off v s) := by
  unfold uanWrite
  repeat' with_reducible first
    | exact Keeps.refl _ | intro _ | apply Keeps.foldl | apply Keeps.step (State.setCopy_keeps ..)
    | apply Keeps.step (State.clearCopy_keeps ..) | split

theorem ringMail_keeps (c : RunCmd) (cmd : Nat) (s : State) : Keeps s (ringMail c cmd s) := by
  unfold ringMail
  repeat' with_reducible first
    | exact Keeps.refl _ | intro _ | apply Keeps.foldl | apply Keeps.step (ringCommand_keeps ..)
    | apply Keeps.step (waitCmd_keeps ..)

theorem startFields_keeps (c : RunCmd) (r : Nat) (s : State) : Keeps s (startFields c r s) := by
  unfold startFields
  repeat' with_reducible first
    | exact Keeps.refl _ | intro _ | apply Keeps.foldl | apply Keeps.step (ctrlWrite_keeps ..)

theorem uanStartRing_keeps (d : Nat) (s : State) : Keeps s (uanStartRing d s) := by
  unfold uanStartRing
  repeat' with_reducible first
    | exact Keeps.refl _ | intro _ | apply Keeps.foldl | apply Keeps.step (serve_keeps ..)
    | apply Keeps.step (finish_keeps ..) | apply Keeps.step (ringMail_keeps ..)
    | apply Keeps.step (startFields_keeps ..) | split

theorem uanStopRing_keeps (d : Nat) (s : State) : Keeps s (uanStopRing d s) := by
  unfold uanStopRing
  repeat' with_reducible first
    | exact Keeps.refl _ | intro _ | apply Keeps.foldl | apply Keeps.step (serve_keeps ..)
    | apply Keeps.step (ringMail_keeps ..) | apply Keeps.step (finish_keeps ..) | split

theorem uanGetTopology_keeps (d : Nat) (s : State) : Keeps s (uanGetTopology d s) := by
  unfold uanGetTopology
  repeat' with_reducible first
    | exact Keeps.refl _ | intro _ | apply Keeps.foldl | apply Keeps.step (serve_keeps ..)
    | apply Keeps.step (finish_keeps ..) | apply Keeps.step (ringMail_keeps ..) | apply Keeps.step (writeBuf_keeps ..)
    | split

theorem uanAssign_keeps (d : Nat) (s : State) : Keeps s (uanAssign d s) := by
  unfold uanAssign
  repeat' with_reducible first
    | exact Keeps.refl _ | intro _ | apply Keeps.foldl | apply Keeps.step (serve_keeps ..)
    | apply Keeps.step (finish_keeps ..) | apply Keeps.step (ringMail_keeps ..)
    | apply Keeps.step (ctrlWrite_keeps ..) | split | dsimp only

theorem uanSafe_keeps (d : Nat) (s : State) : Keeps s (uanSafe d s) := by
  unfold uanSafe
  repeat' with_reducible first
    | exact Keeps.refl _ | intro _ | apply Keeps.foldl | apply Keeps.step (serve_keeps ..)
    | apply Keeps.step (finish_keeps ..) | apply Keeps.step (ringMail_keeps ..)
    | apply Keeps.step (ctrlWrite_keeps ..) | split

end Sys2Proof.Machine
end

