-- ==== Sys2Proof/Laws/KReset.lean ====
section
/-! SUPPORT. The operations of Machine/Reset.lean keep what `Keeps` names. -/
namespace Sys2Proof.Machine
open Sys2Proof

theorem scramble_keeps (s : State) (a n : Nat) : Keeps s (scramble s a n) :=
  .memUpd rfl rfl rfl rfl rfl rfl id (fun h => Memory.wf_foldl (List.range n) h)

theorem tearSector_keeps (s : State) (bank : Nat) (p : Nat) : Keeps s (tearSector s bank p) := by
  unfold tearSector
  repeat' with_reducible first
    | exact Keeps.refl _ | intro _ | apply Keeps.foldl | apply Keeps.step (State.setBank_keeps ..)

theorem tearOp_keeps (s : State) (bank : Nat) : Keeps s (tearOp s bank) := by
  unfold tearOp
  repeat' with_reducible first
    | exact Keeps.refl _ | intro _ | apply Keeps.foldl | apply Keeps.step (tearSector_keeps ..)
    | apply Keeps.step (scramble_keeps ..) | split

theorem tearBank_keeps (s : State) (bank : Nat) : Keeps s (tearBank s bank) := by
  unfold tearBank
  repeat' with_reducible first
    | exact Keeps.refl _ | intro _ | apply Keeps.foldl | apply Keeps.step (State.setBank_keeps ..)
    | apply Keeps.step (tearOp_keeps ..) | apply Keeps.step (tearSector_keeps ..) | split | dsimp only

theorem tearNv_keeps (s : State) : Keeps s (tearNv s) := by
  unfold tearNv
  repeat' with_reducible first
    | exact Keeps.refl _ | intro _ | apply Keeps.foldl | apply Keeps.step (tearBank_keeps ..)

theorem resetLogic_keeps (s : State) (tbs : Tbs) (ph : Phase) : Keeps s (resetLogic s tbs ph) := by
  unfold resetLogic
  refine Keeps.step ?_ (tearNv_keeps s)
  generalize tearNv s = t
  exact .memUpd rfl rfl rfl rfl rfl rfl (fun _ => rfl) id

theorem resetPins_keeps (s : State) : Keeps s (resetPins s) := by
  unfold resetPins
  repeat' with_reducible first
    | exact Keeps.refl _ | intro _ | apply Keeps.foldl | apply Keeps.step (State.emit_keeps ..)
    | apply Keeps.step (ppsLow_keeps ..) | split | dsimp only | apply Keeps.step (Keeps.foldl ..)

theorem abortReads_keeps (s : State) : Keeps s (abortReads s) := by
  unfold abortReads
  repeat' with_reducible first
    | exact Keeps.refl _ | intro _ | apply Keeps.foldl | apply Keeps.step (State.emit_keeps ..) | split

theorem tidy_keeps (s : State) : Keeps s (tidy s) := by
  unfold tidy
  repeat' with_reducible first
    | exact Keeps.refl _ | intro _ | apply Keeps.foldl | split | dsimp only | apply Keeps.step (Keeps.foldl ..)
    | apply Keeps.step (Keeps.mk8 ..)

theorem Keeps.withMc {s t : State} (h : Keeps s t) (m : Mc)
    (hm : Memory.wf 0 s.mc.ram = true → Memory.wf 0 m.ram = true) : Keeps s { t with mc := m } :=
  ⟨h.1, h.2, h.3, h.4, h.5, h.6, fun w => ⟨hm w.1, (h.7 w).2⟩⟩

theorem warmNow_keeps (s : State) : Keeps s (warmNow s) := by
  unfold warmNow
  refine Keeps.withMc ?_ _ (SMap.wf_filter _)
  exact .step (tidy_keeps _) (.step (resetLogic_keeps ..) (.step (abortReads_keeps _) (resetPins_keeps s)))

end Sys2Proof.Machine
end

