-- ==== Sys2Proof/Laws/KLcs.lean ====
section
/-! SUPPORT. The operations of Machine/Lcs.lean keep what `Keeps` names. -/
namespace Sys2Proof.Machine
open Sys2Proof

theorem endGrant_keeps (s : State) (slot : Nat) : Keeps s (endGrant s slot) := by
  unfold endGrant
  repeat' with_reducible first
    | exact Keeps.refl _ | intro _ | apply Keeps.foldl | apply Keeps.step (State.raiseFor_keeps ..) | split
    | dsimp only | apply Keeps.step (Keeps.foldl ..) | apply Keeps.step (Keeps.mk8 ..)

theorem endGrants_keeps (s : State) : Keeps s (endGrants s) := by
  unfold endGrants
  repeat' with_reducible first
    | exact Keeps.refl _ | intro _ | apply Keeps.foldl | apply Keeps.step (endGrant_keeps ..)

theorem setNonce_keeps (s : State) (d : Nat) (n : Option Nonce) : Keeps s (setNonce s d n) := by
  unfold setNonce
  repeat' with_reducible first
    | exact Keeps.refl _ | intro _ | apply Keeps.foldl | split | dsimp only | apply Keeps.step (Keeps.foldl ..)
    | apply Keeps.step (Keeps.mk8 ..)

theorem dbgChallenge_keeps (d : Nat) (s : State) : Keeps s (dbgChallenge d s) := by
  unfold dbgChallenge
  repeat' with_reducible first
    | exact Keeps.refl _ | intro _ | apply Keeps.foldl | apply Keeps.step (serve_keeps ..)
    | apply Keeps.step (finish_keeps ..) | apply Keeps.step (setNonce_keeps ..)
    | apply Keeps.step (State.takeFree_keeps ..) | split | dsimp only

theorem nonceExpiry_keeps (h : Nat) (s : State) : Keeps s (nonceExpiry h s) := by
  unfold nonceExpiry
  repeat' with_reducible first
    | exact Keeps.refl _ | intro _ | apply Keeps.foldl | apply Keeps.step (setNonce_keeps ..) | split

theorem storeGrant_keeps (c : RunCmd) (n : Nonce) (minutes : Nat) (s : State) : Keeps s (storeGrant c n minutes s) := by
  unfold storeGrant
  repeat' with_reducible first
    | exact Keeps.refl _ | intro _ | apply Keeps.foldl | apply Keeps.step (State.takeFree_keeps ..)
    | apply Keeps.step (finish_keeps ..) | apply Keeps.step (State.raiseFor_keeps ..) | split | dsimp only
    | apply Keeps.step (Keeps.foldl ..) | apply Keeps.step (Keeps.mk8 ..)

theorem dbgGrant_keeps (d : Nat) (s : State) : Keeps s (dbgGrant d s) := by
  unfold dbgGrant
  repeat' with_reducible first
    | exact Keeps.refl _ | intro _ | apply Keeps.foldl | apply Keeps.step (serve_keeps ..)
    | apply Keeps.step (finish_keeps ..) | apply Keeps.step (setNonce_keeps ..)
    | apply Keeps.step (storeGrant_keeps ..) | split | dsimp only

theorem dbgRevoke_keeps (d : Nat) (s : State) : Keeps s (dbgRevoke d s) := by
  unfold dbgRevoke
  repeat' with_reducible first
    | exact Keeps.refl _ | intro _ | apply Keeps.foldl | apply Keeps.step (serve_keeps ..)
    | apply Keeps.step (finish_keeps ..) | apply Keeps.step (endGrant_keeps ..) | split

theorem leashExpiry_keeps (slot : Nat) (s : State) : Keeps s (leashExpiry slot s) := by
  unfold leashExpiry
  repeat' with_reducible first
    | exact Keeps.refl _ | intro _ | apply Keeps.foldl | apply Keeps.step (endGrant_keeps ..) | split

theorem lcEnd_keeps (c : RunCmd) (st : Status) (s : State) : Keeps s (lcEnd c st s) := by
  unfold lcEnd
  repeat' with_reducible first
    | exact Keeps.refl _ | intro _ | apply Keeps.foldl | apply Keeps.step (finish_keeps ..) | split | dsimp only
    | apply Keeps.step (Keeps.foldl ..) | apply Keeps.step (Keeps.mk8 ..)

theorem lcTransition_keeps (d : Nat) (s : State) : Keeps s (lcTransition d s) := by
  unfold lcTransition
  repeat' with_reducible first
    | exact Keeps.refl _ | intro _ | apply Keeps.foldl | apply Keeps.step (serve_keeps ..)
    | apply Keeps.step (finish_keeps ..) | apply Keeps.step (lcEnd_keeps ..) | apply Keeps.step (setNonce_keeps ..)
    | apply Keeps.step (waitCmd_keeps ..) | split | dsimp only | apply Keeps.step (Keeps.foldl ..)
    | apply Keeps.step (Keeps.mk8 ..)

theorem stopDesign_keeps (s : State) : Keeps s (stopDesign s) := by
  unfold stopDesign
  repeat' with_reducible first
    | exact Keeps.refl _ | intro _ | apply Keeps.foldl | apply Keeps.step (resetPins_keeps ..)
    | apply Keeps.step (gsrFabric_keeps ..) | apply Keeps.step (abortSlice_keeps ..) | split | dsimp only
    | apply Keeps.step (Keeps.foldl ..) | apply Keeps.step (Keeps.mk8 ..)

theorem eraseOwner_keeps (s : State) (bank : Nat) : Keeps s (eraseOwner s bank) :=
  (State.setBank_keeps s bank _).trans (.memUpd rfl rfl rfl rfl rfl rfl id (SMap.wf_filter _))

theorem ownerErase_keeps (s : State) : Keeps s (ownerErase s) := by
  unfold ownerErase
  repeat' with_reducible first
    | exact Keeps.refl _ | intro _ | apply Keeps.foldl | apply Keeps.step (eraseOwner_keeps ..) | split | dsimp only
    | apply Keeps.step (Keeps.foldl ..) | apply Keeps.step (Keeps.mk8 ..)

theorem returnEraseDone_keeps (s : State) : Keeps s (returnEraseDone s) := by
  unfold returnEraseDone
  repeat' with_reducible first
    | exact Keeps.refl _ | intro _ | apply Keeps.foldl | apply Keeps.step (ownerErase_keeps ..)
    | apply Keeps.step (endCmd?_keeps ..) | split | dsimp only | apply Keeps.step (Keeps.foldl ..)
    | apply Keeps.step (Keeps.mk8 ..)

theorem loadIr_keeps (code : Nat) (s : State) : Keeps s (loadIr code s) := by
  unfold loadIr
  repeat' with_reducible first
    | exact Keeps.refl _ | intro _ | apply Keeps.foldl | split | dsimp only | apply Keeps.step (Keeps.foldl ..)
    | apply Keeps.step (Keeps.mk8 ..)

theorem jtagDenied_keeps (code : Nat) (s : State) : Keeps s (jtagDenied code s) := by
  unfold jtagDenied
  repeat' with_reducible first
    | exact Keeps.refl _ | intro _ | apply Keeps.foldl | apply Keeps.step (loadIr_keeps ..)
    | apply Keeps.step (State.raiseAll_keeps ..) | apply Keeps.step (State.emit_keeps ..) | split | dsimp only
    | apply Keeps.step (Keeps.foldl ..) | apply Keeps.step (Keeps.mk8 ..)

theorem jtag_keeps (code : Nat) (f : State → State) (s : State) (hf : ∀ a0, Keeps a0 (f a0)) : Keeps s (jtag code f s) := by
  unfold jtag
  repeat' with_reducible first
    | exact Keeps.refl _ | intro _ | apply Keeps.foldl | apply Keeps.step (hf ..) | apply Keeps.step (loadIr_keeps ..)
    | apply Keeps.step (jtagDenied_keeps ..) | split

theorem bscan_keeps (dr : BscanDr) (s : State) : Keeps s (bscan dr s) := by
  unfold bscan
  repeat' with_reducible first
    | exact Keeps.refl _ | intro _ | apply Keeps.foldl | apply Keeps.step (State.emit_keeps ..) | split | dsimp only
    | apply Keeps.step (Keeps.foldl ..) | apply Keeps.step (Keeps.mk8 ..)

theorem driven_keeps (s : State) : Keeps s (driven s) := by
  unfold driven
  repeat' with_reducible first
    | exact Keeps.refl _ | intro _ | apply Keeps.foldl | split | dsimp only | apply Keeps.step (Keeps.foldl ..)
    | apply Keeps.step (Keeps.mk8 ..)

theorem frameReadback_keeps (far : Word) (s : State) : Keeps s (frameReadback far s) := by
  unfold frameReadback
  repeat' with_reducible first
    | exact Keeps.refl _ | intro _ | apply Keeps.foldl | apply Keeps.step (far_keeps ..)
    | apply Keeps.step (State.passRead_keeps ..) | apply Keeps.step (State.emit_keeps ..)
    | apply Keeps.step (State.takeFree_keeps ..) | split | dsimp only

theorem bypass_keeps (code : Nat) (s : State) : Keeps s (bypass code s) := by
  unfold bypass
  repeat' with_reducible first
    | exact Keeps.refl _ | intro _ | apply Keeps.foldl | apply Keeps.step (loadIr_keeps ..)
    | apply Keeps.step (State.emit_keeps ..) | apply Keeps.step (jtagDenied_keeps ..) | split | dsimp only

theorem lcsWrite_keeps (acc : Accessor) (off : Nat) (v : Word) (s : State) : Keeps s (lcsWrite acc off v s) := by
  unfold lcsWrite
  repeat' with_reducible first
    | exact Keeps.refl _ | intro _ | apply Keeps.foldl | apply Keeps.step (State.setCopy_keeps ..)
    | apply Keeps.step (State.clearCopy_keeps ..) | split

end Sys2Proof.Machine
end

