-- ==== Sys2Proof/Laws/KHmb.lean ====
section
/-! SUPPORT. The operations of Machine/Hmb.lean keep what `Keeps` names. -/
namespace Sys2Proof.Machine
open Sys2Proof

theorem dbError_keeps (s : State) (d : Nat) : Keeps s (dbError s d) := by
  unfold dbError
  repeat' with_reducible first
    | exact Keeps.refl _ | intro _ | apply Keeps.foldl | apply Keeps.step (State.setMbx_keeps ..)

theorem doorbellAt_keeps (d : Nat) (v : Word) (s : State) : Keeps s (doorbellAt d v s) := by
  unfold doorbellAt
  repeat' with_reducible first
    | exact Keeps.refl _ | intro _ | apply Keeps.foldl | apply Keeps.step (dbError_keeps ..)
    | apply Keeps.step (serveRest_keeps ..) | apply Keeps.step (State.setMbx_keeps ..) | split | dsimp only

theorem doorbell_keeps (acc : Accessor) (d : Nat) (v : Word) (s : State) : Keeps s (doorbell acc d v s) := by
  unfold doorbell
  repeat' with_reducible first
    | exact Keeps.refl _ | intro _ | apply Keeps.foldl | apply Keeps.step (doorbellAt_keeps ..) | split

theorem cplHeadAt_keeps (d : Nat) (v : Word) (s : State) : Keeps s (cplHeadAt d v s) := by
  unfold cplHeadAt
  repeat' with_reducible first
    | exact Keeps.refl _ | intro _ | apply Keeps.foldl | apply Keeps.step (dbError_keeps ..)
    | apply Keeps.step (serveRest_keeps ..) | apply Keeps.step (drainHeld_keeps ..)
    | apply Keeps.step (State.setMbx_keeps ..) | split | dsimp only

theorem cplHeadWrite_keeps (acc : Accessor) (d : Nat) (v : Word) (s : State) : Keeps s (cplHeadWrite acc d v s) := by
  unfold cplHeadWrite
  repeat' with_reducible first
    | exact Keeps.refl _ | intro _ | apply Keeps.foldl | apply Keeps.step (cplHeadAt_keeps ..) | split

theorem hmbCtrl_keeps (d : Nat) (v : Word) (s : State) : Keeps s (hmbCtrl d v s) := by
  unfold hmbCtrl
  repeat' with_reducible first
    | exact Keeps.refl _ | intro _ | apply Keeps.foldl | apply Keeps.step (drainHeld_keeps ..)
    | apply Keeps.step (State.setMbx_keeps ..) | apply Keeps.step (dbError_keeps ..) | split

theorem ringReset_keeps (acc : Accessor) (d : Nat) (v : Word) (s : State) : Keeps s (ringReset acc d v s) := by
  unfold ringReset
  repeat' with_reducible first
    | exact Keeps.refl _ | intro _ | apply Keeps.foldl | apply Keeps.step (hmbCtrl_keeps ..) | split

theorem hmbPut_keeps (d : Nat) (r : Nat) (v : Word) (s : State) : Keeps s (hmbPut d r v s) := by
  unfold hmbPut
  repeat' with_reducible first
    | exact Keeps.refl _ | intro _ | apply Keeps.foldl | apply Keeps.step (doorbellAt_keeps ..)
    | apply Keeps.step (cplHeadAt_keeps ..) | apply Keeps.step (hmbCtrl_keeps ..)
    | apply Keeps.step (State.setMbx_keeps ..) | split

theorem hmbWrite_keeps (acc : Accessor) (off : Nat) (v : Word) (s : State) : Keeps s (hmbWrite acc off v s) := by
  unfold hmbWrite
  repeat' with_reducible first
    | exact Keeps.refl _ | intro _ | apply Keeps.foldl | apply Keeps.step (hmbPut_keeps ..) | split

theorem mbxStore_keeps (d : Nat) : ∀ (off : Nat) (bs : List Byte) (s : State), Keeps s (mbxStore d off bs s)
  | _, [], s => .refl s
  | off, b :: bs, s => by
    have h : Keeps s { s with mc := { s.mc with ram := Memory.write 0 s.mc.ram (mbxBase d + off) b } } :=
      .memUpd rfl rfl rfl rfl rfl rfl (SMap.wf_set _ _) id
    exact (Keeps.ite h (.refl s)).trans (mbxStore_keeps d (off + 1) bs _)

theorem mbxPut_keeps (d : Nat) (off : Nat) (v : Word) (s : State) : Keeps s (mbxPut d off v s) := by
  unfold mbxPut
  repeat' with_reducible first
    | exact Keeps.refl _ | intro _ | apply Keeps.foldl | apply Keeps.step (hmbPut_keeps ..)
    | apply Keeps.step (mbxStore_keeps ..) | apply Keeps.step (hsIndex_keeps ..) | split

theorem mbxPutWords_keeps (d : Nat) : ∀ (off : Nat) (ws : List Word) (s : State), Keeps s (mbxPutWords d off ws s)
  | _, [], s => .refl s
  | off, w :: ws, s => (Keeps.ite (mbxPut_keeps d off w s) (.refl s)).trans (mbxPutWords_keeps d (off + 4) ws _)

theorem winWrite_keeps (addr : Nat) (ws : List Word) (s : State) : Keeps s (winWrite addr ws s) := by
  unfold winWrite
  repeat' with_reducible first
    | exact Keeps.refl _ | intro _ | apply Keeps.foldl | apply Keeps.step (mbxPutWords_keeps ..) | split

theorem winRead_keeps (addr : Nat) (n : Nat) (s : State) : Keeps s (winRead addr n s) := by
  unfold winRead
  repeat' with_reducible first
    | exact Keeps.refl _ | intro _ | apply Keeps.foldl | apply Keeps.step (State.emit_keeps ..) | split

theorem abortRunning_keeps (s : State) : Keeps s (abortRunning s) := by
  unfold abortRunning
  repeat' with_reducible first
    | exact Keeps.refl _ | intro _ | apply Keeps.foldl | apply Keeps.step (postCpl_keeps ..) | split | dsimp only
    | apply Keeps.step (Keeps.foldl ..) | apply Keeps.step (Keeps.mk8 ..)

theorem forgetCmds_keeps (s : State) : Keeps s (forgetCmds s) := by
  unfold forgetCmds
  repeat' with_reducible first
    | exact Keeps.refl _ | intro _ | apply Keeps.foldl | split | dsimp only | apply Keeps.step (Keeps.foldl ..)
    | apply Keeps.step (Keeps.mk8 ..)

theorem dropReports_keeps (s : State) : Keeps s (dropReports s) := by
  unfold dropReports
  repeat' with_reducible first
    | exact Keeps.refl _ | intro _ | apply Keeps.foldl | apply Keeps.step (State.post_keeps ..) | split | dsimp only
    | apply Keeps.step (Keeps.foldl ..) | apply Keeps.step (Keeps.mk8 ..)

theorem failExits_keeps (s : State) : Keeps s (failExits s) := by
  unfold failExits
  repeat' with_reducible first
    | exact Keeps.refl _ | intro _ | apply Keeps.foldl | apply Keeps.step (holdBand_keeps ..) | split

theorem mcRestart_keeps (s : State) : Keeps s (mcRestart s) := by
  unfold mcRestart
  repeat' with_reducible first
    | exact Keeps.refl _ | intro _ | apply Keeps.foldl | apply Keeps.step (forgetCmds_keeps ..)
    | apply Keeps.step (failExits_keeps ..) | apply Keeps.step (abortRunning_keeps ..)
    | apply Keeps.step (dropReports_keeps ..) | split | dsimp only | apply Keeps.step (Keeps.foldl ..)
    | apply Keeps.step (Keeps.mk8 ..)

theorem mcRestartDone_keeps (s : State) : Keeps s (mcRestartDone s) := by
  unfold mcRestartDone
  repeat' with_reducible first
    | exact Keeps.refl _ | intro _ | apply Keeps.foldl | apply Keeps.step (applyPll_keeps ..)
    | apply Keeps.step (serveRest_keeps ..) | split | dsimp only | apply Keeps.step (Keeps.foldl ..)
    | apply Keeps.step (Keeps.mk8 ..)

theorem identify_keeps (d : Nat) (s : State) : Keeps s (identify d s) := by
  unfold identify
  repeat' with_reducible first
    | exact Keeps.refl _ | intro _ | apply Keeps.foldl | apply Keeps.step (serve_keeps ..)
    | apply Keeps.step (finish_keeps ..)

theorem getStatus_keeps (d : Nat) (corrected : Nat) (s0 : State) : Keeps s0 (getStatus d corrected s0) := by
  unfold getStatus
  repeat' with_reducible first
    | exact Keeps.refl _ | intro _ | apply Keeps.foldl | apply Keeps.step (serve_keeps ..)
    | apply Keeps.step (finish_keeps ..) | split | dsimp only | apply Keeps.step (Keeps.foldl ..)
    | apply Keeps.step (Keeps.mk8 ..)

theorem takeEvents_keeps (s : State) (d : Nat) (n : Nat) : Keeps s (takeEvents s d n) := by
  unfold takeEvents
  repeat' with_reducible first
    | exact Keeps.refl _ | intro _ | apply Keeps.foldl | split | dsimp only | apply Keeps.step (Keeps.foldl ..)
    | apply Keeps.step (Keeps.mk8 ..)

theorem getReport_keeps (d : Nat) (s : State) : Keeps s (getReport d s) := by
  unfold getReport
  repeat' with_reducible first
    | exact Keeps.refl _ | intro _ | apply Keeps.foldl | apply Keeps.step (serve_keeps ..)
    | apply Keeps.step (finish_keeps ..) | apply Keeps.step (writeBuf_keeps ..)
    | apply Keeps.step (takeEvents_keeps ..) | split | dsimp only

theorem setPol_keeps (s : State) (x : Nat × Nat) : Keeps s (setPol s x) := by
  unfold setPol
  repeat' with_reducible first
    | exact Keeps.refl _ | intro _ | apply Keeps.foldl | apply Keeps.step (State.policy_keeps ..)
    | apply Keeps.step (State.setChan_keeps ..) | split | dsimp only | apply Keeps.step (Keeps.foldl ..)
    | apply Keeps.step (Keeps.mk8 ..)

theorem setPolicy_keeps (d : Nat) (s : State) : Keeps s (setPolicy d s) := by
  unfold setPolicy
  repeat' with_reducible first
    | exact Keeps.refl _ | intro _ | apply Keeps.foldl | apply Keeps.step (serve_keeps ..)
    | apply Keeps.step (finish_keeps ..) | apply Keeps.step (setPol_keeps ..) | split | dsimp only

theorem getPolicy_keeps (d : Nat) (s : State) : Keeps s (getPolicy d s) := by
  unfold getPolicy
  repeat' with_reducible first
    | exact Keeps.refl _ | intro _ | apply Keeps.foldl | apply Keeps.step (serve_keeps ..)
    | apply Keeps.step (finish_keeps ..) | split | dsimp only

theorem avsCommand_keeps (s : State) (rail : Nat) (mv : Nat) : Keeps s (avsCommand s rail mv) := by
  unfold avsCommand
  repeat' with_reducible first
    | exact Keeps.refl _ | intro _ | apply Keeps.foldl | apply Keeps.step (voutCommand_keeps ..)
    | apply Keeps.step (State.policy_keeps ..)

theorem avsPeriod_keeps (margins : List Int) (s0 : State) : Keeps s0 (avsPeriod margins s0) := by
  unfold avsPeriod
  repeat' with_reducible first
    | exact Keeps.refl _ | intro _ | apply Keeps.foldl | apply Keeps.step (avsCommand_keeps ..) | split | dsimp only
    | apply Keeps.step (Keeps.foldl ..) | apply Keeps.step (Keeps.mk8 ..)

theorem marginReport_keeps (s : State) : Keeps s (marginReport s) := by
  unfold marginReport
  repeat' with_reducible first
    | exact Keeps.refl _ | intro _ | apply Keeps.foldl | apply Keeps.step (State.policy_keeps ..)
    | apply Keeps.step (State.post_keeps ..) | split | dsimp only | apply Keeps.step (Keeps.foldl ..)
    | apply Keeps.step (Keeps.mk8 ..)

theorem idleOne_keeps (s : State) (b : Nat) : Keeps s (idleOne s b) := by
  unfold idleOne
  repeat' with_reducible first
    | exact Keeps.refl _ | intro _ | apply Keeps.foldl | apply Keeps.step (beginEntry_keeps ..)
    | apply Keeps.step (State.policy_keeps ..) | split

theorem idleBandCheck_keeps (s : State) : Keeps s (idleBandCheck s) := by
  unfold idleBandCheck
  repeat' with_reducible first
    | exact Keeps.refl _ | intro _ | apply Keeps.foldl | apply Keeps.step (idleOne_keeps ..) | split | dsimp only
    | apply Keeps.step (Keeps.foldl ..) | apply Keeps.step (Keeps.mk8 ..)

end Sys2Proof.Machine
end

