-- ==== Sys2Proof/Laws/KCfgCsr.lean ====
section
/-! SUPPORT. The operations of Machine/CfgCsr.lean keep what `Keeps` names. -/
namespace Sys2Proof.Machine
open Sys2Proof

theorem cfgWrite_keeps (acc : Accessor) (off : Nat) (v : Word) (s : State) : Keeps s (cfgWrite acc off v s) := by
  unfold cfgWrite
  repeat' with_reducible first
    | exact Keeps.refl _ | intro _ | apply Keeps.foldl | apply Keeps.step (State.setCopy_keeps ..)
    | apply Keeps.step (State.clearCopy_keeps ..) | split

end Sys2Proof.Machine
end

