-- ==== Sys2Proof/Laws/KCsr.lean ====
section
/-! SUPPORT. The operations of Machine/Csr.lean keep what `Keeps` names. -/
namespace Sys2Proof.Machine
open Sys2Proof

theorem glbWrite_keeps (acc : Accessor) (off : Nat) (v : Word) (s : State) : Keeps s (glbWrite acc off v s) := by
  unfold glbWrite
  repeat' with_reducible first
    | exact Keeps.refl _ | intro _ | apply Keeps.foldl | apply Keeps.step (State.setCopy_keeps ..) | split

theorem csrRead_keeps (acc : Accessor) (addr : Nat) (s : State) : Keeps s (csrRead acc addr s).2 := by
  unfold csrRead
  repeat' with_reducible first
    | exact Keeps.refl _ | intro _ | apply Keeps.foldl | apply Keeps.step (fpeRead_keeps ..)
    | apply Keeps.step (aonRead_keeps ..) | apply Keeps.step (tbsRead_keeps ..) | split

theorem csrWrite_keeps (acc : Accessor) (addr : Nat) (v : Word) (s : State) : Keeps s (csrWrite acc addr v s) := by
  unfold csrWrite
  repeat' with_reducible first
    | exact Keeps.refl _ | intro _ | apply Keeps.foldl | apply Keeps.step (glbWrite_keeps ..)
    | apply Keeps.step (hmbWrite_keeps ..) | apply Keeps.step (cfgWrite_keeps ..)
    | apply Keeps.step (scrWrite_keeps ..) | apply Keeps.step (nvcWrite_keeps ..)
    | apply Keeps.step (nocWrite_keeps ..) | apply Keeps.step (rfxWrite_keeps ..)
    | apply Keeps.step (fpeWrite_keeps ..) | apply Keeps.step (uanWrite_keeps ..)
    | apply Keeps.step (xcvWrite_keeps ..) | apply Keeps.step (pciWrite_keeps ..)
    | apply Keeps.step (ethWrite_keeps ..) | apply Keeps.step (pwrWrite_keeps ..)
    | apply Keeps.step (aonWrite_keeps ..) | apply Keeps.step (pmbWrite_keeps ..)
    | apply Keeps.step (bstWrite_keeps ..) | apply Keeps.step (lcsWrite_keeps ..)
    | apply Keeps.step (smnWrite_keeps ..) | apply Keeps.step (clkWrite_keeps ..)
    | apply Keeps.step (tbsWrite_keeps ..) | split

theorem readWords_keeps (f : Nat → State → Word × State) (hf : ∀ a s, Keeps s (f a s).2) :
    ∀ (a n : Nat) (s : State), Keeps s (readWords f a n s).2
  | _, 0, s => .refl s
  | a, n + 1, s => (hf a s).trans (readWords_keeps f hf (a + 4) n _)

theorem writeWords_keeps (f : Nat → Word → State → State) (hf : ∀ a w s, Keeps s (f a w s)) :
    ∀ (a : Nat) (ws : List Word) (s : State), Keeps s (writeWords f a ws s)
  | _, [], s => .refl s
  | a, w :: ws, s => (hf a w s).trans (writeWords_keeps f hf (a + 4) ws _)

theorem wordAccess_keeps (rd : Nat → State → Word × State) (wr : Nat → Word → State → State) (p : Pkt) (s : State) (hrd : ∀ a0 a1, Keeps a1 (rd a0 a1).2) (hwr : ∀ a0 a1 a2, Keeps a2 (wr a0 a1 a2)) : Keeps s (wordAccess rd wr p s) := by
  unfold wordAccess
  repeat' with_reducible first
    | exact Keeps.refl _ | intro _ | apply Keeps.foldl | apply Keeps.step (hrd ..) | apply Keeps.step (hwr ..)
    | apply Keeps.step (reply_keeps ..) | apply Keeps.step (readWords_keeps ..)
    | apply Keeps.step (writeWords_keeps ..) | split

theorem csrEndpoint_keeps (p : Pkt) (s : State) : Keeps s (csrEndpoint p s) := by
  unfold csrEndpoint
  repeat' with_reducible first
    | exact Keeps.refl _ | intro _ | apply Keeps.foldl | apply Keeps.step (deny_keeps ..)
    | apply Keeps.step (wordAccess_keeps ..) | apply Keeps.step (csrRead_keeps ..)
    | apply Keeps.step (csrWrite_keeps ..) | split

theorem csrEndpointAccess_keeps (p : Pkt) (s : State) : Keeps s (csrEndpointAccess p s) := by
  unfold csrEndpointAccess
  refine .ite ?_ (.refl s)
  split
  · next h => exact (takeFlight_keeps h).trans (csrEndpoint_keeps ..)
  · exact .refl s

theorem win0Read_keeps (p : Nat) (addr : Nat) (s : State) : Keeps s (win0Read p addr s).2 := by
  unfold win0Read
  repeat' with_reducible first
    | exact Keeps.refl _ | intro _ | apply Keeps.foldl | apply Keeps.step (csrRead_keeps ..) | split

theorem win0Write_keeps (p : Nat) (addr : Nat) (v : Word) (s : State) : Keeps s (win0Write p addr v s) := by
  unfold win0Write
  repeat' with_reducible first
    | exact Keeps.refl _ | intro _ | apply Keeps.foldl | apply Keeps.step (msixWrite_keeps ..)
    | apply Keeps.step (csrWrite_keeps ..) | split

theorem win0Writes_keeps (p : Nat) : ∀ (a : Nat) (ws : List (Word × Bool)) (s : State), Keeps s (win0Writes p a ws s)
  | _, [], s => .refl s
  | a, (w, full) :: ws, s => by
    have h : Keeps s (if full then win0Write p a w s else s) := .ite (win0Write_keeps p a w s) (.refl s)
    exact h.trans (win0Writes_keeps p (a + 4) ws _)

theorem window0Tlp_keeps (p : Nat) (addr : Nat) (t : TlpOp) (s : State) : Keeps s (window0Tlp p addr t s) := by
  unfold window0Tlp
  repeat' with_reducible first
    | exact Keeps.refl _ | intro _ | apply Keeps.foldl | apply Keeps.step (State.emit_keeps ..)
    | apply Keeps.step (readWords_keeps ..) | apply Keeps.step (win0Read_keeps ..)
    | apply Keeps.step (win0Writes_keeps ..) | split | dsimp only

theorem csrScan_keeps (dr : BitVec 64) (s : State) : Keeps s (csrScan dr s) := by
  unfold csrScan
  repeat' with_reducible first
    | exact Keeps.refl _ | intro _ | apply Keeps.foldl | apply Keeps.step (State.emit_keeps ..)
    | apply Keeps.step (csrWrite_keeps ..) | apply Keeps.step (csrRead_keeps ..) | split | dsimp only
    | apply Keeps.step (Keeps.foldl ..) | apply Keeps.step (Keeps.mk8 ..)

end Sys2Proof.Machine
end

