-- ==== Sys2Proof/Laws/KSleep.lean ====
section
/-! SUPPORT. The operations of Machine/Sleep.lean keep what `Keeps` names. -/
namespace Sys2Proof.Machine
open Sys2Proof

theorem railsOn_keeps (s : State) : Keeps s (railsOn s) := by
  unfold railsOn
  repeat' with_reducible first
    | exact Keeps.refl _ | intro _ | apply Keeps.foldl | apply Keeps.step (pmbWrite1_keeps ..)

theorem railsOff_keeps (s : State) (p : Nat → Bool) : Keeps s (railsOff s p) := by
  unfold railsOff
  repeat' with_reducible first
    | exact Keeps.refl _ | intro _ | apply Keeps.foldl | apply Keeps.step (pmbWrite1_keeps ..)

theorem startWake_keeps (s : State) : Keeps s (startWake s) := by
  unfold startWake
  repeat' with_reducible first
    | exact Keeps.refl _ | intro _ | apply Keeps.foldl | apply Keeps.step (railsOn_keeps ..) | split | dsimp only
    | apply Keeps.step (Keeps.foldl ..) | apply Keeps.step (Keeps.mk8 ..)

theorem crcBank_keeps (s : State) (n : Nat) : Keeps s (crcBank s n) := by
  unfold crcBank
  repeat' with_reducible first
    | exact Keeps.refl _ | intro _ | apply Keeps.foldl | split | dsimp only | apply Keeps.step (Keeps.foldl ..)
    | apply Keeps.step (Keeps.mk8 ..)

theorem sleepSave_keeps (e : Entry) (s : State) : Keeps s (sleepSave e s) := by
  unfold sleepSave
  repeat' with_reducible first
    | exact Keeps.refl _ | intro _ | apply Keeps.foldl | apply Keeps.step (saveBand_keeps ..)
    | apply Keeps.step (crcBank_keeps ..) | apply Keeps.step (endCmd?_keeps ..) | split | dsimp only
    | apply Keeps.step (Keeps.foldl ..) | apply Keeps.step (Keeps.mk8 ..)

theorem sleepOff_keeps (e : Entry) (s : State) : Keeps s (sleepOff e s) := by
  unfold sleepOff
  repeat' with_reducible first
    | exact Keeps.refl _ | intro _ | apply Keeps.foldl | apply Keeps.step (resetPins_keeps ..)
    | apply Keeps.step (resetLogic_keeps ..) | apply Keeps.step (tidy_keeps ..) | apply Keeps.step (railsOff_keeps ..)
    | split | dsimp only | apply Keeps.step (Keeps.foldl ..) | apply Keeps.step (Keeps.mk8 ..)

theorem sleepNow_keeps (e : Entry) (s : State) : Keeps s (sleepNow e s) := by
  unfold sleepNow
  repeat' with_reducible first
    | exact Keeps.refl _ | intro _ | apply Keeps.foldl | apply Keeps.step (sleepOff_keeps ..)
    | apply Keeps.step (sleepSave_keeps ..) | apply Keeps.step (startWake_keeps ..) | split | dsimp only

theorem rtcCount_keeps (s : State) : Keeps s (rtcCount s) := by
  unfold rtcCount
  repeat' with_reducible first
    | exact Keeps.refl _ | intro _ | apply Keeps.foldl | split | dsimp only | apply Keeps.step (Keeps.foldl ..)
    | apply Keeps.step (Keeps.mk8 ..)

theorem rtcTick_keeps (s : State) : Keeps s (rtcTick s) := by
  unfold rtcTick
  repeat' with_reducible first
    | exact Keeps.refl _ | intro _ | apply Keeps.foldl | apply Keeps.step (rtcCount_keeps ..)
    | apply Keeps.step (refuseDev_keeps ..) | apply Keeps.step (sleepNow_keeps ..) | split | dsimp only

theorem wakeBy_keeps (cause : Nat) (num : Nat) (mon : Nat) (s : State) : Keeps s (wakeBy cause num mon s) := by
  unfold wakeBy
  repeat' with_reducible first
    | exact Keeps.refl _ | intro _ | apply Keeps.foldl | apply Keeps.step (startWake_keeps ..) | split | dsimp only
    | apply Keeps.step (Keeps.foldl ..) | apply Keeps.step (Keeps.mk8 ..)

theorem pinEvent_keeps (s : State) (n : Nat) : Keeps s (pinEvent s n) := by
  unfold pinEvent
  repeat' with_reducible first
    | exact Keeps.refl _ | intro _ | apply Keeps.foldl | split | dsimp only | apply Keeps.step (Keeps.foldl ..)
    | apply Keeps.step (Keeps.mk8 ..)

theorem perstEvent_keeps (s : State) (p : Nat) : Keeps s (perstEvent s p) := by
  unfold perstEvent
  repeat' with_reducible first
    | exact Keeps.refl _ | intro _ | apply Keeps.foldl | apply Keeps.step (State.setPci_keeps ..)

theorem wakeEvent_keeps (cause : Nat) (num : Nat) (edgeWindow : Bool) (s : State) : Keeps s (wakeEvent cause num edgeWindow s) := by
  unfold wakeEvent
  repeat' with_reducible first
    | exact Keeps.refl _ | intro _ | apply Keeps.foldl | apply Keeps.step (pinEvent_keeps ..)
    | apply Keeps.step (wakeBy_keeps ..) | apply Keeps.step (perstEvent_keeps ..) | split | dsimp only

theorem resetWake_keeps (s : State) : Keeps s (resetWake s) := by
  unfold resetWake
  repeat' with_reducible first
    | exact Keeps.refl _ | intro _ | apply Keeps.foldl | apply Keeps.step (wakeBy_keeps ..) | split | dsimp only
    | apply Keeps.step (Keeps.foldl ..) | apply Keeps.step (Keeps.mk8 ..)

theorem sentrySample_keeps (bits : BitVec 128) (codes : List (Nat × Nat)) (s : State) : Keeps s (sentrySample bits codes s) := by
  unfold sentrySample
  repeat' with_reducible first
    | exact Keeps.refl _ | intro _ | apply Keeps.foldl | apply Keeps.step (wakeBy_keeps ..) | split | dsimp only
    | apply Keeps.step (Keeps.foldl ..) | apply Keeps.step (Keeps.mk8 ..)

theorem wakeRetry_keeps (rail : Nat) (s : State) : Keeps s (wakeRetry rail s) := by
  unfold wakeRetry
  repeat' with_reducible first
    | exact Keeps.refl _ | intro _ | apply Keeps.foldl | apply Keeps.step (railsOff_keeps ..)
    | apply Keeps.step (railsOn_keeps ..) | split | dsimp only | apply Keeps.step (Keeps.foldl ..)
    | apply Keeps.step (Keeps.mk8 ..)

end Sys2Proof.Machine
end

