-- ==== Sys2Proof/Laws/KBoot.lean ====
section
/-! SUPPORT. The operations of Machine/Boot.lean keep what `Keeps` names. -/
namespace Sys2Proof.Machine
open Sys2Proof

theorem warmReach_keeps (s : State) : Keeps s (warmReach s) := by
  unfold warmReach
  repeat' with_reducible first
    | exact Keeps.refl _ | intro _ | apply Keeps.foldl | apply Keeps.step (resetWake_keeps ..)
    | apply Keeps.step (warmNow_keeps ..) | split | dsimp only | apply Keeps.step (Keeps.foldl ..)
    | apply Keeps.step (Keeps.mk8 ..)

theorem warmReset_keeps (lowNs : Nat) (s : State) : Keeps s (warmReset lowNs s) := by
  unfold warmReset
  repeat' with_reducible first
    | exact Keeps.refl _ | intro _ | apply Keeps.foldl | apply Keeps.step (warmReach_keeps ..)
    | apply Keeps.step (State.takeFree_keeps ..) | split

theorem tapReset_keeps (s : State) : Keeps s (tapReset s) := by
  unfold tapReset
  repeat' with_reducible first
    | exact Keeps.refl _ | intro _ | apply Keeps.foldl | split | dsimp only | apply Keeps.step (Keeps.foldl ..)
    | apply Keeps.step (Keeps.mk8 ..)

theorem checkScratch_keeps (s : State) (n : Nat) : Keeps s (checkScratch s n) := by
  unfold checkScratch
  repeat' with_reducible first
    | exact Keeps.refl _ | intro _ | apply Keeps.foldl | apply Keeps.step (checkBank_keeps ..)
    | apply Keeps.step (State.raiseFor_keeps ..) | split | dsimp only

theorem bootStop_keeps (ph : Phase) (st : Status) (s : State) : Keeps s (bootStop ph st s) := by
  unfold bootStop
  repeat' with_reducible first
    | exact Keeps.refl _ | intro _ | apply Keeps.foldl | apply Keeps.step (State.emit_keeps ..) | split | dsimp only
    | apply Keeps.step (Keeps.foldl ..) | apply Keeps.step (Keeps.mk8 ..)

theorem bootNv_keeps (s : State) : Keeps s (bootNv s) := by
  unfold bootNv
  repeat' with_reducible first
    | exact Keeps.refl _ | intro _ | apply Keeps.foldl | apply Keeps.step (startSlot_keeps ..)
    | apply Keeps.step (bootStop_keeps ..) | split | dsimp only | apply Keeps.step (Keeps.foldl ..)
    | apply Keeps.step (Keeps.mk8 ..)

theorem bootWake_keeps (s : State) : Keeps s (bootWake s) := by
  unfold bootWake
  repeat' with_reducible first
    | exact Keeps.refl _ | intro _ | apply Keeps.foldl | apply Keeps.step (checkScratch_keeps ..)
    | apply Keeps.step (startSlot_keeps ..) | apply Keeps.step (bootNv_keeps ..)
    | apply Keeps.step (wakeLost_keeps ..) | split | dsimp only | apply Keeps.step (Keeps.foldl ..)
    | apply Keeps.step (Keeps.mk8 ..)

theorem bootBase_keeps (cause : Nat) (cfgMode : Nat) (vccio : List Nat) (s : State) : Keeps s (bootBase cause cfgMode vccio s) := by
  unfold bootBase
  repeat' with_reducible first
    | exact Keeps.refl _ | intro _ | apply Keeps.foldl | apply Keeps.step (writeCanary_keeps ..)
    | apply Keeps.step (linkMuzzles_keeps ..) | split | dsimp only | apply Keeps.step (Keeps.foldl ..)
    | apply Keeps.step (Keeps.mk8 ..)

theorem gsrRelease_keeps (s : State) : Keeps s (gsrRelease s) := by
  unfold gsrRelease
  repeat' with_reducible first
    | exact Keeps.refl _ | intro _ | apply Keeps.foldl | apply Keeps.step (restoreBand_keeps ..) | split | dsimp only
    | apply Keeps.step (Keeps.foldl ..) | apply Keeps.step (Keeps.mk8 ..)

theorem reportBanks_keeps (s : State) : Keeps s (reportBanks s) := by
  unfold reportBanks
  repeat' with_reducible first
    | exact Keeps.refl _ | intro _ | apply Keeps.foldl | apply Keeps.step (State.post_keeps ..)

theorem rawPci_keeps (s : State) (p : Nat) : Keeps s (rawPci s p) := by
  unfold rawPci
  repeat' with_reducible first
    | exact Keeps.refl _ | intro _ | apply Keeps.foldl | apply Keeps.step (linkMuzzles_keeps ..)
    | apply Keeps.step (State.setPci_keeps ..) | split

theorem outputsRelease_keeps (s : State) : Keeps s (outputsRelease s) := by
  unfold outputsRelease
  repeat' with_reducible first
    | exact Keeps.refl _ | intro _ | apply Keeps.foldl | apply Keeps.step (startPort_keeps ..)
    | apply Keeps.step (rawPci_keeps ..) | apply Keeps.step (armAll_keeps ..)
    | apply Keeps.step (reportBanks_keeps ..) | split | dsimp only | apply Keeps.step (Keeps.foldl ..)
    | apply Keeps.step (Keeps.mk8 ..)

theorem postTries_keeps (s : State) : Keeps s (postTries s) := by
  unfold postTries
  repeat' with_reducible first
    | exact Keeps.refl _ | intro _ | apply Keeps.foldl | apply Keeps.step (State.post_keeps ..) | split | dsimp only
    | apply Keeps.step (Keeps.foldl ..) | apply Keeps.step (Keeps.mk8 ..)

theorem wakeEnd_keeps (s : State) : Keeps s (wakeEnd s) := by
  unfold wakeEnd
  repeat' with_reducible first
    | exact Keeps.refl _ | intro _ | apply Keeps.foldl | apply Keeps.step (State.raiseAll_keeps ..) | split
    | dsimp only | apply Keeps.step (Keeps.foldl ..) | apply Keeps.step (Keeps.mk8 ..)

theorem doneAssert_keeps (s : State) : Keeps s (doneAssert s) := by
  unfold doneAssert
  repeat' with_reducible first
    | exact Keeps.refl _ | intro _ | apply Keeps.foldl | apply Keeps.step (wakeEnd_keeps ..)
    | apply Keeps.step (postTries_keeps ..) | apply Keeps.step (scrStart_keeps ..)
    | apply Keeps.step (State.emit_keeps ..) | split | dsimp only | apply Keeps.step (Keeps.foldl ..)
    | apply Keeps.step (Keeps.mk8 ..)

theorem fireEvent_keeps (s : State) (i : Nat) : Keeps s (fireEvent s i) := by
  unfold fireEvent
  repeat' with_reducible first
    | exact Keeps.refl _ | intro _ | apply Keeps.foldl | apply Keeps.step (gsrRelease_keeps ..)
    | apply Keeps.step (outputsRelease_keeps ..) | apply Keeps.step (doneAssert_keeps ..) | split | dsimp only
    | apply Keeps.step (Keeps.foldl ..) | apply Keeps.step (Keeps.mk8 ..)

theorem startupEnd_keeps (s : State) : Keeps s (startupEnd s) := by
  unfold startupEnd
  repeat' with_reducible first
    | exact Keeps.refl _ | intro _ | apply Keeps.foldl | split | dsimp only | apply Keeps.step (Keeps.foldl ..)
    | apply Keeps.step (Keeps.mk8 ..)

theorem startupPhase_keeps (s : State) : Keeps s (startupPhase s) := by
  unfold startupPhase
  repeat' with_reducible first
    | exact Keeps.refl _ | intro _ | apply Keeps.foldl | apply Keeps.step (startupEnd_keeps ..)
    | apply Keeps.step (fireEvent_keeps ..) | split | dsimp only | apply Keeps.step (Keeps.foldl ..)
    | apply Keeps.step (Keeps.mk8 ..)

theorem waitEventComplete_keeps (s : State) : Keeps s (waitEventComplete s) := by
  unfold waitEventComplete
  repeat' with_reducible first
    | exact Keeps.refl _ | intro _ | apply Keeps.foldl | apply Keeps.step (startupEnd_keeps ..) | split | dsimp only
    | apply Keeps.step (Keeps.foldl ..) | apply Keeps.step (Keeps.mk8 ..)

end Sys2Proof.Machine
end

