-- ==== Sys2Proof/Laws/KDeliver.lean ====
section
/-! SUPPORT. The operations of Machine/Deliver.lean keep what `Keeps` names. -/
namespace Sys2Proof.Machine
open Sys2Proof

theorem deliverFabric_keeps (p : Pkt) (s : State) : Keeps s (deliverFabric p s) := by
  unfold deliverFabric
  repeat' with_reducible first
    | exact Keeps.refl _ | intro _ | apply Keeps.foldl | apply Keeps.step (refuseDev_keeps ..)
    | apply Keeps.step (State.emitPkt_keeps ..) | apply Keeps.step (wakeBand_keeps ..)
    | apply Keeps.step (park_keeps ..) | apply Keeps.step (parkRefused_keeps ..) | split | dsimp only

theorem deliverGroup_keeps (p : Pkt) (s : State) : Keeps s (deliverGroup p s) := by
  unfold deliverGroup
  repeat' with_reducible first
    | exact Keeps.refl _ | intro _ | apply Keeps.foldl | apply Keeps.step (deny_keeps ..)
    | apply Keeps.step (wordAccess_keeps ..) | apply Keeps.step (groupRead_keeps ..)
    | apply Keeps.step (groupWrite_keeps ..) | split

theorem deliverUan_keeps (p : Pkt) (s : State) : Keeps s (deliverUan p s) := by
  unfold deliverUan
  repeat' with_reducible first
    | exact Keeps.refl _ | intro _ | apply Keeps.foldl | apply Keeps.step (deny_keeps ..)
    | apply Keeps.step (reply_keeps ..) | apply Keeps.step (ringWrite_keeps ..) | split | dsimp only

theorem deliverEth_keeps (p : Pkt) (s : State) : Keeps s (deliverEth p s) := by
  unfold deliverEth
  repeat' with_reducible first
    | exact Keeps.refl _ | intro _ | apply Keeps.foldl | apply Keeps.step (deny_keeps ..)
    | apply Keeps.step (wordAccess_keeps ..) | apply Keeps.step (macPut_keeps ..) | split | dsimp only

theorem hsIndices_keeps (s : State) (x : Nat) (len : Nat) : Keeps s (hsIndices s x len) := by
  unfold hsIndices
  repeat' with_reducible first
    | exact Keeps.refl _ | intro _ | apply Keeps.foldl | apply Keeps.step (hsIndex_keeps ..) | split | dsimp only

theorem deliverMbx_keeps (p : Pkt) (s : State) : Keeps s (deliverMbx p s) := by
  unfold deliverMbx
  repeat' with_reducible first
    | exact Keeps.refl _ | intro _ | apply Keeps.foldl | apply Keeps.step (deny_keeps ..)
    | apply Keeps.step (wordAccess_keeps ..) | apply Keeps.step (mbxPut_keeps ..) | apply Keeps.step (reply_keeps ..)
    | apply Keeps.step (mbxStore_keeps ..) | apply Keeps.step (hsIndices_keeps ..) | split | dsimp only

theorem nvcReply_keeps (s : State) (p : Pkt) (st : Status) : Keeps s (nvcReply s p st) := by
  unfold nvcReply
  repeat' with_reducible first
    | exact Keeps.refl _ | intro _ | apply Keeps.foldl | apply Keeps.step (reply_keeps ..)

theorem deliverNvc_keeps (p : Pkt) (s : State) : Keeps s (deliverNvc p s) := by
  unfold deliverNvc
  repeat' with_reducible first
    | exact Keeps.refl _ | intro _ | apply Keeps.foldl | apply Keeps.step (directRead_keeps ..)
    | apply Keeps.step (reply_keeps ..) | apply Keeps.step (bump_keeps ..) | apply Keeps.step (nvcReply_keeps ..)
    | apply Keeps.step (wordAccess_keeps ..) | apply Keeps.step (nvqWrite_keeps ..) | split | dsimp only

theorem deliver_keeps (p : Pkt) (s : State) : Keeps s (deliver p s) := by
  unfold deliver
  repeat' with_reducible first
    | exact Keeps.refl _ | intro _ | apply Keeps.foldl | apply Keeps.step (absorb_keeps ..)
    | apply Keeps.step (deny_keeps ..) | apply Keeps.step (deliverFabric_keeps ..)
    | apply Keeps.step (deliverGroup_keeps ..) | apply Keeps.step (deliverUan_keeps ..)
    | apply Keeps.step (outbound_keeps ..) | apply Keeps.step (deliverEth_keeps ..)
    | apply Keeps.step (csrEndpoint_keeps ..) | apply Keeps.step (deliverMbx_keeps ..)
    | apply Keeps.step (deliverNvc_keeps ..) | split | dsimp only

theorem arrive_keeps (op : PktOp) (p : Pkt) (s : State) : Keeps s (arrive op p s) := by
  unfold arrive
  refine .ite ?_ (.refl s)
  split
  · next h => exact (takeFlight_keeps h).trans (deliver_keeps ..)
  · exact .refl s

end Sys2Proof.Machine
end

