-- ==== Sys2Proof/Laws/KFabric.lean ====
section
/-! SUPPORT. The operations of Machine/Fabric.lean keep what `Keeps` names. -/
namespace Sys2Proof.Machine
open Sys2Proof

theorem userClockEdge_keeps (e : ClockEdge) (s : State) : Keeps s (userClockEdge e s) := by
  unfold userClockEdge
  repeat' with_reducible first
    | exact Keeps.refl _ | intro _ | apply Keeps.foldl | split | dsimp only | apply Keeps.step (Keeps.foldl ..)
    | apply Keeps.step (Keeps.mk8 ..)

end Sys2Proof.Machine
end

