-- ==== Sys2Proof/Laws/Evolves.lean ====
section
/-! SUPPORT. The operations of the life cycle, which alone write the OTP and the decoded state, obey `Evolves`. -/
namespace Sys2Proof.Machine
open Sys2Proof

theorem getLsbD_or_left {n : Nat} (a b : BitVec n) (i : Nat) (h : a.getLsbD i = true) : (a ||| b).getLsbD i = true := by
  simp [h]

theorem otpPut_evolves (s : State) (e : Nat × Word) : Evolves s (otpPut s e) := by
  unfold otpPut
  dsimp only
  split
  · refine ⟨rfl, rfl, fun h => SMap.wf_set _ _ h, fun h => ⟨fun w i hb => ?_, fun _ x => x, fun _ x => x⟩, id, id⟩
    unfold otpBit at hb ⊢
    by_cases hw : w = e.1
    · subst hw
      dsimp only
      rw [SMap.get_set_self]
      exact getLsbD_or_left _ _ i hb
    · dsimp only
      rw [SMap.get_set_ne _ hw h]
      exact hb
  · split
    · exact ⟨rfl, rfl, id, fun _ => ⟨fun _ _ x => x, fun i x => getLsbD_or_left _ _ i x, fun _ x => x⟩, id, id⟩
    · exact ⟨rfl, rfl, id, fun _ => ⟨fun _ _ x => x, fun _ x => x, fun i x => getLsbD_or_left _ _ i x⟩, id, id⟩

/-- Decoding answers a state of Table 16.2 or 15. -/
theorem lcDecode_ok (m : SMap Word) (k1 k2 : BitVec 256) : lcDecode m k1 k2 ≤ 5 ∨ lcDecode m k1 k2 = 15 := by
  have hc : patternCode (SMap.get dWord m 0) ≤ 5 ∨ patternCode (SMap.get dWord m 0) = 15 := by
    unfold patternCode
    cases h : (List.range 6).find? fun k => lcPattern k == SMap.get dWord m 0 with
    | none => exact .inr rfl
    | some k =>
      left
      have := List.mem_of_find?_eq_some h
      simp only [List.mem_range] at this
      simp only [Option.getD_some]; omega
  have hi : ∀ {n : Nat} {c : Prop} [Decidable c], (n ≤ 5 ∨ n = 15) → ((if c then n else 15) ≤ 5 ∨ (if c then n else 15) = 15) :=
    fun h => by
      split
      · exact h
      · exact .inr rfl
  exact hi hc

theorem lcRead_evolves (s : State) : Evolves s (lcRead s) :=
  ⟨rfl, rfl, id, fun _ => OtpKept.refl s, fun _ => lcDecode_ok .., id⟩

theorem tornRun_evolves (s : State) : Evolves s (tornRun s) := by
  have ht : Evolves s s.takeFree := .upd rfl rfl rfl rfl rfl rfl rfl rfl
  unfold tornRun
  split
  · exact .refl s
  · dsimp only
    split
    · exact ht.trans (Evolves.foldl (fun u e => otpPut_evolves u _) _ _)
    · exact ht.trans (Evolves.foldl otpPut_evolves _ _)

theorem supplyLoss_evolves (s : State) : Evolves s (supplyLoss s) := by
  unfold supplyLoss
  refine .step (tidy_keeps _).evolves ?_
  have h : Evolves s (tearNv (tornRun (resetPins s))) :=
    .step (tearNv_keeps _).evolves (.step (tornRun_evolves _) (resetPins_keeps s).evolves)
  refine h.trans ?_
  generalize tearNv (tornRun (resetPins s)) = t
  exact ⟨rfl, rfl, id, fun _ => OtpKept.of_eq rfl rfl rfl, fun _ => .inl (Nat.zero_le 5), fun m => ⟨rfl, m.2⟩⟩

theorem bootLoad_evolves (cause : Nat) (s : State) : Evolves s (bootLoad cause s) := by
  refine (lcRead_evolves s).trans ?_
  unfold bootLoad
  dsimp only
  generalize lcRead s = t
  refine Keeps.evolves ?_
  repeat' with_reducible first
    | exact Keeps.refl _ | apply Keeps.step (bootStop_keeps ..) | apply Keeps.step (bootWake_keeps ..)
    | apply Keeps.step (bootNv_keeps ..) | split | apply Keeps.step (Keeps.mk8 ..) | rfl

theorem bootStart_evolves (cfgMode : Nat) (romOk : Bool) (vccioMv : List Nat) (s : State) :
    Evolves s (bootStart cfgMode romOk vccioMv s) := by
  unfold bootStart
  repeat' with_reducible first
    | exact Evolves.refl _ | apply Evolves.step (bootLoad_evolves ..) | apply Evolves.step (bootStop_keeps ..).evolves
    | apply Evolves.step (bootBase_keeps ..).evolves | split | dsimp only | apply Evolves.step (Keeps.mk8 ..).evolves

theorem otpRunEnd_evolves (s : State) : Evolves s (otpRunEnd s) := by
  unfold otpRunEnd
  split
  · exact .refl s
  · next r _ =>
    refine .ite (.refl s) ?_
    have h1 : Evolves s ((runWords s r).foldl otpPut s) := Evolves.foldl otpPut_evolves _ _
    generalize (runWords s r).foldl otpPut s = u at h1 ⊢
    repeat' with_reducible first
    | exact h1 | apply Evolves.step (warmNow_keeps ..).evolves | apply Evolves.step (endCmd?_keeps ..).evolves
    | apply Evolves.step (State.raiseAll_keeps ..).evolves | apply Evolves.step (endGrants_keeps ..).evolves
    | apply Evolves.step (stopDesign_keeps ..).evolves | apply Evolves.step (lcRead_evolves ..) | apply Evolves.ite
    | split | dsimp only | apply Evolves.step (Keeps.mk8 ..).evolves

theorem keyLoad_evolves (pkg : List Byte) (s : State) : Evolves s (keyLoad pkg s) := by
  unfold keyLoad
  split
  · exact .refl s
  · exact .step (lcRead_evolves _) (Evolves.foldl otpPut_evolves _ _)

/-- The outputs of the command before are dropped, and the interrupts it calls for are raised. -/
theorem done_keeps {f : State → State} (hf : ∀ s, Keeps s (f s)) {s t : State} (h : done f s = .next t) : Keeps s t := by
  cases h
  refine .step (interrupts_keeps ..) (.step (hf _) ?_)
  exact .upd rfl rfl rfl rfl rfl rfl rfl rfl

theorem done_evolves {f : State → State} (hf : ∀ s, Evolves s (f s)) {s t : State} (h : done f s = .next t) :
    Evolves s t := by
  cases h
  refine .step (interrupts_keeps ..).evolves (.step (hf _) ?_)
  exact .upd rfl rfl rfl rfl rfl rfl rfl rfl

end Sys2Proof.Machine
end

