-- ==== Sys2Proof/Laws/State.lean ====
section
/-! SUPPORT. What each named update of the state leaves alone: one lemma per top-level field, so that no later proof
unfolds a record update. -/
namespace Sys2Proof.Machine
open Sys2Proof

/-! ### setCopy -/

@[simp] theorem State.setCopy_pending (s : State) (acc addr inst : Nat) (v : Word) : (s.setCopy acc addr inst v).pending = s.pending := rfl
@[simp] theorem State.setCopy_uptime (s : State) (acc addr inst : Nat) (v : Word) : (s.setCopy acc addr inst v).uptime = s.uptime := rfl
@[simp] theorem State.setCopy_free (s : State) (acc addr inst : Nat) (v : Word) : (s.setCopy acc addr inst v).free = s.free := rfl
@[simp] theorem State.setCopy_out (s : State) (acc addr inst : Nat) (v : Word) : (s.setCopy acc addr inst v).out = s.out := rfl
@[simp] theorem State.setCopy_ten (s : State) (acc addr inst : Nat) (v : Word) : (s.setCopy acc addr inst v).ten = s.ten := rfl
@[simp] theorem State.setCopy_design (s : State) (acc addr inst : Nat) (v : Word) : (s.setCopy acc addr inst v).design = s.design := rfl
@[simp] theorem State.setCopy_boot (s : State) (acc addr inst : Nat) (v : Word) : (s.setCopy acc addr inst v).boot = s.boot := rfl
@[simp] theorem State.setCopy_cfg (s : State) (acc addr inst : Nat) (v : Word) : (s.setCopy acc addr inst v).cfg = s.cfg := rfl
@[simp] theorem State.setCopy_scr (s : State) (acc addr inst : Nat) (v : Word) : (s.setCopy acc addr inst v).scr = s.scr := rfl
@[simp] theorem State.setCopy_noc (s : State) (acc addr inst : Nat) (v : Word) : (s.setCopy acc addr inst v).noc = s.noc := rfl
@[simp] theorem State.setCopy_pci (s : State) (acc addr inst : Nat) (v : Word) : (s.setCopy acc addr inst v).pci = s.pci := rfl
@[simp] theorem State.setCopy_mac (s : State) (acc addr inst : Nat) (v : Word) : (s.setCopy acc addr inst v).mac = s.mac := rfl
@[simp] theorem State.setCopy_xcv (s : State) (acc addr inst : Nat) (v : Word) : (s.setCopy acc addr inst v).xcv = s.xcv := rfl
@[simp] theorem State.setCopy_port (s : State) (acc addr inst : Nat) (v : Word) : (s.setCopy acc addr inst v).port = s.port := rfl
@[simp] theorem State.setCopy_tbs (s : State) (acc addr inst : Nat) (v : Word) : (s.setCopy acc addr inst v).tbs = s.tbs := rfl
@[simp] theorem State.setCopy_rfx (s : State) (acc addr inst : Nat) (v : Word) : (s.setCopy acc addr inst v).rfx = s.rfx := rfl
@[simp] theorem State.setCopy_uan (s : State) (acc addr inst : Nat) (v : Word) : (s.setCopy acc addr inst v).uan = s.uan := rfl
@[simp] theorem State.setCopy_mc (s : State) (acc addr inst : Nat) (v : Word) : (s.setCopy acc addr inst v).mc = s.mc := rfl
@[simp] theorem State.setCopy_nv (s : State) (acc addr inst : Nat) (v : Word) : (s.setCopy acc addr inst v).nv = s.nv := rfl
@[simp] theorem State.setCopy_pwr (s : State) (acc addr inst : Nat) (v : Word) : (s.setCopy acc addr inst v).pwr = s.pwr := rfl
@[simp] theorem State.setCopy_bst (s : State) (acc addr inst : Nat) (v : Word) : (s.setCopy acc addr inst v).bst = s.bst := rfl
@[simp] theorem State.setCopy_lcs (s : State) (acc addr inst : Nat) (v : Word) : (s.setCopy acc addr inst v).lcs = s.lcs := rfl
@[simp] theorem State.setCopy_clk (s : State) (acc addr inst : Nat) (v : Word) : (s.setCopy acc addr inst v).clk = s.clk := rfl
@[simp] theorem State.setCopy_smn (s : State) (acc addr inst : Nat) (v : Word) : (s.setCopy acc addr inst v).smn = s.smn := rfl
@[simp] theorem State.setCopy_fab (s : State) (acc addr inst : Nat) (v : Word) : (s.setCopy acc addr inst v).fab = s.fab := rfl

/-! ### raiseAll -/

@[simp] theorem State.raiseAll_pending (s : State) (addr inst : Nat) (v : Word) : (s.raiseAll addr inst v).pending = s.pending := rfl
@[simp] theorem State.raiseAll_uptime (s : State) (addr inst : Nat) (v : Word) : (s.raiseAll addr inst v).uptime = s.uptime := rfl
@[simp] theorem State.raiseAll_free (s : State) (addr inst : Nat) (v : Word) : (s.raiseAll addr inst v).free = s.free := rfl
@[simp] theorem State.raiseAll_out (s : State) (addr inst : Nat) (v : Word) : (s.raiseAll addr inst v).out = s.out := rfl
@[simp] theorem State.raiseAll_ten (s : State) (addr inst : Nat) (v : Word) : (s.raiseAll addr inst v).ten = s.ten := rfl
@[simp] theorem State.raiseAll_design (s : State) (addr inst : Nat) (v : Word) : (s.raiseAll addr inst v).design = s.design := rfl
@[simp] theorem State.raiseAll_boot (s : State) (addr inst : Nat) (v : Word) : (s.raiseAll addr inst v).boot = s.boot := rfl
@[simp] theorem State.raiseAll_cfg (s : State) (addr inst : Nat) (v : Word) : (s.raiseAll addr inst v).cfg = s.cfg := rfl
@[simp] theorem State.raiseAll_scr (s : State) (addr inst : Nat) (v : Word) : (s.raiseAll addr inst v).scr = s.scr := rfl
@[simp] theorem State.raiseAll_noc (s : State) (addr inst : Nat) (v : Word) : (s.raiseAll addr inst v).noc = s.noc := rfl
@[simp] theorem State.raiseAll_pci (s : State) (addr inst : Nat) (v : Word) : (s.raiseAll addr inst v).pci = s.pci := rfl
@[simp] theorem State.raiseAll_mac (s : State) (addr inst : Nat) (v : Word) : (s.raiseAll addr inst v).mac = s.mac := rfl
@[simp] theorem State.raiseAll_xcv (s : State) (addr inst : Nat) (v : Word) : (s.raiseAll addr inst v).xcv = s.xcv := rfl
@[simp] theorem State.raiseAll_port (s : State) (addr inst : Nat) (v : Word) : (s.raiseAll addr inst v).port = s.port := rfl
@[simp] theorem State.raiseAll_tbs (s : State) (addr inst : Nat) (v : Word) : (s.raiseAll addr inst v).tbs = s.tbs := rfl
@[simp] theorem State.raiseAll_rfx (s : State) (addr inst : Nat) (v : Word) : (s.raiseAll addr inst v).rfx = s.rfx := rfl
@[simp] theorem State.raiseAll_uan (s : State) (addr inst : Nat) (v : Word) : (s.raiseAll addr inst v).uan = s.uan := rfl
@[simp] theorem State.raiseAll_mc (s : State) (addr inst : Nat) (v : Word) : (s.raiseAll addr inst v).mc = s.mc := rfl
@[simp] theorem State.raiseAll_nv (s : State) (addr inst : Nat) (v : Word) : (s.raiseAll addr inst v).nv = s.nv := rfl
@[simp] theorem State.raiseAll_pwr (s : State) (addr inst : Nat) (v : Word) : (s.raiseAll addr inst v).pwr = s.pwr := rfl
@[simp] theorem State.raiseAll_bst (s : State) (addr inst : Nat) (v : Word) : (s.raiseAll addr inst v).bst = s.bst := rfl
@[simp] theorem State.raiseAll_lcs (s : State) (addr inst : Nat) (v : Word) : (s.raiseAll addr inst v).lcs = s.lcs := rfl
@[simp] theorem State.raiseAll_clk (s : State) (addr inst : Nat) (v : Word) : (s.raiseAll addr inst v).clk = s.clk := rfl
@[simp] theorem State.raiseAll_smn (s : State) (addr inst : Nat) (v : Word) : (s.raiseAll addr inst v).smn = s.smn := rfl
@[simp] theorem State.raiseAll_fab (s : State) (addr inst : Nat) (v : Word) : (s.raiseAll addr inst v).fab = s.fab := rfl

/-! ### raiseFor -/

@[simp] theorem State.raiseFor_pending (s : State) (accs : List Nat) (addr inst : Nat) (v : Word) : (s.raiseFor accs addr inst v).pending = s.pending := rfl
@[simp] theorem State.raiseFor_uptime (s : State) (accs : List Nat) (addr inst : Nat) (v : Word) : (s.raiseFor accs addr inst v).uptime = s.uptime := rfl
@[simp] theorem State.raiseFor_free (s : State) (accs : List Nat) (addr inst : Nat) (v : Word) : (s.raiseFor accs addr inst v).free = s.free := rfl
@[simp] theorem State.raiseFor_out (s : State) (accs : List Nat) (addr inst : Nat) (v : Word) : (s.raiseFor accs addr inst v).out = s.out := rfl
@[simp] theorem State.raiseFor_ten (s : State) (accs : List Nat) (addr inst : Nat) (v : Word) : (s.raiseFor accs addr inst v).ten = s.ten := rfl
@[simp] theorem State.raiseFor_design (s : State) (accs : List Nat) (addr inst : Nat) (v : Word) : (s.raiseFor accs addr inst v).design = s.design := rfl
@[simp] theorem State.raiseFor_boot (s : State) (accs : List Nat) (addr inst : Nat) (v : Word) : (s.raiseFor accs addr inst v).boot = s.boot := rfl
@[simp] theorem State.raiseFor_cfg (s : State) (accs : List Nat) (addr inst : Nat) (v : Word) : (s.raiseFor accs addr inst v).cfg = s.cfg := rfl
@[simp] theorem State.raiseFor_scr (s : State) (accs : List Nat) (addr inst : Nat) (v : Word) : (s.raiseFor accs addr inst v).scr = s.scr := rfl
@[simp] theorem State.raiseFor_noc (s : State) (accs : List Nat) (addr inst : Nat) (v : Word) : (s.raiseFor accs addr inst v).noc = s.noc := rfl
@[simp] theorem State.raiseFor_pci (s : State) (accs : List Nat) (addr inst : Nat) (v : Word) : (s.raiseFor accs addr inst v).pci = s.pci := rfl
@[simp] theorem State.raiseFor_mac (s : State) (accs : List Nat) (addr inst : Nat) (v : Word) : (s.raiseFor accs addr inst v).mac = s.mac := rfl
@[simp] theorem State.raiseFor_xcv (s : State) (accs : List Nat) (addr inst : Nat) (v : Word) : (s.raiseFor accs addr inst v).xcv = s.xcv := rfl
@[simp] theorem State.raiseFor_port (s : State) (accs : List Nat) (addr inst : Nat) (v : Word) : (s.raiseFor accs addr inst v).port = s.port := rfl
@[simp] theorem State.raiseFor_tbs (s : State) (accs : List Nat) (addr inst : Nat) (v : Word) : (s.raiseFor accs addr inst v).tbs = s.tbs := rfl
@[simp] theorem State.raiseFor_rfx (s : State) (accs : List Nat) (addr inst : Nat) (v : Word) : (s.raiseFor accs addr inst v).rfx = s.rfx := rfl
@[simp] theorem State.raiseFor_uan (s : State) (accs : List Nat) (addr inst : Nat) (v : Word) : (s.raiseFor accs addr inst v).uan = s.uan := rfl
@[simp] theorem State.raiseFor_mc (s : State) (accs : List Nat) (addr inst : Nat) (v : Word) : (s.raiseFor accs addr inst v).mc = s.mc := rfl
@[simp] theorem State.raiseFor_nv (s : State) (accs : List Nat) (addr inst : Nat) (v : Word) : (s.raiseFor accs addr inst v).nv = s.nv := rfl
@[simp] theorem State.raiseFor_pwr (s : State) (accs : List Nat) (addr inst : Nat) (v : Word) : (s.raiseFor accs addr inst v).pwr = s.pwr := rfl
@[simp] theorem State.raiseFor_bst (s : State) (accs : List Nat) (addr inst : Nat) (v : Word) : (s.raiseFor accs addr inst v).bst = s.bst := rfl
@[simp] theorem State.raiseFor_lcs (s : State) (accs : List Nat) (addr inst : Nat) (v : Word) : (s.raiseFor accs addr inst v).lcs = s.lcs := rfl
@[simp] theorem State.raiseFor_clk (s : State) (accs : List Nat) (addr inst : Nat) (v : Word) : (s.raiseFor accs addr inst v).clk = s.clk := rfl
@[simp] theorem State.raiseFor_smn (s : State) (accs : List Nat) (addr inst : Nat) (v : Word) : (s.raiseFor accs addr inst v).smn = s.smn := rfl
@[simp] theorem State.raiseFor_fab (s : State) (accs : List Nat) (addr inst : Nat) (v : Word) : (s.raiseFor accs addr inst v).fab = s.fab := rfl

/-! ### clearCopy -/

@[simp] theorem State.clearCopy_pending (s : State) (acc addr inst : Nat) (v : Word) : (s.clearCopy acc addr inst v).pending = s.pending := rfl
@[simp] theorem State.clearCopy_uptime (s : State) (acc addr inst : Nat) (v : Word) : (s.clearCopy acc addr inst v).uptime = s.uptime := rfl
@[simp] theorem State.clearCopy_free (s : State) (acc addr inst : Nat) (v : Word) : (s.clearCopy acc addr inst v).free = s.free := rfl
@[simp] theorem State.clearCopy_out (s : State) (acc addr inst : Nat) (v : Word) : (s.clearCopy acc addr inst v).out = s.out := rfl
@[simp] theorem State.clearCopy_ten (s : State) (acc addr inst : Nat) (v : Word) : (s.clearCopy acc addr inst v).ten = s.ten := rfl
@[simp] theorem State.clearCopy_design (s : State) (acc addr inst : Nat) (v : Word) : (s.clearCopy acc addr inst v).design = s.design := rfl
@[simp] theorem State.clearCopy_boot (s : State) (acc addr inst : Nat) (v : Word) : (s.clearCopy acc addr inst v).boot = s.boot := rfl
@[simp] theorem State.clearCopy_cfg (s : State) (acc addr inst : Nat) (v : Word) : (s.clearCopy acc addr inst v).cfg = s.cfg := rfl
@[simp] theorem State.clearCopy_scr (s : State) (acc addr inst : Nat) (v : Word) : (s.clearCopy acc addr inst v).scr = s.scr := rfl
@[simp] theorem State.clearCopy_noc (s : State) (acc addr inst : Nat) (v : Word) : (s.clearCopy acc addr inst v).noc = s.noc := rfl
@[simp] theorem State.clearCopy_pci (s : State) (acc addr inst : Nat) (v : Word) : (s.clearCopy acc addr inst v).pci = s.pci := rfl
@[simp] theorem State.clearCopy_mac (s : State) (acc addr inst : Nat) (v : Word) : (s.clearCopy acc addr inst v).mac = s.mac := rfl
@[simp] theorem State.clearCopy_xcv (s : State) (acc addr inst : Nat) (v : Word) : (s.clearCopy acc addr inst v).xcv = s.xcv := rfl
@[simp] theorem State.clearCopy_port (s : State) (acc addr inst : Nat) (v : Word) : (s.clearCopy acc addr inst v).port = s.port := rfl
@[simp] theorem State.clearCopy_tbs (s : State) (acc addr inst : Nat) (v : Word) : (s.clearCopy acc addr inst v).tbs = s.tbs := rfl
@[simp] theorem State.clearCopy_rfx (s : State) (acc addr inst : Nat) (v : Word) : (s.clearCopy acc addr inst v).rfx = s.rfx := rfl
@[simp] theorem State.clearCopy_uan (s : State) (acc addr inst : Nat) (v : Word) : (s.clearCopy acc addr inst v).uan = s.uan := rfl
@[simp] theorem State.clearCopy_mc (s : State) (acc addr inst : Nat) (v : Word) : (s.clearCopy acc addr inst v).mc = s.mc := rfl
@[simp] theorem State.clearCopy_nv (s : State) (acc addr inst : Nat) (v : Word) : (s.clearCopy acc addr inst v).nv = s.nv := rfl
@[simp] theorem State.clearCopy_pwr (s : State) (acc addr inst : Nat) (v : Word) : (s.clearCopy acc addr inst v).pwr = s.pwr := rfl
@[simp] theorem State.clearCopy_bst (s : State) (acc addr inst : Nat) (v : Word) : (s.clearCopy acc addr inst v).bst = s.bst := rfl
@[simp] theorem State.clearCopy_lcs (s : State) (acc addr inst : Nat) (v : Word) : (s.clearCopy acc addr inst v).lcs = s.lcs := rfl
@[simp] theorem State.clearCopy_clk (s : State) (acc addr inst : Nat) (v : Word) : (s.clearCopy acc addr inst v).clk = s.clk := rfl
@[simp] theorem State.clearCopy_smn (s : State) (acc addr inst : Nat) (v : Word) : (s.clearCopy acc addr inst v).smn = s.smn := rfl
@[simp] theorem State.clearCopy_fab (s : State) (acc addr inst : Nat) (v : Word) : (s.clearCopy acc addr inst v).fab = s.fab := rfl

/-! ### setPort -/

@[simp] theorem State.setPort_pending (s : State) (n : Nat) (p : Port) : (s.setPort n p).pending = s.pending := rfl
@[simp] theorem State.setPort_uptime (s : State) (n : Nat) (p : Port) : (s.setPort n p).uptime = s.uptime := rfl
@[simp] theorem State.setPort_free (s : State) (n : Nat) (p : Port) : (s.setPort n p).free = s.free := rfl
@[simp] theorem State.setPort_out (s : State) (n : Nat) (p : Port) : (s.setPort n p).out = s.out := rfl
@[simp] theorem State.setPort_ten (s : State) (n : Nat) (p : Port) : (s.setPort n p).ten = s.ten := rfl
@[simp] theorem State.setPort_copies (s : State) (n : Nat) (p : Port) : (s.setPort n p).copies = s.copies := rfl
@[simp] theorem State.setPort_design (s : State) (n : Nat) (p : Port) : (s.setPort n p).design = s.design := rfl
@[simp] theorem State.setPort_boot (s : State) (n : Nat) (p : Port) : (s.setPort n p).boot = s.boot := rfl
@[simp] theorem State.setPort_cfg (s : State) (n : Nat) (p : Port) : (s.setPort n p).cfg = s.cfg := rfl
@[simp] theorem State.setPort_scr (s : State) (n : Nat) (p : Port) : (s.setPort n p).scr = s.scr := rfl
@[simp] theorem State.setPort_noc (s : State) (n : Nat) (p : Port) : (s.setPort n p).noc = s.noc := rfl
@[simp] theorem State.setPort_pci (s : State) (n : Nat) (p : Port) : (s.setPort n p).pci = s.pci := rfl
@[simp] theorem State.setPort_mac (s : State) (n : Nat) (p : Port) : (s.setPort n p).mac = s.mac := rfl
@[simp] theorem State.setPort_xcv (s : State) (n : Nat) (p : Port) : (s.setPort n p).xcv = s.xcv := rfl
@[simp] theorem State.setPort_tbs (s : State) (n : Nat) (p : Port) : (s.setPort n p).tbs = s.tbs := rfl
@[simp] theorem State.setPort_rfx (s : State) (n : Nat) (p : Port) : (s.setPort n p).rfx = s.rfx := rfl
@[simp] theorem State.setPort_uan (s : State) (n : Nat) (p : Port) : (s.setPort n p).uan = s.uan := rfl
@[simp] theorem State.setPort_mc (s : State) (n : Nat) (p : Port) : (s.setPort n p).mc = s.mc := rfl
@[simp] theorem State.setPort_nv (s : State) (n : Nat) (p : Port) : (s.setPort n p).nv = s.nv := rfl
@[simp] theorem State.setPort_pwr (s : State) (n : Nat) (p : Port) : (s.setPort n p).pwr = s.pwr := rfl
@[simp] theorem State.setPort_bst (s : State) (n : Nat) (p : Port) : (s.setPort n p).bst = s.bst := rfl
@[simp] theorem State.setPort_lcs (s : State) (n : Nat) (p : Port) : (s.setPort n p).lcs = s.lcs := rfl
@[simp] theorem State.setPort_clk (s : State) (n : Nat) (p : Port) : (s.setPort n p).clk = s.clk := rfl
@[simp] theorem State.setPort_smn (s : State) (n : Nat) (p : Port) : (s.setPort n p).smn = s.smn := rfl
@[simp] theorem State.setPort_fab (s : State) (n : Nat) (p : Port) : (s.setPort n p).fab = s.fab := rfl

/-! ### setMac -/

@[simp] theorem State.setMac_pending (s : State) (n : Nat) (m : Mac) : (s.setMac n m).pending = s.pending := rfl
@[simp] theorem State.setMac_uptime (s : State) (n : Nat) (m : Mac) : (s.setMac n m).uptime = s.uptime := rfl
@[simp] theorem State.setMac_free (s : State) (n : Nat) (m : Mac) : (s.setMac n m).free = s.free := rfl
@[simp] theorem State.setMac_out (s : State) (n : Nat) (m : Mac) : (s.setMac n m).out = s.out := rfl
@[simp] theorem State.setMac_ten (s : State) (n : Nat) (m : Mac) : (s.setMac n m).ten = s.ten := rfl
@[simp] theorem State.setMac_copies (s : State) (n : Nat) (m : Mac) : (s.setMac n m).copies = s.copies := rfl
@[simp] theorem State.setMac_design (s : State) (n : Nat) (m : Mac) : (s.setMac n m).design = s.design := rfl
@[simp] theorem State.setMac_boot (s : State) (n : Nat) (m : Mac) : (s.setMac n m).boot = s.boot := rfl
@[simp] theorem State.setMac_cfg (s : State) (n : Nat) (m : Mac) : (s.setMac n m).cfg = s.cfg := rfl
@[simp] theorem State.setMac_scr (s : State) (n : Nat) (m : Mac) : (s.setMac n m).scr = s.scr := rfl
@[simp] theorem State.setMac_noc (s : State) (n : Nat) (m : Mac) : (s.setMac n m).noc = s.noc := rfl
@[simp] theorem State.setMac_pci (s : State) (n : Nat) (m : Mac) : (s.setMac n m).pci = s.pci := rfl
@[simp] theorem State.setMac_xcv (s : State) (n : Nat) (m : Mac) : (s.setMac n m).xcv = s.xcv := rfl
@[simp] theorem State.setMac_port (s : State) (n : Nat) (m : Mac) : (s.setMac n m).port = s.port := rfl
@[simp] theorem State.setMac_tbs (s : State) (n : Nat) (m : Mac) : (s.setMac n m).tbs = s.tbs := rfl
@[simp] theorem State.setMac_rfx (s : State) (n : Nat) (m : Mac) : (s.setMac n m).rfx = s.rfx := rfl
@[simp] theorem State.setMac_uan (s : State) (n : Nat) (m : Mac) : (s.setMac n m).uan = s.uan := rfl
@[simp] theorem State.setMac_mc (s : State) (n : Nat) (m : Mac) : (s.setMac n m).mc = s.mc := rfl
@[simp] theorem State.setMac_nv (s : State) (n : Nat) (m : Mac) : (s.setMac n m).nv = s.nv := rfl
@[simp] theorem State.setMac_pwr (s : State) (n : Nat) (m : Mac) : (s.setMac n m).pwr = s.pwr := rfl
@[simp] theorem State.setMac_bst (s : State) (n : Nat) (m : Mac) : (s.setMac n m).bst = s.bst := rfl
@[simp] theorem State.setMac_lcs (s : State) (n : Nat) (m : Mac) : (s.setMac n m).lcs = s.lcs := rfl
@[simp] theorem State.setMac_clk (s : State) (n : Nat) (m : Mac) : (s.setMac n m).clk = s.clk := rfl
@[simp] theorem State.setMac_smn (s : State) (n : Nat) (m : Mac) : (s.setMac n m).smn = s.smn := rfl
@[simp] theorem State.setMac_fab (s : State) (n : Nat) (m : Mac) : (s.setMac n m).fab = s.fab := rfl

/-! ### setPci -/

@[simp] theorem State.setPci_pending (s : State) (n : Nat) (p : Pci) : (s.setPci n p).pending = s.pending := rfl
@[simp] theorem State.setPci_uptime (s : State) (n : Nat) (p : Pci) : (s.setPci n p).uptime = s.uptime := rfl
@[simp] theorem State.setPci_free (s : State) (n : Nat) (p : Pci) : (s.setPci n p).free = s.free := rfl
@[simp] theorem State.setPci_out (s : State) (n : Nat) (p : Pci) : (s.setPci n p).out = s.out := rfl
@[simp] theorem State.setPci_ten (s : State) (n : Nat) (p : Pci) : (s.setPci n p).ten = s.ten := rfl
@[simp] theorem State.setPci_copies (s : State) (n : Nat) (p : Pci) : (s.setPci n p).copies = s.copies := rfl
@[simp] theorem State.setPci_design (s : State) (n : Nat) (p : Pci) : (s.setPci n p).design = s.design := rfl
@[simp] theorem State.setPci_boot (s : State) (n : Nat) (p : Pci) : (s.setPci n p).boot = s.boot := rfl
@[simp] theorem State.setPci_cfg (s : State) (n : Nat) (p : Pci) : (s.setPci n p).cfg = s.cfg := rfl
@[simp] theorem State.setPci_scr (s : State) (n : Nat) (p : Pci) : (s.setPci n p).scr = s.scr := rfl
@[simp] theorem State.setPci_noc (s : State) (n : Nat) (p : Pci) : (s.setPci n p).noc = s.noc := rfl
@[simp] theorem State.setPci_mac (s : State) (n : Nat) (p : Pci) : (s.setPci n p).mac = s.mac := rfl
@[simp] theorem State.setPci_xcv (s : State) (n : Nat) (p : Pci) : (s.setPci n p).xcv = s.xcv := rfl
@[simp] theorem State.setPci_port (s : State) (n : Nat) (p : Pci) : (s.setPci n p).port = s.port := rfl
@[simp] theorem State.setPci_tbs (s : State) (n : Nat) (p : Pci) : (s.setPci n p).tbs = s.tbs := rfl
@[simp] theorem State.setPci_rfx (s : State) (n : Nat) (p : Pci) : (s.setPci n p).rfx = s.rfx := rfl
@[simp] theorem State.setPci_uan (s : State) (n : Nat) (p : Pci) : (s.setPci n p).uan = s.uan := rfl
@[simp] theorem State.setPci_mc (s : State) (n : Nat) (p : Pci) : (s.setPci n p).mc = s.mc := rfl
@[simp] theorem State.setPci_nv (s : State) (n : Nat) (p : Pci) : (s.setPci n p).nv = s.nv := rfl
@[simp] theorem State.setPci_pwr (s : State) (n : Nat) (p : Pci) : (s.setPci n p).pwr = s.pwr := rfl
@[simp] theorem State.setPci_bst (s : State) (n : Nat) (p : Pci) : (s.setPci n p).bst = s.bst := rfl
@[simp] theorem State.setPci_lcs (s : State) (n : Nat) (p : Pci) : (s.setPci n p).lcs = s.lcs := rfl
@[simp] theorem State.setPci_clk (s : State) (n : Nat) (p : Pci) : (s.setPci n p).clk = s.clk := rfl
@[simp] theorem State.setPci_smn (s : State) (n : Nat) (p : Pci) : (s.setPci n p).smn = s.smn := rfl
@[simp] theorem State.setPci_fab (s : State) (n : Nat) (p : Pci) : (s.setPci n p).fab = s.fab := rfl

/-! ### setMbx -/

@[simp] theorem State.setMbx_pending (s : State) (d : Nat) (m : Mbx) : (s.setMbx d m).pending = s.pending := rfl
@[simp] theorem State.setMbx_uptime (s : State) (d : Nat) (m : Mbx) : (s.setMbx d m).uptime = s.uptime := rfl
@[simp] theorem State.setMbx_free (s : State) (d : Nat) (m : Mbx) : (s.setMbx d m).free = s.free := rfl
@[simp] theorem State.setMbx_out (s : State) (d : Nat) (m : Mbx) : (s.setMbx d m).out = s.out := rfl
@[simp] theorem State.setMbx_ten (s : State) (d : Nat) (m : Mbx) : (s.setMbx d m).ten = s.ten := rfl
@[simp] theorem State.setMbx_copies (s : State) (d : Nat) (m : Mbx) : (s.setMbx d m).copies = s.copies := rfl
@[simp] theorem State.setMbx_design (s : State) (d : Nat) (m : Mbx) : (s.setMbx d m).design = s.design := rfl
@[simp] theorem State.setMbx_boot (s : State) (d : Nat) (m : Mbx) : (s.setMbx d m).boot = s.boot := rfl
@[simp] theorem State.setMbx_cfg (s : State) (d : Nat) (m : Mbx) : (s.setMbx d m).cfg = s.cfg := rfl
@[simp] theorem State.setMbx_scr (s : State) (d : Nat) (m : Mbx) : (s.setMbx d m).scr = s.scr := rfl
@[simp] theorem State.setMbx_noc (s : State) (d : Nat) (m : Mbx) : (s.setMbx d m).noc = s.noc := rfl
@[simp] theorem State.setMbx_pci (s : State) (d : Nat) (m : Mbx) : (s.setMbx d m).pci = s.pci := rfl
@[simp] theorem State.setMbx_mac (s : State) (d : Nat) (m : Mbx) : (s.setMbx d m).mac = s.mac := rfl
@[simp] theorem State.setMbx_xcv (s : State) (d : Nat) (m : Mbx) : (s.setMbx d m).xcv = s.xcv := rfl
@[simp] theorem State.setMbx_port (s : State) (d : Nat) (m : Mbx) : (s.setMbx d m).port = s.port := rfl
@[simp] theorem State.setMbx_tbs (s : State) (d : Nat) (m : Mbx) : (s.setMbx d m).tbs = s.tbs := rfl
@[simp] theorem State.setMbx_rfx (s : State) (d : Nat) (m : Mbx) : (s.setMbx d m).rfx = s.rfx := rfl
@[simp] theorem State.setMbx_uan (s : State) (d : Nat) (m : Mbx) : (s.setMbx d m).uan = s.uan := rfl
@[simp] theorem State.setMbx_nv (s : State) (d : Nat) (m : Mbx) : (s.setMbx d m).nv = s.nv := rfl
@[simp] theorem State.setMbx_pwr (s : State) (d : Nat) (m : Mbx) : (s.setMbx d m).pwr = s.pwr := rfl
@[simp] theorem State.setMbx_bst (s : State) (d : Nat) (m : Mbx) : (s.setMbx d m).bst = s.bst := rfl
@[simp] theorem State.setMbx_lcs (s : State) (d : Nat) (m : Mbx) : (s.setMbx d m).lcs = s.lcs := rfl
@[simp] theorem State.setMbx_clk (s : State) (d : Nat) (m : Mbx) : (s.setMbx d m).clk = s.clk := rfl
@[simp] theorem State.setMbx_smn (s : State) (d : Nat) (m : Mbx) : (s.setMbx d m).smn = s.smn := rfl
@[simp] theorem State.setMbx_fab (s : State) (d : Nat) (m : Mbx) : (s.setMbx d m).fab = s.fab := rfl

/-! ### setLoad -/

@[simp] theorem State.setLoad_pending (s : State) (n : Nat) (l : Load) : (s.setLoad n l).pending = s.pending := rfl
@[simp] theorem State.setLoad_uptime (s : State) (n : Nat) (l : Load) : (s.setLoad n l).uptime = s.uptime := rfl
@[simp] theorem State.setLoad_free (s : State) (n : Nat) (l : Load) : (s.setLoad n l).free = s.free := rfl
@[simp] theorem State.setLoad_out (s : State) (n : Nat) (l : Load) : (s.setLoad n l).out = s.out := rfl
@[simp] theorem State.setLoad_ten (s : State) (n : Nat) (l : Load) : (s.setLoad n l).ten = s.ten := rfl
@[simp] theorem State.setLoad_copies (s : State) (n : Nat) (l : Load) : (s.setLoad n l).copies = s.copies := rfl
@[simp] theorem State.setLoad_design (s : State) (n : Nat) (l : Load) : (s.setLoad n l).design = s.design := rfl
@[simp] theorem State.setLoad_boot (s : State) (n : Nat) (l : Load) : (s.setLoad n l).boot = s.boot := rfl
@[simp] theorem State.setLoad_scr (s : State) (n : Nat) (l : Load) : (s.setLoad n l).scr = s.scr := rfl
@[simp] theorem State.setLoad_noc (s : State) (n : Nat) (l : Load) : (s.setLoad n l).noc = s.noc := rfl
@[simp] theorem State.setLoad_pci (s : State) (n : Nat) (l : Load) : (s.setLoad n l).pci = s.pci := rfl
@[simp] theorem State.setLoad_mac (s : State) (n : Nat) (l : Load) : (s.setLoad n l).mac = s.mac := rfl
@[simp] theorem State.setLoad_xcv (s : State) (n : Nat) (l : Load) : (s.setLoad n l).xcv = s.xcv := rfl
@[simp] theorem State.setLoad_port (s : State) (n : Nat) (l : Load) : (s.setLoad n l).port = s.port := rfl
@[simp] theorem State.setLoad_tbs (s : State) (n : Nat) (l : Load) : (s.setLoad n l).tbs = s.tbs := rfl
@[simp] theorem State.setLoad_rfx (s : State) (n : Nat) (l : Load) : (s.setLoad n l).rfx = s.rfx := rfl
@[simp] theorem State.setLoad_uan (s : State) (n : Nat) (l : Load) : (s.setLoad n l).uan = s.uan := rfl
@[simp] theorem State.setLoad_mc (s : State) (n : Nat) (l : Load) : (s.setLoad n l).mc = s.mc := rfl
@[simp] theorem State.setLoad_nv (s : State) (n : Nat) (l : Load) : (s.setLoad n l).nv = s.nv := rfl
@[simp] theorem State.setLoad_pwr (s : State) (n : Nat) (l : Load) : (s.setLoad n l).pwr = s.pwr := rfl
@[simp] theorem State.setLoad_bst (s : State) (n : Nat) (l : Load) : (s.setLoad n l).bst = s.bst := rfl
@[simp] theorem State.setLoad_lcs (s : State) (n : Nat) (l : Load) : (s.setLoad n l).lcs = s.lcs := rfl
@[simp] theorem State.setLoad_clk (s : State) (n : Nat) (l : Load) : (s.setLoad n l).clk = s.clk := rfl
@[simp] theorem State.setLoad_smn (s : State) (n : Nat) (l : Load) : (s.setLoad n l).smn = s.smn := rfl
@[simp] theorem State.setLoad_fab (s : State) (n : Nat) (l : Load) : (s.setLoad n l).fab = s.fab := rfl

/-! ### setFrame -/

@[simp] theorem State.setFrame_pending (s : State) (k : Nat) (f : Frame) : (s.setFrame k f).pending = s.pending := rfl
@[simp] theorem State.setFrame_uptime (s : State) (k : Nat) (f : Frame) : (s.setFrame k f).uptime = s.uptime := rfl
@[simp] theorem State.setFrame_free (s : State) (k : Nat) (f : Frame) : (s.setFrame k f).free = s.free := rfl
@[simp] theorem State.setFrame_out (s : State) (k : Nat) (f : Frame) : (s.setFrame k f).out = s.out := rfl
@[simp] theorem State.setFrame_ten (s : State) (k : Nat) (f : Frame) : (s.setFrame k f).ten = s.ten := rfl
@[simp] theorem State.setFrame_copies (s : State) (k : Nat) (f : Frame) : (s.setFrame k f).copies = s.copies := rfl
@[simp] theorem State.setFrame_design (s : State) (k : Nat) (f : Frame) : (s.setFrame k f).design = s.design := rfl
@[simp] theorem State.setFrame_boot (s : State) (k : Nat) (f : Frame) : (s.setFrame k f).boot = s.boot := rfl
@[simp] theorem State.setFrame_scr (s : State) (k : Nat) (f : Frame) : (s.setFrame k f).scr = s.scr := rfl
@[simp] theorem State.setFrame_noc (s : State) (k : Nat) (f : Frame) : (s.setFrame k f).noc = s.noc := rfl
@[simp] theorem State.setFrame_pci (s : State) (k : Nat) (f : Frame) : (s.setFrame k f).pci = s.pci := rfl
@[simp] theorem State.setFrame_mac (s : State) (k : Nat) (f : Frame) : (s.setFrame k f).mac = s.mac := rfl
@[simp] theorem State.setFrame_xcv (s : State) (k : Nat) (f : Frame) : (s.setFrame k f).xcv = s.xcv := rfl
@[simp] theorem State.setFrame_port (s : State) (k : Nat) (f : Frame) : (s.setFrame k f).port = s.port := rfl
@[simp] theorem State.setFrame_tbs (s : State) (k : Nat) (f : Frame) : (s.setFrame k f).tbs = s.tbs := rfl
@[simp] theorem State.setFrame_rfx (s : State) (k : Nat) (f : Frame) : (s.setFrame k f).rfx = s.rfx := rfl
@[simp] theorem State.setFrame_uan (s : State) (k : Nat) (f : Frame) : (s.setFrame k f).uan = s.uan := rfl
@[simp] theorem State.setFrame_mc (s : State) (k : Nat) (f : Frame) : (s.setFrame k f).mc = s.mc := rfl
@[simp] theorem State.setFrame_nv (s : State) (k : Nat) (f : Frame) : (s.setFrame k f).nv = s.nv := rfl
@[simp] theorem State.setFrame_pwr (s : State) (k : Nat) (f : Frame) : (s.setFrame k f).pwr = s.pwr := rfl
@[simp] theorem State.setFrame_bst (s : State) (k : Nat) (f : Frame) : (s.setFrame k f).bst = s.bst := rfl
@[simp] theorem State.setFrame_lcs (s : State) (k : Nat) (f : Frame) : (s.setFrame k f).lcs = s.lcs := rfl
@[simp] theorem State.setFrame_clk (s : State) (k : Nat) (f : Frame) : (s.setFrame k f).clk = s.clk := rfl
@[simp] theorem State.setFrame_smn (s : State) (k : Nat) (f : Frame) : (s.setFrame k f).smn = s.smn := rfl
@[simp] theorem State.setFrame_fab (s : State) (k : Nat) (f : Frame) : (s.setFrame k f).fab = s.fab := rfl

/-! ### setRegion -/

@[simp] theorem State.setRegion_pending (s : State) (r : Nat) (g : Region) : (s.setRegion r g).pending = s.pending := rfl
@[simp] theorem State.setRegion_uptime (s : State) (r : Nat) (g : Region) : (s.setRegion r g).uptime = s.uptime := rfl
@[simp] theorem State.setRegion_free (s : State) (r : Nat) (g : Region) : (s.setRegion r g).free = s.free := rfl
@[simp] theorem State.setRegion_out (s : State) (r : Nat) (g : Region) : (s.setRegion r g).out = s.out := rfl
@[simp] theorem State.setRegion_ten (s : State) (r : Nat) (g : Region) : (s.setRegion r g).ten = s.ten := rfl
@[simp] theorem State.setRegion_copies (s : State) (r : Nat) (g : Region) : (s.setRegion r g).copies = s.copies := rfl
@[simp] theorem State.setRegion_design (s : State) (r : Nat) (g : Region) : (s.setRegion r g).design = s.design := rfl
@[simp] theorem State.setRegion_boot (s : State) (r : Nat) (g : Region) : (s.setRegion r g).boot = s.boot := rfl
@[simp] theorem State.setRegion_scr (s : State) (r : Nat) (g : Region) : (s.setRegion r g).scr = s.scr := rfl
@[simp] theorem State.setRegion_noc (s : State) (r : Nat) (g : Region) : (s.setRegion r g).noc = s.noc := rfl
@[simp] theorem State.setRegion_pci (s : State) (r : Nat) (g : Region) : (s.setRegion r g).pci = s.pci := rfl
@[simp] theorem State.setRegion_mac (s : State) (r : Nat) (g : Region) : (s.setRegion r g).mac = s.mac := rfl
@[simp] theorem State.setRegion_xcv (s : State) (r : Nat) (g : Region) : (s.setRegion r g).xcv = s.xcv := rfl
@[simp] theorem State.setRegion_port (s : State) (r : Nat) (g : Region) : (s.setRegion r g).port = s.port := rfl
@[simp] theorem State.setRegion_tbs (s : State) (r : Nat) (g : Region) : (s.setRegion r g).tbs = s.tbs := rfl
@[simp] theorem State.setRegion_rfx (s : State) (r : Nat) (g : Region) : (s.setRegion r g).rfx = s.rfx := rfl
@[simp] theorem State.setRegion_uan (s : State) (r : Nat) (g : Region) : (s.setRegion r g).uan = s.uan := rfl
@[simp] theorem State.setRegion_mc (s : State) (r : Nat) (g : Region) : (s.setRegion r g).mc = s.mc := rfl
@[simp] theorem State.setRegion_nv (s : State) (r : Nat) (g : Region) : (s.setRegion r g).nv = s.nv := rfl
@[simp] theorem State.setRegion_pwr (s : State) (r : Nat) (g : Region) : (s.setRegion r g).pwr = s.pwr := rfl
@[simp] theorem State.setRegion_bst (s : State) (r : Nat) (g : Region) : (s.setRegion r g).bst = s.bst := rfl
@[simp] theorem State.setRegion_lcs (s : State) (r : Nat) (g : Region) : (s.setRegion r g).lcs = s.lcs := rfl
@[simp] theorem State.setRegion_clk (s : State) (r : Nat) (g : Region) : (s.setRegion r g).clk = s.clk := rfl
@[simp] theorem State.setRegion_smn (s : State) (r : Nat) (g : Region) : (s.setRegion r g).smn = s.smn := rfl
@[simp] theorem State.setRegion_fab (s : State) (r : Nat) (g : Region) : (s.setRegion r g).fab = s.fab := rfl

/-! ### setTarget -/

@[simp] theorem State.setTarget_pending (s : State) (t : Nat) (g : Target) : (s.setTarget t g).pending = s.pending := rfl
@[simp] theorem State.setTarget_uptime (s : State) (t : Nat) (g : Target) : (s.setTarget t g).uptime = s.uptime := rfl
@[simp] theorem State.setTarget_free (s : State) (t : Nat) (g : Target) : (s.setTarget t g).free = s.free := rfl
@[simp] theorem State.setTarget_out (s : State) (t : Nat) (g : Target) : (s.setTarget t g).out = s.out := rfl
@[simp] theorem State.setTarget_ten (s : State) (t : Nat) (g : Target) : (s.setTarget t g).ten = s.ten := rfl
@[simp] theorem State.setTarget_copies (s : State) (t : Nat) (g : Target) : (s.setTarget t g).copies = s.copies := rfl
@[simp] theorem State.setTarget_design (s : State) (t : Nat) (g : Target) : (s.setTarget t g).design = s.design := rfl
@[simp] theorem State.setTarget_boot (s : State) (t : Nat) (g : Target) : (s.setTarget t g).boot = s.boot := rfl
@[simp] theorem State.setTarget_scr (s : State) (t : Nat) (g : Target) : (s.setTarget t g).scr = s.scr := rfl
@[simp] theorem State.setTarget_noc (s : State) (t : Nat) (g : Target) : (s.setTarget t g).noc = s.noc := rfl
@[simp] theorem State.setTarget_pci (s : State) (t : Nat) (g : Target) : (s.setTarget t g).pci = s.pci := rfl
@[simp] theorem State.setTarget_mac (s : State) (t : Nat) (g : Target) : (s.setTarget t g).mac = s.mac := rfl
@[simp] theorem State.setTarget_xcv (s : State) (t : Nat) (g : Target) : (s.setTarget t g).xcv = s.xcv := rfl
@[simp] theorem State.setTarget_port (s : State) (t : Nat) (g : Target) : (s.setTarget t g).port = s.port := rfl
@[simp] theorem State.setTarget_tbs (s : State) (t : Nat) (g : Target) : (s.setTarget t g).tbs = s.tbs := rfl
@[simp] theorem State.setTarget_rfx (s : State) (t : Nat) (g : Target) : (s.setTarget t g).rfx = s.rfx := rfl
@[simp] theorem State.setTarget_uan (s : State) (t : Nat) (g : Target) : (s.setTarget t g).uan = s.uan := rfl
@[simp] theorem State.setTarget_mc (s : State) (t : Nat) (g : Target) : (s.setTarget t g).mc = s.mc := rfl
@[simp] theorem State.setTarget_nv (s : State) (t : Nat) (g : Target) : (s.setTarget t g).nv = s.nv := rfl
@[simp] theorem State.setTarget_pwr (s : State) (t : Nat) (g : Target) : (s.setTarget t g).pwr = s.pwr := rfl
@[simp] theorem State.setTarget_bst (s : State) (t : Nat) (g : Target) : (s.setTarget t g).bst = s.bst := rfl
@[simp] theorem State.setTarget_lcs (s : State) (t : Nat) (g : Target) : (s.setTarget t g).lcs = s.lcs := rfl
@[simp] theorem State.setTarget_clk (s : State) (t : Nat) (g : Target) : (s.setTarget t g).clk = s.clk := rfl
@[simp] theorem State.setTarget_smn (s : State) (t : Nat) (g : Target) : (s.setTarget t g).smn = s.smn := rfl
@[simp] theorem State.setTarget_fab (s : State) (t : Nat) (g : Target) : (s.setTarget t g).fab = s.fab := rfl

/-! ### setRing -/

@[simp] theorem State.setRing_pending (s : State) (r : Nat) (g : Ring) : (s.setRing r g).pending = s.pending := rfl
@[simp] theorem State.setRing_uptime (s : State) (r : Nat) (g : Ring) : (s.setRing r g).uptime = s.uptime := rfl
@[simp] theorem State.setRing_free (s : State) (r : Nat) (g : Ring) : (s.setRing r g).free = s.free := rfl
@[simp] theorem State.setRing_out (s : State) (r : Nat) (g : Ring) : (s.setRing r g).out = s.out := rfl
@[simp] theorem State.setRing_ten (s : State) (r : Nat) (g : Ring) : (s.setRing r g).ten = s.ten := rfl
@[simp] theorem State.setRing_copies (s : State) (r : Nat) (g : Ring) : (s.setRing r g).copies = s.copies := rfl
@[simp] theorem State.setRing_design (s : State) (r : Nat) (g : Ring) : (s.setRing r g).design = s.design := rfl
@[simp] theorem State.setRing_boot (s : State) (r : Nat) (g : Ring) : (s.setRing r g).boot = s.boot := rfl
@[simp] theorem State.setRing_cfg (s : State) (r : Nat) (g : Ring) : (s.setRing r g).cfg = s.cfg := rfl
@[simp] theorem State.setRing_scr (s : State) (r : Nat) (g : Ring) : (s.setRing r g).scr = s.scr := rfl
@[simp] theorem State.setRing_noc (s : State) (r : Nat) (g : Ring) : (s.setRing r g).noc = s.noc := rfl
@[simp] theorem State.setRing_pci (s : State) (r : Nat) (g : Ring) : (s.setRing r g).pci = s.pci := rfl
@[simp] theorem State.setRing_mac (s : State) (r : Nat) (g : Ring) : (s.setRing r g).mac = s.mac := rfl
@[simp] theorem State.setRing_xcv (s : State) (r : Nat) (g : Ring) : (s.setRing r g).xcv = s.xcv := rfl
@[simp] theorem State.setRing_port (s : State) (r : Nat) (g : Ring) : (s.setRing r g).port = s.port := rfl
@[simp] theorem State.setRing_tbs (s : State) (r : Nat) (g : Ring) : (s.setRing r g).tbs = s.tbs := rfl
@[simp] theorem State.setRing_rfx (s : State) (r : Nat) (g : Ring) : (s.setRing r g).rfx = s.rfx := rfl
@[simp] theorem State.setRing_mc (s : State) (r : Nat) (g : Ring) : (s.setRing r g).mc = s.mc := rfl
@[simp] theorem State.setRing_nv (s : State) (r : Nat) (g : Ring) : (s.setRing r g).nv = s.nv := rfl
@[simp] theorem State.setRing_pwr (s : State) (r : Nat) (g : Ring) : (s.setRing r g).pwr = s.pwr := rfl
@[simp] theorem State.setRing_bst (s : State) (r : Nat) (g : Ring) : (s.setRing r g).bst = s.bst := rfl
@[simp] theorem State.setRing_lcs (s : State) (r : Nat) (g : Ring) : (s.setRing r g).lcs = s.lcs := rfl
@[simp] theorem State.setRing_clk (s : State) (r : Nat) (g : Ring) : (s.setRing r g).clk = s.clk := rfl
@[simp] theorem State.setRing_smn (s : State) (r : Nat) (g : Ring) : (s.setRing r g).smn = s.smn := rfl
@[simp] theorem State.setRing_fab (s : State) (r : Nat) (g : Ring) : (s.setRing r g).fab = s.fab := rfl

/-! ### setTable -/

@[simp] theorem State.setTable_pending (s : State) (t : Nat) (g : RTable) : (s.setTable t g).pending = s.pending := rfl
@[simp] theorem State.setTable_uptime (s : State) (t : Nat) (g : RTable) : (s.setTable t g).uptime = s.uptime := rfl
@[simp] theorem State.setTable_free (s : State) (t : Nat) (g : RTable) : (s.setTable t g).free = s.free := rfl
@[simp] theorem State.setTable_out (s : State) (t : Nat) (g : RTable) : (s.setTable t g).out = s.out := rfl
@[simp] theorem State.setTable_ten (s : State) (t : Nat) (g : RTable) : (s.setTable t g).ten = s.ten := rfl
@[simp] theorem State.setTable_copies (s : State) (t : Nat) (g : RTable) : (s.setTable t g).copies = s.copies := rfl
@[simp] theorem State.setTable_design (s : State) (t : Nat) (g : RTable) : (s.setTable t g).design = s.design := rfl
@[simp] theorem State.setTable_boot (s : State) (t : Nat) (g : RTable) : (s.setTable t g).boot = s.boot := rfl
@[simp] theorem State.setTable_cfg (s : State) (t : Nat) (g : RTable) : (s.setTable t g).cfg = s.cfg := rfl
@[simp] theorem State.setTable_scr (s : State) (t : Nat) (g : RTable) : (s.setTable t g).scr = s.scr := rfl
@[simp] theorem State.setTable_noc (s : State) (t : Nat) (g : RTable) : (s.setTable t g).noc = s.noc := rfl
@[simp] theorem State.setTable_pci (s : State) (t : Nat) (g : RTable) : (s.setTable t g).pci = s.pci := rfl
@[simp] theorem State.setTable_mac (s : State) (t : Nat) (g : RTable) : (s.setTable t g).mac = s.mac := rfl
@[simp] theorem State.setTable_xcv (s : State) (t : Nat) (g : RTable) : (s.setTable t g).xcv = s.xcv := rfl
@[simp] theorem State.setTable_port (s : State) (t : Nat) (g : RTable) : (s.setTable t g).port = s.port := rfl
@[simp] theorem State.setTable_tbs (s : State) (t : Nat) (g : RTable) : (s.setTable t g).tbs = s.tbs := rfl
@[simp] theorem State.setTable_uan (s : State) (t : Nat) (g : RTable) : (s.setTable t g).uan = s.uan := rfl
@[simp] theorem State.setTable_mc (s : State) (t : Nat) (g : RTable) : (s.setTable t g).mc = s.mc := rfl
@[simp] theorem State.setTable_nv (s : State) (t : Nat) (g : RTable) : (s.setTable t g).nv = s.nv := rfl
@[simp] theorem State.setTable_pwr (s : State) (t : Nat) (g : RTable) : (s.setTable t g).pwr = s.pwr := rfl
@[simp] theorem State.setTable_bst (s : State) (t : Nat) (g : RTable) : (s.setTable t g).bst = s.bst := rfl
@[simp] theorem State.setTable_lcs (s : State) (t : Nat) (g : RTable) : (s.setTable t g).lcs = s.lcs := rfl
@[simp] theorem State.setTable_clk (s : State) (t : Nat) (g : RTable) : (s.setTable t g).clk = s.clk := rfl
@[simp] theorem State.setTable_smn (s : State) (t : Nat) (g : RTable) : (s.setTable t g).smn = s.smn := rfl
@[simp] theorem State.setTable_fab (s : State) (t : Nat) (g : RTable) : (s.setTable t g).fab = s.fab := rfl

/-! ### setMap -/

@[simp] theorem State.setMap_pending (s : State) (e : Nat) (m : MapEntry) : (s.setMap e m).pending = s.pending := rfl
@[simp] theorem State.setMap_uptime (s : State) (e : Nat) (m : MapEntry) : (s.setMap e m).uptime = s.uptime := rfl
@[simp] theorem State.setMap_free (s : State) (e : Nat) (m : MapEntry) : (s.setMap e m).free = s.free := rfl
@[simp] theorem State.setMap_out (s : State) (e : Nat) (m : MapEntry) : (s.setMap e m).out = s.out := rfl
@[simp] theorem State.setMap_ten (s : State) (e : Nat) (m : MapEntry) : (s.setMap e m).ten = s.ten := rfl
@[simp] theorem State.setMap_copies (s : State) (e : Nat) (m : MapEntry) : (s.setMap e m).copies = s.copies := rfl
@[simp] theorem State.setMap_design (s : State) (e : Nat) (m : MapEntry) : (s.setMap e m).design = s.design := rfl
@[simp] theorem State.setMap_boot (s : State) (e : Nat) (m : MapEntry) : (s.setMap e m).boot = s.boot := rfl
@[simp] theorem State.setMap_cfg (s : State) (e : Nat) (m : MapEntry) : (s.setMap e m).cfg = s.cfg := rfl
@[simp] theorem State.setMap_scr (s : State) (e : Nat) (m : MapEntry) : (s.setMap e m).scr = s.scr := rfl
@[simp] theorem State.setMap_pci (s : State) (e : Nat) (m : MapEntry) : (s.setMap e m).pci = s.pci := rfl
@[simp] theorem State.setMap_mac (s : State) (e : Nat) (m : MapEntry) : (s.setMap e m).mac = s.mac := rfl
@[simp] theorem State.setMap_xcv (s : State) (e : Nat) (m : MapEntry) : (s.setMap e m).xcv = s.xcv := rfl
@[simp] theorem State.setMap_port (s : State) (e : Nat) (m : MapEntry) : (s.setMap e m).port = s.port := rfl
@[simp] theorem State.setMap_tbs (s : State) (e : Nat) (m : MapEntry) : (s.setMap e m).tbs = s.tbs := rfl
@[simp] theorem State.setMap_rfx (s : State) (e : Nat) (m : MapEntry) : (s.setMap e m).rfx = s.rfx := rfl
@[simp] theorem State.setMap_uan (s : State) (e : Nat) (m : MapEntry) : (s.setMap e m).uan = s.uan := rfl
@[simp] theorem State.setMap_mc (s : State) (e : Nat) (m : MapEntry) : (s.setMap e m).mc = s.mc := rfl
@[simp] theorem State.setMap_nv (s : State) (e : Nat) (m : MapEntry) : (s.setMap e m).nv = s.nv := rfl
@[simp] theorem State.setMap_pwr (s : State) (e : Nat) (m : MapEntry) : (s.setMap e m).pwr = s.pwr := rfl
@[simp] theorem State.setMap_bst (s : State) (e : Nat) (m : MapEntry) : (s.setMap e m).bst = s.bst := rfl
@[simp] theorem State.setMap_lcs (s : State) (e : Nat) (m : MapEntry) : (s.setMap e m).lcs = s.lcs := rfl
@[simp] theorem State.setMap_clk (s : State) (e : Nat) (m : MapEntry) : (s.setMap e m).clk = s.clk := rfl
@[simp] theorem State.setMap_smn (s : State) (e : Nat) (m : MapEntry) : (s.setMap e m).smn = s.smn := rfl
@[simp] theorem State.setMap_fab (s : State) (e : Nat) (m : MapEntry) : (s.setMap e m).fab = s.fab := rfl

/-! ### setPll -/

@[simp] theorem State.setPll_pending (s : State) (p : Nat) (g : Pll) : (s.setPll p g).pending = s.pending := rfl
@[simp] theorem State.setPll_uptime (s : State) (p : Nat) (g : Pll) : (s.setPll p g).uptime = s.uptime := rfl
@[simp] theorem State.setPll_free (s : State) (p : Nat) (g : Pll) : (s.setPll p g).free = s.free := rfl
@[simp] theorem State.setPll_out (s : State) (p : Nat) (g : Pll) : (s.setPll p g).out = s.out := rfl
@[simp] theorem State.setPll_ten (s : State) (p : Nat) (g : Pll) : (s.setPll p g).ten = s.ten := rfl
@[simp] theorem State.setPll_copies (s : State) (p : Nat) (g : Pll) : (s.setPll p g).copies = s.copies := rfl
@[simp] theorem State.setPll_design (s : State) (p : Nat) (g : Pll) : (s.setPll p g).design = s.design := rfl
@[simp] theorem State.setPll_boot (s : State) (p : Nat) (g : Pll) : (s.setPll p g).boot = s.boot := rfl
@[simp] theorem State.setPll_cfg (s : State) (p : Nat) (g : Pll) : (s.setPll p g).cfg = s.cfg := rfl
@[simp] theorem State.setPll_scr (s : State) (p : Nat) (g : Pll) : (s.setPll p g).scr = s.scr := rfl
@[simp] theorem State.setPll_noc (s : State) (p : Nat) (g : Pll) : (s.setPll p g).noc = s.noc := rfl
@[simp] theorem State.setPll_pci (s : State) (p : Nat) (g : Pll) : (s.setPll p g).pci = s.pci := rfl
@[simp] theorem State.setPll_mac (s : State) (p : Nat) (g : Pll) : (s.setPll p g).mac = s.mac := rfl
@[simp] theorem State.setPll_xcv (s : State) (p : Nat) (g : Pll) : (s.setPll p g).xcv = s.xcv := rfl
@[simp] theorem State.setPll_port (s : State) (p : Nat) (g : Pll) : (s.setPll p g).port = s.port := rfl
@[simp] theorem State.setPll_tbs (s : State) (p : Nat) (g : Pll) : (s.setPll p g).tbs = s.tbs := rfl
@[simp] theorem State.setPll_rfx (s : State) (p : Nat) (g : Pll) : (s.setPll p g).rfx = s.rfx := rfl
@[simp] theorem State.setPll_uan (s : State) (p : Nat) (g : Pll) : (s.setPll p g).uan = s.uan := rfl
@[simp] theorem State.setPll_mc (s : State) (p : Nat) (g : Pll) : (s.setPll p g).mc = s.mc := rfl
@[simp] theorem State.setPll_nv (s : State) (p : Nat) (g : Pll) : (s.setPll p g).nv = s.nv := rfl
@[simp] theorem State.setPll_pwr (s : State) (p : Nat) (g : Pll) : (s.setPll p g).pwr = s.pwr := rfl
@[simp] theorem State.setPll_bst (s : State) (p : Nat) (g : Pll) : (s.setPll p g).bst = s.bst := rfl
@[simp] theorem State.setPll_lcs (s : State) (p : Nat) (g : Pll) : (s.setPll p g).lcs = s.lcs := rfl
@[simp] theorem State.setPll_smn (s : State) (p : Nat) (g : Pll) : (s.setPll p g).smn = s.smn := rfl
@[simp] theorem State.setPll_fab (s : State) (p : Nat) (g : Pll) : (s.setPll p g).fab = s.fab := rfl

/-! ### setChan -/

@[simp] theorem State.setChan_pending (s : State) (c : Nat) (g : Chan) : (s.setChan c g).pending = s.pending := rfl
@[simp] theorem State.setChan_uptime (s : State) (c : Nat) (g : Chan) : (s.setChan c g).uptime = s.uptime := rfl
@[simp] theorem State.setChan_free (s : State) (c : Nat) (g : Chan) : (s.setChan c g).free = s.free := rfl
@[simp] theorem State.setChan_out (s : State) (c : Nat) (g : Chan) : (s.setChan c g).out = s.out := rfl
@[simp] theorem State.setChan_ten (s : State) (c : Nat) (g : Chan) : (s.setChan c g).ten = s.ten := rfl
@[simp] theorem State.setChan_copies (s : State) (c : Nat) (g : Chan) : (s.setChan c g).copies = s.copies := rfl
@[simp] theorem State.setChan_design (s : State) (c : Nat) (g : Chan) : (s.setChan c g).design = s.design := rfl
@[simp] theorem State.setChan_boot (s : State) (c : Nat) (g : Chan) : (s.setChan c g).boot = s.boot := rfl
@[simp] theorem State.setChan_cfg (s : State) (c : Nat) (g : Chan) : (s.setChan c g).cfg = s.cfg := rfl
@[simp] theorem State.setChan_scr (s : State) (c : Nat) (g : Chan) : (s.setChan c g).scr = s.scr := rfl
@[simp] theorem State.setChan_noc (s : State) (c : Nat) (g : Chan) : (s.setChan c g).noc = s.noc := rfl
@[simp] theorem State.setChan_pci (s : State) (c : Nat) (g : Chan) : (s.setChan c g).pci = s.pci := rfl
@[simp] theorem State.setChan_mac (s : State) (c : Nat) (g : Chan) : (s.setChan c g).mac = s.mac := rfl
@[simp] theorem State.setChan_xcv (s : State) (c : Nat) (g : Chan) : (s.setChan c g).xcv = s.xcv := rfl
@[simp] theorem State.setChan_port (s : State) (c : Nat) (g : Chan) : (s.setChan c g).port = s.port := rfl
@[simp] theorem State.setChan_tbs (s : State) (c : Nat) (g : Chan) : (s.setChan c g).tbs = s.tbs := rfl
@[simp] theorem State.setChan_rfx (s : State) (c : Nat) (g : Chan) : (s.setChan c g).rfx = s.rfx := rfl
@[simp] theorem State.setChan_uan (s : State) (c : Nat) (g : Chan) : (s.setChan c g).uan = s.uan := rfl
@[simp] theorem State.setChan_mc (s : State) (c : Nat) (g : Chan) : (s.setChan c g).mc = s.mc := rfl
@[simp] theorem State.setChan_nv (s : State) (c : Nat) (g : Chan) : (s.setChan c g).nv = s.nv := rfl
@[simp] theorem State.setChan_pwr (s : State) (c : Nat) (g : Chan) : (s.setChan c g).pwr = s.pwr := rfl
@[simp] theorem State.setChan_bst (s : State) (c : Nat) (g : Chan) : (s.setChan c g).bst = s.bst := rfl
@[simp] theorem State.setChan_lcs (s : State) (c : Nat) (g : Chan) : (s.setChan c g).lcs = s.lcs := rfl
@[simp] theorem State.setChan_clk (s : State) (c : Nat) (g : Chan) : (s.setChan c g).clk = s.clk := rfl
@[simp] theorem State.setChan_fab (s : State) (c : Nat) (g : Chan) : (s.setChan c g).fab = s.fab := rfl

/-! ### setBank -/

@[simp] theorem State.setBank_pending (s : State) (b : Nat) (g : Bank) : (s.setBank b g).pending = s.pending := rfl
@[simp] theorem State.setBank_uptime (s : State) (b : Nat) (g : Bank) : (s.setBank b g).uptime = s.uptime := rfl
@[simp] theorem State.setBank_free (s : State) (b : Nat) (g : Bank) : (s.setBank b g).free = s.free := rfl
@[simp] theorem State.setBank_out (s : State) (b : Nat) (g : Bank) : (s.setBank b g).out = s.out := rfl
@[simp] theorem State.setBank_ten (s : State) (b : Nat) (g : Bank) : (s.setBank b g).ten = s.ten := rfl
@[simp] theorem State.setBank_copies (s : State) (b : Nat) (g : Bank) : (s.setBank b g).copies = s.copies := rfl
@[simp] theorem State.setBank_design (s : State) (b : Nat) (g : Bank) : (s.setBank b g).design = s.design := rfl
@[simp] theorem State.setBank_boot (s : State) (b : Nat) (g : Bank) : (s.setBank b g).boot = s.boot := rfl
@[simp] theorem State.setBank_cfg (s : State) (b : Nat) (g : Bank) : (s.setBank b g).cfg = s.cfg := rfl
@[simp] theorem State.setBank_scr (s : State) (b : Nat) (g : Bank) : (s.setBank b g).scr = s.scr := rfl
@[simp] theorem State.setBank_noc (s : State) (b : Nat) (g : Bank) : (s.setBank b g).noc = s.noc := rfl
@[simp] theorem State.setBank_pci (s : State) (b : Nat) (g : Bank) : (s.setBank b g).pci = s.pci := rfl
@[simp] theorem State.setBank_mac (s : State) (b : Nat) (g : Bank) : (s.setBank b g).mac = s.mac := rfl
@[simp] theorem State.setBank_xcv (s : State) (b : Nat) (g : Bank) : (s.setBank b g).xcv = s.xcv := rfl
@[simp] theorem State.setBank_port (s : State) (b : Nat) (g : Bank) : (s.setBank b g).port = s.port := rfl
@[simp] theorem State.setBank_tbs (s : State) (b : Nat) (g : Bank) : (s.setBank b g).tbs = s.tbs := rfl
@[simp] theorem State.setBank_rfx (s : State) (b : Nat) (g : Bank) : (s.setBank b g).rfx = s.rfx := rfl
@[simp] theorem State.setBank_uan (s : State) (b : Nat) (g : Bank) : (s.setBank b g).uan = s.uan := rfl
@[simp] theorem State.setBank_mc (s : State) (b : Nat) (g : Bank) : (s.setBank b g).mc = s.mc := rfl
@[simp] theorem State.setBank_pwr (s : State) (b : Nat) (g : Bank) : (s.setBank b g).pwr = s.pwr := rfl
@[simp] theorem State.setBank_bst (s : State) (b : Nat) (g : Bank) : (s.setBank b g).bst = s.bst := rfl
@[simp] theorem State.setBank_lcs (s : State) (b : Nat) (g : Bank) : (s.setBank b g).lcs = s.lcs := rfl
@[simp] theorem State.setBank_clk (s : State) (b : Nat) (g : Bank) : (s.setBank b g).clk = s.clk := rfl
@[simp] theorem State.setBank_smn (s : State) (b : Nat) (g : Bank) : (s.setBank b g).smn = s.smn := rfl
@[simp] theorem State.setBank_fab (s : State) (b : Nat) (g : Bank) : (s.setBank b g).fab = s.fab := rfl

/-! ### setQ -/

@[simp] theorem State.setQ_pending (s : State) (q : Nat) (g : NvQ) : (s.setQ q g).pending = s.pending := rfl
@[simp] theorem State.setQ_uptime (s : State) (q : Nat) (g : NvQ) : (s.setQ q g).uptime = s.uptime := rfl
@[simp] theorem State.setQ_free (s : State) (q : Nat) (g : NvQ) : (s.setQ q g).free = s.free := rfl
@[simp] theorem State.setQ_out (s : State) (q : Nat) (g : NvQ) : (s.setQ q g).out = s.out := rfl
@[simp] theorem State.setQ_ten (s : State) (q : Nat) (g : NvQ) : (s.setQ q g).ten = s.ten := rfl
@[simp] theorem State.setQ_copies (s : State) (q : Nat) (g : NvQ) : (s.setQ q g).copies = s.copies := rfl
@[simp] theorem State.setQ_design (s : State) (q : Nat) (g : NvQ) : (s.setQ q g).design = s.design := rfl
@[simp] theorem State.setQ_boot (s : State) (q : Nat) (g : NvQ) : (s.setQ q g).boot = s.boot := rfl
@[simp] theorem State.setQ_cfg (s : State) (q : Nat) (g : NvQ) : (s.setQ q g).cfg = s.cfg := rfl
@[simp] theorem State.setQ_scr (s : State) (q : Nat) (g : NvQ) : (s.setQ q g).scr = s.scr := rfl
@[simp] theorem State.setQ_noc (s : State) (q : Nat) (g : NvQ) : (s.setQ q g).noc = s.noc := rfl
@[simp] theorem State.setQ_pci (s : State) (q : Nat) (g : NvQ) : (s.setQ q g).pci = s.pci := rfl
@[simp] theorem State.setQ_mac (s : State) (q : Nat) (g : NvQ) : (s.setQ q g).mac = s.mac := rfl
@[simp] theorem State.setQ_xcv (s : State) (q : Nat) (g : NvQ) : (s.setQ q g).xcv = s.xcv := rfl
@[simp] theorem State.setQ_port (s : State) (q : Nat) (g : NvQ) : (s.setQ q g).port = s.port := rfl
@[simp] theorem State.setQ_tbs (s : State) (q : Nat) (g : NvQ) : (s.setQ q g).tbs = s.tbs := rfl
@[simp] theorem State.setQ_rfx (s : State) (q : Nat) (g : NvQ) : (s.setQ q g).rfx = s.rfx := rfl
@[simp] theorem State.setQ_uan (s : State) (q : Nat) (g : NvQ) : (s.setQ q g).uan = s.uan := rfl
@[simp] theorem State.setQ_mc (s : State) (q : Nat) (g : NvQ) : (s.setQ q g).mc = s.mc := rfl
@[simp] theorem State.setQ_pwr (s : State) (q : Nat) (g : NvQ) : (s.setQ q g).pwr = s.pwr := rfl
@[simp] theorem State.setQ_bst (s : State) (q : Nat) (g : NvQ) : (s.setQ q g).bst = s.bst := rfl
@[simp] theorem State.setQ_lcs (s : State) (q : Nat) (g : NvQ) : (s.setQ q g).lcs = s.lcs := rfl
@[simp] theorem State.setQ_clk (s : State) (q : Nat) (g : NvQ) : (s.setQ q g).clk = s.clk := rfl
@[simp] theorem State.setQ_smn (s : State) (q : Nat) (g : NvQ) : (s.setQ q g).smn = s.smn := rfl
@[simp] theorem State.setQ_fab (s : State) (q : Nat) (g : NvQ) : (s.setQ q g).fab = s.fab := rfl

/-! ### setRange -/

@[simp] theorem State.setRange_pending (s : State) (r : Nat) (g : NvRange) : (s.setRange r g).pending = s.pending := rfl
@[simp] theorem State.setRange_uptime (s : State) (r : Nat) (g : NvRange) : (s.setRange r g).uptime = s.uptime := rfl
@[simp] theorem State.setRange_free (s : State) (r : Nat) (g : NvRange) : (s.setRange r g).free = s.free := rfl
@[simp] theorem State.setRange_out (s : State) (r : Nat) (g : NvRange) : (s.setRange r g).out = s.out := rfl
@[simp] theorem State.setRange_ten (s : State) (r : Nat) (g : NvRange) : (s.setRange r g).ten = s.ten := rfl
@[simp] theorem State.setRange_copies (s : State) (r : Nat) (g : NvRange) : (s.setRange r g).copies = s.copies := rfl
@[simp] theorem State.setRange_design (s : State) (r : Nat) (g : NvRange) : (s.setRange r g).design = s.design := rfl
@[simp] theorem State.setRange_boot (s : State) (r : Nat) (g : NvRange) : (s.setRange r g).boot = s.boot := rfl
@[simp] theorem State.setRange_cfg (s : State) (r : Nat) (g : NvRange) : (s.setRange r g).cfg = s.cfg := rfl
@[simp] theorem State.setRange_scr (s : State) (r : Nat) (g : NvRange) : (s.setRange r g).scr = s.scr := rfl
@[simp] theorem State.setRange_noc (s : State) (r : Nat) (g : NvRange) : (s.setRange r g).noc = s.noc := rfl
@[simp] theorem State.setRange_pci (s : State) (r : Nat) (g : NvRange) : (s.setRange r g).pci = s.pci := rfl
@[simp] theorem State.setRange_mac (s : State) (r : Nat) (g : NvRange) : (s.setRange r g).mac = s.mac := rfl
@[simp] theorem State.setRange_xcv (s : State) (r : Nat) (g : NvRange) : (s.setRange r g).xcv = s.xcv := rfl
@[simp] theorem State.setRange_port (s : State) (r : Nat) (g : NvRange) : (s.setRange r g).port = s.port := rfl
@[simp] theorem State.setRange_tbs (s : State) (r : Nat) (g : NvRange) : (s.setRange r g).tbs = s.tbs := rfl
@[simp] theorem State.setRange_rfx (s : State) (r : Nat) (g : NvRange) : (s.setRange r g).rfx = s.rfx := rfl
@[simp] theorem State.setRange_uan (s : State) (r : Nat) (g : NvRange) : (s.setRange r g).uan = s.uan := rfl
@[simp] theorem State.setRange_mc (s : State) (r : Nat) (g : NvRange) : (s.setRange r g).mc = s.mc := rfl
@[simp] theorem State.setRange_pwr (s : State) (r : Nat) (g : NvRange) : (s.setRange r g).pwr = s.pwr := rfl
@[simp] theorem State.setRange_bst (s : State) (r : Nat) (g : NvRange) : (s.setRange r g).bst = s.bst := rfl
@[simp] theorem State.setRange_lcs (s : State) (r : Nat) (g : NvRange) : (s.setRange r g).lcs = s.lcs := rfl
@[simp] theorem State.setRange_clk (s : State) (r : Nat) (g : NvRange) : (s.setRange r g).clk = s.clk := rfl
@[simp] theorem State.setRange_smn (s : State) (r : Nat) (g : NvRange) : (s.setRange r g).smn = s.smn := rfl
@[simp] theorem State.setRange_fab (s : State) (r : Nat) (g : NvRange) : (s.setRange r g).fab = s.fab := rfl

/-! ### setBand -/

@[simp] theorem State.setBand_pending (s : State) (b : Nat) (g : BandP) : (s.setBand b g).pending = s.pending := rfl
@[simp] theorem State.setBand_uptime (s : State) (b : Nat) (g : BandP) : (s.setBand b g).uptime = s.uptime := rfl
@[simp] theorem State.setBand_free (s : State) (b : Nat) (g : BandP) : (s.setBand b g).free = s.free := rfl
@[simp] theorem State.setBand_out (s : State) (b : Nat) (g : BandP) : (s.setBand b g).out = s.out := rfl
@[simp] theorem State.setBand_ten (s : State) (b : Nat) (g : BandP) : (s.setBand b g).ten = s.ten := rfl
@[simp] theorem State.setBand_copies (s : State) (b : Nat) (g : BandP) : (s.setBand b g).copies = s.copies := rfl
@[simp] theorem State.setBand_design (s : State) (b : Nat) (g : BandP) : (s.setBand b g).design = s.design := rfl
@[simp] theorem State.setBand_boot (s : State) (b : Nat) (g : BandP) : (s.setBand b g).boot = s.boot := rfl
@[simp] theorem State.setBand_cfg (s : State) (b : Nat) (g : BandP) : (s.setBand b g).cfg = s.cfg := rfl
@[simp] theorem State.setBand_scr (s : State) (b : Nat) (g : BandP) : (s.setBand b g).scr = s.scr := rfl
@[simp] theorem State.setBand_noc (s : State) (b : Nat) (g : BandP) : (s.setBand b g).noc = s.noc := rfl
@[simp] theorem State.setBand_pci (s : State) (b : Nat) (g : BandP) : (s.setBand b g).pci = s.pci := rfl
@[simp] theorem State.setBand_mac (s : State) (b : Nat) (g : BandP) : (s.setBand b g).mac = s.mac := rfl
@[simp] theorem State.setBand_xcv (s : State) (b : Nat) (g : BandP) : (s.setBand b g).xcv = s.xcv := rfl
@[simp] theorem State.setBand_port (s : State) (b : Nat) (g : BandP) : (s.setBand b g).port = s.port := rfl
@[simp] theorem State.setBand_tbs (s : State) (b : Nat) (g : BandP) : (s.setBand b g).tbs = s.tbs := rfl
@[simp] theorem State.setBand_rfx (s : State) (b : Nat) (g : BandP) : (s.setBand b g).rfx = s.rfx := rfl
@[simp] theorem State.setBand_uan (s : State) (b : Nat) (g : BandP) : (s.setBand b g).uan = s.uan := rfl
@[simp] theorem State.setBand_mc (s : State) (b : Nat) (g : BandP) : (s.setBand b g).mc = s.mc := rfl
@[simp] theorem State.setBand_nv (s : State) (b : Nat) (g : BandP) : (s.setBand b g).nv = s.nv := rfl
@[simp] theorem State.setBand_bst (s : State) (b : Nat) (g : BandP) : (s.setBand b g).bst = s.bst := rfl
@[simp] theorem State.setBand_lcs (s : State) (b : Nat) (g : BandP) : (s.setBand b g).lcs = s.lcs := rfl
@[simp] theorem State.setBand_clk (s : State) (b : Nat) (g : BandP) : (s.setBand b g).clk = s.clk := rfl
@[simp] theorem State.setBand_smn (s : State) (b : Nat) (g : BandP) : (s.setBand b g).smn = s.smn := rfl
@[simp] theorem State.setBand_fab (s : State) (b : Nat) (g : BandP) : (s.setBand b g).fab = s.fab := rfl

/-! ### setRail -/

@[simp] theorem State.setRail_pending (s : State) (r : Nat) (g : Rail) : (s.setRail r g).pending = s.pending := rfl
@[simp] theorem State.setRail_uptime (s : State) (r : Nat) (g : Rail) : (s.setRail r g).uptime = s.uptime := rfl
@[simp] theorem State.setRail_free (s : State) (r : Nat) (g : Rail) : (s.setRail r g).free = s.free := rfl
@[simp] theorem State.setRail_out (s : State) (r : Nat) (g : Rail) : (s.setRail r g).out = s.out := rfl
@[simp] theorem State.setRail_ten (s : State) (r : Nat) (g : Rail) : (s.setRail r g).ten = s.ten := rfl
@[simp] theorem State.setRail_copies (s : State) (r : Nat) (g : Rail) : (s.setRail r g).copies = s.copies := rfl
@[simp] theorem State.setRail_design (s : State) (r : Nat) (g : Rail) : (s.setRail r g).design = s.design := rfl
@[simp] theorem State.setRail_boot (s : State) (r : Nat) (g : Rail) : (s.setRail r g).boot = s.boot := rfl
@[simp] theorem State.setRail_cfg (s : State) (r : Nat) (g : Rail) : (s.setRail r g).cfg = s.cfg := rfl
@[simp] theorem State.setRail_scr (s : State) (r : Nat) (g : Rail) : (s.setRail r g).scr = s.scr := rfl
@[simp] theorem State.setRail_noc (s : State) (r : Nat) (g : Rail) : (s.setRail r g).noc = s.noc := rfl
@[simp] theorem State.setRail_pci (s : State) (r : Nat) (g : Rail) : (s.setRail r g).pci = s.pci := rfl
@[simp] theorem State.setRail_mac (s : State) (r : Nat) (g : Rail) : (s.setRail r g).mac = s.mac := rfl
@[simp] theorem State.setRail_xcv (s : State) (r : Nat) (g : Rail) : (s.setRail r g).xcv = s.xcv := rfl
@[simp] theorem State.setRail_port (s : State) (r : Nat) (g : Rail) : (s.setRail r g).port = s.port := rfl
@[simp] theorem State.setRail_tbs (s : State) (r : Nat) (g : Rail) : (s.setRail r g).tbs = s.tbs := rfl
@[simp] theorem State.setRail_rfx (s : State) (r : Nat) (g : Rail) : (s.setRail r g).rfx = s.rfx := rfl
@[simp] theorem State.setRail_uan (s : State) (r : Nat) (g : Rail) : (s.setRail r g).uan = s.uan := rfl
@[simp] theorem State.setRail_mc (s : State) (r : Nat) (g : Rail) : (s.setRail r g).mc = s.mc := rfl
@[simp] theorem State.setRail_nv (s : State) (r : Nat) (g : Rail) : (s.setRail r g).nv = s.nv := rfl
@[simp] theorem State.setRail_bst (s : State) (r : Nat) (g : Rail) : (s.setRail r g).bst = s.bst := rfl
@[simp] theorem State.setRail_lcs (s : State) (r : Nat) (g : Rail) : (s.setRail r g).lcs = s.lcs := rfl
@[simp] theorem State.setRail_clk (s : State) (r : Nat) (g : Rail) : (s.setRail r g).clk = s.clk := rfl
@[simp] theorem State.setRail_smn (s : State) (r : Nat) (g : Rail) : (s.setRail r g).smn = s.smn := rfl
@[simp] theorem State.setRail_fab (s : State) (r : Nat) (g : Rail) : (s.setRail r g).fab = s.fab := rfl

/-! ### setScr -/

@[simp] theorem State.setScr_pending (s : State) (b : Nat) (g : ScrBand) : (s.setScr b g).pending = s.pending := rfl
@[simp] theorem State.setScr_uptime (s : State) (b : Nat) (g : ScrBand) : (s.setScr b g).uptime = s.uptime := rfl
@[simp] theorem State.setScr_free (s : State) (b : Nat) (g : ScrBand) : (s.setScr b g).free = s.free := rfl
@[simp] theorem State.setScr_out (s : State) (b : Nat) (g : ScrBand) : (s.setScr b g).out = s.out := rfl
@[simp] theorem State.setScr_ten (s : State) (b : Nat) (g : ScrBand) : (s.setScr b g).ten = s.ten := rfl
@[simp] theorem State.setScr_copies (s : State) (b : Nat) (g : ScrBand) : (s.setScr b g).copies = s.copies := rfl
@[simp] theorem State.setScr_design (s : State) (b : Nat) (g : ScrBand) : (s.setScr b g).design = s.design := rfl
@[simp] theorem State.setScr_boot (s : State) (b : Nat) (g : ScrBand) : (s.setScr b g).boot = s.boot := rfl
@[simp] theorem State.setScr_cfg (s : State) (b : Nat) (g : ScrBand) : (s.setScr b g).cfg = s.cfg := rfl
@[simp] theorem State.setScr_noc (s : State) (b : Nat) (g : ScrBand) : (s.setScr b g).noc = s.noc := rfl
@[simp] theorem State.setScr_pci (s : State) (b : Nat) (g : ScrBand) : (s.setScr b g).pci = s.pci := rfl
@[simp] theorem State.setScr_mac (s : State) (b : Nat) (g : ScrBand) : (s.setScr b g).mac = s.mac := rfl
@[simp] theorem State.setScr_xcv (s : State) (b : Nat) (g : ScrBand) : (s.setScr b g).xcv = s.xcv := rfl
@[simp] theorem State.setScr_port (s : State) (b : Nat) (g : ScrBand) : (s.setScr b g).port = s.port := rfl
@[simp] theorem State.setScr_tbs (s : State) (b : Nat) (g : ScrBand) : (s.setScr b g).tbs = s.tbs := rfl
@[simp] theorem State.setScr_rfx (s : State) (b : Nat) (g : ScrBand) : (s.setScr b g).rfx = s.rfx := rfl
@[simp] theorem State.setScr_uan (s : State) (b : Nat) (g : ScrBand) : (s.setScr b g).uan = s.uan := rfl
@[simp] theorem State.setScr_mc (s : State) (b : Nat) (g : ScrBand) : (s.setScr b g).mc = s.mc := rfl
@[simp] theorem State.setScr_nv (s : State) (b : Nat) (g : ScrBand) : (s.setScr b g).nv = s.nv := rfl
@[simp] theorem State.setScr_pwr (s : State) (b : Nat) (g : ScrBand) : (s.setScr b g).pwr = s.pwr := rfl
@[simp] theorem State.setScr_bst (s : State) (b : Nat) (g : ScrBand) : (s.setScr b g).bst = s.bst := rfl
@[simp] theorem State.setScr_lcs (s : State) (b : Nat) (g : ScrBand) : (s.setScr b g).lcs = s.lcs := rfl
@[simp] theorem State.setScr_clk (s : State) (b : Nat) (g : ScrBand) : (s.setScr b g).clk = s.clk := rfl
@[simp] theorem State.setScr_smn (s : State) (b : Nat) (g : ScrBand) : (s.setScr b g).smn = s.smn := rfl
@[simp] theorem State.setScr_fab (s : State) (b : Nat) (g : ScrBand) : (s.setScr b g).fab = s.fab := rfl

/-! ### setQuad -/

@[simp] theorem State.setQuad_pending (s : State) (q : Nat) (g : Quad) : (s.setQuad q g).pending = s.pending := rfl
@[simp] theorem State.setQuad_uptime (s : State) (q : Nat) (g : Quad) : (s.setQuad q g).uptime = s.uptime := rfl
@[simp] theorem State.setQuad_free (s : State) (q : Nat) (g : Quad) : (s.setQuad q g).free = s.free := rfl
@[simp] theorem State.setQuad_out (s : State) (q : Nat) (g : Quad) : (s.setQuad q g).out = s.out := rfl
@[simp] theorem State.setQuad_ten (s : State) (q : Nat) (g : Quad) : (s.setQuad q g).ten = s.ten := rfl
@[simp] theorem State.setQuad_copies (s : State) (q : Nat) (g : Quad) : (s.setQuad q g).copies = s.copies := rfl
@[simp] theorem State.setQuad_design (s : State) (q : Nat) (g : Quad) : (s.setQuad q g).design = s.design := rfl
@[simp] theorem State.setQuad_boot (s : State) (q : Nat) (g : Quad) : (s.setQuad q g).boot = s.boot := rfl
@[simp] theorem State.setQuad_cfg (s : State) (q : Nat) (g : Quad) : (s.setQuad q g).cfg = s.cfg := rfl
@[simp] theorem State.setQuad_scr (s : State) (q : Nat) (g : Quad) : (s.setQuad q g).scr = s.scr := rfl
@[simp] theorem State.setQuad_noc (s : State) (q : Nat) (g : Quad) : (s.setQuad q g).noc = s.noc := rfl
@[simp] theorem State.setQuad_pci (s : State) (q : Nat) (g : Quad) : (s.setQuad q g).pci = s.pci := rfl
@[simp] theorem State.setQuad_mac (s : State) (q : Nat) (g : Quad) : (s.setQuad q g).mac = s.mac := rfl
@[simp] theorem State.setQuad_port (s : State) (q : Nat) (g : Quad) : (s.setQuad q g).port = s.port := rfl
@[simp] theorem State.setQuad_tbs (s : State) (q : Nat) (g : Quad) : (s.setQuad q g).tbs = s.tbs := rfl
@[simp] theorem State.setQuad_rfx (s : State) (q : Nat) (g : Quad) : (s.setQuad q g).rfx = s.rfx := rfl
@[simp] theorem State.setQuad_uan (s : State) (q : Nat) (g : Quad) : (s.setQuad q g).uan = s.uan := rfl
@[simp] theorem State.setQuad_mc (s : State) (q : Nat) (g : Quad) : (s.setQuad q g).mc = s.mc := rfl
@[simp] theorem State.setQuad_nv (s : State) (q : Nat) (g : Quad) : (s.setQuad q g).nv = s.nv := rfl
@[simp] theorem State.setQuad_pwr (s : State) (q : Nat) (g : Quad) : (s.setQuad q g).pwr = s.pwr := rfl
@[simp] theorem State.setQuad_bst (s : State) (q : Nat) (g : Quad) : (s.setQuad q g).bst = s.bst := rfl
@[simp] theorem State.setQuad_lcs (s : State) (q : Nat) (g : Quad) : (s.setQuad q g).lcs = s.lcs := rfl
@[simp] theorem State.setQuad_clk (s : State) (q : Nat) (g : Quad) : (s.setQuad q g).clk = s.clk := rfl
@[simp] theorem State.setQuad_smn (s : State) (q : Nat) (g : Quad) : (s.setQuad q g).smn = s.smn := rfl
@[simp] theorem State.setQuad_fab (s : State) (q : Nat) (g : Quad) : (s.setQuad q g).fab = s.fab := rfl

/-! ### setLane -/

@[simp] theorem State.setLane_pending (s : State) (l : Nat) (g : Lane) : (s.setLane l g).pending = s.pending := rfl
@[simp] theorem State.setLane_uptime (s : State) (l : Nat) (g : Lane) : (s.setLane l g).uptime = s.uptime := rfl
@[simp] theorem State.setLane_free (s : State) (l : Nat) (g : Lane) : (s.setLane l g).free = s.free := rfl
@[simp] theorem State.setLane_out (s : State) (l : Nat) (g : Lane) : (s.setLane l g).out = s.out := rfl
@[simp] theorem State.setLane_ten (s : State) (l : Nat) (g : Lane) : (s.setLane l g).ten = s.ten := rfl
@[simp] theorem State.setLane_copies (s : State) (l : Nat) (g : Lane) : (s.setLane l g).copies = s.copies := rfl
@[simp] theorem State.setLane_design (s : State) (l : Nat) (g : Lane) : (s.setLane l g).design = s.design := rfl
@[simp] theorem State.setLane_boot (s : State) (l : Nat) (g : Lane) : (s.setLane l g).boot = s.boot := rfl
@[simp] theorem State.setLane_cfg (s : State) (l : Nat) (g : Lane) : (s.setLane l g).cfg = s.cfg := rfl
@[simp] theorem State.setLane_scr (s : State) (l : Nat) (g : Lane) : (s.setLane l g).scr = s.scr := rfl
@[simp] theorem State.setLane_noc (s : State) (l : Nat) (g : Lane) : (s.setLane l g).noc = s.noc := rfl
@[simp] theorem State.setLane_pci (s : State) (l : Nat) (g : Lane) : (s.setLane l g).pci = s.pci := rfl
@[simp] theorem State.setLane_mac (s : State) (l : Nat) (g : Lane) : (s.setLane l g).mac = s.mac := rfl
@[simp] theorem State.setLane_port (s : State) (l : Nat) (g : Lane) : (s.setLane l g).port = s.port := rfl
@[simp] theorem State.setLane_tbs (s : State) (l : Nat) (g : Lane) : (s.setLane l g).tbs = s.tbs := rfl
@[simp] theorem State.setLane_rfx (s : State) (l : Nat) (g : Lane) : (s.setLane l g).rfx = s.rfx := rfl
@[simp] theorem State.setLane_uan (s : State) (l : Nat) (g : Lane) : (s.setLane l g).uan = s.uan := rfl
@[simp] theorem State.setLane_mc (s : State) (l : Nat) (g : Lane) : (s.setLane l g).mc = s.mc := rfl
@[simp] theorem State.setLane_nv (s : State) (l : Nat) (g : Lane) : (s.setLane l g).nv = s.nv := rfl
@[simp] theorem State.setLane_pwr (s : State) (l : Nat) (g : Lane) : (s.setLane l g).pwr = s.pwr := rfl
@[simp] theorem State.setLane_bst (s : State) (l : Nat) (g : Lane) : (s.setLane l g).bst = s.bst := rfl
@[simp] theorem State.setLane_lcs (s : State) (l : Nat) (g : Lane) : (s.setLane l g).lcs = s.lcs := rfl
@[simp] theorem State.setLane_clk (s : State) (l : Nat) (g : Lane) : (s.setLane l g).clk = s.clk := rfl
@[simp] theorem State.setLane_smn (s : State) (l : Nat) (g : Lane) : (s.setLane l g).smn = s.smn := rfl
@[simp] theorem State.setLane_fab (s : State) (l : Nat) (g : Lane) : (s.setLane l g).fab = s.fab := rfl

/-! ### emit -/

@[simp] theorem State.emit_pending (s : State) (o : Out) : (s.emit o).pending = s.pending := rfl
@[simp] theorem State.emit_uptime (s : State) (o : Out) : (s.emit o).uptime = s.uptime := rfl
@[simp] theorem State.emit_free (s : State) (o : Out) : (s.emit o).free = s.free := rfl
@[simp] theorem State.emit_ten (s : State) (o : Out) : (s.emit o).ten = s.ten := rfl
@[simp] theorem State.emit_copies (s : State) (o : Out) : (s.emit o).copies = s.copies := rfl
@[simp] theorem State.emit_design (s : State) (o : Out) : (s.emit o).design = s.design := rfl
@[simp] theorem State.emit_boot (s : State) (o : Out) : (s.emit o).boot = s.boot := rfl
@[simp] theorem State.emit_cfg (s : State) (o : Out) : (s.emit o).cfg = s.cfg := rfl
@[simp] theorem State.emit_scr (s : State) (o : Out) : (s.emit o).scr = s.scr := rfl
@[simp] theorem State.emit_noc (s : State) (o : Out) : (s.emit o).noc = s.noc := rfl
@[simp] theorem State.emit_pci (s : State) (o : Out) : (s.emit o).pci = s.pci := rfl
@[simp] theorem State.emit_mac (s : State) (o : Out) : (s.emit o).mac = s.mac := rfl
@[simp] theorem State.emit_xcv (s : State) (o : Out) : (s.emit o).xcv = s.xcv := rfl
@[simp] theorem State.emit_port (s : State) (o : Out) : (s.emit o).port = s.port := rfl
@[simp] theorem State.emit_tbs (s : State) (o : Out) : (s.emit o).tbs = s.tbs := rfl
@[simp] theorem State.emit_rfx (s : State) (o : Out) : (s.emit o).rfx = s.rfx := rfl
@[simp] theorem State.emit_uan (s : State) (o : Out) : (s.emit o).uan = s.uan := rfl
@[simp] theorem State.emit_mc (s : State) (o : Out) : (s.emit o).mc = s.mc := rfl
@[simp] theorem State.emit_nv (s : State) (o : Out) : (s.emit o).nv = s.nv := rfl
@[simp] theorem State.emit_pwr (s : State) (o : Out) : (s.emit o).pwr = s.pwr := rfl
@[simp] theorem State.emit_bst (s : State) (o : Out) : (s.emit o).bst = s.bst := rfl
@[simp] theorem State.emit_lcs (s : State) (o : Out) : (s.emit o).lcs = s.lcs := rfl
@[simp] theorem State.emit_clk (s : State) (o : Out) : (s.emit o).clk = s.clk := rfl
@[simp] theorem State.emit_smn (s : State) (o : Out) : (s.emit o).smn = s.smn := rfl
@[simp] theorem State.emit_fab (s : State) (o : Out) : (s.emit o).fab = s.fab := rfl

/-! ### takeFree -/

@[simp] theorem State.takeFree_pending (s : State)  : (s.takeFree).pending = s.pending := rfl
@[simp] theorem State.takeFree_uptime (s : State)  : (s.takeFree).uptime = s.uptime := rfl
@[simp] theorem State.takeFree_out (s : State)  : (s.takeFree).out = s.out := rfl
@[simp] theorem State.takeFree_ten (s : State)  : (s.takeFree).ten = s.ten := rfl
@[simp] theorem State.takeFree_copies (s : State)  : (s.takeFree).copies = s.copies := rfl
@[simp] theorem State.takeFree_design (s : State)  : (s.takeFree).design = s.design := rfl
@[simp] theorem State.takeFree_boot (s : State)  : (s.takeFree).boot = s.boot := rfl
@[simp] theorem State.takeFree_cfg (s : State)  : (s.takeFree).cfg = s.cfg := rfl
@[simp] theorem State.takeFree_scr (s : State)  : (s.takeFree).scr = s.scr := rfl
@[simp] theorem State.takeFree_noc (s : State)  : (s.takeFree).noc = s.noc := rfl
@[simp] theorem State.takeFree_pci (s : State)  : (s.takeFree).pci = s.pci := rfl
@[simp] theorem State.takeFree_mac (s : State)  : (s.takeFree).mac = s.mac := rfl
@[simp] theorem State.takeFree_xcv (s : State)  : (s.takeFree).xcv = s.xcv := rfl
@[simp] theorem State.takeFree_port (s : State)  : (s.takeFree).port = s.port := rfl
@[simp] theorem State.takeFree_tbs (s : State)  : (s.takeFree).tbs = s.tbs := rfl
@[simp] theorem State.takeFree_rfx (s : State)  : (s.takeFree).rfx = s.rfx := rfl
@[simp] theorem State.takeFree_uan (s : State)  : (s.takeFree).uan = s.uan := rfl
@[simp] theorem State.takeFree_mc (s : State)  : (s.takeFree).mc = s.mc := rfl
@[simp] theorem State.takeFree_nv (s : State)  : (s.takeFree).nv = s.nv := rfl
@[simp] theorem State.takeFree_pwr (s : State)  : (s.takeFree).pwr = s.pwr := rfl
@[simp] theorem State.takeFree_bst (s : State)  : (s.takeFree).bst = s.bst := rfl
@[simp] theorem State.takeFree_lcs (s : State)  : (s.takeFree).lcs = s.lcs := rfl
@[simp] theorem State.takeFree_clk (s : State)  : (s.takeFree).clk = s.clk := rfl
@[simp] theorem State.takeFree_smn (s : State)  : (s.takeFree).smn = s.smn := rfl
@[simp] theorem State.takeFree_fab (s : State)  : (s.takeFree).fab = s.fab := rfl

/-! ### post -/

@[simp] theorem State.post_pending (s : State) (ds : List Nat) (block : Nat) (st : Status) (kind detail object : Nat) : (s.post ds block st kind detail object).pending = s.pending := rfl
@[simp] theorem State.post_uptime (s : State) (ds : List Nat) (block : Nat) (st : Status) (kind detail object : Nat) : (s.post ds block st kind detail object).uptime = s.uptime := rfl
@[simp] theorem State.post_free (s : State) (ds : List Nat) (block : Nat) (st : Status) (kind detail object : Nat) : (s.post ds block st kind detail object).free = s.free := rfl
@[simp] theorem State.post_out (s : State) (ds : List Nat) (block : Nat) (st : Status) (kind detail object : Nat) : (s.post ds block st kind detail object).out = s.out := rfl
@[simp] theorem State.post_ten (s : State) (ds : List Nat) (block : Nat) (st : Status) (kind detail object : Nat) : (s.post ds block st kind detail object).ten = s.ten := rfl
@[simp] theorem State.post_copies (s : State) (ds : List Nat) (block : Nat) (st : Status) (kind detail object : Nat) : (s.post ds block st kind detail object).copies = s.copies := rfl
@[simp] theorem State.post_design (s : State) (ds : List Nat) (block : Nat) (st : Status) (kind detail object : Nat) : (s.post ds block st kind detail object).design = s.design := rfl
@[simp] theorem State.post_boot (s : State) (ds : List Nat) (block : Nat) (st : Status) (kind detail object : Nat) : (s.post ds block st kind detail object).boot = s.boot := rfl
@[simp] theorem State.post_cfg (s : State) (ds : List Nat) (block : Nat) (st : Status) (kind detail object : Nat) : (s.post ds block st kind detail object).cfg = s.cfg := rfl
@[simp] theorem State.post_scr (s : State) (ds : List Nat) (block : Nat) (st : Status) (kind detail object : Nat) : (s.post ds block st kind detail object).scr = s.scr := rfl
@[simp] theorem State.post_noc (s : State) (ds : List Nat) (block : Nat) (st : Status) (kind detail object : Nat) : (s.post ds block st kind detail object).noc = s.noc := rfl
@[simp] theorem State.post_pci (s : State) (ds : List Nat) (block : Nat) (st : Status) (kind detail object : Nat) : (s.post ds block st kind detail object).pci = s.pci := rfl
@[simp] theorem State.post_mac (s : State) (ds : List Nat) (block : Nat) (st : Status) (kind detail object : Nat) : (s.post ds block st kind detail object).mac = s.mac := rfl
@[simp] theorem State.post_xcv (s : State) (ds : List Nat) (block : Nat) (st : Status) (kind detail object : Nat) : (s.post ds block st kind detail object).xcv = s.xcv := rfl
@[simp] theorem State.post_port (s : State) (ds : List Nat) (block : Nat) (st : Status) (kind detail object : Nat) : (s.post ds block st kind detail object).port = s.port := rfl
@[simp] theorem State.post_tbs (s : State) (ds : List Nat) (block : Nat) (st : Status) (kind detail object : Nat) : (s.post ds block st kind detail object).tbs = s.tbs := rfl
@[simp] theorem State.post_rfx (s : State) (ds : List Nat) (block : Nat) (st : Status) (kind detail object : Nat) : (s.post ds block st kind detail object).rfx = s.rfx := rfl
@[simp] theorem State.post_uan (s : State) (ds : List Nat) (block : Nat) (st : Status) (kind detail object : Nat) : (s.post ds block st kind detail object).uan = s.uan := rfl
@[simp] theorem State.post_nv (s : State) (ds : List Nat) (block : Nat) (st : Status) (kind detail object : Nat) : (s.post ds block st kind detail object).nv = s.nv := rfl
@[simp] theorem State.post_pwr (s : State) (ds : List Nat) (block : Nat) (st : Status) (kind detail object : Nat) : (s.post ds block st kind detail object).pwr = s.pwr := rfl
@[simp] theorem State.post_bst (s : State) (ds : List Nat) (block : Nat) (st : Status) (kind detail object : Nat) : (s.post ds block st kind detail object).bst = s.bst := rfl
@[simp] theorem State.post_lcs (s : State) (ds : List Nat) (block : Nat) (st : Status) (kind detail object : Nat) : (s.post ds block st kind detail object).lcs = s.lcs := rfl
@[simp] theorem State.post_clk (s : State) (ds : List Nat) (block : Nat) (st : Status) (kind detail object : Nat) : (s.post ds block st kind detail object).clk = s.clk := rfl
@[simp] theorem State.post_smn (s : State) (ds : List Nat) (block : Nat) (st : Status) (kind detail object : Nat) : (s.post ds block st kind detail object).smn = s.smn := rfl
@[simp] theorem State.post_fab (s : State) (ds : List Nat) (block : Nat) (st : Status) (kind detail object : Nat) : (s.post ds block st kind detail object).fab = s.fab := rfl

/-! ### policy -/

@[simp] theorem State.policy_pending (s : State) (st : Status) (loop item value : Nat) : (s.policy st loop item value).pending = s.pending := rfl
@[simp] theorem State.policy_uptime (s : State) (st : Status) (loop item value : Nat) : (s.policy st loop item value).uptime = s.uptime := rfl
@[simp] theorem State.policy_free (s : State) (st : Status) (loop item value : Nat) : (s.policy st loop item value).free = s.free := rfl
@[simp] theorem State.policy_out (s : State) (st : Status) (loop item value : Nat) : (s.policy st loop item value).out = s.out := rfl
@[simp] theorem State.policy_ten (s : State) (st : Status) (loop item value : Nat) : (s.policy st loop item value).ten = s.ten := rfl
@[simp] theorem State.policy_copies (s : State) (st : Status) (loop item value : Nat) : (s.policy st loop item value).copies = s.copies := rfl
@[simp] theorem State.policy_design (s : State) (st : Status) (loop item value : Nat) : (s.policy st loop item value).design = s.design := rfl
@[simp] theorem State.policy_boot (s : State) (st : Status) (loop item value : Nat) : (s.policy st loop item value).boot = s.boot := rfl
@[simp] theorem State.policy_cfg (s : State) (st : Status) (loop item value : Nat) : (s.policy st loop item value).cfg = s.cfg := rfl
@[simp] theorem State.policy_scr (s : State) (st : Status) (loop item value : Nat) : (s.policy st loop item value).scr = s.scr := rfl
@[simp] theorem State.policy_noc (s : State) (st : Status) (loop item value : Nat) : (s.policy st loop item value).noc = s.noc := rfl
@[simp] theorem State.policy_pci (s : State) (st : Status) (loop item value : Nat) : (s.policy st loop item value).pci = s.pci := rfl
@[simp] theorem State.policy_mac (s : State) (st : Status) (loop item value : Nat) : (s.policy st loop item value).mac = s.mac := rfl
@[simp] theorem State.policy_xcv (s : State) (st : Status) (loop item value : Nat) : (s.policy st loop item value).xcv = s.xcv := rfl
@[simp] theorem State.policy_port (s : State) (st : Status) (loop item value : Nat) : (s.policy st loop item value).port = s.port := rfl
@[simp] theorem State.policy_tbs (s : State) (st : Status) (loop item value : Nat) : (s.policy st loop item value).tbs = s.tbs := rfl
@[simp] theorem State.policy_rfx (s : State) (st : Status) (loop item value : Nat) : (s.policy st loop item value).rfx = s.rfx := rfl
@[simp] theorem State.policy_uan (s : State) (st : Status) (loop item value : Nat) : (s.policy st loop item value).uan = s.uan := rfl
@[simp] theorem State.policy_nv (s : State) (st : Status) (loop item value : Nat) : (s.policy st loop item value).nv = s.nv := rfl
@[simp] theorem State.policy_pwr (s : State) (st : Status) (loop item value : Nat) : (s.policy st loop item value).pwr = s.pwr := rfl
@[simp] theorem State.policy_bst (s : State) (st : Status) (loop item value : Nat) : (s.policy st loop item value).bst = s.bst := rfl
@[simp] theorem State.policy_lcs (s : State) (st : Status) (loop item value : Nat) : (s.policy st loop item value).lcs = s.lcs := rfl
@[simp] theorem State.policy_clk (s : State) (st : Status) (loop item value : Nat) : (s.policy st loop item value).clk = s.clk := rfl
@[simp] theorem State.policy_smn (s : State) (st : Status) (loop item value : Nat) : (s.policy st loop item value).smn = s.smn := rfl
@[simp] theorem State.policy_fab (s : State) (st : Status) (loop item value : Nat) : (s.policy st loop item value).fab = s.fab := rfl

/-! ### vector -/

@[simp] theorem State.vector_pending (s : State) (p v : Nat) : (s.vector p v).pending = s.pending := rfl
@[simp] theorem State.vector_uptime (s : State) (p v : Nat) : (s.vector p v).uptime = s.uptime := rfl
@[simp] theorem State.vector_free (s : State) (p v : Nat) : (s.vector p v).free = s.free := rfl
@[simp] theorem State.vector_ten (s : State) (p v : Nat) : (s.vector p v).ten = s.ten := rfl
@[simp] theorem State.vector_copies (s : State) (p v : Nat) : (s.vector p v).copies = s.copies := rfl
@[simp] theorem State.vector_design (s : State) (p v : Nat) : (s.vector p v).design = s.design := rfl
@[simp] theorem State.vector_boot (s : State) (p v : Nat) : (s.vector p v).boot = s.boot := rfl
@[simp] theorem State.vector_cfg (s : State) (p v : Nat) : (s.vector p v).cfg = s.cfg := rfl
@[simp] theorem State.vector_scr (s : State) (p v : Nat) : (s.vector p v).scr = s.scr := rfl
@[simp] theorem State.vector_noc (s : State) (p v : Nat) : (s.vector p v).noc = s.noc := rfl
@[simp] theorem State.vector_mac (s : State) (p v : Nat) : (s.vector p v).mac = s.mac := rfl
@[simp] theorem State.vector_xcv (s : State) (p v : Nat) : (s.vector p v).xcv = s.xcv := rfl
@[simp] theorem State.vector_port (s : State) (p v : Nat) : (s.vector p v).port = s.port := rfl
@[simp] theorem State.vector_tbs (s : State) (p v : Nat) : (s.vector p v).tbs = s.tbs := rfl
@[simp] theorem State.vector_rfx (s : State) (p v : Nat) : (s.vector p v).rfx = s.rfx := rfl
@[simp] theorem State.vector_uan (s : State) (p v : Nat) : (s.vector p v).uan = s.uan := rfl
@[simp] theorem State.vector_mc (s : State) (p v : Nat) : (s.vector p v).mc = s.mc := rfl
@[simp] theorem State.vector_nv (s : State) (p v : Nat) : (s.vector p v).nv = s.nv := rfl
@[simp] theorem State.vector_pwr (s : State) (p v : Nat) : (s.vector p v).pwr = s.pwr := rfl
@[simp] theorem State.vector_bst (s : State) (p v : Nat) : (s.vector p v).bst = s.bst := rfl
@[simp] theorem State.vector_lcs (s : State) (p v : Nat) : (s.vector p v).lcs = s.lcs := rfl
@[simp] theorem State.vector_clk (s : State) (p v : Nat) : (s.vector p v).clk = s.clk := rfl
@[simp] theorem State.vector_smn (s : State) (p v : Nat) : (s.vector p v).smn = s.smn := rfl
@[simp] theorem State.vector_fab (s : State) (p v : Nat) : (s.vector p v).fab = s.fab := rfl

/-! ### What an indexed update reads back as -/

@[simp] theorem State.portOf_setPort (s : State) (k : Nat) (g : Port) : (s.setPort k g).portOf k = g := SMap.get_set_self _ k g
@[simp] theorem State.macOf_setMac (s : State) (k : Nat) (g : Mac) : (s.setMac k g).macOf k = g := SMap.get_set_self _ k g
@[simp] theorem State.pciOf_setPci (s : State) (k : Nat) (g : Pci) : (s.setPci k g).pciOf k = g := SMap.get_set_self _ k g
@[simp] theorem State.mbxOf_setMbx (s : State) (k : Nat) (g : Mbx) : (s.setMbx k g).mbxOf k = g := SMap.get_set_self _ k g
@[simp] theorem State.loadOf_setLoad (s : State) (k : Nat) (g : Load) : (s.setLoad k g).loadOf k = g := SMap.get_set_self _ k g
@[simp] theorem State.frameOf_setFrame (s : State) (k : Nat) (g : Frame) : (s.setFrame k g).frameOf k = g := SMap.get_set_self _ k g
@[simp] theorem State.regionOf_setRegion (s : State) (k : Nat) (g : Region) : (s.setRegion k g).regionOf k = g := SMap.get_set_self _ k g
@[simp] theorem State.targetOf_setTarget (s : State) (k : Nat) (g : Target) : (s.setTarget k g).targetOf k = g := SMap.get_set_self _ k g
@[simp] theorem State.ringOf_setRing (s : State) (k : Nat) (g : Ring) : (s.setRing k g).ringOf k = g := SMap.get_set_self _ k g
@[simp] theorem State.tableOf_setTable (s : State) (k : Nat) (g : RTable) : (s.setTable k g).tableOf k = g := SMap.get_set_self _ k g
@[simp] theorem State.mapOf_setMap (s : State) (k : Nat) (g : MapEntry) : (s.setMap k g).mapOf k = g := SMap.get_set_self _ k g
@[simp] theorem State.pllOf_setPll (s : State) (k : Nat) (g : Pll) : (s.setPll k g).pllOf k = g := SMap.get_set_self _ k g
@[simp] theorem State.chanOf_setChan (s : State) (k : Nat) (g : Chan) : (s.setChan k g).chanOf k = g := SMap.get_set_self _ k g
@[simp] theorem State.bankOf_setBank (s : State) (k : Nat) (g : Bank) : (s.setBank k g).bankOf k = g := SMap.get_set_self _ k g
@[simp] theorem State.qOf_setQ (s : State) (k : Nat) (g : NvQ) : (s.setQ k g).qOf k = g := SMap.get_set_self _ k g
@[simp] theorem State.rangeOf_setRange (s : State) (k : Nat) (g : NvRange) : (s.setRange k g).rangeOf k = g := SMap.get_set_self _ k g
@[simp] theorem State.bandOf_setBand (s : State) (k : Nat) (g : BandP) : (s.setBand k g).bandOf k = g := SMap.get_set_self _ k g
@[simp] theorem State.railOf_setRail (s : State) (k : Nat) (g : Rail) : (s.setRail k g).railOf k = g := SMap.get_set_self _ k g
@[simp] theorem State.scrOf_setScr (s : State) (k : Nat) (g : ScrBand) : (s.setScr k g).scrOf k = g := SMap.get_set_self _ k g
@[simp] theorem State.quadOf_setQuad (s : State) (k : Nat) (g : Quad) : (s.setQuad k g).quadOf k = g := SMap.get_set_self _ k g
@[simp] theorem State.laneOf_setLane (s : State) (k : Nat) (g : Lane) : (s.setLane k g).laneOf k = g := SMap.get_set_self _ k g

end Sys2Proof.Machine
end

