-- ==== Sys2Proof/Laws/Facts.lean ====
section
/-! SUPPORT. What shared operations leave alone, where a fold hides it. -/
namespace Sys2Proof.Machine
open Sys2Proof

/-- A fold leaves a projection alone when each of its steps does. -/
theorem foldl_proj {σ α β : Type} (π : σ → β) {g : σ → α → σ} (hg : ∀ s a, π (g s a) = π s) :
    ∀ (l : List α) (s : σ), π (l.foldl g s) = π s
  | [], _ => rfl
  | a :: l, s => (foldl_proj π hg l (g s a)).trans (hg s a)

theorem linkMuzzles_proj {β : Type} (π : State → β) (h : ∀ s e m, π (s.setMap e m) = π s)
    (hm : ∀ s e c, π (muzzle s e c) = π s) (s : State) : π (linkMuzzles s) = π s := by
  unfold linkMuzzles
  refine foldl_proj π (fun u p => ?_) _ s
  dsimp only
  split
  · unfold linkMuzzle
    split
    · exact hm ..
    · rfl
  · split
    · exact h ..
    · rfl

theorem bootBase_proj {β : Type} (π : State → β) (h : ∀ s e m, π (State.setMap s e m) = π s)
    (hm : ∀ s e c, π (muzzle s e c) = π s) (hf : ∀ s k f, π (State.setFrame s k f) = π s) (cause m : Nat) (mv : List Nat)
    (s : State) : π (bootBase cause m mv s) = π { s with
      boot := { phase := .booting, cfgMode := if cause = 3 then s.boot.cfgMode else m % 4, t0 := s.uptime, vccio := mv,
                cause := cause, suppliesOk := true }
      tbs := bootTbs s cause
      noc := { s.noc with running := true }
      pwr := { s.pwr with latched := none, armed := false } } := by
  unfold bootBase
  exact (foldl_proj π (fun u b => hf ..) _ _).trans (linkMuzzles_proj π h hm _)

theorem post_boot (s : State) (ds : List Nat) (b : Nat) (st : Status) (k d o : Nat) :
    (s.post ds b st k d o).boot = s.boot := rfl

theorem postTries_boot (s : State) : (postTries s).boot = s.boot := by
  unfold postTries
  dsimp only
  exact foldl_proj (fun u : State => u.boot) (g := fun u r => u.post allDomains 0 .ok 3 r 0)
    (fun u r => post_boot u allDomains 0 .ok 3 r 0) s.pwr.wakeTry s

theorem wakeEnd_boot (s : State) : (wakeEnd s).boot = s.boot := by
  unfold wakeEnd
  split <;> rfl

/-! ## Taking a record -/

theorem nvRead_congr {s t : State} (h : t.nv = s.nv) : ∀ (n a : Nat), nvRead t a n = nvRead s a n
  | 0, _ => rfl
  | n + 1, a => by
    unfold nvRead nvByte nvAddr State.bankOf
    rw [h, nvRead_congr h n]

theorem slotRead_congr {s t : State} (h : t.nv = s.nv) (n g : Nat) : ∀ (k x : Nat), slotRead t n g x k = slotRead s n g x k
  | 0, _ => rfl
  | k + 1, x => by
    unfold slotRead nvByte nvAddr State.bankOf
    rw [h, slotRead_congr h n g k]

/-- What a record is compared with depends on the load and the store. -/
theorem recAt_start (s : State) (l : Load) (ws : List Word) : recAt s.start l ws = recAt s l ws := by
  unfold recAt nvWords
  have h1 := fun n g k x => slotRead_congr (s := s) (t := s.start) rfl n g k x
  have h2 := fun n a => nvRead_congr (s := s) (t := s.start) rfl n a
  simp only [h1, h2]

theorem withRec_ready {s : State} {ld : Nat} {ws : List Word} (h : recReady s ld ws) (f : Load → State → State) :
    withRec ld ws f s.start = settle ld (f (recTaken s ld ws) (recState s ld ws)) := by
  obtain ⟨h1, h2, h3, h4⟩ := h
  have e : s.start.loadOf ld = s.loadOf ld := rfl
  have e3 : recAt s.start (s.loadOf ld) ws = true := (recAt_start ..).trans h3
  have hn : ¬ (recTaken s ld ws).m.streamLen ≤ (recTaken s ld ws).bytesAt := Nat.not_le.mpr h4
  unfold withRec takeRec
  dsimp only [e]
  rw [if_neg (by simp [h1, h2, e3])]
  exact congrArg (settle ld) ((if_neg (fun h => hn (Nat.le_of_lt h))).trans (if_neg hn))

theorem takeRec_ready {s : State} {ld : Nat} {hdr : Word} (h : lastReady s ld hdr) (f : Load → State → State) :
    takeRec ld [hdr] f s.start = settle ld (f (recTaken s ld [hdr]) (recState s ld [hdr])) := by
  obtain ⟨h1, h2, h3, h4, -⟩ := h
  have e : s.start.loadOf ld = s.loadOf ld := rfl
  have e3 : recAt s.start (s.loadOf ld) [hdr] = true := (recAt_start ..).trans h3
  have hn : ¬ (recTaken s ld [hdr]).m.streamLen < (recTaken s ld [hdr]).bytesAt := Nat.not_lt.mpr (Nat.le_of_eq h4)
  unfold takeRec
  dsimp only [e]
  rw [if_neg (by simp [h1, h2, e3])]
  exact congrArg (settle ld) (if_neg hn)

theorem outerRec_ready {s : State} {ld : Nat} {ws : List Word} (h : outerReady s ld ws) (st : Status) (f : Load → State → State) :
    outerRec ld ws st f s.start = settle ld (f (recTaken s ld ws) (recState s ld ws)) := by
  obtain ⟨h1, h2, h3⟩ := h
  unfold outerRec
  rw [withRec_ready h1, if_neg (by simp [recTaken, h2]), if_neg (by simp [recTaken, h3])]

theorem plainRec_ready {s : State} {ld : Nat} {c : Bool} {hdr : Word} {body : List Word}
    (h : plainReady s ld hdr body c) (f : Load → State → State) :
    plainRec ld hdr body c f s.start = settle ld (f (plainTaken s ld hdr body) (plainState s ld hdr body)) := by
  obtain ⟨h1, h2, h3⟩ := h
  unfold plainRec
  rw [withRec_ready h1, if_neg (by simp only [recTaken]; omega), if_neg (by simp [recTaken, h3]),
    if_neg (by simp only [recTaken]; omega)]
  rfl

/-- A mailbox command whose entry is served. -/
theorem serve_ready {s : State} {d op : Nat} {iss : Issuer} (h : served s d op iss) (body : RunCmd → State → State) :
    serve d op iss body s.start = serveRest (body (frontEntry s d) (servedState s d)) := by
  obtain ⟨h1, h2, h3, h4, h5, h6⟩ := h
  have e1 : mayTake s.start d = true := h1
  have e2 : frontEntry s.start d = frontEntry s d := rfl
  have e3 : running? s.start ⟨d, (frontEntry s d).tag⟩ = none := h3
  have e4 : issuerOk s.start d iss = true := h4
  have e5 : preDone s.start op = preDone s op := rfl
  unfold serve
  dsimp only
  rw [e2, e1, h2, if_pos (by simp), e3, if_neg (by simp), e4, if_neg (by simp)]
  rw [if_neg (by rw [State.start_lcs, h5]; simp), if_neg (by rw [State.start_boot, e5]; rcases h6 with h | h <;> simp [h])]
  rfl

/-- A command whose effect is known. -/
theorem done_eq {f : State → State} {s u : State} (h : f s.start = u) : done f s = .next (interrupts s u) := by
  subst h; rfl

/-- A mailbox command whose effect is known. -/
theorem serve_eq {s u : State} {d op : Nat} {iss : Issuer} {body : RunCmd → State → State} (h : served s d op iss)
    (hb : body (frontEntry s d) (servedState s d) = u) : done (serve d op iss body) s = .next (answered s u) := by
  subst hb
  exact done_eq (serve_ready h body)

end Sys2Proof.Machine
end

