-- ==== Sys2Proof/Laws/Routes.lean ====
section
/-! SUPPORT. The routes at reset, which go along the row first and then along the column, reach every router, make no
forbidden turn and pass through every router, so that no update that leaves them is refused. -/
namespace Sys2Proof.Machine
open Sys2Proof

/-- Every entry of the route tables is 0. -/
def PlainRoutes (s : State) : Prop := ∀ k, SMap.get dNat s.noc.routes k = 0

theorem routeOut_plain {s : State} (h : PlainRoutes s) (r d : Nat) :
    routeOut s r d = if r % 8 < d % 8 then 2 else if d % 8 < r % 8 then 3 else if r < d then 0 else 1 := by
  unfold routeOut; rw [h]; rfl

theorem trace_step {s : State} {n r d o : Nat} {t : List (Nat × Nat)} (hr : r ≠ d) (ho : routeOut s r d = o)
    (hm : offMesh r o = false) (ht : trace s n (routerStep r o) d = some t) : trace s (n + 1) r d = some ((r, o) :: t) := by
  unfold trace
  rw [if_neg hr, ho]; dsimp only; rw [hm, ht]
  rfl

theorem trace_column {s : State} (h : PlainRoutes s) :
    ∀ n r d, r < 128 → d < 128 → r % 8 = d % 8 → (r / 8 - d / 8) + (d / 8 - r / 8) < n →
      ∃ t, trace s n r d = some t ∧ ∀ x ∈ t, x.2 = 0 ∨ x.2 = 1
  | 0, _, _, _, _, _, hn => absurd hn (by omega)
  | n + 1, r, d, hr, hd, hx, hn => by
    by_cases e : r = d
    · subst e; exact ⟨[], by unfold trace; rw [if_pos rfl], by simp⟩
    · by_cases u : r < d
      · obtain ⟨t, ht, ha⟩ := trace_column h n (r + 8) d (by omega) hd (by omega) (by omega)
        refine ⟨_, trace_step e (o := 0) ?_ ?_ ht, ?_⟩
        · rw [routeOut_plain h, if_neg (by omega), if_neg (by omega), if_pos u]
        · unfold offMesh; simp; omega
        · simpa using ha
      · obtain ⟨t, ht, ha⟩ := trace_column h n (r - 8) d (by omega) hd (by omega) (by omega)
        refine ⟨_, trace_step e (o := 1) ?_ ?_ ht, ?_⟩
        · rw [routeOut_plain h, if_neg (by omega), if_neg (by omega), if_neg u]
        · unfold offMesh; simp; omega
        · simpa using ha

theorem badTurn_column : ∀ t : List (Nat × Nat), (∀ x ∈ t, x.2 = 0 ∨ x.2 = 1) → badTurn t = false
  | [], _ => rfl
  | [_], _ => rfl
  | a :: b :: r, h => by
    unfold badTurn
    rw [badTurn_column (b :: r) fun x hx => h x (List.mem_cons_of_mem _ hx)]
    have := h b (by simp)
    simp; intro _; omega

theorem badTurn_row {r o : Nat} {t : List (Nat × Nat)} (ho : o = 2 ∨ o = 3) (h : badTurn t = false) :
    badTurn ((r, o) :: t) = false := by
  cases t with
  | nil => rfl
  | cons b t => unfold badTurn; rw [h]; simp; omega

theorem trace_plain {s : State} (h : PlainRoutes s) :
    ∀ n r d, r < 128 → d < 128 → (r % 8 - d % 8) + (d % 8 - r % 8) + ((r / 8 - d / 8) + (d / 8 - r / 8)) < n →
      ∃ t, trace s n r d = some t ∧ badTurn t = false
  | 0, _, _, _, _, hn => absurd hn (by omega)
  | n + 1, r, d, hr, hd, hn => by
    by_cases x : r % 8 = d % 8
    · obtain ⟨t, ht, ha⟩ := trace_column h (n + 1) r d hr hd x (by omega)
      exact ⟨t, ht, badTurn_column t ha⟩
    · by_cases u : r % 8 < d % 8
      · obtain ⟨t, ht, ha⟩ := trace_plain h n (r + 1) d (by omega) hd (by omega)
        refine ⟨_, trace_step (by omega) (o := 2) ?_ ?_ ht, badTurn_row (.inl rfl) ha⟩
        · rw [routeOut_plain h, if_pos u]
        · unfold offMesh; simp; omega
      · obtain ⟨t, ht, ha⟩ := trace_plain h n (r - 1) d (by omega) hd (by omega)
        refine ⟨_, trace_step (by omega) (o := 3) ?_ ?_ ht, badTurn_row (.inr rfl) ha⟩
        · rw [routeOut_plain h, if_neg u, if_pos (by omega)]
        · unfold offMesh; simp; omega

/-- Two routers between which a plain route passes through r. -/
def passes (r : Nat) : Nat × Nat :=
  if r % 8 = 0 then (r + 1, if r < 64 then r + 8 else r - 8)
  else if r % 8 = 7 then (r - 1, if r < 64 then r + 8 else r - 8) else (r - 1, r + 1)

theorem trace_passes {s : State} (h : PlainRoutes s) (r : Nat) (hr : r < 128) :
    ∃ t, trace s 128 (passes r).1 (passes r).2 = some t ∧ t.any (fun x => x.1 == r) = true := by
  have nil (n : Nat) : trace s (n + 1) (passes r).2 (passes r).2 = some [] := by unfold trace; rw [if_pos rfl]
  have two {a d o p : Nat} (ha : a ≠ d) (hrd : r ≠ d) (h1 : routeOut s a d = o) (m1 : offMesh a o = false)
      (s1 : routerStep a o = r) (h2 : routeOut s r d = p) (m2 : offMesh r p = false) (s2 : routerStep r p = d)
      (hn : trace s 126 d d = some []) : ∃ t, trace s 128 a d = some t ∧ t.any (fun x => x.1 == r) = true :=
    ⟨_, trace_step ha h1 m1 (by rw [s1]; exact trace_step hrd h2 m2 (by rw [s2]; exact hn)), by simp⟩
  have out := routeOut_plain h
  unfold passes at nil ⊢
  split at nil
  · rename_i e
    rw [if_pos e]
    split at nil
    · rename_i u
      rw [if_pos u]
      refine two (o := 3) (p := 0) (by dsimp only; omega) (by dsimp only; omega) ?_ ?_ ?_ ?_ ?_ ?_ (nil 125)
      · rw [out, if_neg (by dsimp only; omega), if_pos (by dsimp only; omega)]
      · unfold offMesh; simp; omega
      · show r + 1 - 1 = r; omega
      · rw [out, if_neg (by dsimp only; omega), if_neg (by dsimp only; omega), if_pos (by dsimp only; omega)]
      · unfold offMesh; simp; omega
      · rfl
    · rename_i u
      rw [if_neg u]
      refine two (o := 3) (p := 1) (by dsimp only; omega) (by dsimp only; omega) ?_ ?_ ?_ ?_ ?_ ?_ (nil 125)
      · rw [out, if_neg (by dsimp only; omega), if_pos (by dsimp only; omega)]
      · unfold offMesh; simp; omega
      · show r + 1 - 1 = r; omega
      · rw [out, if_neg (by dsimp only; omega), if_neg (by dsimp only; omega), if_neg (by dsimp only; omega)]
      · unfold offMesh; simp; omega
      · rfl
  · split at nil
    · rename_i e0 e
      rw [if_neg e0, if_pos e]
      split at nil
      · rename_i u
        rw [if_pos u]
        refine two (o := 2) (p := 0) (by dsimp only; omega) (by dsimp only; omega) ?_ ?_ ?_ ?_ ?_ ?_ (nil 125)
        · rw [out, if_pos (by dsimp only; omega)]
        · unfold offMesh; simp; omega
        · show r - 1 + 1 = r; omega
        · rw [out, if_neg (by dsimp only; omega), if_neg (by dsimp only; omega), if_pos (by dsimp only; omega)]
        · unfold offMesh; simp; omega
        · rfl
      · rename_i u
        rw [if_neg u]
        refine two (o := 2) (p := 1) (by dsimp only; omega) (by dsimp only; omega) ?_ ?_ ?_ ?_ ?_ ?_ (nil 125)
        · rw [out, if_pos (by dsimp only; omega)]
        · unfold offMesh; simp; omega
        · show r - 1 + 1 = r; omega
        · rw [out, if_neg (by dsimp only; omega), if_neg (by dsimp only; omega), if_neg (by dsimp only; omega)]
        · unfold offMesh; simp; omega
        · rfl
    · rename_i e0 e
      rw [if_neg e0, if_neg e]
      refine two (o := 2) (p := 2) (by dsimp only; omega) (by dsimp only; omega) ?_ ?_ ?_ ?_ ?_ ?_ (nil 125)
      · rw [out, if_pos (by dsimp only; omega)]
      · unfold offMesh; simp; omega
      · show r - 1 + 1 = r; omega
      · rw [out, if_pos (by dsimp only; omega)]
      · unfold offMesh; simp; omega
      · rfl

theorem passes_lt (r : Nat) (hr : r < 128) :
    (passes r).1 < 128 ∧ (passes r).2 < 128 ∧ (passes r).1 ≠ r ∧ (passes r).2 ≠ r ∧ (passes r).1 ≠ (passes r).2 := by
  unfold passes; (repeat' split) <;> (dsimp only; omega)

theorem withdrawn_plain {s : State} (h : PlainRoutes s) : withdrawn s = [] := by
  unfold withdrawn
  rw [List.filter_eq_nil_iff]
  intro r hr
  rw [List.mem_range] at hr
  obtain ⟨t, ht, hp⟩ := trace_passes h r hr
  obtain ⟨l1, l2, n1, n2, n3⟩ := passes_lt r hr
  intro ha
  rw [List.all_eq_true] at ha
  have hb := ha _ (List.mem_range.mpr l1)
  rw [List.all_eq_true] at hb
  have hc := hb _ (List.mem_range.mpr l2)
  rw [ht] at hc
  dsimp only at hc
  rw [hp] at hc
  simp [n1, n2, n3] at hc

/-- With the routes of reset no route update is refused. -/
theorem routeRefusal_plain {s : State} (h : PlainRoutes s) : routeRefusal s = none := by
  unfold routeRefusal
  dsimp only
  rw [withdrawn_plain h, if_neg (by simp), if_neg (by simp), if_neg]
  rw [Bool.not_eq_true, List.any_eq_false]
  intro a ha
  rw [Bool.not_eq_true, List.any_eq_false]
  intro b hb
  simp only [List.mem_filter, List.mem_range] at ha hb
  obtain ⟨t, ht, hg⟩ := trace_plain h 128 a b ha.1 hb.1 (by omega)
  rw [ht]
  simp [hg]

end Sys2Proof.Machine
end

