-- ==== Sys2Proof/Laws/Rows.lean ====
section
/-! SUPPORT. What the next state of each command keeps: one lemma per row of the command table. -/
namespace Sys2Proof.Machine
open Sys2Proof

theorem execSupplyLoss_evolves {s s' : State} (hn : execSupplyLoss s = .next s') : Evolves s s' := by
  unfold execSupplyLoss at hn; exact done_evolves (f := supplyLoss) (fun _ => supplyLoss_evolves ..) hn

theorem execBootStart_evolves (cfgMode : Nat) (romOk : Bool) (vccioMv : List Nat) {s s' : State} (hn : execBootStart cfgMode romOk vccioMv s = .next s') : Evolves s s' := by
  unfold execBootStart at hn; exact done_evolves (f := (bootStart cfgMode romOk vccioMv)) (fun _ => bootStart_evolves ..) hn

theorem execWarmReset_keeps (lowNs : Nat) {s s' : State} (hn : execWarmReset lowNs s = .next s') : Keeps s s' := by
  unfold execWarmReset at hn; exact done_keeps (f := (warmReset lowNs)) (fun _ => warmReset_keeps ..) hn

theorem execTapReset_keeps {s s' : State} (hn : execTapReset s = .next s') : Keeps s s' := by
  unfold execTapReset at hn; exact done_keeps (f := tapReset) (fun _ => tapReset_keeps ..) hn

theorem execStreamSync_keeps (ld : Nat) (ignored : List Word) {s s' : State} (hn : execStreamSync ld ignored s = .next s') : Keeps s s' := by
  unfold execStreamSync at hn; exact done_keeps (f := (streamSync ld ignored)) (fun _ => streamSync_keeps ..) hn

theorem execManifestVerify_keeps (ld : Nat) (bytes : List Byte) {s s' : State} (hn : execManifestVerify ld bytes s = .next s') : Keeps s s' := by
  unfold execManifestVerify at hn; exact done_keeps (f := (manifestVerify ld bytes)) (fun _ => manifestVerify_keeps ..) hn

theorem execNop_keeps (ld : Nat) (hdr : Word) {s s' : State} (hn : execNop ld hdr s = .next s') : Keeps s s' := by
  unfold execNop at hn; exact done_keeps (f := (nop ld hdr)) (fun _ => nop_keeps ..) hn

theorem execFar_keeps (ld arg : Nat) (w : Word) {s s' : State} (hn : execFar ld arg w s = .next s') : Keeps s s' := by
  unfold execFar at hn; exact done_keeps (f := (far ld arg w)) (fun _ => far_keeps ..) hn

theorem execFdata_keeps (ld arg : Nat) (body : List Word) {s s' : State} (hn : execFdata ld arg body s = .next s') : Keeps s s' := by
  unfold execFdata at hn; exact done_keeps (f := (fdata ld arg body)) (fun _ => fdata_keeps ..) hn

theorem execSetreg_keeps (ld arg : Nat) (w : Word) {s s' : State} (hn : execSetreg ld arg w s = .next s') : Keeps s s' := by
  unfold execSetreg at hn; exact done_keeps (f := (setreg ld arg w)) (fun _ => setreg_keeps ..) hn

theorem execRoll_keeps (ld arg : Nat) (body : List Word) {s s' : State} (hn : execRoll ld arg body s = .next s') : Keeps s s' := by
  unfold execRoll at hn; exact done_keeps (f := (roll ld arg body)) (fun _ => roll_keeps ..) hn

theorem execChunk_keeps (ld arg : Nat) (body : List Word) {s s' : State} (hn : execChunk ld arg body s = .next s') : Keeps s s' := by
  unfold execChunk at hn; exact done_keeps (f := (chunk ld arg body)) (fun _ => chunk_keeps ..) hn

theorem execTag_keeps (ld arg : Nat) (body : List Word) {s s' : State} (hn : execTag ld arg body s = .next s') : Keeps s s' := by
  unfold execTag at hn; exact done_keeps (f := (tag ld arg body)) (fun _ => tag_keeps ..) hn

theorem execCheck_keeps (ld arg : Nat) (w : Word) {s s' : State} (hn : execCheck ld arg w s = .next s') : Keeps s s' := by
  unfold execCheck at hn; exact done_keeps (f := (check ld arg w)) (fun _ => check_keeps ..) hn

theorem execStartup_keeps (ld arg : Nat) {s s' : State} (hn : execStartup ld arg s = .next s') : Keeps s s' := by
  unfold execStartup at hn; exact done_keeps (f := (startup ld arg)) (fun _ => startup_keeps ..) hn

theorem execRegion_keeps (ld arg : Nat) (body : List Word) {s s' : State} (hn : execRegion ld arg body s = .next s') : Keeps s s' := by
  unfold execRegion at hn; exact done_keeps (f := (region ld arg body)) (fun _ => region_keeps ..) hn

theorem execSigs_keeps (ld arg : Nat) (body : List Word) {s s' : State} (hn : execSigs ld arg body s = .next s') : Keeps s s' := by
  unfold execSigs at hn; exact done_keeps (f := (sigs ld arg body)) (fun _ => sigs_keeps ..) hn

theorem execDesync_keeps (ld arg : Nat) {s s' : State} (hn : execDesync ld arg s = .next s') : Keeps s s' := by
  unfold execDesync at hn; exact done_keeps (f := (desync ld arg)) (fun _ => desync_keeps ..) hn

theorem execStreamWrite_keeps (bytes : List Byte) {s s' : State} (hn : execStreamWrite bytes s = .next s') : Keeps s s' := by
  unfold execStreamWrite at hn; exact done_keeps (f := (streamWrite bytes)) (fun _ => streamWrite_keeps ..) hn

theorem execStatusRead_keeps {s s' : State} (hn : execStatusRead s = .next s') : Keeps s s' := by
  unfold execStatusRead at hn; refine done_keeps (fun u => ?_) hn
  repeat' with_reducible first
    | exact Keeps.refl _ | intro _ | apply Keeps.step (State.emit_keeps ..)

theorem execWinWrite_keeps (addr : Nat) (ws : List Word) {s s' : State} (hn : execWinWrite addr ws s = .next s') : Keeps s s' := by
  unfold execWinWrite at hn; exact done_keeps (f := (winWrite addr ws)) (fun _ => winWrite_keeps ..) hn

theorem execWinRead_keeps (addr n : Nat) {s s' : State} (hn : execWinRead addr n s = .next s') : Keeps s s' := by
  unfold execWinRead at hn; exact done_keeps (f := (winRead addr n)) (fun _ => winRead_keeps ..) hn

theorem execSppWord_keeps (w : Word) {s s' : State} (hn : execSppWord w s = .next s') : Keeps s s' := by
  unfold execSppWord at hn; exact done_keeps (f := (sppWord w)) (fun _ => sppWord_keeps ..) hn

theorem execStartupPhase_keeps {s s' : State} (hn : execStartupPhase s = .next s') : Keeps s s' := by
  unfold execStartupPhase at hn; exact done_keeps (f := startupPhase) (fun _ => startupPhase_keeps ..) hn

theorem execWaitEventComplete_keeps {s s' : State} (hn : execWaitEventComplete s = .next s') : Keeps s s' := by
  unfold execWaitEventComplete at hn; exact done_keeps (f := waitEventComplete) (fun _ => waitEventComplete_keeps ..) hn

theorem execIcpBeat_keeps (icp : Nat) (data : BitVec 128) (sop eop : Bool) (region : Nat) {s s' : State} (hn : execIcpBeat icp data sop eop region s = .next s') : Keeps s s' := by
  unfold execIcpBeat at hn; exact done_keeps (f := (icpBeat icp data sop eop region)) (fun _ => icpBeat_keeps ..) hn

theorem execDirectLoadWait_keeps (ld : Nat) {s s' : State} (hn : execDirectLoadWait ld s = .next s') : Keeps s s' := by
  unfold execDirectLoadWait at hn; exact done_keeps (f := (directLoadWait ld)) (fun _ => directLoadWait_keeps ..) hn

theorem execPrepareSwap_keeps (d : Nat) {s s' : State} (hn : execPrepareSwap d s = .next s') : Keeps s s' := by
  unfold execPrepareSwap at hn; exact done_keeps (f := (prepareSwap d)) (fun _ => prepareSwap_keeps ..) hn

theorem execVerifyDone_keeps (target : Nat) {s s' : State} (hn : execVerifyDone target s = .next s') : Keeps s s' := by
  unfold execVerifyDone at hn; exact done_keeps (f := (verifyDone target)) (fun _ => verifyDone_keeps ..) hn

theorem execCommitSwap_keeps (d : Nat) {s s' : State} (hn : execCommitSwap d s = .next s') : Keeps s s' := by
  unfold execCommitSwap at hn; exact done_keeps (f := (commitSwap d)) (fun _ => commitSwap_keeps ..) hn

theorem execSwapDecision_keeps (target : Nat) (alive : List Nat) {s s' : State} (hn : execSwapDecision target alive s = .next s') : Keeps s s' := by
  unfold execSwapDecision at hn; exact done_keeps (f := (swapDecision target alive)) (fun _ => swapDecision_keeps ..) hn

theorem execSwitchingEdge_keeps (target region : Nat) {s s' : State} (hn : execSwitchingEdge target region s = .next s') : Keeps s s' := by
  unfold execSwitchingEdge at hn; exact done_keeps (f := (switchingEdge target region)) (fun _ => switchingEdge_keeps ..) hn

theorem execSwapCycleEnd_keeps (target region : Nat) {s s' : State} (hn : execSwapCycleEnd target region s = .next s') : Keeps s s' := by
  unfold execSwapCycleEnd at hn; exact done_keeps (f := (swapCycleEnd target region)) (fun _ => swapCycleEnd_keeps ..) hn

theorem execCommitTimeout_keeps (target : Nat) {s s' : State} (hn : execCommitTimeout target s = .next s') : Keeps s s' := by
  unfold execCommitTimeout at hn; exact done_keeps (f := (commitTimeout target)) (fun _ => commitTimeout_keeps ..) hn

theorem execAbortSwap_keeps (d : Nat) {s s' : State} (hn : execAbortSwap d s = .next s') : Keeps s s' := by
  unfold execAbortSwap at hn; exact done_keeps (f := (abortSwap d)) (fun _ => abortSwap_keeps ..) hn

theorem execScrubPassStart_keeps (band : Nat) (path1 path2 : Bool) {s s' : State} (hn : execScrubPassStart band path1 path2 s = .next s') : Keeps s s' := by
  unfold execScrubPassStart at hn; exact done_keeps (f := (scrubPassStart band path1 path2)) (fun _ => scrubPassStart_keeps ..) hn

theorem execFrameCheck_keeps (band : Nat) (upsets : List (Nat × Bool × Nat)) (tmr : Nat) (path1 path2 : Bool) {s s' : State} (hn : execFrameCheck band upsets tmr path1 path2 s = .next s') : Keeps s s' := by
  unfold execFrameCheck at hn; exact done_keeps (f := (frameCheck band upsets tmr path1 path2)) (fun _ => frameCheck_keeps ..) hn

theorem execFrameReload_keeps (far : Nat) (plane : Bool) (r : ReloadRead) (path1 path2 : Bool) {s s' : State} (hn : execFrameReload far plane r path1 path2 s = .next s') : Keeps s s' := by
  unfold execFrameReload at hn; exact done_keeps (f := (frameReload far plane r path1 path2)) (fun _ => frameReload_keeps ..) hn

theorem execMicrocodeParityError_keeps {s s' : State} (hn : execMicrocodeParityError s = .next s') : Keeps s s' := by
  unfold execMicrocodeParityError at hn; exact done_keeps (f := microcodeParityError) (fun _ => microcodeParityError_keeps ..) hn

theorem execActivePeriodDouble_keeps {s s' : State} (hn : execActivePeriodDouble s = .next s') : Keeps s s' := by
  unfold execActivePeriodDouble at hn; exact done_keeps (f := activePeriodDouble) (fun _ => activePeriodDouble_keeps ..) hn

theorem execNiInject_keeps (ep : Nat) (rsp : Bool) (flits : List (BitVec 256)) {s s' : State} (hn : execNiInject ep rsp flits s = .next s') : Keeps s s' := by
  unfold execNiInject at hn; exact done_keeps (f := (niInject ep rsp flits)) (fun _ => niInject_keeps ..) hn

theorem execRd_keeps (p : Pkt) {s s' : State} (hn : execRd p s = .next s') : Keeps s s' := by
  unfold execRd at hn; exact done_keeps (f := (arrive .rd p)) (fun _ => arrive_keeps ..) hn

theorem execWrNp_keeps (p : Pkt) {s s' : State} (hn : execWrNp p s = .next s') : Keeps s s' := by
  unfold execWrNp at hn; exact done_keeps (f := (arrive .wrNp p)) (fun _ => arrive_keeps ..) hn

theorem execWrP_keeps (p : Pkt) {s s' : State} (hn : execWrP p s = .next s') : Keeps s s' := by
  unfold execWrP at hn; exact done_keeps (f := (arrive .wrP p)) (fun _ => arrive_keeps ..) hn

theorem execMcw_keeps (p : Pkt) {s s' : State} (hn : execMcw p s = .next s') : Keeps s s' := by
  unfold execMcw at hn; exact done_keeps (f := (mcw p)) (fun _ => mcw_keeps ..) hn

theorem execRdRsp_keeps (p : Pkt) {s s' : State} (hn : execRdRsp p s = .next s') : Keeps s s' := by
  unfold execRdRsp at hn; refine done_keeps (fun u => ?_) hn
  repeat' with_reducible first
    | exact Keeps.refl _ | intro _ | apply Keeps.step (response_keeps ..) | split

theorem execWrRsp_keeps (p : Pkt) {s s' : State} (hn : execWrRsp p s = .next s') : Keeps s s' := by
  unfold execWrRsp at hn; refine done_keeps (fun u => ?_) hn
  repeat' with_reducible first
    | exact Keeps.refl _ | intro _ | apply Keeps.step (response_keeps ..) | split

theorem execMgRd_keeps (p : Pkt) {s s' : State} (hn : execMgRd p s = .next s') : Keeps s s' := by
  unfold execMgRd at hn; exact done_keeps (f := (manage .mgRd p)) (fun _ => manage_keeps ..) hn

theorem execMgWr_keeps (p : Pkt) {s s' : State} (hn : execMgWr p s = .next s') : Keeps s s' := by
  unfold execMgWr at hn; exact done_keeps (f := (manage .mgWr p)) (fun _ => manage_keeps ..) hn

theorem execMgRsp_keeps (p : Pkt) {s s' : State} (hn : execMgRsp p s = .next s') : Keeps s s' := by
  unfold execMgRsp at hn; exact done_keeps (f := (mgRsp p)) (fun _ => mgRsp_keeps ..) hn

theorem execNocTimeout_keeps (ep tag : Nat) {s s' : State} (hn : execNocTimeout ep tag s = .next s') : Keeps s s' := by
  unfold execNocTimeout at hn; exact done_keeps (f := (nocTimeout ep tag)) (fun _ => nocTimeout_keeps ..) hn

theorem execEjectionStall_keeps (ep : Nat) {s s' : State} (hn : execEjectionStall ep s = .next s') : Keeps s s' := by
  unfold execEjectionStall at hn; exact done_keeps (f := (ejectionStall ep)) (fun _ => ejectionStall_keeps ..) hn

theorem execRouteDrainDone_keeps {s s' : State} (hn : execRouteDrainDone s = .next s') : Keeps s s' := by
  unfold execRouteDrainDone at hn; exact done_keeps (f := routeDrainDone) (fun _ => routeDrainDone_keeps ..) hn

theorem execRouteUpdateTimeout_keeps {s s' : State} (hn : execRouteUpdateTimeout s = .next s') : Keeps s s' := by
  unfold execRouteUpdateTimeout at hn; exact done_keeps (f := routeUpdateTimeout) (fun _ => routeUpdateTimeout_keeps ..) hn

theorem execRtrClear_keeps (acc : Accessor) (v : Word) {s s' : State} (hn : execRtrClear acc v s = .next s') : Keeps s s' := by
  unfold execRtrClear at hn; exact done_keeps (f := (rtrClear acc v)) (fun _ => rtrClear_keeps ..) hn

theorem execAcceptedEdge_keeps (port : Nat) (level : Bool) (word : BitVec 8) {s s' : State} (hn : execAcceptedEdge port level word s = .next s') : Keeps s s' := by
  unfold execAcceptedEdge at hn; exact done_keeps (f := (acceptedEdge port level word)) (fun _ => acceptedEdge_keeps ..) hn

theorem execTsLoRead_keeps (acc : Accessor) {s s' : State} (hn : execTsLoRead acc s = .next s') : Keeps s s' := by
  unfold execTsLoRead at hn; refine done_keeps (fun u => ?_) hn
  repeat' with_reducible first
    | exact Keeps.refl _ | intro _ | apply Keeps.step (State.emit_keeps ..) | apply Keeps.step (fpeRead_keeps ..)

theorem execSchedPush_keeps (acc : Accessor) (v : Word) {s s' : State} (hn : execSchedPush acc v s = .next s') : Keeps s s' := by
  unfold execSchedPush at hn; refine done_keeps (fun u => ?_) hn
  repeat' with_reducible first
    | exact Keeps.refl _ | intro _ | apply Keeps.step (fpeWrite_keeps ..) | split

theorem execSchedFlush_keeps (acc : Accessor) (v : Word) {s s' : State} (hn : execSchedFlush acc v s = .next s') : Keeps s s' := by
  unfold execSchedFlush at hn; refine done_keeps (fun u => ?_) hn
  repeat' with_reducible first
    | exact Keeps.refl _ | intro _ | apply Keeps.step (fpeWrite_keeps ..) | split

theorem execScheduleApply_keeps (port : Nat) {s s' : State} (hn : execScheduleApply port s = .next s') : Keeps s s' := by
  unfold execScheduleApply at hn; exact done_keeps (f := (scheduleApply port)) (fun _ => scheduleApply_keeps ..) hn

theorem execModeChange_keeps (acc : Accessor) (v : Word) {s s' : State} (hn : execModeChange acc v s = .next s') : Keeps s s' := by
  unfold execModeChange at hn; exact done_keeps (f := (fpeWrite acc 0x04 v)) (fun _ => fpeWrite_keeps ..) hn

theorem execLevelWrite_keeps (acc : Accessor) (v : Word) {s s' : State} (hn : execLevelWrite acc v s = .next s') : Keeps s s' := by
  unfold execLevelWrite at hn; exact done_keeps (f := (fpeWrite acc 0x0C v)) (fun _ => fpeWrite_keeps ..) hn

theorem execSafeClear_keeps (acc : Accessor) (v : Word) {s s' : State} (hn : execSafeClear acc v s = .next s') : Keeps s s' := by
  unfold execSafeClear at hn; refine done_keeps (fun u => ?_) hn
  repeat' with_reducible first
    | exact Keeps.refl _ | intro _ | apply Keeps.step (fpeWrite_keeps ..) | split

theorem execPwmEdge_keeps (port : Nat) {s s' : State} (hn : execPwmEdge port s = .next s') : Keeps s s' := by
  unfold execPwmEdge at hn; exact done_keeps (f := (pwmEdge port)) (fun _ => pwmEdge_keeps ..) hn

theorem execQuadTransition_keeps (port : Nat) {s s' : State} (hn : execQuadTransition port s = .next s') : Keeps s s' := by
  unfold execQuadTransition at hn; exact done_keeps (f := (quadTransition port)) (fun _ => quadTransition_keeps ..) hn

theorem execPairDataWrite_keeps (acc : Accessor) (v : Word) {s s' : State} (hn : execPairDataWrite acc v s = .next s') : Keeps s s' := by
  unfold execPairDataWrite at hn; exact done_keeps (f := (fpeWrite acc 0x38 v)) (fun _ => fpeWrite_keeps ..) hn

theorem execPairDataRead_keeps (acc : Accessor) {s s' : State} (hn : execPairDataRead acc s = .next s') : Keeps s s' := by
  unfold execPairDataRead at hn; refine done_keeps (fun u => ?_) hn
  repeat' with_reducible first
    | exact Keeps.refl _ | intro _ | apply Keeps.step (State.emit_keeps ..) | apply Keeps.step (fpeRead_keeps ..)

theorem execEncoderFrame_keeps (port : Nat) {s s' : State} (hn : execEncoderFrame port s = .next s') : Keeps s s' := by
  unfold execEncoderFrame at hn; exact done_keeps (f := (encoderFrame port)) (fun _ => encoderFrame_keeps ..) hn

theorem execEncoderFrameEnd_keeps (port : Nat) {s s' : State} (hn : execEncoderFrameEnd port s = .next s') : Keeps s s' := by
  unfold execEncoderFrameEnd at hn; exact done_keeps (f := (encoderFrameEnd port)) (fun _ => encoderFrameEnd_keeps ..) hn

theorem execUartRxByte_keeps (port : Nat) {s s' : State} (hn : execUartRxByte port s = .next s') : Keeps s s' := by
  unfold execUartRxByte at hn; exact done_keeps (f := (uartRxByte port)) (fun _ => uartRxByte_keeps ..) hn

theorem execUartTxByte_keeps (port : Nat) {s s' : State} (hn : execUartTxByte port s = .next s') : Keeps s s' := by
  unfold execUartTxByte at hn; exact done_keeps (f := (uartTxByte port)) (fun _ => uartTxByte_keeps ..) hn

theorem execRefLost_keeps {s s' : State} (hn : execRefLost s = .next s') : Keeps s s' := by
  unfold execRefLost at hn; exact done_keeps (f := refLost) (fun _ => refLost_keeps ..) hn

theorem execRefReturn_keeps {s s' : State} (hn : execRefReturn s = .next s') : Keeps s s' := by
  unfold execRefReturn at hn; exact done_keeps (f := refReturn) (fun _ => refReturn_keeps ..) hn

theorem execPpsEdge_keeps {s s' : State} (hn : execPpsEdge s = .next s') : Keeps s s' := by
  unfold execPpsEdge at hn; exact done_keeps (f := ppsEdge) (fun _ => ppsEdge_keeps ..) hn

theorem execSyncMessage_keeps (macPort gmNs : Nat) (rate : Int) {s s' : State} (hn : execSyncMessage macPort gmNs rate s = .next s') : Keeps s s' := by
  unfold execSyncMessage at hn; exact done_keeps (f := (syncMessage macPort gmNs rate)) (fun _ => syncMessage_keeps ..) hn

theorem execPpsTimeout_keeps {s s' : State} (hn : execPpsTimeout s = .next s') : Keeps s s' := by
  unfold execPpsTimeout at hn; exact done_keeps (f := ppsTimeout) (fun _ => ppsTimeout_keeps ..) hn

theorem execSyncTimeout_keeps {s s' : State} (hn : execSyncTimeout s = .next s') : Keeps s s' := by
  unfold execSyncTimeout at hn; exact done_keeps (f := syncTimeout) (fun _ => syncTimeout_keeps ..) hn

theorem execNowLoRead_keeps (acc : Accessor) {s s' : State} (hn : execNowLoRead acc s = .next s') : Keeps s s' := by
  unfold execNowLoRead at hn; refine done_keeps (fun u => ?_) hn
  repeat' with_reducible first
    | exact Keeps.refl _ | intro _ | apply Keeps.step (State.emit_keeps ..) | apply Keeps.step (nowLo_keeps ..)

theorem execPpsOutPulse_keeps {s s' : State} (hn : execPpsOutPulse s = .next s') : Keeps s s' := by
  unfold execPpsOutPulse at hn; exact done_keeps (f := ppsOutPulse) (fun _ => ppsOutPulse_keeps ..) hn

theorem execPpsPulseEnd_keeps {s s' : State} (hn : execPpsPulseEnd s = .next s') : Keeps s s' := by
  unfold execPpsPulseEnd at hn; exact done_keeps (f := ppsPulseEnd) (fun _ => ppsPulseEnd_keeps ..) hn

theorem execPllApply_keeps (acc : Accessor) (v : Word) {s s' : State} (hn : execPllApply acc v s = .next s') : Keeps s s' := by
  unfold execPllApply at hn; exact done_keeps (f := (pllApply acc v)) (fun _ => pllApply_keeps ..) hn

theorem execPllLock_keeps (pll : Nat) {s s' : State} (hn : execPllLock pll s = .next s') : Keeps s s' := by
  unfold execPllLock at hn; exact done_keeps (f := (pllLock pll)) (fun _ => pllLock_keeps ..) hn

theorem execLossOfLock_keeps (pll : Nat) (refGone : Bool) {s s' : State} (hn : execLossOfLock pll refGone s = .next s') : Keeps s s' := by
  unfold execLossOfLock at hn; exact done_keeps (f := (lossOfLock pll refGone)) (fun _ => lossOfLock_keeps ..) hn

theorem execFcountStart_keeps (acc : Accessor) (v : Word) {s s' : State} (hn : execFcountStart acc v s = .next s') : Keeps s s' := by
  unfold execFcountStart at hn; exact done_keeps (f := (fcountWrite acc v)) (fun _ => fcountWrite_keeps ..) hn

theorem execFcountDone_keeps (khz : Nat) {s s' : State} (hn : execFcountDone khz s = .next s') : Keeps s s' := by
  unfold execFcountDone at hn; exact done_keeps (f := (fcountDone khz)) (fun _ => fcountDone_keeps ..) hn

theorem execSmnResult_keeps (ch code : Nat) {s s' : State} (hn : execSmnResult ch code s = .next s') : Keeps s s' := by
  unfold execSmnResult at hn; refine done_keeps (fun u => ?_) hn
  repeat' with_reducible first
    | exact Keeps.refl _ | intro _ | apply Keeps.step (smnResult_keeps ..) | split

theorem execTempSample_keeps (codes : List Nat) {s s' : State} (hn : execTempSample codes s = .next s') : Keeps s s' := by
  unfold execTempSample at hn; exact done_keeps (f := (tempSample codes)) (fun _ => tempSample_keeps ..) hn

theorem execMinmaxClear_keeps (acc : Accessor) (v : Word) {s s' : State} (hn : execMinmaxClear acc v s = .next s') : Keeps s s' := by
  unfold execMinmaxClear at hn; exact done_keeps (f := (minmaxClear acc v)) (fun _ => minmaxClear_keeps ..) hn

theorem execTermFire_keeps (table : Nat) (rfxIn : BitVec 64) {s s' : State} (hn : execTermFire table rfxIn s = .next s') : Keeps s s' := by
  unfold execTermFire at hn; exact done_keeps (f := (termFire table rfxIn)) (fun _ => termFire_keeps ..) hn

theorem execFlowInterval_keeps (src dst : Nat) {s s' : State} (hn : execFlowInterval src dst s = .next s') : Keeps s s' := by
  unfold execFlowInterval at hn; exact done_keeps (f := (flowInterval src dst)) (fun _ => flowInterval_keeps ..) hn

theorem execEvent_keeps (e : EventPkt) {s s' : State} (hn : execEvent e s = .next s') : Keeps s s' := by
  unfold execEvent at hn; exact done_keeps (f := (event e)) (fun _ => event_keeps ..) hn

theorem execRfxArm_keeps (acc : Accessor) (v : Word) {s s' : State} (hn : execRfxArm acc v s = .next s') : Keeps s s' := by
  unfold execRfxArm at hn; exact done_keeps (f := (rfxCtrl acc v)) (fun _ => rfxCtrl_keeps ..) hn

theorem execStart_keeps (dom : Owner) (ring : Nat) {s s' : State} (hn : execStart dom ring s = .next s') : Keeps s s' := by
  unfold execStart at hn; exact done_keeps (f := (ringCmd dom ring 1)) (fun _ => ringCmd_keeps ..) hn

theorem execStop_keeps (dom : Owner) (ring : Nat) {s s' : State} (hn : execStop dom ring s = .next s') : Keeps s s' := by
  unfold execStop at hn; exact done_keeps (f := (ringCmd dom ring 2)) (fun _ => ringCmd_keeps ..) hn

theorem execAssign_keeps (dom : Owner) (ring : Nat) {s s' : State} (hn : execAssign dom ring s = .next s') : Keeps s s' := by
  unfold execAssign at hn; exact done_keeps (f := (ringCmd dom ring 3)) (fun _ => ringCmd_keeps ..) hn

theorem execSafe_keeps (dom : Owner) (ring : Nat) {s s' : State} (hn : execSafe dom ring s = .next s') : Keeps s s' := by
  unfold execSafe at hn; exact done_keeps (f := (ringCmd dom ring 4)) (fun _ => ringCmd_keeps ..) hn

theorem execRediscover_keeps (dom : Owner) (ring : Nat) {s s' : State} (hn : execRediscover dom ring s = .next s') : Keeps s s' := by
  unfold execRediscover at hn; exact done_keeps (f := (ringCmd dom ring 5)) (fun _ => ringCmd_keeps ..) hn

theorem execSafeMask_keeps (dom : Owner) (ring : Nat) (v : Word) {s s' : State} (hn : execSafeMask dom ring v s = .next s') : Keeps s s' := by
  unfold execSafeMask at hn; refine done_keeps (fun u => ?_) hn
  repeat' with_reducible first
    | exact Keeps.refl _ | intro _ | apply Keeps.step (ctrlWrite_keeps ..) | split

theorem execCycleFrame_keeps (ring : Nat) {s s' : State} (hn : execCycleFrame ring s = .next s') : Keeps s s' := by
  unfold execCycleFrame at hn; exact done_keeps (f := (cycleFrame ring)) (fun _ => cycleFrame_keeps ..) hn

theorem execCycleReturn_keeps (ring : Nat) (groups : List (BitVec 10)) {s s' : State} (hn : execCycleReturn ring groups s = .next s') : Keeps s s' := by
  unfold execCycleReturn at hn; exact done_keeps (f := (received ring groups (cycleReturn ring))) (fun _ => received_keeps _ _ _ _ fun _ _ => cycleReturn_keeps ..) hn

theorem execReturnDeadline_keeps (ring : Nat) {s s' : State} (hn : execReturnDeadline ring s = .next s') : Keeps s s' := by
  unfold execReturnDeadline at hn; exact done_keeps (f := (returnDeadline ring)) (fun _ => returnDeadline_keeps ..) hn

theorem execDiscoverFrame_keeps (ring : Nat) (groups : List (BitVec 10)) {s s' : State} (hn : execDiscoverFrame ring groups s = .next s') : Keeps s s' := by
  unfold execDiscoverFrame at hn; exact done_keeps (f := (received ring groups (discoverFrame ring))) (fun _ => received_keeps _ _ _ _ fun _ _ => discoverFrame_keeps ..) hn

theorem execAssignFrame_keeps (ring : Nat) (groups : List (BitVec 10)) {s s' : State} (hn : execAssignFrame ring groups s = .next s') : Keeps s s' := by
  unfold execAssignFrame at hn; exact done_keeps (f := (received ring groups (assignFrame ring))) (fun _ => received_keeps _ _ _ _ fun _ _ => assignFrame_keeps ..) hn

theorem execConfigFrame_keeps (ring : Nat) (groups : List (BitVec 10)) {s s' : State} (hn : execConfigFrame ring groups s = .next s') : Keeps s s' := by
  unfold execConfigFrame at hn; exact done_keeps (f := (received ring groups (configFrame ring))) (fun _ => received_keeps _ _ _ _ fun _ _ => configFrame_keeps ..) hn

theorem execDelayFrame_keeps (ring : Nat) (groups : List (BitVec 10)) (loop : Nat) {s s' : State} (hn : execDelayFrame ring groups loop s = .next s') : Keeps s s' := by
  unfold execDelayFrame at hn; exact done_keeps (f := (received ring groups fun bs => delayFrame ring bs loop)) (fun _ => received_keeps _ _ _ _ fun _ _ => delayFrame_keeps ..) hn

theorem execSafeFrame_keeps (ring : Nat) (groups : List (BitVec 10)) {s s' : State} (hn : execSafeFrame ring groups s = .next s') : Keeps s s' := by
  unfold execSafeFrame at hn; exact done_keeps (f := (received ring groups (safeFrame ring))) (fun _ => received_keeps _ _ _ _ fun _ _ => safeFrame_keeps ..) hn

theorem execResetFrame_keeps (ring : Nat) (groups : List (BitVec 10)) {s s' : State} (hn : execResetFrame ring groups s = .next s') : Keeps s s' := by
  unfold execResetFrame at hn; exact done_keeps (f := (received ring groups (resetFrame ring))) (fun _ => received_keeps _ _ _ _ fun _ _ => resetFrame_keeps ..) hn

theorem execRxSync_keeps (ring : Nat) (groups : List (BitVec 10)) {s s' : State} (hn : execRxSync ring groups s = .next s') : Keeps s s' := by
  unfold execRxSync at hn; refine done_keeps (fun u => ?_) hn
  repeat' with_reducible first
    | exact Keeps.refl _ | intro _ | apply Keeps.step (lineIn_keeps ..)

theorem execRingBreak_keeps (ring : Nat) (groups : List (BitVec 10)) {s s' : State} (hn : execRingBreak ring groups s = .next s') : Keeps s s' := by
  unfold execRingBreak at hn; refine done_keeps (fun u => ?_) hn
  repeat' with_reducible first
    | exact Keeps.refl _ | intro _ | apply Keeps.step (lineIn_keeps ..)

theorem execStartSyncTimeout_keeps (ring : Nat) {s s' : State} (hn : execStartSyncTimeout ring s = .next s') : Keeps s s' := by
  unfold execStartSyncTimeout at hn; exact done_keeps (f := (startSyncTimeout ring)) (fun _ => startSyncTimeout_keeps ..) hn

theorem execStopTimeout_keeps (ring : Nat) {s s' : State} (hn : execStopTimeout ring s = .next s') : Keeps s s' := by
  unfold execStopTimeout at hn; exact done_keeps (f := (stopTimeout ring)) (fun _ => stopTimeout_keeps ..) hn

theorem execPerstDeassert_keeps (p : Nat) {s s' : State} (hn : execPerstDeassert p s = .next s') : Keeps s s' := by
  unfold execPerstDeassert at hn; exact done_keeps (f := (perstDeassert p)) (fun _ => perstDeassert_keeps ..) hn

theorem execLinkUp_keeps (p gen width : Nat) {s s' : State} (hn : execLinkUp p gen width s = .next s') : Keeps s s' := by
  unfold execLinkUp at hn; exact done_keeps (f := (linkUp p gen width)) (fun _ => linkUp_keeps ..) hn

theorem execHostLoss_keeps (p cause : Nat) {s s' : State} (hn : execHostLoss p cause s = .next s') : Keeps s s' := by
  unfold execHostLoss at hn; exact done_keeps (f := (hostLoss p cause)) (fun _ => hostLoss_keeps ..) hn

theorem execWindow0Tlp_keeps (p addr : Nat) (t : TlpOp) {s s' : State} (hn : execWindow0Tlp p addr t s = .next s') : Keeps s s' := by
  unfold execWindow0Tlp at hn; exact done_keeps (f := (window0Tlp p addr t)) (fun _ => window0Tlp_keeps ..) hn

theorem execWindow2Tlp_keeps (p off : Nat) (t : TlpOp2) {s s' : State} (hn : execWindow2Tlp p off t s = .next s') : Keeps s s' := by
  unfold execWindow2Tlp at hn; exact done_keeps (f := (window2 p off t)) (fun _ => window2_keeps ..) hn

theorem execXltCtrl_keeps (acc : Accessor) (v : Word) {s s' : State} (hn : execXltCtrl acc v s = .next s') : Keeps s s' := by
  unfold execXltCtrl at hn; exact done_keeps (f := (pciWrite acc 0x18 v)) (fun _ => pciWrite_keeps ..) hn

theorem execHostLossRelease_keeps (acc : Accessor) (v : Word) {s s' : State} (hn : execHostLossRelease acc v s = .next s') : Keeps s s' := by
  unfold execHostLossRelease at hn; exact done_keeps (f := (pciWrite acc 0x0C v)) (fun _ => pciWrite_keeps ..) hn

theorem execHostCompletion_keeps (p tag : Nat) (ok : Bool) (data : List Byte) {s s' : State} (hn : execHostCompletion p tag ok data s = .next s') : Keeps s s' := by
  unfold execHostCompletion at hn; exact done_keeps (f := (endOutbound p tag (if ok then .ok else .refused) (if ok then data else []))) (fun _ => endOutbound_keeps ..) hn

theorem execOutboundTimeout_keeps (p tag : Nat) {s s' : State} (hn : execOutboundTimeout p tag s = .next s') : Keeps s s' := by
  unfold execOutboundTimeout at hn; exact done_keeps (f := (outboundTimeout p tag)) (fun _ => outboundTimeout_keeps ..) hn

theorem execRxFrame_keeps (port : Nat) (bytes : List Byte) (fcsOk : Bool) (tsNs : Nat) (dma : DmaResult) {s s' : State} (hn : execRxFrame port bytes fcsOk tsNs dma s = .next s') : Keeps s s' := by
  unfold execRxFrame at hn; exact done_keeps (f := (rxFrame port bytes fcsOk tsNs dma)) (fun _ => rxFrame_keeps ..) hn

theorem execTailWrite_keeps (acc : Accessor) (tx : Bool) (v : Word) {s s' : State} (hn : execTailWrite acc tx v s = .next s') : Keeps s s' := by
  unfold execTailWrite at hn; exact done_keeps (f := (ethWrite acc (if tx then 0x24 else 0x34) v)) (fun _ => ethWrite_keeps ..) hn

theorem execTxFrame_keeps (port : Nat) (dma : DmaResult) (tsNs frags : Nat) {s s' : State} (hn : execTxFrame port dma tsNs frags s = .next s') : Keeps s s' := by
  unfold execTxFrame at hn; exact done_keeps (f := (txFrame port dma tsNs frags)) (fun _ => txFrame_keeps ..) hn

theorem execPortEnable_keeps (acc : Accessor) (v : Word) {s s' : State} (hn : execPortEnable acc v s = .next s') : Keeps s s' := by
  unfold execPortEnable at hn; exact done_keeps (f := (ethWrite acc 0x08 v)) (fun _ => ethWrite_keeps ..) hn

theorem execGclCommit_keeps (acc : Accessor) (v : Word) {s s' : State} (hn : execGclCommit acc v s = .next s') : Keeps s s' := by
  unfold execGclCommit at hn; exact done_keeps (f := (ethWrite acc 0x48 v)) (fun _ => ethWrite_keeps ..) hn

theorem execGclSwitch_keeps (port : Nat) {s s' : State} (hn : execGclSwitch port s = .next s') : Keeps s s' := by
  unfold execGclSwitch at hn; exact done_keeps (f := (gclSwitch port)) (fun _ => gclSwitch_keeps ..) hn

theorem execGateInterval_keeps (port : Nat) {s s' : State} (hn : execGateInterval port s = .next s') : Keeps s s' := by
  unfold execGateInterval at hn; exact done_keeps (f := (gateInterval port)) (fun _ => gateInterval_keeps ..) hn

theorem execPreemptVerify_keeps (port : Nat) {s s' : State} (hn : execPreemptVerify port s = .next s') : Keeps s s' := by
  unfold execPreemptVerify at hn; exact done_keeps (f := (preemptVerify port)) (fun _ => preemptVerify_keeps ..) hn

theorem execRxSlip_keeps (lane : Nat) {s s' : State} (hn : execRxSlip lane s = .next s') : Keeps s s' := by
  unfold execRxSlip at hn; exact done_keeps (f := (rxSlip lane)) (fun _ => rxSlip_keeps ..) hn

theorem execXcvLossOfLock_keeps (quad : Nat) (refGone : Bool) {s s' : State} (hn : execXcvLossOfLock quad refGone s = .next s') : Keeps s s' := by
  unfold execXcvLossOfLock at hn; exact done_keeps (f := (xcvLossOfLock quad refGone)) (fun _ => xcvLossOfLock_keeps ..) hn

theorem execDoorbell_keeps (acc : Accessor) (d : Nat) (v : Word) {s s' : State} (hn : execDoorbell acc d v s = .next s') : Keeps s s' := by
  unfold execDoorbell at hn; exact done_keeps (f := (doorbell acc d v)) (fun _ => doorbell_keeps ..) hn

theorem execCplHeadWrite_keeps (acc : Accessor) (d : Nat) (v : Word) {s s' : State} (hn : execCplHeadWrite acc d v s = .next s') : Keeps s s' := by
  unfold execCplHeadWrite at hn; exact done_keeps (f := (cplHeadWrite acc d v)) (fun _ => cplHeadWrite_keeps ..) hn

theorem execRingReset_keeps (acc : Accessor) (d : Nat) (v : Word) {s s' : State} (hn : execRingReset acc d v s = .next s') : Keeps s s' := by
  unfold execRingReset at hn; exact done_keeps (f := (ringReset acc d v)) (fun _ => ringReset_keeps ..) hn

theorem execMcRestart_keeps {s s' : State} (hn : execMcRestart s = .next s') : Keeps s s' := by
  unfold execMcRestart at hn; exact done_keeps (f := mcRestart) (fun _ => mcRestart_keeps ..) hn

theorem execMcRestartDone_keeps {s s' : State} (hn : execMcRestartDone s = .next s') : Keeps s s' := by
  unfold execMcRestartDone at hn; exact done_keeps (f := mcRestartDone) (fun _ => mcRestartDone_keeps ..) hn

theorem execAvsPeriod_keeps (margins : List Int) {s s' : State} (hn : execAvsPeriod margins s = .next s') : Keeps s s' := by
  unfold execAvsPeriod at hn; exact done_keeps (f := (avsPeriod margins)) (fun _ => avsPeriod_keeps ..) hn

theorem execMarginReport_keeps {s s' : State} (hn : execMarginReport s = .next s') : Keeps s s' := by
  unfold execMarginReport at hn; exact done_keeps (f := marginReport) (fun _ => marginReport_keeps ..) hn

theorem execIdleBandCheck_keeps {s s' : State} (hn : execIdleBandCheck s = .next s') : Keeps s s' := by
  unfold execIdleBandCheck at hn; exact done_keeps (f := idleBandCheck) (fun _ => idleBandCheck_keeps ..) hn

theorem execIdentify_keeps (d : Nat) {s s' : State} (hn : execIdentify d s = .next s') : Keeps s s' := by
  unfold execIdentify at hn; exact done_keeps (f := (identify d)) (fun _ => identify_keeps ..) hn

theorem execGetStatus_keeps (d corrected : Nat) {s s' : State} (hn : execGetStatus d corrected s = .next s') : Keeps s s' := by
  unfold execGetStatus at hn; exact done_keeps (f := (getStatus d corrected)) (fun _ => getStatus_keeps ..) hn

theorem execGetReport_keeps (d : Nat) {s s' : State} (hn : execGetReport d s = .next s') : Keeps s s' := by
  unfold execGetReport at hn; exact done_keeps (f := (getReport d)) (fun _ => getReport_keeps ..) hn

theorem execSetPolicy_keeps (d : Nat) {s s' : State} (hn : execSetPolicy d s = .next s') : Keeps s s' := by
  unfold execSetPolicy at hn; exact done_keeps (f := (setPolicy d)) (fun _ => setPolicy_keeps ..) hn

theorem execGetPolicy_keeps (d : Nat) {s s' : State} (hn : execGetPolicy d s = .next s') : Keeps s s' := by
  unfold execGetPolicy at hn; exact done_keeps (f := (getPolicy d)) (fun _ => getPolicy_keeps ..) hn

theorem execResetDomain_keeps (d : Nat) {s s' : State} (hn : execResetDomain d s = .next s') : Keeps s s' := by
  unfold execResetDomain at hn; exact done_keeps (f := (resetDomain d)) (fun _ => resetDomain_keeps ..) hn

theorem execClaimRegion_keeps (d : Nat) {s s' : State} (hn : execClaimRegion d s = .next s') : Keeps s s' := by
  unfold execClaimRegion at hn; exact done_keeps (f := (claimRegion d)) (fun _ => claimRegion_keeps ..) hn

theorem execReleaseRegion_keeps (d : Nat) {s s' : State} (hn : execReleaseRegion d s = .next s') : Keeps s s' := by
  unfold execReleaseRegion at hn; exact done_keeps (f := (releaseRegion d)) (fun _ => releaseRegion_keeps ..) hn

theorem execSetFirewall_keeps (d : Nat) {s s' : State} (hn : execSetFirewall d s = .next s') : Keeps s s' := by
  unfold execSetFirewall at hn; exact done_keeps (f := (setFirewall d)) (fun _ => setFirewall_keeps ..) hn

theorem execSetHostLossPolicy_keeps (d : Nat) {s s' : State} (hn : execSetHostLossPolicy d s = .next s') : Keeps s s' := by
  unfold execSetHostLossPolicy at hn; exact done_keeps (f := (setHostLossPolicy d)) (fun _ => setHostLossPolicy_keeps ..) hn

theorem execLoadImage_keeps (d : Nat) {s s' : State} (hn : execLoadImage d s = .next s') : Keeps s s' := by
  unfold execLoadImage at hn; exact done_keeps (f := (loadImage d)) (fun _ => loadImage_keeps ..) hn

theorem execLoadPartial_keeps (d : Nat) {s s' : State} (hn : execLoadPartial d s = .next s') : Keeps s s' := by
  unfold execLoadPartial at hn; exact done_keeps (f := (loadPartial d)) (fun _ => loadPartial_keeps ..) hn

theorem execReadbackRegion_keeps (d : Nat) {s s' : State} (hn : execReadbackRegion d s = .next s') : Keeps s s' := by
  unfold execReadbackRegion at hn; exact done_keeps (f := (readbackRegion d)) (fun _ => readbackRegion_keeps ..) hn

theorem execStoreImage_keeps (d : Nat) (container : List Byte) {s s' : State} (hn : execStoreImage d container s = .next s') : Keeps s s' := by
  unfold execStoreImage at hn; exact done_keeps (f := (storeImage d container)) (fun _ => storeImage_keeps ..) hn

theorem execSelectImage_keeps (d : Nat) {s s' : State} (hn : execSelectImage d s = .next s') : Keeps s s' := by
  unfold execSelectImage at hn; exact done_keeps (f := (selectImage d)) (fun _ => selectImage_keeps ..) hn

theorem execStorePartial_keeps (d : Nat) (container : List Byte) {s s' : State} (hn : execStorePartial d container s = .next s') : Keeps s s' := by
  unfold execStorePartial at hn; exact done_keeps (f := (storePartial d container)) (fun _ => storePartial_keeps ..) hn

theorem execWrapKey_keeps (d : Nat) {s s' : State} (hn : execWrapKey d s = .next s') : Keeps s s' := by
  unfold execWrapKey at hn; exact done_keeps (f := (wrapKey d)) (fun _ => wrapKey_keeps ..) hn

theorem execNvProtect_keeps (d : Nat) {s s' : State} (hn : execNvProtect d s = .next s') : Keeps s s' := by
  unfold execNvProtect at hn; exact done_keeps (f := (nvProtect d)) (fun _ => nvProtect_keeps ..) hn

theorem execNvUnlock_keeps (d : Nat) {s s' : State} (hn : execNvUnlock d s = .next s') : Keeps s s' := by
  unfold execNvUnlock at hn; exact done_keeps (f := (nvUnlock d)) (fun _ => nvUnlock_keeps ..) hn

theorem execNvSetPassword_keeps (d : Nat) {s s' : State} (hn : execNvSetPassword d s = .next s') : Keeps s s' := by
  unfold execNvSetPassword at hn; exact done_keeps (f := (nvSetPassword d)) (fun _ => nvSetPassword_keeps ..) hn

theorem execNvRefreshScan_keeps (d : Nat) {s s' : State} (hn : execNvRefreshScan d s = .next s') : Keeps s s' := by
  unfold execNvRefreshScan at hn; exact done_keeps (f := (nvRefreshScan d)) (fun _ => nvRefreshScan_keeps ..) hn

theorem execNvGrantUrgent_keeps (d : Nat) {s s' : State} (hn : execNvGrantUrgent d s = .next s') : Keeps s s' := by
  unfold execNvGrantUrgent at hn; exact done_keeps (f := (nvGrantUrgent d)) (fun _ => nvGrantUrgent_keeps ..) hn

theorem execNocMuzzle_keeps (d : Nat) {s s' : State} (hn : execNocMuzzle d s = .next s') : Keeps s s' := by
  unfold execNocMuzzle at hn; exact done_keeps (f := (nocMuzzle d)) (fun _ => nocMuzzle_keeps ..) hn

theorem execNocRehabilitate_keeps (d : Nat) {s s' : State} (hn : execNocRehabilitate d s = .next s') : Keeps s s' := by
  unfold execNocRehabilitate at hn; exact done_keeps (f := (nocRehabilitate d)) (fun _ => nocRehabilitate_keeps ..) hn

theorem execNocRemap_keeps (d : Nat) {s s' : State} (hn : execNocRemap d s = .next s') : Keeps s s' := by
  unfold execNocRemap at hn; exact done_keeps (f := (nocRemap d)) (fun _ => nocRemap_keeps ..) hn

theorem execNocRouteUpdate_keeps (d : Nat) {s s' : State} (hn : execNocRouteUpdate d s = .next s') : Keeps s s' := by
  unfold execNocRouteUpdate at hn; exact done_keeps (f := (nocRouteUpdate d)) (fun _ => nocRouteUpdate_keeps ..) hn

theorem execUanStartRing_keeps (d : Nat) {s s' : State} (hn : execUanStartRing d s = .next s') : Keeps s s' := by
  unfold execUanStartRing at hn; exact done_keeps (f := (uanStartRing d)) (fun _ => uanStartRing_keeps ..) hn

theorem execUanStopRing_keeps (d : Nat) {s s' : State} (hn : execUanStopRing d s = .next s') : Keeps s s' := by
  unfold execUanStopRing at hn; exact done_keeps (f := (uanStopRing d)) (fun _ => uanStopRing_keeps ..) hn

theorem execUanGetTopology_keeps (d : Nat) {s s' : State} (hn : execUanGetTopology d s = .next s') : Keeps s s' := by
  unfold execUanGetTopology at hn; exact done_keeps (f := (uanGetTopology d)) (fun _ => uanGetTopology_keeps ..) hn

theorem execUanAssign_keeps (d : Nat) {s s' : State} (hn : execUanAssign d s = .next s') : Keeps s s' := by
  unfold execUanAssign at hn; exact done_keeps (f := (uanAssign d)) (fun _ => uanAssign_keeps ..) hn

theorem execUanSafe_keeps (d : Nat) {s s' : State} (hn : execUanSafe d s = .next s') : Keeps s s' := by
  unfold execUanSafe at hn; exact done_keeps (f := (uanSafe d)) (fun _ => uanSafe_keeps ..) hn

theorem execPwrRequestState_keeps (d : Nat) {s s' : State} (hn : execPwrRequestState d s = .next s') : Keeps s s' := by
  unfold execPwrRequestState at hn; exact done_keeps (f := (pwrRequestState d)) (fun _ => pwrRequestState_keeps ..) hn

theorem execPwrSetSentry_keeps (d : Nat) {s s' : State} (hn : execPwrSetSentry d s = .next s') : Keeps s s' := by
  unfold execPwrSetSentry at hn; exact done_keeps (f := (pwrSetSentry d)) (fun _ => pwrSetSentry_keeps ..) hn

theorem execPwrGetAccounting_keeps (d : Nat) {s s' : State} (hn : execPwrGetAccounting d s = .next s') : Keeps s s' := by
  unfold execPwrGetAccounting at hn; exact done_keeps (f := (pwrGetAccounting d)) (fun _ => pwrGetAccounting_keeps ..) hn

theorem execTimeSet_keeps (d : Nat) {s s' : State} (hn : execTimeSet d s = .next s') : Keeps s s' := by
  unfold execTimeSet at hn; exact done_keeps (f := (timeSet d)) (fun _ => timeSet_keeps ..) hn

theorem execTimeDiscipline_keeps (d : Nat) {s s' : State} (hn : execTimeDiscipline d s = .next s') : Keeps s s' := by
  unfold execTimeDiscipline at hn; exact done_keeps (f := (timeDiscipline d)) (fun _ => timeDiscipline_keeps ..) hn

theorem execBistSchedule_keeps (d : Nat) {s s' : State} (hn : execBistSchedule d s = .next s') : Keeps s s' := by
  unfold execBistSchedule at hn; exact done_keeps (f := (bistSchedule d)) (fun _ => bistSchedule_keeps ..) hn

theorem execBistRun_keeps (d : Nat) {s s' : State} (hn : execBistRun d s = .next s') : Keeps s s' := by
  unfold execBistRun at hn; exact done_keeps (f := (bistRun d)) (fun _ => bistRun_keeps ..) hn

theorem execBistRunTimeout_keeps (d tag : Nat) {s s' : State} (hn : execBistRunTimeout d tag s = .next s') : Keeps s s' := by
  unfold execBistRunTimeout at hn; exact done_keeps (f := (bistRunTimeout d tag)) (fun _ => bistRunTimeout_keeps ..) hn

theorem execBistGetResult_keeps (d : Nat) {s s' : State} (hn : execBistGetResult d s = .next s') : Keeps s s' := by
  unfold execBistGetResult at hn; exact done_keeps (f := (bistGetResult d)) (fun _ => bistGetResult_keeps ..) hn

theorem execLcTransition_keeps (d : Nat) {s s' : State} (hn : execLcTransition d s = .next s') : Keeps s s' := by
  unfold execLcTransition at hn; exact done_keeps (f := (lcTransition d)) (fun _ => lcTransition_keeps ..) hn

theorem execDbgChallenge_keeps (d : Nat) {s s' : State} (hn : execDbgChallenge d s = .next s') : Keeps s s' := by
  unfold execDbgChallenge at hn; exact done_keeps (f := (dbgChallenge d)) (fun _ => dbgChallenge_keeps ..) hn

theorem execDbgGrant_keeps (d : Nat) {s s' : State} (hn : execDbgGrant d s = .next s') : Keeps s s' := by
  unfold execDbgGrant at hn; exact done_keeps (f := (dbgGrant d)) (fun _ => dbgGrant_keeps ..) hn

theorem execDbgRevoke_keeps (d : Nat) {s s' : State} (hn : execDbgRevoke d s = .next s') : Keeps s s' := by
  unfold execDbgRevoke at hn; exact done_keeps (f := (dbgRevoke d)) (fun _ => dbgRevoke_keeps ..) hn

theorem execQTailWrite_keeps (acc : Accessor) (v : Word) {s s' : State} (hn : execQTailWrite acc v s = .next s') : Keeps s s' := by
  unfold execQTailWrite at hn; exact done_keeps (f := (qTailWrite acc v)) (fun _ => qTailWrite_keeps ..) hn

theorem execCqHeadWrite_keeps (acc : Accessor) (v : Word) {s s' : State} (hn : execCqHeadWrite acc v s = .next s') : Keeps s s' := by
  unfold execCqHeadWrite at hn; exact done_keeps (f := (cqHeadWrite acc v)) (fun _ => cqHeadWrite_keeps ..) hn

theorem execQueueEnable_keeps (acc : Accessor) (v : Word) {s s' : State} (hn : execQueueEnable acc v s = .next s') : Keeps s s' := by
  unfold execQueueEnable at hn; exact done_keeps (f := (queueEnable acc v)) (fun _ => queueEnable_keeps ..) hn

theorem execDescriptorStart_keeps (q : Nat) (fetch : DmaResult) {s s' : State} (hn : execDescriptorStart q fetch s = .next s') : Keeps s s' := by
  unfold execDescriptorStart at hn; exact done_keeps (f := (descriptorStart q fetch)) (fun _ => descriptorStart_keeps ..) hn

theorem execRead_keeps (q tag part : Nat) (r : PartInput) {s s' : State} (hn : execRead q tag part r s = .next s') : Keeps s s' := by
  unfold execRead at hn; exact done_keeps (f := (partEvent 1 q tag part r)) (fun _ => partEvent_keeps ..) hn

theorem execProgram_keeps (q tag part : Nat) (r : PartInput) {s s' : State} (hn : execProgram q tag part r s = .next s') : Keeps s s' := by
  unfold execProgram at hn; exact done_keeps (f := (partEvent 2 q tag part r)) (fun _ => partEvent_keeps ..) hn

theorem execErase_keeps (q tag part : Nat) (r : PartInput) {s s' : State} (hn : execErase q tag part r s = .next s') : Keeps s s' := by
  unfold execErase at hn; exact done_keeps (f := (partEvent 3 q tag part r)) (fun _ => partEvent_keeps ..) hn

theorem execVerify_keeps (q tag part : Nat) (r : PartInput) {s s' : State} (hn : execVerify q tag part r s = .next s') : Keeps s s' := by
  unfold execVerify at hn; exact done_keeps (f := (partEvent 4 q tag part r)) (fun _ => partEvent_keeps ..) hn

theorem execBlankCheck_keeps (q tag part : Nat) (r : PartInput) {s s' : State} (hn : execBlankCheck q tag part r s = .next s') : Keeps s s' := by
  unfold execBlankCheck at hn; exact done_keeps (f := (partEvent 5 q tag part r)) (fun _ => partEvent_keeps ..) hn

theorem execMarginRead_keeps (q tag part : Nat) (r : PartInput) {s s' : State} (hn : execMarginRead q tag part r s = .next s') : Keeps s s' := by
  unfold execMarginRead at hn; exact done_keeps (f := (partEvent 6 q tag part r)) (fun _ => partEvent_keeps ..) hn

theorem execCopy_keeps (q tag part : Nat) (r : PartInput) {s s' : State} (hn : execCopy q tag part r s = .next s') : Keeps s s' := by
  unfold execCopy at hn; exact done_keeps (f := (partEvent 7 q tag part r)) (fun _ => partEvent_keeps ..) hn

theorem execXipDeclare_keeps (q tag : Nat) {s s' : State} (hn : execXipDeclare q tag s = .next s') : Keeps s s' := by
  unfold execXipDeclare at hn; exact done_keeps (f := (xipDeclare q tag)) (fun _ => xipDeclare_keeps ..) hn

theorem execXipRelease_keeps (q tag : Nat) {s s' : State} (hn : execXipRelease q tag s = .next s') : Keeps s s' := by
  unfold execXipRelease at hn; exact done_keeps (f := (xipRelease q tag)) (fun _ => xipRelease_keeps ..) hn

theorem execPartDone_keeps (q tag : Nat) (wr : Status) {s s' : State} (hn : execPartDone q tag wr s = .next s') : Keeps s s' := by
  unfold execPartDone at hn; exact done_keeps (f := (partDone q tag wr)) (fun _ => partDone_keeps ..) hn

theorem execGapMove_keeps (bank : Nat) {s s' : State} (hn : execGapMove bank s = .next s') : Keeps s s' := by
  unfold execGapMove at hn; exact done_keeps (f := (gapMove bank)) (fun _ => gapMove_keeps ..) hn

theorem execGapCopyDone_keeps (bank : Nat) {s s' : State} (hn : execGapCopyDone bank s = .next s') : Keeps s s' := by
  unfold execGapCopyDone at hn; exact done_keeps (f := (gapCopyDone bank)) (fun _ => gapCopyDone_keeps ..) hn

theorem execGapEraseDone_keeps (bank : Nat) {s s' : State} (hn : execGapEraseDone bank s = .next s') : Keeps s s' := by
  unfold execGapEraseDone at hn; exact done_keeps (f := (gapEraseDone bank)) (fun _ => gapEraseDone_keeps ..) hn

theorem execTornScanDone_keeps {s s' : State} (hn : execTornScanDone s = .next s') : Keeps s s' := by
  unfold execTornScanDone at hn; exact done_keeps (f := tornScanDone) (fun _ => tornScanDone_keeps ..) hn

theorem execNvRefreshStep_keeps (bank sector : Nat) (differs : Bool) {s s' : State} (hn : execNvRefreshStep bank sector differs s = .next s') : Keeps s s' := by
  unfold execNvRefreshStep at hn; exact done_keeps (f := (nvRefreshStep bank sector differs)) (fun _ => nvRefreshStep_keeps ..) hn

theorem execVoteAnswer_keeps (band voter : Nat) (v : Vote) {s s' : State} (hn : execVoteAnswer band voter v s = .next s') : Keeps s s' := by
  unfold execVoteAnswer at hn; exact done_keeps (f := (voteAnswer band voter v)) (fun _ => voteAnswer_keeps ..) hn

theorem execVoteTimeout_keeps (band : Nat) {s s' : State} (hn : execVoteTimeout band s = .next s') : Keeps s s' := by
  unfold execVoteTimeout at hn; exact done_keeps (f := (voteTimeout band)) (fun _ => voteTimeout_keeps ..) hn

theorem execUserSample_keeps (band : Nat) (stay wait : Bool) {s s' : State} (hn : execUserSample band stay wait s = .next s') : Keeps s s' := by
  unfold execUserSample at hn; exact done_keeps (f := (userSample band stay wait)) (fun _ => userSample_keeps ..) hn

theorem execBandWake_keeps (band : Nat) {s s' : State} (hn : execBandWake band s = .next s') : Keeps s s' := by
  unfold execBandWake at hn; exact done_keeps (f := (bandWake band)) (fun _ => bandWake_keeps ..) hn

theorem execBandPowerGood_keeps (band : Nat) {s s' : State} (hn : execBandPowerGood band s = .next s') : Keeps s s' := by
  unfold execBandPowerGood at hn; exact done_keeps (f := (bandPowerGood band)) (fun _ => bandPowerGood_keeps ..) hn

theorem execOffReloadDone_keeps (band : Nat) (r : Status) (i : Nat) {s s' : State} (hn : execOffReloadDone band r i s = .next s') : Keeps s s' := by
  unfold execOffReloadDone at hn; exact done_keeps (f := (offReloadDone band r i)) (fun _ => offReloadDone_keeps ..) hn

theorem execWakeEvent_keeps (cause num : Nat) (edgeWindow : Bool) {s s' : State} (hn : execWakeEvent cause num edgeWindow s = .next s') : Keeps s s' := by
  unfold execWakeEvent at hn; exact done_keeps (f := (wakeEvent cause num edgeWindow)) (fun _ => wakeEvent_keeps ..) hn

theorem execSentrySample_keeps (bits : BitVec 128) (codes : List (Nat × Nat)) {s s' : State} (hn : execSentrySample bits codes s = .next s') : Keeps s s' := by
  unfold execSentrySample at hn; exact done_keeps (f := (sentrySample bits codes)) (fun _ => sentrySample_keeps ..) hn

theorem execWakeRetry_keeps (rail : Nat) {s s' : State} (hn : execWakeRetry rail s = .next s') : Keeps s s' := by
  unfold execWakeRetry at hn; exact done_keeps (f := (wakeRetry rail)) (fun _ => wakeRetry_keeps ..) hn

theorem execRtcFallback_keeps {s s' : State} (hn : execRtcFallback s = .next s') : Keeps s s' := by
  unfold execRtcFallback at hn; exact done_keeps (f := rtcFallback) (fun _ => rtcFallback_keeps ..) hn

theorem execPmbusPoll_keeps (reads : List RailRead) {s s' : State} (hn : execPmbusPoll reads s = .next s') : Keeps s s' := by
  unfold execPmbusPoll at hn; exact done_keeps (f := (pmbusPoll reads)) (fun _ => pmbusPoll_keeps ..) hn

theorem execReadVoutPoll_keeps (rail mv : Nat) (pecBad : Bool) {s s' : State} (hn : execReadVoutPoll rail mv pecBad s = .next s') : Keeps s s' := by
  unfold execReadVoutPoll at hn; exact done_keeps (f := (readVoutPoll rail mv pecBad)) (fun _ => readVoutPoll_keeps ..) hn

theorem execVoutTimeout_keeps (rail : Nat) {s s' : State} (hn : execVoutTimeout rail s = .next s') : Keeps s s' := by
  unfold execVoutTimeout at hn; exact done_keeps (f := (voutTimeout rail)) (fun _ => voutTimeout_keeps ..) hn

theorem execPmbusRetry_keeps (rail : Nat) (acked : Bool) {s s' : State} (hn : execPmbusRetry rail acked s = .next s') : Keeps s s' := by
  unfold execPmbusRetry at hn; exact done_keeps (f := (pmbusRetry rail acked)) (fun _ => pmbusRetry_keeps ..) hn

theorem execPmbAlert_keeps (words pecBad : List Nat) {s s' : State} (hn : execPmbAlert words pecBad s = .next s') : Keeps s s' := by
  unfold execPmbAlert at hn; exact done_keeps (f := (pmbAlert words pecBad)) (fun _ => pmbAlert_keeps ..) hn

theorem execKennelData_keeps (acc : Accessor) (wr : Option Word) {s s' : State} (hn : execKennelData acc wr s = .next s') : Keeps s s' := by
  unfold execKennelData at hn; exact done_keeps (f := (kennelData acc wr)) (fun _ => kennelData_keeps ..) hn

theorem execRtcLoRead_keeps (acc : Accessor) {s s' : State} (hn : execRtcLoRead acc s = .next s') : Keeps s s' := by
  unfold execRtcLoRead at hn; refine done_keeps (fun u => ?_) hn
  repeat' with_reducible first
    | exact Keeps.refl _ | intro _ | apply Keeps.step (State.emit_keeps ..) | apply Keeps.step (rtcLo_keeps ..)

theorem execEntryDue_keeps (entry : Nat) {s s' : State} (hn : execEntryDue entry s = .next s') : Keeps s s' := by
  unfold execEntryDue at hn; exact done_keeps (f := (entryDue entry)) (fun _ => entryDue_keeps ..) hn

theorem execSliceEnd_keeps (slot : Nat) (r : SliceResult) {s s' : State} (hn : execSliceEnd slot r s = .next s') : Keeps s s' := by
  unfold execSliceEnd at hn; exact done_keeps (f := (sliceEnd slot r)) (fun _ => sliceEnd_keeps ..) hn

theorem execSliceBudget_keeps (slot : Nat) (patterns : Nat) (misr : BitVec 64) {s s' : State} (hn : execSliceBudget slot patterns misr s = .next s') : Keeps s s' := by
  unfold execSliceBudget at hn; exact done_keeps (f := (sliceBudget slot patterns misr)) (fun _ => sliceBudget_keeps ..) hn

theorem execOtpRunEnd_evolves {s s' : State} (hn : execOtpRunEnd s = .next s') : Evolves s s' := by
  unfold execOtpRunEnd at hn; exact done_evolves (f := otpRunEnd) (fun _ => otpRunEnd_evolves ..) hn

theorem execReturnEraseDone_keeps {s s' : State} (hn : execReturnEraseDone s = .next s') : Keeps s s' := by
  unfold execReturnEraseDone at hn; exact done_keeps (f := returnEraseDone) (fun _ => returnEraseDone_keeps ..) hn

theorem execNonceExpiry_keeps (h : Nat) {s s' : State} (hn : execNonceExpiry h s = .next s') : Keeps s s' := by
  unfold execNonceExpiry at hn; exact done_keeps (f := (nonceExpiry h)) (fun _ => nonceExpiry_keeps ..) hn

theorem execLeashExpiry_keeps (slot : Nat) {s s' : State} (hn : execLeashExpiry slot s = .next s') : Keeps s s' := by
  unfold execLeashExpiry at hn; exact done_keeps (f := (leashExpiry slot)) (fun _ => leashExpiry_keeps ..) hn

theorem execExtest_keeps (dr : BscanDr) {s s' : State} (hn : execExtest dr s = .next s') : Keeps s s' := by
  unfold execExtest at hn; refine done_keeps (fun u => ?_) hn
  repeat' with_reducible first
    | exact Keeps.refl _ | apply jtag_keeps | intro _ | apply Keeps.step (driven_keeps ..)
    | apply Keeps.step (bscan_keeps ..)

theorem execSamplePreload_keeps (dr : BscanDr) {s s' : State} (hn : execSamplePreload dr s = .next s') : Keeps s s' := by
  unfold execSamplePreload at hn; refine done_keeps (fun u => ?_) hn
  repeat' with_reducible first
    | exact Keeps.refl _ | apply jtag_keeps | intro _ | apply Keeps.step (bscan_keeps ..)

theorem execIdcode_keeps {s s' : State} (hn : execIdcode s = .next s') : Keeps s s' := by
  unfold execIdcode at hn; refine done_keeps (fun u => ?_) hn
  repeat' with_reducible first
    | exact Keeps.refl _ | apply jtag_keeps | intro _ | apply Keeps.step (State.emit_keeps ..)

theorem execHighz_keeps {s s' : State} (hn : execHighz s = .next s') : Keeps s s' := by
  unfold execHighz at hn; refine done_keeps (fun u => ?_) hn
  repeat' with_reducible first
    | exact Keeps.refl _ | apply jtag_keeps | intro _ | apply Keeps.step (State.emit_keeps ..) | split | dsimp only
    | apply Keeps.step (Keeps.mk8 ..)

theorem execClamp_keeps {s s' : State} (hn : execClamp s = .next s') : Keeps s s' := by
  unfold execClamp at hn; refine done_keeps (fun u => ?_) hn
  repeat' with_reducible first
    | exact Keeps.refl _ | apply jtag_keeps | intro _ | apply Keeps.step (State.emit_keeps ..)
    | apply Keeps.step (driven_keeps ..)

theorem execExtestPulse_keeps (dr : BscanDr) {s s' : State} (hn : execExtestPulse dr s = .next s') : Keeps s s' := by
  unfold execExtestPulse at hn; refine done_keeps (fun u => ?_) hn
  repeat' with_reducible first
    | exact Keeps.refl _ | apply jtag_keeps | intro _ | apply Keeps.step (driven_keeps ..)
    | apply Keeps.step (bscan_keeps ..)

theorem execExtestTrain_keeps (dr : BscanDr) {s s' : State} (hn : execExtestTrain dr s = .next s') : Keeps s s' := by
  unfold execExtestTrain at hn; refine done_keeps (fun u => ?_) hn
  repeat' with_reducible first
    | exact Keeps.refl _ | apply jtag_keeps | intro _ | apply Keeps.step (driven_keeps ..)
    | apply Keeps.step (bscan_keeps ..)

theorem execLcStatus_keeps {s s' : State} (hn : execLcStatus s = .next s') : Keeps s s' := by
  unfold execLcStatus at hn; refine done_keeps (fun u => ?_) hn
  repeat' with_reducible first
    | exact Keeps.refl _ | apply jtag_keeps | intro _ | apply Keeps.step (State.emit_keeps ..)

theorem execCsrAccess_keeps (dr : BitVec 64) {s s' : State} (hn : execCsrAccess dr s = .next s') : Keeps s s' := by
  unfold execCsrAccess at hn; refine done_keeps (fun u => ?_) hn
  repeat' with_reducible first
    | exact Keeps.refl _ | apply jtag_keeps | intro _ | apply Keeps.step (csrScan_keeps ..)

theorem execFrameReadback_keeps (far : Word) {s s' : State} (hn : execFrameReadback far s = .next s') : Keeps s s' := by
  unfold execFrameReadback at hn; refine done_keeps (fun u => ?_) hn
  repeat' with_reducible first
    | exact Keeps.refl _ | apply jtag_keeps | intro _ | apply Keeps.step (frameReadback_keeps ..)

theorem execBypass_keeps (code : Nat) {s s' : State} (hn : execBypass code s = .next s') : Keeps s s' := by
  unfold execBypass at hn; exact done_keeps (f := (bypass code)) (fun _ => bypass_keeps ..) hn

theorem execCsrEndpointAccess_keeps (p : Pkt) {s s' : State} (hn : execCsrEndpointAccess p s = .next s') : Keeps s s' := by
  unfold execCsrEndpointAccess at hn; exact done_keeps (f := (csrEndpointAccess p)) (fun _ => csrEndpointAccess_keeps ..) hn

theorem execRegisterWrite_keeps (acc : Accessor) (addr : Nat) (v : Word) {s s' : State} (hn : execRegisterWrite acc addr v s = .next s') : Keeps s s' := by
  unfold execRegisterWrite at hn; exact done_keeps (f := (csrWrite acc addr v)) (fun _ => csrWrite_keeps ..) hn

theorem execEthLinkChange_keeps (port : Nat) (up anDone fecLock : Bool) {s s' : State} (hn : execEthLinkChange port up anDone fecLock s = .next s') : Keeps s s' := by
  unfold execEthLinkChange at hn; exact done_keeps (f := (ethLinkChange port up anDone fecLock)) (fun _ => ethLinkChange_keeps ..) hn

theorem execConfigRequest_keeps (p : Nat) (r : CfgReq) {s s' : State} (hn : execConfigRequest p r s = .next s') : Keeps s s' := by
  unfold execConfigRequest at hn; exact done_keeps (f := (configRequest p r)) (fun _ => configRequest_keeps ..) hn

theorem execLaneTraffic_keeps (lane : Nat) {s s' : State} (hn : execLaneTraffic lane s = .next s') : Keeps s s' := by
  unfold execLaneTraffic at hn; refine done_keeps (fun u => ?_) hn
  repeat' with_reducible first
    | exact Keeps.refl _ | intro _ | apply Keeps.step (meetSlice_keeps ..)

theorem execRxLockChange_keeps (lane : Nat) (locked : Bool) {s s' : State} (hn : execRxLockChange lane locked s = .next s') : Keeps s s' := by
  unfold execRxLockChange at hn; exact done_keeps (f := (rxLockChange lane locked)) (fun _ => rxLockChange_keeps ..) hn

theorem execRawWordTime_keeps (lane : Nat) (rx txPush : Option (BitVec 128)) (rxPop txIdle : Bool) {s s' : State} (hn : execRawWordTime lane rx txPush rxPop txIdle s = .next s') : Keeps s s' := by
  unfold execRawWordTime at hn; exact done_keeps (f := (rawWordTime lane rx txPush rxPop txIdle)) (fun _ => rawWordTime_keeps ..) hn

theorem execQuadPllLock_keeps (quad : Nat) {s s' : State} (hn : execQuadPllLock quad s = .next s') : Keeps s s' := by
  unfold execQuadPllLock at hn; exact done_keeps (f := (quadPllLock quad)) (fun _ => quadPllLock_keeps ..) hn

theorem execUserClockEdge_keeps (e : ClockEdge) {s s' : State} (hn : execUserClockEdge e s = .next s') : Keeps s s' := by
  unfold execUserClockEdge at hn; exact done_keeps (f := (userClockEdge e)) (fun _ => userClockEdge_keeps ..) hn

theorem execFpOutChange_keeps (port : Nat) (out oe : Bool) (word : BitVec 8) {s s' : State} (hn : execFpOutChange port out oe word s = .next s') : Keeps s s' := by
  unfold execFpOutChange at hn; exact done_keeps (f := (fpOutChange port out oe word)) (fun _ => fpOutChange_keeps ..) hn

theorem execStayAwakeRise_keeps (band : Nat) {s s' : State} (hn : execStayAwakeRise band s = .next s') : Keeps s s' := by
  unfold execStayAwakeRise at hn; exact done_keeps (f := (stayAwakeRise band)) (fun _ => stayAwakeRise_keeps ..) hn

theorem execRtcTick_keeps {s s' : State} (hn : execRtcTick s = .next s') : Keeps s s' := by
  unfold execRtcTick at hn; exact done_keeps (f := rtcTick) (fun _ => rtcTick_keeps ..) hn

theorem execNvRefreshOverdue_keeps (bank sector : Nat) {s s' : State} (hn : execNvRefreshOverdue bank sector s = .next s') : Keeps s s' := by
  unfold execNvRefreshOverdue at hn; exact done_keeps (f := (nvRefreshOverdue bank sector)) (fun _ => nvRefreshOverdue_keeps ..) hn

theorem execDirectRead_keeps (p : Pkt) {s s' : State} (h : execDirectRead p s = .next s') : Keeps s s' := by
  unfold execDirectRead at h; refine done_keeps (fun u => ?_) h

  split
  · split
    · rename_i s1 e
      refine Keeps.trans (takeFlight_keeps e) ?_
      split
      · exact absorb_keeps ..
      · exact directRead_keeps ..
    · exact .refl _
  · exact .refl _

theorem execKeyLoad_evolves (pkg : List Byte) {s s' : State} (h : execKeyLoad pkg s = .next s') : Evolves s s' := by
  unfold execKeyLoad at h; refine done_evolves (fun u => ?_) h
  unfold jtag
  split
  · exact .step (keyLoad_evolves _ _) (loadIr_keeps _ _).evolves
  · exact (jtagDenied_keeps _ _).evolves

end Sys2Proof.Machine
end

