-- ==== Sys2Proof/Tests/Slice0.lean ====
section
/-! SUPPORT. Tests: the checks of WellFormed, states that meet the hypotheses of the statements, and single commands on
small states with results taken from the spec. -/
namespace Sys2Proof.Tests
open Sys2Proof Sys2Proof.Machine

-- One theorem after another: each evaluates a state in the kernel, and many at once need much memory.
set_option Elab.async false

/-- The device after power-on reset. -/
def R : State := State.reset

/-- The accessor H0. -/
def M : Accessor := .dom .h0

/-- A device that runs an image in DEPLOYED. -/
def D : State :=
  { boot := { phase := .running, mcUp := true, done := true, released := true, gsr := false, we := true, imgActive := true,
              suppliesOk := true },
    lcs := { state := 3 }, noc := { running := true },
    pci := [(0, { up := true, everUp := true, perst := false })] }

/-- A packet. -/
def pk : Pkt :=
  { op := .rd, src := 0, gen := 0, epoch := 0, dom := .h0, dst := 0, len := 4, tag := 0, urgent := false, mask := 0,
    status := .ok, data := [] }

/-- A state in which H0's mailbox holds one command with this opcode and these parameters. -/
def mb (op : Nat) (ps : List Nat) (s : State) : State :=
  { s with mc := { s.mc with
    mbx := [(0, { cmdTail := 1 })],
    ram := Memory.writeN 0 s.mc.ram 0 (leBytes 2 op ++ leBytes 2 7 ++ leBytes 4 0 ++ ps.flatMap (leBytes 4)) } }

/-- The same, with these bytes at an offset of the mailbox. -/
def mbB (op : Nat) (ps : List Nat) (off : Nat) (bs : List Byte) (s : State) : State :=
  { mb op ps s with mc := { (mb op ps s).mc with ram := Memory.writeN 0 (mb op ps s).mc.ram off bs } }

/-- A manifest. -/
def mf : Manifest :=
  { kind := 1, len := 400, chunks := 1, fdata := 0, sigs := 0, crc := 0, keySel := 0, nonce := [], streamLen := 4096,
    idcode := 0x14096B3D, version := 0, digest := [], owner := [], tags := [], sig := [] }

/-- The window of one intersection. -/
def RW : Word := 0x11000C03

/-- H0 owns region 1, in this state and with the window RW, and its single-region target is in this state. -/
def G (r : RState) (g : Target) : State :=
  { D with
    ten := [(1, .h0)]
    cfg := { regions := [(1, { window := [RW], state := r })], targets := [(257, g)] } }

/-- Field port 0 in this state, live and of H0. -/
def P (p : Port) : State :=
  { D with
    ten := [(136, .h0)]
    boot := { D.boot with vccio := [declMv 3] }
    cfg := { regs := [(0x20, 3)] }
    port := [(0, p)] }

/-- A device with this network state. -/
def N (n : Noc) : State := { D with noc := { n with running := true } }

/-- A frame of zero words with its signature may be scrubbed in band 0. -/
def Sc (b : ScrBand) : State := { D with scr := { enable := true, bands := [(0, b)] } }

/-- Ring 0 in this state, of H0 like its pins. -/
def U (g : Ring) : State :=
  { D with
    ten := [(136, .h0), (200, .h0)]
    boot := { D.boot with vccio := [declMv 3] }
    cfg := { regs := [(0x20, 3)] }
    uan := { rings := [(0, g)] } }

/-- MAC port 0 in this state, used and of H0. -/
def E (m : Mac) : State := { D with ten := [(264, .h0)], design := { ethMode := [(0, 1)] }, mac := [(0, m)] }

/-- Raw lane 16 in this state. -/
def X (l : Lane) : State :=
  { D with design := { quads := [(4, .raw)] }, xcv := { quads := [(4, { locked := true })], lanes := [(16, l)] } }

/-- A descriptor of one part, four bytes at the start of user flash. -/
def ds (op : Nat) : Desc :=
  { op, flags := 0, tag := 0, addr := 0x40000000, len := 4, buf := 0x880000000000, aux := 0,
    parts := [(0x40000000, 4)] }

/-- A word differs from its complement. -/
theorem ne_not {n : Nat} (x : BitVec (n + 1)) : x ≠ ~~~x := fun e => by
  have h := congrArg (fun b => b.getLsbD 0) e
  simp at h

/-- A nonce. -/
def no : Nonce := ⟨0, 0, 0, 0⟩

/-- A grant. -/
def gr (who until_ : Nat) : Grant := ⟨who, 0, 0, 0, until_⟩

/-- OTP words: the state words hold w, word 20 is h, the keys of 1 have their check words, and word 23 is l. -/
def om (w h l : Word) : SMap Word :=
  (List.range 8).map (fun i => (i, w)) ++ [(20, h), (21, checkWord 1), (22, checkWord 1), (23, l)]

theorem om_good (w h l : Word) : keysGood (om w h l) 1 1 = true := by
  unfold keysGood
  exact Bool.and_eq_true_iff.2 ⟨Bool.and_eq_true_iff.2 ⟨by decide, beq_self_eq_true _⟩, beq_self_eq_true _⟩

/-- A self-test slice. -/
def sl (test target : Nat) : Slice := { test, target, entry := none, budget := 0, t := 0, band := none }


/-- The manifest of a full image of two empty chunks, signed with the private key 1. -/
def fullMan : List Byte := Crypto.beBytes 336 0x0A5C0EB1010001005001000002000000002C060000000000000000000000000000000000000000000000000000000000080000003D6B09140000000000000000000000000000000000000000000000000000000000000000000000000000000000000000000000000000000000000000AA87CA22BE8B05378EB1C71EF320AD746E1D3B628BA79B9859F741E082542A385502F25DBF55296C3A545E3872760AB73617DE4A96262C6F5D9E98BF9292DC29F8F41DBD289A147CE9DA3113B5F0B8C00A60B1CE1D7E819D7A431D7C90EA0E5F0000000000000000000000000000000000000000000000000000000000000000AA87CA22BE8B05378EB1C71EF320AD746E1D3B628BA79B9859F741E082542A385502F25DBF55296C3A545E3872760AB7673CE440E3F07A94F0F2315D4109199FAD7FBB00D558F9DACB1F14B1936DED8B0564C7D44A70BE30F7E9F04806CE817C

/-- That of a partial image for H0's key. -/
def partMan : List Byte := Crypto.beBytes 336 0x0A5C0EB10100020050010000020000000000000000000000000000001000000000000000000000000000000000000000000030003D6B09140000000000000000000000000000000000000000000000000000000000000000000000000000000000000000000000000000000000000000AA87CA22BE8B05378EB1C71EF320AD746E1D3B628BA79B9859F741E082542A385502F25DBF55296C3A545E3872760AB73617DE4A96262C6F5D9E98BF9292DC29F8F41DBD289A147CE9DA3113B5F0B8C00A60B1CE1D7E819D7A431D7C90EA0E5F0000000000000000000000000000000000000000000000000000000000000000AA87CA22BE8B05378EB1C71EF320AD746E1D3B628BA79B9859F741E082542A385502F25DBF55296C3A545E3872760AB791344DD5C9DCBD109940D89B98E1AD6E2ADFAB9216DC8646F009E4C3F489F57C4D9675A66F03B48CEDD110986B6D44A1

/-- The manifest of a full image longer than a slot. -/
def bigMan : List Byte := Crypto.beBytes 336 0x0A5C0EB1010001005001000002000000002C060000000000000000000000000000000000000000000000000000000000000000103D6B09140000000000000000000000000000000000000000000000000000000000000000000000000000000000000000000000000000000000000000AA87CA22BE8B05378EB1C71EF320AD746E1D3B628BA79B9859F741E082542A385502F25DBF55296C3A545E3872760AB73617DE4A96262C6F5D9E98BF9292DC29F8F41DBD289A147CE9DA3113B5F0B8C00A60B1CE1D7E819D7A431D7C90EA0E5F0000000000000000000000000000000000000000000000000000000000000000AA87CA22BE8B05378EB1C71EF320AD746E1D3B628BA79B9859F741E082542A385502F25DBF55296C3A545E3872760AB726EC0EE47E2134BAFA5F3C546F1EB42B61BFBBF680C29F8B667793B4EC55A7B096524B6CB0433E1D47EC5FF5A72AE8BC

/-- The public key of the private key 1. -/
def pub1 : List Byte := Crypto.beBytes 96 0xAA87CA22BE8B05378EB1C71EF320AD746E1D3B628BA79B9859F741E082542A385502F25DBF55296C3A545E3872760AB73617DE4A96262C6F5D9E98BF9292DC29F8F41DBD289A147CE9DA3113B5F0B8C00A60B1CE1D7E819D7A431D7C90EA0E5F

/-- A WRAP_KEY request of serial number 0 with the wrapped key of RFC 3394, 4.6, signed with the private key 1. -/
def wrapReq : List Byte := Crypto.beBytes 156 0x574B0EB10000000001000000000000000000000028C9F404C4B810F4CBCCB35CFB87F8263F5786E2D80ED326CBC7F0E71A99F43BFB988B9B7A02DD21AA87CA22BE8B05378EB1C71EF320AD746E1D3B628BA79B9859F741E082542A385502F25DBF55296C3A545E3872760AB7811A9D5D72842C18ED6F689A071C641C5A46715C1A1C13ACAA9DB52AA9997CF376B49843AE677E5A22F85B458EEEB2B3

/-- An LC_TRANSITION package to DEPLOYED for serial number 0 and nonce 0, signed with the private key 1. -/
def lcPack : List Byte := Crypto.beBytes 128 0x7A1C0EB102030000000000000000000000000000000000000000000000000000AA87CA22BE8B05378EB1C71EF320AD746E1D3B628BA79B9859F741E082542A385502F25DBF55296C3A545E3872760AB75EFFE814032EDA0CBA6F67FD96BA0DAFEA638F6368AAF45C964B0EBDCEAF79675C24B658229DCC8F9239678EFCDD278F

/-- A grant of scope 1 for one minute, likewise. -/
def grantPack : List Byte := Crypto.beBytes 144 0xA51E0EB10100000001000000000000000000000000000000000000000000000000000000000000000000000000000000AA87CA22BE8B05378EB1C71EF320AD746E1D3B628BA79B9859F741E082542A385502F25DBF55296C3A545E3872760AB7ECE64FEE797A083B7FCE6C94E36DF3E9933A476A3E9FD4D504801207AAE36532D06A3FC610E29B33C16F6C3FBFB73361

/-- Of two MISR values one at least does not end in a given value. -/
theorem misr_fails (e : BitVec 64) : ∃ x : BitVec 64, misrEnd x 0 false ≠ e :=
  if h : misrEnd 0 0 false = e then ⟨1, h ▸ by decide⟩ else ⟨0, h⟩

/-- Device keys of 1 with their check words. -/
def keyed : Lcs := { state := 2, imgKey := 1, kek := 1, boot := [(21, 0x16FE6C6B), (22, 0x16FE6C6B)] }

/-- Slot 0 of the store when it holds fullMan: 256 bytes in bank 0, the rest in bank 1. -/
def slotArr : Memory :=
  ((((List.range 256).zip (fullMan.take 256)) : Memory) ++
    (((List.range 80).map (0x2000000 + ·)).zip (fullMan.drop 256))).filter fun c => c.2 != erased

/-- A state whose slot 0 holds fullMan. -/
def slotted (s : State) : State :=
  { s with lcs := keyed, nv := { arr := slotArr, selA := { bytes := selBytes 1 0 }, selB := { bytes := selBytes 2 0 } } }

set_option maxRecDepth 100000 in
theorem slot_manifest : slotManifest (slotted D) 0 = fullMan := by decide +kernel

set_option maxRecDepth 100000 in
theorem slot_checks : slotCheck (servedState (mb 0x0208 [0] (slotted D)) 0) (bf (pw (frontEntry (mb 0x0208 [0] (slotted D)) 0) 0) 0 0) = .ok := by
  have h : slotManifest (servedState (mb 0x0208 [0] (slotted D)) 0) 0 = fullMan := slot_manifest
  have e : bf (pw (frontEntry (mb 0x0208 [0] (slotted D)) 0) 0) 0 0 = 0 := by decide
  rw [e, slotCheck, h]; decide +kernel

/-- The tag of an empty segment under key 0 and IV 0. -/
def tagWords : List Word := [0xFB8A0F53, 0xB93645C7, 0xF1B463A9, 0x8B73CBC4]

/-- A receiver in synchronisation. -/
def lock : RxLine := { at_ := .synced 0 }

/-- Ordered sets from which a receiver gains synchronisation. -/
def idles : List CodeGroup := (List.replicate 4 (idle2 false)).flatten

/-- MAC port 0 in this state, with memory of H0 behind PCI endpoint 0. -/
def EB (m : Mac) : State := { E m with pci := [(0, { up := true, everUp := true, perst := false, bme := true, obLimit := 1 })] }
/-- Load 0 stands in frame 0 of column 1, band 0, of an image for the whole device. -/
def farState : State :=
  { D with cfg := { D.cfg with loads := [(0, { phase := .stream, sync := 2, pos := 10, man := some mf, segLeft := 200,
                                               chunk := some 1, full := true,
                                               far := some (farWord (frameKey 0 1 0) false) })] } }

/-- One ill-formed command for each check: an instance number or a packet field outside its range. -/
def ill : List Instr :=
  [.bootStart 4 false [], .streamSync 17 [], .icpBeat 16 0 false false 0, .prepareSwap 5, .scrubPassStart 16 false false,
   .niInject 128 false [], .rd { pk with tag := 256 }, .rd { pk with len := 257 }, .wrNp { pk with len := 0 },
   .mgRd { pk with src := 512 }, .mcw { pk with mask := 65536 }, .wrP { pk with dst := 0x1000000000000 },
   .rdRsp { pk with gen := 16 }, .wrRsp { pk with epoch := 2 }, .nocTimeout 512 0, .ejectionStall 512,
   .scheduleApply 1024, .syncMessage 16 0 0, .pllLock 32, .smnResult 16 0, .termFire 0x80 0, .termFire 0x110 0,
   .cycleFrame 64, .perstDeassert 4, .window0Tlp 0 0x1000000 (.read 1), .gateInterval 16, .rxSlip 48,
   .xcvLossOfLock 12 false, .doorbell M 5 0, .descriptorStart 8 ⟨.ok, []⟩, .gapMove 64, .nvRefreshStep 0 1024 true,
   .voteTimeout 17, .bandWake 16, .wakeRetry 8, .entryDue 64, .nonceExpiry 4, .leashExpiry 8,
   .registerWrite M 0x1000000 0]

theorem test_ill_formed_is_refused : ill.all (fun i => !i.wellFormed) = true := by decide

/-- The last instance of each kind is accepted. -/
theorem test_last_instances_are_accepted :
    [Instr.streamSync 16 [], .prepareSwap 4, .rd { pk with len := 256 }, .termFire 0x7F 0, .termFire 0x10F 0, .pllLock 31,
     .voteTimeout 16, .nvRefreshStep 63 1023 true, .registerWrite M 0xFFFFFC 0].all (fun i => i.wellFormed) = true := by
  decide

theorem test_the_table_gives_no_bits : decodeTableWord 32 0 = none := rfl

/-! ## Single commands -/

/-- The state after an outcome. -/
def after (o : Host.Outcome State Fault Refusal) : State := match o with | .next s => s | _ => R

/-- The check value of CRC-32C over the digits 1 to 9 (R84). -/
theorem test_crc32c : crc32c [0x31, 0x32, 0x33, 0x34, 0x35, 0x36, 0x37, 0x38, 0x39] = 0xE3069283 := by decide +kernel

/-- The check value of the ring CRC-32 over the digits 1 to 9 (R287). -/
theorem test_crc32 : crc32u [0x31, 0x32, 0x33, 0x34, 0x35, 0x36, 0x37, 0x38, 0x39] = 0xCBF43926 := by decide +kernel

/-- SHA-384 of "abc" (FIPS 180-4). -/
theorem test_sha384 : Crypto.sha384 [0x61, 0x62, 0x63] =
    0xCB00753F45A35E8BB5A03D699AC65007272C32AB0EDED1631A8B605A43FF5BED8086072BA1E7CC2358BAECA134C825A7 := by decide +kernel

/-- The AES-256 example of FIPS 197. -/
theorem test_aes256 :
    Crypto.aesBlock 0x000102030405060708090A0B0C0D0E0F101112131415161718191A1B1C1D1E1F 0x00112233445566778899AABBCCDDEEFF =
      0x8EA2B7CA516745BFEAFC49904B496089 := by decide +kernel

/-- The signature of "sample" in RFC 6979, A.2.6. -/
theorem test_ecdsa :
    Crypto.ecdsaVerify
      (Crypto.beBytes 96 0xEC3A4E415B4E19A4568618029F427FA5DA9A8BC4AE92E02E06AAE5286B300C64DEF8F0EA9055866064A254515480BC138015D9B72D7D57244EA8EF9AC0C621896708A59367F9DFB9F54CA84B3F1C9DB1288B231C3AE0D4FE7344FD2533264720)
      (Crypto.sha384 [0x73, 0x61, 0x6D, 0x70, 0x6C, 0x65])
      (Crypto.beBytes 96 0x94EDBB92A5ECB8AAD4736E56C691916B3F88140666CE9FA73D64C4EA95AD133C81A648152E44ACF96E36DD1E80FABE4699EF4AEB15F178CEA1FE40DB2603138F130E740A19624526203B6351D0A3A94FA329C145786E679E7B82C71A38628AC8) = true := by
  decide +kernel

/-- The frame address of band 3, column 41, minor 39, and the frame after it (R83 and its chapter's example). -/
theorem test_frame_address :
    farWord (frameKey 3 41 39) false = 0x0C292700 ∧ nextFrame (frameKey 3 41 39) = some (frameKey 3 42 0) := by decide

/-- The endpoint and offset of a NoC address (chapter 17's example). -/
theorem test_noc_address : naEp 0x5600000001BC = 0x0AC ∧ naOff 0x5600000001BC = 0x1BC := by decide

/-- A far names column 558 and no later one (R83). -/
theorem test_far_columns : farValid 0x022E0000 = true ∧ farValid 0x022F0000 = false := by decide

/-- IDCODE shifts out the device's identification (R470). -/
theorem test_idcode : (after (exec .idcode R)).out = [.tdo 32 0x14096B3D] := by decide

/-- CLAIM_REGION of an unowned region makes its issuer the owner, and its completion is written (R26, R357). -/
theorem test_claim_region :
    (after (exec (.claimRegion 0) (mb 0x0101 [1] D))).owner 1 = .h0 ∧
    ((after (exec (.claimRegion 0) (mb 0x0101 [1] D))).mbxOf 0).cplTail = 1 := by decide +kernel

/-- The lead domain H0 with SET_POLICY of two pairs in slot 5, as in chapter 12's example. -/
def Pol : State :=
  { D with
    ten := [(0, .h0)]
    mc := { D.mc with
      mbx := [(0, { cmdTail := 6, cmdHead := 5, cplTail := 5, cplHead := 5 })]
      handle := 0x11
      ram := Memory.writeN 0 [] 0x0140
        ([0x04, 0, 0x31, 0, 0, 0, 0, 0, 2, 0, 0, 0, 1, 0, 0, 0, 2, 0, 0, 0, 2, 0, 0, 0, 0xF4, 0x01, 0, 0] : List Byte) } }

/-- Its completion: tag, opcode, OK_CLAMPED, phase and block, handle, pairs applied. -/
theorem test_set_policy :
    Memory.readN 0 (after (exec (.setPolicy 0) Pol)).mc.ram 0x10A0 12 =
      [0x31, 0, 0x04, 0, 0x01, 0x80, 0x12, 0, 2, 0, 0, 0] ∧
    ((after (exec (.setPolicy 0) Pol)).mbxOf 0).cplTail = 6 ∧
    (after (exec (.setPolicy 0) Pol)).pol 1 = 5 ∧ (after (exec (.setPolicy 0) Pol)).pol 2 = 500 := by decide +kernel

/-- A row whose opcode does not stand at CMD_HEAD changes nothing (log entry 9). -/
theorem test_other_opcode : ((after (exec (.releaseRegion 0) (mb 0x0101 [1] D))).mbxOf 0).cmdHead = 0 := by
  decide +kernel

/-- A doorbell that would put more than 64 entries into the ring is an error (R357). -/
theorem test_doorbell_error : ((after (exec (.doorbell M 0 65) D)).mbxOf 0).dbErr = true := by decide +kernel

/-- A device whose region 1 of H0 holds the window of endpoint 8. -/
def W8 : State :=
  { D with
    ten := [(1, .h0)]
    cfg := { regions := [(1, { window := [0x11045803] })] } }

/-- NOC_MUZZLE muzzles the endpoint it names (R215). -/
theorem test_muzzle : isMuzzled (after (exec (.nocMuzzle 0) (mb 0x0401 [8] W8))) 8 = true := by decide +kernel

/-- A loss of lock counts (R70). -/
theorem test_loss_of_lock : ((after (exec (.lossOfLock 0 true) { D with clk := { plls := [(0, { locked := true })] } })).pllOf 0).lol = 1 := by
  decide +kernel

/-- An RTC tick counts (R427). -/
theorem test_rtc_tick : (after (exec .rtcTick D)).pwr.rtc = 1 := by decide +kernel

/-- PREPARE_SWAP of a PREPARED region begins verification (R159). -/
theorem test_prepare_swap :
    ((after (exec (.prepareSwap 0) (mb 0x0203 [0x101] (G .prepared {})))).targetOf 257).state = .verifying := by
  decide +kernel

/-- With nothing pending the block idles for one cycle (log entry 7). -/
theorem test_idle : (after (step R)).uptime = R.uptime + 1 ∧ (after (step R)).pending = [] := by decide +kernel

/-- A step takes the first command away. -/
theorem test_step_takes_the_front :
    (after (step { R with pending := [.idcode, .rtcTick] })).pending = [.rtcTick] := by rfl


/-! ## States that meet the hypotheses of the statements

A clause that rests on the serial number, which the model leaves open, is met by a unit of serial number 0. One that rests
on another constant without a value (a key package, the accounting record), and the one on a long unwrap of a key, are met
under the outcome that the theorem takes as a hypothesis. -/

/-- States and operands that meet the hypotheses of the warm and TAP reset clauses of Resets. -/
theorem reach_Resets_warm :
    (∃ (lowNs : Nat) (s : State),
      lowNs < 500) ∧
    (∃ (lowNs : Nat) (s : State),
      1000 ≤ lowNs ∧
      s.boot.phase ≠ .powerReset ∧
      asleep s = false ∧
      programming s = none) ∧
    (∃ (lowNs : Nat) (s : State),
      1000 ≤ lowNs ∧
      s.boot.phase ≠ .powerReset ∧
      asleep s = false ∧
      (programming s).isSome) ∧
    (∃ (lowNs : Nat) (s : State),
      500 ≤ lowNs ∧
      lowNs < 1000 ∧
      s.boot.phase ≠ .powerReset) :=
  ⟨⟨0, R,
     by decide⟩,
   ⟨1000, D,
     by decide,
     by decide,
     by decide,
     by decide⟩,
   ⟨1000, { D with lcs := { D.lcs with run := some { cmd := none, target := 4, run2 := true } } },
     by decide,
     by decide,
     by decide,
     by decide⟩,
   ⟨500, D,
     by decide,
     by decide,
     by decide⟩⟩

/-- States and operands that meet the hypotheses of each clause of BootStart. -/
theorem reach_BootStart :
    (∃ (m : Nat) (rom : Bool) (mv : List Nat) (s : State),
      bootCause s = none) ∧
    (∃ (m : Nat) (rom : Bool) (mv : List Nat) (s : State),
      (s.boot.phase = .powerReset ∨ s.boot.phase = .resetHeld) ∧
      m % 4 = 2 ∧
      sppLevel mv = false) ∧
    (∃ (m : Nat) (mv : List Nat) (s : State),
      ((s.boot.phase = .powerReset ∧ s.tbs.ref = true) ∨ s.boot.phase = .resetHeld) ∧
      (m % 4 = 2 → sppLevel mv = true)) ∧
    (∃ (m : Nat) (mv : List Nat) (s : State),
      ((s.boot.phase = .powerReset ∧ s.tbs.ref = true) ∨ s.boot.phase = .resetHeld) ∧
      (m % 4 = 2 → sppLevel mv = true) ∧
      5 ≤ lcDecode s.lcs.otp s.lcs.imgKey s.lcs.kek) ∧
    (∃ (m : Nat) (mv : List Nat) (s : State),
      ((s.boot.phase = .powerReset ∧ s.tbs.ref = true) ∨ s.boot.phase = .resetHeld) ∧
      (m % 4 = 2 → sppLevel mv = true) ∧
      lcDecode s.lcs.otp s.lcs.imgKey s.lcs.kek ≤ 2 ∧
      m % 4 ≠ 0) :=
  ⟨⟨0, false, [], D,
     by decide⟩,
   ⟨2, false, [], R,
     Or.inl (by decide),
     by decide,
     by decide⟩,
   ⟨0, [], { R with tbs := { R.tbs with ref := true } },
     Or.inl (by decide),
     by decide⟩,
   ⟨0, [], { R with tbs := { R.tbs with ref := true }, lcs := { R.lcs with imgKey := 1 } },
     Or.inl (by decide),
     by decide,
     by decide⟩,
   ⟨1, [], { R with tbs := { R.tbs with ref := true } },
     Or.inl (by decide),
     by decide,
     by decide,
     by decide⟩⟩

set_option maxRecDepth 100000 in
/-- States and operands that meet the hypotheses of each clause of StreamStarts. -/
theorem reach_StreamStarts :
    (∃ (ld : Nat) (n : Nat) (ignored : List Word) (s : State),
      (s.loadOf ld).phase = .stream ∧
      (s.loadOf ld).sync ≠ 2 ∧
      ((s.loadOf ld).port = true → bufFull (s.loadOf ld) = true) ∧
      beforeSync ignored = none ∧
      syncAt s (s.loadOf ld) ignored = some n) ∧
    (∃ (ld : Nat) (ignored : List Word) (s : State),
      (s.loadOf ld).phase = .stream ∧
      (s.loadOf ld).sync ≠ 2 ∧
      (s.loadOf ld).port = false ∧
      beforeSync ignored = none ∧
      syncAt s (s.loadOf ld) ignored = none) ∧
    (∃ (ld : Nat) (b0 : List Byte) (b : List Byte) (s : State),
      (s.loadOf ld).phase = .manifest ∧
      s.boot.cfgErr = false ∧
      manAt s (s.loadOf ld) b0 = some b ∧
      loadManCheck s.start (s.loadOf ld) b = .ok) ∧
    (∃ (ld : Nat) (b0 : List Byte) (b : List Byte) (s : State),
      (s.loadOf ld).phase = .manifest ∧
      manAt s (s.loadOf ld) b0 = some b ∧
      loadManCheck s.start (s.loadOf ld) b ≠ .ok) ∧
    (∃ (ld : Nat) (hdr : Word) (s : State),
      recReady s ld [hdr] ∧
      wf hdr 31 24 = 0 ∧
      (s.loadOf ld).segLeft = 0) ∧
    (∃ (ld : Nat) (hdr : Word) (s : State),
      recReady s ld [hdr] ∧
      wf hdr 31 24 = 0 ∧
      0 < (s.loadOf ld).segLeft) ∧
    (∃ (ld : Nat) (s : State),
      (s.loadOf ld).phase = .wait1us ∧
      (s.loadOf ld).began = true) :=
  ⟨⟨0, 0, [], { D with cfg := { D.cfg with loads := [(0, { phase := .stream, man := some mf })] } },
     by decide,
     by decide,
     by decide,
     by decide,
     by decide⟩,
   ⟨0, [], { D with cfg := { D.cfg with loads := [(0, { phase := .stream })] } },
     by decide,
     by decide,
     by decide,
     by decide,
     by decide⟩,
   ⟨0, fullMan, fullMan, { D with lcs := keyed, cfg := { D.cfg with loads := [(0, { phase := .manifest, full := true })] } },
     by decide,
     by decide,
     rfl,
     by decide +kernel⟩,
   ⟨0, [], [], { D with cfg := { D.cfg with loads := [(0, { phase := .manifest })] } },
     by decide,
     by decide,
     by decide⟩,
   ⟨0, 0, { D with cfg := { D.cfg with loads := [(0, { phase := .stream, sync := 2, pos := 10, man := some mf })] } },
     by unfold recReady; decide,
     by decide,
     by decide⟩,
   ⟨0, 0, { D with cfg := { D.cfg with loads := [(0, { phase := .stream, sync := 2, pos := 10, man := some mf, segLeft := 1 })] } },
     by unfold recReady; decide,
     by decide,
     by decide⟩,
   ⟨0, { D with cfg := { D.cfg with loads := [(0, { phase := .wait1us, began := true })] } },
     by decide,
     by decide⟩⟩

/-- States and operands that meet the hypotheses of each clause of StreamControl. -/
theorem reach_StreamControl :
    (∃ (ld : Nat) (arg : Nat) (w : Word) (v : Word) (cs : List FieldClamp) (s : State),
      plainReady s ld (header 3 arg) [w] true ∧
      bf arg 23 16 = 0 ∧
      checkReg (s.loadOf ld).m.idcode (if (s.loadOf ld).full then none else some (s.loadOf ld).region) (bf arg 15 0) w = some (v, cs)) ∧
    (∃ (ld : Nat) (arg : Nat) (v : Word) (cs : List FieldClamp) (s : State),
      plainReady s ld (header 8 arg) [] true ∧
      (s.loadOf ld).full = true ∧
      checkReg (s.loadOf ld).m.idcode none 0x0002 (wd (arg % 0x1000000)) = some (v, cs)) ∧
    (∃ (ld : Nat) (arg : Nat) (body : List Word) (s : State),
      plainReady s ld (header 9 arg) body true ∧
      (s.loadOf ld).full = true ∧
      bf arg 23 16 = 0 ∧
      1 ≤ bf arg 15 8 ∧
      bf arg 15 8 ≤ 4 ∧
      bf arg 7 0 ≤ 127 ∧
      body.length = bf arg 15 8 ∧
      (s.loadOf ld).decls.any (fun e => e.1 == bf arg 7 0) = false ∧
      rectsOk ((s.loadOf ld).decls.map (·.2)) body = true) ∧
    (∃ (ld : Nat) (arg : Nat) (body : List Word) (s : State),
      plainReady s ld (header 9 arg) body true ∧
      (s.loadOf ld).full = false ∧
      bf arg 23 16 = 0 ∧
      1 ≤ bf arg 15 8 ∧
      bf arg 15 8 ≤ 4 ∧
      bf arg 7 0 ≤ 127 ∧
      body.length = bf arg 15 8 ∧
      (s.loadOf ld).decls.any (fun e => e.1 == bf arg 7 0) = false ∧
      bf arg 7 0 = (s.loadOf ld).region ∧
      (s.regionOf (bf arg 7 0)).window.isEmpty = false ∧
      (s.regionOf (bf arg 7 0)).window = body) :=
  ⟨⟨0, 1, 5, 5, [], { D with cfg := { D.cfg with loads := [(0, { phase := .stream, sync := 2, pos := 10, man := some mf, segLeft := 9, chunk := some 0 })] } },
     by unfold plainReady recReady; decide,
     by decide,
     by decide⟩,
   ⟨0, 0x222211, 0x222211, [], { D with cfg := { D.cfg with loads := [(0, { phase := .stream, sync := 2, pos := 10, man := some mf, segLeft := 9, chunk := some 0, full := true })] } },
     by unfold plainReady recReady; decide,
     by decide,
     by decide⟩,
   ⟨0, 0x101, [RW], { D with cfg := { D.cfg with loads := [(0, { phase := .stream, sync := 2, pos := 10, man := some mf, segLeft := 9, chunk := some 0, full := true })] } },
     by unfold plainReady recReady; decide,
     by decide,
     by decide,
     by decide,
     by decide,
     by decide,
     by decide,
     by decide,
     by decide⟩,
   ⟨0, 0x100, [0], { { D with cfg := { D.cfg with loads := [(0, { phase := .stream, sync := 2, pos := 10, man := some mf, segLeft := 9, chunk := some 0 })] } } with cfg := { ({ D with cfg := { D.cfg with loads := [(0, { phase := .stream, sync := 2, pos := 10, man := some mf, segLeft := 9, chunk := some 0 })] } }).cfg with regions := [(0, { window := [0] })] } },
     by unfold plainReady recReady; decide,
     by decide,
     by decide,
     by decide,
     by decide,
     by decide,
     by decide,
     by decide,
     by decide,
     by decide,
     by decide⟩⟩

set_option maxRecDepth 100000 in
/-- States and operands that meet the hypotheses of each clause of StreamSegments. -/
theorem reach_StreamSegments :
    (∃ (ld : Nat) (arg : Nat) (body : List Word) (s : State),
      outerReady s ld (header 5 arg :: body) ∧
      (s.loadOf ld).segOpen = false ∧
      (s.loadOf ld).checked = false ∧
      ((arg = 1 → ((s.loadOf ld).nv = some .slot0 → indexOk s 0 = true) ∧ ((s.loadOf ld).nv = some .slot1 → indexOk s 1 = true))) ∧
      arg = ((s.loadOf ld).chunk.map (· + 1)).getD 0 ∧
      arg < (s.loadOf ld).m.chunks ∧
      wf (nth body 0) 27 13 = 0 ∧
      body.length = 4 + (wf (nth body 0) 31 28 + 1) ∧
      ((if arg = 0 then wf (nth body 0) 12 0 = 0 else 1 ≤ wf (nth body 0) 12 0 ∧ wf (nth body 0) 12 0 ≤ 4096)) ∧
      (wordBytes ((body.drop 1).take 3)).take 4 = Crypto.beBytes 4 arg ∧
      (wordBytes ((body.drop 1).take 3)).drop 11 = [0]) ∧
    (∃ (ld : Nat) (body : List Word) (s : State),
      recReady s ld (header 4 0 :: body) ∧
      body.length = 4 ∧
      (s.loadOf ld).segLeft = 0 ∧
      (s.loadOf ld).rollDue = true) ∧
    (∃ (ld : Nat) (arg : Nat) (body : List Word) (s : State),
      outerReady s ld (header 6 arg :: body) ∧
      (s.loadOf ld).tagDue = true ∧
      arg = (s.loadOf ld).seg ∧
      body.length = 4 ∧
      arg + 1 ≠ (s.loadOf ld).lens.length) ∧
    (∃ (ld : Nat) (arg : Nat) (body : List Word) (s : State),
      outerReady s ld (header 6 arg :: body) ∧
      (s.loadOf ld).tagDue = true ∧
      arg = (s.loadOf ld).seg ∧
      body.length = 4 ∧
      arg + 1 = (s.loadOf ld).lens.length ∧
      (s.loadOf ld).chunk ≠ some 0 ∧
      wordBytes body = Crypto.beBytes 16 (Crypto.gcmTag (s.loadOf ld).key ((s.loadOf ld).iv.take 11 ++ [BitVec.ofNat 8 arg]) (s.loadOf ld).aad (s.loadOf ld).plain).toNat ∧
      (s.loadOf ld).inChunk = (s.loadOf ld).declared) ∧
    (∃ (ld : Nat) (arg : Nat) (body : List Word) (s : State),
      outerReady s ld (header 6 arg :: body) ∧
      (s.loadOf ld).tagDue = true ∧
      arg = (s.loadOf ld).seg ∧
      body.length = 4 ∧
      arg + 1 = (s.loadOf ld).lens.length ∧
      (s.loadOf ld).chunk = some 0 ∧
      wordBytes body = Crypto.beBytes 16 (Crypto.gcmTag (s.loadOf ld).key ((s.loadOf ld).iv.take 11 ++ [BitVec.ofNat 8 arg]) (s.loadOf ld).aad (s.loadOf ld).plain).toNat ∧
      (s.loadOf ld).inChunk = (s.loadOf ld).declared ∧
      wordBytes body = (s.loadOf ld).m.tags.getD 0 []) :=
  ⟨⟨0, 0, [0, 0, 0, 0, 0], { D with cfg := { D.cfg with loads := [(0, { phase := .stream, sync := 2, pos := 10, man := some mf })] } },
     by unfold outerReady recReady; decide,
     by decide,
     by decide,
     by decide,
     by decide,
     by decide,
     by decide,
     by decide,
     by decide,
     by decide,
     by decide⟩,
   ⟨0, [0, 0, 0, 0], { D with cfg := { D.cfg with loads := [(0, { phase := .stream, sync := 2, pos := 10, man := some mf, rollDue := true })] } },
     by unfold recReady; decide,
     by decide,
     by decide,
     by decide⟩,
   ⟨0, 0, [0, 0, 0, 0], { D with cfg := { D.cfg with loads := [(0, { phase := .stream, sync := 2, pos := 10, man := some mf, tagDue := true, lens := [1, 1] })] } },
     by unfold outerReady recReady; decide,
     by decide,
     by decide,
     by decide,
     by decide⟩,
   ⟨0, 0, tagWords, { D with cfg := { D.cfg with loads := [(0, { phase := .stream, sync := 2, pos := 10, man := some mf, tagDue := true, lens := [1], chunk := some 1 })] } },
     by unfold outerReady recReady; decide,
     by decide,
     by decide,
     by decide,
     by decide,
     by decide,
     by decide +kernel,
     by decide⟩,
   ⟨0, 0, tagWords, { D with cfg := { D.cfg with loads := [(0, { phase := .stream, sync := 2, pos := 10, man := some { mf with tags := [wordBytes tagWords] }, tagDue := true, lens := [1], chunk := some 0 })] } },
     by unfold outerReady recReady; decide,
     by decide,
     by decide,
     by decide,
     by decide,
     by decide,
     by decide +kernel,
     by decide,
     by decide⟩⟩

set_option maxRecDepth 100000 in
/-- States and operands that meet the hypotheses of each clause of StreamFrames. -/
theorem reach_StreamFrames :
    (∃ (ld : Nat) (w : Word) (s : State),
      plainReady s ld (header 1 0) [w] false ∧
      (s.loadOf ld).full = true ∧
      farValid w = true) ∧
    (∃ (ld : Nat) (w : Word) (s : State),
      plainReady s ld (header 1 0) [w] false ∧
      (s.loadOf ld).full = false ∧
      (s.rects (s.loadOf ld).region).isEmpty = false ∧
      farValid w = true) ∧
    (∃ (ld : Nat) (arg : Nat) (body : List Word) (s : State),
      plainReady s ld (header 2 arg) body false ∧
      0 < arg ∧
      body.length = 129 * arg ∧
      (s.loadOf ld).inSeg + arg ≤ 1024 ∧
      (s.loadOf ld).far.isSome) ∧
    (∃ (ld : Nat) (arg : Nat) (body : List Word) (s : State),
      plainReady s ld (header 10 arg) body false ∧
      1 ≤ arg ∧
      arg ≤ 1024 ∧
      body.length = arg ∧
      (s.loadOf ld).shadow = true ∧
      (s.loadOf ld).far.isSome) ∧
    (∃ (ld : Nat) (fr : List Word) (rest : List (List Word)) (s : State),
      addrCheck s (s.loadOf ld) (wd ((s.loadOf ld).far.getD 0)) = .ok ∧
      isContent ((wd ((s.loadOf ld).far.getD 0)).toNat / 256) = false ∧
      nth fr 128 = crc32c (wordBytes (fr.take 128))) ∧
    (∃ (ld : Nat) (w : Word) (s : State),
      outerReady s ld [header 7 0, w] ∧
      (s.loadOf ld).tagDue = false ∧
      (s.loadOf ld).checked = false ∧
      (s.loadOf ld).chunk = some ((s.loadOf ld).m.chunks - 1) ∧
      (s.loadOf ld).fdataN = (s.loadOf ld).m.fdata ∧
      (s.loadOf ld).sigsN = (s.loadOf ld).m.sigs ∧
      w = wd ((s.loadOf ld).crc ^^^ 0xFFFFFFFF) ∧
      w = (s.loadOf ld).m.crc) ∧
    (∃ (ld : Nat) (s : State),
      lastReady s ld (header 15 0) ∧
      (s.loadOf ld).tagDue = false ∧
      (s.loadOf ld).checked = true) :=
  ⟨⟨0, 0, { D with cfg := { D.cfg with loads := [(0, { phase := .stream, sync := 2, pos := 10, man := some mf, segLeft := 200, chunk := some 1, full := true })] } },
     by unfold plainReady recReady; decide,
     by decide,
     by decide⟩,
   ⟨0, 0, { { D with cfg := { D.cfg with loads := [(0, { phase := .stream, sync := 2, pos := 10, man := some mf, segLeft := 200, chunk := some 1 })] } } with cfg := { ({ D with cfg := { D.cfg with loads := [(0, { phase := .stream, sync := 2, pos := 10, man := some mf, segLeft := 200, chunk := some 1 })] } }).cfg with regions := [(0, { window := [0] })] } },
     by unfold plainReady recReady; decide,
     by decide,
     by decide,
     by decide⟩,
   ⟨0, 1, List.replicate 129 0, { D with cfg := { D.cfg with loads := [(0, { phase := .stream, sync := 2, pos := 10, man := some mf, segLeft := 200, chunk := some 1, far := some 0 })] } },
     by unfold plainReady recReady; decide +kernel,
     by decide,
     by decide +kernel,
     by decide,
     by decide⟩,
   ⟨0, 1, [0], { D with cfg := { D.cfg with loads := [(0, { phase := .stream, sync := 2, pos := 10, man := some mf, segLeft := 200, chunk := some 1, far := some 0, shadow := true })] } },
     by unfold plainReady recReady; decide,
     by decide,
     by decide,
     by decide,
     by decide,
     by decide⟩,
   ⟨0, List.replicate 128 0 ++ [0x30FCEDC0], [], { { D with cfg := { D.cfg with loads := [(0, { phase := .stream, sync := 2, pos := 10, man := some mf, segLeft := 200, chunk := some 1 })] } } with cfg := { ({ D with cfg := { D.cfg with loads := [(0, { phase := .stream, sync := 2, pos := 10, man := some mf, segLeft := 200, chunk := some 1 })] } }).cfg with regions := [(0, { window := [0] })] } },
     by decide,
     by decide,
     by decide +kernel⟩,
   ⟨0, 0, { D with cfg := { D.cfg with loads := [(0, { phase := .stream, sync := 2, pos := 10, man := some mf, chunk := some 0 })] } },
     by unfold outerReady recReady; decide,
     by decide,
     by decide,
     by decide,
     by decide,
     by decide,
     by decide,
     by decide⟩,
   ⟨0, { D with cfg := { D.cfg with loads := [(0, { phase := .stream, sync := 2, pos := 1023, man := some mf, checked := true })] } },
     by unfold lastReady; decide,
     by decide,
     by decide⟩⟩

/-- States and operands that meet the hypotheses of each clause of Startup. -/
theorem reach_Startup :
    (∃ (q : Nat) (s : State),
      s.boot.suActive = true ∧
      s.boot.suWait = 0 ∧
      nextPhase s = some q ∧
      (∀ i, i < 2 → eventPhase s i = q → waitMet s i = true)) ∧
    (∃ (q : Nat) (s : State),
      s.boot.suActive = true ∧
      s.boot.suWait = 0 ∧
      nextPhase s = some q ∧
      eventPhase s 0 = q ∧
      waitMet s 0 = false) ∧
    (∃ (n : Nat) (s : State),
      s.boot.suActive = true ∧
      (n = 0 ∨ n = 1) ∧
      s.boot.suWait = 2 ^ n ∧
      waitMet s n = true) :=
  ⟨⟨1, { R with boot := { suActive := true }, cfg := { regs := [(2, 0x222211)] } },
     by decide,
     by decide,
     by decide,
     by decide⟩,
   ⟨1, { R with boot := { suActive := true }, cfg := { regs := [(2, 0x222211)] }, clk := { plls := [(0, { aCtrl := 0x40000000 })] } },
     by decide,
     by decide,
     by decide,
     by decide,
     by decide⟩,
   ⟨1, { R with boot := { suActive := true, suWait := 2 }, cfg := { regs := [(2, 0x222211)] } },
     by decide,
     by decide,
     by decide,
     by decide⟩⟩

set_option maxRecDepth 100000 in
/-- States and operands that meet the hypotheses of each clause of PushedWords. -/
theorem reach_PushedWords :
    (∃ (w : Word) (s : State),
      sppPort s = true ∧
      sppWait s = false ∧
      takesFrom s 2 = true) ∧
    (∃ (s : State),
      sppPort s = true ∧
      sppWait s = false ∧
      (s.loadOf mgmt).phase = .idle ∧
      s.boot.cfgMode = 2 ∧
      s.boot.mcUp = true ∧
      s.boot.imgActive = false ∧
      s.boot.phase = .waitImage ∧
      lcImages s = true) ∧
    (∃ (bs : List Byte) (s : State),
      bs.length % 4 = 0) ∧
    (∃ (bs : List Byte) (s : State),
      bs.length % 4 ≠ 0) ∧
    (∃ (w : Word) (s : State),
      takesFrom s 1 = true ∧
      (s.loadOf mgmt).fifo.length < 4096) ∧
    (∃ (w : Word) (s : State),
      takesFrom s 1 = true ∧
      4096 ≤ (s.loadOf mgmt).fifo.length) :=
  ⟨⟨0, { D with boot := { phase := .waitImage, mcUp := true, cfgMode := 2, suppliesOk := true }, cfg := { loads := [(16, { phase := .stream, sup := true })] } },
     by decide,
     by decide,
     by decide⟩,
   ⟨{ D with boot := { phase := .waitImage, mcUp := true, cfgMode := 2, suppliesOk := true } },
     by decide,
     by decide,
     by decide,
     by decide,
     by decide,
     by decide,
     by decide,
     by decide⟩,
   ⟨[], R,
     by decide⟩,
   ⟨[0], R,
     by decide⟩,
   ⟨0, { D with boot := { D.boot with cfgMode := 1 }, cfg := { loads := [(16, { phase := .stream, sup := true })] } },
     by decide,
     by decide⟩,
   ⟨0, { D with boot := { D.boot with cfgMode := 1 }, cfg := { loads := [(16, { phase := .stream, sup := true, fifo := List.replicate 4096 0 })] } },
     by decide +kernel,
     by decide +kernel⟩⟩

/-- States and operands that meet the hypotheses of each clause of IcpBeats. -/
theorem reach_IcpBeats :
    (∃ (icp : Nat) (region : Nat) (d : BitVec 128) (eop : Bool) (s : State),
      icp ≤ 15 ∧
      icpReady s icp = true ∧
      (s.loadOf icp).phase = .idle ∧
      mayLoad s (region % 128) = true ∧
      loadHeld s (region % 128) = false) ∧
    (∃ (icp : Nat) (region : Nat) (d : BitVec 128) (eop : Bool) (s : State),
      icp ≤ 15 ∧
      icpReady s icp = true ∧
      (s.loadOf icp).phase = .idle ∧
      (mayLoad s (region % 128) = false ∨ loadHeld s (region % 128) = true)) ∧
    (∃ (icp : Nat) (region : Nat) (d : BitVec 128) (s : State),
      icp ≤ 15 ∧
      icpReady s icp = true ∧
      ((s.loadOf icp).phase = .manifest ∨ (s.loadOf icp).phase = .stream) ∧
      (∀ n, containerLen (s.loadOf icp) = some n → (s.loadOf icp).bytesIn < n)) ∧
    (∃ (icp : Nat) (region : Nat) (d : BitVec 128) (sop : Bool) (s : State),
      icp ≤ 15 ∧
      icpReady s icp = true ∧
      (s.loadOf icp).phase = .drain) :=
  ⟨⟨0, 0, 0, false, D,
     by decide,
     by decide,
     by decide,
     by decide,
     by decide⟩,
   ⟨0, 1, 0, false, G .switching {},
     by decide,
     by decide,
     by decide,
     by decide⟩,
   ⟨0, 0, 0, { D with cfg := { D.cfg with loads := [(0, { phase := .manifest })] } },
     by decide,
     by decide,
     by decide,
     fun n h => nomatch (show (none : Option Nat) = some n from h)⟩,
   ⟨0, 0, 0, false, { D with cfg := { D.cfg with loads := [(0, { phase := .drain })] } },
     by decide,
     by decide,
     by decide⟩⟩

/-- States and operands that meet the hypotheses of each clause of SwapCommands. -/
theorem reach_SwapCommands :
    (∃ (d : Nat) (s : State),
      served s d 0x0203 .owner ∧
      targetId (frontEntry s d) ≠ 15 ∧
      ownsTarget s (frontEntry s d) (targetId (frontEntry s d)) = true ∧
      badTarget s (targetId (frontEntry s d)) = false ∧
      prepareHeld s (members s (targetId (frontEntry s d))) = false ∧
      prepareCheck s (targetId (frontEntry s d)) (members s (targetId (frontEntry s d))) = (.ok, 0xFF)) ∧
    (∃ (d : Nat) (s : State),
      served s d 0x0204 .owner ∧
      targetId (frontEntry s d) ≠ 15 ∧
      ownsTarget s (frontEntry s d) (targetId (frontEntry s d)) = true ∧
      badTarget s (targetId (frontEntry s d)) = false ∧
      (s.targetOf (targetId (frontEntry s d))).state = .ready ∧
      s.now + 2000 ≤ pw (frontEntry s d) 1 + pw (frontEntry s d) 2 * 0x100000000 ∧
      pw (frontEntry s d) 1 + pw (frontEntry s d) 2 * 0x100000000 ≤ s.now + 100000000000) ∧
    (∃ (d : Nat) (s : State),
      served s d 0x0205 .owner ∧
      targetId (frontEntry s d) ≠ 15 ∧
      ownsTarget s (frontEntry s d) (targetId (frontEntry s d)) = true ∧
      badTarget s (targetId (frontEntry s d)) = false ∧
      ((s.targetOf (targetId (frontEntry s d))).state = .verifying ∨ (s.targetOf (targetId (frontEntry s d))).state = .ready ∨ (s.targetOf (targetId (frontEntry s d))).state = .armed)) :=
  ⟨⟨0, mb 0x0203 [0x101] (G .prepared {}),
     ⟨by decide, by decide, by decide, by decide, by decide, Or.inl (by decide)⟩,
     by decide,
     by decide,
     by decide,
     by decide,
     by decide⟩,
   ⟨0, mb 0x0204 [0x101, 5000, 0] (G .prepared { state := .ready }),
     ⟨by decide, by decide, by decide, by decide, by decide, Or.inl (by decide)⟩,
     by decide,
     by decide,
     by decide,
     by decide,
     by decide,
     by decide⟩,
   ⟨0, mb 0x0205 [0x101] (G .prepared { state := .ready }),
     ⟨by decide, by decide, by decide, by decide, by decide, Or.inl (by decide)⟩,
     by decide,
     by decide,
     by decide,
     by decide⟩⟩

set_option maxRecDepth 100000 in
/-- States and operands that meet the hypotheses of each clause of SwapRuns. -/
theorem reach_SwapRuns :
    (∃ (t : Nat) (s : State),
      (s.targetOf t).state = .verifying ∧
      (∀ k ∈ verifyFrames s t, shadowFails s k = false)) ∧
    (∃ (t : Nat) (k : Nat) (m : Nat) (s : State),
      (s.targetOf t).state = .verifying ∧
      k ∈ verifyFrames s t ∧
      shadowFails s k = true ∧
      m = (failingMembers s t ((verifyFrames s t).filter (shadowFails s))).min?.getD 0xFF) ∧
    (∃ (t : Nat) (t' : Nat) (alive : List Nat) (s : State),
      t ≠ 15 ∧
      (s.targetOf t).state = .armed ∧
      decisionAt s t = some t' ∧
      decideFail s t alive = none) ∧
    (∃ (t' : Nat) (alive : List Nat) (s : State),
      (s.targetOf 15).state = .armed ∧
      decisionAt s 15 = some t' ∧
      decideFail s 15 alive = none) ∧
    (∃ (t : Nat) (t' : Nat) (m : Nat) (cause : Nat) (alive : List Nat) (s : State),
      (s.targetOf t).state = .armed ∧
      decisionAt s t = some t' ∧
      decideFail s t alive = some (m, cause)) ∧
    (∃ (t : Nat) (r : Nat) (s : State),
      awaits s t r false = true) ∧
    (∃ (t : Nat) (r : Nat) (s : State) (u : State),
      r ≠ staticMember ∧
      (s.targetOf t).init = false ∧
      u = (flipFrames s (flipSet s t r)).setRegion r { (flipFrames s (flipSet s t r)).regionOf r with state := .switching, hold := true, gsr := ((flipFrames s (flipSet s t r)).regionOf r).isolated }) ∧
    (∃ (t : Nat) (r : Nat) (s : State),
      awaits s t r true = true ∧
      s.now ≤ (s.targetOf t).tPrime + 1000000 ∧
      (((((netMembers s t r true).foldl (memberE1 t) s.start).targetOf t).pending.isEmpty = false ∨ (((netMembers s t r true).foldl (memberE1 t) s.start).targetOf t).state ≠ .switching))) ∧
    (∃ (t : Nat) (r : Nat) (s : State) (u : State),
      awaits s t r true = true ∧
      s.now ≤ (s.targetOf t).tPrime + 1000000 ∧
      u = (netMembers s t r true).foldl (memberE1 t) s.start ∧
      (u.targetOf t).pending.isEmpty = true ∧
      (u.targetOf t).state = .switching) ∧
    (∃ (t : Nat) (s : State),
      (s.targetOf t).state = .switching ∧
      (s.targetOf t).pending.isEmpty = false ∧
      (s.targetOf t).tPrime + 1000000 < s.now) :=
  ⟨⟨257, G .prepared { state := .verifying },
     by decide,
     by decide⟩,
   ⟨257, 0, _, { D with ten := [(1, .h0)], cfg := { regions := [(1, { window := [RW], state := .prepared, shadow := [0] })], targets := [(257, { state := .verifying, members := [1] })], frames := [(0, { b := { sig := 0 } })] } },
     by decide,
     by decide +kernel,
     by decide +kernel,
     rfl⟩,
   ⟨257, 0, [1], { D with ten := [(1, .h0)], cfg := { regions := [(1, { window := [RW], state := .prepared })], targets := [(257, { state := .armed, members := [1] })] } },
     by decide,
     by decide,
     by decide +kernel,
     by decide +kernel⟩,
   ⟨0, [], { D with cfg := { targets := [(15, { state := .armed })] } },
     by decide,
     by decide +kernel,
     by decide +kernel⟩,
   ⟨257, 0, 1, 2, [], { D with ten := [(1, .h0)], cfg := { regions := [(1, { window := [RW], state := .prepared })], targets := [(257, { state := .armed, members := [1] })] } },
     by decide,
     by decide +kernel,
     by decide +kernel⟩,
   ⟨257, 1, { D with ten := [(1, .h0)], cfg := { regions := [(1, { window := [RW], state := .switchPending })], targets := [(257, { state := .switching, members := [1] })] } },
     by decide⟩,
   ⟨257, 1, R, _,
     by decide,
     by decide,
     rfl⟩,
   ⟨257, 1, { D with ten := [(1, .h0)], cfg := { regions := [(1, { window := [RW], state := .switching }), (2, { state := .switching, clock := 1 })], targets := [(257, { state := .switching, members := [1, 2], pending := [1, 2] })] } },
     by decide,
     by decide,
     Or.inl (by decide +kernel)⟩,
   ⟨257, 1, { D with ten := [(1, .h0)], cfg := { regions := [(1, { window := [RW], state := .switching })], targets := [(257, { state := .switching, members := [1], pending := [1] })] } }, _,
     by decide,
     by decide,
     rfl,
     by decide +kernel,
     by decide +kernel⟩,
   ⟨257, { D with tbs := { dtb := 2000000 <<< 44 }, ten := [(1, .h0)], cfg := { regions := [(1, { window := [RW], state := .switching })], targets := [(257, { state := .switching, pending := [1] })] } },
     by decide,
     by decide,
     by decide⟩⟩

set_option maxRecDepth 100000 in
/-- States and operands that meet the hypotheses of each clause of Scrubbing. -/
theorem reach_Scrubbing :
    (∃ (b : Nat) (c1 : Bool) (c2 : Bool) (s : State),
      b ≤ 15 ∧
      s.scr.enable = true ∧
      s.scr.halted = false ∧
      scrRuns s b = true ∧
      boundaryDue s = false ∧
      (s.scrOf b).reading = false ∧
      (s.scrOf b).due = true) ∧
    (∃ (b : Nat) (c1 : Bool) (c2 : Bool) (s : State),
      b ≤ 15 ∧
      s.scr.enable = true ∧
      s.scr.halted = false ∧
      scrRuns s b = true ∧
      boundaryDue s = true) ∧
    (∃ (b : Nat) (c2 : Bool) (s : State),
      canaryOk s b = true) ∧
    (∃ (b : Nat) (c1 : Bool) (s : State),
      (c1 && canaryOk s b) = false ∧
      (s.scrOf b).detect = false) ∧
    (∃ (b : Nat) (tmr : Nat) (ups : List (Nat × Bool × Nat)) (c1 : Bool) (c2 : Bool) (s : State) (u : State),
      b ≤ 15 ∧
      u = checkState ups tmr s.start ∧
      (u.scrOf b).reading = true ∧
      u.scr.halted = false ∧
      scrRuns u b = true ∧
      (u.scrOf b).canary = true) ∧
    (∃ (b : Nat) (key : Nat) (tmr : Nat) (ups : List (Nat × Bool × Nat)) (c1 : Bool) (c2 : Bool) (s : State) (u : State),
      b ≤ 15 ∧
      u = checkState ups tmr s.start ∧
      (u.scrOf b).reading = true ∧
      u.scr.halted = false ∧
      scrRuns u b = true ∧
      (u.scrOf b).canary = false ∧
      key = frameKey b (u.scrOf b).col (u.scrOf b).minor) ∧
    (∃ (b : Nat) (key : Nat) (c1 : Bool) (c2 : Bool) (s : State),
      planeErrs (s.frameOf key).active = [] ∧
      crc32c (wordBytes (planeRead (s.frameOf key).active)) = (s.frameOf key).active.sig ∧
      planeBad (s.frameOf key).active = false) ∧
    (∃ (b : Nat) (key : Nat) (w : Nat) (c1 : Bool) (c2 : Bool) (s : State),
      (s.frameOf key).active.uncorr = false ∧
      (s.frameOf key).active.pend = false ∧
      planeBad (s.frameOf key).active = false ∧
      crc32c (wordBytes (planeRead (s.frameOf key).active)) = (s.frameOf key).active.sig ∧
      ((planeErrs (s.frameOf key).active).map fun e => e.1).min? = some w) ∧
    (∃ (b : Nat) (key : Nat) (w : Nat) (s : State),
      (s.frameOf key).active.src ≠ .pushed ∧
      (s.frameOf key).active.src ≠ .unwritten ∧
      scrWrites s b = true) ∧
    (∃ (far : Nat) (physB : Bool) (r : ReloadRead) (c2 : Bool) (p : Plane) (s : State) (u : State),
      p = (if physB = true then (s.frameOf (bf far 29 8)).b else (s.frameOf (bf far 29 8)).a) ∧
      p.pend = true ∧
      s.scr.halted = false ∧
      mcRuns s = true ∧
      reloadWaits s.start p = false ∧
      canaryOk s (keyBand (bf far 29 8)) = true ∧
      (s.scrOf (keyBand (bf far 29 8))).detect = false ∧
      u = reloadMeets s.start p) ∧
    (∃ (s : State),
      s.scr.enable = true ∧
      s.scr.since + 86400000000000 ≤ s.uptime ∧
      s.scr.active < s.scr.cfg) ∧
    (∃ (s : State),
      s.scr.enable = true ∧
      s.scr.since + 86400000000000 ≤ s.uptime ∧
      s.scr.cfg ≤ s.scr.active) ∧
    (∃ (s : State),
      s.uptime < s.scr.since + 86400000000000) :=
  ⟨⟨0, false, false, { D with scr := { enable := true, bound := some 0, bands := [(0, { due := true })] } },
     by decide,
     by decide,
     by decide,
     by decide,
     by decide,
     by decide,
     by decide⟩,
   ⟨0, false, false, Sc {},
     by decide,
     by decide,
     by decide,
     by decide,
     by decide⟩,
   ⟨0, false, writeCanary D 0,
     by decide +kernel⟩,
   ⟨0, false, R,
     by decide,
     by decide⟩,
   ⟨0, 0, [], false, false, Sc { reading := true, canary := true }, _,
     by decide,
     rfl,
     by decide,
     by decide,
     by decide,
     by decide⟩,
   ⟨0, _, 0, [], false, false, Sc { reading := true }, _,
     by decide,
     rfl,
     by decide,
     by decide,
     by decide,
     by decide,
     rfl⟩,
   ⟨0, 0, false, false, R,
     by decide,
     by decide +kernel,
     by decide⟩,
   ⟨0, 0, 0, false, false, { D with cfg := { frames := [(0, { a := { flips := [0] } })] } },
     by decide,
     by decide,
     by decide +kernel,
     by decide +kernel,
     by decide +kernel⟩,
   ⟨0, 0, 0, { D with cfg := { frames := [(0, { a := { src := .slot0 } })] } },
     by decide,
     by decide,
     by decide⟩,
   ⟨0, false, ⟨.ok, true⟩, false, _, writeCanary ({ D with cfg := { frames := [(0, { a := { pend := true } })] } }) 0, _,
     rfl,
     by decide,
     by decide,
     by decide +kernel,
     by decide +kernel,
     by decide +kernel,
     by decide,
     rfl⟩,
   ⟨{ D with uptime := 86400000000000, scr := { enable := true, active := 50, cfg := 100 } },
     by decide,
     by decide,
     by decide⟩,
   ⟨{ D with uptime := 86400000000000, scr := { enable := true } },
     by decide,
     by decide,
     by decide⟩,
   ⟨R,
     by decide⟩⟩

/-- States and operands that meet the hypotheses of each clause of NocInjection. -/
theorem reach_NocInjection :
    (∃ (ep : Nat) (rsp : Bool) (fl : List (BitVec 256)) (q : Pkt) (s : State),
      ep < 128 ∧
      fl.isEmpty = false ∧
      s.noc.running = true ∧
      (s.bandOf (ep / 8)).state = .on ∧
      latchAt s (ep / 8) (niCol (ep % 8)) = false ∧
      q = (if (stamped s ep (pktOf fl)).op = .rdRsp then { stamped s ep (pktOf fl) with data := payload fl (stamped s ep (pktOf fl)).len } else stamped s ep (pktOf fl)) ∧
      malformed s (servedId s ep) rsp q fl.length = false ∧
      isMuzzled s (servedId s ep) = false ∧
      isMuzzled s q.src = false ∧
      (s.mapOf q.src).phys = ep ∧
      (s.mapOf q.src).gen = q.gen ∧
      (q.op = .mcw ∨ pathRoom s q = true)) ∧
    (∃ (ep : Nat) (rsp : Bool) (fl : List (BitVec 256)) (q : Pkt) (s : State),
      ep < 128 ∧
      fl.isEmpty = false ∧
      s.noc.running = true ∧
      (s.bandOf (ep / 8)).state = .on ∧
      latchAt s (ep / 8) (niCol (ep % 8)) = false ∧
      q = (if (stamped s ep (pktOf fl)).op = .rdRsp then { stamped s ep (pktOf fl) with data := payload fl (stamped s ep (pktOf fl)).len } else stamped s ep (pktOf fl)) ∧
      malformed s (servedId s ep) rsp q fl.length = true) ∧
    (∃ (ep : Nat) (fl : List (BitVec 256)) (s : State),
      isRsp (pktOf fl).op = false) :=
  ⟨⟨0, false, pktFlits pk, _, D,
     by decide,
     by decide,
     by decide,
     by decide,
     by decide,
     rfl,
     by decide,
     by decide,
     by decide,
     by decide,
     by decide,
     Or.inr (by decide)⟩,
   ⟨0, false, pktFlits pk ++ [0], _, D,
     by decide,
     by decide,
     by decide,
     by decide,
     by decide,
     rfl,
     by decide⟩,
   ⟨0, pktFlits pk, D,
     by decide⟩⟩

/-- States and operands that meet the hypotheses of each clause of NocArrival. -/
theorem reach_NocArrival :
    (∃ (p : Pkt) (s : State),
      draining s p = false ∧
      p ∈ s.noc.flight ∧
      (ahead p s.noc.flight).any (holdsBack p) = false) ∧
    (∃ (p : Pkt) (qs : List Pkt) (s : State),
      draining s p = true ∧
      parkedAt s (epRouter s (pktEp p)) = p :: qs) ∧
    (∃ (p : Pkt) (s : State) (u : State),
      p.op = .rd ∧
      takeFlight s.start p = some u) ∧
    (∃ (p : Pkt) (s : State) (u : State),
      p.op = .wrNp ∧
      takeFlight s.start p = some u) ∧
    (∃ (p : Pkt) (s : State) (u : State),
      p.op = .wrP ∧
      takeFlight s.start p = some u) ∧
    (∃ (p : Pkt) (r : OutReq) (s : State) (u : State),
      p.op = .mcw ∧
      takeFlight s.start p = some u ∧
      outReq u p.src p.tag = some r) ∧
    (∃ (p : Pkt) (s : State) (u : State),
      (p.op = .rd ∨ p.op = .wrNp ∨ p.op = .wrP) ∧
      pktEp p = 0x119 ∧
      takeFlight s.start p = some u) ∧
    (∃ (p : Pkt) (s : State),
      isMuzzled s (pktEp p) = false ∧
      linkDown s (pktEp p) = false ∧
      fwPass s p = false ∧
      ownRules (pktEp p) = false) ∧
    (∃ (p : Pkt) (s : State),
      pktEp p < 0x80 ∧
      isMuzzled s (pktEp p) = false ∧
      fwPass s p = true ∧
      sleepNear s = false ∧
      (s.bandOf (s.mapOf (pktEp p)).row).state = .on) :=
  ⟨⟨pk, N { flight := [pk] },
     by decide,
     by decide,
     by decide⟩,
   ⟨pk, [], N { parked := [(0, [pk])] },
     by decide,
     by decide⟩,
   ⟨pk, N { flight := [pk] }, _,
     by decide,
     rfl⟩,
   ⟨{ pk with op := .wrNp }, N { flight := [{ pk with op := .wrNp }] }, _,
     by decide,
     rfl⟩,
   ⟨{ pk with op := .wrP }, N { flight := [{ pk with op := .wrP }] }, _,
     by decide,
     rfl⟩,
   ⟨{ pk with op := .mcw }, { dst := 0, len := 4, op := .mcw, t := 0, mask := 1 }, N { flight := [{ pk with op := .mcw }], outst := [(0, some { dst := 0, len := 4, op := .mcw, t := 0, mask := 1 })] }, _,
     by decide,
     rfl,
     by decide⟩,
   ⟨{ pk with dst := 0x8C8000000000 }, N { flight := [{ pk with dst := 0x8C8000000000 }] }, _,
     by decide,
     by decide,
     rfl⟩,
   ⟨{ pk with dom := .h1, dst := 0x880000000000 }, D,
     by decide,
     by decide,
     by decide,
     by decide⟩,
   ⟨{ pk with dom := .mc }, D,
     by decide,
     by decide,
     by decide,
     by decide,
     by decide⟩⟩

/-- States and operands that meet the hypotheses of each clause of NocAnswers. -/
theorem reach_NocAnswers :
    (∃ (p : Pkt) (r : OutReq) (s : State) (u : State),
      p.op = .rdRsp ∧
      takeFlight s.start p = some u ∧
      isMuzzled u (pktEp p) = false ∧
      epBand u (pktEp p) = none ∧
      lateOf u p = none ∧
      outReq u (pktEp p) p.tag = some r ∧
      r.op ≠ .mcw) ∧
    (∃ (p : Pkt) (r : OutReq) (s : State) (u : State),
      (p.op = .wrRsp ∨ p.op = .mcwRsp) ∧
      takeFlight s.start p = some u ∧
      isMuzzled u (pktEp p) = false ∧
      epBand u (pktEp p) = none ∧
      lateOf u p = none ∧
      outReq u (pktEp p) p.tag = some r ∧
      r.op ≠ .mcw) ∧
    (∃ (p : Pkt) (r : OutReq) (s : State) (u : State),
      p.op = .wrRsp ∧
      takeFlight s.start p = some u ∧
      isMuzzled u (pktEp p) = false ∧
      epBand u (pktEp p) = none ∧
      lateOf u p = none ∧
      outReq u (pktEp p) p.tag = some r ∧
      r.op = .mcw) ∧
    (∃ (p : Pkt) (l : LateRsp) (s : State) (u : State),
      p.op = .rdRsp ∧
      takeFlight s.start p = some u ∧
      isMuzzled u (pktEp p) = false ∧
      epBand u (pktEp p) = none ∧
      lateOf u p = some l) ∧
    (∃ (p : Pkt) (s : State),
      p.op = .mgRd ∧
      s.noc.running = true ∧
      s.noc.mgOut < 4 ∧
      0x80 ≤ pktEp p ∧
      (s.mapOf (pktEp p)).state ≠ .unassigned) ∧
    (∃ (p : Pkt) (s : State),
      p.op = .mgWr ∧
      s.noc.running = true ∧
      s.noc.mgOut < 4 ∧
      0x80 ≤ pktEp p ∧
      (s.mapOf (pktEp p)).state ≠ .unassigned) ∧
    (∃ (p : Pkt) (s : State) (u : State),
      p.op = .mgRsp ∧
      takeFlight s.start p = some u) :=
  ⟨⟨{ pk with op := .rdRsp, dst := 0x888000000000 }, { dst := 0, len := 4, op := .rd, t := 0 }, N { flight := [{ pk with op := .rdRsp, dst := 0x888000000000 }], outst := [(outKey 0x111 0, some { dst := 0, len := 4, op := .rd, t := 0 })] }, _,
     by decide,
     rfl,
     by decide,
     by decide,
     by decide,
     by decide,
     by decide⟩,
   ⟨{ pk with op := .wrRsp, dst := 0x888000000000 }, { dst := 0, len := 4, op := .rd, t := 0 }, N { flight := [{ pk with op := .wrRsp, dst := 0x888000000000 }], outst := [(outKey 0x111 0, some { dst := 0, len := 4, op := .rd, t := 0 })] }, _,
     Or.inl rfl,
     rfl,
     by decide,
     by decide,
     by decide,
     by decide,
     by decide⟩,
   ⟨{ pk with op := .wrRsp, dst := 0x888000000000 }, { dst := 0, len := 4, op := .mcw, t := 0, mask := 1 }, N { flight := [{ pk with op := .wrRsp, dst := 0x888000000000 }], outst := [(outKey 0x111 0, some { dst := 0, len := 4, op := .mcw, t := 0, mask := 1 })] }, _,
     by decide,
     rfl,
     by decide,
     by decide,
     by decide,
     by decide,
     by decide⟩,
   ⟨{ pk with op := .rdRsp, dst := 0x888000000000 }, { ep := 0x111, tag := 0, src := 0, ctr := 6 }, N { flight := [{ pk with op := .rdRsp, dst := 0x888000000000 }], late := [{ ep := 0x111, tag := 0, src := 0, ctr := 6 }] }, _,
     by decide,
     rfl,
     by decide,
     by decide,
     by decide⟩,
   ⟨{ pk with op := .mgRd, dst := 0x888000000000 }, D,
     by decide,
     by decide,
     by decide,
     by decide,
     by decide⟩,
   ⟨{ pk with op := .mgWr, dst := 0x888000000000 }, D,
     by decide,
     by decide,
     by decide,
     by decide,
     by decide⟩,
   ⟨{ pk with op := .mgRsp }, N { flight := [{ pk with op := .mgRsp }] }, _,
     by decide,
     rfl⟩⟩

/-- States and operands that meet the hypotheses of each clause of NocTimeouts. -/
theorem reach_NocTimeouts :
    (∃ (ep : Nat) (tag : Nat) (r : OutReq) (s : State) (u : State),
      outReq s ep tag = some r ∧
      timerPaused s ep = false ∧
      requestDue s r = true ∧
      r.op ≠ .mcw ∧
      u = expectLate (nocLast (nocInt (bump s.start ep 5) (epOwner s ep) 2) 5 0 .timeout ep) ep tag r 6) ∧
    (∃ (ep : Nat) (tag : Nat) (r : OutReq) (s : State) (u : State),
      outReq s ep tag = some r ∧
      timerPaused s ep = false ∧
      requestDue s r = true ∧
      r.op = .mcw ∧
      u = expectLate ((silent r).foldl (fun u _ => nocLast (nocInt (bump u ep 5) (epOwner u ep) 2) 5 0 .timeout ep) s.start) ep tag r 6) ∧
    (∃ (ep : Nat) (s : State),
      neverDead ep = false ∧
      (s.mapOf ep).state = .live ∧
      (s.noc.flight.any fun p => pktEp p == ep && p.op != .mcw) = true ∧
      SMap.get dNat s.noc.ejAt ep + 100000 ≤ s.uptime) ∧
    (∃ (s : State),
      s.noc.drain = true ∧
      drained s = true) ∧
    (∃ (s : State),
      s.noc.drain = true ∧
      s.noc.routeCmd ≠ none ∧
      drained s = false ∧
      s.noc.routeAt + 10000000 ≤ s.uptime) ∧
    (∃ (v : Word) (s : State),
      wb v 0 = true) ∧
    (∃ (acc : Accessor) (v : Word) (s : State),
      acc ≠ .dom .mc) :=
  ⟨⟨0, 0, { dst := 0, len := 4, op := .rd, t := 0 }, { N { outst := [(0, some { dst := 0, len := 4, op := .rd, t := 0 })] } with uptime := 10000000000 }, _,
     by decide,
     by decide,
     by decide,
     by decide,
     rfl⟩,
   ⟨0, 0, { dst := 0, len := 4, op := .mcw, t := 0, mask := 1 }, { N { outst := [(0, some { dst := 0, len := 4, op := .mcw, t := 0, mask := 1 })] } with uptime := 10000000000 }, _,
     by decide,
     by decide,
     by decide,
     by decide,
     rfl⟩,
   ⟨0, { N { flight := [pk] } with uptime := 100000 },
     by decide,
     by decide,
     by decide,
     by decide⟩,
   ⟨N { drain := true },
     by decide,
     by decide⟩,
   ⟨{ N { drain := true, routeCmd := some (0, 0), epoch := 1, flight := [pk] } with uptime := 10000000 },
     by decide,
     by decide,
     by decide,
     by decide⟩,
   ⟨1, R,
     by decide⟩,
   ⟨M, 0, R,
     by decide⟩⟩

/-- States and operands that meet the hypotheses of each clause of NocCommands. -/
theorem reach_NocCommands :
    (∃ (d : Nat) (id : Nat) (s : State),
      served s d 0x0401 .owner ∧
      id = pw (frontEntry s d) 0 % 512 ∧
      unownable s id = false ∧
      epOwner s id = ownerOf d ∧
      (s.mapOf id).state ≠ .retired) ∧
    (∃ (d : Nat) (id : Nat) (s : State),
      served s d 0x0402 .owner ∧
      id = pw (frontEntry s d) 0 % 512 ∧
      unownable s id = false ∧
      epOwner s id = ownerOf d ∧
      (s.mapOf id).state ≠ .live) ∧
    (∃ (d : Nat) (a : Nat) (b : Nat) (s : State),
      served s d 0x0403 .owner ∧
      a = pw (frontEntry s d) 0 % 512 ∧
      b = pw (frontEntry s d) 1 % 512 ∧
      a < 0x80 ∧
      b < 0x80 ∧
      epOwner s a = ownerOf d ∧
      epOwner s b = ownerOf d ∧
      (s.mapOf a).state = .muzzled ∧
      (s.mapOf b).state = .live ∧
      outTags s b = [] ∧
      parkedFor s b = 0) ∧
    (∃ (d : Nat) (n : Nat) (es : List (Nat × Nat × Nat)) (s : State) (u : State) (new : State),
      served s d 0x0404 .lead ∧
      u = servedState s d ∧
      n = (if pw (frontEntry s d) 1 % 1024 = 0 then 1024 else pw (frontEntry s d) 1 % 1024) ∧
      bufOk (pw (frontEntry s d) 0) (4 * n) = true ∧
      es = (bytesWords (readBuf u (frontEntry s d) (pw (frontEntry s d) 0) (4 * n))).map (fun w => routeEntry w.toNat) ∧
      es.any (fun x => 4 < x.2.2) = false ∧
      s.noc.drain = false ∧
      new = { u with noc := { u.noc with routes := updatedRoutes u es, epoch := otherEpoch u } } ∧
      routeRefusal new = none) :=
  ⟨⟨0, _, mb 0x0401 [0x110] D,
     ⟨by decide, by decide, by decide, by decide, by decide, Or.inl (by decide)⟩,
     rfl,
     by decide,
     by decide,
     by decide⟩,
   ⟨0, _, mb 0x0402 [0x110] (N { map := [(0x110, { state := .muzzled })] }),
     ⟨by decide, by decide, by decide, by decide, by decide, Or.inl (by decide)⟩,
     rfl,
     by decide,
     by decide,
     by decide⟩,
   ⟨0, _, _, mb 0x0403 [8, 9] { N { map := [(8, { dMap 8 with state := .muzzled })] } with ten := [(1, .h0)], cfg := { regions := [(1, { window := [0x11045803] })] } },
     ⟨by decide, by decide, by decide, by decide, by decide, Or.inl (by decide)⟩,
     rfl,
     rfl,
     by decide,
     by decide,
     by decide,
     by decide,
     by decide,
     by decide,
     by decide,
     by decide⟩,
   ⟨0, _, _, mb 0x0404 [0x2000, 1, 0] { D with ten := [(136, .h0)] }, _, _,
     ⟨by decide, by decide, by decide, by decide, by decide, Or.inl (by decide)⟩,
     rfl,
     rfl,
     by decide,
     rfl,
     by decide,
     by decide,
     rfl,
     routeRefusal_plain fun _ => rfl⟩⟩

/-- States and operands that meet the hypotheses of each clause of PortInputs. -/
theorem reach_PortInputs :
    (∃ (n : Nat) (level : Bool) (word : BitVec 8) (p : Port) (s : State) (u : State) (v : State),
      n < 1024 ∧
      p = s.portOf n ∧
      portLive s n = true ∧
      lvds s n = false ∧
      takesInput (portMode s n) = true ∧
      p.fpIn ≠ level ∧
      p.fpAt + wf p.cfg 15 0 + 1 ≤ s.uptime ∧
      u = rawIn (s.start.setPort n { p with pad := level != wb p.cfg 25 }) n p.pad (level != wb p.cfg 25) ∧
      v = lineChange (edgeEvent (portMode s n) n ((u.setPort n { u.portOf n with fpIn := level, fpAt := s.uptime }).emit (.wire "fp_in" n (b2n level)))) n level) ∧
    (∃ (n : Nat) (level : Bool) (word : BitVec 8) (p : Port) (s : State),
      n < 1024 ∧
      p = s.portOf n ∧
      portLive s n = true ∧
      lvds s n = false ∧
      (takesInput (portMode s n) = false ∨ p.fpIn = level ∨ s.uptime < p.fpAt + wf p.cfg 15 0 + 1)) ∧
    (∃ (n : Nat) (level : Bool) (word : BitVec 8) (p : Port) (s : State) (u : State),
      n < 1024 ∧
      p = s.portOf n ∧
      portLive s n = true ∧
      lvds s n = true ∧
      n % 2 = 0 ∧
      portMode s n = 5 ∧
      u = rawIn (s.start.setPort n { p with pad := level != wb p.cfg 25 }) n p.pad (level != wb p.cfg 25)) ∧
    (∃ (n : Nat) (t : Nat) (rising : Bool) (s : State),
      (s.portOf n).ts.length < 4) ∧
    (∃ (n : Nat) (t : Nat) (rising : Bool) (s : State),
      4 ≤ (s.portOf n).ts.length) ∧
    (∃ (acc : Accessor) (e : Stamp) (rest : List Stamp) (s : State),
      mayTouch acc (s.owner (resPort (portIx s acc))) = true ∧
      (s.portOf (portIx s acc)).ts = e :: rest) ∧
    (∃ (acc : Accessor) (s : State),
      mayTouch acc (s.owner (resPort (portIx s acc))) = false) :=
  ⟨⟨0, true, default, _, { P { cfg := 0x24000000 } with uptime := 10 }, _, _,
     by decide,
     rfl,
     by decide,
     by decide,
     by decide,
     by decide,
     by decide,
     rfl,
     rfl⟩,
   ⟨0, true, default, _, P { cfg := 0x20000000 },
     by decide,
     rfl,
     by decide,
     by decide,
     by decide⟩,
   ⟨0, false, default, _, { P { cfg := 0x50000000 } with design := { ports := [(0, { io := { std := .lvds } })] } }, _,
     by decide,
     rfl,
     by decide,
     by decide,
     by decide,
     by decide,
     rfl⟩,
   ⟨0, 0, false, R,
     by decide⟩,
   ⟨0, 0, false, P { ts := List.replicate 4 ⟨0, true, false⟩ },
     by decide⟩,
   ⟨M, ⟨0, true, false⟩, [], P { ts := [⟨0, true, false⟩] },
     by decide,
     by decide⟩,
   ⟨M, R,
     by decide⟩⟩

/-- States and operands that meet the hypotheses of each clause of PortSchedules. -/
theorem reach_PortSchedules :
    (∃ (acc : Accessor) (n : Nat) (v : Word) (p : Port) (s : State),
      n = portIx s acc ∧
      p = s.portOf n ∧
      mayTouch acc (s.owner (resPort n)) = true ∧
      wb v 31 = true ∧
      wb v 30 = false ∧
      pushStatus s n (wf v 1 0) = .ok) ∧
    (∃ (acc : Accessor) (n : Nat) (v : Word) (s : State),
      n = portIx s acc ∧
      mayTouch acc (s.owner (resPort n)) = true ∧
      wb v 31 = true ∧
      wb v 30 = false ∧
      pushStatus s n (wf v 1 0) ≠ .ok) ∧
    (∃ (acc : Accessor) (n : Nat) (v : Word) (s : State),
      n = portIx s acc ∧
      mayTouch acc (s.owner (resPort n)) = true ∧
      wb v 31 = false ∧
      wb v 30 = true) ∧
    (∃ (n : Nat) (e : Sched) (rest : List Sched) (s : State),
      (s.portOf n).sched = e :: rest ∧
      portLive s n = true ∧
      s.now < e.t ∧
      (s.portOf n).headAt + 8 < e.t) ∧
    (∃ (n : Nat) (e : Sched) (rest : List Sched) (s : State),
      (s.portOf n).sched = e :: rest ∧
      portLive s n = true ∧
      e.t ≤ s.now ∧
      (s.portOf n).headAt + 8 < e.t) ∧
    (∃ (n : Nat) (e : Sched) (rest : List Sched) (s : State),
      (s.portOf n).sched = e :: rest ∧
      portLive s n = true ∧
      e.t ≤ (s.portOf n).headAt + 8) :=
  ⟨⟨M, _, 0x80000000, _, P { cfg := 0x20000000 },
     rfl,
     rfl,
     by decide,
     by decide,
     by decide,
     by decide⟩,
   ⟨M, _, 0x80000000, P {},
     rfl,
     by decide,
     by decide,
     by decide,
     by decide⟩,
   ⟨M, _, 0x40000000, P {},
     rfl,
     by decide,
     by decide,
     by decide⟩,
   ⟨0, ⟨100, 0, false⟩, [], P { sched := [⟨100, 0, false⟩] },
     by decide,
     by decide,
     by decide,
     by decide⟩,
   ⟨0, ⟨100, 0, false⟩, [], { P { sched := [⟨100, 0, false⟩] } with tbs := { dtb := 200 <<< 44 } },
     by decide,
     by decide,
     by decide,
     by decide⟩,
   ⟨0, ⟨5, 0, false⟩, [], P { sched := [⟨5, 0, false⟩] },
     by decide,
     by decide,
     by decide⟩⟩

/-- States and operands that meet the hypotheses of each clause of PortOutputs. -/
theorem reach_PortOutputs :
    (∃ (acc : Accessor) (n : Nat) (v : Word) (s : State),
      n = portIx s acc ∧
      mayTouch acc (s.owner (resPort n)) = true ∧
      portMode s n = 2) ∧
    (∃ (acc : Accessor) (n : Nat) (v : Word) (s : State),
      n = portIx s acc ∧
      mayTouch acc (s.owner (resPort n)) = true ∧
      portMode s n ≠ 2) ∧
    (∃ (acc : Accessor) (n : Nat) (v : Word) (s : State),
      n = portIx s acc ∧
      mayTouch acc (s.owner (resPort n)) = true ∧
      wb v 3 = true) ∧
    (∃ (acc : Accessor) (v : Word) (s : State),
      wb v 3 = false) ∧
    (∃ (acc : Accessor) (n : Nat) (v : Word) (s : State),
      n = portIx s acc ∧
      mayTouch acc (s.owner (resPort n)) = true ∧
      ringTakes s n = false ∧
      (9 ≤ wf v 31 28 ∨ (pairMode (wf v 31 28) = true ∧ n % 2 = 1))) ∧
    (∃ (acc : Accessor) (n : Nat) (v : Word) (s : State),
      n = portIx s acc ∧
      mayTouch acc (s.owner (resPort n)) = true ∧
      ringTakes s n = false ∧
      portMode s n ≠ 9 ∧
      wf v 31 28 = 0 ∧
      wf (s.portOf n).cfg 31 28 ≠ 0 ∧
      n % 2 = 1) ∧
    (∃ (n : Nat) (r : PwmRun) (s : State),
      (s.portOf n).run = some r ∧
      portLive s n = true ∧
      portMode s n = 3 ∧
      r.high = true ∧
      r.wait = false ∧
      r.since + 8 < r.t0 + r.h ∧
      r.t0 + r.h ≤ s.now) ∧
    (∃ (n : Nat) (r : PwmRun) (s : State),
      (s.portOf n).run = some r ∧
      portLive s n = true ∧
      portMode s n = 3 ∧
      r.high = false ∧
      r.wait = false ∧
      r.since + 8 < r.t0 + r.p ∧
      r.oneShot = false ∧
      r.t0 + r.p ≤ s.now ∧
      (s.portOf n).pwmP ≠ 0 ∧
      (s.portOf n).pwmH ≠ 0) :=
  ⟨⟨M, _, 0, P { cfg := 0x20000000 },
     rfl,
     by decide,
     by decide⟩,
   ⟨M, _, 0, P {},
     rfl,
     by decide,
     by decide⟩,
   ⟨M, _, 8, P {},
     rfl,
     by decide,
     by decide⟩,
   ⟨M, 0, R,
     by decide⟩,
   ⟨M, _, 0x90000000, P {},
     rfl,
     by decide,
     by decide,
     by decide⟩,
   ⟨M, _, 0, { P {} with port := [(1, { cfg := 0x20000000 })], copies := [(copyKey (acode M) 0x70000 0, 1)] },
     rfl,
     by decide,
     by decide,
     by decide,
     by decide,
     by decide,
     by decide⟩,
   ⟨0, ⟨0, false, 0, false, 20, 10, true⟩, { P { cfg := 0x30000000, run := some ⟨0, false, 0, false, 20, 10, true⟩ } with tbs := { dtb := 200 <<< 44 } },
     by decide,
     by decide,
     by decide,
     by decide,
     by decide,
     by decide,
     by decide⟩,
   ⟨0, ⟨0, false, 0, false, 10, 5, false⟩, { P { cfg := 0x30000000, run := some ⟨0, false, 0, false, 10, 5, false⟩, pwmP := 10, pwmH := 5 } with tbs := { dtb := 200 <<< 44 } },
     by decide,
     by decide,
     by decide,
     by decide,
     by decide,
     by decide,
     by decide,
     by decide,
     by decide,
     by decide⟩⟩

/-- States and operands that meet the hypotheses of each clause of PortPairs. -/
theorem reach_PortPairs :
    (∃ (n : Nat) (p : Port) (q : Port) (s : State),
      n < 1024 ∧
      n % 2 = 0 ∧
      portLive s n = true ∧
      portMode s n = 6 ∧
      p = s.portOf n ∧
      q = s.portOf (n + 1)) ∧
    (∃ (n : Nat) (a : Bool) (b : Bool) (s : State) (u : State),
      (s.portOf n).quadA ≠ a ∧
      (s.portOf n).quadB ≠ b ∧
      u = s.setPort n { s.portOf n with quadA := a, quadB := b }) ∧
    (∃ (n : Nat) (a : Bool) (c : Word) (s : State) (u : State),
      (s.portOf n).quadA ≠ a ∧
      wf (s.portOf n).pairCfg 1 0 = 2 ∧
      c = (if (a != (s.portOf n).quadB) != wb (s.portOf n).pairCfg 2 then (s.portOf n).pairData + 1 else (s.portOf n).pairData - 1) ∧
      u = s.setPort n { s.portOf n with quadA := a }) ∧
    (∃ (n : Nat) (r : PwmRun) (s : State) (u : State),
      (s.portOf n).run = some r ∧
      portLive s n = true ∧
      portMode s n = 7 ∧
      r.t0 ≤ s.now ∧
      (s.portOf n).busy = false ∧
      r.oneShot = true ∧
      (s.portOf (n + 1)).fpIn = true ∧
      u = s.start.setPort n { s.portOf n with run := none }) ∧
    (∃ (n : Nat) (r : PwmRun) (s : State),
      (s.portOf n).run = some r ∧
      portLive s n = true ∧
      portMode s n = 7 ∧
      r.t0 ≤ s.now ∧
      (s.portOf n).busy = false ∧
      r.oneShot = true ∧
      (s.portOf (n + 1)).fpIn = false) ∧
    (∃ (n : Nat) (p : Port) (s : State),
      p = s.portOf n ∧
      p.busy = true ∧
      portMode s n = 7 ∧
      encReady p = false ∧
      p.frameAt + 2 * encHalf p * encBits p ≤ s.uptime ∧
      encLimit p < s.uptime) ∧
    (∃ (n : Nat) (p : Port) (s : State) (u : State),
      p = s.portOf n ∧
      p.busy = true ∧
      portMode s n = 7 ∧
      encReady p = true ∧
      p.frameAt + 2 * encHalf p * encBits p ≤ s.uptime ∧
      u = putPort s.start n { p with busy := false, line := [], mode := .high }) ∧
    (∃ (n : Nat) (t0 : Nat) (due : Nat) (p : Port) (s : State),
      n < 1024 ∧
      p = s.portOf n ∧
      p.rxAt = some t0 ∧
      portLive s n = true ∧
      portMode s n = 8 ∧
      wb p.pairCfg 19 = true ∧
      due = uartSample p t0 (uartLen p.pairCfg - 1) ∧
      due ≤ s.uptime) ∧
    (∃ (n : Nat) (t : Nat) (b : Byte) (rest : List Byte) (p : Port) (s : State),
      p = s.portOf n ∧
      p.tx = b :: rest ∧
      p.txAt = some t ∧
      portLive s n = true ∧
      portMode s n = 8 ∧
      t + uartLen p.pairCfg * wf p.pairCfg 15 0 ≤ s.uptime) ∧
    (∃ (acc : Accessor) (n : Nat) (v : Word) (s : State),
      n = portIx s acc ∧
      mayTouch acc (s.owner (resPort n)) = true ∧
      portMode s n = 6) ∧
    (∃ (acc : Accessor) (n : Nat) (v : Word) (s : State),
      n = portIx s acc ∧
      mayTouch acc (s.owner (resPort n)) = true ∧
      portMode s n = 8 ∧
      (s.portOf n).tx.length < 16) ∧
    (∃ (acc : Accessor) (n : Nat) (b : UartByte) (rest : List UartByte) (s : State),
      n = portIx s acc ∧
      mayTouch acc (s.owner (resPort n)) = true ∧
      portMode s n = 8 ∧
      (s.portOf n).rx = b :: rest) :=
  ⟨⟨0, _, _, P { cfg := 0x60000000 },
     by decide,
     by decide,
     by decide,
     by decide,
     rfl,
     rfl⟩,
   ⟨0, true, true, R, _,
     by decide,
     by decide,
     rfl⟩,
   ⟨0, true, _, P { cfg := 0x60000000, pairCfg := 2 }, _,
     by decide,
     by decide,
     rfl,
     rfl⟩,
   ⟨0, ⟨0, false, 0, true, 0, 0, false⟩, { P {} with port := [(0, { cfg := 0x70000000, run := some ⟨0, false, 0, true, 0, 0, false⟩ }), (1, { fpIn := true })] }, _,
     by decide,
     by decide,
     by decide,
     by decide,
     by decide,
     by decide,
     by decide,
     rfl⟩,
   ⟨0, ⟨0, false, 0, true, 0, 0, false⟩, P { cfg := 0x70000000, run := some ⟨0, false, 0, true, 0, 0, false⟩ },
     by decide,
     by decide,
     by decide,
     by decide,
     by decide,
     by decide,
     by decide⟩,
   ⟨0, _, { P { cfg := 0x70000000, busy := true, line := [(0, false)] } with uptime := 1000 },
     rfl,
     by decide,
     by decide,
     by decide,
     by decide,
     by decide⟩,
   ⟨0, _, { P { cfg := 0x70000000, busy := true, line := [(0, true)] } with uptime := 1000 }, _,
     rfl,
     by decide,
     by decide,
     by decide,
     by decide,
     rfl⟩,
   ⟨0, 0, _, _, { P { cfg := 0x80000000, rxAt := some 0, pairCfg := 0x80000 } with uptime := 1000 },
     by decide,
     rfl,
     by decide,
     by decide,
     by decide,
     by decide,
     rfl,
     by decide⟩,
   ⟨0, 0, 0, [], _, { P { cfg := 0x80000000, tx := [0], txAt := some 0 } with uptime := 1000 },
     rfl,
     by decide,
     by decide,
     by decide,
     by decide,
     by decide⟩,
   ⟨M, _, 0, P { cfg := 0x60000000 },
     rfl,
     by decide,
     by decide⟩,
   ⟨M, _, 0, P { cfg := 0x80000000 },
     rfl,
     by decide,
     by decide,
     by decide⟩,
   ⟨M, _, ⟨0, false, false, false⟩, [], P { cfg := 0x80000000, rx := [⟨0, false, false, false⟩] },
     rfl,
     by decide,
     by decide,
     by decide⟩⟩

/-- States and operands that meet the hypotheses of each clause of TimebaseReference. -/
theorem reach_TimebaseReference :
    (∃ (s : State),
      s.tbs.run = true ∧
      s.tbs.ref = true) ∧
    (∃ (s : State),
      (s.tbs.run = false ∨ s.tbs.ref = false)) ∧
    (∃ (s : State),
      s.tbs.run = true ∧
      s.tbs.ref = false) ∧
    (∃ (s : State),
      s.tbs.run = true ∧
      s.tbs.source = 1 ∧
      s.tbs.ppsAt + 1100000000 ≤ s.uptime ∧
      s.tbs.missRun = 0) ∧
    (∃ (s : State),
      s.tbs.run = true ∧
      s.tbs.source = 1 ∧
      s.tbs.ppsAt + 1100000000 ≤ s.uptime ∧
      1 ≤ s.tbs.missRun) ∧
    (∃ (s : State),
      s.tbs.run = true ∧
      s.tbs.source = 2 ∧
      s.tbs.syncAt + 3 * Config.syncIntervalNs s.tbs.macPort ≤ s.uptime) ∧
    (∃ (s : State) (u : State),
      s.tbs.run = true ∧
      s.tbs.source = 1 ∧
      u = applySet { s.start with tbs := { s.tbs with pps := true, ppsAt := s.uptime } }) ∧
    (∃ (s : State),
      s.tbs.source ≠ 1) ∧
    (∃ (v : Nat) (s : State),
      s.tbs.setPend = some v) ∧
    (∃ (s : State),
      s.tbs.setPend = none) ∧
    (∃ (p : Nat) (gm : Nat) (rate : Int) (s : State),
      s.tbs.run = true ∧
      s.tbs.source = 2 ∧
      s.tbs.macPort = p ∧
      (s.macOf p).up = true) ∧
    (∃ (s : State) (off : Int) (rate : Int) (bound : Nat) (need : Nat),
      s.tbs.ref = true ∧
      s.tbs.state = .acquiring ∧
      1000000 < off.natAbs ∧
      bound ≤ 1000000) :=
  ⟨⟨{ D with ten := [(0, .h0)], tbs := { run := true, ref := true } },
     by decide,
     by decide⟩,
   ⟨R,
     by decide⟩,
   ⟨{ D with ten := [(0, .h0)], tbs := { run := true } },
     by decide,
     by decide⟩,
   ⟨{ { D with ten := [(0, .h0)], tbs := { run := true, source := 1 } } with uptime := 1100000000 },
     by decide,
     by decide,
     by decide,
     by decide⟩,
   ⟨{ { D with ten := [(0, .h0)], tbs := { run := true, source := 1, missRun := 1 } } with uptime := 1100000000 },
     by decide,
     by decide,
     by decide,
     by decide⟩,
   ⟨{ { D with ten := [(0, .h0)], tbs := { run := true, source := 2 } } with uptime := 3 * Config.syncIntervalNs 0 },
     by decide,
     by decide,
     Nat.le_of_eq (Nat.zero_add _)⟩,
   ⟨{ D with ten := [(0, .h0)], tbs := { run := true, source := 1 } }, _,
     by decide,
     by decide,
     rfl⟩,
   ⟨R,
     by decide⟩,
   ⟨5, { D with ten := [(0, .h0)], tbs := { setPend := some 5 } },
     by decide⟩,
   ⟨R,
     by decide⟩,
   ⟨0, 0, 0, { { D with ten := [(0, .h0)], tbs := { run := true, source := 2 } } with mac := [(0, { up := true })] },
     by decide,
     by decide,
     by decide,
     by decide⟩,
   ⟨{ D with ten := [(0, .h0)], tbs := { ref := true, state := .acquiring } }, 2000000, 0, 0, 0,
     by decide,
     by decide,
     by decide,
     by decide⟩⟩

/-- States and operands that meet the hypotheses of each clause of TimebaseCommands. -/
theorem reach_TimebaseCommands :
    (∃ (s : State),
      s.tbs.run = true ∧
      s.tbs.ppsEn = true ∧
      s.tbs.ppsOut = false ∧
      (s.now + 1) % 1000000000 ≤ 2) ∧
    (∃ (s : State),
      s.tbs.ppsOut = true ∧
      s.tbs.ppsRise + 100000 ≤ s.uptime) ∧
    (∃ (d : Nat) (v : Nat) (u : State) (s : State),
      served s d 0x0701 .lead ∧
      u = servedState s d ∧
      v = pw (frontEntry s d) 0 + pw (frontEntry s d) 1 * 2 ^ 32 ∧
      s.tbs.setPend = none ∧
      s.tbs.source ≠ 1) ∧
    (∃ (d : Nat) (v : Nat) (u : State) (s : State),
      served s d 0x0701 .lead ∧
      u = servedState s d ∧
      v = pw (frontEntry s d) 0 + pw (frontEntry s d) 1 * 2 ^ 32 ∧
      s.tbs.setPend = none ∧
      s.tbs.source = 1) ∧
    (∃ (d : Nat) (u : State) (s : State),
      served s d 0x0702 .lead ∧
      u = servedState s d ∧
      bf (pw (frontEntry s d) 0) 1 0 = 1) ∧
    (∃ (d : Nat) (u : State) (s : State),
      served s d 0x0702 .lead ∧
      u = servedState s d ∧
      bf (pw (frontEntry s d) 0) 1 0 = 3) :=
  ⟨⟨{ D with ten := [(0, .h0)], tbs := { run := true, ppsEn := true } },
     by decide,
     by decide,
     by decide,
     by decide⟩,
   ⟨{ { D with ten := [(0, .h0)], tbs := { ppsOut := true } } with uptime := 100000 },
     by decide,
     by decide⟩,
   ⟨0, _, _, mb 0x0701 [5, 0] ({ D with ten := [(0, .h0)], tbs := { run := true } }),
     ⟨by decide, by decide, by decide, by decide, by decide, Or.inl (by decide)⟩,
     rfl,
     rfl,
     by decide,
     by decide⟩,
   ⟨0, _, _, mb 0x0701 [5, 0] ({ D with ten := [(0, .h0)], tbs := { source := 1 } }),
     ⟨by decide, by decide, by decide, by decide, by decide, Or.inl (by decide)⟩,
     rfl,
     rfl,
     by decide,
     by decide⟩,
   ⟨0, _, mb 0x0702 [1] ({ D with ten := [(0, .h0)], tbs := {  } }),
     ⟨by decide, by decide, by decide, by decide, by decide, Or.inl (by decide)⟩,
     rfl,
     by decide⟩,
   ⟨0, _, mb 0x0702 [3] ({ D with ten := [(0, .h0)], tbs := {  } }),
     ⟨by decide, by decide, by decide, by decide, by decide, Or.inl (by decide)⟩,
     rfl,
     by decide⟩⟩

/-- States and operands that meet the hypotheses of the clock clauses of ClocksAndMonitors. -/
theorem reach_ClocksAndMonitors_clocks :
    (∃ (v : Word) (n : Nat) (s : State),
      wb v 0 = true ∧
      s.mc.restart = false ∧
      n = wf (s.copy (acode (.dom .mc)) 0x120000 0) 4 0) ∧
    (∃ (acc : Accessor) (v : Word) (s : State),
      acc ≠ .dom .mc) ∧
    (∃ (n : Nat) (s : State),
      n < 32 ∧
      pllRuns (s.pllOf n) = true ∧
      refRuns s n = true) ∧
    (∃ (n : Nat) (gone : Bool) (s : State),
      n < 32 ∧
      (s.pllOf n).locked = true) ∧
    (∃ (n : Nat) (s : State),
      n < 32 ∧
      (s.pllOf n).locked = false) ∧
    (∃ (v : Word) (s : State),
      wb v 31 = true) ∧
    (∃ (khz : Nat) (s : State),
      wb s.clk.fctrl 31 = true ∧
      s.clk.fdone = false) :=
  ⟨⟨1, _, R,
     by decide,
     by decide,
     rfl⟩,
   ⟨M, 0, R,
     by decide⟩,
   ⟨0, { D with clk := { plls := [(0, { aCtrl := 0x40000000 })] } },
     by decide,
     by decide,
     by decide⟩,
   ⟨0, false, { D with clk := { plls := [(0, { locked := true })] } },
     by decide,
     by decide⟩,
   ⟨0, R,
     by decide,
     by decide⟩,
   ⟨0x80000000, R,
     by decide⟩,
   ⟨0, { D with clk := { fctrl := 0x80000000 } },
     by decide,
     by decide⟩⟩

/-- States and operands that meet the hypotheses of the monitor clauses of ClocksAndMonitors. -/
theorem reach_ClocksAndMonitors_monitors :
    (∃ (ch : Nat) (code : Nat) (c : Nat) (s : State),
      ch ≠ 0 ∧
      converts s ch = true ∧
      c = resultCode s ch code ∧
      wb (s.chanOf ch).cfg 30 = false) ∧
    (∃ (ch : Nat) (code : Nat) (c : Nat) (s : State),
      ch ≠ 0 ∧
      converts s ch = true ∧
      c = resultCode s ch code ∧
      supplyCh ch = false ∧
      wb (s.chanOf ch).cfg 30 = true ∧
      (s.chanOf ch).out1 = true ∧
      outside (s.chanOf ch) c = true) ∧
    (∃ (code : Nat) (c : Nat) (s : State),
      converts s 0 = true ∧
      c = resultCode s 0 code ∧
      wb (s.chanOf 0).cfg 30 = false) ∧
    (∃ (ch : Nat) (code : Nat) (s : State),
      converts s ch = false) ∧
    (∃ (v : Word) (s : State),
      wb v 0 = true) ∧
    (∃ (acc : Accessor) (v : Word) (s : State),
      acc ≠ .dom .mc) :=
  ⟨⟨1, 5, _, { D with smn := { ctrl := 0x80000000, chans := [(1, { cfg := 0x80000000 })] } },
     by decide,
     by decide,
     rfl,
     by decide⟩,
   ⟨10, 4095, _, { D with smn := { ctrl := 0x80000000, chans := [(10, { cfg := 0xC0000000, out1 := true })] } },
     by decide,
     by decide,
     rfl,
     by decide,
     by decide,
     by decide,
     by decide⟩,
   ⟨0, _, { D with smn := { ctrl := 0x80000000, chans := [(0, { cfg := 0x80000000 })] } },
     by decide,
     rfl,
     by decide⟩,
   ⟨0, 0, R,
     by decide⟩,
   ⟨1, R,
     by decide⟩,
   ⟨M, 0, R,
     by decide⟩⟩

/-- States and operands that meet the hypotheses of each clause of ReflexTables. -/
theorem reach_ReflexTables :
    (∃ (t : Nat) (v : BitVec 64) (s : State) (u : State),
      isTableId t = true ∧
      (s.boot.released = false ∨ (s.tableOf t).armed = false ∨ (s.tableOf t).inCycle = true) ∧
      u = s.start.setTable t { s.tableOf t with rfxIn := seenIn s t v } ∧
      u.tableOf t = { s.tableOf t with rfxIn := seenIn s t v }) ∧
    (∃ (t : Nat) (v : BitVec 64) (now : List Nat) (acts : List (Nat × Bool)) (s : State) (u : State) (w : State),
      isTableId t = true ∧
      s.boot.released = true ∧
      (s.tableOf t).armed = true ∧
      (s.tableOf t).inCycle = false ∧
      u = s.start.setTable t { s.tableOf t with rfxIn := seenIn s t v } ∧
      u.tableOf t = { s.tableOf t with rfxIn := seenIn s t v } ∧
      now = liveTerms u t (tableSignals u t) (s.tableOf t).prev ∧
      acts = ((List.range 256).filter fun i => now.contains i != (s.tableOf t).live.contains i).map (fun i => (i, !now.contains i)) ∧
      w = runCycle t acts (u.setTable t { u.tableOf t with prev := tableSignals u t, live := now, pulses := 0, rfxOut := 0, remote0 := (u.tableOf t).remote })) ∧
    (∃ (e : EventPkt) (s : State) (u : State),
      e ∈ s.noc.events ∧
      (eventsAhead e s.noc.events).any (eventHolds e) = false ∧
      isMuzzled s e.dst = false ∧
      tableUp s (tableAt s e.dst) = true ∧
      u = { s.start with noc := { s.noc with events := s.noc.events.erase e, busyAt := busyBand s s.noc.busyAt e.dst } }) ∧
    (∃ (e : EventPkt) (s : State),
      e ∈ s.noc.events ∧
      (eventsAhead e s.noc.events).any (eventHolds e) = false ∧
      (isMuzzled s e.dst = true ∨ tableUp s (tableAt s e.dst) = false)) ∧
    (∃ (src : Nat) (dst : Nat) (h : HeldEvt) (s : State),
      (s.tableOf src).held.filter (fun x => x.dst == dst) = [h] ∧
      SMap.get dNat (s.tableOf src).sent dst - 1 + spacing s.start src dst ≤ s.uptime) ∧
    (∃ (acc : Accessor) (v : Word) (t : Nat) (s : State),
      t = rfxIx s (acode acc) ∧
      mayReadTable s acc t = true ∧
      t < 0x100 ∧
      rfxHolds s t = false) ∧
    (∃ (acc : Accessor) (v : Word) (t : Nat) (s : State),
      t = rfxIx s (acode acc) ∧
      mayReadTable s acc t = true ∧
      0x100 ≤ t) ∧
    (∃ (s : State) (t : Nat),
      (0x80 ≤ t ∨ armRefused s t = false)) ∧
    (∃ (s : State) (t : Nat),
      t < 0x80 ∧
      armRefused s t = true) :=
  ⟨⟨0x100, 0, D, _,
     by decide,
     Or.inr (Or.inl (by decide)),
     rfl,
     rfl⟩,
   ⟨0x100, 0, _, _, { D with rfx := { tables := [(0x100, { armed := true })] }, design := { tables := [(0x100, { terms := [[0x80FF]] })] } }, _, _,
     by decide,
     by decide,
     by decide,
     by decide,
     rfl,
     rfl,
     rfl,
     rfl,
     rfl⟩,
   ⟨{ src := 0, gen := 0, epoch := 0, dom := .fab, dst := 0x100, r := 0, mode := 1, term := 0, origin := 0 }, N { events := [{ src := 0, gen := 0, epoch := 0, dom := .fab, dst := 0x100, r := 0, mode := 1, term := 0, origin := 0 }] }, _,
     by decide,
     by decide,
     by decide,
     by decide,
     rfl⟩,
   ⟨{ src := 0, gen := 0, epoch := 0, dom := .fab, dst := 0x100, r := 0, mode := 0, term := 0, origin := 0 }, N { events := [{ src := 0, gen := 0, epoch := 0, dom := .fab, dst := 0x100, r := 0, mode := 0, term := 0, origin := 0 }], map := [(0x100, { state := .muzzled })] },
     by decide,
     by decide,
     by decide⟩,
   ⟨0, 0x100, ⟨0x100, 0, 0, 0, 0⟩, { { D with rfx := { tables := [(0, { held := [⟨0x100, 0, 0, 0, 0⟩] })] } } with uptime := 1000000000 },
     by decide,
     by decide⟩,
   ⟨.dom .mc, 0, _, D,
     rfl,
     by decide,
     by decide,
     by decide⟩,
   ⟨.dom .mc, 0, _, { D with copies := [(copyKey (acode (.dom .mc)) 0x60000 0, 0x100)] },
     rfl,
     by decide,
     by decide⟩,
   ⟨R, 0x80,
     by decide⟩,
   ⟨{ D with pwr := { bands := [(0, { state := .nap })] } }, 0,
     by decide,
     by decide⟩⟩

/-- States and operands that meet the hypotheses of each clause of RingCommands. -/
theorem reach_RingCommands :
    (∃ (o : Owner) (r : Nat) (s : State),
      r < 64 ∧
      o = ringOwner s r ∧
      o ≠ .unowned ∧
      (s.ringOf r).busy = false ∧
      startCheck s r = .ok) ∧
    (∃ (o : Owner) (r : Nat) (s : State),
      r < 64 ∧
      o = ringOwner s r ∧
      o ≠ .unowned ∧
      (s.ringOf r).busy = false ∧
      startCheck s r ≠ .ok) ∧
    (∃ (o : Owner) (r : Nat) (s : State),
      r < 64 ∧
      o = ringOwner s r ∧
      o ≠ .unowned ∧
      (s.ringOf r).busy = false ∧
      (s.ringOf r).state ≠ .stopped) ∧
    (∃ (o : Owner) (r : Nat) (g : Ring) (s : State) (u : State),
      r < 64 ∧
      o = ringOwner s r ∧
      o ≠ .unowned ∧
      (s.ringOf r).busy = false ∧
      u = ringBegin s.start r 3 none ∧
      assignRow (u.ringOf r) (s.ringOf r).asnStn ((s.ringOf r).asnLo.toNat + (s.ringOf r).asnHi.toNat * 2 ^ 32) = (.ok, g, true)) ∧
    (∃ (o : Owner) (r : Nat) (g : Ring) (st : Status) (s : State) (u : State),
      r < 64 ∧
      o = ringOwner s r ∧
      o ≠ .unowned ∧
      (s.ringOf r).busy = false ∧
      u = ringBegin s.start r 3 none ∧
      assignRow (u.ringOf r) (s.ringOf r).asnStn ((s.ringOf r).asnLo.toNat + (s.ringOf r).asnHi.toNat * 2 ^ 32) = (st, g, false)) ∧
    (∃ (o : Owner) (r : Nat) (s : State) (u : State),
      r < 64 ∧
      o = ringOwner s r ∧
      o ≠ .unowned ∧
      (s.ringOf r).busy = false ∧
      u = ringBegin s.start r 4 none ∧
      (s.ringOf r).state = .running) ∧
    (∃ (o : Owner) (r : Nat) (s : State) (u : State),
      r < 64 ∧
      o = ringOwner s r ∧
      o ≠ .unowned ∧
      (s.ringOf r).busy = false ∧
      u = ringBegin s.start r 5 none ∧
      (s.ringOf r).state = .running) ∧
    (∃ (o : Owner) (r : Nat) (s : State),
      r < 64 ∧
      o = ringOwner s r ∧
      o ≠ .unowned ∧
      (s.ringOf r).busy = false ∧
      (s.ringOf r).state ≠ .running) ∧
    (∃ (o : Owner) (r : Nat) (s : State),
      r < 64 ∧
      o = ringOwner s r ∧
      o ≠ .unowned ∧
      (s.ringOf r).busy = false ∧
      (s.ringOf r).state = .stopped) ∧
    (∃ (o : Owner) (r : Nat) (s : State),
      r < 64 ∧
      o = ringOwner s r ∧
      o ≠ .unowned ∧
      (s.ringOf r).busy = true) ∧
    (∃ (o : Owner) (r : Nat) (v : Word) (s : State),
      r < 64 ∧
      o = ringOwner s r ∧
      o ≠ .unowned) ∧
    (∃ (o : Owner) (r : Nat) (v : Word) (s : State),
      o ≠ ringOwner s r) :=
  ⟨⟨_, 0, U {},
     by decide,
     rfl,
     by decide,
     by decide,
     by decide⟩,
   ⟨_, 0, U { state := .running },
     by decide,
     rfl,
     by decide,
     by decide,
     by decide⟩,
   ⟨_, 0, U { state := .running },
     by decide,
     rfl,
     by decide,
     by decide,
     by decide⟩,
   ⟨_, 0, _, U { state := .running, topo := [(1, [0, 0, 0, 0, 5] ++ List.replicate 19 0)], pods := 1, asnStn := 1, asnLo := 5, stns := [(1, { id := 5, state := .safe })] }, _,
     by decide,
     rfl,
     by decide,
     by decide,
     rfl,
     rfl⟩,
   ⟨_, 0, _, _, U {}, _,
     by decide,
     rfl,
     by decide,
     by decide,
     rfl,
     rfl⟩,
   ⟨_, 0, U { state := .running }, _,
     by decide,
     rfl,
     by decide,
     by decide,
     rfl,
     by decide⟩,
   ⟨_, 0, U { state := .running }, _,
     by decide,
     rfl,
     by decide,
     by decide,
     rfl,
     by decide⟩,
   ⟨_, 0, U {},
     by decide,
     rfl,
     by decide,
     by decide,
     by decide⟩,
   ⟨_, 0, U {},
     by decide,
     rfl,
     by decide,
     by decide,
     by decide⟩,
   ⟨_, 0, U { busy := true },
     by decide,
     rfl,
     by decide,
     by decide⟩,
   ⟨_, 0, 0, U {},
     by decide,
     rfl,
     by decide⟩,
   ⟨.h1, 0, 0, U {},
     by decide⟩⟩

/-- States and operands that meet the hypotheses of each clause of RingMailbox. -/
theorem reach_RingMailbox :
    (∃ (d : Nat) (r : Nat) (c : RunCmd) (u : State) (s : State),
      served s d 0x0501 .owner ∧
      u = servedState s d ∧
      c = frontEntry s d ∧
      r = pw c 0 % 64 ∧
      ringOwned c u = true) ∧
    (∃ (d : Nat) (c : RunCmd) (u : State) (s : State),
      served s d 0x0502 .owner ∧
      u = servedState s d ∧
      c = frontEntry s d ∧
      ringOwned c u = true) ∧
    (∃ (d : Nat) (c : RunCmd) (u : State) (s : State),
      served s d 0x0503 .owner ∧
      u = servedState s d ∧
      c = frontEntry s d ∧
      ringOwned c u = true ∧
      bufOk (pw c 1) 2016 = true ∧
      wb (nth c.p 0) 8 = false) ∧
    (∃ (d : Nat) (c : RunCmd) (u : State) (s : State),
      served s d 0x0503 .owner ∧
      u = servedState s d ∧
      c = frontEntry s d ∧
      ringOwned c u = true ∧
      bufOk (pw c 1) 2016 = true ∧
      wb (nth c.p 0) 8 = true) ∧
    (∃ (d : Nat) (r : Nat) (c : RunCmd) (u : State) (s : State),
      served s d 0x0504 .owner ∧
      u = servedState s d ∧
      c = frontEntry s d ∧
      r = pw c 0 % 64 ∧
      ringOwned c u = true) ∧
    (∃ (d : Nat) (r : Nat) (c : RunCmd) (u : State) (s : State),
      served s d 0x0505 .owner ∧
      u = servedState s d ∧
      c = frontEntry s d ∧
      r = pw c 0 % 64 ∧
      ringOwned c u = true) ∧
    (∃ (d : Nat) (c : RunCmd) (u : State) (s : State),
      served s d 0x0503 .owner ∧
      u = servedState s d ∧
      c = frontEntry s d ∧
      ringOwned c u = true ∧
      bufOk (pw c 1) 2016 = false) ∧
    (∃ (d : Nat) (c : RunCmd) (u : State) (s : State),
      u = servedState s d ∧
      c = frontEntry s d ∧
      ringOwned c u = false ∧
      served s d 0x0501 .owner) ∧
    (∃ (d : Nat) (c : RunCmd) (u : State) (s : State),
      u = servedState s d ∧
      c = frontEntry s d ∧
      ringOwned c u = false ∧
      served s d 0x0502 .owner) ∧
    (∃ (d : Nat) (c : RunCmd) (u : State) (s : State),
      u = servedState s d ∧
      c = frontEntry s d ∧
      ringOwned c u = false ∧
      served s d 0x0503 .owner) ∧
    (∃ (d : Nat) (c : RunCmd) (u : State) (s : State),
      u = servedState s d ∧
      c = frontEntry s d ∧
      ringOwned c u = false ∧
      served s d 0x0504 .owner) ∧
    (∃ (d : Nat) (c : RunCmd) (u : State) (s : State),
      u = servedState s d ∧
      c = frontEntry s d ∧
      ringOwned c u = false ∧
      served s d 0x0505 .owner) :=
  ⟨⟨0, _, _, _, mb 0x0501 [0] (U {}),
     ⟨by decide, by decide, by decide, by decide, by decide, Or.inl (by decide)⟩,
     rfl,
     rfl,
     rfl,
     by decide⟩,
   ⟨0, _, _, mb 0x0502 [0] (U {}),
     ⟨by decide, by decide, by decide, by decide, by decide, Or.inl (by decide)⟩,
     rfl,
     rfl,
     by decide⟩,
   ⟨0, _, _, mb 0x0503 [0, 0x2000] (U {}),
     ⟨by decide, by decide, by decide, by decide, by decide, Or.inl (by decide)⟩,
     rfl,
     rfl,
     by decide,
     by decide,
     by decide⟩,
   ⟨0, _, _, mb 0x0503 [0x100, 0x2000] (U {}),
     ⟨by decide, by decide, by decide, by decide, by decide, Or.inl (by decide)⟩,
     rfl,
     rfl,
     by decide,
     by decide,
     by decide⟩,
   ⟨0, _, _, _, mb 0x0504 [0] (U {}),
     ⟨by decide, by decide, by decide, by decide, by decide, Or.inl (by decide)⟩,
     rfl,
     rfl,
     rfl,
     by decide⟩,
   ⟨0, _, _, _, mb 0x0505 [0] (U { state := .running }),
     ⟨by decide, by decide, by decide, by decide, by decide, Or.inl (by decide)⟩,
     rfl,
     rfl,
     rfl,
     by decide⟩,
   ⟨0, _, _, mb 0x0503 [0, 0] (U {}),
     ⟨by decide, by decide, by decide, by decide, by decide, Or.inl (by decide)⟩,
     rfl,
     rfl,
     by decide,
     by decide⟩,
   ⟨0, _, _, mb 0x0501 [1] (U {}),
     rfl,
     rfl,
     by decide,
     ⟨by decide, by decide, by decide, by decide, by decide, Or.inl (by decide)⟩⟩,
   ⟨0, _, _, mb 0x0502 [1] (U {}),
     rfl,
     rfl,
     by decide,
     ⟨by decide, by decide, by decide, by decide, by decide, Or.inl (by decide)⟩⟩,
   ⟨0, _, _, mb 0x0503 [1] (U {}),
     rfl,
     rfl,
     by decide,
     ⟨by decide, by decide, by decide, by decide, by decide, Or.inl (by decide)⟩⟩,
   ⟨0, _, _, mb 0x0504 [1] (U {}),
     rfl,
     rfl,
     by decide,
     ⟨by decide, by decide, by decide, by decide, by decide, Or.inl (by decide)⟩⟩,
   ⟨0, _, _, mb 0x0505 [1] (U {}),
     rfl,
     rfl,
     by decide,
     ⟨by decide, by decide, by decide, by decide, by decide, Or.inl (by decide)⟩⟩⟩

set_option maxRecDepth 100000 in
/-- States and operands that meet the hypotheses of each clause of RingFrames. -/
theorem reach_RingFrames :
    (∃ (r : Nat) (gs : List CodeGroup) (bs : List Byte) (u : State) (s : State),
      framed s r gs bs ∧
      (s.ringOf r).onRing = .reset ∧
      frameOk 7 bs = true ∧
      bs.length = 16 ∧
      u = (heard s r gs).setRing r { (heard s r gs).ringOf r with onRing := .none }) ∧
    (∃ (r : Nat) (gs : List CodeGroup) (bs : List Byte) (u : State) (s : State),
      framed s r gs bs ∧
      (s.ringOf r).onRing = .safe ∧
      frameOk 6 bs = true ∧
      bs.length = 16 ∧
      u = (heard s r gs).setRing r { (heard s r gs).ringOf r with onRing := .none }) ∧
    (∃ (r : Nat) (gs : List CodeGroup) (bs : List Byte) (u : State) (s : State),
      framed s r gs bs ∧
      (s.ringOf r).onRing = .assign ∧
      frameOk 3 bs = true ∧
      bs.length = 12 + 12 * leAt bs 4 1 ∧
      u = (heard s r gs).setRing r { (heard s r gs).ringOf r with onRing := .none }) ∧
    (∃ (r : Nat) (n : Nat) (gs : List CodeGroup) (bs : List Byte) (u : State) (s : State),
      framed s r gs bs ∧
      leAt bs 4 1 = n ∧
      (s.ringOf r).onRing = .config n ∧
      frameOk 4 bs = true ∧
      bs.length = 32 + leAt bs 6 1 ∧
      u = (heard s r gs).setRing r { (heard s r gs).ringOf r with onRing := .none } ∧
      (s.ringOf r).state = .running ∧
      (s.ringOf r).busy = false) ∧
    (∃ (r : Nat) (loop : Nat) (gs : List CodeGroup) (bs : List Byte) (u : State) (s : State),
      framed s r gs bs ∧
      (s.ringOf r).onRing = .delay ∧
      loop ≤ 16 * (s.uptime - (s.ringOf r).sentAt) ∧
      frameOk 5 bs = true ∧
      bs.length = 16 ∧
      u = (heard s r gs).setRing r { (heard s r gs).ringOf r with onRing := .none } ∧
      (s.ringOf r).state = .running) ∧
    (∃ (r : Nat) (loop : Nat) (gs : List CodeGroup) (bs : List Byte) (u : State) (s : State),
      framed s r gs bs ∧
      (s.ringOf r).onRing = .delay ∧
      loop ≤ 16 * (s.uptime - (s.ringOf r).sentAt) ∧
      frameOk 5 bs = true ∧
      bs.length = 16 ∧
      u = (heard s r gs).setRing r { (heard s r gs).ringOf r with onRing := .none } ∧
      (s.ringOf r).state = .discovering ∧
      (s.ringOf r).delays.length < 7) ∧
    (∃ (r : Nat) (loop : Nat) (gs : List CodeGroup) (bs : List Byte) (s : State),
      framed s r gs bs ∧
      16 * (s.uptime - (s.ringOf r).sentAt) < loop) ∧
    (∃ (r : Nat) (gs : List CodeGroup) (bs : List Byte) (u : State) (s : State),
      framed s r gs bs ∧
      (s.ringOf r).onRing = .discover ∧
      frameOk 2 bs = true ∧
      12 ≤ bs.length ∧
      (bs.length - 12) % 24 = 0 ∧
      u = (heard s r gs).setRing r { (heard s r gs).ringOf r with onRing := .none } ∧
      (s.ringOf r).state = .discovering ∧
      (s.ringOf r).recover = false) ∧
    (∃ (r : Nat) (gs : List CodeGroup) (bs : List Byte) (u : State) (s : State),
      framed s r gs bs ∧
      (s.ringOf r).onRing = .reset ∧
      frameOk 7 bs = false ∧
      u = (heard s r gs).setRing r { (heard s r gs).ringOf r with onRing := .none }) :=
  ⟨⟨0, lineFrame false (withCrc (7 :: List.replicate 11 0)), withCrc (7 :: List.replicate 11 0), _, U { rx := lock, onRing := .reset, state := .discovering },
     by unfold framed; decide +kernel,
     by decide,
     by decide +kernel,
     by decide,
     rfl⟩,
   ⟨0, lineFrame false (withCrc (6 :: List.replicate 11 0)), withCrc (6 :: List.replicate 11 0), _, U { rx := lock, onRing := .safe, state := .stopping },
     by unfold framed; decide +kernel,
     by decide,
     by decide +kernel,
     by decide,
     rfl⟩,
   ⟨0, lineFrame false (withCrc (3 :: List.replicate 7 0)), withCrc (3 :: List.replicate 7 0), _, U { rx := lock, state := .running, onRing := .assign },
     by unfold framed; decide +kernel,
     by decide,
     by decide +kernel,
     by decide,
     rfl⟩,
   ⟨0, 0, lineFrame false (withCrc (4 :: List.replicate 27 0)), withCrc (4 :: List.replicate 27 0), _, U { rx := lock, onRing := .config 0, state := .running },
     by unfold framed; decide +kernel,
     by decide,
     by decide,
     by decide +kernel,
     by decide,
     rfl,
     by decide,
     by decide⟩,
   ⟨0, 0, lineFrame false (withCrc (5 :: List.replicate 11 0)), withCrc (5 :: List.replicate 11 0), _, U { rx := lock, onRing := .delay, state := .running },
     by unfold framed; decide +kernel,
     by decide,
     by decide +kernel,
     by decide +kernel,
     by decide,
     rfl,
     by decide⟩,
   ⟨0, 0, lineFrame false (withCrc (5 :: List.replicate 11 0)), withCrc (5 :: List.replicate 11 0), _, U { rx := lock, onRing := .delay, state := .discovering },
     by unfold framed; decide +kernel,
     by decide,
     by decide +kernel,
     by decide +kernel,
     by decide,
     rfl,
     by decide,
     by decide⟩,
   ⟨0, 1, [], [], U { rx := lock, onRing := .delay, state := .running },
     by unfold framed; decide +kernel,
     by decide⟩,
   ⟨0, lineFrame false (withCrc (2 :: List.replicate 7 0)), withCrc (2 :: List.replicate 7 0), _, U { rx := lock, onRing := .discover, state := .discovering },
     by unfold framed; decide +kernel,
     by decide,
     by decide +kernel,
     by decide,
     by decide,
     rfl,
     by decide,
     by decide⟩,
   ⟨0, [], [], _, U { rx := lock, onRing := .reset, state := .running },
     by unfold framed; decide +kernel,
     by decide,
     by decide +kernel,
     rfl⟩⟩

set_option maxRecDepth 100000 in
/-- States and operands that meet the hypotheses of each clause of RingRunning. -/
theorem reach_RingRunning :
    (∃ (r : Nat) (g : Ring) (h : Ring) (u : State) (v : State) (w : State) (x : State) (s : State),
      (s.ringOf r).state = .running ∧
      (s.ringOf r).onRing = .none ∧
      (s.ringOf r).sNext ≤ s.now ∧
      h = (if (s.ringOf r).cycles = 0 then s.ringOf r else switchImage (s.ringOf r)) ∧
      g = { h with run := wb (s.ringOf r).cfg 31, aSig := (s.ringOf r).sig, aWeights := (s.ringOf r).weights, sN := (s.ringOf r).sNext, sNext := boundary (s.ringOf r) ((s.ringOf r).sNext + (s.ringOf r).aCycle), cycles := ((s.ringOf r).cycles + 1) % 2 ^ 32, rxFresh := [], rxStat := .ok, sinceDly := if (s.ringOf r).sinceDly = 255 then 0 else (s.ringOf r).sinceDly + 1 } ∧
      u = (if (s.ringOf r).cycles = 0 then s.start.setRing r g else notice (s.start.setRing r g) r) ∧
      v = sendFrame (u.setRing r { u.ringOf r with outImg := (s.ringOf r).snap.getD g.outImg }) r .cycle ∧
      w = v.setRing r { v.ringOf r with outImg := g.outImg, snap := none, stepped := false } ∧
      x = (if (s.ringOf r).sinceDly = 255 then w.setRing r (queueFrame (w.ringOf r) .delay) else w)) ∧
    (∃ (r : Nat) (s : State),
      s.now < (s.ringOf r).sNext) ∧
    (∃ (r : Nat) (gs : List CodeGroup) (bs : List Byte) (rs : List Record) (s : State),
      framed s r gs bs ∧
      (s.ringOf r).onRing = .cycle ∧
      cycleRecords bs = some rs) ∧
    (∃ (r : Nat) (gs : List CodeGroup) (bs : List Byte) (s : State),
      framed s r gs bs ∧
      (s.ringOf r).onRing = .cycle ∧
      cycleRecords bs = none) ∧
    (∃ (r : Nat) (s : State),
      (s.ringOf r).onRing = .cycle ∧
      deadlineNs (s.ringOf r) ≤ s.now) ∧
    (∃ (r : Nat) (s : State),
      (s.ringOf r).onRing = .cycle ∧
      s.now < deadlineNs (s.ringOf r)) ∧
    (∃ (r : Nat) (gs : List CodeGroup) (s : State),
      synced (s.ringOf r).rx = false ∧
      synced (syncRun (s.ringOf r).rx gs) = true ∧
      (s.ringOf r).state = .starting) ∧
    (∃ (r : Nat) (gs : List CodeGroup) (s : State),
      synced (s.ringOf r).rx = false ∧
      synced (syncRun (s.ringOf r).rx gs) = true ∧
      (s.ringOf r).state = .broken) ∧
    (∃ (r : Nat) (gs : List CodeGroup) (s : State),
      synced (s.ringOf r).rx = true ∧
      synced (syncRun (s.ringOf r).rx gs) = false ∧
      ((s.ringOf r).state = .running ∨ (s.ringOf r).state = .discovering)) ∧
    (∃ (r : Nat) (gs : List CodeGroup) (s : State),
      (s.ringOf r).state ≠ .stopped ∧
      synced (syncRun (s.ringOf r).rx gs) = synced (s.ringOf r).rx) ∧
    (∃ (r : Nat) (g : Ring) (u : State) (v : State) (s : State),
      g = s.ringOf r ∧
      u = sendIdle (s.setRing r { g with state := .broken, onRing := .none, queue := [], status := .ringBreak, rxFresh := [], csFresh := 0, stns := g.stns.map fun e => (e.1, if e.2.id = 0 then e.2 else { e.2 with state := .lost, fresh := false }) }) r ∧
      v = ringSignals (uanEvent (uanInt u r 4) r 2 .ringBreak 0) r) ∧
    (∃ (r : Nat) (s : State),
      (s.ringOf r).state = .starting ∧
      (s.ringOf r).since + 10000000 ≤ s.uptime) ∧
    (∃ (r : Nat) (s : State),
      ((s.ringOf r).state ≠ .starting ∨ s.uptime < (s.ringOf r).since + 10000000)) ∧
    (∃ (r : Nat) (s : State),
      (s.ringOf r).state = .stopping ∧
      (s.ringOf r).since + 1000000 ≤ s.uptime) ∧
    (∃ (r : Nat) (s : State),
      ((s.ringOf r).state ≠ .stopping ∨ s.uptime < (s.ringOf r).since + 1000000)) :=
  ⟨⟨0, _, _, _, _, _, _, U { state := .running },
     by decide,
     by decide,
     by decide,
     rfl,
     rfl,
     rfl,
     rfl,
     rfl,
     rfl⟩,
   ⟨0, U { sNext := 5 },
     by decide⟩,
   ⟨0, lineFrame false (withCrc (1 :: List.replicate 35 0)), withCrc (1 :: List.replicate 35 0), [], U { rx := lock, onRing := .cycle, state := .running },
     by unfold framed; decide +kernel,
     by decide,
     by decide +kernel⟩,
   ⟨0, [], [], U { rx := lock, onRing := .cycle, state := .running },
     by unfold framed; decide +kernel,
     by decide,
     by decide⟩,
   ⟨0, U { onRing := .cycle },
     by decide,
     by decide⟩,
   ⟨0, U { onRing := .cycle, sNext := 5000 },
     by decide,
     by decide⟩,
   ⟨0, idles, U { state := .starting },
     by decide,
     by decide +kernel,
     by decide⟩,
   ⟨0, idles, U { state := .broken },
     by decide,
     by decide +kernel,
     by decide⟩,
   ⟨0, List.replicate 16 0, U { state := .running, rx := lock },
     by decide,
     by decide +kernel,
     by decide⟩,
   ⟨0, [], U { state := .running },
     by decide,
     by decide⟩,
   ⟨0, _, _, _, R,
     rfl,
     rfl,
     rfl⟩,
   ⟨0, { U { state := .starting } with uptime := 10000000 },
     by decide,
     by decide⟩,
   ⟨0, U {},
     by decide⟩,
   ⟨0, { U { state := .stopping } with uptime := 1000000 },
     by decide,
     by decide⟩,
   ⟨0, U {},
     by decide⟩⟩

/-- States and operands that meet the hypotheses of each clause of PciLinks. -/
theorem reach_PciLinks :
    (∃ (p : Nat) (s : State),
      p < 4) ∧
    (∃ (p : Nat) (gen : Nat) (width : Nat) (s : State),
      p < 4 ∧
      (s.pciOf p).up = false ∧
      (s.pciOf p).perst = false ∧
      (s.pciOf p).raw = false ∧
      s.boot.mcUp = true ∧
      (s.quadOf (pciQuad p)).ref = true ∧
      linkAllowed (s.pciOf p) gen width = true) ∧
    (∃ (p : Nat) (s : State) (r : CfgReq),
      (s.pciOf p).up = false) ∧
    (∃ (p : Nat) (n : Nat) (v : Nat) (s : State),
      p < 4 ∧
      (s.pciOf p).up = true) ∧
    (∃ (p : Nat) (on : Bool) (s : State),
      p < 4 ∧
      (s.pciOf p).up = true) ∧
    (∃ (p : Nat) (s : State),
      p < 4 ∧
      (s.pciOf p).up = true) ∧
    (∃ (p : Nat) (cause : Nat) (u : State) (v : State) (s : State),
      p < 4 ∧
      0 < cause ∧
      cause ≤ 4 ∧
      if cause = 1 then (s.pciOf p).perst = false else (s.pciOf p).up = true ∧
      u = dropOutbound (dropReads s.start p) p ∧
      v = (pciInt (linkMuzzle (endSessions (u.setPci p (resetFunction (u.pciOf p) cause)) (ownerOf p)) p) p 2).post [p] (8 + p) .ok 1 cause p) ∧
    (∃ (p : Nat) (s : State),
      p < 4 ∧
      (s.pciOf p).perst = true) ∧
    (∃ (p : Nat) (cause : Nat) (s : State),
      cause ≠ 1 ∧
      (s.pciOf p).up = false) ∧
    (∃ (acc : Accessor) (p : Nat) (v : Word) (s : State),
      p = pciIx s acc ∧
      mayTouch acc (ownerOf p) = true) ∧
    (∃ (p : Nat) (v : Word) (s : State),
      (s.pciOf p).lost = false) :=
  ⟨⟨0, R,
     by decide⟩,
   ⟨0, 1, 1, { D with pci := [(0, { perst := false, linkCtrl := 0x0000081F })], xcv := { quads := [(0, { ref := true })] } },
     by decide,
     by decide,
     by decide,
     by decide,
     by decide,
     by decide,
     by decide⟩,
   ⟨0, R, .readId,
     by decide⟩,
   ⟨0, 0, 0, D,
     by decide,
     by decide⟩,
   ⟨0, false, D,
     by decide,
     by decide⟩,
   ⟨0, D,
     by decide,
     by decide⟩,
   ⟨0, 2, _, _, D,
     by decide,
     by decide,
     by decide,
     by decide,
     rfl,
     rfl⟩,
   ⟨0, R,
     by decide,
     by decide⟩,
   ⟨0, 2, R,
     by decide,
     by decide⟩,
   ⟨M, _, 0, R,
     rfl,
     by decide⟩,
   ⟨0, 0, R,
     by decide⟩⟩

/-- States and operands that meet the hypotheses of each clause of PciTraffic. -/
theorem reach_PciTraffic :
    (∃ (p : Nat) (addr : Nat) (n : Nat) (s : State),
      p < 4 ∧
      (s.pciOf p).up = true ∧
      sleepNear s = false ∧
      (s.pciOf p).d3 = false) ∧
    (∃ (p : Nat) (addr : Nat) (ws : List (Word × Bool)) (s : State),
      p < 4 ∧
      (s.pciOf p).up = true ∧
      sleepNear s = false ∧
      (s.pciOf p).d3 = false) ∧
    (∃ (p : Nat) (addr : Nat) (n : Nat) (s : State),
      p < 4 ∧
      (s.pciOf p).up = true ∧
      sleepNear s = false ∧
      (s.pciOf p).d3 = true) ∧
    (∃ (p : Nat) (off : Nat) (i : Nat) (data : List Byte) (x : Xlt) (s : State),
      p < 4 ∧
      (s.pciOf p).up = true ∧
      sleepNear s = false ∧
      (s.pciOf p).d3 = false ∧
      s.boot.done = true ∧
      xltFor (s.pciOf p) off = some i ∧
      x = SMap.get dXlt (s.pciOf p).xlts i ∧
      x.write = true ∧
      isMuzzled s (pciId p) = false) ∧
    (∃ (p : Nat) (off : Nat) (i : Nat) (tag : Nat) (len : Nat) (x : Xlt) (s : State),
      p < 4 ∧
      (s.pciOf p).up = true ∧
      sleepNear s = false ∧
      (s.pciOf p).d3 = false ∧
      s.boot.done = true ∧
      xltFor (s.pciOf p) off = some i ∧
      x = SMap.get dXlt (s.pciOf p).xlts i ∧
      x.read = true ∧
      isMuzzled s (pciId p) = false) ∧
    (∃ (p : Nat) (off : Nat) (i : Nat) (tag : Nat) (len : Nat) (data : List Byte) (x : Xlt) (s : State),
      p < 4 ∧
      (s.pciOf p).up = true ∧
      sleepNear s = false ∧
      (s.pciOf p).d3 = false ∧
      s.boot.done = true ∧
      xltFor (s.pciOf p) off = some i ∧
      x = SMap.get dXlt (s.pciOf p).xlts i ∧
      x.write = false) ∧
    (∃ (p : Nat) (off : Nat) (i : Nat) (tag : Nat) (len : Nat) (data : List Byte) (x : Xlt) (s : State),
      p < 4 ∧
      (s.pciOf p).up = true ∧
      sleepNear s = false ∧
      (s.pciOf p).d3 = false ∧
      s.boot.done = true ∧
      xltFor (s.pciOf p) off = some i ∧
      x = SMap.get dXlt (s.pciOf p).xlts i ∧
      x.read = false) ∧
    (∃ (p : Nat) (off : Nat) (i : Nat) (tag : Nat) (len : Nat) (data : List Byte) (x : Xlt) (s : State),
      p < 4 ∧
      (s.pciOf p).up = true ∧
      sleepNear s = false ∧
      (s.pciOf p).d3 = false ∧
      s.boot.done = true ∧
      xltFor (s.pciOf p) off = some i ∧
      x = SMap.get dXlt (s.pciOf p).xlts i ∧
      x.write = true ∧
      isMuzzled s (pciId p) = true) ∧
    (∃ (p : Nat) (off : Nat) (i : Nat) (tag : Nat) (len : Nat) (data : List Byte) (x : Xlt) (s : State),
      p < 4 ∧
      (s.pciOf p).up = true ∧
      sleepNear s = false ∧
      (s.pciOf p).d3 = false ∧
      s.boot.done = true ∧
      xltFor (s.pciOf p) off = some i ∧
      x = SMap.get dXlt (s.pciOf p).xlts i ∧
      x.read = true ∧
      isMuzzled s (pciId p) = true) ∧
    (∃ (p : Nat) (off : Nat) (tag : Nat) (len : Nat) (data : List Byte) (s : State),
      p < 4 ∧
      (s.pciOf p).up = true ∧
      sleepNear s = false ∧
      ((s.pciOf p).d3 = true ∨ s.boot.done = false)) ∧
    (∃ (p : Nat) (off : Nat) (tag : Nat) (len : Nat) (s : State),
      p < 4 ∧
      (s.pciOf p).up = true ∧
      sleepNear s = false ∧
      (s.pciOf p).d3 = false ∧
      s.boot.done = true ∧
      xltFor (s.pciOf p) off = none) ∧
    (∃ (acc : Accessor) (p : Nat) (v : Word) (c : Pci) (x : Xlt) (s : State),
      p = pciIx s acc ∧
      mayTouch acc (ownerOf p) = true ∧
      c = s.pciOf p ∧
      x = { valid := wb v 31, read := wb v 30, write := wb v 29, pages := wf v 23 0, bar := c.stBar, tgt := wf c.stLo 31 12 * 4096 + wf c.stHi 15 0 * 0x100000000 }) ∧
    (∃ (p : Nat) (tag : Nat) (data : List Byte) (q : Pkt) (u : State) (s : State),
      SMap.get dNone (s.pciOf p).ob tag = some q ∧
      u = s.start.setPci p { s.pciOf p with ob := SMap.set dNone (s.pciOf p).ob tag none }) ∧
    (∃ (p : Nat) (tag : Nat) (data : List Byte) (q : Pkt) (u : State) (s : State),
      SMap.get dNone (s.pciOf p).ob tag = some q ∧
      u = s.start.setPci p { s.pciOf p with ob := SMap.set dNone (s.pciOf p).ob tag none } ∧
      SMap.get dNat (s.pciOf p).obAt tag + 50000000 ≤ s.uptime) ∧
    (∃ (p : Nat) (tag : Nat) (s : State),
      s.uptime < SMap.get dNat (s.pciOf p).obAt tag + 50000000) :=
  ⟨⟨0, 0, 0, D,
     by decide,
     by decide,
     by decide,
     by decide⟩,
   ⟨0, 0, [], D,
     by decide,
     by decide,
     by decide,
     by decide⟩,
   ⟨0, 0, 0, { D with pci := [(0, { up := true, everUp := true, perst := false, d3 := true })] },
     by decide,
     by decide,
     by decide,
     by decide⟩,
   ⟨0, 0, 0, [], _, { D with pci := [(0, { up := true, everUp := true, perst := false, xlts := [(0, { valid := true, write := true, pages := 1 })] })] },
     by decide,
     by decide,
     by decide,
     by decide,
     by decide,
     by decide,
     rfl,
     by decide,
     by decide⟩,
   ⟨0, 0, 0, 0, 0, _, { D with pci := [(0, { up := true, everUp := true, perst := false, xlts := [(0, { valid := true, read := true, pages := 1 })] })] },
     by decide,
     by decide,
     by decide,
     by decide,
     by decide,
     by decide,
     rfl,
     by decide,
     by decide⟩,
   ⟨0, 0, 0, 0, 0, [], _, { D with pci := [(0, { up := true, everUp := true, perst := false, xlts := [(0, { valid := true, pages := 1 })] })] },
     by decide,
     by decide,
     by decide,
     by decide,
     by decide,
     by decide,
     rfl,
     by decide⟩,
   ⟨0, 0, 0, 0, 0, [], _, { D with pci := [(0, { up := true, everUp := true, perst := false, xlts := [(0, { valid := true, pages := 1 })] })] },
     by decide,
     by decide,
     by decide,
     by decide,
     by decide,
     by decide,
     rfl,
     by decide⟩,
   ⟨0, 0, 0, 0, 0, [], _, { D with noc := { running := true, map := [(0x110, { state := .muzzled })] }, pci := [(0, { up := true, everUp := true, perst := false, xlts := [(0, { valid := true, pages := 1, write := true })] })] },
     by decide,
     by decide,
     by decide,
     by decide,
     by decide,
     by decide,
     rfl,
     by decide,
     by decide⟩,
   ⟨0, 0, 0, 0, 0, [], _, { D with noc := { running := true, map := [(0x110, { state := .muzzled })] }, pci := [(0, { up := true, everUp := true, perst := false, xlts := [(0, { valid := true, pages := 1, read := true })] })] },
     by decide,
     by decide,
     by decide,
     by decide,
     by decide,
     by decide,
     rfl,
     by decide,
     by decide⟩,
   ⟨0, 0, 0, 0, [], { D with pci := [(0, { up := true, everUp := true, perst := false, d3 := true })] },
     by decide,
     by decide,
     by decide,
     by decide⟩,
   ⟨0, 0, 0, 0, D,
     by decide,
     by decide,
     by decide,
     by decide,
     by decide,
     by decide⟩,
   ⟨M, _, 0, _, _, R,
     rfl,
     by decide,
     rfl,
     rfl⟩,
   ⟨0, 0, [], pk, _, { D with pci := [(0, { up := true, everUp := true, perst := false, ob := [(0, some pk)] })] },
     by decide,
     rfl⟩,
   ⟨0, 0, [], pk, _, { { D with pci := [(0, { up := true, everUp := true, perst := false, ob := [(0, some pk)] })] } with uptime := 50000000 },
     by decide,
     rfl,
     by decide⟩,
   ⟨0, 0, R,
     by decide⟩⟩

/-- States and operands that meet the hypotheses of each clause of EthernetFrames. -/
theorem reach_EthernetFrames :
    (∃ (m : Nat) (ts : Nat) (frags : Nat) (len : Nat) (cls : Nat) (dma : DmaResult) (frame : List Byte) (u : Status × State) (v : Status × State) (s : State),
      m < 16 ∧
      macRuns s m = true ∧
      (s.macOf m).up = true ∧
      (s.macOf m).txHalt = false ∧
      (s.macOf m).tx.stop = false ∧
      (s.macOf m).tx.head ≠ (s.macOf m).tx.tail ∧
      len = leAt (dma.data.take 32) 6 2 ∧
      cls = leAt (dma.data.take 32) 9 1 % 8 ∧
      u = macFetch s.start m (descAddr (s.macOf m).tx (s.macOf m).tx.head) 32 dma.status ∧
      u.1 = .ok ∧
      gateOpen (s.macOf m) cls = true ∧
      gateFits s m cls len = true ∧
      60 ≤ len ∧
      len ≤ (s.macOf m).maxF - 4 ∧
      v = macFetch u.2 m (leAt (dma.data.take 32) 0 6) len .ok ∧
      frame = (dma.data.drop 32).take len) ∧
    (∃ (m : Nat) (ts : Nat) (frags : Nat) (len : Nat) (cls : Nat) (dma : DmaResult) (u : Status × State) (s : State),
      m < 16 ∧
      macRuns s m = true ∧
      (s.macOf m).up = true ∧
      (s.macOf m).txHalt = false ∧
      (s.macOf m).tx.stop = false ∧
      (s.macOf m).tx.head ≠ (s.macOf m).tx.tail ∧
      len = leAt (dma.data.take 32) 6 2 ∧
      cls = leAt (dma.data.take 32) 9 1 % 8 ∧
      u = macFetch s.start m (descAddr (s.macOf m).tx (s.macOf m).tx.head) 32 dma.status ∧
      u.1 = .ok ∧
      gateOpen (s.macOf m) cls = true ∧
      (len < 60 ∨ (s.macOf m).maxF - 4 < len)) ∧
    (∃ (m : Nat) (ts : Nat) (frags : Nat) (dma : DmaResult) (u : Status × State) (s : State),
      m < 16 ∧
      macRuns s m = true ∧
      (s.macOf m).up = true ∧
      (s.macOf m).txHalt = false ∧
      (s.macOf m).tx.stop = false ∧
      (s.macOf m).tx.head ≠ (s.macOf m).tx.tail ∧
      u = macFetch s.start m (descAddr (s.macOf m).tx (s.macOf m).tx.head) 32 dma.status ∧
      u.1 ≠ .ok) ∧
    (∃ (m : Nat) (ts : Nat) (bs : List Byte) (dma : DmaResult) (u : Status × State) (v : Status × State) (s : State),
      m < 16 ∧
      macRuns s m = true ∧
      (s.macOf m).up = true ∧
      64 ≤ bs.length + 4 ∧
      bs.length + 4 ≤ (s.macOf m).maxF ∧
      etherType bs ≠ 0x8808 ∧
      gptpFrame s m bs = false ∧
      addressed (s.macOf m) bs = true ∧
      (s.macOf m).txHalt = false ∧
      (s.macOf m).rx.stop = false ∧
      (s.macOf m).rx.head ≠ (s.macOf m).rx.tail ∧
      u = macFetch s.start m (descAddr (s.macOf m).rx (s.macOf m).rx.head) 32 dma.status ∧
      v = (if u.1 = .ok then macStore u.2 m (leAt (dma.data.take 32) 0 6) bs else u)) ∧
    (∃ (s : State) (m : Nat) (tx : Bool) (bs : List Byte) (r : EthRing) (u : Status × State),
      r = (if tx then (s.macOf m).tx else (s.macOf m).rx) ∧
      u = macStore s m (descAddr r r.head) bs) ∧
    (∃ (m : Nat) (ts : Nat) (bs : List Byte) (dma : DmaResult) (s : State),
      m < 16 ∧
      macRuns s m = true ∧
      (s.macOf m).up = true ∧
      64 ≤ bs.length + 4 ∧
      bs.length + 4 ≤ (s.macOf m).maxF ∧
      etherType bs ≠ 0x8808 ∧
      (gptpFrame s m bs = true ∨ addressed (s.macOf m) bs = false)) ∧
    (∃ (m : Nat) (ts : Nat) (bs : List Byte) (dma : DmaResult) (s : State),
      m < 16 ∧
      macRuns s m = true ∧
      (s.macOf m).up = true ∧
      64 ≤ bs.length + 4 ∧
      bs.length + 4 ≤ (s.macOf m).maxF ∧
      etherType bs ≠ 0x8808 ∧
      gptpFrame s m bs = false ∧
      addressed (s.macOf m) bs = true ∧
      ((s.macOf m).txHalt = true ∨ (s.macOf m).rx.stop = true ∨ (s.macOf m).rx.head = (s.macOf m).rx.tail)) ∧
    (∃ (m : Nat) (ts : Nat) (bs : List Byte) (dma : DmaResult) (s : State),
      m < 16 ∧
      macRuns s m = true ∧
      (s.macOf m).up = true ∧
      64 ≤ bs.length + 4 ∧
      bs.length + 4 ≤ (s.macOf m).maxF ∧
      etherType bs = 0x8808) ∧
    (∃ (m : Nat) (ts : Nat) (bs : List Byte) (dma : DmaResult) (s : State),
      m < 16 ∧
      macRuns s m = true ∧
      (s.macOf m).up = true) ∧
    (∃ (m : Nat) (ts : Nat) (bs : List Byte) (dma : DmaResult) (s : State),
      m < 16 ∧
      macRuns s m = true ∧
      (s.macOf m).up = true ∧
      (bs.length + 4 < 64 ∨ (s.macOf m).maxF < bs.length + 4)) ∧
    (∃ (acc : Accessor) (m : Nat) (v : Word) (s : State),
      m = macIx s acc ∧
      mayTouch acc (macOwner s m) = true ∧
      wf v 11 0 < ringLen (s.macOf m).tx ∧
      wf v 11 0 ≠ (s.macOf m).tx.head) ∧
    (∃ (acc : Accessor) (m : Nat) (v : Word) (s : State),
      m = macIx s acc ∧
      mayTouch acc (macOwner s m) = true ∧
      ringLen (s.macOf m).rx ≤ wf v 11 0) :=
  ⟨⟨0, 0, 0, _, _, ⟨.ok, List.replicate 6 0 ++ [60, 0] ++ List.replicate 84 0⟩, _, _, _, EB { up := true, ctrl := 0x89000000, tx := { hi := 0x04008800, tail := 1 } },
     by decide,
     by decide,
     by decide,
     by decide,
     by decide,
     by decide,
     rfl,
     rfl,
     rfl,
     by decide,
     by decide,
     by decide,
     by decide,
     by decide,
     rfl,
     rfl⟩,
   ⟨0, 0, 0, _, _, ⟨.ok, List.replicate 96 0⟩, _, EB { up := true, ctrl := 0x89000000, tx := { hi := 0x04008800, tail := 1 } },
     by decide,
     by decide,
     by decide,
     by decide,
     by decide,
     by decide,
     rfl,
     rfl,
     rfl,
     by decide,
     by decide,
     by decide⟩,
   ⟨0, 0, 0, ⟨.timeout, []⟩, _, E { up := true, ctrl := 0x89000000, tx := { tail := 1 } },
     by decide,
     by decide,
     by decide,
     by decide,
     by decide,
     by decide,
     rfl,
     by decide⟩,
   ⟨0, 0, List.replicate 60 0xFF, ⟨.ok, []⟩, _, _, E { up := true, ctrl := 0x89000000, rx := { tail := 1 } },
     by decide,
     by decide,
     by decide,
     by decide,
     by decide,
     by decide,
     by decide,
     by decide,
     by decide,
     by decide,
     by decide,
     rfl,
     rfl⟩,
   ⟨R, 0, false, [], _, _,
     rfl,
     rfl⟩,
   ⟨0, 0, 2 :: List.replicate 59 0, ⟨.ok, []⟩, E { up := true, ctrl := 0x89000000 },
     by decide,
     by decide,
     by decide,
     by decide,
     by decide,
     by decide,
     by decide⟩,
   ⟨0, 0, List.replicate 60 0xFF, ⟨.ok, []⟩, E { up := true, ctrl := 0x89000000 },
     by decide,
     by decide,
     by decide,
     by decide,
     by decide,
     by decide,
     by decide,
     by decide,
     by decide⟩,
   ⟨0, 0, List.replicate 12 0 ++ [0x88, 0x08] ++ List.replicate 46 0, ⟨.ok, []⟩, E { up := true, ctrl := 0x89000000 },
     by decide,
     by decide,
     by decide,
     by decide,
     by decide,
     by decide⟩,
   ⟨0, 0, [], ⟨.ok, []⟩, E { up := true, ctrl := 0x89000000 },
     by decide,
     by decide,
     by decide⟩,
   ⟨0, 0, [], ⟨.ok, []⟩, E { up := true, ctrl := 0x89000000 },
     by decide,
     by decide,
     by decide,
     by decide⟩,
   ⟨M, _, 1, E { tx := { hi := 0x04000000 } },
     rfl,
     by decide,
     by decide,
     by decide⟩,
   ⟨M, _, 0xFFF, E {},
     rfl,
     by decide,
     by decide⟩⟩

/-- States and operands that meet the hypotheses of each clause of EthernetControl. -/
theorem reach_EthernetControl :
    (∃ (acc : Accessor) (m : Nat) (v : Word) (s : State),
      m = macIx s acc ∧
      mayTouch acc (macOwner s m) = true ∧
      macUsed s m = true ∧
      wf v 26 25 ≠ 1 ∧
      wb v 31 = true ∧
      wb (s.macOf m).ctrl 31 = false) ∧
    (∃ (acc : Accessor) (m : Nat) (v : Word) (s : State),
      m = macIx s acc ∧
      mayTouch acc (macOwner s m) = true ∧
      macUsed s m = false ∧
      wb v 31 = true) ∧
    (∃ (acc : Accessor) (m : Nat) (v : Word) (s : State),
      m = macIx s acc ∧
      mayTouch acc (macOwner s m) = true ∧
      1 ≤ wf v 8 0 ∧
      wf v 8 0 ≤ 256 ∧
      wb v 30 = true) ∧
    (∃ (acc : Accessor) (m : Nat) (v : Word) (s : State),
      m = macIx s acc ∧
      mayTouch acc (macOwner s m) = true ∧
      (wf v 8 0 = 0 ∨ 256 < wf v 8 0)) ∧
    (∃ (m : Nat) (t : Nat) (l : GateList) (s : State),
      (s.macOf m).pend = some (t, l) ∧
      t ≤ s.now) ∧
    (∃ (m : Nat) (t : Nat) (l : GateList) (s : State),
      (s.macOf m).pend = some (t, l) ∧
      s.now < t) ∧
    (∃ (m : Nat) (i : Nat) (s : State),
      (s.macOf m).gclEn = true ∧
      (s.macOf m).oper.len ≠ 0 ∧
      (s.macOf m).oper.base ≤ s.now ∧
      (s.macOf m).gateRe = false ∧
      i = gateEntry (s.macOf m).oper.ents ((s.macOf m).oper.len - 1) 0 ((s.now - (s.macOf m).oper.base) % (s.macOf m).oper.cycle)) ∧
    (∃ (m : Nat) (s : State),
      macRuns s m = true ∧
      wb (s.macOf m).ctrl 28 = true) :=
  ⟨⟨M, _, 0x80000000, E {},
     rfl,
     by decide,
     by decide,
     by decide,
     by decide,
     by decide⟩,
   ⟨M, _, 0x80000000, { D with ten := [(264, .h0)] },
     rfl,
     by decide,
     by decide,
     by decide⟩,
   ⟨M, _, 0x40000001, E {},
     rfl,
     by decide,
     by decide,
     by decide,
     by decide⟩,
   ⟨M, _, 0, E {},
     rfl,
     by decide,
     by decide⟩,
   ⟨0, 0, {}, E { pend := some (0, {}) },
     by decide,
     by decide⟩,
   ⟨0, 5, {}, E { pend := some (5, {}) },
     by decide,
     by decide⟩,
   ⟨0, _, E { gclEn := true, oper := { len := 1 } },
     by decide,
     by decide,
     by decide,
     by decide,
     rfl⟩,
   ⟨0, E { ctrl := 0x99000000 },
     by decide,
     by decide⟩⟩

/-- States and operands that meet the hypotheses of each clause of TransceiverLanes. -/
theorem reach_TransceiverLanes :
    (∃ (q : Nat) (s : State),
      q < 12 ∧
      (s.quadOf q).locked = true) ∧
    (∃ (q : Nat) (b : Bool) (s : State),
      (s.quadOf q).locked = false) ∧
    (∃ (q : Nat) (s : State),
      q < 12) ∧
    (∃ (l : Nat) (locked : Bool) (s : State),
      rawLane s l = true) ∧
    (∃ (l : Nat) (s : State),
      rawLane s l = true) ∧
    (∃ (l : Nat) (rx : Option (BitVec 128)) (push : Option (BitVec 128)) (pop : Bool) (idle : Bool) (tx : List (BitVec 128)) (rf : List (BitVec 128)) (g : Lane) (c : Lane) (u : State) (s : State),
      rawLane s l = true ∧
      (s.quadOf (l / 4)).locked = true ∧
      outOfService s 0x82 l = false ∧
      laneSlice s l = false ∧
      g = s.laneOf l ∧
      tx = (if g.txF.length < Config.laneDepth + 1 then g.txF ++ push.toList else g.txF) ∧
      rf = (if pop then g.rxF.drop 1 else g.rxF) ∧
      (c = { g with idle := idle, txF := if idle then tx else tx.drop 1, under := if tx = [] ∧ idle = false then sat 0xFFFF g.under else g.under, rxF := if rf.length < Config.laneDepth + 1 then rf ++ rx.toList else rf, overf := if rx ≠ none ∧ Config.laneDepth + 1 ≤ rf.length then sat 0xFFFF g.overf else g.overf }) ∧
      u = (if idle then s.start.setLane l c else (s.start.setLane l c).emit (.lane l (tx.headD fillWord)))) ∧
    (∃ (l : Nat) (s : State) (rx : Option (BitVec 128)) (push : Option (BitVec 128)) (pop : Bool) (idle : Bool) (locked : Bool),
      rawLane s l = false) ∧
    (∃ (l : Nat) (k : Nat) (x : Slice) (s : State),
      s.bst.slices = [(k, some x)] ∧
      baseTest x.test = 4 ∧
      x.target = l) ∧
    (∃ (l : Nat) (k : Nat) (x : Slice) (s : State),
      s.bst.slices = [(k, some x)] ∧
      (baseTest x.test ≠ 4 ∨ x.target ≠ l)) ∧
    (∃ (l : Nat) (s : State),
      s.bst.slices = []) :=
  ⟨⟨4, X {},
     by decide,
     by decide⟩,
   ⟨4, false, R,
     by decide⟩,
   ⟨0, R,
     by decide⟩,
   ⟨16, false, X {},
     by decide⟩,
   ⟨16, X {},
     by decide⟩,
   ⟨16, none, none, false, false, _, _, _, _, _, X {},
     by decide,
     by decide,
     by decide,
     by decide,
     rfl,
     rfl,
     rfl,
     rfl,
     rfl⟩,
   ⟨0, R, none, none, false, false, false,
     by decide⟩,
   ⟨0, 0, sl 4 0, { D with bst := { slices := [(0, some (sl 4 0))] } },
     by decide,
     by decide,
     by decide⟩,
   ⟨0, 0, sl 1 0, { D with bst := { slices := [(0, some (sl 1 0))] } },
     by decide,
     by decide⟩,
   ⟨0, R,
     by decide⟩⟩

/-- States and operands that meet the hypotheses of each clause of MailboxPorts. -/
theorem reach_MailboxPorts :
    (∃ (acc : Accessor) (d : Nat) (v : Word) (s : State),
      hmbMine acc d = true ∧
      ringFill (wf v 6 0) (s.mbxOf d).cmdHead ≤ 64) ∧
    (∃ (acc : Accessor) (d : Nat) (v : Word) (s : State),
      hmbMine acc d = true ∧
      64 < ringFill (wf v 6 0) (s.mbxOf d).cmdHead) ∧
    (∃ (acc : Accessor) (d : Nat) (v : Word) (s : State),
      hmbMine acc d = true ∧
      ringFill (s.mbxOf d).cplTail (wf v 6 0) ≤ ringFill (s.mbxOf d).cplTail (s.mbxOf d).cplHead) ∧
    (∃ (acc : Accessor) (d : Nat) (v : Word) (s : State),
      hmbMine acc d = true ∧
      wb v 31 = true ∧
      runCount s d = 0) ∧
    (∃ (acc : Accessor) (d : Nat) (v : Word) (s : State),
      hmbMine acc d = true ∧
      wb v 31 = true ∧
      runCount s d ≠ 0) ∧
    (∃ (acc : Accessor) (d : Nat) (v : Word) (s : State),
      hmbMine acc d = false) ∧
    (∃ (addr : Nat) (n : Nat) (ws : List Word) (s : State),
      s.boot.mcUp = true) ∧
    (∃ (u : State) (s : State),
      s.boot.mcUp = true ∧
      s.mc.halted = false ∧
      s.mc.lastRst = 0 ∧
      u = forgetCmds (failExits (abortRunning s.start))) ∧
    (∃ (u : State) (s : State),
      s.boot.mcUp = true ∧
      s.mc.halted = false ∧
      s.mc.lastRst ≠ 0 ∧
      s.uptime + 1 < s.mc.lastRst + 1000000000 ∧
      u = forgetCmds (failExits (abortRunning s.start))) ∧
    (∃ (u : State) (s : State),
      s.mc.restart = true ∧
      u = s.clk.pend.foldl applyPll { s.start with mc := { s.mc with restart := false } }) :=
  ⟨⟨M, 0, 1, D,
     by decide,
     by decide⟩,
   ⟨M, 0, 70, D,
     by decide,
     by decide⟩,
   ⟨M, 0, 1, { D with mc := { D.mc with mbx := [(0, { cplTail := 2 })] } },
     by decide,
     by decide⟩,
   ⟨M, 0, 0x80000000, D,
     by decide,
     by decide,
     by decide⟩,
   ⟨M, 0, 0x80000000, { D with mc := { D.mc with running := [{ d := 0, tag := 0, op := 1, noIrq := false, handle := 0, p := [] }] } },
     by decide,
     by decide,
     by decide⟩,
   ⟨M, 1, 0, R,
     by decide⟩,
   ⟨0, 0, [], D,
     by decide⟩,
   ⟨_, D,
     by decide,
     by decide,
     by decide,
     rfl⟩,
   ⟨_, { D with mc := { D.mc with lastRst := 1 } },
     by decide,
     by decide,
     by decide,
     by decide,
     rfl⟩,
   ⟨_, { D with mc := { D.mc with restart := true } },
     by decide,
     rfl⟩⟩

/-- States and operands that meet the hypotheses of each clause of MailboxQueries. -/
theorem reach_MailboxQueries :
    (∃ (d : Nat) (c : RunCmd) (u : State) (s : State),
      served s d 0x0001 .any ∧
      u = servedState s d ∧
      c = frontEntry s d) ∧
    (∃ (d : Nat) (k : Nat) (c : RunCmd) (t : State) (u : State) (s : State),
      served s d 0x0002 .any ∧
      c = frontEntry s d ∧
      t = { s with mc := { s.mc with sramCorr := min 0xFFF (s.mc.sramCorr + k) } } ∧
      u = servedState t d) ∧
    (∃ (d : Nat) (n : Nat) (f : Found) (es : List (List Word)) (c : RunCmd) (u : State) (v : State) (s : State),
      served s d 0x0003 .any ∧
      u = servedState s d ∧
      c = frontEntry s d ∧
      n = bf (pw c 2) 15 0 ∧
      findReport u c.d (bf (pw c 0) 15 0) (pw c 3) = .inr f ∧
      32 ≤ n ∧
      n ≤ 57344 ∧
      bufOk (pw c 1) n = true ∧
      es = f.es.take ((n - 16) / 16) ∧
      v = writeBuf u c (pw c 1) (wordBytes ([wd (bf (pw c 0) 15 0), wd f.held, wd f.lost, wd f.seq0] ++ es.flatten))) ∧
    (∃ (d : Nat) (st : Status) (c : RunCmd) (u : State) (s : State),
      served s d 0x0003 .any ∧
      u = servedState s d ∧
      c = frontEntry s d ∧
      findReport u c.d (bf (pw c 0) 15 0) (pw c 3) = .inl st) ∧
    (∃ (d : Nat) (n : Nat) (r : List (Nat × Nat) × List Clamp) (c : RunCmd) (u : State) (s : State),
      served s d 0x0004 .lead ∧
      u = servedState s d ∧
      c = frontEntry s d ∧
      n = bf (pw c 0) 2 0 ∧
      1 ≤ n ∧
      n ≤ 6 ∧
      polPairs c (u.pol 3) 1 n = some r) ∧
    (∃ (d : Nat) (n : Nat) (c : RunCmd) (u : State) (s : State),
      served s d 0x0004 .lead ∧
      u = servedState s d ∧
      c = frontEntry s d ∧
      n = bf (pw c 0) 2 0 ∧
      (n = 0 ∨ 6 < n ∨ polPairs c (u.pol 3) 1 n = none)) ∧
    (∃ (d : Nat) (id : Nat) (c : RunCmd) (u : State) (s : State),
      served s d 0x0005 .any ∧
      u = servedState s d ∧
      c = frontEntry s d ∧
      id = bf (pw c 0) 7 0 ∧
      polKnown id = true) ∧
    (∃ (d : Nat) (id : Nat) (c : RunCmd) (u : State) (s : State),
      served s d 0x0005 .any ∧
      u = servedState s d ∧
      c = frontEntry s d ∧
      id = bf (pw c 0) 7 0 ∧
      polKnown id = false) :=
  ⟨⟨0, _, _, mb 0x0001 [] D,
     ⟨by decide, by decide, by decide, by decide, by decide, Or.inl (by decide)⟩,
     rfl,
     rfl⟩,
   ⟨0, 0, _, _, _, mb 0x0002 [] D,
     ⟨by decide, by decide, by decide, by decide, by decide, Or.inl (by decide)⟩,
     rfl,
     rfl,
     rfl⟩,
   ⟨0, _, _, _, _, _, _, mb 0x0003 [0x8001, 0x2000, 32] D,
     ⟨by decide, by decide, by decide, by decide, by decide, Or.inl (by decide)⟩,
     rfl,
     rfl,
     rfl,
     rfl,
     by decide,
     by decide,
     by decide,
     rfl,
     rfl⟩,
   ⟨0, _, _, _, mb 0x0003 [0x8009, 0x2000, 32] D,
     ⟨by decide, by decide, by decide, by decide, by decide, Or.inl (by decide)⟩,
     rfl,
     rfl,
     rfl⟩,
   ⟨0, _, _, _, _, mb 0x0004 [1, 1, 500] ({ D with ten := [(0, .h0)] }),
     ⟨by decide, by decide, by decide, by decide, by decide, Or.inl (by decide)⟩,
     rfl,
     rfl,
     rfl,
     by decide,
     by decide,
     rfl⟩,
   ⟨0, _, _, _, mb 0x0004 [0] ({ D with ten := [(0, .h0)] }),
     ⟨by decide, by decide, by decide, by decide, by decide, Or.inl (by decide)⟩,
     rfl,
     rfl,
     rfl,
     Or.inl (by decide)⟩,
   ⟨0, _, _, _, mb 0x0005 [1] D,
     ⟨by decide, by decide, by decide, by decide, by decide, Or.inl (by decide)⟩,
     rfl,
     rfl,
     rfl,
     by decide⟩,
   ⟨0, _, _, _, mb 0x0005 [0x20] D,
     ⟨by decide, by decide, by decide, by decide, by decide, Or.inl (by decide)⟩,
     rfl,
     rfl,
     rfl,
     by decide⟩⟩

/-- States and operands that meet the hypotheses of each clause of TenancyCommands. -/
theorem reach_TenancyCommands :
    (∃ (d : Nat) (c : RunCmd) (u : State) (s : State),
      served s d 0x0006 .h ∧
      u = servedState s d ∧
      c = frontEntry s d) ∧
    (∃ (d : Nat) (r : Nat) (c : RunCmd) (u : State) (s : State),
      served s d 0x0101 .h ∧
      u = servedState s d ∧
      c = frontEntry s d ∧
      r = pw c 0 % 256 ∧
      r ≤ 135 ∧
      u.owner r = .unowned) ∧
    (∃ (d : Nat) (r : Nat) (c : RunCmd) (u : State) (s : State),
      served s d 0x0101 .h ∧
      u = servedState s d ∧
      c = frontEntry s d ∧
      r = pw c 0 % 256 ∧
      r ≤ 135 ∧
      u.owner r ≠ .unowned ∧
      u.owner r = cmdOwner c) ∧
    (∃ (d : Nat) (r : Nat) (c : RunCmd) (u : State) (s : State),
      served s d 0x0101 .h ∧
      u = servedState s d ∧
      c = frontEntry s d ∧
      r = pw c 0 % 256 ∧
      r ≤ 135 ∧
      u.owner r ≠ .unowned ∧
      u.owner r ≠ cmdOwner c) ∧
    (∃ (d : Nat) (r : Nat) (c : RunCmd) (u : State) (s : State),
      served s d 0x0101 .h ∧
      u = servedState s d ∧
      c = frontEntry s d ∧
      r = pw c 0 % 256 ∧
      135 < r) ∧
    (∃ (d : Nat) (r : Nat) (c : RunCmd) (u : State) (s : State),
      served s d 0x0102 .owner ∧
      u = servedState s d ∧
      c = frontEntry s d ∧
      r = pw c 0 % 256 ∧
      r ≤ 135 ∧
      u.owner r = cmdOwner c ∧
      (u.regionOf r).state ≠ .loading ∧
      isLocked u r = false) ∧
    (∃ (d : Nat) (r : Nat) (c : RunCmd) (u : State) (s : State),
      served s d 0x0102 .owner ∧
      u = servedState s d ∧
      c = frontEntry s d ∧
      r = pw c 0 % 256 ∧
      r ≤ 135 ∧
      u.owner r = cmdOwner c ∧
      ((u.regionOf r).state = .loading ∨ isLocked u r = true)) ∧
    (∃ (d : Nat) (r : Nat) (c : RunCmd) (u : State) (s : State),
      served s d 0x0102 .owner ∧
      u = servedState s d ∧
      c = frontEntry s d ∧
      r = pw c 0 % 256 ∧
      r ≤ 135 ∧
      u.owner r ≠ cmdOwner c) ∧
    (∃ (d : Nat) (r : Nat) (c : RunCmd) (u : State) (s : State),
      served s d 0x0102 .owner ∧
      u = servedState s d ∧
      c = frontEntry s d ∧
      r = pw c 0 % 256 ∧
      135 < r) ∧
    (∃ (d : Nat) (id : Nat) (base : Nat) (lim : Nat) (top : Nat) (g1 : Nat) (cs : List Clamp) (c : RunCmd) (u : State) (s : State),
      served s d 0x0103 .h ∧
      u = servedState s d ∧
      c = frontEntry s d ∧
      id = pw c 1 % 512 ∧
      base = pw c 2 % 2 ^ 27 ∧
      lim = pw c 3 % 2 ^ 27 ∧
      wb (nth c.p 0) 31 = true ∧
      isMgmt id = false ∧
      isTable id = false ∧
      (u.mapOf id).state ≠ .unassigned ∧
      top = min lim (lastPage id) ∧
      g1 = (if (pw c 4 % 64).testBit c.d then pw c 4 % 64 - 2 ^ c.d else pw c 4 % 64) ∧
      cs = (if top ≠ lim then [cmdClamp 3 0 lim top] else []) ++ (if g1 ≠ pw c 4 % 64 then [cmdClamp 4 0 (pw c 4 % 64) g1] else [])) ∧
    (∃ (d : Nat) (id : Nat) (c : RunCmd) (u : State) (s : State),
      served s d 0x0103 .h ∧
      u = servedState s d ∧
      c = frontEntry s d ∧
      id = pw c 1 % 512 ∧
      wb (nth c.p 0) 31 = false) ∧
    (∃ (d : Nat) (id : Nat) (c : RunCmd) (u : State) (s : State),
      served s d 0x0103 .h ∧
      u = servedState s d ∧
      c = frontEntry s d ∧
      id = pw c 1 % 512 ∧
      wb (nth c.p 0) 31 = true ∧
      (isMgmt id = true ∨ isTable id = true ∨ (u.mapOf id).state = .unassigned)) ∧
    (∃ (d : Nat) (q : Nat) (c : RunCmd) (u : State) (s : State),
      served s d 0x0104 .h ∧
      u = servedState s d ∧
      c = frontEntry s d ∧
      q = pw c 0 % 4) :=
  ⟨⟨0, _, _, mb 0x0006 [] D,
     ⟨by decide, by decide, by decide, by decide, by decide, Or.inl (by decide)⟩,
     rfl,
     rfl⟩,
   ⟨0, _, _, _, mb 0x0101 [1] D,
     ⟨by decide, by decide, by decide, by decide, by decide, Or.inl (by decide)⟩,
     rfl,
     rfl,
     rfl,
     by decide,
     by decide⟩,
   ⟨0, _, _, _, mb 0x0101 [1] ({ D with ten := [(1, .h0)] }),
     ⟨by decide, by decide, by decide, by decide, by decide, Or.inl (by decide)⟩,
     rfl,
     rfl,
     rfl,
     by decide,
     by decide,
     by decide⟩,
   ⟨0, _, _, _, mb 0x0101 [1] { D with ten := [(1, .h1)] },
     ⟨by decide, by decide, by decide, by decide, by decide, Or.inl (by decide)⟩,
     rfl,
     rfl,
     rfl,
     by decide,
     by decide,
     by decide⟩,
   ⟨0, _, _, _, mb 0x0101 [136] D,
     ⟨by decide, by decide, by decide, by decide, by decide, Or.inl (by decide)⟩,
     rfl,
     rfl,
     rfl,
     by decide⟩,
   ⟨0, _, _, _, mb 0x0102 [1] { D with ten := [(1, .h0)] },
     ⟨by decide, by decide, by decide, by decide, by decide, Or.inl (by decide)⟩,
     rfl,
     rfl,
     rfl,
     by decide,
     by decide,
     by decide,
     by decide⟩,
   ⟨0, _, _, _, mb 0x0102 [1] (G .loading {}),
     ⟨by decide, by decide, by decide, by decide, by decide, Or.inl (by decide)⟩,
     rfl,
     rfl,
     rfl,
     by decide,
     by decide,
     by decide⟩,
   ⟨0, _, _, _, mb 0x0102 [1] { D with ten := [(1, .h1)] },
     ⟨by decide, by decide, by decide, by decide, by decide, Or.inl (by decide)⟩,
     rfl,
     rfl,
     rfl,
     by decide,
     by decide⟩,
   ⟨0, _, _, _, mb 0x0102 [136] D,
     ⟨by decide, by decide, by decide, by decide, by decide, Or.inl (by decide)⟩,
     rfl,
     rfl,
     rfl,
     by decide⟩,
   ⟨0, _, _, _, _, _, _, _, _, mb 0x0103 [0x80000000, 8, 0, 1, 0x302] { D with ten := [(1, .h0)], cfg := { regions := [(1, { window := [0x11045803] })] } },
     ⟨by decide, by decide, by decide, by decide, by decide, Or.inl (by decide)⟩,
     rfl,
     rfl,
     rfl,
     rfl,
     rfl,
     by decide,
     by decide,
     by decide,
     by decide,
     rfl,
     rfl,
     rfl⟩,
   ⟨0, _, _, _, mb 0x0103 [0] D,
     ⟨by decide, by decide, by decide, by decide, by decide, Or.inl (by decide)⟩,
     rfl,
     rfl,
     rfl,
     by decide⟩,
   ⟨0, _, _, _, mb 0x0103 [0x80000000, 0x118] D,
     ⟨by decide, by decide, by decide, by decide, by decide, Or.inl (by decide)⟩,
     rfl,
     rfl,
     rfl,
     by decide,
     Or.inl (by decide)⟩,
   ⟨0, _, _, _, mb 0x0104 [3] D,
     ⟨by decide, by decide, by decide, by decide, by decide, Or.inl (by decide)⟩,
     rfl,
     rfl,
     rfl⟩⟩

set_option maxRecDepth 100000 in
/-- States and operands that meet the hypotheses of some clauses of LoadCommands. -/
theorem reach_LoadCommands_1 :
    (∃ (d : Nat) (src : Nat) (c : RunCmd) (l : Load) (u : State) (v : State) (s : State),
      served s d 0x0201 .any ∧
      u = servedState s d ∧
      c = frontEntry s d ∧
      src = bf (pw c 0) 1 0 ∧
      src ≠ 2 ∧
      (src = 3 → c.d = 4) ∧
      (src = 0 → srcCheck u c (pw c 3) = .ok) ∧
      l = { phase := .manifest, used := true, source := 4, full := true, cmd := some ⟨c.d, c.tag⟩, sup := src == 3, port := src == 3, nv := if src = 1 then some (if bf (pw c 0) 8 8 = 0 then .slot0 else .slot1) else none, limit := if src = 0 then some (pw c 3) else none } ∧
      (u.loadOf mgmt).phase ≠ .idle) ∧
    (∃ (d : Nat) (src : Nat) (c : RunCmd) (l : Load) (u : State) (v : State) (s : State),
      served s d 0x0201 .any ∧
      u = servedState s d ∧
      c = frontEntry s d ∧
      src = bf (pw c 0) 1 0 ∧
      src ≠ 2 ∧
      (src = 3 → c.d = 4) ∧
      (src = 0 → srcCheck u c (pw c 3) = .ok) ∧
      l = { phase := .manifest, used := true, source := 4, full := true, cmd := some ⟨c.d, c.tag⟩, sup := src == 3, port := src == 3, nv := if src = 1 then some (if bf (pw c 0) 8 8 = 0 then .slot0 else .slot1) else none, limit := if src = 0 then some (pw c 3) else none } ∧
      (u.loadOf mgmt).phase = .idle ∧
      u.boot.imgActive = false) ∧
    (∃ (d : Nat) (src : Nat) (c : RunCmd) (l : Load) (u : State) (v : State) (s : State),
      served s d 0x0201 .any ∧
      u = servedState s d ∧
      c = frontEntry s d ∧
      src = bf (pw c 0) 1 0 ∧
      src ≠ 2 ∧
      (src = 3 → c.d = 4) ∧
      (src = 0 → srcCheck u c (pw c 3) = .ok) ∧
      l = { phase := .manifest, used := true, source := 4, full := true, cmd := some ⟨c.d, c.tag⟩, sup := src == 3, port := src == 3, nv := if src = 1 then some (if bf (pw c 0) 8 8 = 0 then .slot0 else .slot1) else none, limit := if src = 0 then some (pw c 3) else none } ∧
      (u.loadOf mgmt).phase = .idle ∧
      u.boot.imgActive = true ∧
      bf (pw c 0) 4 4 = 0) ∧
    (∃ (d : Nat) (src : Nat) (c : RunCmd) (l : Load) (u : State) (v : State) (s : State),
      served s d 0x0201 .any ∧
      u = servedState s d ∧
      c = frontEntry s d ∧
      src = bf (pw c 0) 1 0 ∧
      src ≠ 2 ∧
      (src = 3 → c.d = 4) ∧
      (src = 0 → srcCheck u c (pw c 3) = .ok) ∧
      l = { phase := .manifest, used := true, source := 4, full := true, cmd := some ⟨c.d, c.tag⟩, sup := src == 3, port := src == 3, nv := if src = 1 then some (if bf (pw c 0) 8 8 = 0 then .slot0 else .slot1) else none, limit := if src = 0 then some (pw c 3) else none } ∧
      (u.loadOf mgmt).phase = .idle ∧
      u.boot.imgActive = true ∧
      bf (pw c 0) 4 4 = 1 ∧
      (deviceBusy u || (List.range 16).any (holdsVote u 3)) = true) ∧
    (∃ (d : Nat) (src : Nat) (c : RunCmd) (l : Load) (u : State) (v : State) (s : State),
      served s d 0x0201 .any ∧
      u = servedState s d ∧
      c = frontEntry s d ∧
      src = bf (pw c 0) 1 0 ∧
      src ≠ 2 ∧
      (src = 3 → c.d = 4) ∧
      (src = 0 → srcCheck u c (pw c 3) = .ok) ∧
      l = { phase := .manifest, used := true, source := 4, full := true, cmd := some ⟨c.d, c.tag⟩, sup := src == 3, port := src == 3, nv := if src = 1 then some (if bf (pw c 0) 8 8 = 0 then .slot0 else .slot1) else none, limit := if src = 0 then some (pw c 3) else none } ∧
      (u.loadOf mgmt).phase = .idle ∧
      u.boot.imgActive = true ∧
      bf (pw c 0) 4 4 = 1 ∧
      (deviceBusy u || (List.range 16).any (holdsVote u 3)) = false ∧
      v = (clearShadows u).setTarget 15 { (clearShadows u).targetOf 15 with state := .idle, consents := [] }) ∧
    (∃ (d : Nat) (c : RunCmd) (u : State) (s : State),
      served s d 0x0201 .any ∧
      u = servedState s d ∧
      c = frontEntry s d ∧
      bf (pw c 0) 1 0 = 0 ∧
      srcCheck u c (pw c 3) ≠ .ok) ∧
    (∃ (d : Nat) (c : RunCmd) (u : State) (s : State),
      served s d 0x0201 .any ∧
      u = servedState s d ∧
      c = frontEntry s d ∧
      (bf (pw c 0) 1 0 = 2 ∨ (bf (pw c 0) 1 0 = 3 ∧ c.d ≠ 4))) ∧
    (∃ (d : Nat) (src : Nat) (r : Nat) (c : RunCmd) (u : State) (s : State),
      served s d 0x0202 .any ∧
      u = servedState s d ∧
      c = frontEntry s d ∧
      partialOwner u c = true ∧
      src = bf (pw c 0) 10 9 ∧
      r = bf (pw c 0) 7 0 ∧
      (src = 0 → srcCheck u c (pw c 3) = .ok) ∧
      (135 < r ∨ src = 1 ∨ src = 3)) :=
  ⟨⟨0, _, _, _, _, R, mb 0x0201 [1] { D with boot := D.boot, cfg := { loads := [(16, { phase := .manifest })] } },
     ⟨by decide +kernel, by decide +kernel, by decide +kernel, by decide +kernel, by decide +kernel, Or.inl (by decide +kernel)⟩,
     rfl,
     rfl,
     rfl,
     by decide +kernel,
     by decide +kernel,
     by decide +kernel,
     rfl,
     by decide +kernel⟩,
   ⟨0, _, _, _, _, R, mb 0x0201 [1] { D with boot := { D.boot with imgActive := false } },
     ⟨by decide +kernel, by decide +kernel, by decide +kernel, by decide +kernel, by decide +kernel, Or.inl (by decide +kernel)⟩,
     rfl,
     rfl,
     rfl,
     by decide +kernel,
     by decide +kernel,
     by decide +kernel,
     rfl,
     by decide +kernel,
     by decide +kernel⟩,
   ⟨0, _, _, _, _, R, mb 0x0201 [1] D,
     ⟨by decide +kernel, by decide +kernel, by decide +kernel, by decide +kernel, by decide +kernel, Or.inl (by decide +kernel)⟩,
     rfl,
     rfl,
     rfl,
     by decide +kernel,
     by decide +kernel,
     by decide +kernel,
     rfl,
     by decide +kernel,
     by decide +kernel,
     by decide +kernel⟩,
   ⟨0, _, _, _, _, R, mb 0x0201 [0x11] (G .loading {}),
     ⟨by decide +kernel, by decide +kernel, by decide +kernel, by decide +kernel, by decide +kernel, Or.inl (by decide +kernel)⟩,
     rfl,
     rfl,
     rfl,
     by decide +kernel,
     by decide +kernel,
     by decide +kernel,
     rfl,
     by decide +kernel,
     by decide +kernel,
     by decide +kernel,
     by decide +kernel⟩,
   ⟨0, _, _, _, _, _, mb 0x0201 [0x11] D,
     ⟨by decide +kernel, by decide +kernel, by decide +kernel, by decide +kernel, by decide +kernel, Or.inl (by decide +kernel)⟩,
     rfl,
     rfl,
     rfl,
     by decide +kernel,
     by decide +kernel,
     by decide +kernel,
     rfl,
     by decide +kernel,
     by decide +kernel,
     by decide +kernel,
     by decide +kernel,
     rfl⟩,
   ⟨0, _, _, mb 0x0201 [0] D,
     ⟨by decide +kernel, by decide +kernel, by decide +kernel, by decide +kernel, by decide +kernel, Or.inl (by decide +kernel)⟩,
     rfl,
     rfl,
     by decide +kernel,
     by decide +kernel⟩,
   ⟨0, _, _, mb 0x0201 [2] D,
     ⟨by decide +kernel, by decide +kernel, by decide +kernel, by decide +kernel, by decide +kernel, Or.inl (by decide +kernel)⟩,
     rfl,
     rfl,
     Or.inl (by decide)⟩,
   ⟨0, _, _, _, _, mb 0x0202 [0x201] (G .empty {}),
     ⟨by decide +kernel, by decide +kernel, by decide +kernel, by decide +kernel, by decide +kernel, Or.inl (by decide +kernel)⟩,
     rfl,
     rfl,
     by decide +kernel,
     rfl,
     rfl,
     by decide +kernel,
     Or.inr (Or.inl (by decide))⟩⟩

set_option maxRecDepth 100000 in
/-- States and operands that meet the hypotheses of some clauses of LoadCommands. -/
theorem reach_LoadCommands_2 :
    (∃ (d : Nat) (src : Nat) (r : Nat) (c : RunCmd) (u : State) (s : State),
      served s d 0x0202 .any ∧
      u = servedState s d ∧
      c = frontEntry s d ∧
      partialOwner u c = true ∧
      src = bf (pw c 0) 10 9 ∧
      r = bf (pw c 0) 7 0 ∧
      (src = 0 → srcCheck u c (pw c 3) = .ok) ∧
      r ≤ 135 ∧
      (src = 0 ∨ src = 2) ∧
      ((u.loadOf mgmt).phase ≠ .idle ∨ mayLoad u r = false ∨ loadHeld u r = true)) ∧
    (∃ (d : Nat) (src : Nat) (r : Nat) (c : RunCmd) (u : State) (s : State),
      served s d 0x0202 .any ∧
      u = servedState s d ∧
      c = frontEntry s d ∧
      partialOwner u c = true ∧
      src = bf (pw c 0) 10 9 ∧
      r = bf (pw c 0) 7 0 ∧
      (src = 0 → srcCheck u c (pw c 3) = .ok) ∧
      r ≤ 135 ∧
      (src = 0 ∨ src = 2) ∧
      (u.loadOf mgmt).phase = .idle ∧
      mayLoad u r = true ∧
      loadHeld u r = false) ∧
    (∃ (d : Nat) (c : RunCmd) (u : State) (s : State),
      served s d 0x0202 .any ∧
      u = servedState s d ∧
      c = frontEntry s d ∧
      partialOwner u c = false) ∧
    (∃ (d : Nat) (r : Nat) (n : Nat) (fs : List Nat) (cs : List Clamp) (c : RunCmd) (u : State) (x : Status × State) (s : State),
      served s d 0x0206 .h ∧
      u = servedState s d ∧
      c = frontEntry s d ∧
      r = bf (pw c 0) 7 0 ∧
      ((u.owner r = cmdOwner c ∨ u.lead = some c.d)) ∧
      ((freeDebug u = true ∨ (u.owner r = cmdOwner c ∧ grantWith u (fun g => g.scope == 3 && g.dom == c.d) = true) ∨ (u.lead = some c.d ∧ grantWith u (fun g => g.scope == 2) = true))) ∧
      n = nearest 1 4096 (bf (pw c 4) 15 0) ∧
      cs = (if n = bf (pw c 4) 15 0 then [] else [cmdClamp 4 0 (bf (pw c 4) 15 0) n]) ∧
      nocArgOk u c (srcAddr c) (520 * n) = true ∧
      r ≤ 135 ∧
      fs = ((windowFrames (u.rects r)).drop (pw c 3)).take n ∧
      x = blockWrite { u with free := u.free + 516 * fs.length } 0x118 .mc (srcAddr c) (readFrames (bf (pw c 0) 8 8 == 0) fs u) .ok ∧
      x.1 = .ok) ∧
    (∃ (d : Nat) (r : Nat) (n : Nat) (fs : List Nat) (cs : List Clamp) (c : RunCmd) (u : State) (x : Status × State) (s : State),
      served s d 0x0206 .h ∧
      u = servedState s d ∧
      c = frontEntry s d ∧
      r = bf (pw c 0) 7 0 ∧
      ((u.owner r = cmdOwner c ∨ u.lead = some c.d)) ∧
      ((freeDebug u = true ∨ (u.owner r = cmdOwner c ∧ grantWith u (fun g => g.scope == 3 && g.dom == c.d) = true) ∨ (u.lead = some c.d ∧ grantWith u (fun g => g.scope == 2) = true))) ∧
      n = nearest 1 4096 (bf (pw c 4) 15 0) ∧
      cs = (if n = bf (pw c 4) 15 0 then [] else [cmdClamp 4 0 (bf (pw c 4) 15 0) n]) ∧
      nocArgOk u c (srcAddr c) (520 * n) = true ∧
      r ≤ 135 ∧
      fs = ((windowFrames (u.rects r)).drop (pw c 3)).take n ∧
      x = blockWrite { u with free := u.free + 516 * fs.length } 0x118 .mc (srcAddr c) (readFrames (bf (pw c 0) 8 8 == 0) fs u) .ok ∧
      x.1 ≠ .ok) ∧
    (∃ (d : Nat) (c : RunCmd) (u : State) (s : State),
      served s d 0x0206 .h ∧
      u = servedState s d ∧
      c = frontEntry s d ∧
      u.owner (bf (pw c 0) 7 0) = cmdOwner c ∧
      freeDebug u = false ∧
      grantWith u (fun g => g.scope == 3 && g.dom == c.d) = false ∧
      grantWith u (fun g => g.scope == 2) = false) ∧
    (∃ (d : Nat) (c : RunCmd) (u : State) (s : State),
      served s d 0x0206 .h ∧
      u = servedState s d ∧
      c = frontEntry s d ∧
      u.owner (bf (pw c 0) 7 0) ≠ cmdOwner c ∧
      u.lead ≠ some c.d) :=
  ⟨⟨0, _, _, _, _, mb 0x0202 [0x401] (G .loading {}),
     ⟨by decide +kernel, by decide +kernel, by decide +kernel, by decide +kernel, by decide +kernel, Or.inl (by decide +kernel)⟩,
     rfl,
     rfl,
     by decide +kernel,
     rfl,
     rfl,
     by decide +kernel,
     by decide +kernel,
     Or.inr (by decide),
     Or.inr (Or.inl (by decide))⟩,
   ⟨0, _, _, _, _, mb 0x0202 [0x401] { G .empty {} with boot := { D.boot with imgActive := false } },
     ⟨by decide +kernel, by decide +kernel, by decide +kernel, by decide +kernel, by decide +kernel, Or.inl (by decide +kernel)⟩,
     rfl,
     rfl,
     by decide +kernel,
     rfl,
     rfl,
     by decide +kernel,
     by decide +kernel,
     Or.inr (by decide),
     by decide +kernel,
     by decide +kernel,
     by decide +kernel⟩,
   ⟨0, _, _, mb 0x0202 [1] D,
     ⟨by decide +kernel, by decide +kernel, by decide +kernel, by decide +kernel, by decide +kernel, Or.inl (by decide +kernel)⟩,
     rfl,
     rfl,
     by decide +kernel⟩,
   ⟨0, _, _, _, _, _, _, _, mb 0x0206 [1, 0, 0x8800, 0, 1] { G .empty {} with lcs := { state := 1 }, pci := [(0, { up := true, everUp := true, perst := false, bme := true, obLimit := 1 })] },
     ⟨by decide +kernel, by decide +kernel, by decide +kernel, by decide +kernel, by decide +kernel, Or.inl (by decide +kernel)⟩,
     rfl,
     rfl,
     rfl,
     by decide +kernel,
     by decide +kernel,
     rfl,
     rfl,
     by decide +kernel,
     by decide +kernel,
     rfl,
     rfl,
     by decide +kernel⟩,
   ⟨0, _, _, _, _, _, _, _, mb 0x0206 [1, 0, 0x8800, 0, 1] { G .empty {} with lcs := { state := 1 }, pci := [(0, { up := true, everUp := true, perst := false, obLimit := 1 })] },
     ⟨by decide +kernel, by decide +kernel, by decide +kernel, by decide +kernel, by decide +kernel, Or.inl (by decide +kernel)⟩,
     rfl,
     rfl,
     rfl,
     by decide +kernel,
     by decide +kernel,
     rfl,
     rfl,
     by decide +kernel,
     by decide +kernel,
     rfl,
     rfl,
     by decide +kernel⟩,
   ⟨0, _, _, mb 0x0206 [1] (G .empty {}),
     ⟨by decide +kernel, by decide +kernel, by decide +kernel, by decide +kernel, by decide +kernel, Or.inl (by decide +kernel)⟩,
     rfl,
     rfl,
     by decide +kernel,
     by decide +kernel,
     by decide +kernel,
     by decide +kernel⟩,
   ⟨0, _, _, mb 0x0206 [2] { D with ten := [(1, .h1)] },
     ⟨by decide +kernel, by decide +kernel, by decide +kernel, by decide +kernel, by decide +kernel, Or.inl (by decide +kernel)⟩,
     rfl,
     rfl,
     by decide +kernel,
     by decide +kernel⟩⟩

set_option maxRecDepth 100000 in
/-- States and operands that meet the hypotheses of some clauses of StoreCommands. -/
theorem reach_StoreCommands_1 :
    (∃ (d : Nat) (b : List Byte) (c : RunCmd) (u : State) (s : State),
      u = servedState s d ∧
      c = frontEntry s d ∧
      served s d 0x0207 .any) ∧
    (∃ (d : Nat) (b : List Byte) (c : RunCmd) (u : State) (s : State),
      u = servedState s d ∧
      c = frontEntry s d ∧
      served s d 0x0209 .any) ∧
    (∃ (d : Nat) (b : List Byte) (st : Status) (rest : List RunCmd) (c : RunCmd) (u : State) (s : State),
      (mayTake s d = false ∨ (frontEntry s d).op ≠ 0x0207) ∧
      s.nv.stores = c :: rest ∧
      c.d = d ∧
      c.op = 0x0207 ∧
      storeHeld s = false ∧
      mcServes s d = true ∧
      u = { s.start with nv := { s.nv with stores := rest } } ∧
      st = storeCheck u c (bf (pw c 0) 1 0) 1 b ∧
      st ≠ .ok) :=
  ⟨⟨0, [], _, _, mb 0x0207 [0, 0, 0x8800, 0x1000] D,
     rfl,
     rfl,
     ⟨by decide, by decide, by decide, by decide, by decide, Or.inl (by decide)⟩⟩,
   ⟨0, [], _, _, mb 0x0209 [0, 0, 0x8800, 0x1000] D,
     rfl,
     rfl,
     ⟨by decide, by decide, by decide, by decide, by decide, Or.inl (by decide)⟩⟩,
   ⟨0, [], _, [], _, _, { D with lcs := keyed, nv := { stores := [{ d := 0, tag := 0, op := 0x0207, noIrq := false, handle := 0, p := [0, 0, 0x8800, 0x20000000] }] } },
     Or.inl (by decide),
     rfl,
     rfl,
     by decide,
     by decide,
     by decide,
     rfl,
     rfl,
     by decide +kernel⟩⟩

set_option maxRecDepth 100000 in
/-- States and operands that meet the hypotheses of some clauses of StoreCommands. -/
theorem reach_StoreCommands_2 :
    (∃ (d : Nat) (b : List Byte) (st : Status) (rest : List RunCmd) (c : RunCmd) (u : State) (s : State),
      (mayTake s d = false ∨ (frontEntry s d).op ≠ 0x0207) ∧
      s.nv.stores = c :: rest ∧
      c.d = d ∧
      c.op = 0x0207 ∧
      storeHeld s = false ∧
      mcServes s d = true ∧
      u = { s.start with nv := { s.nv with stores := rest } } ∧
      st = storeCheck u c (bf (pw c 0) 1 0) 1 b ∧
      st = .ok ∧
      0x10000000 < (parseMan b).len + (parseMan b).streamLen) ∧
    (∃ (d : Nat) (b : List Byte) (st : Status) (rest : List RunCmd) (c : RunCmd) (u : State) (s : State),
      (mayTake s d = false ∨ (frontEntry s d).op ≠ 0x0207) ∧
      s.nv.stores = c :: rest ∧
      c.d = d ∧
      c.op = 0x0207 ∧
      storeHeld s = false ∧
      mcServes s d = true ∧
      u = { s.start with nv := { s.nv with stores := rest } } ∧
      st = storeCheck u c (bf (pw c 0) 1 0) 1 b ∧
      st = .ok ∧
      (parseMan b).len + (parseMan b).streamLen ≤ 0x10000000) ∧
    (∃ (d : Nat) (n : Nat) (first : Nat) (b : List Byte) (st : Status) (rest : List RunCmd) (c : RunCmd) (u : State) (t : State) (s : State),
      (mayTake s d = false ∨ (frontEntry s d).op ≠ 0x0209) ∧
      s.nv.stores = c :: rest ∧
      c.d = d ∧
      c.op = 0x0209 ∧
      storeHeld s = false ∧
      mcServes s d = true ∧
      u = { s.start with nv := { s.nv with stores := rest } } ∧
      st = storeCheck u c (bf (pw c 0) 10 9) 2 b ∧
      first = bf (pw c 0) 7 0 ∧
      n = ((parseMan b).len + (parseMan b).streamLen + 0x1FFFFF) / 0x200000 ∧
      t = storeUnits first (b.take ((parseMan b).len + (parseMan b).streamLen)) (eraseSectors (256 + first) n u) ∧
      st ≠ .ok) :=
  ⟨⟨0, bigMan, _, [], _, _, { D with lcs := keyed, nv := { stores := [{ d := 0, tag := 0, op := 0x0207, noIrq := false, handle := 0, p := [0, 0, 0x8800, 0x20000000] }] } },
     Or.inl (by decide),
     rfl,
     rfl,
     by decide,
     by decide,
     by decide,
     rfl,
     rfl,
     by decide +kernel,
     by decide +kernel⟩,
   ⟨0, fullMan, _, [], _, _, { D with lcs := keyed, nv := { stores := [{ d := 0, tag := 0, op := 0x0207, noIrq := false, handle := 0, p := [0, 0, 0x8800, 0x20000000] }] } },
     Or.inl (by decide),
     rfl,
     rfl,
     by decide,
     by decide,
     by decide,
     rfl,
     rfl,
     by decide +kernel,
     by decide +kernel⟩,
   ⟨0, _, _, [], _, [], _, _, _, { D with lcs := keyed, nv := { stores := [{ d := 0, tag := 0, op := 0x0209, noIrq := false, handle := 0, p := [0, 0, 0x8800, 0x20000000] }] } },
     Or.inl (by decide),
     rfl,
     rfl,
     by decide,
     by decide,
     by decide,
     rfl,
     rfl,
     rfl,
     rfl,
     rfl,
     by decide +kernel⟩⟩

set_option maxRecDepth 100000 in
/-- States and operands that meet the hypotheses of some clauses of StoreCommands. -/
theorem reach_StoreCommands_3 :
    (∃ (d : Nat) (n : Nat) (first : Nat) (b : List Byte) (st : Status) (rest : List RunCmd) (c : RunCmd) (u : State) (t : State) (s : State),
      (mayTake s d = false ∨ (frontEntry s d).op ≠ 0x0209) ∧
      s.nv.stores = c :: rest ∧
      c.d = d ∧
      c.op = 0x0209 ∧
      storeHeld s = false ∧
      mcServes s d = true ∧
      u = { s.start with nv := { s.nv with stores := rest } } ∧
      st = storeCheck u c (bf (pw c 0) 10 9) 2 b ∧
      first = bf (pw c 0) 7 0 ∧
      n = ((parseMan b).len + (parseMan b).streamLen + 0x1FFFFF) / 0x200000 ∧
      t = storeUnits first (b.take ((parseMan b).len + (parseMan b).streamLen)) (eraseSectors (256 + first) n u) ∧
      st = .ok ∧
      256 < first + n) ∧
    (∃ (d : Nat) (n : Nat) (first : Nat) (b : List Byte) (st : Status) (rest : List RunCmd) (c : RunCmd) (u : State) (t : State) (s : State),
      (mayTake s d = false ∨ (frontEntry s d).op ≠ 0x0209) ∧
      s.nv.stores = c :: rest ∧
      c.d = d ∧
      c.op = 0x0209 ∧
      storeHeld s = false ∧
      mcServes s d = true ∧
      u = { s.start with nv := { s.nv with stores := rest } } ∧
      st = storeCheck u c (bf (pw c 0) 10 9) 2 b ∧
      first = bf (pw c 0) 7 0 ∧
      n = ((parseMan b).len + (parseMan b).streamLen + 0x1FFFFF) / 0x200000 ∧
      t = storeUnits first (b.take ((parseMan b).len + (parseMan b).streamLen)) (eraseSectors (256 + first) n u) ∧
      st = .ok ∧
      first + n ≤ 256 ∧
      unitsInUse u first n = true) ∧
    (∃ (d : Nat) (n : Nat) (first : Nat) (b : List Byte) (st : Status) (rest : List RunCmd) (c : RunCmd) (u : State) (t : State) (s : State),
      (mayTake s d = false ∨ (frontEntry s d).op ≠ 0x0209) ∧
      s.nv.stores = c :: rest ∧
      c.d = d ∧
      c.op = 0x0209 ∧
      storeHeld s = false ∧
      mcServes s d = true ∧
      u = { s.start with nv := { s.nv with stores := rest } } ∧
      st = storeCheck u c (bf (pw c 0) 10 9) 2 b ∧
      first = bf (pw c 0) 7 0 ∧
      n = ((parseMan b).len + (parseMan b).streamLen + 0x1FFFFF) / 0x200000 ∧
      t = storeUnits first (b.take ((parseMan b).len + (parseMan b).streamLen)) (eraseSectors (256 + first) n u) ∧
      st = .ok ∧
      first + n ≤ 256 ∧
      unitsInUse u first n = false ∧
      (List.range n).all (fun i => mayWriteRange u (cmdOwner c) (256 + first + i)) = false) :=
  ⟨⟨0, _, _, partMan, _, [], _, _, _, { D with lcs := keyed, nv := { stores := [{ d := 0, tag := 0, op := 0x0209, noIrq := false, handle := 0, p := [0xFF, 0, 0x8800, 0x20000000] }], pkeys := [(0, some (1, 1))] } },
     Or.inl (by decide),
     rfl,
     rfl,
     by decide,
     by decide,
     by decide,
     rfl,
     rfl,
     rfl,
     rfl,
     rfl,
     by decide +kernel,
     by decide +kernel⟩,
   ⟨0, _, _, partMan, _, [], _, _, _, { D with lcs := keyed, nv := { stores := [{ d := 0, tag := 0, op := 0x0209, noIrq := false, handle := 0, p := [0, 0, 0x8800, 0x20000000] }], pkeys := [(0, some (1, 1))] }, cfg := { frames := [(0, { a := { src := .library 0 } })] } },
     Or.inl (by decide),
     rfl,
     rfl,
     by decide,
     by decide,
     by decide,
     rfl,
     rfl,
     rfl,
     rfl,
     rfl,
     by decide +kernel,
     by decide +kernel,
     by decide +kernel⟩,
   ⟨0, _, _, partMan, _, [], _, _, _, { D with lcs := keyed, nv := { stores := [{ d := 0, tag := 0, op := 0x0209, noIrq := false, handle := 0, p := [0, 0, 0x8800, 0x20000000] }], pkeys := [(0, some (1, 1))], ranges := [(0, { first := 256, last := 263, wp := true, perm := false })] } },
     Or.inl (by decide),
     rfl,
     rfl,
     by decide,
     by decide,
     by decide,
     rfl,
     rfl,
     rfl,
     rfl,
     rfl,
     by decide +kernel,
     by decide +kernel,
     by decide +kernel,
     by decide +kernel⟩⟩

set_option maxRecDepth 100000 in
/-- States and operands that meet the hypotheses of some clauses of StoreCommands. -/
theorem reach_StoreCommands_4 :
    (∃ (d : Nat) (n : Nat) (first : Nat) (b : List Byte) (st : Status) (rest : List RunCmd) (c : RunCmd) (u : State) (t : State) (s : State),
      (mayTake s d = false ∨ (frontEntry s d).op ≠ 0x0209) ∧
      s.nv.stores = c :: rest ∧
      c.d = d ∧
      c.op = 0x0209 ∧
      storeHeld s = false ∧
      mcServes s d = true ∧
      u = { s.start with nv := { s.nv with stores := rest } } ∧
      st = storeCheck u c (bf (pw c 0) 10 9) 2 b ∧
      first = bf (pw c 0) 7 0 ∧
      n = ((parseMan b).len + (parseMan b).streamLen + 0x1FFFFF) / 0x200000 ∧
      t = storeUnits first (b.take ((parseMan b).len + (parseMan b).streamLen)) (eraseSectors (256 + first) n u) ∧
      st = .ok ∧
      first + n ≤ 256 ∧
      unitsInUse u first n = false ∧
      (List.range n).all (fun i => mayWriteRange u (cmdOwner c) (256 + first + i)) = true) ∧
    (∃ (d : Nat) (seq : Nat) (c : RunCmd) (u : State) (s : State),
      served s d 0x0208 .any ∧
      u = servedState s d ∧
      c = frontEntry s d ∧
      slotCheck u (bf (pw c 0) 0 0) = .ok ∧
      selWinner u.nv.selA u.nv.selB = some true ∧
      selValid u.nv.selA = true ∧
      selValid u.nv.selB = true ∧
      seq = selSeq u.nv.selB + 1) ∧
    (∃ (d : Nat) (st : Status) (c : RunCmd) (u : State) (s : State),
      served s d 0x0208 .any ∧
      u = servedState s d ∧
      c = frontEntry s d ∧
      slotCheck u (bf (pw c 0) 0 0) = st ∧
      st ≠ .ok) :=
  ⟨⟨0, _, _, partMan, _, [], _, _, _, { D with lcs := keyed, nv := { stores := [{ d := 0, tag := 0, op := 0x0209, noIrq := false, handle := 0, p := [0, 0, 0x8800, 0x20000000] }], pkeys := [(0, some (1, 1))] } },
     Or.inl (by decide),
     rfl,
     rfl,
     by decide,
     by decide,
     by decide,
     rfl,
     rfl,
     rfl,
     rfl,
     rfl,
     by decide +kernel,
     by decide +kernel,
     by decide +kernel,
     by decide +kernel⟩,
   ⟨0, _, _, _, mb 0x0208 [0] (slotted D),
     ⟨by decide, by decide, by decide, by decide, by decide, Or.inl (by decide)⟩,
     rfl,
     rfl,
     slot_checks,
     by decide +kernel,
     by decide +kernel,
     by decide +kernel,
     rfl⟩,
   ⟨0, .authFail, _, _, mb 0x0208 [0] D,
     ⟨by decide, by decide, by decide, by decide, by decide, Or.inl (by decide)⟩,
     rfl,
     rfl,
     by decide +kernel,
     by decide⟩⟩

set_option maxRecDepth 100000 in
/-- States and operands that meet the hypotheses of some clauses of StoreCommands. -/
theorem reach_StoreCommands_5 :
    (∀ (k : BitVec 256) (hs : Config.serial = 0)
      (hk : Crypto.aesKwUnwrap 0x000102030405060708090A0B0C0D0E0F101112131415161718191A1B1C1D1E1F ((wrapReq.drop 0x14).take 40) = some k), ∃ (d : Nat) (o : Nat) (n : Nat) (b : List Byte) (k : BitVec 256) (c : RunCmd) (u : State) (s : State),
      served s d 0x020A .h ∧
      u = servedState s d ∧
      c = frontEntry s d ∧
      bufOk (pw c 0) 156 = true ∧
      b = readBuf u c (pw c 0) 156 ∧
      leAt b 0 4 = 0xB10E4B57 ∧
      o = leAt b 4 1 ∧
      o ≤ 5 ∧
      n = leAt b 8 4 ∧
      leAt b 0x0C 8 = Config.serial.toNat ∧
      (∀ x, SMap.get dNone u.nv.pkeys o = some x → x.2 < n) ∧
      Crypto.ecdsaVerify (wrapSigner u) (Crypto.sha384 (b.take 0x3C)) ((b.drop 0x3C).take 96) = true ∧
      Crypto.aesKwUnwrap u.lcs.kek ((b.drop 0x14).take 40) = some k) ∧
    (∃ (d : Nat) (c : RunCmd) (u : State) (s : State),
      served s d 0x020A .h ∧
      u = servedState s d ∧
      c = frontEntry s d ∧
      bufOk (pw c 0) 156 = true ∧
      Crypto.ecdsaVerify (wrapSigner u) (Crypto.sha384 ((readBuf u c (pw c 0) 156).take 0x3C)) (((readBuf u c (pw c 0) 156).drop 0x3C).take 96) = false) :=
  ⟨fun k hs hk => ⟨0, _, _, wrapReq, k, _, _, (mbB 0x020A [0x2000] 0x2000 wrapReq { D with boot := { D.boot with imgOwner := pub1 }, lcs := { state := 3, kek := 0x000102030405060708090A0B0C0D0E0F101112131415161718191A1B1C1D1E1F } }),
     ⟨by decide, by decide, by decide, by decide, by decide, Or.inl (by decide)⟩,
     rfl,
     rfl,
     by decide,
     by decide +kernel,
     by decide +kernel,
     rfl,
     by decide,
     rfl,
     by rw [hs]; decide +kernel,
     by decide,
     by decide +kernel,
     hk⟩,
   ⟨0, _, _, mb 0x020A [0x2000] D,
     ⟨by decide, by decide, by decide, by decide, by decide, Or.inl (by decide)⟩,
     rfl,
     rfl,
     by decide,
     by decide +kernel⟩⟩

/-- States and operands that meet the hypotheses of each clause of NvQueues. -/
theorem reach_NvQueues :
    (∃ (acc : Accessor) (q : Nat) (v : Word) (s : State),
      q = qSel acc s ∧
      qWritable acc q = true ∧
      idxFill (wf v 8 0) (s.qOf q).head ≤ 256) ∧
    (∃ (acc : Accessor) (q : Nat) (v : Word) (s : State),
      q = qSel acc s ∧
      qWritable acc q = true ∧
      256 < idxFill (wf v 8 0) (s.qOf q).head) ∧
    (∃ (acc : Accessor) (q : Nat) (v : Word) (s : State),
      q = qSel acc s ∧
      qWritable acc q = true ∧
      idxFill (s.qOf q).cqTail (wf v 8 0) ≤ idxFill (s.qOf q).cqTail (s.qOf q).cqHead) ∧
    (∃ (acc : Accessor) (q : Nat) (v : Word) (s : State),
      q = qSel acc s ∧
      qWritable acc q = true ∧
      wb v 31 = true ∧
      (s.qOf q).enable = false) ∧
    (∃ (acc : Accessor) (v : Word) (s : State),
      qWritable acc (qSel acc s) = false) ∧
    (∃ (acc : Accessor) (q : Nat) (v : Word) (s : State),
      q = qSel acc s ∧
      qWritable acc q = true ∧
      idxFill (s.qOf q).cqTail (s.qOf q).cqHead < idxFill (s.qOf q).cqTail (wf v 8 0)) ∧
    (∃ (acc : Accessor) (q : Nat) (v : Word) (s : State),
      q = qSel acc s ∧
      qWritable acc q = true ∧
      (wb v 31 = false ∨ (s.qOf q).enable = true)) ∧
    (∃ (q : Nat) (f : DmaResult) (bytes : List Byte) (x : Desc) (m : Status × State) (u : State) (v : State) (s : State),
      qNext s.start = some q ∧
      m = (if q = 5 then (.ok, s.start) else blockAccess s.start 0x11B (qOwner q) false ((s.qOf q).base + 32 * ((s.qOf q).head % 256)) 32 f.status) ∧
      m.1 = .ok ∧
      bytes = (if q = 5 then Memory.readN 0 s.mc.ram (0x4C000 + 32 * ((s.qOf q).head % 256)) 32 else f.data) ∧
      bytes.length = 32 ∧
      x = parseDesc bytes ∧
      u = takeTurn m.2 q ∧
      v = putQ u q { s.qOf q with head := ((s.qOf q).head + 1) % 512, run := (s.qOf q).run ++ [startDesc s.start q x] }) ∧
    (∃ (q : Nat) (f : DmaResult) (m : Status × State) (s : State),
      qNext s.start = some q ∧
      q ≠ 5 ∧
      m = blockAccess s.start 0x11B (qOwner q) false ((s.qOf q).base + 32 * ((s.qOf q).head % 256)) 32 f.status ∧
      m.1 ≠ .ok) ∧
    (∃ (q : Nat) (tag : Nat) (wr : Status) (x : Desc) (bs : List Byte) (m : Status × State) (u : State) (s : State),
      (s.qOf q).run.find? (fun x => x.tag == tag && descOver x) = some x ∧
      (s.qOf q).stop = false ∧
      idxFill (s.qOf q).cqTail (s.qOf q).cqHead ≠ 256 ∧
      bs = descCpl s.start x (s.qOf q).cqTail ∧
      m = (if q = 5 then (.ok, hsPut s.start (0xE000 + 16 * ((s.qOf q).cqTail % 256)) bs) else blockWrite s.start 0x11B (qOwner q) (cqBase s.start q + 16 * ((s.qOf q).cqTail % 256)) bs wr) ∧
      u = putQ m.2 q { s.qOf q with run := (s.qOf q).run.erase x, cqTail := ((s.qOf q).cqTail + 1) % 512 } ∧
      m.1 = .ok) ∧
    (∃ (q : Nat) (tag : Nat) (wr : Status) (x : Desc) (bs : List Byte) (m : Status × State) (u : State) (s : State),
      (s.qOf q).run.find? (fun x => x.tag == tag && descOver x) = some x ∧
      (s.qOf q).stop = false ∧
      idxFill (s.qOf q).cqTail (s.qOf q).cqHead ≠ 256 ∧
      bs = descCpl s.start x (s.qOf q).cqTail ∧
      m = (if q = 5 then (.ok, hsPut s.start (0xE000 + 16 * ((s.qOf q).cqTail % 256)) bs) else blockWrite s.start 0x11B (qOwner q) (cqBase s.start q + 16 * ((s.qOf q).cqTail % 256)) bs wr) ∧
      u = putQ m.2 q { s.qOf q with run := (s.qOf q).run.erase x, cqTail := ((s.qOf q).cqTail + 1) % 512 } ∧
      m.1 ≠ .ok) ∧
    (∃ (q : Nat) (tag : Nat) (wr : Status) (x : Desc) (s : State),
      (s.qOf q).run.find? (fun x => x.tag == tag && descOver x) = some x ∧
      (s.qOf q).stop = true) :=
  ⟨⟨M, _, 1, { D with copies := [(copyKey (acode M) 0x40004 0, 1)], nv := { qs := [(1, {  })] } },
     rfl,
     by decide,
     by decide⟩,
   ⟨M, _, 300, { D with copies := [(copyKey (acode M) 0x40004 0, 1)], nv := { qs := [(1, {  })] } },
     rfl,
     by decide,
     by decide⟩,
   ⟨M, _, 1, { D with copies := [(copyKey (acode M) 0x40004 0, 1)], nv := { qs := [(1, { cqTail := 2 })] } },
     rfl,
     by decide,
     by decide⟩,
   ⟨M, _, 0x80000000, { D with copies := [(copyKey (acode M) 0x40004 0, 1)], nv := { qs := [(1, {  })] } },
     rfl,
     by decide,
     by decide,
     by decide⟩,
   ⟨M, 0, D,
     by decide⟩,
   ⟨M, _, 1, { D with copies := [(copyKey (acode M) 0x40004 0, 1)], nv := { qs := [(1, { cqTail := 0 })] } },
     rfl,
     by decide,
     by decide⟩,
   ⟨M, _, 0, { D with copies := [(copyKey (acode M) 0x40004 0, 1)], nv := { qs := [(1, { cqTail := 2 })] } },
     rfl,
     by decide,
     Or.inl (by decide)⟩,
   ⟨1, ⟨.ok, List.replicate 32 0⟩, _, _, _, _, _, { D with pci := [(0, { up := true, everUp := true, perst := false, bme := true, obLimit := 1 })], copies := [(copyKey (acode M) 0x40004 0, 1)], nv := { qs := [(1, { base := 0x880000000000, cqBase := 0x880000000000, enable := true, tail := 1 })] } },
     by decide,
     rfl,
     by decide,
     rfl,
     by decide,
     rfl,
     rfl,
     rfl⟩,
   ⟨1, ⟨.timeout, []⟩, _, { D with pci := [(0, { up := true, everUp := true, perst := false, bme := true, obLimit := 1 })], copies := [(copyKey (acode M) 0x40004 0, 1)], nv := { qs := [(1, { base := 0x880000000000, cqBase := 0x880000000000, enable := true, tail := 1 })] } },
     by decide,
     by decide,
     rfl,
     by decide⟩,
   ⟨1, 0, .ok, { ds 1 with fin := some .ok }, _, _, _, { D with pci := [(0, { up := true, everUp := true, perst := false, bme := true, obLimit := 1 })], copies := [(copyKey (acode M) 0x40004 0, 1)], nv := { qs := [(1, { base := 0x880000000000, cqBase := 0x880000000000, run := [{ ds 1 with fin := some .ok }] })] } },
     by decide,
     by decide,
     by decide,
     rfl,
     rfl,
     rfl,
     by decide⟩,
   ⟨1, 0, .ok, { ds 1 with fin := some .ok }, _, _, _, { D with copies := [(copyKey (acode M) 0x40004 0, 1)], nv := { qs := [(1, { base := 0x880000000000, cqBase := 0x880000000000, run := [{ ds 1 with fin := some .ok }] })] } },
     by decide,
     by decide,
     by decide,
     rfl,
     rfl,
     rfl,
     by decide⟩,
   ⟨1, 0, .ok, { ds 1 with fin := some .ok }, { D with copies := [(copyKey (acode M) 0x40004 0, 1)], nv := { qs := [(1, { stop := true, run := [{ ds 1 with fin := some .ok }] })] } },
     by decide,
     by decide⟩⟩

set_option maxRecDepth 100000 in
/-- States and operands that meet the hypotheses of some clauses of NvDescriptors. -/
theorem reach_NvDescriptors_1 :
    (∃ (q : Nat) (tag : Nat) (k : Nat) (a : Nat) (r : PartInput) (x : Desc) (s : State),
      partReady s.start 1 q tag k x r ∧
      x.op = 1 ∧
      a = (x.parts.getD k (0, 0)).1 ∧
      bankOp s.start (laBank a) = some x ∧
      tornAt s.start a = false) ∧
    (∃ (q : Nat) (tag : Nat) (k : Nat) (a : Nat) (r : PartInput) (x : Desc) (s : State),
      partReady s.start 1 q tag k x r ∧
      x.op = 1 ∧
      a = (x.parts.getD k (0, 0)).1 ∧
      bankOp s.start (laBank a) = some x ∧
      tornAt s.start a = true) ∧
    (∃ (q : Nat) (tag : Nat) (k : Nat) (a : Nat) (r : PartInput) (x : Desc) (ps : List (Nat × Nat)) (m : Status × State) (w : Status × State) (s : State),
      partReady s.start 2 q tag k x r ∧
      x.op = 2 ∧
      a = (x.parts.getD k (0, 0)).1 ∧
      bankOp s.start (laBank a) = some x ∧
      ps = partPieces x.addr x.len a ∧
      m = bufMeets q x ps r.status s.start ∧
      w = programPart (fun b n => bufRead s.start q (x.buf + (b - x.addr)) n r (usedBefore ps b)) r a ps m.2 ∧
      tornAt s.start a = true) ∧
    (∃ (q : Nat) (tag : Nat) (k : Nat) (a : Nat) (r : PartInput) (x : Desc) (ps : List (Nat × Nat)) (m : Status × State) (w : Status × State) (s : State),
      partReady s.start 2 q tag k x r ∧
      x.op = 2 ∧
      a = (x.parts.getD k (0, 0)).1 ∧
      bankOp s.start (laBank a) = some x ∧
      ps = partPieces x.addr x.len a ∧
      m = bufMeets q x ps r.status s.start ∧
      w = programPart (fun b n => bufRead s.start q (x.buf + (b - x.addr)) n r (usedBefore ps b)) r a ps m.2 ∧
      tornAt s.start a = false ∧
      xipHas s.start (qOwner q) (laBank a) = true) ∧
    (∃ (q : Nat) (tag : Nat) (k : Nat) (a : Nat) (r : PartInput) (x : Desc) (ps : List (Nat × Nat)) (m : Status × State) (w : Status × State) (s : State),
      partReady s.start 2 q tag k x r ∧
      x.op = 2 ∧
      a = (x.parts.getD k (0, 0)).1 ∧
      bankOp s.start (laBank a) = some x ∧
      ps = partPieces x.addr x.len a ∧
      m = bufMeets q x ps r.status s.start ∧
      w = programPart (fun b n => bufRead s.start q (x.buf + (b - x.addr)) n r (usedBefore ps b)) r a ps m.2 ∧
      tornAt s.start a = false ∧
      xipHas s.start (qOwner q) (laBank a) = false ∧
      m.1 ≠ .ok) ∧
    (∃ (q : Nat) (tag : Nat) (k : Nat) (a : Nat) (r : PartInput) (x : Desc) (ps : List (Nat × Nat)) (m : Status × State) (w : Status × State) (s : State),
      partReady s.start 2 q tag k x r ∧
      x.op = 2 ∧
      a = (x.parts.getD k (0, 0)).1 ∧
      bankOp s.start (laBank a) = some x ∧
      ps = partPieces x.addr x.len a ∧
      m = bufMeets q x ps r.status s.start ∧
      w = programPart (fun b n => bufRead s.start q (x.buf + (b - x.addr)) n r (usedBefore ps b)) r a ps m.2 ∧
      tornAt s.start a = false ∧
      xipHas s.start (qOwner q) (laBank a) = false ∧
      m.1 = .ok) ∧
    (∃ (q : Nat) (tag : Nat) (k : Nat) (a : Nat) (r : PartInput) (x : Desc) (s : State),
      partReady s.start 3 q tag k x r ∧
      x.op = 3 ∧
      a = (x.parts.getD k (0, 0)).1 ∧
      bankOp s.start (laBank a) = some x ∧
      xipHas s.start (qOwner q) (laBank a) = false) ∧
    (∃ (q : Nat) (tag : Nat) (k : Nat) (a : Nat) (r : PartInput) (x : Desc) (s : State),
      partReady s.start 3 q tag k x r ∧
      x.op = 3 ∧
      a = (x.parts.getD k (0, 0)).1 ∧
      bankOp s.start (laBank a) = some x ∧
      xipHas s.start (qOwner q) (laBank a) = true) :=
  ⟨⟨1, 0, 0, _, ⟨.ok, [0, 0, 0, 0], true, true, 0⟩, ds 1, { D with nv := { qs := [(1, { run := [ds 1] })] } },
     by unfold partReady; decide,
     by decide +kernel,
     rfl,
     by decide +kernel,
     by decide +kernel⟩,
   ⟨1, 0, 0, _, ⟨.ok, [0, 0, 0, 0], true, true, 0⟩, ds 1, { D with nv := { qs := [(1, { run := [ds 1] })], banks := [(0, { started := [512] })] } },
     by unfold partReady; decide,
     by decide +kernel,
     rfl,
     by decide +kernel,
     by decide +kernel⟩,
   ⟨1, 0, 0, _, ⟨.ok, [0, 0, 0, 0], true, true, 0⟩, ds 2, _, _, _, { D with nv := { qs := [(1, { run := [ds 2] })], banks := [(0, { started := [512] })] } },
     by unfold partReady; decide,
     by decide +kernel,
     rfl,
     by decide +kernel,
     rfl,
     rfl,
     rfl,
     by decide +kernel⟩,
   ⟨1, 0, 0, _, ⟨.ok, [0, 0, 0, 0], true, true, 0⟩, ds 2, _, _, _, { D with nv := { qs := [(1, { run := [ds 2] })], xip := [(0, some (.h0, 1))] } },
     by unfold partReady; decide,
     by decide +kernel,
     rfl,
     by decide +kernel,
     rfl,
     rfl,
     rfl,
     by decide +kernel,
     by decide +kernel⟩,
   ⟨1, 0, 0, _, ⟨.ok, [0, 0, 0, 0], true, true, 0⟩, ds 2, _, _, _, { D with nv := { qs := [(1, { run := [ds 2] })] } },
     by unfold partReady; decide,
     by decide +kernel,
     rfl,
     by decide +kernel,
     rfl,
     rfl,
     rfl,
     by decide +kernel,
     by decide +kernel,
     by decide +kernel⟩,
   ⟨1, 0, 0, _, ⟨.ok, [0, 0, 0, 0], true, true, 0⟩, ds 2, _, _, _, { D with pci := [(0, { up := true, everUp := true, perst := false, bme := true, obLimit := 1 })], nv := { qs := [(1, { run := [ds 2] })] } },
     by unfold partReady; decide,
     by decide +kernel,
     rfl,
     by decide +kernel,
     rfl,
     rfl,
     rfl,
     by decide +kernel,
     by decide +kernel,
     by decide +kernel⟩,
   ⟨1, 0, 0, _, ⟨.ok, [0, 0, 0, 0], true, true, 0⟩, ds 3, { D with nv := { qs := [(1, { run := [ds 3] })] } },
     by unfold partReady; decide,
     by decide +kernel,
     rfl,
     by decide +kernel,
     by decide +kernel⟩,
   ⟨1, 0, 0, _, ⟨.ok, [0, 0, 0, 0], true, true, 0⟩, ds 3, { D with nv := { qs := [(1, { run := [ds 3] })], xip := [(0, some (.h0, 1))] } },
     by unfold partReady; decide,
     by decide +kernel,
     rfl,
     by decide +kernel,
     by decide +kernel⟩⟩

set_option maxRecDepth 100000 in
/-- States and operands that meet the hypotheses of some clauses of NvDescriptors. -/
theorem reach_NvDescriptors_2 :
    (∃ (q : Nat) (tag : Nat) (k : Nat) (a : Nat) (r : PartInput) (x : Desc) (s : State),
      partReady s.start 4 q tag k x r ∧
      x.op = 4 ∧
      a = (x.parts.getD k (0, 0)).1 ∧
      bankOp s.start (laBank a) = some x) ∧
    (∃ (q : Nat) (tag : Nat) (k : Nat) (a : Nat) (r : PartInput) (x : Desc) (s : State),
      partReady s.start 5 q tag k x r ∧
      x.op = 5 ∧
      a = (x.parts.getD k (0, 0)).1 ∧
      bankOp s.start (laBank a) = some x ∧
      tornAt s.start a = true) ∧
    (∃ (q : Nat) (tag : Nat) (k : Nat) (a : Nat) (r : PartInput) (x : Desc) (s : State),
      partReady s.start 5 q tag k x r ∧
      x.op = 5 ∧
      a = (x.parts.getD k (0, 0)).1 ∧
      bankOp s.start (laBank a) = some x ∧
      tornAt s.start a = false ∧
      firstUsed s.start (partPieces x.addr x.len a) = none) ∧
    (∃ (q : Nat) (tag : Nat) (k : Nat) (a : Nat) (r : PartInput) (x : Desc) (s : State) (b : Nat),
      partReady s.start 5 q tag k x r ∧
      x.op = 5 ∧
      a = (x.parts.getD k (0, 0)).1 ∧
      bankOp s.start (laBank a) = some x ∧
      tornAt s.start a = false ∧
      firstUsed s.start (partPieces x.addr x.len a) = some b) ∧
    (∃ (q : Nat) (tag : Nat) (k : Nat) (a : Nat) (r : PartInput) (x : Desc) (s : State),
      partReady s.start 6 q tag k x r ∧
      x.op = 6 ∧
      a = (x.parts.getD k (0, 0)).1 ∧
      bankOp s.start (laBank a) = some x ∧
      tornAt s.start a = false) ∧
    (∃ (q : Nat) (tag : Nat) (k : Nat) (a : Nat) (r : PartInput) (x : Desc) (s : State),
      partReady s.start 6 q tag k x r ∧
      x.op = 6 ∧
      a = (x.parts.getD k (0, 0)).1 ∧
      bankOp s.start (laBank a) = some x ∧
      tornAt s.start a = true) ∧
    (∃ (q : Nat) (tag : Nat) (k : Nat) (a : Nat) (r : PartInput) (x : Desc) (ps : List (Nat × Nat)) (w : Status × State) (s : State),
      partReady s.start 7 q tag k x r ∧
      x.op = 7 ∧
      a = (x.parts.getD k (0, 0)).1 ∧
      bankOp s.start (laBank a) = some x ∧
      ps = partPieces x.aux x.len a ∧
      w = programPart (copyData s.start x) r a ps s.start ∧
      (srcTorn s.start x ps = true ∨ tornAt s.start a = true)) ∧
    (∃ (q : Nat) (tag : Nat) (k : Nat) (a : Nat) (r : PartInput) (x : Desc) (ps : List (Nat × Nat)) (w : Status × State) (s : State),
      partReady s.start 7 q tag k x r ∧
      x.op = 7 ∧
      a = (x.parts.getD k (0, 0)).1 ∧
      bankOp s.start (laBank a) = some x ∧
      ps = partPieces x.aux x.len a ∧
      w = programPart (copyData s.start x) r a ps s.start ∧
      srcTorn s.start x ps = false ∧
      tornAt s.start a = false ∧
      xipHas s.start (qOwner q) (laBank a) = true) :=
  ⟨⟨1, 0, 0, _, ⟨.ok, [0, 0, 0, 0], true, true, 0⟩, ds 4, { D with nv := { qs := [(1, { run := [ds 4] })] } },
     by unfold partReady; decide,
     by decide +kernel,
     rfl,
     by decide +kernel⟩,
   ⟨1, 0, 0, _, ⟨.ok, [0, 0, 0, 0], true, true, 0⟩, ds 5, { D with nv := { qs := [(1, { run := [ds 5] })], banks := [(0, { started := [512] })] } },
     by unfold partReady; decide,
     by decide +kernel,
     rfl,
     by decide +kernel,
     by decide +kernel⟩,
   ⟨1, 0, 0, _, ⟨.ok, [0, 0, 0, 0], true, true, 0⟩, ds 5, { D with nv := { qs := [(1, { run := [ds 5] })] } },
     by unfold partReady; decide,
     by decide +kernel,
     rfl,
     by decide +kernel,
     by decide +kernel,
     by decide +kernel⟩,
   ⟨1, 0, 0, _, ⟨.ok, [0, 0, 0, 0], true, true, 0⟩, ds 5, { D with nv := { qs := [(1, { run := [ds 5] })], arr := [(16777216, 0)] } }, 0x40000000,
     by unfold partReady; decide,
     by decide +kernel,
     rfl,
     by decide +kernel,
     by decide +kernel,
     by decide +kernel⟩,
   ⟨1, 0, 0, _, ⟨.ok, [0, 0, 0, 0], true, true, 0⟩, ds 6, { D with nv := { qs := [(1, { run := [ds 6] })] } },
     by unfold partReady; decide,
     by decide +kernel,
     rfl,
     by decide +kernel,
     by decide +kernel⟩,
   ⟨1, 0, 0, _, ⟨.ok, [0, 0, 0, 0], true, true, 0⟩, ds 6, { D with nv := { qs := [(1, { run := [ds 6] })], banks := [(0, { started := [512] })] } },
     by unfold partReady; decide,
     by decide +kernel,
     rfl,
     by decide +kernel,
     by decide +kernel⟩,
   ⟨1, 0, 0, _, ⟨.ok, [0, 0, 0, 0], true, true, 0⟩, { ds 7 with addr := 0x40200000, aux := 0x40000000 }, _, _, { D with nv := { qs := [(1, { run := [{ ds 7 with addr := 0x40200000, aux := 0x40000000 }] })], banks := [(0, { started := [513] })] } },
     by unfold partReady; decide,
     by decide +kernel,
     rfl,
     by decide +kernel,
     rfl,
     rfl,
     by decide +kernel⟩,
   ⟨1, 0, 0, _, ⟨.ok, [0, 0, 0, 0], true, true, 0⟩, { ds 7 with addr := 0x40200000, aux := 0x40000000 }, _, _, { D with nv := { qs := [(1, { run := [{ ds 7 with addr := 0x40200000, aux := 0x40000000 }] })], xip := [(0, some (.h0, 1))] } },
     by unfold partReady; decide,
     by decide +kernel,
     rfl,
     by decide +kernel,
     rfl,
     rfl,
     by decide +kernel,
     by decide +kernel,
     by decide +kernel⟩⟩

set_option maxRecDepth 100000 in
/-- States and operands that meet the hypotheses of some clauses of NvDescriptors. -/
theorem reach_NvDescriptors_3 :
    (∃ (q : Nat) (tag : Nat) (k : Nat) (a : Nat) (r : PartInput) (x : Desc) (ps : List (Nat × Nat)) (w : Status × State) (s : State),
      partReady s.start 7 q tag k x r ∧
      x.op = 7 ∧
      a = (x.parts.getD k (0, 0)).1 ∧
      bankOp s.start (laBank a) = some x ∧
      ps = partPieces x.aux x.len a ∧
      w = programPart (copyData s.start x) r a ps s.start ∧
      srcTorn s.start x ps = false ∧
      tornAt s.start a = false ∧
      xipHas s.start (qOwner q) (laBank a) = false) ∧
    (∃ (q : Nat) (tag : Nat) (k : Nat) (a : Nat) (r : PartInput) (x : Desc) (u : State) (s : State),
      a = (x.parts.getD k (0, 0)).1 ∧
      urgentPart s.start q x (laBank a) = true ∧
      u = suspend s.start (laBank a) ∧
      partReady s.start 1 q tag k x r) ∧
    (∃ (q : Nat) (tag : Nat) (k : Nat) (a : Nat) (r : PartInput) (x : Desc) (u : State) (s : State),
      a = (x.parts.getD k (0, 0)).1 ∧
      urgentPart s.start q x (laBank a) = true ∧
      u = suspend s.start (laBank a) ∧
      partReady s.start 4 q tag k x r) ∧
    (∃ (q : Nat) (tag : Nat) (k : Nat) (a : Nat) (r : PartInput) (x : Desc) (u : State) (s : State),
      a = (x.parts.getD k (0, 0)).1 ∧
      urgentPart s.start q x (laBank a) = true ∧
      u = suspend s.start (laBank a) ∧
      partReady s.start 6 q tag k x r) ∧
    (∃ (q : Nat) (tag : Nat) (i : Nat) (x : Desc) (u : State) (s : State),
      (s.qOf q).run.find? (fun x => x.tag == tag && x.op == 8 && x.fin.isNone) = some x ∧
      (List.range 16).find? (fun i => (SMap.get dNone s.nv.xip i).isNone) = some i ∧
      u = { s.start with nv := { s.nv with xip := SMap.set dNone s.nv.xip i (some (qOwner q, bankMask x.addr x.len)) } }) ∧
    (∃ (q : Nat) (tag : Nat) (x : Desc) (s : State),
      (s.qOf q).run.find? (fun x => x.tag == tag && x.op == 8 && x.fin.isNone) = some x ∧
      (List.range 16).find? (fun i => (SMap.get dNone s.nv.xip i).isNone) = none) ∧
    (∃ (q : Nat) (tag : Nat) (i : Nat) (x : Desc) (u : State) (s : State),
      (s.qOf q).run.find? (fun x => x.tag == tag && x.op == 9 && x.fin.isNone) = some x ∧
      (List.range 16).find? (fun i => SMap.get dNone s.nv.xip i == some (qOwner q, bankMask x.addr x.len)) = some i ∧
      u = { s.start with nv := { s.nv with xip := SMap.set dNone s.nv.xip i none } }) ∧
    (∃ (q : Nat) (tag : Nat) (x : Desc) (s : State),
      (s.qOf q).run.find? (fun x => x.tag == tag && x.op == 9 && x.fin.isNone) = some x ∧
      (List.range 16).find? (fun i => SMap.get dNone s.nv.xip i == some (qOwner q, bankMask x.addr x.len)) = none) :=
  ⟨⟨1, 0, 0, _, ⟨.ok, [0, 0, 0, 0], true, true, 0⟩, { ds 7 with addr := 0x40200000, aux := 0x40000000 }, _, _, { D with nv := { qs := [(1, { run := [{ ds 7 with addr := 0x40200000, aux := 0x40000000 }] })] } },
     by unfold partReady; decide,
     by decide +kernel,
     rfl,
     by decide +kernel,
     rfl,
     rfl,
     by decide +kernel,
     by decide +kernel,
     by decide +kernel⟩,
   ⟨1, 0, 0, _, ⟨.ok, [0, 0, 0, 0], true, true, 0⟩, { ds 1 with flags := 1, seq := 1 }, _, { D with nv := { urgent := 3, qs := [(1, { run := [{ ds 3 with tag := 1 }, { ds 1 with flags := 1, seq := 1 }] })] } },
     rfl,
     by decide +kernel,
     rfl,
     by unfold partReady; decide⟩,
   ⟨1, 0, 0, _, ⟨.ok, [0, 0, 0, 0], true, true, 0⟩, { ds 4 with flags := 1, seq := 1 }, _, { D with nv := { urgent := 3, qs := [(1, { run := [{ ds 3 with tag := 1 }, { ds 4 with flags := 1, seq := 1 }] })] } },
     rfl,
     by decide +kernel,
     rfl,
     by unfold partReady; decide⟩,
   ⟨1, 0, 0, _, ⟨.ok, [0, 0, 0, 0], true, true, 0⟩, { ds 6 with flags := 1, seq := 1 }, _, { D with nv := { urgent := 3, qs := [(1, { run := [{ ds 3 with tag := 1 }, { ds 6 with flags := 1, seq := 1 }] })] } },
     rfl,
     by decide +kernel,
     rfl,
     by unfold partReady; decide⟩,
   ⟨1, 0, 0, { ds 8 with parts := [] }, _, { D with nv := { qs := [(1, { run := [{ ds 8 with parts := [] }] })] } },
     by decide +kernel,
     by decide +kernel,
     rfl⟩,
   ⟨1, 0, { ds 8 with parts := [] }, { D with nv := { qs := [(1, { run := [{ ds 8 with parts := [] }] })], xip := (List.range 16).map fun i => (i, some (.h1, 1)) } },
     by decide +kernel,
     by decide +kernel⟩,
   ⟨1, 0, 0, { ds 9 with parts := [] }, _, { D with nv := { qs := [(1, { run := [{ ds 9 with parts := [] }] })], xip := [(0, some (.h0, 1))] } },
     by decide +kernel,
     by decide +kernel,
     rfl⟩,
   ⟨1, 0, { ds 9 with parts := [] }, { D with nv := { qs := [(1, { run := [{ ds 9 with parts := [] }] })] } },
     by decide +kernel,
     by decide +kernel⟩⟩

set_option maxRecDepth 100000 in
/-- States and operands that meet the hypotheses of each clause of NvArray. -/
theorem reach_NvArray :
    (∃ (p : Pkt) (u : State) (s : State),
      p.op = .rd ∧
      pktEp p = 0x11B ∧
      pktOff p < 0x7F000000 ∧
      takeFlight s.start p = some u ∧
      isMuzzled u 0x11B = false) ∧
    (∃ (p : Pkt) (u : State) (s : State),
      p.op = .rd ∧
      pktEp p = 0x11B ∧
      pktOff p < 0x7F000000 ∧
      takeFlight s.start p = some u ∧
      isMuzzled u 0x11B = true) ∧
    (∃ (s : State) (o : Owner) (g : Bool) (a : Nat) (len : Nat) (b : Nat) (sec : Nat),
      b = laBank a ∧
      sec = laSector a ∧
      (0x7F000000 < a + len ∨ 0x7F000000 ≤ a)) ∧
    (∃ (s : State) (o : Owner) (g : Bool) (a : Nat) (len : Nat) (b : Nat) (sec : Nat),
      b = laBank a ∧
      sec = laSector a ∧
      a + len ≤ 0x7F000000 ∧
      a < 0x7F000000 ∧
      mayRead s o sec = false) ∧
    (∃ (s : State) (o : Owner) (g : Bool) (a : Nat) (len : Nat) (b : Nat) (sec : Nat),
      b = laBank a ∧
      sec = laSector a ∧
      a + len ≤ 0x7F000000 ∧
      a < 0x7F000000 ∧
      mayRead s o sec = true ∧
      outOfService s 0x84 sec = true) ∧
    (∃ (s : State) (o : Owner) (g : Bool) (a : Nat) (len : Nat) (b : Nat) (sec : Nat),
      b = laBank a ∧
      sec = laSector a ∧
      a + len ≤ 0x7F000000 ∧
      a < 0x7F000000 ∧
      mayRead s o sec = true ∧
      outOfService s 0x84 sec = false ∧
      bankBusy s b = true ∧
      suspends s o g b = false) ∧
    (∃ (s : State) (o : Owner) (g : Bool) (a : Nat) (len : Nat) (b : Nat) (sec : Nat),
      b = laBank a ∧
      sec = laSector a ∧
      a + len ≤ 0x7F000000 ∧
      a < 0x7F000000 ∧
      mayRead s o sec = true ∧
      outOfService s 0x84 sec = false ∧
      bankBusy s b = true ∧
      suspends s o g b = true ∧
      (tornAt s a = true ∨ erasing s b sec = true)) ∧
    (∃ (s : State) (o : Owner) (g : Bool) (a : Nat) (len : Nat) (b : Nat) (sec : Nat),
      b = laBank a ∧
      sec = laSector a ∧
      a + len ≤ 0x7F000000 ∧
      a < 0x7F000000 ∧
      mayRead s o sec = true ∧
      outOfService s 0x84 sec = false ∧
      bankBusy s b = true ∧
      suspends s o g b = true ∧
      tornAt s a = false ∧
      erasing s b sec = false) ∧
    (∃ (s : State) (o : Owner) (g : Bool) (a : Nat) (len : Nat) (b : Nat) (sec : Nat),
      b = laBank a ∧
      sec = laSector a ∧
      a + len ≤ 0x7F000000 ∧
      a < 0x7F000000 ∧
      mayRead s o sec = true ∧
      outOfService s 0x84 sec = false ∧
      bankBusy s b = false ∧
      tornAt s a = true) ∧
    (∃ (s : State) (o : Owner) (g : Bool) (a : Nat) (len : Nat) (b : Nat) (sec : Nat),
      b = laBank a ∧
      sec = laSector a ∧
      a + len ≤ 0x7F000000 ∧
      a < 0x7F000000 ∧
      mayRead s o sec = true ∧
      outOfService s 0x84 sec = false ∧
      bankBusy s b = false ∧
      tornAt s a = false) ∧
    (∃ (b : Nat) (s : State),
      b ≤ 63 ∧
      (s.bankOf b).due = true ∧
      nvcDevHeld s = false ∧
      (s.bankOf b).busy = .idle ∧
      (s.bankOf b).started.contains (slotPhys (s.bankOf b) (s.bankOf b).g) = false) ∧
    (∃ (b : Nat) (s : State),
      ((s.bankOf b).due = false ∨ nvcDevHeld s = true ∨ (s.bankOf b).busy ≠ .idle ∨ (s.bankOf b).started.contains (slotPhys (s.bankOf b) (s.bankOf b).g) = true)) ∧
    (∃ (b : Nat) (src : Nat) (dst : Nat) (g : Bank) (s : State),
      b ≤ 63 ∧
      g = s.bankOf b ∧
      g.busy = .copy ∧
      src = slotPhys g g.copySlot ∧
      dst = slotPhys g g.g) ∧
    (∃ (b : Nat) (s : State),
      (s.bankOf b).busy ≠ .copy) ∧
    (∃ (b : Nat) (s : State),
      b ≤ 63 ∧
      (s.bankOf b).busy = .gapErase) ∧
    (∃ (b : Nat) (s : State),
      (s.bankOf b).busy ≠ .gapErase) ∧
    (∃ (found : List (Nat × Nat × Nat)) (u : State) (s : State),
      s.boot.done = true ∧
      s.nv.scanDone = false ∧
      found = (List.range 64).flatMap (fun b => (tornIn s.start b).map fun x => (b, x)) ∧
      u = { s.start with nv := { s.nv with scanDone := true, torn := found.map fun e => (e.1, e.2.1), tornN := found.length } }) ∧
    (∃ (s : State),
      (s.boot.done = false ∨ s.nv.scanDone = true)) ∧
    (∃ (b : Nat) (p : Nat) (slot : Nat) (differs : Bool) (loop : Bool) (rew : Bool) (g : Bank) (u : State) (v : State) (s : State),
      b ≤ 63 ∧
      p ≤ 1023 ∧
      g = s.bankOf b ∧
      loop = (decide (s.pol 7 = 1) && mcRuns s && refreshAt s b == some p) ∧
      (loop = true ∨ s.nv.scans.any (fun x => x.left.contains (b, p)) = true) ∧
      bankState s b = 0 ∧
      holdsData s b p = true ∧
      g.started.contains p = false ∧
      slotOf g p = some slot ∧
      rew = (differs && !nvcDevHeld s && slot != g.g && !g.started.contains (slotPhys g g.g)) ∧
      u = (if rew then State.policy { s.start.setBank b { g with busy := .copy, copyRef := true, copySlot := slot } with nv := { (s.start.setBank b { g with busy := .copy, copyRef := true, copySlot := slot }).nv with rewrit := s.nv.rewrit + 1 } } .ok 3 b p else s.start) ∧
      v = s.nv.scans.foldl (scanRead b p rew) { u with nv := { u.nv with readAt := SMap.set dNat u.nv.readAt (b * 1024 + p) s.pwr.rtc } }) ∧
    (∃ (b : Nat) (p : Nat) (differs : Bool) (s : State),
      (bankState s b ≠ 0 ∨ holdsData s b p = false)) ∧
    (∃ (b : Nat) (p : Nat) (s : State),
      s.pol 7 = 1 ∧
      b < 64 ∧
      p < 1024 ∧
      holdsData s b p = true ∧
      SMap.get dNat s.nv.readAt (b * 1024 + p) + 2831155200 * (s.pol 0x0C + 1) ≤ s.pwr.rtc) ∧
    (∃ (b : Nat) (p : Nat) (s : State),
      (s.pol 7 ≠ 1 ∨ holdsData s b p = false ∨ s.pwr.rtc < SMap.get dNat s.nv.readAt (b * 1024 + p) + 2831155200 * (s.pol 0x0C + 1))) :=
  ⟨⟨{ pk with dst := 0x8D8000000000 }, _, N { flight := [{ pk with dst := 0x8D8000000000 }] },
     by decide +kernel,
     by decide +kernel,
     by decide +kernel,
     rfl,
     by decide +kernel⟩,
   ⟨{ pk with dst := 0x8D8000000000 }, _, N { flight := [{ pk with dst := 0x8D8000000000 }], map := [(0x11B, { state := .muzzled })] },
     by decide +kernel,
     by decide +kernel,
     by decide +kernel,
     rfl,
     by decide +kernel⟩,
   ⟨D, .h0, false, 0x7F000000, 4, _, _,
     rfl,
     rfl,
     Or.inr (by decide)⟩,
   ⟨{ D with nv := { ranges := [(0, { first := 512, last := 512, rp := true })] } }, .h0, false, 0x40000000, 4, _, _,
     rfl,
     rfl,
     by decide +kernel,
     by decide +kernel,
     by decide +kernel⟩,
   ⟨{ D with bst := { slices := [(0, some (sl 0x84 512))] } }, .h0, false, 0x40000000, 4, _, _,
     rfl,
     rfl,
     by decide +kernel,
     by decide +kernel,
     by decide +kernel,
     by decide +kernel⟩,
   ⟨{ D with nv := { banks := [(0, { busy := .copy })] } }, .h0, false, 0x40000000, 4, _, _,
     rfl,
     rfl,
     by decide +kernel,
     by decide +kernel,
     by decide +kernel,
     by decide +kernel,
     by decide +kernel,
     by decide +kernel⟩,
   ⟨{ D with nv := { urgent := 3, qs := [(1, { run := [ds 3] })] } }, .h0, true, 0x40000000, 4, _, _,
     rfl,
     rfl,
     by decide +kernel,
     by decide +kernel,
     by decide +kernel,
     by decide +kernel,
     by decide +kernel,
     by decide +kernel,
     Or.inr (by decide)⟩,
   ⟨{ D with nv := { urgent := 3, qs := [(1, { run := [{ ds 3 with addr := 0x40200000, parts := [(0x40200000, 4)] }] })] } }, .h0, true, 0x40000000, 4, _, _,
     rfl,
     rfl,
     by decide +kernel,
     by decide +kernel,
     by decide +kernel,
     by decide +kernel,
     by decide +kernel,
     by decide +kernel,
     by decide +kernel,
     by decide +kernel⟩,
   ⟨{ D with nv := { banks := [(0, { started := [512] })] } }, .h0, false, 0x40000000, 4, _, _,
     rfl,
     rfl,
     by decide +kernel,
     by decide +kernel,
     by decide +kernel,
     by decide +kernel,
     by decide +kernel,
     by decide +kernel⟩,
   ⟨{ D with nv := {  } }, .h0, false, 0x40000000, 4, _, _,
     rfl,
     rfl,
     by decide +kernel,
     by decide +kernel,
     by decide +kernel,
     by decide +kernel,
     by decide +kernel,
     by decide +kernel⟩,
   ⟨0, { D with nv := { banks := [(0, { due := true })] } },
     by decide +kernel,
     by decide +kernel,
     by decide +kernel,
     by decide +kernel,
     by decide +kernel⟩,
   ⟨0, D,
     Or.inl (by decide)⟩,
   ⟨0, _, _, _, { D with nv := { banks := [(0, { busy := .copy })] } },
     by decide +kernel,
     rfl,
     by decide +kernel,
     rfl,
     rfl⟩,
   ⟨0, D,
     by decide +kernel⟩,
   ⟨0, { D with nv := { banks := [(0, { busy := .gapErase })] } },
     by decide +kernel,
     by decide +kernel⟩,
   ⟨0, D,
     by decide +kernel⟩,
   ⟨_, _, D,
     by decide +kernel,
     by decide +kernel,
     rfl,
     rfl⟩,
   ⟨R,
     Or.inl (by decide)⟩,
   ⟨0, 0, 0, false, _, _, _, _, _, { D with mc := { pol := [(7, 1)], polSet := [7] }, nv := { arr := [(0, 0)] } },
     by decide +kernel,
     by decide +kernel,
     rfl,
     rfl,
     Or.inl (by decide),
     by decide +kernel,
     by decide +kernel,
     by decide +kernel,
     by decide +kernel,
     rfl,
     rfl,
     rfl⟩,
   ⟨0, 0, false, D,
     Or.inr (by decide)⟩,
   ⟨0, 0, { D with mc := { pol := [(7, 1)], polSet := [7] }, pwr := { rtc := 2831155200000 }, nv := { arr := [(0, 0)] } },
     by decide +kernel,
     by decide +kernel,
     by decide +kernel,
     by decide +kernel,
     by decide +kernel⟩,
   ⟨0, 0, D,
     Or.inr (Or.inl (by decide))⟩⟩

set_option maxRecDepth 100000 in
/-- States and operands that meet the hypotheses of each clause of NvRangeCommands. -/
theorem reach_NvRangeCommands :
    (∃ (d : Nat) (r : Nat) (first : Nat) (last : Nat) (g : NvRange) (c : RunCmd) (u : State) (s : State),
      served s d 0x0301 .any ∧
      u = servedState s d ∧
      c = frontEntry s d ∧
      r = bf (pw c 0) 4 0 ∧
      g = u.rangeOf r ∧
      rangeOwner u r = cmdOwner c ∧
      g.perm = false ∧
      (pw c 0).testBit 11 = false ∧
      first = bf (pw c 1) 9 0 ∧
      last = bf (pw c 2) 9 0 ∧
      256 ≤ first ∧
      last ≤ 1015 ∧
      first ≤ last ∧
      u.nv.ranges.any (fun e => e.1 != r && e.2.first ≤ e.2.last && e.2.first ≤ last && first ≤ e.2.last) = false) ∧
    (∃ (d : Nat) (c : RunCmd) (u : State) (s : State),
      served s d 0x0301 .any ∧
      u = servedState s d ∧
      c = frontEntry s d ∧
      rangeOwner u (bf (pw c 0) 4 0) ≠ cmdOwner c) ∧
    (∃ (d : Nat) (c : RunCmd) (u : State) (s : State),
      served s d 0x0301 .any ∧
      u = servedState s d ∧
      c = frontEntry s d ∧
      rangeOwner u (bf (pw c 0) 4 0) = cmdOwner c ∧
      (u.rangeOf (bf (pw c 0) 4 0)).perm = true) ∧
    (∃ (d : Nat) (r : Nat) (g : NvRange) (h : BitVec 384) (c : RunCmd) (u : State) (s : State),
      served s d 0x0302 .any ∧
      u = servedState s d ∧
      c = frontEntry s d ∧
      r = bf (pw c 0) 4 0 ∧
      g = u.rangeOf r ∧
      g.lock = false ∧
      g.pw = some h ∧
      Crypto.sha384 (password c 1) = h) ∧
    (∃ (d : Nat) (r : Nat) (g : NvRange) (h : BitVec 384) (c : RunCmd) (u : State) (s : State),
      served s d 0x0302 .any ∧
      u = servedState s d ∧
      c = frontEntry s d ∧
      r = bf (pw c 0) 4 0 ∧
      g = u.rangeOf r ∧
      g.lock = false ∧
      g.pw = some h ∧
      Crypto.sha384 (password c 1) ≠ h) ∧
    (∃ (d : Nat) (c : RunCmd) (u : State) (s : State),
      served s d 0x0302 .any ∧
      u = servedState s d ∧
      c = frontEntry s d ∧
      (u.rangeOf (bf (pw c 0) 4 0)).lock = true) ∧
    (∃ (d : Nat) (r : Nat) (g : NvRange) (h : BitVec 384) (c : RunCmd) (u : State) (s : State),
      served s d 0x0303 .any ∧
      u = servedState s d ∧
      c = frontEntry s d ∧
      r = bf (pw c 0) 4 0 ∧
      g = u.rangeOf r ∧
      rangeOwner u r = cmdOwner c ∧
      g.lock = false ∧
      g.pw = some h ∧
      Crypto.sha384 (password c 1) = h) ∧
    (∃ (d : Nat) (c : RunCmd) (u : State) (s : State),
      served s d 0x0304 .any ∧
      u = servedState s d ∧
      c = frontEntry s d ∧
      (pw c 0).testBit 0 = false ∧
      scanList u false (cmdOwner c) = []) ∧
    (∃ (d : Nat) (c : RunCmd) (u : State) (s : State),
      served s d 0x0304 .any ∧
      u = servedState s d ∧
      c = frontEntry s d ∧
      (pw c 0).testBit 0 = true ∧
      u.lead ≠ some c.d) ∧
    (∃ (d : Nat) (q : Nat) (c : RunCmd) (u : State) (s : State),
      served s d 0x0305 .lead ∧
      u = servedState s d ∧
      c = frontEntry s d ∧
      q = bf (pw c 0) 2 0 ∧
      q ≠ 0 ∧
      (pw c 0).testBit 8 = true) :=
  ⟨⟨0, _, _, _, _, _, _, (mb 0x0301 [0, 256, 256] { D with ten := [(resRange 0, .h0)], nv := { ranges := [(0, {  })] } }),
     ⟨by decide, by decide, by decide, by decide, by decide, Or.inl (by decide)⟩,
     rfl,
     rfl,
     rfl,
     rfl,
     by decide,
     by decide,
     by decide,
     rfl,
     rfl,
     by decide,
     by decide,
     by decide,
     by decide⟩,
   ⟨0, _, _, mb 0x0301 [0] D,
     ⟨by decide, by decide, by decide, by decide, by decide, Or.inl (by decide)⟩,
     rfl,
     rfl,
     by decide⟩,
   ⟨0, _, _, (mb 0x0301 [0] { D with ten := [(resRange 0, .h0)], nv := { ranges := [(0, { perm := true })] } }),
     ⟨by decide, by decide, by decide, by decide, by decide, Or.inl (by decide)⟩,
     rfl,
     rfl,
     by decide,
     by decide⟩,
   ⟨0, _, _, Crypto.sha384 (List.replicate 16 0), _, _, (mb 0x0302 [0] { D with nv := { ranges := [(0, { pw := some (Crypto.sha384 (List.replicate 16 0)) })] } }),
     ⟨by decide, by decide, by decide, by decide, by decide, Or.inl (by decide)⟩,
     rfl,
     rfl,
     rfl,
     rfl,
     by decide,
     rfl,
     congrArg Crypto.sha384 (by decide)⟩,
   ⟨0, _, _, ~~~ Crypto.sha384 (List.replicate 16 0), _, _, (mb 0x0302 [0] { D with nv := { ranges := [(0, { pw := some (~~~ Crypto.sha384 (List.replicate 16 0)) })] } }),
     ⟨by decide, by decide, by decide, by decide, by decide, Or.inl (by decide)⟩,
     rfl,
     rfl,
     rfl,
     rfl,
     by decide,
     rfl,
     ne_not _⟩,
   ⟨0, _, _, (mb 0x0302 [0] { D with nv := { ranges := [(0, { lock := true })] } }),
     ⟨by decide, by decide, by decide, by decide, by decide, Or.inl (by decide)⟩,
     rfl,
     rfl,
     by decide⟩,
   ⟨0, _, _, Crypto.sha384 (List.replicate 16 0), _, _, (mb 0x0303 [0] { D with ten := [(resRange 0, .h0)], nv := { ranges := [(0, { pw := some (Crypto.sha384 (List.replicate 16 0)) })] } }),
     ⟨by decide, by decide, by decide, by decide, by decide, Or.inl (by decide)⟩,
     rfl,
     rfl,
     rfl,
     rfl,
     by decide,
     by decide,
     rfl,
     congrArg Crypto.sha384 (by decide)⟩,
   ⟨0, _, _, mb 0x0304 [0] D,
     ⟨by decide, by decide, by decide, by decide, by decide, Or.inl (by decide)⟩,
     rfl,
     rfl,
     by decide,
     by decide +kernel⟩,
   ⟨0, _, _, mb 0x0304 [1] D,
     ⟨by decide, by decide, by decide, by decide, by decide, Or.inl (by decide)⟩,
     rfl,
     rfl,
     by decide,
     by decide⟩,
   ⟨0, _, _, _, mb 0x0305 [0x101] { D with ten := [(0, .h0)] },
     ⟨by decide, by decide, by decide, by decide, by decide, Or.inl (by decide)⟩,
     rfl,
     rfl,
     rfl,
     by decide,
     by decide⟩⟩

set_option maxRecDepth 100000 in
/-- States and operands that meet the hypotheses of each clause of PowerControl. -/
theorem reach_PowerControl :
    (∃ (ms : List Int) (r : Nat) (w : State) (s : State) (m : Int),
      mcRuns s = true ∧
      s.boot.done = true ∧
      s.mc.avsStop = false ∧
      s.mc.avsAt + 10000000 ≤ s.uptime ∧
      vccintRail s = some r ∧
      w = { s.start with mc := { s.start.mc with avsAt := s.uptime } } ∧
      s.pol 5 ≠ 0 ∧
      leastMargin ms = some m ∧
      m < 40 ∧
      s.mc.vccint < 850) ∧
    (∃ (ms : List Int) (r : Nat) (w : State) (s : State) (m : Int),
      mcRuns s = true ∧
      s.boot.done = true ∧
      s.mc.avsStop = false ∧
      s.mc.avsAt + 10000000 ≤ s.uptime ∧
      vccintRail s = some r ∧
      w = { s.start with mc := { s.start.mc with avsAt := s.uptime } } ∧
      s.pol 5 ≠ 0 ∧
      leastMargin ms = some m ∧
      40 ≤ m ∧
      m ≤ 80) ∧
    (∃ (ms : List Int) (r : Nat) (w : State) (s : State) (m : Int),
      mcRuns s = true ∧
      s.boot.done = true ∧
      s.mc.avsStop = false ∧
      s.mc.avsAt + 10000000 ≤ s.uptime ∧
      vccintRail s = some r ∧
      w = { s.start with mc := { s.start.mc with avsAt := s.uptime } } ∧
      s.pol 5 ≠ 0 ∧
      leastMargin ms = some m ∧
      80 < m ∧
      s.mc.avsHigh < 9) ∧
    (∃ (ms : List Int) (r : Nat) (w : State) (s : State) (m : Int),
      mcRuns s = true ∧
      s.boot.done = true ∧
      s.mc.avsStop = false ∧
      s.mc.avsAt + 10000000 ≤ s.uptime ∧
      vccintRail s = some r ∧
      w = { s.start with mc := { s.start.mc with avsAt := s.uptime } } ∧
      s.pol 5 ≠ 0 ∧
      leastMargin ms = some m ∧
      80 < m ∧
      9 ≤ s.mc.avsHigh ∧
      700 < s.mc.vccint) ∧
    (∃ (ms : List Int) (r : Nat) (w : State) (s : State),
      mcRuns s = true ∧
      s.boot.done = true ∧
      s.mc.avsStop = false ∧
      s.mc.avsAt + 10000000 ≤ s.uptime ∧
      vccintRail s = some r ∧
      w = { s.start with mc := { s.start.mc with avsAt := s.uptime } } ∧
      s.pol 5 = 0 ∧
      s.mc.vccint ≠ 750 ∧
      (s.railOf r).cmdAt = none) ∧
    (∃ (ms : List Int) (r : Nat) (w : State) (s : State),
      mcRuns s = true ∧
      s.boot.done = true ∧
      s.mc.avsStop = false ∧
      s.mc.avsAt + 10000000 ≤ s.uptime ∧
      vccintRail s = some r ∧
      w = { s.start with mc := { s.start.mc with avsAt := s.uptime } } ∧
      s.pol 5 = 0 ∧
      s.mc.vccint = 750) ∧
    (∃ (ms : List Int) (s : State),
      s.uptime < s.mc.avsAt + 10000000) ∧
    (∃ (r : Nat) (s : State),
      vccintRail s = some r ∧
      mcRuns s = true ∧
      s.mc.margin < 40 ∧
      s.mc.vccint = 850 ∧
      ((s.mc.marginAt = none ∨ ∃ t, s.mc.marginAt = some t ∧ t + 3600000000000 ≤ s.uptime))) ∧
    (∃ (r : Nat) (s : State) (t : Nat),
      vccintRail s = some r ∧
      s.mc.margin < 40 ∧
      s.mc.vccint = 850 ∧
      s.mc.marginAt = some t ∧
      s.uptime < t + 3600000000000) ∧
    (∃ (r : Nat) (s : State),
      vccintRail s = some r ∧
      (40 ≤ s.mc.margin ∨ s.mc.vccint ≠ 850)) ∧
    (∃ (s : State),
      mcRuns s = true ∧
      s.boot.done = true ∧
      s.pol 6 = 1 ∧
      s.mc.idleAt + 1000000 ≤ s.uptime) ∧
    (∃ (s : State),
      (s.uptime < s.mc.idleAt + 1000000 ∨ s.pol 6 ≠ 1)) ∧
    (∃ (b : Nat) (s : State),
      SMap.get dNat s.noc.busyAt b + 1000000 * s.pol 0x0B ≤ s.uptime ∧
      (SMap.get (fun _ => (0, 0)) s.mc.idleTry b).2 ≤ s.uptime ∧
      (s.pol 0x0A).testBit b = true ∧
      (s.bandOf b).state = .on ∧
      inTransition (s.bandOf b) = false ∧
      s.pwr.dev = none) ∧
    (∃ (b : Nat) (s : State),
      (s.uptime < SMap.get dNat s.noc.busyAt b + 1000000 * s.pol 0x0B ∨ (s.pol 0x0A).testBit b = false ∨ s.uptime < (SMap.get (fun _ => (0, 0)) s.mc.idleTry b).2)) ∧
    (∃ (d : Nat) (b : Nat) (t : Nat) (c : RunCmd) (u : State) (s : State),
      served s d 0x0601 .owner ∧
      u = servedState s d ∧
      c = frontEntry s d ∧
      b = bf (pw c 0) 3 0 ∧
      t = bf (pw c 0) 7 4 ∧
      mayCommand u c b = false) ∧
    (∃ (d : Nat) (b : Nat) (t : Nat) (c : RunCmd) (u : State) (s : State),
      served s d 0x0601 .owner ∧
      u = servedState s d ∧
      c = frontEntry s d ∧
      b = bf (pw c 0) 3 0 ∧
      t = bf (pw c 0) 7 4 ∧
      mayCommand u c b = true ∧
      b ≠ 15 ∧
      t ≤ 3 ∧
      (inTransition (u.bandOf b) = true ∨ u.pwr.dev ≠ none)) ∧
    (∃ (d : Nat) (b : Nat) (t : Nat) (c : RunCmd) (u : State) (s : State),
      served s d 0x0601 .owner ∧
      u = servedState s d ∧
      c = frontEntry s d ∧
      b = bf (pw c 0) 3 0 ∧
      t = bf (pw c 0) 7 4 ∧
      mayCommand u c b = true ∧
      b ≠ 15 ∧
      1 ≤ t ∧
      t ≤ 3 ∧
      inTransition (u.bandOf b) = false ∧
      u.pwr.dev = none ∧
      (u.bandOf b).state = .on) ∧
    (∃ (d : Nat) (b : Nat) (t : Nat) (c : RunCmd) (u : State) (s : State),
      served s d 0x0601 .owner ∧
      u = servedState s d ∧
      c = frontEntry s d ∧
      b = bf (pw c 0) 3 0 ∧
      t = bf (pw c 0) 7 4 ∧
      mayCommand u c b = true ∧
      b ≠ 15 ∧
      1 ≤ t ∧
      t ≤ 3 ∧
      inTransition (u.bandOf b) = false ∧
      u.pwr.dev = none ∧
      (u.bandOf b).state ≠ .on) ∧
    (∃ (d : Nat) (b : Nat) (t : Nat) (c : RunCmd) (u : State) (s : State),
      served s d 0x0601 .owner ∧
      u = servedState s d ∧
      c = frontEntry s d ∧
      b = bf (pw c 0) 3 0 ∧
      t = bf (pw c 0) 7 4 ∧
      mayCommand u c b = true ∧
      b ≠ 15 ∧
      t = 0 ∧
      inTransition (u.bandOf b) = false ∧
      u.pwr.dev = none ∧
      (u.bandOf b).state ≠ .on) ∧
    (∃ (d : Nat) (b : Nat) (t : Nat) (c : RunCmd) (u : State) (s : State),
      served s d 0x0601 .owner ∧
      u = servedState s d ∧
      c = frontEntry s d ∧
      b = bf (pw c 0) 3 0 ∧
      t = bf (pw c 0) 7 4 ∧
      mayCommand u c b = true ∧
      b = 15 ∧
      1 ≤ t ∧
      t ≤ 2 ∧
      u.pwr.dev = none ∧
      u.pwr.bands.any (fun e => inTransition e.2) = false ∧
      u.pwr.recSet = true) ∧
    (∃ (d : Nat) (x : List Byte × List Clamp) (c : RunCmd) (u : State) (s : State),
      served s d 0x0602 .lead ∧
      u = servedState s d ∧
      c = frontEntry s d ∧
      bufOk (pw c 0) (pw c 1) = true ∧
      pw c 1 = 152 ∧
      x = recClamped (readBuf u c (pw c 0) 152) ∧
      recBad x.1 = false) ∧
    (∃ (d : Nat) (x : List Byte × List Clamp) (c : RunCmd) (u : State) (s : State),
      served s d 0x0602 .lead ∧
      u = servedState s d ∧
      c = frontEntry s d ∧
      bufOk (pw c 0) (pw c 1) = true ∧
      pw c 1 = 152 ∧
      x = recClamped (readBuf u c (pw c 0) 152) ∧
      recBad x.1 = true) ∧
    (∀ (h : bufOk 0x2000 (Config.accounting 0 (List.replicate 6 0) 0 0).length = true), ∃ (d : Nat) (r : List Byte) (c : RunCmd) (u : State) (s : State),
      served s d 0x0603 .any ∧
      u = servedState s d ∧
      c = frontEntry s d ∧
      r = Config.accounting u.pwr.refTotal ((List.range 6).map (SMap.get dNat u.pwr.refCnt)) u.pwr.lastRef.toNat u.pwr.delays ∧
      bufOk (pw c 0) r.length = true) :=
  ⟨⟨[39], 0, _, { { D with pwr := { recSet := true, rails := [(0, { cfg := [16, 1] })] }, mc := { pol := [(5, 1)], polSet := [5] } } with uptime := 20000000 }, 39,
     by decide,
     by decide,
     by decide,
     by decide,
     by decide,
     rfl,
     by decide,
     by decide,
     by decide,
     by decide⟩,
   ⟨[80], 0, _, { { D with pwr := { recSet := true, rails := [(0, { cfg := [16, 1] })] }, mc := { pol := [(5, 1)], polSet := [5] } } with uptime := 20000000 }, 80,
     by decide,
     by decide,
     by decide,
     by decide,
     by decide,
     rfl,
     by decide,
     by decide,
     by decide,
     by decide⟩,
   ⟨[81], 0, _, { { D with pwr := { recSet := true, rails := [(0, { cfg := [16, 1] })] }, mc := { pol := [(5, 1)], polSet := [5] } } with uptime := 20000000 }, 81,
     by decide,
     by decide,
     by decide,
     by decide,
     by decide,
     rfl,
     by decide,
     by decide,
     by decide,
     by decide⟩,
   ⟨[81], 0, _, { { D with pwr := { recSet := true, rails := [(0, { cfg := [16, 1] })] }, mc := { pol := [(5, 1)], polSet := [5], avsHigh := 9 } } with uptime := 20000000 }, 81,
     by decide,
     by decide,
     by decide,
     by decide,
     by decide,
     rfl,
     by decide,
     by decide,
     by decide,
     by decide,
     by decide⟩,
   ⟨default, 0, _, { { D with pwr := { recSet := true, rails := [(0, { cfg := [16, 1] })] }, mc := { pol := [(5, 0)], polSet := [5], vccint := 850 } } with uptime := 20000000 },
     by decide,
     by decide,
     by decide,
     by decide,
     by decide,
     rfl,
     by decide,
     by decide,
     by decide⟩,
   ⟨[], 0, _, { { D with pwr := { recSet := true, rails := [(0, { cfg := [16, 1] })] }, mc := { pol := [(5, 0)], polSet := [5] } } with uptime := 20000000 },
     by decide,
     by decide,
     by decide,
     by decide,
     by decide,
     rfl,
     by decide,
     by decide⟩,
   ⟨[], D,
     by decide⟩,
   ⟨0, { D with pwr := { recSet := true, rails := [(0, { cfg := [16, 1] })] }, mc := { vccint := 850 } },
     by decide,
     by decide,
     by decide,
     by decide,
     Or.inl rfl⟩,
   ⟨0, { D with pwr := { recSet := true, rails := [(0, { cfg := [16, 1] })] }, mc := { vccint := 850, marginAt := some 0 } }, 0,
     by decide,
     by decide,
     by decide,
     by decide,
     by decide⟩,
   ⟨0, { D with pwr := { recSet := true, rails := [(0, { cfg := [16, 1] })] }, mc := {  } },
     by decide,
     Or.inr (by decide)⟩,
   ⟨{ { D with pwr := {  }, mc := { pol := [(6, 1)], polSet := [6] } } with uptime := 20000000 },
     by decide,
     by decide,
     by decide,
     by decide⟩,
   ⟨D,
     Or.inl (by decide)⟩,
   ⟨0, { { D with pwr := {  }, mc := { pol := [(0x0A, 1)], polSet := [0x0A] } } with uptime := 1000000000000000 },
     by decide,
     by decide,
     by decide,
     by decide,
     by decide,
     by decide⟩,
   ⟨0, D,
     Or.inr (Or.inl (by decide))⟩,
   ⟨0, _, _, _, _, (mb 0x0601 [0] { D with pwr := {  }, mc := {  } }),
     ⟨by decide, by decide, by decide, by decide, by decide, Or.inl (by decide)⟩,
     rfl,
     rfl,
     rfl,
     rfl,
     by decide⟩,
   ⟨0, _, _, _, _, (mb 0x0601 [0x10] { D with ten := [(0, .h0)], pwr := { bands := [(0, { waking := true })] }, mc := {  } }),
     ⟨by decide, by decide, by decide, by decide, by decide, Or.inl (by decide)⟩,
     rfl,
     rfl,
     rfl,
     rfl,
     by decide,
     by decide,
     by decide,
     Or.inl (by decide)⟩,
   ⟨0, _, _, _, _, (mb 0x0601 [0x10] { D with ten := [(0, .h0)], pwr := {  }, mc := {  } }),
     ⟨by decide, by decide, by decide, by decide, by decide, Or.inl (by decide)⟩,
     rfl,
     rfl,
     rfl,
     rfl,
     by decide,
     by decide,
     by decide,
     by decide,
     by decide,
     by decide,
     by decide⟩,
   ⟨0, _, _, _, _, (mb 0x0601 [0x10] { D with ten := [(0, .h0)], pwr := { bands := [(0, { state := .nap })] }, mc := {  } }),
     ⟨by decide, by decide, by decide, by decide, by decide, Or.inl (by decide)⟩,
     rfl,
     rfl,
     rfl,
     rfl,
     by decide,
     by decide,
     by decide,
     by decide,
     by decide,
     by decide,
     by decide⟩,
   ⟨0, _, _, _, _, (mb 0x0601 [0] { D with ten := [(0, .h0)], pwr := { bands := [(0, { state := .nap })] }, mc := {  } }),
     ⟨by decide, by decide, by decide, by decide, by decide, Or.inl (by decide)⟩,
     rfl,
     rfl,
     rfl,
     rfl,
     by decide,
     by decide,
     by decide,
     by decide,
     by decide,
     by decide⟩,
   ⟨0, _, _, _, _, (mb 0x0601 [0x1F] { D with ten := [(0, .h0)], pwr := { recSet := true }, mc := {  } }),
     ⟨by decide, by decide, by decide, by decide, by decide, Or.inl (by decide)⟩,
     rfl,
     rfl,
     rfl,
     rfl,
     by decide,
     by decide,
     by decide,
     by decide,
     by decide,
     by decide,
     by decide⟩,
   ⟨0, _, _, _, (mbB 0x0602 [0x2000, 152] 0x2000 (List.replicate 8 0 ++ [16, 1, 0, 0, 250] ++ List.replicate 63 0 ++ [0xFF, 0xFF]) { D with ten := [(0, .h0)] }),
     ⟨by decide, by decide, by decide, by decide, by decide, Or.inl (by decide)⟩,
     rfl,
     rfl,
     by decide,
     by decide,
     rfl,
     by decide +kernel⟩,
   ⟨0, _, _, _, (mbB 0x0602 [0x2000, 152] 0x2000 ([0]) { D with ten := [(0, .h0)] }),
     ⟨by decide, by decide, by decide, by decide, by decide, Or.inl (by decide)⟩,
     rfl,
     rfl,
     by decide,
     by decide,
     rfl,
     by decide +kernel⟩,
   fun h => ⟨0, _, _, _, mb 0x0603 [0x2000] D,
     ⟨by decide, by decide, by decide, by decide, by decide, Or.inl (by decide)⟩,
     rfl,
     rfl,
     rfl,
     h⟩⟩

set_option maxRecDepth 100000 in
/-- States and operands that meet the hypotheses of each clause of BandPower. -/
theorem reach_BandPower :
    (∃ (b : Nat) (v : Nat) (r : Nat) (e : Entry) (s : State),
      entryOf s.start b = some e ∧
      e.undec.contains v = true ∧
      voteHolds s.start b e v (.refuse r) = true) ∧
    (∃ (b : Nat) (v : Nat) (e : Entry) (s : State),
      entryOf s.start b = some e ∧
      e.undec.contains v = true ∧
      voteHolds s.start b e v .delay = true) ∧
    (∃ (b : Nat) (v : Nat) (e : Entry) (f : Entry) (s : State),
      entryOf s.start b = some e ∧
      e.undec.contains v = true ∧
      voteHolds s.start b e v .accept = true ∧
      f = { e with undec := e.undec.erase v } ∧
      f.undec ≠ []) ∧
    (∃ (b : Nat) (v : Nat) (e : Entry) (f : Entry) (s : State),
      entryOf s.start b = some e ∧
      e.undec.contains v = true ∧
      voteHolds s.start b e v .accept = true ∧
      f = { e with undec := e.undec.erase v } ∧
      f.undec = [] ∧
      b ≠ devEntry) ∧
    (∃ (b : Nat) (v : Nat) (e : Entry) (f : Entry) (s : State),
      entryOf s.start b = some e ∧
      e.undec.contains v = true ∧
      voteHolds s.start b e v .accept = true ∧
      f = { e with undec := e.undec.erase v } ∧
      f.undec = [] ∧
      b = devEntry) ∧
    (∃ (b : Nat) (e : Entry) (w : Nat × Nat) (s : State),
      entryOf s.start b = some e ∧
      lateVoter e.undec = some w ∧
      e.t + 1000000 ≤ s.uptime) ∧
    (∃ (b : Nat) (e : Entry) (w : Nat × Nat) (s : State),
      entryOf s.start b = some e ∧
      lateVoter e.undec = some w ∧
      s.uptime < e.t + 1000000) ∧
    (∃ (b : Nat) (k : Nat) (due : Nat) (e : Entry) (s : State) (wait : Bool),
      k = portEntry s.start b ∧
      entryOf s.start k = some e ∧
      portOpen e b = true ∧
      due = (e.sampled.find? fun x => x.1 == b).elim (e.t + 2000) (fun x => x.2 + 1000) ∧
      due ≤ s.uptime) ∧
    (∃ (b : Nat) (k : Nat) (due : Nat) (e : Entry) (s : State),
      k = portEntry s.start b ∧
      entryOf s.start k = some e ∧
      portOpen e b = true ∧
      due = (e.sampled.find? fun x => x.1 == b).elim (e.t + 2000) (fun x => x.2 + 1000) ∧
      due ≤ s.uptime) ∧
    (∃ (b : Nat) (k : Nat) (due : Nat) (e : Entry) (s : State) (stay : Bool) (wait : Bool),
      k = portEntry s.start b ∧
      entryOf s.start k = some e ∧
      portOpen e b = true ∧
      due = (e.sampled.find? fun x => x.1 == b).elim (e.t + 2000) (fun x => x.2 + 1000) ∧
      s.uptime < due) ∧
    (∃ (b : Nat) (k : Nat) (e : Entry) (f : Entry) (s : State),
      k = portEntry s.start b ∧
      entryOf s.start k = some e ∧
      portOpen e b = true ∧
      (e.sampled.find? fun x => x.1 == b).elim (e.t + 2000) (fun x => x.2 + 1000) ≤ s.uptime ∧
      f = { e with ports := e.ports.erase b } ∧
      f.ports ≠ []) ∧
    (∃ (b : Nat) (k : Nat) (e : Entry) (f : Entry) (s : State),
      k = portEntry s.start b ∧
      entryOf s.start k = some e ∧
      portOpen e b = true ∧
      (e.sampled.find? fun x => x.1 == b).elim (e.t + 2000) (fun x => x.2 + 1000) ≤ s.uptime ∧
      f = { e with ports := e.ports.erase b } ∧
      f.ports = []) ∧
    (∃ (b : Nat) (k : Nat) (e : Entry) (s : State),
      k = portEntry s.start b ∧
      entryOf s.start k = some e ∧
      portOpen e b = false ∧
      portAwake s.start b = true) ∧
    (∃ (b : Nat) (g : BandP) (s : State),
      b < 16 ∧
      (parkedWake s.start b = true ∨ pulseHeld s.start b = true) ∧
      g = s.bandOf b ∧
      g.state = .doze) ∧
    (∃ (b : Nat) (g : BandP) (s : State),
      b < 16 ∧
      (parkedWake s.start b = true ∨ pulseHeld s.start b = true) ∧
      g = s.bandOf b ∧
      (g.state = .nap ∨ g.state = .off) ∧
      g.waking = false ∧
      g.held = false) ∧
    (∃ (b : Nat) (g : BandP) (s : State),
      g = s.bandOf b ∧
      g.waking = true ∧
      g.good = false ∧
      g.state = .nap) ∧
    (∃ (b : Nat) (g : BandP) (s : State),
      g = s.bandOf b ∧
      g.waking = true ∧
      g.good = false ∧
      g.state = .off) ∧
    (∃ (b : Nat) (i : Nat) (r : Status) (g : BandP) (u : Status × State) (s : State),
      g = s.bandOf b ∧
      g.good = true ∧
      g.state = .off ∧
      u = offReload s.start b r i ∧
      u.1 = .ok) ∧
    (∃ (b : Nat) (i : Nat) (r : Status) (g : BandP) (u : Status × State) (s : State),
      g = s.bandOf b ∧
      g.good = true ∧
      g.state = .off ∧
      u = offReload s.start b r i ∧
      u.1 ≠ .ok) ∧
    (∃ (u : State) (s : State),
      u = rtcCount s.start ∧
      s.pwr.dev = none) ∧
    (∃ (u : State) (s : State) (e : Entry),
      u = rtcCount s.start ∧
      s.pwr.dev = some e ∧
      e.past = false) ∧
    (∃ (u : State) (s : State) (e : Entry),
      u = rtcCount s.start ∧
      s.pwr.dev = some e ∧
      e.past = true ∧
      (List.range 16).any (packetsFor u) = false) ∧
    (∃ (n : Nat) (w : Bool) (s : State),
      n ≤ 7 ∧
      (wakeCfg s).testBit n = true ∧
      (w && !(wakeCfg s).testBit (16 + n)) = false) ∧
    (∃ (n : Nat) (w : Bool) (s : State),
      (wakeCfg s).testBit 28 = true ∧
      recWord s.pwr.record 0x94 ≤ rtcSec s) ∧
    (∃ (n : Nat) (s : State),
      n ≤ 3 ∧
      (wakeCfg s).testBit (24 + n) = true) ∧
    (∃ (cause : Nat) (n : Nat) (mon : Nat) (u : State),
      u.pwr.latched = none ∧
      asleep u = true) ∧
    (∃ (x : BitVec 128) (cs : List (Nat × Nat)) (s : State),
      s.pwr.armed = true ∧
      s.boot.phase = .sentry ∧
      s.pwr.latched = none ∧
      s.pwr.sampleAt + recWord s.pwr.record 0x48 ≤ s.pwr.rtc ∧
      sentryMon s.pwr.record cs = none ∧
      ((x ^^^ BitVec.ofNat 128 (leAt s.pwr.record 0x50 16)) &&& sentryCare s.pwr.record) = 0) ∧
    (∃ (x : BitVec 128) (cs : List (Nat × Nat)) (s : State),
      s.pwr.armed = true ∧
      s.boot.phase = .sentry ∧
      s.pwr.latched = none ∧
      s.pwr.sampleAt + recWord s.pwr.record 0x48 ≤ s.pwr.rtc ∧
      sentryMon s.pwr.record cs = none ∧
      ((x ^^^ BitVec.ofNat 128 (leAt s.pwr.record 0x50 16)) &&& sentryCare s.pwr.record) ≠ 0 ∧
      bf (recWord s.pwr.record 0x4C) 23 16 ≤ s.pwr.mism + 1) ∧
    (∃ (x : BitVec 128) (cs : List (Nat × Nat)) (s : State),
      s.pwr.rtc < s.pwr.sampleAt + recWord s.pwr.record 0x48) ∧
    (∃ (rail : Nat) (s : State) (t : Nat),
      asleep s = true ∧
      s.pwr.latched.isSome = true ∧
      s.pwr.opAt = some t ∧
      t + 100000000 ≤ s.uptime) ∧
    (∃ (rail : Nat) (s : State),
      asleep s = true ∧
      s.pwr.latched.isSome = true ∧
      s.pwr.opAt = none ∧
      s.pwr.offAt + 1000000000 ≤ s.uptime) ∧
    (∃ (rail : Nat) (s : State),
      asleep s = true ∧
      s.pwr.latched.isSome = true ∧
      ((∃ t, s.pwr.opAt = some t ∧ s.uptime < t + 100000000) ∨ (s.pwr.opAt = none ∧ s.uptime < s.pwr.offAt + 1000000000))) :=
  ⟨⟨16, 2, 6, { target := 8, undec := [2] }, { D with nv := { banks := [(0, { busy := .copy })] }, pwr := { dev := some { target := 8, undec := [2] } } },
     by decide,
     by decide,
     by decide⟩,
   ⟨16, 2, { target := 8, undec := [2] }, { D with nv := { banks := [(0, { busy := .copy })] }, pwr := { dev := some { target := 8, undec := [2] } } },
     by decide,
     by decide,
     by decide⟩,
   ⟨0, 2, { target := 1, undec := [2, 3] }, _, { D with pwr := { bands := [(0, { entry := some { target := 1, undec := [2, 3] } })] } },
     by decide,
     by decide,
     by decide,
     rfl,
     by decide⟩,
   ⟨0, 2, { target := 1, undec := [2] }, _, { D with pwr := { bands := [(0, { entry := some { target := 1, undec := [2] } })] } },
     by decide,
     by decide,
     by decide,
     rfl,
     by decide,
     by decide⟩,
   ⟨16, 2, { target := 8, undec := [2] }, _, { D with pwr := { dev := some { target := 8, undec := [2] } } },
     by decide,
     by decide,
     by decide,
     rfl,
     by decide,
     by decide⟩,
   ⟨0, { target := 1, undec := [2] }, (2, 6), { { D with pwr := { bands := [(0, { entry := some { target := 1, undec := [2] } })] } } with uptime := 20000000 },
     by decide,
     by decide,
     by decide⟩,
   ⟨0, { target := 1, undec := [2] }, (2, 6), { D with pwr := { bands := [(0, { entry := some { target := 1, undec := [2] } })] } },
     by decide,
     by decide,
     by decide⟩,
   ⟨0, _, _, { target := 1, undec := [0x12], ports := [0] }, { { D with pwr := { bands := [(0, { entry := some { target := 1, undec := [0x12], ports := [0] } })] } } with uptime := 10000 }, default,
     rfl,
     by decide,
     by decide,
     rfl,
     by decide⟩,
   ⟨0, _, _, { target := 1, undec := [0x12], ports := [0] }, { { D with pwr := { bands := [(0, { entry := some { target := 1, undec := [0x12], ports := [0] } })] } } with uptime := 10000 },
     rfl,
     by decide,
     by decide,
     rfl,
     by decide⟩,
   ⟨0, _, _, { target := 1, undec := [0x12], ports := [0] }, { D with pwr := { bands := [(0, { entry := some { target := 1, undec := [0x12], ports := [0] } })] } }, default, default,
     rfl,
     by decide,
     by decide,
     rfl,
     by decide⟩,
   ⟨0, _, { target := 8, undec := [0x12], ports := [0, 1] }, _, { { D with pwr := { dev := some { target := 8, undec := [0x12], ports := [0, 1] } } } with uptime := 10000 },
     rfl,
     by decide,
     by decide,
     by decide,
     rfl,
     by decide⟩,
   ⟨0, _, { target := 1, undec := [0x12], ports := [0] }, _, { { D with pwr := { bands := [(0, { entry := some { target := 1, undec := [0x12], ports := [0] } })] } } with uptime := 10000 },
     rfl,
     by decide,
     by decide,
     by decide,
     rfl,
     by decide⟩,
   ⟨0, _, { target := 1, undec := [2] }, { D with pwr := { bands := [(0, { entry := some { target := 1, undec := [2] } })] } },
     rfl,
     by decide,
     by decide,
     by decide⟩,
   ⟨0, _, { D with noc := { parked := [(0, [pk])] }, pwr := { bands := [(0, { state := .doze })] } },
     by decide,
     Or.inl (by decide),
     rfl,
     by decide⟩,
   ⟨0, _, { D with noc := { parked := [(0, [pk])] }, pwr := { bands := [(0, { state := .nap })] } },
     by decide,
     Or.inl (by decide),
     rfl,
     Or.inl (by decide),
     by decide,
     by decide⟩,
   ⟨0, _, { D with pwr := { bands := [(0, { state := .nap, waking := true })] } },
     rfl,
     by decide,
     by decide,
     by decide⟩,
   ⟨0, _, { D with pwr := { bands := [(0, { state := .off, waking := true })] } },
     rfl,
     by decide,
     by decide,
     by decide⟩,
   ⟨0, 0, .ok, _, _, { D with pwr := { bands := [(0, { state := .off, good := true })] } },
     rfl,
     by decide,
     by decide,
     rfl,
     by decide +kernel⟩,
   ⟨0, 0, .timeout, _, _, { D with pwr := { bands := [(0, { state := .off, good := true })] } },
     rfl,
     by decide,
     by decide,
     rfl,
     by decide +kernel⟩,
   ⟨_, D,
     rfl,
     by decide⟩,
   ⟨_, { D with pwr := { dev := some { target := 8, undec := [] } } }, { target := 8, undec := [] },
     rfl,
     by decide,
     by decide⟩,
   ⟨_, { D with pwr := { dev := some { target := 8, undec := [], past := true } } }, { target := 8, undec := [], past := true },
     rfl,
     by decide,
     by decide,
     by decide⟩,
   ⟨0, false, { D with pwr := { record := List.replicate 0x90 0 ++ [1] } },
     by decide +kernel,
     by decide +kernel,
     by decide +kernel⟩,
   ⟨0, false, { D with pwr := { record := List.replicate 0x90 0 ++ [0, 0, 0, 0x10] } },
     by decide +kernel,
     by decide +kernel⟩,
   ⟨0, { D with pwr := { record := List.replicate 0x90 0 ++ [0, 0, 0, 1] } },
     by decide +kernel,
     by decide +kernel⟩,
   ⟨0, 0, 0, { D with boot := { phase := .sentry } },
     by decide,
     by decide⟩,
   ⟨0, [], { D with boot := { phase := .sentry }, pwr := { armed := true, mism := 0 } },
     by decide +kernel,
     by decide +kernel,
     by decide +kernel,
     by decide +kernel,
     by decide +kernel,
     by decide +kernel⟩,
   ⟨1, [], { D with boot := { phase := .sentry }, pwr := { armed := true, record := List.replicate 0x60 0 ++ [1] } },
     by decide +kernel,
     by decide +kernel,
     by decide +kernel,
     by decide +kernel,
     by decide +kernel,
     by decide +kernel,
     by decide +kernel⟩,
   ⟨0, [], { D with pwr := { record := List.replicate 0x48 0 ++ [33] } },
     by decide +kernel⟩,
   ⟨0, { D with uptime := 200000000, boot := { phase := .sentry }, pwr := { latched := some (0, 0), opAt := some 0 } }, 0,
     by decide,
     by decide,
     by decide,
     by decide⟩,
   ⟨0, { D with uptime := 2000000000, boot := { phase := .sentry }, pwr := { latched := some (0, 0), opAt := none } },
     by decide,
     by decide,
     by decide,
     by decide⟩,
   ⟨0, { D with uptime := 0, boot := { phase := .sentry }, pwr := { latched := some (0, 0), opAt := none } },
     by decide,
     by decide,
     Or.inr ⟨rfl, by decide⟩⟩⟩

/-- States and operands that meet the hypotheses of each clause of PowerUnits. -/
theorem reach_PowerUnits :
    (∃ (s : State),
      s.pwr.xclkAt + 64000 ≤ s.uptime) ∧
    (∃ (s : State),
      s.uptime < s.pwr.xclkAt + 64000) ∧
    (∃ (x : RailRead) (u : State) (s : State),
      u = { s.start with pwr := { s.start.pwr with pollAt := s.uptime } } ∧
      pmbRuns s = true ∧
      s.pwr.pollAt + 100000000 ≤ s.uptime ∧
      mapped s x.rail = true ∧
      (x.pecBad && railPec s x.rail) = false) ∧
    (∃ (x : RailRead) (u : State) (s : State),
      u = { s.start with pwr := { s.start.pwr with pollAt := s.uptime } } ∧
      pmbRuns s = true ∧
      s.pwr.pollAt + 100000000 ≤ s.uptime ∧
      mapped s x.rail = true ∧
      (x.pecBad && railPec s x.rail) = true) ∧
    (∃ (x : RailRead) (u : State) (s : State),
      u = { s.start with pwr := { s.start.pwr with pollAt := s.uptime } } ∧
      pmbRuns s = true ∧
      s.pwr.pollAt + 100000000 ≤ s.uptime ∧
      mapped s x.rail = false) ∧
    (∃ (xs : List RailRead) (s : State),
      s.uptime < s.pwr.pollAt + 100000000) ∧
    (∃ (rail : Nat) (mv : Nat) (pb : Bool) (g : Rail) (u : State) (s : State),
      g = s.railOf rail ∧
      mapped s rail = true ∧
      g.cmdAt.isSome = true ∧
      pmbRuns s = true ∧
      g.xactAt + 100000 ≤ s.uptime ∧
      (pb && railPec s rail) = false ∧
      within1 mv g.vout = true ∧
      u = lastXact (s.start.setRail rail { g with rd := mv % 65536, cmdAt := none }) rail 0x8B .ok ∧
      railByte g.cfg 1 ≠ 1) ∧
    (∃ (rail : Nat) (mv : Nat) (pb : Bool) (g : Rail) (u : State) (s : State),
      g = s.railOf rail ∧
      mapped s rail = true ∧
      g.cmdAt.isSome = true ∧
      pmbRuns s = true ∧
      g.xactAt + 100000 ≤ s.uptime ∧
      (pb && railPec s rail) = false ∧
      within1 mv g.vout = true ∧
      u = lastXact (s.start.setRail rail { g with rd := mv % 65536, cmdAt := none }) rail 0x8B .ok ∧
      railByte g.cfg 1 = 1) ∧
    (∃ (rail : Nat) (mv : Nat) (pb : Bool) (g : Rail) (u : State) (s : State),
      g = s.railOf rail ∧
      mapped s rail = true ∧
      g.cmdAt.isSome = true ∧
      pmbRuns s = true ∧
      g.xactAt + 100000 ≤ s.uptime ∧
      (pb && railPec s rail) = false ∧
      within1 mv g.vout = false) ∧
    (∃ (rail : Nat) (mv : Nat) (pb : Bool) (g : Rail) (u : State) (s : State),
      g = s.railOf rail ∧
      mapped s rail = true ∧
      g.cmdAt.isSome = true ∧
      pmbRuns s = true ∧
      g.xactAt + 100000 ≤ s.uptime ∧
      (pb && railPec s rail) = true) ∧
    (∃ (rail : Nat) (mv : Nat) (pb : Bool) (s : State),
      s.uptime < (s.railOf rail).xactAt + 100000) ∧
    (∃ (rail : Nat) (t : Nat) (s : State),
      mapped s rail = true ∧
      pmbRuns s = true ∧
      (s.railOf rail).cmdAt = some t ∧
      t + 5000000 ≤ s.uptime) ∧
    (∃ (rail : Nat) (t : Nat) (s : State),
      mapped s rail = true ∧
      pmbRuns s = true ∧
      (s.railOf rail).cmdAt = some t ∧
      s.uptime < t + 5000000) ∧
    (∃ (rail : Nat) (u : State) (v : State) (s : State),
      mapped s rail = true ∧
      pmbRuns s = true ∧
      (s.railOf rail).cmdAt.isSome = true ∧
      (s.railOf rail).xactAt + 100000 ≤ s.uptime ∧
      u = { s.start with pwr := { s.start.pwr with nacks := sat 0xFFFF s.pwr.nacks } } ∧
      v = { s.start with pwr := { s.start.pwr with nacks := sat 0xFFFF (sat 0xFFFF s.pwr.nacks) } }) ∧
    (∃ (rail : Nat) (a : Bool) (s : State),
      s.uptime < (s.railOf rail).xactAt + 100000) ∧
    (∃ (ws : List Nat) (bad : List Nat) (s : State),
      pmbRuns s = true) ∧
    (∃ (acc : Accessor) (a : Nat) (v : Word) (s : State),
      a = wf (s.copy (acode acc) 0xD0010 0) 20 0 ∧
      kennelMine acc (a / 65536) = true) ∧
    (∃ (acc : Accessor) (a : Nat) (v : Word) (s : State),
      a = wf (s.copy (acode acc) 0xD0010 0) 20 0 ∧
      kennelMine acc (a / 65536) = false) :=
  ⟨⟨{ D with uptime := 100000 },
     by decide⟩,
   ⟨D,
     by decide⟩,
   ⟨⟨0, 0, 0, false⟩, _, { { D with pwr := { recSet := true, rails := [(0, { cfg := [16, 1], vout := 0 })] } } with uptime := 1000000000 },
     rfl,
     by decide,
     by decide,
     by decide,
     by decide⟩,
   ⟨⟨0, 0, 0, true⟩, _, { { D with pwr := { recSet := true, rails := [(0, { cfg := [16, 1, 0, 0, 0, 4], vout := 0 })] } } with uptime := 1000000000 },
     rfl,
     by decide,
     by decide,
     by decide,
     by decide⟩,
   ⟨⟨0, 0, 0, false⟩, _, { D with uptime := 1000000000 },
     rfl,
     by decide,
     by decide,
     by decide⟩,
   ⟨[], D,
     by decide⟩,
   ⟨0, 0, false, _, _, { { D with pwr := { recSet := true, rails := [(0, { cfg := [16, 2], cmdAt := some 0 })] } } with uptime := 1000000 },
     rfl,
     by decide,
     by decide,
     by decide,
     by decide,
     by decide,
     by decide,
     rfl,
     by decide⟩,
   ⟨0, 0, false, _, _, { { D with pwr := { recSet := true, rails := [(0, { cfg := [16, 1], cmdAt := some 0 })] } } with uptime := 1000000 },
     rfl,
     by decide,
     by decide,
     by decide,
     by decide,
     by decide,
     by decide,
     rfl,
     by decide⟩,
   ⟨0, 5, false, _, R, { { D with pwr := { recSet := true, rails := [(0, { cfg := [16, 1], cmdAt := some 0 })] } } with uptime := 1000000 },
     rfl,
     by decide,
     by decide,
     by decide,
     by decide,
     by decide,
     by decide⟩,
   ⟨0, 0, true, _, R, { { D with pwr := { recSet := true, rails := [(0, { cfg := [16, 1, 0, 0, 0, 4], cmdAt := some 0 })] } } with uptime := 1000000 },
     rfl,
     by decide,
     by decide,
     by decide,
     by decide,
     by decide⟩,
   ⟨0, 0, false, D,
     by decide⟩,
   ⟨0, 0, { { D with pwr := { recSet := true, rails := [(0, { cfg := [16, 1], cmdAt := some 0 })] } } with uptime := 10000000 },
     by decide,
     by decide,
     by decide,
     by decide⟩,
   ⟨0, 0, { D with pwr := { recSet := true, rails := [(0, { cfg := [16, 1], cmdAt := some 0 })] } },
     by decide,
     by decide,
     by decide,
     by decide⟩,
   ⟨0, _, _, { { D with pwr := { recSet := true, rails := [(0, { cfg := [16, 1], cmdAt := some 0 })] } } with uptime := 1000000 },
     by decide,
     by decide,
     by decide,
     by decide,
     rfl,
     rfl⟩,
   ⟨0, false, D,
     by decide⟩,
   ⟨[], [], D,
     by decide⟩,
   ⟨.dom .mc, _, 0, R,
     rfl,
     by decide⟩,
   ⟨M, _, 0, R,
     rfl,
     by decide⟩⟩

/-- States and operands that meet the hypotheses of each clause of SelfTest. -/
theorem reach_SelfTest :
    (∃ (d : Nat) (k : Nat) (test : Nat) (target : Nat) (per : Nat) (b : Nat × List Clamp) (e : BstEntry) (c : RunCmd) (u : State) (s : State),
      served s d 0x0801 .owner ∧
      u = servedState s d ∧
      c = frontEntry s d ∧
      k = bf (pw c 0) 5 0 ∧
      test = pw c 1 ∧
      target = bf (pw c 2) 23 0 ∧
      per = nearest 1 3600000 (pw c 3) ∧
      b = budgetOf c test ∧
      e = ({ enable := (pw c 0).testBit 31, test, target, period := per, budget := b.1, setter := cmdOwner c, status := (SMap.get dBstE u.bst.entries k).status, skips := (SMap.get dBstE u.bst.entries k).skips, seen := duePast u k per } : BstEntry) ∧
      u.lead = some c.d ∧
      serviceTest test = true ∧
      fullMode test = false ∧
      target = sweepTarget) ∧
    (∃ (d : Nat) (k : Nat) (test : Nat) (target : Nat) (per : Nat) (b : Nat × List Clamp) (e : BstEntry) (c : RunCmd) (u : State) (s : State),
      served s d 0x0801 .owner ∧
      u = servedState s d ∧
      c = frontEntry s d ∧
      k = bf (pw c 0) 5 0 ∧
      test = pw c 1 ∧
      target = bf (pw c 2) 23 0 ∧
      per = nearest 1 3600000 (pw c 3) ∧
      b = budgetOf c test ∧
      e = ({ enable := (pw c 0).testBit 31, test, target, period := per, budget := b.1, setter := cmdOwner c, status := (SMap.get dBstE u.bst.entries k).status, skips := (SMap.get dBstE u.bst.entries k).skips, seen := duePast u k per } : BstEntry) ∧
      fullMode test = true ∧
      fullPermitted u = false) ∧
    (∃ (d : Nat) (k : Nat) (test : Nat) (target : Nat) (per : Nat) (b : Nat × List Clamp) (e : BstEntry) (c : RunCmd) (u : State) (s : State),
      served s d 0x0801 .owner ∧
      u = servedState s d ∧
      c = frontEntry s d ∧
      k = bf (pw c 0) 5 0 ∧
      test = pw c 1 ∧
      target = bf (pw c 2) 23 0 ∧
      per = nearest 1 3600000 (pw c 3) ∧
      b = budgetOf c test ∧
      e = ({ enable := (pw c 0).testBit 31, test, target, period := per, budget := b.1, setter := cmdOwner c, status := (SMap.get dBstE u.bst.entries k).status, skips := (SMap.get dBstE u.bst.entries k).skips, seen := duePast u k per } : BstEntry) ∧
      fullMode test = false ∧
      u.lead ≠ some c.d ∧
      56 ≤ k) ∧
    (∃ (d : Nat) (test : Nat) (target : Nat) (b : Nat × List Clamp) (c : RunCmd) (u : State) (w : State) (s : State),
      served s d 0x0802 .owner ∧
      u = servedState s d ∧
      c = frontEntry s d ∧
      test = pw c 1 ∧
      target = bf (pw c 2) 23 0 ∧
      b = budgetOf c test ∧
      serviceTest test = true ∧
      fullMode test = false ∧
      target ≠ sweepTarget ∧
      targetValid test target = true ∧
      mayTest u c test target = true ∧
      eligible u test target = true ∧
      w = waitCmd c b.2 u) ∧
    (∃ (d : Nat) (test : Nat) (target : Nat) (b : Nat × List Clamp) (c : RunCmd) (u : State) (w : State) (s : State),
      served s d 0x0802 .owner ∧
      u = servedState s d ∧
      c = frontEntry s d ∧
      test = pw c 1 ∧
      target = bf (pw c 2) 23 0 ∧
      b = budgetOf c test ∧
      serviceTest test = true ∧
      fullMode test = false ∧
      target ≠ sweepTarget ∧
      targetValid test target = true ∧
      mayTest u c test target = true ∧
      eligible u test target = false) ∧
    (∃ (d : Nat) (test : Nat) (target : Nat) (b : Nat × List Clamp) (c : RunCmd) (u : State) (w : State) (s : State),
      served s d 0x0802 .owner ∧
      u = servedState s d ∧
      c = frontEntry s d ∧
      test = pw c 1 ∧
      target = bf (pw c 2) 23 0 ∧
      b = budgetOf c test ∧
      serviceTest test = true ∧
      fullMode test = false ∧
      target ≠ sweepTarget ∧
      targetValid test target = true ∧
      mayTest u c test target = false) ∧
    (∃ (d : Nat) (tag : Nat) (w : BstWait) (s : State),
      s.bst.waiting.find? (fun w => w.cmd.d == d && w.cmd.tag == tag) = some w ∧
      w.t + 100000000 ≤ s.uptime) ∧
    (∃ (d : Nat) (tag : Nat) (w : BstWait) (s : State),
      s.bst.waiting.find? (fun w => w.cmd.d == d && w.cmd.tag == tag) = some w ∧
      s.uptime < w.t + 100000000) ∧
    (∃ (d : Nat) (test : Nat) (target : Nat) (c : RunCmd) (u : State) (s : State),
      served s d 0x0803 .any ∧
      u = servedState s d ∧
      c = frontEntry s d ∧
      test = pw c 0 ∧
      target = bf (pw c 1) 23 0 ∧
      serviceTest test = true ∧
      targetValid test target = true ∧
      findRec u test target = none) ∧
    (∃ (d : Nat) (test : Nat) (target : Nat) (c : RunCmd) (u : State) (s : State) (k : Nat) (r : BstRec),
      served s d 0x0803 .any ∧
      u = servedState s d ∧
      c = frontEntry s d ∧
      test = pw c 0 ∧
      target = bf (pw c 1) 23 0 ∧
      serviceTest test = true ∧
      targetValid test target = true ∧
      findRec u test target = some (k, r) ∧
      runsOn u test target = false ∧
      r.readBy.contains c.d = false) ∧
    (∃ (d : Nat) (test : Nat) (target : Nat) (c : RunCmd) (u : State) (s : State) (k : Nat) (r : BstRec),
      served s d 0x0803 .any ∧
      u = servedState s d ∧
      c = frontEntry s d ∧
      test = pw c 0 ∧
      target = bf (pw c 1) 23 0 ∧
      serviceTest test = true ∧
      targetValid test target = true ∧
      findRec u test target = some (k, r) ∧
      runsOn u test target = false ∧
      r.readBy.contains c.d = true) ∧
    (∃ (k : Nat) (t : Nat) (e0 : BstEntry) (e : BstEntry) (s : State),
      k ≤ 63 ∧
      e0 = SMap.get dBstE s.bst.entries k ∧
      e = { e0 with seen := duePast s k e0.period } ∧
      e0.enable = true ∧
      s.boot.done = true ∧
      bstPermitted s = true ∧
      mcRuns s = true ∧
      e0.seen < duePast s k e0.period ∧
      dueTarget s.start k e = some t ∧
      ((slicesNow s.start).any fun x => x.2.entry == some k) = false ∧
      canStart s.start e.test t = true) ∧
    (∃ (k : Nat) (t : Nat) (e0 : BstEntry) (e : BstEntry) (s : State),
      k ≤ 63 ∧
      e0 = SMap.get dBstE s.bst.entries k ∧
      e = { e0 with seen := duePast s k e0.period } ∧
      e0.enable = true ∧
      s.boot.done = true ∧
      bstPermitted s = true ∧
      mcRuns s = true ∧
      e0.seen < duePast s k e0.period ∧
      dueTarget s.start k e = some t ∧
      canStart s.start e.test t = false) ∧
    (∃ (k : Nat) (t : Nat) (e0 : BstEntry) (e : BstEntry) (s : State),
      k ≤ 63 ∧
      e0 = SMap.get dBstE s.bst.entries k ∧
      e = { e0 with seen := duePast s k e0.period } ∧
      e0.enable = true ∧
      s.boot.done = true ∧
      bstPermitted s = true ∧
      mcRuns s = true ∧
      duePast s k e0.period ≤ e0.seen) ∧
    (∃ (slot : Nat) (x : Slice) (r : SliceResult) (m : BitVec 64) (st : Status) (v : State) (s : State),
      SMap.get dNone s.bst.slices slot = some x ∧
      (x.test = 1 → r.spareFault = false) ∧
      m = misrEnd r.misr r.patterns false ∧
      st = (if m == Config.bstExpected x.test x.target (targetConfig s.start x.test x.target) then .ok else .testFail) ∧
      v = afterTest x r.detail (endSlice s.start slot x st (faultDetail x.test st r) (s.uptime - x.t) m) ∧
      x.t + testNs x.test st ≤ s.uptime ∧
      s.uptime ≤ sliceLimit x + 2000 ∧
      (x.test ≠ 1 ∨ st = .ok)) ∧
    (∃ (slot : Nat) (x : Slice) (r : SliceResult) (m : BitVec 64) (st : Status) (v : State) (s : State),
      SMap.get dNone s.bst.slices slot = some x ∧
      (x.test = 1 → r.spareFault = false) ∧
      m = misrEnd r.misr r.patterns false ∧
      st = (if m == Config.bstExpected x.test x.target (targetConfig s.start x.test x.target) then .ok else .testFail) ∧
      v = afterTest x r.detail (endSlice s.start slot x st (faultDetail x.test st r) (s.uptime - x.t) m) ∧
      x.t + testNs x.test st ≤ s.uptime ∧
      s.uptime ≤ sliceLimit x + 2000 ∧
      x.test = 1 ∧
      st = .testFail) ∧
    (∃ (slot : Nat) (x : Slice) (r : SliceResult) (m : BitVec 64) (st : Status) (v : State) (s : State),
      SMap.get dNone s.bst.slices slot = some x ∧
      (x.test = 1 → r.spareFault = false) ∧
      m = misrEnd r.misr r.patterns false ∧
      st = (if m == Config.bstExpected x.test x.target (targetConfig s.start x.test x.target) then .ok else .testFail) ∧
      v = afterTest x r.detail (endSlice s.start slot x st (faultDetail x.test st r) (s.uptime - x.t) m) ∧
      s.uptime < x.t + testNs x.test st) ∧
    (∃ (slot : Nat) (x : Slice) (r : SliceResult) (s : State),
      SMap.get dNone s.bst.slices slot = some x ∧
      x.test = 1 ∧
      r.spareFault = true) ∧
    (∃ (slot : Nat) (n : Nat) (x : Slice) (m : BitVec 64) (s : State),
      SMap.get dNone s.bst.slices slot = some x ∧
      sliceLimit x ≤ s.uptime) ∧
    (∃ (slot : Nat) (n : Nat) (x : Slice) (m : BitVec 64) (s : State),
      SMap.get dNone s.bst.slices slot = some x ∧
      s.uptime < sliceLimit x) :=
  ⟨⟨0, _, _, _, _, _, _, _, _, mb 0x0801 [0, 5, 0xFFFFFF, 1] { D with ten := [(0, .h0)] },
     ⟨by decide, by decide, by decide, by decide, by decide, Or.inl (by decide)⟩,
     rfl,
     rfl,
     rfl,
     rfl,
     rfl,
     rfl,
     rfl,
     rfl,
     by decide,
     by decide,
     by decide,
     by decide⟩,
   ⟨0, _, _, _, _, _, _, _, _, mb 0x0801 [0, 0x81, 0, 1] D,
     ⟨by decide, by decide, by decide, by decide, by decide, Or.inl (by decide)⟩,
     rfl,
     rfl,
     rfl,
     rfl,
     rfl,
     rfl,
     rfl,
     rfl,
     by decide,
     by decide⟩,
   ⟨0, _, _, _, _, _, _, _, _, mb 0x0801 [56, 5, 0, 1] D,
     ⟨by decide, by decide, by decide, by decide, by decide, Or.inl (by decide)⟩,
     rfl,
     rfl,
     rfl,
     rfl,
     rfl,
     rfl,
     rfl,
     rfl,
     by decide,
     by decide,
     by decide⟩,
   ⟨0, _, _, _, _, _, _, mb 0x0802 [0, 5, 0] { D with ten := [(0, .h0)] },
     ⟨by decide, by decide, by decide, by decide, by decide, Or.inl (by decide)⟩,
     rfl,
     rfl,
     rfl,
     rfl,
     rfl,
     by decide,
     by decide,
     by decide,
     by decide,
     by decide,
     by decide,
     rfl⟩,
   ⟨0, _, _, _, _, _, R, mb 0x0802 [0, 3, 0] { D with ten := [(0, .h0)] },
     ⟨by decide, by decide, by decide, by decide, by decide, Or.inl (by decide)⟩,
     rfl,
     rfl,
     rfl,
     rfl,
     rfl,
     by decide,
     by decide,
     by decide,
     by decide,
     by decide,
     by decide⟩,
   ⟨0, _, _, _, _, _, R, mb 0x0802 [0, 5, 0] D,
     ⟨by decide, by decide, by decide, by decide, by decide, Or.inl (by decide)⟩,
     rfl,
     rfl,
     rfl,
     rfl,
     rfl,
     by decide,
     by decide,
     by decide,
     by decide,
     by decide⟩,
   ⟨0, 0, ⟨⟨0, 0⟩, 5, 0, 32, 0⟩, { { D with bst := { waiting := [⟨⟨0, 0⟩, 5, 0, 32, 0⟩] } } with uptime := 100000000 },
     by decide,
     by decide⟩,
   ⟨0, 0, ⟨⟨0, 0⟩, 5, 0, 32, 0⟩, { D with bst := { waiting := [⟨⟨0, 0⟩, 5, 0, 32, 0⟩] } },
     by decide,
     by decide⟩,
   ⟨0, _, _, _, _, mb 0x0803 [5, 0] D,
     ⟨by decide, by decide, by decide, by decide, by decide, Or.inl (by decide)⟩,
     rfl,
     rfl,
     rfl,
     rfl,
     by decide,
     by decide,
     by decide⟩,
   ⟨0, _, _, _, _, mb 0x0803 [5, 0] { D with bst := { recs := [(0, some ⟨5, 0, 0, .ok, 0, 0, 0, 0, [], false, 0⟩)] } }, 0, ⟨5, 0, 0, .ok, 0, 0, 0, 0, [], false, 0⟩,
     ⟨by decide, by decide, by decide, by decide, by decide, Or.inl (by decide)⟩,
     rfl,
     rfl,
     rfl,
     rfl,
     by decide,
     by decide,
     by decide,
     by decide,
     by decide⟩,
   ⟨0, _, _, _, _, mb 0x0803 [5, 0] { D with bst := { recs := [(0, some ⟨5, 0, 0, .ok, 0, 0, 0, 0, [0], false, 0⟩)] } }, 0, ⟨5, 0, 0, .ok, 0, 0, 0, 0, [0], false, 0⟩,
     ⟨by decide, by decide, by decide, by decide, by decide, Or.inl (by decide)⟩,
     rfl,
     rfl,
     rfl,
     rfl,
     by decide,
     by decide,
     by decide,
     by decide,
     by decide⟩,
   ⟨0, 0, _, _, { D with bst := { entries := [(0, { enable := true, test := 5 })] } },
     by decide,
     rfl,
     rfl,
     by decide,
     by decide,
     by decide,
     by decide,
     by decide,
     by decide,
     by decide,
     by decide⟩,
   ⟨0, 0, _, _, { D with bst := { entries := [(0, { enable := true, test := 2 })] } },
     by decide,
     rfl,
     rfl,
     by decide,
     by decide,
     by decide,
     by decide,
     by decide,
     by decide,
     by decide⟩,
   ⟨0, 0, _, _, { D with bst := { entries := [(0, { enable := true, test := 5, seen := 5 })] } },
     by decide,
     rfl,
     rfl,
     by decide,
     by decide,
     by decide,
     by decide,
     by decide⟩,
   ⟨0, ⟨5, 0, none, 1000, 0, none, none⟩, ⟨0, false, 0, 0⟩, _, _, _, { { D with bst := { slices := [(0, some ⟨5, 0, none, 1000, 0, none, none⟩)] } } with uptime := 100000 },
     by decide,
     by decide,
     rfl,
     rfl,
     rfl,
     by decide,
     by decide,
     Or.inl (by decide)⟩,
   let ⟨y, hy⟩ := misr_fails (Config.bstExpected 1 0 (targetConfig (State.start { { D with bst := { slices := [(0, some ⟨1, 0, none, 1000, 0, none, none⟩)] } } with uptime := 100000 }) 1 0));
    ⟨0, ⟨1, 0, none, 1000, 0, none, none⟩, ⟨0, false, 0, y⟩, _, _, _, { { D with bst := { slices := [(0, some ⟨1, 0, none, 1000, 0, none, none⟩)] } } with uptime := 100000 },
     by decide,
     fun _ => rfl,
     rfl,
     rfl,
     rfl,
     by unfold testNs; split <;> decide,
     by decide,
     by decide,
     if_neg fun h => hy (eq_of_beq h)⟩,
   ⟨0, ⟨5, 0, none, 1000, 0, none, none⟩, ⟨0, false, 0, 0⟩, _, _, _, { { D with bst := { slices := [(0, some ⟨5, 0, none, 1000, 0, none, none⟩)] } } with uptime := 0 },
     by decide,
     by decide,
     rfl,
     rfl,
     rfl,
     by decide⟩,
   ⟨0, ⟨1, 0, none, 1000, 0, none, none⟩, ⟨0, true, 0, 0⟩, { { D with bst := { slices := [(0, some ⟨1, 0, none, 1000, 0, none, none⟩)] } } with uptime := 0 },
     by decide,
     by decide,
     by decide⟩,
   ⟨0, 0, sl 5 0, 0, { D with bst := { slices := [(0, some (sl 5 0))] } },
     by decide,
     by decide⟩,
   ⟨0, 0, ⟨5, 0, none, 1000, 0, none, none⟩, 0, { { D with bst := { slices := [(0, some ⟨5, 0, none, 1000, 0, none, none⟩)] } } with uptime := 0 },
     by decide,
     by decide⟩⟩

set_option maxRecDepth 100000 in
/-- States and operands that meet the hypotheses of each clause of LifeCycleDebug. -/
theorem reach_LifeCycleDebug :
    (∃ (d : Nat) (t : Nat) (b : List Byte) (n : Nonce) (c : RunCmd) (u : State) (v : State) (w : State) (s : State),
      served s d 0x0901 .h ∧
      u = servedState s d ∧
      c = frontEntry s d ∧
      t = bf (pw c 0) 3 0 ∧
      b = readBuf u c (pw c 1) 0xE0 ∧
      bufOk (pw c 1) 0xE0 = true ∧
      u.lcs.run = none ∧
      v = setNonce u c.d none ∧
      w = waitCmd c [] v ∧
      lcPair u.lcs.state t = false) ∧
    (∃ (d : Nat) (t : Nat) (b : List Byte) (n : Nonce) (c : RunCmd) (u : State) (v : State) (w : State) (s : State),
      served s d 0x0901 .h ∧
      u = servedState s d ∧
      c = frontEntry s d ∧
      t = bf (pw c 0) 3 0 ∧
      b = readBuf u c (pw c 1) 0xE0 ∧
      bufOk (pw c 1) 0xE0 = true ∧
      u.lcs.run = none ∧
      v = setNonce u c.d none ∧
      w = waitCmd c [] v ∧
      lcPair u.lcs.state t = true ∧
      leAt b 4 1 = u.lcs.state ∧
      leAt b 5 1 = t ∧
      (nonceOf u c.d).filter (fun n => n.scope == 0) = none) ∧
    (∃ (d : Nat) (t : Nat) (b : List Byte) (n : Nonce) (c : RunCmd) (u : State) (v : State) (w : State) (s : State),
      served s d 0x0901 .h ∧
      u = servedState s d ∧
      c = frontEntry s d ∧
      t = bf (pw c 0) 3 0 ∧
      b = readBuf u c (pw c 1) 0xE0 ∧
      bufOk (pw c 1) 0xE0 = true ∧
      u.lcs.run = none ∧
      v = setNonce u c.d none ∧
      w = waitCmd c [] v ∧
      lcPair u.lcs.state t = true ∧
      leAt b 4 1 = u.lcs.state ∧
      leAt b 5 1 = t ∧
      (nonceOf u c.d).filter (fun n => n.scope == 0) = some n ∧
      lcAuth u t n b = false) ∧
    (∀ (hs : Config.serial = 0), ∃ (d : Nat) (t : Nat) (b : List Byte) (n : Nonce) (c : RunCmd) (u : State) (v : State) (w : State) (s : State),
      served s d 0x0901 .h ∧
      u = servedState s d ∧
      c = frontEntry s d ∧
      t = bf (pw c 0) 3 0 ∧
      b = readBuf u c (pw c 1) 0xE0 ∧
      bufOk (pw c 1) 0xE0 = true ∧
      u.lcs.run = none ∧
      v = setNonce u c.d none ∧
      w = waitCmd c [] v ∧
      lcPair u.lcs.state t = true ∧
      leAt b 4 1 = u.lcs.state ∧
      leAt b 5 1 = t ∧
      (nonceOf u c.d).filter (fun n => n.scope == 0) = some n ∧
      lcAuth u t n b = true ∧
      lcCondition u t = false) ∧
    (∀ (hs : Config.serial = 0), ∃ (d : Nat) (t : Nat) (b : List Byte) (n : Nonce) (c : RunCmd) (u : State) (v : State) (w : State) (s : State),
      served s d 0x0901 .h ∧
      u = servedState s d ∧
      c = frontEntry s d ∧
      t = bf (pw c 0) 3 0 ∧
      b = readBuf u c (pw c 1) 0xE0 ∧
      bufOk (pw c 1) 0xE0 = true ∧
      u.lcs.run = none ∧
      v = setNonce u c.d none ∧
      w = waitCmd c [] v ∧
      lcPair u.lcs.state t = true ∧
      leAt b 4 1 = u.lcs.state ∧
      leAt b 5 1 = t ∧
      (nonceOf u c.d).filter (fun n => n.scope == 0) = some n ∧
      lcAuth u t n b = true ∧
      lcCondition u t = true ∧
      (u.pwr.holdup = false ∨ u.boot.suppliesOk = false)) ∧
    (∀ (hs : Config.serial = 0), ∃ (d : Nat) (t : Nat) (b : List Byte) (n : Nonce) (c : RunCmd) (u : State) (v : State) (w : State) (s : State),
      served s d 0x0901 .h ∧
      u = servedState s d ∧
      c = frontEntry s d ∧
      t = bf (pw c 0) 3 0 ∧
      b = readBuf u c (pw c 1) 0xE0 ∧
      bufOk (pw c 1) 0xE0 = true ∧
      u.lcs.run = none ∧
      v = setNonce u c.d none ∧
      w = waitCmd c [] v ∧
      lcPair u.lcs.state t = true ∧
      leAt b 4 1 = u.lcs.state ∧
      leAt b 5 1 = t ∧
      (nonceOf u c.d).filter (fun n => n.scope == 0) = some n ∧
      lcAuth u t n b = true ∧
      lcCondition u t = true ∧
      u.pwr.holdup = true ∧
      u.boot.suppliesOk = true) ∧
    (∃ (r : LcRun) (u : State) (v : State) (z : State) (s : State),
      programming s = some r ∧
      u = (runWords s r).foldl otpPut s.start ∧
      r.since + runNs (runWords s r) ≤ s.uptime ∧
      ((r.target ≠ 4 ∨ r.run2 = true)) ∧
      v = endGrants (lcRead { u with lcs := { u.lcs with run := none, status := .ok } }) ∧
      z = endCmd? r.cmd .ok 0x18 [wd v.lcs.state] (v.raiseAll 0x100020 0 1) ∧
      z.lcs.warmDef = false) ∧
    (∃ (r : LcRun) (u : State) (v : State) (z : State) (s : State),
      programming s = some r ∧
      u = (runWords s r).foldl otpPut s.start ∧
      r.since + runNs (runWords s r) ≤ s.uptime ∧
      ((r.target ≠ 4 ∨ r.run2 = true)) ∧
      v = endGrants (lcRead { u with lcs := { u.lcs with run := none, status := .ok } }) ∧
      z = endCmd? r.cmd .ok 0x18 [wd v.lcs.state] (v.raiseAll 0x100020 0 1) ∧
      z.lcs.warmDef = true) ∧
    (∃ (r : LcRun) (u : State) (v : State) (z : State) (s : State),
      programming s = some r ∧
      u = (runWords s r).foldl otpPut s.start ∧
      r.since + runNs (runWords s r) ≤ s.uptime ∧
      r.target = 4 ∧
      r.run2 = false ∧
      v = stopDesign u ∧
      z = { v with lcs := { v.lcs with run := some { r with run2 := true }, erasing := true, boot := SMap.set dWord v.lcs.boot 23 (SMap.get dWord v.lcs.otp 23) } } ∧
      z.lcs.warmDef = false) ∧
    (∃ (r : LcRun) (u : State) (v : State) (z : State) (s : State),
      programming s = some r ∧
      u = (runWords s r).foldl otpPut s.start ∧
      r.since + runNs (runWords s r) ≤ s.uptime ∧
      r.target = 4 ∧
      r.run2 = false ∧
      v = stopDesign u ∧
      z = { v with lcs := { v.lcs with run := some { r with run2 := true }, erasing := true, boot := SMap.set dWord v.lcs.boot 23 (SMap.get dWord v.lcs.otp 23) } } ∧
      z.lcs.warmDef = true) ∧
    (∃ (r : LcRun) (u : State) (v : State) (z : State) (s : State),
      programming s = some r ∧
      u = (runWords s r).foldl otpPut s.start ∧
      s.uptime < r.since + runNs (runWords s r)) ∧
    (∃ (u : State) (v : State) (s : State),
      s.lcs.erasing = true ∧
      u = ownerErase s.start ∧
      v = { u with lcs := { u.lcs with erasing := false } } ∧
      s.lcs.run = none) ∧
    (∃ (u : State) (v : State) (s : State) (r : LcRun),
      s.lcs.erasing = true ∧
      u = ownerErase s.start ∧
      v = { u with lcs := { u.lcs with erasing := false } } ∧
      s.lcs.run = some r ∧
      s.pwr.holdup = true ∧
      s.boot.suppliesOk = true) ∧
    (∃ (u : State) (v : State) (s : State) (r : LcRun),
      s.lcs.erasing = true ∧
      u = ownerErase s.start ∧
      v = { u with lcs := { u.lcs with erasing := false } } ∧
      s.lcs.run = some r ∧
      (s.pwr.holdup = false ∨ s.boot.suppliesOk = false)) ∧
    (∃ (d : Nat) (sc : Nat) (dom : Nat) (c : RunCmd) (u : State) (s : State),
      served s d 0x0902 .h ∧
      u = servedState s d ∧
      c = frontEntry s d ∧
      sc = bf (pw c 0) 3 0 ∧
      dom = bf (pw c 0) 6 4 ∧
      sc ≤ 4 ∧
      (sc ≠ 2 ∧ sc ≠ 4 ∨ u.lead = some c.d) ∧
      (sc ≠ 3 ∨ dom = c.d)) ∧
    (∃ (d : Nat) (sc : Nat) (dom : Nat) (c : RunCmd) (u : State) (s : State),
      served s d 0x0902 .h ∧
      u = servedState s d ∧
      c = frontEntry s d ∧
      sc = bf (pw c 0) 3 0 ∧
      dom = bf (pw c 0) 6 4 ∧
      (sc = 2 ∨ sc = 4) ∧
      u.lead ≠ some c.d) ∧
    (∃ (d : Nat) (sc : Nat) (dom : Nat) (c : RunCmd) (u : State) (s : State),
      served s d 0x0902 .h ∧
      u = servedState s d ∧
      c = frontEntry s d ∧
      sc = bf (pw c 0) 3 0 ∧
      dom = bf (pw c 0) 6 4 ∧
      4 < sc) ∧
    (∃ (h : Nat) (n : Nonce) (s : State),
      nonceOf s h = some n ∧
      n.t + nonceLife ≤ s.pwr.rtc) ∧
    (∃ (h : Nat) (n : Nonce) (s : State),
      nonceOf s h = some n ∧
      s.pwr.rtc < n.t + nonceLife) ∧
    (∀ (hs : Config.serial = 0), ∃ (d : Nat) (m : Nat) (b : List Byte) (n : Nonce) (c : RunCmd) (u : State) (v : State) (s : State),
      served s d 0x0903 .h ∧
      u = servedState s d ∧
      c = frontEntry s d ∧
      b = readBuf u c (pw c 0) 144 ∧
      m = leAt b 8 4 ∧
      bufOk (pw c 0) 144 = true ∧
      nonceOf u c.d = some n ∧
      v = setNonce u c.d none ∧
      1 ≤ m ∧
      m ≤ 1440 ∧
      leAt b 6 2 = 0 ∧
      leAt b 0x24 12 = 0 ∧
      grantRight u n b = true ∧
      (freeSlots u).isEmpty = false) ∧
    (∃ (d : Nat) (m : Nat) (b : List Byte) (n : Nonce) (c : RunCmd) (u : State) (v : State) (s : State),
      served s d 0x0903 .h ∧
      u = servedState s d ∧
      c = frontEntry s d ∧
      b = readBuf u c (pw c 0) 144 ∧
      m = leAt b 8 4 ∧
      bufOk (pw c 0) 144 = true ∧
      nonceOf u c.d = some n ∧
      v = setNonce u c.d none ∧
      1 ≤ m ∧
      m ≤ 1440 ∧
      leAt b 6 2 = 0 ∧
      leAt b 0x24 12 = 0 ∧
      grantRight u n b = false) ∧
    (∀ (hs : Config.serial = 0), ∃ (d : Nat) (m : Nat) (b : List Byte) (n : Nonce) (c : RunCmd) (u : State) (v : State) (s : State),
      served s d 0x0903 .h ∧
      u = servedState s d ∧
      c = frontEntry s d ∧
      b = readBuf u c (pw c 0) 144 ∧
      m = leAt b 8 4 ∧
      bufOk (pw c 0) 144 = true ∧
      nonceOf u c.d = some n ∧
      v = setNonce u c.d none ∧
      1 ≤ m ∧
      m ≤ 1440 ∧
      leAt b 6 2 = 0 ∧
      leAt b 0x24 12 = 0 ∧
      grantRight u n b = true ∧
      (freeSlots u).isEmpty = true) ∧
    (∃ (d : Nat) (c : RunCmd) (u : State) (s : State),
      served s d 0x0904 .h ∧
      u = servedState s d ∧
      c = frontEntry s d ∧
      grantSlot u (pw c 0) = none) ∧
    (∃ (d : Nat) (c : RunCmd) (u : State) (s : State) (k : Nat) (g : Grant),
      served s d 0x0904 .h ∧
      u = servedState s d ∧
      c = frontEntry s d ∧
      grantSlot u (pw c 0) = some (k, g) ∧
      (g.who = c.d ∨ u.lead = some c.d)) ∧
    (∃ (d : Nat) (c : RunCmd) (u : State) (s : State) (k : Nat) (g : Grant),
      served s d 0x0904 .h ∧
      u = servedState s d ∧
      c = frontEntry s d ∧
      grantSlot u (pw c 0) = some (k, g) ∧
      g.who ≠ c.d ∧
      u.lead ≠ some c.d) ∧
    (∃ (k : Nat) (g : Grant) (s : State),
      SMap.get dNone s.lcs.grants k = some g ∧
      g.until_ ≤ rtcSec s) ∧
    (∃ (k : Nat) (g : Grant) (s : State),
      SMap.get dNone s.lcs.grants k = some g ∧
      rtcSec s < g.until_) :=
  ⟨⟨0, _, _, no, _, _, _, _, mb 0x0901 [3, 0x2000] D,
     ⟨by decide, by decide, by decide, by decide, by decide, Or.inl (by decide)⟩,
     rfl,
     rfl,
     rfl,
     rfl,
     by decide,
     by decide,
     rfl,
     rfl,
     by decide⟩,
   ⟨0, _, _, no, _, _, _, _, (mbB 0x0901 [4, 0x2000] 0x2000 [0, 0, 0, 0, 3, 4] D),
     ⟨by decide, by decide, by decide, by decide, by decide, Or.inl (by decide)⟩,
     rfl,
     rfl,
     rfl,
     rfl,
     by decide,
     by decide,
     rfl,
     rfl,
     by decide,
     by decide,
     by decide,
     by decide⟩,
   ⟨0, _, _, no, _, _, _, _, (mbB 0x0901 [4, 0x2000] 0x2000 [0, 0, 0, 0, 3, 4] { D with lcs := { state := 3, nonces := [(0, some no)] } }),
     ⟨by decide, by decide, by decide, by decide, by decide, Or.inl (by decide)⟩,
     rfl,
     rfl,
     rfl,
     rfl,
     by decide,
     by decide,
     rfl,
     rfl,
     by decide,
     by decide,
     by decide,
     by decide,
     by decide⟩,
   fun hs => ⟨0, _, _, no, _, _, _, _, (mbB 0x0901 [3, 0x2000] 0x2000 lcPack { D with boot := { D.boot with imgActive := false, imgOwner := pub1 }, lcs := { state := 2, nonces := [(0, some no)] } }),
     ⟨by decide +kernel, by decide +kernel, by decide +kernel, by decide +kernel, by decide +kernel, Or.inl (by decide +kernel)⟩,
     rfl,
     rfl,
     rfl,
     rfl,
     by decide,
     by decide,
     rfl,
     rfl,
     by decide +kernel,
     by decide +kernel,
     by decide +kernel,
     by decide +kernel,
     by unfold lcAuth serialBytes; rw [hs]; decide +kernel,
     by decide +kernel⟩,
   fun hs => ⟨0, _, _, no, _, _, _, _, (mbB 0x0901 [3, 0x2000] 0x2000 lcPack { D with boot := { D.boot with imgActive := true, imgOwner := pub1 }, lcs := { state := 2, nonces := [(0, some no)] }, pwr := { holdup := false } }),
     ⟨by decide +kernel, by decide +kernel, by decide +kernel, by decide +kernel, by decide +kernel, Or.inl (by decide +kernel)⟩,
     rfl,
     rfl,
     rfl,
     rfl,
     by decide,
     by decide,
     rfl,
     rfl,
     by decide +kernel,
     by decide +kernel,
     by decide +kernel,
     by decide +kernel,
     by unfold lcAuth serialBytes; rw [hs]; decide +kernel,
     by decide +kernel,
     by decide +kernel⟩,
   fun hs => ⟨0, _, _, no, _, _, _, _, (mbB 0x0901 [3, 0x2000] 0x2000 lcPack { D with boot := { D.boot with imgActive := true, imgOwner := pub1 }, lcs := { state := 2, nonces := [(0, some no)] } }),
     ⟨by decide +kernel, by decide +kernel, by decide +kernel, by decide +kernel, by decide +kernel, Or.inl (by decide +kernel)⟩,
     rfl,
     rfl,
     rfl,
     rfl,
     by decide,
     by decide,
     rfl,
     rfl,
     by decide +kernel,
     by decide +kernel,
     by decide +kernel,
     by decide +kernel,
     by unfold lcAuth serialBytes; rw [hs]; decide +kernel,
     by decide +kernel,
     by decide +kernel,
     by decide⟩,
   ⟨⟨none, 4, true, 0⟩, _, _, _, { { D with lcs := { state := 3, run := some ⟨none, 4, true, 0⟩ } } with uptime := 100000000 },
     by decide,
     rfl,
     by decide,
     Or.inr rfl,
     rfl,
     rfl,
     by decide⟩,
   ⟨⟨none, 4, true, 0⟩, _, _, _, { { D with lcs := { state := 3, warmDef := true, run := some ⟨none, 4, true, 0⟩ } } with uptime := 100000000 },
     by decide,
     rfl,
     by decide,
     Or.inr rfl,
     rfl,
     rfl,
     by decide⟩,
   ⟨⟨none, 4, false, 0⟩, _, _, _, { { D with lcs := { state := 3, run := some ⟨none, 4, false, 0⟩ } } with uptime := 100000000 },
     by decide,
     rfl,
     by decide,
     by decide,
     by decide,
     rfl,
     rfl,
     by decide⟩,
   ⟨⟨none, 4, false, 0⟩, _, _, _, { { D with lcs := { state := 3, warmDef := true, run := some ⟨none, 4, false, 0⟩ } } with uptime := 100000000 },
     by decide,
     rfl,
     by decide,
     by decide,
     by decide,
     rfl,
     rfl,
     by decide⟩,
   ⟨⟨none, 4, false, 0⟩, _, R, R, { { D with lcs := { state := 3, run := some ⟨none, 4, false, 0⟩ } } with uptime := 0 },
     by decide,
     rfl,
     by decide⟩,
   ⟨_, _, { D with lcs := { state := 3, erasing := true } },
     by decide,
     rfl,
     rfl,
     by decide⟩,
   ⟨_, _, { { D with lcs := { state := 3, erasing := true, run := some ⟨none, 4, false, 0⟩ } } with uptime := 0 }, ⟨none, 4, false, 0⟩,
     by decide,
     rfl,
     rfl,
     by decide,
     by decide,
     by decide⟩,
   ⟨_, _, { { D with lcs := { state := 3, erasing := true, run := some ⟨none, 4, false, 0⟩ }, pwr := { holdup := false } } with uptime := 0 }, ⟨none, 4, false, 0⟩,
     by decide,
     rfl,
     rfl,
     by decide,
     Or.inl (by decide)⟩,
   ⟨0, _, _, _, _, mb 0x0902 [0] D,
     ⟨by decide, by decide, by decide, by decide, by decide, Or.inl (by decide)⟩,
     rfl,
     rfl,
     rfl,
     rfl,
     by decide,
     by decide,
     by decide⟩,
   ⟨0, _, _, _, _, mb 0x0902 [2] D,
     ⟨by decide, by decide, by decide, by decide, by decide, Or.inl (by decide)⟩,
     rfl,
     rfl,
     rfl,
     rfl,
     Or.inl (by decide),
     by decide⟩,
   ⟨0, _, _, _, _, mb 0x0902 [5] D,
     ⟨by decide, by decide, by decide, by decide, by decide, Or.inl (by decide)⟩,
     rfl,
     rfl,
     rfl,
     rfl,
     by decide⟩,
   ⟨0, no, { D with lcs := { state := 3, nonces := [(0, some no)] }, pwr := { rtc := 600 * 32768 } },
     by decide,
     by decide⟩,
   ⟨0, no, { D with lcs := { state := 3, nonces := [(0, some no)] } },
     by decide,
     by decide⟩,
   fun hs => ⟨0, _, _, ⟨1, 0, 0, 0⟩, _, _, _, (mbB 0x0903 [0x2000] 0x2000 grantPack { D with boot := { D.boot with imgOwner := pub1 }, lcs := { state := 2, nonces := [(0, some ⟨1, 0, 0, 0⟩)] } }),
     ⟨by decide +kernel, by decide +kernel, by decide +kernel, by decide +kernel, by decide +kernel, Or.inl (by decide +kernel)⟩,
     rfl,
     rfl,
     rfl,
     rfl,
     by decide +kernel,
     by decide +kernel,
     rfl,
     by decide +kernel,
     by decide +kernel,
     by decide +kernel,
     by decide +kernel,
     by unfold grantRight serialBytes; rw [hs]; decide +kernel,
     by decide +kernel⟩,
   ⟨0, _, _, no, _, _, _, (mbB 0x0903 [0x2000] 0x2000 [0, 0, 0, 0, 0, 0, 0, 0, 1] { D with lcs := { state := 3, nonces := [(0, some no)] } }),
     ⟨by decide, by decide, by decide, by decide, by decide, Or.inl (by decide)⟩,
     rfl,
     rfl,
     rfl,
     rfl,
     by decide,
     by decide,
     rfl,
     by decide,
     by decide,
     by decide,
     by decide,
     by decide⟩,
   fun hs => ⟨0, _, _, ⟨1, 0, 0, 0⟩, _, _, _, (mbB 0x0903 [0x2000] 0x2000 grantPack { D with boot := { D.boot with imgOwner := pub1 }, lcs := { state := 2, nonces := [(0, some ⟨1, 0, 0, 0⟩)], grants := (List.range 8).map fun k => (k, some (gr 0 0)) } }),
     ⟨by decide +kernel, by decide +kernel, by decide +kernel, by decide +kernel, by decide +kernel, Or.inl (by decide +kernel)⟩,
     rfl,
     rfl,
     rfl,
     rfl,
     by decide +kernel,
     by decide +kernel,
     rfl,
     by decide +kernel,
     by decide +kernel,
     by decide +kernel,
     by decide +kernel,
     by unfold grantRight serialBytes; rw [hs]; decide +kernel,
     by decide +kernel⟩,
   ⟨0, _, _, mb 0x0904 [0] D,
     ⟨by decide, by decide, by decide, by decide, by decide, Or.inl (by decide)⟩,
     rfl,
     rfl,
     by decide⟩,
   ⟨0, _, _, mb 0x0904 [0] { D with lcs := { state := 3, grants := [(0, some (gr 0 0))] } }, 0, gr 0 0,
     ⟨by decide, by decide, by decide, by decide, by decide, Or.inl (by decide)⟩,
     rfl,
     rfl,
     by decide,
     by decide⟩,
   ⟨0, _, _, mb 0x0904 [0] { D with lcs := { state := 3, grants := [(0, some (gr 1 0))] } }, 0, gr 1 0,
     ⟨by decide, by decide, by decide, by decide, by decide, Or.inl (by decide)⟩,
     rfl,
     rfl,
     by decide,
     by decide,
     by decide⟩,
   ⟨0, gr 0 0, { D with lcs := { state := 3, grants := [(0, some (gr 0 0))] } },
     by decide,
     by decide⟩,
   ⟨0, gr 0 5, { D with lcs := { state := 3, grants := [(0, some (gr 0 5))] } },
     by decide,
     by decide⟩⟩

/-- States and operands that meet the hypotheses of each clause of TestAccessPort. -/
theorem reach_TestAccessPort :
    (∃ (x : BscanDr) (u : State) (s : State),
      jtagPermits s 0x001 = true ∧
      u = loadIr 0x001 s.start) ∧
    (∃ (x : BscanDr) (k : Nat) (u : State) (s : State),
      (k = 0x000 ∨ k = 0x005 ∨ k = 0x006) ∧
      jtagPermits s k = true ∧
      u = loadIr k s.start) ∧
    (∃ (u : State) (s : State),
      jtagPermits s 0x003 = true ∧
      u = loadIr 0x003 s.start) ∧
    (∃ (u : State) (s : State),
      jtagPermits s 0x004 = true ∧
      u = loadIr 0x004 s.start) ∧
    (∀ (pkg : List Byte) (x : BitVec 256 × BitVec 256) (h : Config.keyPackage pkg = some x), ∃ (pkg : List Byte) (x : BitVec 256 × BitVec 256) (s : State),
      jtagPermits s 0x018 = true ∧
      Config.keyPackage pkg = some x) ∧
    (∀ (pkg : List Byte) (h : Config.keyPackage pkg = none), ∃ (pkg : List Byte) (s : State),
      jtagPermits s 0x018 = true ∧
      Config.keyPackage pkg = none) ∧
    (∃ (dr : BitVec 64) (a : Nat) (u : State) (s : State),
      jtagPermits s 0x020 = true ∧
      dr.getLsbD 63 = true ∧
      a = bf dr.toNat 55 32 ∧
      u = (loadIr 0x020 s.start).emit (.tdo 64 s.lcs.csrData.toNat)) ∧
    (∃ (dr : BitVec 64) (a : Nat) (r : Word × State) (u : State) (s : State),
      jtagPermits s 0x020 = true ∧
      dr.getLsbD 63 = false ∧
      a = bf dr.toNat 55 32 ∧
      u = (loadIr 0x020 s.start).emit (.tdo 64 s.lcs.csrData.toNat) ∧
      r = csrRead .jtag a u) ∧
    (∃ (far : Word) (u : State) (s : State),
      jtagPermits s 0x021 = true ∧
      u = loadIr 0x021 s.start ∧
      farValid (far &&& 0xBFFFFFFF) = true) ∧
    (∃ (far : Word) (u : State) (s : State),
      jtagPermits s 0x021 = true ∧
      u = loadIr 0x021 s.start ∧
      farValid (far &&& 0xBFFFFFFF) = false) ∧
    (∃ (k : Nat) (s : State),
      k < 1024 ∧
      (k = 0x3FF ∨ jtagListed k = false)) ∧
    (∃ (k : Nat) (u : State) (s : State),
      u = loadIr k s.start ∧
      jtagPermits s k = false ∧
      k < 1024 ∧
      k ≠ 0x3FF ∧
      jtagListed k = true) ∧
    (∃ (k : Nat) (u : State) (s : State) (x : BscanDr),
      u = loadIr k s.start ∧
      jtagPermits s k = false ∧
      k < 1024 ∧
      k = 0x000) ∧
    (∃ (k : Nat) (u : State) (s : State) (dr : BitVec 64),
      u = loadIr k s.start ∧
      jtagPermits s k = false ∧
      k < 1024 ∧
      k = 0x020) :=
  ⟨⟨⟨0, 0⟩, _, R,
     by decide,
     rfl⟩,
   ⟨⟨0, 0⟩, 0, _, R,
     Or.inl rfl,
     by decide,
     rfl⟩,
   ⟨_, R,
     by decide,
     rfl⟩,
   ⟨_, R,
     by decide,
     rfl⟩,
   fun pkg x h => ⟨pkg, x, { D with lcs := { state := 1 } },
     by decide,
     h⟩,
   fun pkg h => ⟨pkg, { D with lcs := { state := 1 } },
     by decide,
     h⟩,
   ⟨0x8000000000000000, _, _, { D with lcs := { state := 1 } },
     by decide,
     by decide,
     rfl,
     rfl⟩,
   ⟨0, _, _, _, { D with lcs := { state := 1 } },
     by decide,
     by decide,
     rfl,
     rfl,
     rfl⟩,
   ⟨0, _, { D with lcs := { state := 1 } },
     by decide,
     rfl,
     by decide⟩,
   ⟨1, _, { D with lcs := { state := 1 } },
     by decide,
     rfl,
     by decide⟩,
   ⟨0x3FF, R,
     by decide,
     Or.inl rfl⟩,
   ⟨0x20, _, D,
     rfl,
     by decide,
     by decide,
     by decide,
     by decide⟩,
   ⟨0, _, D, ⟨0, 0⟩,
     rfl,
     by decide,
     by decide,
     by decide⟩,
   ⟨0x20, _, D, 0,
     rfl,
     by decide,
     by decide,
     by decide⟩⟩

/-- States and operands that meet the hypotheses of each clause of FabricAndRegisters. -/
theorem reach_FabricAndRegisters :
    (∃ (acc : Accessor) (v : Word) (s : State),
      acc ≠ .dom .hs) ∧
    (∃ (acc : Accessor) (a : Nat) (v : Word) (s : State),
      (a % 4 ≠ 0 ∨ 0x13 < a / 0x10000)) ∧
    (∃ (a : Nat) (v : Word) (s : State),
      a / 0x10000 ≠ 1) ∧
    (∃ (x : ClockEdge) (f : Fab) (g : Fab) (s : State),
      f = fabEdge s.start x ∧
      g = takeInputs x s.fab ∧
      edgeComes s.start x = true) ∧
    (∃ (x : ClockEdge) (f : Fab) (g : Fab) (s : State),
      f = fabEdge s.start x ∧
      g = takeInputs x s.fab ∧
      edgeComes s.start x = false) ∧
    (∃ (x : ClockEdge) (f : Fab) (g : Fab) (s : State) (t : Nat),
      f = fabEdge s.start x ∧
      g = takeInputs x s.fab ∧
      t ∈ edgeTiles s.start x ∧
      SMap.wf dFf s.fab.ffs = true) ∧
    (∃ (x : ClockEdge) (f : Fab) (g : Fab) (s : State) (t : Nat),
      f = fabEdge s.start x ∧
      g = takeInputs x s.fab ∧
      t ∉ edgeTiles s.start x ∧
      SMap.wf dFf s.fab.ffs = true) ∧
    (∃ (x : ClockEdge) (f : Fab) (g : Fab) (s : State) (d : Nat),
      f = fabEdge s.start x ∧
      g = takeInputs x s.fab ∧
      x.rising = true ∧
      d ∈ dspsOf s.start x.net ∧
      SMap.wf dDspReg s.fab.dsps = true) ∧
    (∃ (x : ClockEdge) (f : Fab) (g : Fab) (s : State) (d : Nat),
      f = fabEdge s.start x ∧
      g = takeInputs x s.fab ∧
      (x.rising = false ∨ d ∉ dspsOf s.start x.net) ∧
      SMap.wf dDspReg s.fab.dsps = true) ∧
    (∃ (x : ClockEdge) (f : Fab) (g : Fab) (s : State),
      f = fabEdge s.start x ∧
      g = takeInputs x s.fab ∧
      (x.rising = false ∨ ramPorts s.start x.net = [])) ∧
    (∃ (n : Nat) (o : Bool) (oe : Bool) (w : BitVec 8) (u : State) (s : State),
      n ≤ 1023 ∧
      (s.bandOf (portBand n)).state = .on ∧
      u = s.start.setPort n { s.portOf n with rout := o, roe := oe } ∧
      portLatched s.start n = true) ∧
    (∃ (n : Nat) (o : Bool) (oe : Bool) (w : BitVec 8) (u : State) (s : State),
      n ≤ 1023 ∧
      (s.bandOf (portBand n)).state = .on ∧
      u = s.start.setPort n { s.portOf n with rout := o, roe := oe } ∧
      portLatched s.start n = false ∧
      portMode s n ≠ 5) ∧
    (∃ (n : Nat) (o : Bool) (oe : Bool) (w : BitVec 8) (u : State) (s : State),
      n ≤ 1023 ∧
      (s.bandOf (portBand n)).state = .on ∧
      u = s.start.setPort n { s.portOf n with rout := o, roe := oe } ∧
      portLatched s.start n = false ∧
      lvds s.start n = true ∧
      n % 2 = 0 ∧
      portMode s.start n = 5 ∧
      portLive s.start n = true) ∧
    (∃ (n : Nat) (o : Bool) (oe : Bool) (w : BitVec 8) (s : State),
      (1023 < n ∨ (s.bandOf (portBand n)).state ≠ .on)) ∧
    (∃ (m : Nat) (up : Bool) (an : Bool) (fec : Bool) (s : State),
      m < 16 ∧
      macUsed s m = true ∧
      up ≠ (s.macOf m).up ∧
      (up = true → (s.quadOf (ethQuad m)).ref = true) ∧
      ((up = true ∨ s.tbs.source ≠ 2))) ∧
    (∃ (m : Nat) (an : Bool) (fec : Bool) (s : State),
      (s.macOf m).up = false ∧
      (s.quadOf (ethQuad m)).ref = false) ∧
    (∃ (m : Nat) (an : Bool) (fec : Bool) (u : State) (s : State),
      m < 16 ∧
      macUsed s m = true ∧
      (s.macOf m).up = true ∧
      u = ethInt (s.start.setMac m { s.macOf m with up := false, an := false, fec := false }) m 4 ∧
      s.tbs.run = true ∧
      s.tbs.source = 2 ∧
      s.tbs.macPort = m) :=
  ⟨⟨M, 0, R,
     by decide⟩,
   ⟨M, 1, 0, R,
     by decide⟩,
   ⟨0, 0, R,
     by decide⟩,
   ⟨⟨0, true, [], [], []⟩, _, _, { D with clk := { gclk := 1 }, design := { nets := [(0, .port 0)], dsps := [(0, { net := some 0 })] } },
     rfl,
     rfl,
     by decide⟩,
   ⟨⟨0, true, [], [], []⟩, _, _, D,
     rfl,
     rfl,
     by decide⟩,
   ⟨⟨0, true, [{ tile := 5 }], [], []⟩, _, _, { D with clk := { gclk := 1 }, design := { nets := [(0, .port 0)], dsps := [(0, { net := some 0 })] } }, 5,
     rfl,
     rfl,
     by decide,
     by decide⟩,
   ⟨⟨0, true, [], [], []⟩, _, _, { D with clk := { gclk := 1 }, design := { nets := [(0, .port 0)], dsps := [(0, { net := some 0 })] } }, 0,
     rfl,
     rfl,
     by decide,
     by decide⟩,
   ⟨⟨0, true, [], [], []⟩, _, _, { D with clk := { gclk := 1 }, design := { nets := [(0, .port 0)], dsps := [(0, { net := some 0 })] } }, 0,
     rfl,
     rfl,
     by decide,
     by decide,
     by decide⟩,
   ⟨⟨0, false, [], [], []⟩, _, _, { D with clk := { gclk := 1 }, design := { nets := [(0, .port 0)], dsps := [(0, { net := some 0 })] } }, 0,
     rfl,
     rfl,
     Or.inl rfl,
     by decide⟩,
   ⟨⟨0, false, [], [], []⟩, _, _, { D with clk := { gclk := 1 }, design := { nets := [(0, .port 0)], dsps := [(0, { net := some 0 })] } },
     rfl,
     rfl,
     Or.inl rfl⟩,
   ⟨0, false, false, default, _, { D with design := { portFrom := [(0, some 1)] }, cfg := { regions := [(1, { hold := true })] } },
     by decide,
     by decide,
     rfl,
     by decide⟩,
   ⟨0, false, false, default, _, D,
     by decide,
     by decide,
     rfl,
     by decide,
     by decide⟩,
   ⟨0, false, false, default, _, { P { cfg := 0x50000000 } with design := { ports := [(0, { io := { std := .lvds } })] } },
     by decide,
     by decide,
     rfl,
     by decide,
     by decide,
     by decide,
     by decide,
     by decide⟩,
   ⟨1024, false, false, default, R,
     Or.inl (by decide)⟩,
   ⟨0, true, false, false, { E {} with xcv := { quads := [(4, { ref := true })] } },
     by decide,
     by decide,
     by decide,
     by decide,
     Or.inl rfl⟩,
   ⟨0, false, false, E {},
     by decide,
     by decide⟩,
   ⟨0, false, false, _, { E { up := true } with tbs := { run := true, source := 2 } },
     by decide,
     by decide,
     by decide,
     rfl,
     by decide,
     by decide,
     by decide⟩⟩

/-- States and operands that meet the hypotheses of each clause of StepRunsFront. -/
theorem reach_StepRunsFront :
    (∃ (c : Instr) (rest : List Instr) (s : State),
      s.pending = c :: rest) ∧
    (∃ (s : State),
      s.pending = []) :=
  ⟨⟨.idcode, [], { R with pending := [.idcode] },
     by decide⟩,
   ⟨R,
     by decide⟩⟩

/-- States and operands that meet the hypotheses of each clause of OtpOneWay. -/
theorem reach_OtpOneWay :
    (∃ (s : State) (t : State),
      OtpWf s ∧
      step s = .next t) ∧
    (∃ (c : Instr) (s : State) (t : State),
      exec c s = .next t ∧
      c ≠ .supplyLoss ∧
      (∀ m r v, c ≠ .bootStart m r v) ∧
      c ≠ .otpRunEnd ∧
      (∀ p, c ≠ .keyLoad p)) :=
  ⟨⟨R, _,
     by unfold OtpWf; decide,
     rfl⟩,
   ⟨.idcode, R, _,
     rfl,
     by simp,
     by simp,
     by simp,
     by simp⟩⟩

/-- A state and operands that meet the hypotheses of StepInvariant. -/
theorem reach_StepInvariant :
    (∃ (s : State) (t : State),
      (LcOk s ∧ MemWf s ∧ OtpWf s) ∧
      step s = .next t) :=
  ⟨R, _,
     ⟨Or.inl (by decide), ⟨by decide, by decide⟩, by unfold OtpWf; decide⟩,
     rfl⟩

/-- States and operands that meet the hypotheses of each clause of MailboxChecks. -/
theorem reach_MailboxChecks :
    (∃ (x : Nat × Instr × Issuer) (d : Nat) (bs : List Byte) (s : State),
      x ∈ [(0x0001, .identify d, .any), (0x0003, .getReport d, .any), (0x0004, .setPolicy d, .lead), (0x0005, .getPolicy d, .any), (0x0006, .resetDomain d, .h), (0x0101, .claimRegion d, .h), (0x0102, .releaseRegion d, .owner), (0x0103, .setFirewall d, .h), (0x0104, .setHostLossPolicy d, .h), (0x0201, .loadImage d, .any), (0x0202, .loadPartial d, .any), (0x0203, .prepareSwap d, .owner), (0x0204, .commitSwap d, .owner), (0x0205, .abortSwap d, .owner), (0x0206, .readbackRegion d, .h), (0x0207, .storeImage d bs, .any), (0x0208, .selectImage d, .any), (0x0209, .storePartial d bs, .any), (0x020A, .wrapKey d, .h), (0x0301, .nvProtect d, .any), (0x0302, .nvUnlock d, .any), (0x0303, .nvSetPassword d, .any), (0x0304, .nvRefreshScan d, .any), (0x0305, .nvGrantUrgent d, .lead), (0x0401, .nocMuzzle d, .owner), (0x0402, .nocRehabilitate d, .owner), (0x0403, .nocRemap d, .owner), (0x0404, .nocRouteUpdate d, .lead), (0x0501, .uanStartRing d, .owner), (0x0502, .uanStopRing d, .owner), (0x0503, .uanGetTopology d, .owner), (0x0504, .uanAssign d, .owner), (0x0505, .uanSafe d, .owner), (0x0601, .pwrRequestState d, .owner), (0x0602, .pwrSetSentry d, .lead), (0x0603, .pwrGetAccounting d, .any), (0x0701, .timeSet d, .lead), (0x0702, .timeDiscipline d, .lead), (0x0801, .bistSchedule d, .owner), (0x0802, .bistRun d, .owner), (0x0803, .bistGetResult d, .any), (0x0901, .lcTransition d, .h), (0x0902, .dbgChallenge d, .h), (0x0903, .dbgGrant d, .h), (0x0904, .dbgRevoke d, .h)] ∧
      mayTake s d = true ∧
      (frontEntry s d).op = x.1 ∧
      running? s ⟨d, (frontEntry s d).tag⟩ = none ∧
      issuerOk s d x.2.2 = false) ∧
    (∃ (x : Nat × Instr × Issuer) (d : Nat) (bs : List Byte) (s : State),
      x ∈ [(0x0001, .identify d, .any), (0x0003, .getReport d, .any), (0x0004, .setPolicy d, .lead), (0x0005, .getPolicy d, .any), (0x0006, .resetDomain d, .h), (0x0101, .claimRegion d, .h), (0x0102, .releaseRegion d, .owner), (0x0103, .setFirewall d, .h), (0x0104, .setHostLossPolicy d, .h), (0x0201, .loadImage d, .any), (0x0202, .loadPartial d, .any), (0x0203, .prepareSwap d, .owner), (0x0204, .commitSwap d, .owner), (0x0205, .abortSwap d, .owner), (0x0206, .readbackRegion d, .h), (0x0207, .storeImage d bs, .any), (0x0208, .selectImage d, .any), (0x0209, .storePartial d bs, .any), (0x020A, .wrapKey d, .h), (0x0301, .nvProtect d, .any), (0x0302, .nvUnlock d, .any), (0x0303, .nvSetPassword d, .any), (0x0304, .nvRefreshScan d, .any), (0x0305, .nvGrantUrgent d, .lead), (0x0401, .nocMuzzle d, .owner), (0x0402, .nocRehabilitate d, .owner), (0x0403, .nocRemap d, .owner), (0x0404, .nocRouteUpdate d, .lead), (0x0501, .uanStartRing d, .owner), (0x0502, .uanStopRing d, .owner), (0x0503, .uanGetTopology d, .owner), (0x0504, .uanAssign d, .owner), (0x0505, .uanSafe d, .owner), (0x0601, .pwrRequestState d, .owner), (0x0602, .pwrSetSentry d, .lead), (0x0603, .pwrGetAccounting d, .any), (0x0701, .timeSet d, .lead), (0x0702, .timeDiscipline d, .lead), (0x0801, .bistSchedule d, .owner), (0x0802, .bistRun d, .owner), (0x0803, .bistGetResult d, .any), (0x0901, .lcTransition d, .h), (0x0902, .dbgChallenge d, .h), (0x0903, .dbgGrant d, .h), (0x0904, .dbgRevoke d, .h)] ∧
      mayTake s d = true ∧
      (frontEntry s d).op = x.1 ∧
      running? s ⟨d, (frontEntry s d).tag⟩ = none ∧
      issuerOk s d x.2.2 = true ∧
      lcPermits s.lcs.state x.1 = false) ∧
    (∃ (x : Nat × Instr × Issuer) (d : Nat) (bs : List Byte) (s : State),
      x ∈ [(0x0001, .identify d, .any), (0x0003, .getReport d, .any), (0x0004, .setPolicy d, .lead), (0x0005, .getPolicy d, .any), (0x0006, .resetDomain d, .h), (0x0101, .claimRegion d, .h), (0x0102, .releaseRegion d, .owner), (0x0103, .setFirewall d, .h), (0x0104, .setHostLossPolicy d, .h), (0x0201, .loadImage d, .any), (0x0202, .loadPartial d, .any), (0x0203, .prepareSwap d, .owner), (0x0204, .commitSwap d, .owner), (0x0205, .abortSwap d, .owner), (0x0206, .readbackRegion d, .h), (0x0207, .storeImage d bs, .any), (0x0208, .selectImage d, .any), (0x0209, .storePartial d bs, .any), (0x020A, .wrapKey d, .h), (0x0301, .nvProtect d, .any), (0x0302, .nvUnlock d, .any), (0x0303, .nvSetPassword d, .any), (0x0304, .nvRefreshScan d, .any), (0x0305, .nvGrantUrgent d, .lead), (0x0401, .nocMuzzle d, .owner), (0x0402, .nocRehabilitate d, .owner), (0x0403, .nocRemap d, .owner), (0x0404, .nocRouteUpdate d, .lead), (0x0501, .uanStartRing d, .owner), (0x0502, .uanStopRing d, .owner), (0x0503, .uanGetTopology d, .owner), (0x0504, .uanAssign d, .owner), (0x0505, .uanSafe d, .owner), (0x0601, .pwrRequestState d, .owner), (0x0602, .pwrSetSentry d, .lead), (0x0603, .pwrGetAccounting d, .any), (0x0701, .timeSet d, .lead), (0x0702, .timeDiscipline d, .lead), (0x0801, .bistSchedule d, .owner), (0x0802, .bistRun d, .owner), (0x0803, .bistGetResult d, .any), (0x0901, .lcTransition d, .h), (0x0902, .dbgChallenge d, .h), (0x0903, .dbgGrant d, .h), (0x0904, .dbgRevoke d, .h)] ∧
      mayTake s d = true ∧
      (frontEntry s d).op = x.1 ∧
      running? s ⟨d, (frontEntry s d).tag⟩ = none ∧
      issuerOk s d x.2.2 = true ∧
      lcPermits s.lcs.state x.1 = true ∧
      s.boot.done = false ∧
      preDone s x.1 = false) :=
  ⟨⟨(0x0004, .setPolicy 0, .lead), 0, [], mb 0x0004 [] D,
     by simp,
     by decide,
     by decide,
     by decide,
     by decide⟩,
   ⟨(0x0101, .claimRegion 0, .h), 0, [], mb 0x0101 [] { D with lcs := { state := 5 } },
     by simp,
     by decide,
     by decide,
     by decide,
     by decide,
     by decide⟩,
   ⟨(0x0101, .claimRegion 0, .h), 0, [], mb 0x0101 [] { D with boot := { D.boot with done := false, phase := .unconfigured } },
     by simp,
     by decide,
     by decide,
     by decide,
     by decide,
     by decide,
     by decide,
     by decide⟩⟩

/-- States and operands that meet the hypotheses of each clause of SwapIssuers. -/
theorem reach_SwapIssuers :
    (∃ (d : Nat) (op : Nat) (t : Nat) (i : Instr) (res : List Word) (c : RunCmd) (u : State) (s : State),
      (op, i, res) ∈ [(0x0203, .prepareSwap d, [0xFF]), (0x0204, .commitSwap d, []), (0x0205, .abortSwap d, [])] ∧
      served s d op .owner ∧
      u = servedState s d ∧
      c = frontEntry s d ∧
      t = targetId c ∧
      t ≠ 15 ∧
      (∃ r ∈ members u t, u.owner r ≠ cmdOwner c)) ∧
    (∃ (d : Nat) (op : Nat) (t : Nat) (i : Instr) (res : List Word) (c : RunCmd) (u : State) (s : State),
      (op, i, res) ∈ [(0x0203, .prepareSwap d, [0xFF]), (0x0204, .commitSwap d, []), (0x0205, .abortSwap d, [])] ∧
      served s d op .owner ∧
      u = servedState s d ∧
      c = frontEntry s d ∧
      t = targetId c ∧
      t ≠ 15 ∧
      (∀ r ∈ members u t, u.owner r = cmdOwner c) ∧
      ((t < 15 ∧ members u t = []) ∨ (256 ≤ t ∧ ((u.regionOf (t - 256)).groupEn = true ∨ (t - 256 < 128 ∧ u.rects (t - 256) = []))))) :=
  ⟨⟨0, 0x0203, _, .prepareSwap 0, [0xFF], _, _, mb 0x0203 [0x101] { G .prepared {} with ten := [(1, .h1)] },
     List.Mem.head _,
     ⟨by decide, by decide, by decide, by decide, by decide, Or.inl (by decide)⟩,
     rfl,
     rfl,
     rfl,
     by decide,
     ⟨1, by decide, by decide⟩⟩,
   ⟨0, 0x0203, _, .prepareSwap 0, [0xFF], _, _, mb 0x0203 [3] D,
     List.Mem.head _,
     ⟨by decide, by decide, by decide, by decide, by decide, Or.inl (by decide)⟩,
     rfl,
     rfl,
     rfl,
     by decide,
     by decide,
     Or.inl (by decide)⟩⟩

set_option maxRecDepth 100000 in
/-- States and operands that meet the hypotheses of each clause of StatePatterns. -/
theorem reach_StatePatterns :
    (∃ (p : Nat × Word) (m : SMap Word) (k1 : BitVec 256) (k2 : BitVec 256),
      p ∈ [(0, 0x00000000#32), (1, 0x00000033#32), (2, 0x00003333#32), (3, 0x00333333#32), (4, 0x33333333#32), (5, 0xFFFFFFFF#32)] ∧
      (∀ w < 8, SMap.get dWord m w = p.2)) ∧
    (∃ (m : SMap Word) (k1 : BitVec 256) (k2 : BitVec 256),
      (∀ w < 8, SMap.get dWord m w = 0) ∧
      keysBlank m k1 k2 = true ∧
      hashBlank m = true ∧
      SMap.get dWord m 23 = 0) ∧
    (∃ (m : SMap Word) (k1 : BitVec 256) (k2 : BitVec 256),
      (∀ w < 8, SMap.get dWord m w = 0x33) ∧
      (keysBlank m k1 k2 = true ∨ keysGood m k1 k2 = true) ∧
      hashBlank m = true ∧
      SMap.get dWord m 23 = 0) ∧
    (∃ (m : SMap Word) (k1 : BitVec 256) (k2 : BitVec 256),
      (∀ w < 8, SMap.get dWord m w = 0x3333) ∧
      keysGood m k1 k2 = true ∧
      hashBlank m = true ∧
      SMap.get dWord m 23 = 0) ∧
    (∃ (m : SMap Word) (k1 : BitVec 256) (k2 : BitVec 256),
      (∀ w < 8, SMap.get dWord m w = 0x333333) ∧
      keysGood m k1 k2 = true ∧
      hashMatches m = true ∧
      (SMap.get dWord m 23 = 0 ∨ SMap.get dWord m 23 = 0xFFFFFFFF)) ∧
    (∃ (m : SMap Word) (k1 : BitVec 256) (k2 : BitVec 256),
      (∀ w < 8, SMap.get dWord m w = 0x33333333) ∧
      keysGood m k1 k2 = true ∧
      hashMatches m = true ∧
      SMap.get dWord m 23 = 0xFFFFFFFF) ∧
    (∃ (m : SMap Word) (k1 : BitVec 256) (k2 : BitVec 256),
      (∀ w < 8, SMap.get dWord m w = 0xFFFFFFFF) ∧
      keysGone m k1 k2 = true) ∧
    (∃ (m : SMap Word) (k1 : BitVec 256) (k2 : BitVec 256),
      (¬ ∃ p ∈ [0x00000000#32, 0x00000033#32, 0x00003333#32, 0x00333333#32, 0x33333333#32, 0xFFFFFFFF#32], ∀ w < 8, SMap.get dWord m w = p)) ∧
    (∃ (k : Nat),
      k < 5) :=
  ⟨⟨(0, 0), [], 0, 0,
     by decide,
     by decide⟩,
   ⟨[], 0, 0,
     by decide,
     by decide,
     by decide,
     by decide⟩,
   ⟨om 0x33 0 0, 1, 1,
     by decide,
     Or.inr (om_good _ _ _),
     by decide,
     by decide⟩,
   ⟨om 0x3333 0 0, 1, 1,
     by decide,
     om_good _ _ _,
     by decide,
     by decide⟩,
   ⟨om 0x333333 (crc32c (List.replicate 48 0)) 0, 1, 1,
     by decide,
     om_good _ _ _,
     by decide +kernel,
     Or.inl (by decide)⟩,
   ⟨om 0x33333333 (crc32c (List.replicate 48 0)) 0xFFFFFFFF, 1, 1,
     by decide,
     om_good _ _ _,
     by decide +kernel,
     by decide⟩,
   ⟨(List.range 24).map fun i => (i, 0xFFFFFFFF), ones256, ones256,
     by decide,
     by unfold keysGone; exact Bool.and_eq_true_iff.2 ⟨Bool.and_eq_true_iff.2 ⟨Bool.and_eq_true_iff.2 ⟨beq_self_eq_true _, beq_self_eq_true _⟩, by decide⟩, by decide⟩⟩,
   ⟨[(0, 1)], 0, 0,
     fun ⟨_, _, h⟩ => absurd ((h 0 (by decide)).trans (h 1 (by decide)).symm) (by decide)⟩,
   ⟨0,
     by decide⟩⟩

set_option maxRecDepth 100000 in
/-- States and operands that meet the hypotheses of each clause of FrameAddressAdvances. -/
theorem reach_FrameAddressAdvances :
    (∃ (band : Nat) (col : Nat) (minor : Nat),
      band < 16 ∧
      col ≤ 558 ∧
      minor < frameCount col ∧
      minor + 1 < frameCount col) ∧
    (∃ (band : Nat) (col : Nat) (minor : Nat),
      band < 16 ∧
      col ≤ 558 ∧
      minor < frameCount col ∧
      minor + 1 = frameCount col ∧
      col < 558) ∧
    (∃ (band : Nat) (col : Nat) (minor : Nat),
      band < 16 ∧
      col ≤ 558 ∧
      minor < frameCount col ∧
      farValid (wd (nextAddr (wd (farWord (frameKey band col minor) false)))) = true) ∧
    (∃ (ld : Nat) (w : Word) (fr : List Word) (rest : List (List Word)) (s : State),
      w = wd ((s.loadOf ld).far.getD 0) ∧
      addrCheck s (s.loadOf ld) w = .ok ∧
      (isContent (w.toNat / 256) = false ∨ (s.loadOf ld).full = true ∨ (s.loadOf ld).direct = true) ∧
      nth fr 128 = crc32c (wordBytes (fr.take 128))) ∧
    (∃ (ld : Nat) (w : Word) (sig : Word) (rest : List Word) (p : Plane) (s : State),
      w = wd ((s.loadOf ld).far.getD 0) ∧
      addrCheck s (s.loadOf ld) w = .ok ∧
      isContent (w.toNat / 256) = false ∧
      p = (s.frameOf (w.toNat / 256)).active ∧
      sig = p.sig ∧
      planeBad p = false ∧
      crc32c (wordBytes (planeRead p)) = p.sig) :=
  ⟨⟨0, 1, 0,
     by decide,
     by decide,
     by decide,
     by decide⟩,
   ⟨15, 557, frameCount 557 - 1,
     by decide,
     by decide,
     by decide,
     by decide,
     by decide⟩,
   ⟨0, 0, 0,
     by decide,
     by decide,
     by decide,
     by decide⟩,
   ⟨0, _, List.replicate 128 0 ++ [0x30FCEDC0], [], farState,
     rfl,
     by decide +kernel,
     Or.inl (by decide),
     by decide +kernel⟩,
   ⟨0, _, _, [], _, farState,
     rfl,
     by decide +kernel,
     by decide,
     rfl,
     rfl,
     by decide +kernel,
     by decide +kernel⟩⟩

/-- States and operands that meet the hypotheses of each clause of WindowZeroByDwords. -/
theorem reach_WindowZeroByDwords :
    (∃ (p : Nat) (addr : Nat) (a : Nat) (s : State) (n : Nat),
      p < 4 ∧
      (s.pciOf p).up = true ∧
      (s.pciOf p).d3 = false ∧
      sleepNear s = false ∧
      a = addr / 4 * 4 % 0x1000000) ∧
    (∃ (p : Nat) (addr : Nat) (a : Nat) (s : State) (ws : List (Word × Bool)),
      p < 4 ∧
      (s.pciOf p).up = true ∧
      (s.pciOf p).d3 = false ∧
      sleepNear s = false ∧
      a = addr / 4 * 4 % 0x1000000) :=
  ⟨⟨0, 0xFFFFFF, _, D, 0,
     by decide,
     by decide,
     by decide,
     by decide,
     rfl⟩,
   ⟨0, 0xFFFFFF, _, D, [],
     by decide,
     by decide,
     by decide,
     by decide,
     rfl⟩⟩

end Sys2Proof.Tests
end

section
/-! PROOF. The logic fabric at an edge of a user clock net, writes in CSR space, a port's fabric output and the link of a MAC,
and with them the statement FabricAndRegisters. -/
namespace Sys2Proof.Machine
open Sys2Proof

/-! ## A sparse array written at every index of a list -/

/-- A write of each index of a list, of a value that depends on the index alone, is seen at those indices and at no other. -/
theorem SMap.get_foldl_set {α : Type} [DecidableEq α] {dflt : Nat → α} (v : Nat → α) (k : Nat) :
    ∀ (l : List Nat) {m : SMap α}, SMap.wf dflt m = true →
      SMap.get dflt (l.foldl (fun m j => SMap.set dflt m j (v j)) m) k = if k ∈ l then v k else SMap.get dflt m k
  | [], _, _ => by simp
  | j :: l, m, h => by
    rw [List.foldl_cons, SMap.get_foldl_set v k l (SMap.wf_set j (v j) h)]
    by_cases hkj : k = j
    · subst hkj; simp
    · simp [hkj, SMap.get_set_ne (v j) hkj h]

/-! ## The storage of the fabric after an edge -/

/-- The accesses of the block RAM ports leave the flip-flops alone. -/
theorem foldl_ramEdge_ffs (s : State) (ram0 : SMap (BitVec 72)) (near : Nat → Nat) (l : List Nat) (f : Fab) :
    (l.foldl (ramEdge s ram0 near) f).ffs = f.ffs :=
  foldl_proj Fab.ffs (g := ramEdge s ram0 near) (fun _ _ => rfl) l f

/-- The flip-flops after an edge of either direction (R44). -/
theorem fabEdge_ffs (s : State) (x : ClockEdge) :
    (fabEdge s x).ffs = (edgeTiles s x).foldl
      (fun m t => SMap.set dFf m t (tileEdge s x.net x.rising (takeInputs x s.fab) t)) s.fab.ffs := by
  unfold fabEdge
  dsimp only
  split
  · exact foldl_ramEdge_ffs ..
  · rfl

/-- The registers of the DSP blocks after a rising edge (R59). -/
theorem fabEdge_dsps_of_rising (s : State) {x : ClockEdge} (h : x.rising = true) :
    (fabEdge s x).dsps = (dspsOf s x.net).foldl (fun m d => SMap.set dDspReg m d
      (dspNext (SMap.get dDspCfg s.design.dsps d) (SMap.get dDspIn (takeInputs x s.fab).dspIn d)
        (dspView s (takeInputs x s.fab) d).1 (SMap.get dDspReg s.fab.dsps d))) s.fab.dsps := by
  unfold fabEdge
  rw [if_pos h]
  rfl

/-- A falling edge moves neither the block RAMs nor the DSP blocks (R49, R59). -/
theorem fabEdge_of_falling (s : State) {x : ClockEdge} (h : x.rising = false) :
    (fabEdge s x).dsps = s.fab.dsps ∧ (fabEdge s x).ram = s.fab.ram ∧ (fabEdge s x).ports = s.fab.ports := by
  unfold fabEdge
  rw [if_neg (by simp [h])]
  exact ⟨rfl, rfl, rfl⟩

theorem fabEdge_ram_of_noPorts (s : State) {x : ClockEdge} (h : ramPorts s x.net = []) :
    (fabEdge s x).ram = s.fab.ram ∧ (fabEdge s x).ports = s.fab.ports := by
  unfold fabEdge
  rw [h]
  dsimp only
  split <;> exact ⟨rfl, rfl⟩

/-- A tile after an edge: those that the edge concerns take what they were given, the others hold (R44). -/
theorem get_fabEdge_ffs (s : State) (x : ClockEdge) (t : Nat) (h : SMap.wf dFf s.fab.ffs = true) :
    SMap.get dFf (fabEdge s x).ffs t =
      if t ∈ edgeTiles s x then tileEdge s x.net x.rising (takeInputs x s.fab) t else SMap.get dFf s.fab.ffs t := by
  rw [fabEdge_ffs]
  exact SMap.get_foldl_set _ t _ h

/-- A DSP block after a rising edge: those on the net take what they were given, the others hold (R59). -/
theorem get_fabEdge_dsps_of_rising (s : State) {x : ClockEdge} (d : Nat) (h : x.rising = true)
    (hw : SMap.wf dDspReg s.fab.dsps = true) :
    SMap.get dDspReg (fabEdge s x).dsps d =
      if d ∈ dspsOf s x.net then
        dspNext (SMap.get dDspCfg s.design.dsps d) (SMap.get dDspIn (takeInputs x s.fab).dspIn d)
          (dspView s (takeInputs x s.fab) d).1 (SMap.get dDspReg s.fab.dsps d)
      else SMap.get dDspReg s.fab.dsps d := by
  rw [fabEdge_dsps_of_rising s h]
  exact SMap.get_foldl_set (fun d => dspNext _ _ _ _) d _ hw

/-- A DSP block that no rising edge reaches holds. -/
theorem get_fabEdge_dsps_of_unreached (s : State) {x : ClockEdge} {d : Nat} (h : x.rising = false ∨ d ∉ dspsOf s x.net)
    (hw : SMap.wf dDspReg s.fab.dsps = true) :
    SMap.get dDspReg (fabEdge s x).dsps d = SMap.get dDspReg s.fab.dsps d := by
  cases hr : x.rising with
  | false => rw [(fabEdge_of_falling s hr).1]
  | true =>
    have hd : d ∉ dspsOf s x.net := h.resolve_left (by simp [hr])
    rw [get_fabEdge_dsps_of_rising s d hr hw, if_neg hd]

/-- The block RAMs keep their contents and their ports at an edge that no port takes. -/
theorem fabEdge_ram_of_unreached (s : State) {x : ClockEdge} (h : x.rising = false ∨ ramPorts s x.net = []) :
    (fabEdge s x).ram = s.fab.ram ∧ (fabEdge s x).ports = s.fab.ports := by
  obtain hr | hn := h
  · exact (fabEdge_of_falling s hr).2
  · exact fabEdge_ram_of_noPorts s hn

/-- An edge that comes, of a command that begins with no outputs. -/
theorem userClockEdge_of_comes (s : State) {x : ClockEdge} (h : edgeComes s.start x = true) :
    userClockEdge x s.start = { s.start with
      fab := fabEdge s.start x, free := s.free + 24576, out := edgeOuts s.start x (fabEdge s.start x),
      clk := { s.clk with high := SMap.set (fun _ => false) s.clk.high x.net x.rising } } := by
  unfold userClockEdge
  rw [if_pos h]
  rfl

theorem userClockEdge_of_not_comes {s : State} {x : ClockEdge} (h : edgeComes s x = false) : userClockEdge x s = s := by
  unfold userClockEdge
  rw [if_neg (by simp [h])]

/-- The next state of a USER_CLOCK_EDGE, from what the edge does. -/
theorem exec_userClockEdge_eq {x : ClockEdge} {s u : State} (h : userClockEdge x s.start = u) :
    exec (.userClockEdge x) s = .next (interrupts s u) :=
  done_eq (f := userClockEdge x) h

/-! ## Writes in CSR space (R474, R475) -/

/-- Every accessor but HS reaches every page. -/
theorem csrReaches_of_ne {acc : Accessor} (h : acc ≠ .dom .hs) (page : Nat) : csrReaches acc page = true := by
  simp [csrReaches, h]

/-- A write at a misaligned address, or at a page that the accessor's path does not reach. -/
theorem csrWrite_of_stopped {acc : Accessor} {a : Nat} (v : Word) (s : State)
    (h : a % 4 ≠ 0 ∨ csrReaches acc (a / 0x10000) = false) : csrWrite acc a v s = s := by
  unfold csrWrite
  dsimp only
  rw [if_pos]
  obtain h | h := h <;> simp [h]

/-- No block stands above page 0x13 (R474). -/
theorem csrWrite_of_unmapped {acc : Accessor} {a : Nat} (v : Word) (s : State) (h : 0x13 < a / 0x10000) :
    csrWrite acc a v s = s := by
  obtain ⟨p, hp⟩ : ∃ p, a / 0x10000 = p + 0x14 := ⟨a / 0x10000 - 0x14, by omega⟩
  unfold csrWrite
  rw [hp]
  dsimp only
  split <;> rfl

section
variable {acc : Accessor} (h : acc ≠ .dom .hs) {off : Nat} (h4 : off % 4 = 0) (ho : off < 0x10000) (v : Word) (s : State)
include h h4 ho

theorem csrWrite_glb : csrWrite acc off v s = glbWrite acc off v s := by
  have hp : off / 0x10000 = 0 := by omega
  have hm : off % 0x10000 = off := by omega
  simp [csrWrite, csrReaches_of_ne h, jtagMay, h4, hp, hm]

theorem csrWrite_pwr : csrWrite acc (0xC0000 + off) v s = pwrWrite acc off v s := by
  have ha : (0xC0000 + off) % 4 = 0 := by omega
  have hp : (0xC0000 + off) / 0x10000 = 0xC := by omega
  have hm : (0xC0000 + off) % 0x10000 = off := by omega
  simp [csrWrite, csrReaches_of_ne h, jtagMay, ha, hp, hm]

theorem csrWrite_lcs : csrWrite acc (0x100000 + off) v s = lcsWrite acc off v s := by
  have ha : (0x100000 + off) % 4 = 0 := by omega
  have hp : (0x100000 + off) / 0x10000 = 0x10 := by omega
  have hm : (0x100000 + off) % 0x10000 = off := by omega
  simp [csrWrite, csrReaches_of_ne h, jtagMay, ha, hp, hm]

end

/-- The next state of a REGISTER_WRITE, from what the write does. -/
theorem exec_registerWrite_eq {acc : Accessor} {a : Nat} {v : Word} {s u : State} (h : csrWrite acc a v s.start = u) :
    exec (.registerWrite acc a v) s = .next (interrupts s u) :=
  done_eq (f := csrWrite acc a v) h

/-! ## A port's fabric output (R142, R238, R242) -/

/-- The state after a port's fabric output has changed, before the engine sees it. -/
def routed (s : State) (n : Nat) (o oe : Bool) : State := s.setPort n { s.portOf n with rout := o, roe := oe }

section
variable {n : Nat} (o oe : Bool) (w : BitVec 8) {s : State}

/-- What the fabric of a band that is not ON drives reaches no port. -/
theorem fpOutChange_of_off (h : 1023 < n ∨ (s.bandOf (portBand n)).state ≠ .on) : fpOutChange n o oe w s = s := by
  unfold fpOutChange
  rw [if_pos]
  simpa using h

variable (hn : n ≤ 1023) (hb : (s.bandOf (portBand n)).state = .on)
include hn hb

theorem fpOutChange_of_on : fpOutChange n o oe w s =
    if portLatched s n then routed s n o oe
    else if lvds s n && n % 2 = 0 && portMode s n = 5 && portLive s n then
      ((routed s n o oe).setPort n { (routed s n o oe).portOf n with ser := w, fout := o, foe := oe }).emit
        (.wire "lvds_out" n w.toNat)
    else takeOut (routed s n o oe) n o oe := by
  unfold fpOutChange
  rw [if_neg (by simp [hb]; omega)]
  rfl

/-- A boundary latch holds the change back from the engine. -/
theorem fpOutChange_of_latched (hl : portLatched s n = true) : fpOutChange n o oe w s = routed s n o oe := by
  rw [fpOutChange_of_on o oe w hn hb, if_pos hl]

/-- Outside RAW mode the engine takes the levels. -/
theorem fpOutChange_of_not_raw (hl : portLatched s n = false) (hm : portMode s n ≠ 5) :
    fpOutChange n o oe w s = takeOut (routed s n o oe) n o oe := by
  rw [fpOutChange_of_on o oe w hn hb, if_neg (by simp [hl]), if_neg (by simp [hm])]

/-- The even port of a RAW LVDS pair takes the word for its serialiser (R232). -/
theorem fpOutChange_of_serial (hl : portLatched s n = false) (hv : lvds s n = true) (he : n % 2 = 0)
    (hm : portMode s n = 5) (hp : portLive s n = true) :
    fpOutChange n o oe w s =
      ((routed s n o oe).setPort n { (routed s n o oe).portOf n with ser := w, fout := o, foe := oe }).emit
        (.wire "lvds_out" n w.toNat) := by
  rw [fpOutChange_of_on o oe w hn hb, if_neg (by simp [hl]), if_pos (by simp [hv, he, hm, hp])]

end

/-- The next state of an FP_OUT_CHANGE, from what the change does. -/
theorem exec_fpOutChange_eq {n : Nat} {o oe : Bool} {w : BitVec 8} {s u : State} (h : fpOutChange n o oe w s.start = u) :
    exec (.fpOutChange n o oe w) s = .next (interrupts s u) :=
  done_eq (f := fpOutChange n o oe w) h

/-! ## The link of a MAC (R333, R346) -/

/-- The state after the link of a MAC has changed, before the timebase sees it. -/
def linked (s : State) (m : Nat) (up an fec : Bool) : State :=
  ethInt (s.setMac m { s.macOf m with up := up, an := an && up, fec := fec && up }) m 4

/-- A link stays down without its quad's reference. -/
theorem ethLinkChange_of_no_ref {m : Nat} (an fec : Bool) {s : State} (hr : (s.quadOf (ethQuad m)).ref = false) :
    ethLinkChange m true an fec s = s := by
  unfold ethLinkChange
  rw [if_neg (by simp [hr])]

section
variable {m : Nat} {up : Bool} (an fec : Bool) {s : State} (hm : m < 16) (hu : macUsed s m = true)
include hm hu

theorem ethLinkChange_of_change (hc : up ≠ (s.macOf m).up) (hr : up = true → (s.quadOf (ethQuad m)).ref = true) :
    ethLinkChange m up an fec s =
      if !up && s.tbs.run && s.tbs.source = 2 && s.tbs.macPort = m then holdover (linked s m up an fec)
      else linked s m up an fec := by
  have hq : (!up || (s.quadOf (ethQuad m)).ref) = true := by
    cases up with
    | false => rfl
    | true => exact hr rfl
  unfold ethLinkChange
  rw [if_pos (by simp [hm, hu, hc, hq])]
  rfl

/-- A link that comes up, or one that does not discipline the timebase, changes alone. -/
theorem ethLinkChange_of_undisciplining (hc : up ≠ (s.macOf m).up)
    (hr : up = true → (s.quadOf (ethQuad m)).ref = true) (hd : up = true ∨ s.tbs.source ≠ 2) :
    ethLinkChange m up an fec s = linked s m up an fec := by
  rw [ethLinkChange_of_change an fec hm hu hc hr, if_neg]
  obtain hd | hd := hd <;> simp [hd]

/-- The loss of the link that disciplines the timebase puts it in HOLDOVER (Table 8.15). -/
theorem ethLinkChange_of_disciplining_loss (hl : (s.macOf m).up = true) (hrun : s.tbs.run = true)
    (hsrc : s.tbs.source = 2) (hport : s.tbs.macPort = m) :
    ethLinkChange m false an fec s = holdover (linked s m false an fec) := by
  rw [ethLinkChange_of_change an fec hm hu (by simp [hl]) (by simp), if_pos (by simp [hrun, hsrc, hport])]

end

/-- The next state of an ETH_LINK_CHANGE, from what the change does. -/
theorem exec_ethLinkChange_eq {m : Nat} {up an fec : Bool} {s u : State} (h : ethLinkChange m up an fec s.start = u) :
    exec (.ethLinkChange m up an fec) s = .next (interrupts s u) :=
  done_eq (f := ethLinkChange m up an fec) h

/-! ## FabricAndRegisters -/

/-- Settles O52: each clause is the equation of its command's effect, or of one element of the fabric after an edge. -/
theorem fabricAndRegisters : Obligations.FabricAndRegisters := by
  unfold Obligations.FabricAndRegisters
  refine ⟨fun acc v s h => ⟨?_, ?_, ?_, ?_⟩, fun acc a v s h => ?_, fun a v s h => ?_, ?_, ?_,
    fun n o oe w s h => ?_, fun m up an fec s hm hu hc hr hd => ?_, fun m an fec s _ hr => ?_, ?_⟩
  · exact exec_registerWrite_eq (csrWrite_glb h (off := 0x28) rfl (by decide) v s.start)
  · exact exec_registerWrite_eq (csrWrite_pwr h (off := 0x14) rfl (by decide) v s.start)
  · exact exec_registerWrite_eq (csrWrite_pwr h (off := 0x30) rfl (by decide) v s.start)
  · exact exec_registerWrite_eq (csrWrite_lcs h (off := 0x24) rfl (by decide) v s.start)
  · obtain h | h := h
    · exact exec_registerWrite_eq (csrWrite_of_stopped v s.start (.inl h))
    · exact exec_registerWrite_eq (csrWrite_of_unmapped v s.start h)
  · exact exec_registerWrite_eq (csrWrite_of_stopped v s.start (.inr (by simpa [csrReaches] using h)))
  · rintro x f g s rfl rfl
    exact ⟨fun h => exec_userClockEdge_eq (userClockEdge_of_comes s h),
      fun h => exec_userClockEdge_eq (userClockEdge_of_not_comes h),
      fun t ht hw => (get_fabEdge_ffs s.start x t hw).trans (if_pos ht),
      fun t ht hw => (get_fabEdge_ffs s.start x t hw).trans (if_neg ht),
      fun hr d hd hw => (get_fabEdge_dsps_of_rising s.start d hr hw).trans (if_pos hd),
      fun d hd hw => get_fabEdge_dsps_of_unreached s.start hd hw,
      fabEdge_ram_of_unreached s.start⟩
  · rintro n o oe w u s hn hb rfl
    exact ⟨fun hl => exec_fpOutChange_eq (fpOutChange_of_latched o oe w hn hb hl),
      fun hl hm => exec_fpOutChange_eq (fpOutChange_of_not_raw o oe w hn hb hl hm),
      fun hl hv he hm hp => exec_fpOutChange_eq (fpOutChange_of_serial o oe w hn hb hl hv he hm hp)⟩
  · exact exec_fpOutChange_eq (fpOutChange_of_off o oe w h)
  · exact exec_ethLinkChange_eq (ethLinkChange_of_undisciplining an fec hm hu hc hr hd)
  · exact exec_ethLinkChange_eq (ethLinkChange_of_no_ref an fec hr)
  · rintro m an fec u s hm hu hl rfl hrun hsrc hport
    rw [exec_ethLinkChange_eq (ethLinkChange_of_disciplining_loss an fec hm hu hl hrun hsrc hport)]
    simp [linked]

end Sys2Proof.Machine
end

section
/-! PROOF. What the commands on ownership, firewall windows and host-loss policies do once they are served, and with them the
statement TenancyCommands; the device after power-on reset, and with it the statement ResetHolds. -/
namespace Sys2Proof.Machine
open Sys2Proof

section
variable {s u : State} {d : Nat} {c : RunCmd} (hu : u = servedState s d) (hc : c = frontEntry s d)
include hu hc

/-! ## Owners of regions (R26, R35) -/

/-- RESET_DOMAIN answers with the number of the issuer's regions that have a window, and resets what the issuer owns. -/
theorem exec_resetDomain_eq (h : served s d 0x0006 .h) :
    exec (.resetDomain d) s = .next (answered s (finish c .ok 0 []
      [wd ((regionsOf u (cmdOwner c)).filter fun r => u.windowed.contains r).length] (domainReset u c.d))) := by
  subst hu hc
  exact serve_eq h rfl

/-- CLAIM_REGION takes an unowned region, and a claim of the issuer's own changes nothing. -/
theorem exec_claimRegion_eq (h : served s d 0x0101 .h) {r : Nat} (hr : r = pw c 0 % 256) :
    exec (.claimRegion d) s = .next (answered s (
      if 135 < r then finish c .badParameter 0 [] [] u
      else if u.owner r = .unowned then finish c .ok 0 [] [] (setOwner u r (cmdOwner c))
      else if u.owner r = cmdOwner c then finish c .ok 0 [] [] u
      else finish c .notOwner 0 [] [] u)) := by
  subst hu hc hr
  exact serve_eq h (by simp only [beq_iff_eq])

/-- RELEASE_REGION gives the issuer's own region back, unless it is loading or locked. -/
theorem exec_releaseRegion_eq (h : served s d 0x0102 .owner) {r : Nat} (hr : r = pw c 0 % 256) :
    exec (.releaseRegion d) s = .next (answered s (
      if 135 < r then finish c .badParameter 0 [] [] u
      else if u.owner r ≠ cmdOwner c then finish c .notOwner 0 [] [] u
      else if (u.regionOf r).state = .loading ∨ isLocked u r = true then finish c .busy 0 [] [] u
      else finish c .ok 0 [] [] (setOwner u r .unowned))) := by
  subst hu hc hr
  exact serve_eq h (by simp only [bne_iff_ne, Bool.or_eq_true, beq_iff_eq])

/-! ## SET_FIREWALL (R210) -/

/-- A state in which the window of the issuer that the command names is `w`. -/
def putWindow (u : State) (c : RunCmd) (w : FwWin) : State :=
  { u with noc := { u.noc with fw := SMap.set dFw u.noc.fw (32 * c.d + pw c 0 % 32) w } }

/-- SET_FIREWALL with valid = 0 removes the window, and nothing else of the command is looked at (log entry 29). -/
theorem exec_setFirewall_of_invalid (h : served s d 0x0103 .h) (hv : wb (nth c.p 0) 31 = false) :
    exec (.setFirewall d) s = .next (answered s (finish c .ok 0 [] [] (putWindow u c {}))) := by
  subst hu hc
  exact serve_eq h (if_pos (by simp [hv]))

/-- An endpoint that no window may name: the management plane, a reflex table, an unassigned ID. -/
def noWindow (u : State) (id : Nat) : Prop := isMgmt id = true ∨ isTable id = true ∨ (u.mapOf id).state = .unassigned

theorem exec_setFirewall_of_noWindow (h : served s d 0x0103 .h) (hv : wb (nth c.p 0) 31 = true)
    (hi : noWindow u (pw c 1 % 512)) :
    exec (.setFirewall d) s = .next (answered s (finish c .badParameter 0 [] [] u)) := by
  subst hu hc
  exact serve_eq h ((if_neg (by simp [hv])).trans (if_pos (by simpa [noWindow, or_assoc] using hi)))

/-- The grantee set that a SET_FIREWALL asks for. -/
def askedGrantees (c : RunCmd) : Nat := pw c 4 % 64

/-- The grantee set that it gets: the issuer's own bit is clamped to 0. -/
def givenGrantees (c : RunCmd) : Nat :=
  if (askedGrantees c).testBit c.d then askedGrantees c - 2 ^ c.d else askedGrantees c

/-- A valid window of an endpoint that may have one: its limit is clamped to the endpoint's last page, and the issuer must own
what the window then spans. -/
theorem exec_setFirewall_of_window (h : served s d 0x0103 .h) (hv : wb (nth c.p 0) 31 = true)
    {id base lim top : Nat} (hid : id = pw c 1 % 512) (hb : base = pw c 2 % 2 ^ 27) (hl : lim = pw c 3 % 2 ^ 27)
    (ht : top = min lim (lastPage id)) {cs : List Clamp}
    (hcs : cs = (if top ≠ lim then [cmdClamp 3 0 lim top] else []) ++
      (if givenGrantees c ≠ askedGrantees c then [cmdClamp 4 0 (askedGrantees c) (givenGrantees c)] else []))
    (hi : ¬ noWindow u id) :
    exec (.setFirewall d) s = .next (answered s (
      if ownsRange u (cmdOwner c) id base top = false then finish c .notOwner 0 [] [] u
      else if top < base then finish c .badParameter 0 cs [] u
      else finish c .ok 0 cs [] (putWindow u c
        { valid := true, read := wb (nth c.p 4) 8, write := wb (nth c.p 4) 9, grantees := givenGrantees c, ep := id,
          base := base, limit := top }))) := by
  subst hcs ht hl hb hid hu hc
  refine serve_eq h ((if_neg (by simp [hv])).trans ((if_neg (by simpa [noWindow, or_assoc] using hi)).trans ?_))
  simp only [bne_iff_ne, Bool.not_eq_true']
  rfl

/-! ## SET_HOST_LOSS_POLICY (R344) -/

/-- SET_HOST_LOSS_POLICY sets the issuer's policy, 3 clamped to 1. -/
theorem exec_setHostLossPolicy_eq (h : served s d 0x0104 .h) {q : Nat} (hq : q = pw c 0 % 4) :
    exec (.setHostLossPolicy d) s = .next (answered s (finish c .ok 0 (if q = 3 then [cmdClamp 0 0 3 1] else []) []
      (noteCmd (u.setPci c.d { u.pciOf c.d with policy := if q = 3 then 1 else q }) 0x1052))) := by
  subst hu hc hq
  exact serve_eq h rfl

end

/-! ## TenancyCommands -/

/-- Settles O39: each clause is one case of the equation of its command. -/
theorem tenancyCommands : Obligations.TenancyCommands := by
  unfold Obligations.TenancyCommands
  refine ⟨fun d c u s h hu hc => exec_resetDomain_eq hu hc h, fun d r c u s h hu hc hr => ?_,
    fun d r c u s h hu hc hr => ?_, fun d id base lim top g1 cs c u s h hu hc hid hb hl hv hm ht hn htop hg hcs => ?_,
    fun d id c u s h hu hc hid => ⟨exec_setFirewall_of_invalid hu hc h, fun hv hi => ?_⟩,
    fun d q c u s h hu hc hq => exec_setHostLossPolicy_eq hu hc h hq⟩
  · rw [exec_claimRegion_eq hu hc h hr]
    refine ⟨fun hk ho => ?_, fun hk hn ho => ?_, fun hk hn ho => ?_, fun hk => ?_⟩
    · rw [if_neg (Nat.not_lt.mpr hk), if_pos ho]
    · rw [if_neg (Nat.not_lt.mpr hk), if_neg hn, if_pos ho]
    · rw [if_neg (Nat.not_lt.mpr hk), if_neg hn, if_neg ho]
    · rw [if_pos hk]
  · rw [exec_releaseRegion_eq hu hc h hr]
    refine ⟨fun hk ho hl hf => ?_, fun hk ho hb => ?_, fun hk ho => ?_, fun hk => ?_⟩
    · rw [if_neg (Nat.not_lt.mpr hk), if_neg (not_not_intro ho), if_neg (by simp [hl, hf])]
    · rw [if_neg (Nat.not_lt.mpr hk), if_neg (not_not_intro ho), if_pos hb]
    · rw [if_neg (Nat.not_lt.mpr hk), if_pos ho]
    · rw [if_pos hk]
  · subst hg
    exact exec_setFirewall_of_window hu hc h hv hid hb hl htop hcs (by simp [noWindow, hm, ht, hn])
  · exact exec_setFirewall_of_noWindow hu hc h hv (hid ▸ hi)

/-! ## The device after power-on reset (R34, R37) -/

/-- Nothing is owned before an image's tenancy table is read (R26). -/
theorem owner_reset (n : Nat) : State.reset.owner n = .unowned := rfl

theorem portOf_reset (n : Nat) : State.reset.portOf n = {} := rfl

/-- Bank 0 carries no slave parallel port while the device is in reset, so SPP_WAIT does not drive its pin (R125). -/
theorem sppPin_reset : sppPin State.reset = .z := by decide

/-- Every pin is in Hi-Z: the TAP drives none, and every port is as it is without an image. -/
theorem padPin_reset (n : Nat) : padPin State.reset n = .z := by
  have hz : State.reset.lcs.hiz = false := rfl
  have hd : State.reset.lcs.drive = false := rfl
  simp [padPin, hz, hd, sppPin_reset, portOf_reset]

/-- The life-cycle state, the byte memories and the OTP words after reset meet the step invariant. -/
theorem invariant_reset : LcOk State.reset ∧ MemWf State.reset ∧ OtpWf State.reset :=
  ⟨.inl (by decide), ⟨rfl, rfl⟩, rfl⟩

/-- Settles O57: the fields are those of the reset state, and a pin and an owner are read from empty tables. -/
theorem resetHolds : Obligations.ResetHolds := by
  unfold Obligations.ResetHolds
  obtain ⟨hlc, hmem, hotp⟩ := invariant_reset
  exact ⟨hlc, hmem, hotp, rfl, rfl, rfl, rfl, rfl, fun n => ⟨padPin_reset n, owner_reset n⟩⟩

end Sys2Proof.Machine
end

section
/-! PROOF. What the PLLs, the frequency counter and the system monitor do, and with them the statement ClocksAndMonitors. -/
namespace Sys2Proof.Machine
open Sys2Proof

/-! ## The general PLLs and the frequency counter (R66, R70, R71) -/

/-- Outside a restart of the MC, PLL_APPLY acts at once on the PLL that the MC's own index selects. -/
theorem pllApply_of_mc {v : Word} {s : State} (hv : wb v 0 = true) (hr : s.mc.restart = false) :
    pllApply (.dom .mc) v s = applyPll s (wf (s.copy (acode (.dom .mc)) 0x120000 0) 4 0) := by
  simp [pllApply, hv, hr]

theorem pllApply_of_ne {acc : Accessor} (h : acc ≠ .dom .mc) (v : Word) (s : State) : pllApply acc v s = s := by
  simp [pllApply, h]

theorem pllLock_of_runs {n : Nat} {s : State} (hn : n < 32) (hp : pllRuns (s.pllOf n) = true)
    (hr : refRuns s n = true) : pllLock n s = s.setPll n { s.pllOf n with locked := true, ref := true } := by
  simp [pllLock, hn, hp, hr]

theorem lossOfLock_of_locked {n : Nat} {s : State} (hn : n < 32) (hl : (s.pllOf n).locked = true) (gone : Bool) :
    lossOfLock n gone s = (s.setPll n { s.pllOf n with
      locked := false, ref := (s.pllOf n).ref && !gone, lol := sat 0xFFFF (s.pllOf n).lol }).raiseAll
      0x120020 0 (1#32 <<< n) := by
  simp [lossOfLock, hn, hl]

/-- Of a PLL that is not locked, the loss of the reference alone is noted. -/
theorem lossOfLock_of_unlocked {n : Nat} {s : State} (hn : n < 32) (hl : (s.pllOf n).locked = false) :
    lossOfLock n true s = s.setPll n { s.pllOf n with ref := false } := by
  simp [lossOfLock, hn, hl]

theorem fcountWrite_of_start {v : Word} (hv : wb v 31 = true) (s : State) : fcountWrite (.dom .mc) v s =
    { s with clk := { s.clk with fctrl := v &&& 0x800000FF, fdone := false, fover := false, fkhz := 0 } } := by
  simp [fcountWrite, hv]

theorem fcountDone_of_counting {s : State} (hs : wb s.clk.fctrl 31 = true) (hd : s.clk.fdone = false) (khz : Nat) :
    fcountDone khz s = { s with
      clk := { s.clk with fdone := true, fover := decide (0x100000 ≤ khz), fkhz := khz % 0x100000 } } := by
  simp [fcountDone, hs, hd]

/-! ## A result of the system monitor (R73) -/

/-- The state once channel `ch` has taken a result, before loop 6 sees it: the channel, and the interrupt of a second
result in a row outside its window. -/
def recorded (s : State) (ch code : Nat) : State :=
  if wb (s.chanOf ch).cfg 30 && (s.chanOf ch).out1 && outside (s.chanOf ch) code then
    (s.setChan ch (chanNext (s.chanOf ch) code)).raiseAll 0x110020 0 (1#32 <<< ch)
  else s.setChan ch (chanNext (s.chanOf ch) code)

theorem recorded_of_alarm_off {s : State} {ch : Nat} (h : wb (s.chanOf ch).cfg 30 = false) (code : Nat) :
    recorded s ch code = s.setChan ch (chanNext (s.chanOf ch) code) := by
  simp [recorded, h]

theorem recorded_of_second_outside {s : State} {ch code : Nat} (ha : wb (s.chanOf ch).cfg 30 = true)
    (h1 : (s.chanOf ch).out1 = true) (h2 : outside (s.chanOf ch) code = true) :
    recorded s ch code = (s.setChan ch (chanNext (s.chanOf ch) code)).raiseAll 0x110020 0 (1#32 <<< ch) := by
  simp [recorded, ha, h1, h2]

/-- With its alarm disabled, no result of a channel is the first of two. -/
theorem chanNext_of_alarm_off {c : Chan} (h : wb c.cfg 30 = false) (code : Nat) : chanNext c code = { c with
    valid := true, alarm := outside c code, seq := (c.seq + 1) % 4096, code := code,
    min := if code < c.min then code else c.min, max := if c.max < code then code else c.max, out1 := false } := by
  simp [chanNext, h]

/-- Channel 0 drives the thermal rule. -/
theorem smnResult_zero (code : Nat) (s : State) :
    smnResult 0 code s = thermal (resultCode s 0 code) (recorded s 0 (resultCode s 0 code)) := rfl

/-- A channel but channel 0 that does not raise a supply's alarm only takes its result. -/
theorem smnResult_of_no_supply_alarm {ch : Nat} (code : Nat) {s : State} (h0 : ch ≠ 0)
    (h : supplyCh ch = false ∨ wb (s.chanOf ch).cfg 30 = false) :
    smnResult ch code s = recorded s ch (resultCode s ch code) := by
  unfold smnResult
  dsimp only
  rw [if_neg h0, if_neg (by obtain h | h := h <;> simp [h])]
  rfl

theorem minmaxClear_of_mc {v : Word} (hv : wb v 0 = true) (s : State) : minmaxClear (.dom .mc) v s =
    { s with smn := { s.smn with chans := (List.range 16).foldl (fun m c =>
      SMap.set dChan m c { SMap.get dChan m c with min := 0xFFF, max := 0 }) s.smn.chans } } := by
  simp [minmaxClear, hv]

theorem minmaxClear_of_ne {acc : Accessor} (h : acc ≠ .dom .mc) (v : Word) (s : State) : minmaxClear acc v s = s := by
  simp [minmaxClear, h]

/-! ## The next states -/

section
variable {s u : State}

theorem exec_pllApply_eq {acc : Accessor} {v : Word} (h : pllApply acc v s.start = u) :
    exec (.pllApply acc v) s = .next (interrupts s u) :=
  done_eq (f := pllApply acc v) h

theorem exec_pllLock_eq {n : Nat} (h : pllLock n s.start = u) : exec (.pllLock n) s = .next (interrupts s u) :=
  done_eq (f := pllLock n) h

theorem exec_lossOfLock_eq {n : Nat} {gone : Bool} (h : lossOfLock n gone s.start = u) :
    exec (.lossOfLock n gone) s = .next (interrupts s u) :=
  done_eq (f := lossOfLock n gone) h

theorem exec_fcountStart_eq {acc : Accessor} {v : Word} (h : fcountWrite acc v s.start = u) :
    exec (.fcountStart acc v) s = .next (interrupts s u) :=
  done_eq (f := fcountWrite acc v) h

theorem exec_fcountDone_eq {khz : Nat} (h : fcountDone khz s.start = u) :
    exec (.fcountDone khz) s = .next (interrupts s u) :=
  done_eq (f := fcountDone khz) h

/-- A channel that converts takes the result. -/
theorem exec_smnResult_of_converts {ch code : Nat} (hc : converts s ch = true) (h : smnResult ch code s.start = u) :
    exec (.smnResult ch code) s = .next (interrupts s u) :=
  done_eq (f := fun s => if converts s ch then smnResult ch code s else s) ((if_pos hc).trans h)

/-- One that does not convert gives none (R72). -/
theorem exec_smnResult_of_not_converts {ch : Nat} (code : Nat) (hc : converts s ch = false) :
    exec (.smnResult ch code) s = .next (interrupts s s.start) :=
  done_eq (f := fun s => if converts s ch then smnResult ch code s else s) (if_neg ((Bool.not_eq_true _).mpr hc))

theorem exec_tempSample_eq {codes : List Nat} (h : tempSample codes s.start = u) :
    exec (.tempSample codes) s = .next (interrupts s u) :=
  done_eq (f := tempSample codes) h

theorem exec_minmaxClear_eq {acc : Accessor} {v : Word} (h : minmaxClear acc v s.start = u) :
    exec (.minmaxClear acc v) s = .next (interrupts s u) :=
  done_eq (f := minmaxClear acc v) h

end

/-! ## ClocksAndMonitors -/

/-- Settles O25: each clause is the equation of its command's effect; those on results say what the channel has recorded. -/
theorem clocksAndMonitors : Obligations.ClocksAndMonitors := by
  unfold Obligations.ClocksAndMonitors
  refine ⟨?_, fun acc v s h => exec_pllApply_eq (pllApply_of_ne h v s.start),
    fun n s hn hp hr => exec_pllLock_eq (pllLock_of_runs (s := s.start) hn hp hr),
    fun n gone s hn hl => exec_lossOfLock_eq (lossOfLock_of_locked (s := s.start) hn hl gone),
    fun n s hn hl => exec_lossOfLock_eq (lossOfLock_of_unlocked (s := s.start) hn hl),
    fun v s hv => exec_fcountStart_eq (fcountWrite_of_start hv s.start),
    fun khz s hs hd => exec_fcountDone_eq (fcountDone_of_counting (s := s.start) hs hd khz), ?_, ?_, ?_,
    fun ch code s hc => exec_smnResult_of_not_converts code hc,
    fun codes s => exec_tempSample_eq rfl,
    fun v s hv => exec_minmaxClear_eq (minmaxClear_of_mc hv s.start),
    fun acc v s h => exec_minmaxClear_eq (minmaxClear_of_ne h v s.start)⟩
  · rintro v n s hv hr rfl
    exact exec_pllApply_eq (pllApply_of_mc (s := s.start) hv hr)
  · rintro ch code c s h0 hc rfl ha
    rw [← chanNext_of_alarm_off ha]
    exact exec_smnResult_of_converts hc
      ((smnResult_of_no_supply_alarm (s := s.start) code h0 (.inr ha)).trans
        (recorded_of_alarm_off (s := s.start) ha _))
  · rintro ch code c s h0 hc rfl hs ha h1 h2
    exact exec_smnResult_of_converts hc
      ((smnResult_of_no_supply_alarm (s := s.start) code h0 (.inl hs)).trans
        (recorded_of_second_outside (s := s.start) ha h1 h2))
  · rintro code c s hc rfl ha
    exact exec_smnResult_of_converts hc
      ((smnResult_zero code s.start).trans (congrArg (thermal _) (recorded_of_alarm_off (s := s.start) ha _)))

end Sys2Proof.Machine
end

section
/-! PROOF. How a load takes the sync words, the manifest and the records of its stream, where each frame of a record is stored, and
the address that follows it; and with them the statements StreamStarts, StreamSegments, StreamFrames and FrameAddressAdvances. -/
namespace Sys2Proof.Machine
open Sys2Proof

/-! ## The sync words and the manifest (R87, R103, R104) -/

/-- What a load reads in the NV store as a command starts is what stands there. -/
@[simp] theorem nvWords_start (s : State) (l : Load) (n : Nat) : nvWords s.start l n = nvWords s l n := by
  unfold nvWords
  simp only [slotRead_congr (s := s) (t := s.start) rfl, nvRead_congr (s := s) (t := s.start) rfl]

@[simp] theorem syncAt_start (s : State) (l : Load) (ignored : List Word) : syncAt s.start l ignored = syncAt s l ignored := by
  simp only [syncAt, nvWords_start]

@[simp] theorem manAt_start (s : State) (l : Load) (b : List Byte) : manAt s.start l b = manAt s l b := by
  simp only [manAt, nvWords_start]

section
variable {s : State} {ld : Nat} {ignored : List Word} (hp : (s.loadOf ld).phase = .stream) (hs : (s.loadOf ld).sync ≠ 2)
  (hf : (s.loadOf ld).port = true → bufFull (s.loadOf ld) = true) (hb : beforeSync ignored = none)
include hp hs hf hb

/-- Once the words are there to look for the pattern in, the stream goes on behind it or ends the load (R89). -/
theorem streamSync_eq : streamSync ld ignored s.start = (syncAt s (s.loadOf ld) ignored).elim
    (loadFail ld .badParameter s.start) fun n => settle ld (s.start.setLoad ld { s.loadOf ld with
      sync := 2, skip := n, pos := 2, recPos := 0, buf := [], rdX := (s.loadOf ld).rdX + 4 * (n + 2) }) := by
  refine (if_neg (by simpa [hp, hs, hb] using hf)).trans ?_
  simp only [syncAt_start, State.start_loadOf]
  cases syncAt s (s.loadOf ld) ignored <;> rfl

theorem exec_streamSync_of_found {n : Nat} (hn : syncAt s (s.loadOf ld) ignored = some n) :
    exec (.streamSync ld ignored) s = .next (recDone s ld (s.start.setLoad ld { s.loadOf ld with
      sync := 2, skip := n, pos := 2, recPos := 0, buf := [], rdX := (s.loadOf ld).rdX + 4 * (n + 2) })) := by
  exact done_eq (f := streamSync ld ignored) ((streamSync_eq hp hs hf hb).trans (by rw [hn]; rfl))

theorem exec_streamSync_of_missing (hn : syncAt s (s.loadOf ld) ignored = none) :
    exec (.streamSync ld ignored) s = .next (interrupts s (loadFail ld .badParameter s.start)) := by
  exact done_eq (f := streamSync ld ignored) ((streamSync_eq hp hs hf hb).trans (by rw [hn]; rfl))

end

section
variable {s : State} {ld : Nat} {b0 b : List Byte} (hp : (s.loadOf ld).phase = .manifest)
  (hb : manAt s (s.loadOf ld) b0 = some b)
include hp hb

theorem exec_manifestVerify_of_ok (he : s.boot.cfgErr = false) (hm : loadManCheck s.start (s.loadOf ld) b = .ok) :
    exec (.manifestVerify ld b0) s = .next (recDone s ld (s.start.setLoad ld { s.loadOf ld with
      phase := .stream, man := some (parseMan b), manBytes := b.take (parseMan b).len, buf := [],
      rdX := (s.loadOf ld).rdX + (parseMan b).len })) := by
  refine done_eq (f := manifestVerify ld b0) ?_
  simp [manifestVerify, hp, hb, hm, he]

theorem exec_manifestVerify_of_refused (hm : loadManCheck s.start (s.loadOf ld) b ≠ .ok) :
    exec (.manifestVerify ld b0) s = .next (interrupts s (loadFail ld (loadManCheck s.start (s.loadOf ld) b) s.start)) := by
  refine done_eq (f := manifestVerify ld b0) ?_
  simp [manifestVerify, hp, hb, hm]

end

/-- The wait of a direct load that has begun ends in its stream (R155). -/
theorem exec_directLoadWait_of_began {s : State} {ld : Nat} (hp : (s.loadOf ld).phase = .wait1us)
    (hb : (s.loadOf ld).began = true) :
    exec (.directLoadWait ld) s = .next (recDone s ld (s.start.setLoad ld { s.loadOf ld with phase := .stream })) := by
  refine done_eq (f := directLoadWait ld) ?_
  simp [directLoadWait, hp, hb]

/-! ## What the taking of a record leaves alone -/

section
variable (s : State) (ld : Nat) (ws : List Word)

@[simp] theorem recTaken_m : (recTaken s ld ws).m = (s.loadOf ld).m := rfl
@[simp] theorem recTaken_chunk : (recTaken s ld ws).chunk = (s.loadOf ld).chunk := rfl
@[simp] theorem recTaken_segOpen : (recTaken s ld ws).segOpen = (s.loadOf ld).segOpen := rfl
@[simp] theorem recTaken_checked : (recTaken s ld ws).checked = (s.loadOf ld).checked := rfl
@[simp] theorem recTaken_nv : (recTaken s ld ws).nv = (s.loadOf ld).nv := rfl
@[simp] theorem recTaken_segLeft : (recTaken s ld ws).segLeft = (s.loadOf ld).segLeft := rfl
@[simp] theorem recTaken_rollDue : (recTaken s ld ws).rollDue = (s.loadOf ld).rollDue := rfl
@[simp] theorem recTaken_tagDue : (recTaken s ld ws).tagDue = (s.loadOf ld).tagDue := rfl
@[simp] theorem recTaken_seg : (recTaken s ld ws).seg = (s.loadOf ld).seg := rfl
@[simp] theorem recTaken_lens : (recTaken s ld ws).lens = (s.loadOf ld).lens := rfl
@[simp] theorem recTaken_inChunk : (recTaken s ld ws).inChunk = (s.loadOf ld).inChunk := rfl
@[simp] theorem recTaken_inSeg : (recTaken s ld ws).inSeg = (s.loadOf ld).inSeg := rfl
@[simp] theorem recTaken_declared : (recTaken s ld ws).declared = (s.loadOf ld).declared := rfl
@[simp] theorem recTaken_far : (recTaken s ld ws).far = (s.loadOf ld).far := rfl
@[simp] theorem recTaken_fdataN : (recTaken s ld ws).fdataN = (s.loadOf ld).fdataN := rfl
@[simp] theorem recTaken_sigsN : (recTaken s ld ws).sigsN = (s.loadOf ld).sigsN := rfl
@[simp] theorem recTaken_crc : (recTaken s ld ws).crc = (s.loadOf ld).crc := rfl

variable (hdr : Word)

@[simp] theorem plainTaken_far : (plainTaken s ld hdr ws).far = (s.loadOf ld).far := rfl
@[simp] theorem plainTaken_shadow : (plainTaken s ld hdr ws).shadow = (s.loadOf ld).shadow := rfl

end

/-! ## A record whose effect is known -/

section
variable {s u : State} {ld : Nat} {f : Load → State → State}

theorem done_withRec {ws : List Word} (h : recReady s ld ws) (hu : f (recTaken s ld ws) (recState s ld ws) = u) :
    done (withRec ld ws f) s = .next (recDone s ld u) :=
  done_eq ((withRec_ready h f).trans (congrArg (settle ld) hu))

theorem done_takeRec {hdr : Word} (h : lastReady s ld hdr) (hu : f (recTaken s ld [hdr]) (recState s ld [hdr]) = u) :
    done (takeRec ld [hdr] f) s = .next (recDone s ld u) :=
  done_eq ((takeRec_ready h f).trans (congrArg (settle ld) hu))

theorem done_outerRec {ws : List Word} {st : Status} (h : outerReady s ld ws)
    (hu : f (recTaken s ld ws) (recState s ld ws) = u) : done (outerRec ld ws st f) s = .next (recDone s ld u) :=
  done_eq ((outerRec_ready h st f).trans (congrArg (settle ld) hu))

theorem done_plainRec {hdr : Word} {body : List Word} {c : Bool} (h : plainReady s ld hdr body c)
    (hu : f (plainTaken s ld hdr body) (plainState s ld hdr body) = u) :
    done (plainRec ld hdr body c f) s = .next (recDone s ld u) :=
  done_eq ((plainRec_ready h f).trans (congrArg (settle ld) hu))

end

/-- A NOP adds its word to the plaintext where it stands in a segment, and is passed over elsewhere (R88). -/
theorem exec_nop_eq {s : State} {ld : Nat} {hdr : Word} (h : recReady s ld [hdr]) (h0 : wf hdr 31 24 = 0) :
    exec (.nop ld hdr) s = .next (recDone s ld (
      if 0 < (s.loadOf ld).segLeft then (recState s ld [hdr]).setLoad ld { recTaken s ld [hdr] with
        segLeft := (s.loadOf ld).segLeft - 1, plain := (s.loadOf ld).plain ++ leBytes 4 hdr.toNat }
      else recState s ld [hdr])) := by
  refine done_eq (f := nop ld hdr) ?_
  unfold nop
  rw [if_pos (by simp [h0]), withRec_ready h, if_neg (by simp [h0])]
  rfl

/-- Settles O3: each clause is the equation of its command in that case. -/
theorem streamStarts : Obligations.StreamStarts := by
  unfold Obligations.StreamStarts
  refine ⟨fun ld n ignored s hp hs hf hb hn => exec_streamSync_of_found hp hs hf hb hn,
    fun ld ignored s hp hs hf hb hn => exec_streamSync_of_missing hp hs (by simp [hf]) hb hn,
    fun ld b0 b s hp he hb hm => exec_manifestVerify_of_ok hp hb he hm,
    fun ld b0 b s hp hb hm => exec_manifestVerify_of_refused hp hb hm,
    fun ld hdr s h h0 hl => ?_, fun ld hdr s h h0 hl => ?_,
    fun ld s hp hb => exec_directLoadWait_of_began hp hb⟩
  · rw [exec_nop_eq h h0, if_neg (by simp [hl])]
  · rw [exec_nop_eq h h0, if_pos hl]

/-! ## CHUNK (R95, R98) -/

/-- The state in which a CHUNK opens its segment: with the first frame chunk, the frames begin (R138). -/
def chunkBegun (s : State) (ld arg : Nat) (body : List Word) : State :=
  (if arg = 1 then beginFrames ld else id) ((recState s ld (header 5 arg :: body)).setLoad ld
    { recTaken s ld (header 5 arg :: body) with chunk := some arg, segOpen := true })

/-- The load of `t`, once the CHUNK that came in `s` has opened segment 0 with the chunk's key. -/
def segmentOpened (s t : State) (ld arg : Nat) (body : List Word) : Load :=
  { t.loadOf ld with
    seg := 0, lens := (body.drop 4).map BitVec.toNat, declared := wf (nth body 0) 12 0, inChunk := 0, inSeg := 0,
    iv := wordBytes ((body.drop 1).take 3), far := none, segLeft := ((body.drop 4).map BitVec.toNat).headD 0,
    tagDue := true, rollDue := false, plain := [], prevTag := [], aad := wordBytes (header 5 arg :: body), undo := [],
    undoSh := loadShadow t (t.loadOf ld), undoN := (t.loadOf ld).written,
    key := kdf ((selKey s (s.loadOf ld).m.keySel).getD 0) (ascii "BRLC-CHUNK")
      ((s.loadOf ld).m.nonce ++ Crypto.beBytes 4 arg) }

@[simp] theorem indexOk_recState (s : State) (ld : Nat) (ws : List Word) (n : Nat) :
    indexOk (recState s ld ws) n = indexOk s n := rfl

/-- The frame count that a CHUNK declares: none in the control chunk, 1 to 4096 in a frame chunk (R95). -/
theorem declared_inRange {arg n : Nat} (h : if arg = 0 then n = 0 else 1 ≤ n ∧ n ≤ 4096) :
    (if arg = 0 then n != 0 else n < 1 || 4096 < n) = false := by
  split at h
  · next h0 => simp [h0, h]
  · next h0 => simp [h0, h.2, Nat.one_le_iff_ne_zero.mp h.1]

/-- A CHUNK in order, with its counts in range, its IV base and, in a slot, its index right. -/
theorem exec_chunk_eq {s : State} {ld arg : Nat} {body : List Word} (h : outerReady s ld (header 5 arg :: body))
    (ho : (s.loadOf ld).segOpen = false) (hk : (s.loadOf ld).checked = false)
    (hi : arg = 1 → ((s.loadOf ld).nv = some .slot0 → indexOk s 0 = true) ∧
      ((s.loadOf ld).nv = some .slot1 → indexOk s 1 = true))
    (hn : arg = ((s.loadOf ld).chunk.map (· + 1)).getD 0) (hc : arg < (s.loadOf ld).m.chunks)
    (hz : wf (nth body 0) 27 13 = 0) (hl : body.length = 4 + (wf (nth body 0) 31 28 + 1))
    (hd : if arg = 0 then wf (nth body 0) 12 0 = 0 else 1 ≤ wf (nth body 0) 12 0 ∧ wf (nth body 0) 12 0 ≤ 4096)
    (hv : (wordBytes ((body.drop 1).take 3)).take 4 = Crypto.beBytes 4 arg)
    (he : (wordBytes ((body.drop 1).take 3)).drop 11 = [0]) :
    exec (.chunk ld arg body) s = .next (recDone s ld ((chunkBegun s ld arg body).setLoad ld
      (segmentOpened s (chunkBegun s ld arg body) ld arg body))) := by
  refine done_outerRec h ((if_neg ?opened).trans ((if_neg ?counts).trans ((if_neg ?iv).trans ((if_neg ?index).trans ?_))))
  case opened => simp [ho, hk]
  case counts =>
    rw [declared_inRange hd, recTaken_chunk]
    cases hch : (s.loadOf ld).chunk <;> simpa [hch, hz, hl, Nat.not_le.mpr hc] using hn
  case iv => simp [-List.drop_one, hv, he]
  case index =>
    intro hx
    obtain ⟨h1, hx⟩ := (Bool.and_eq_true _ _).mp hx
    obtain ⟨h0, h1⟩ := hi (eq_of_beq h1)
    split at hx
    · next hs => simp [h0 hs] at hx
    · next hs => simp [h1 hs] at hx
    · cases hx
  · unfold chunkBegun
    split <;> rfl

/-! ## ROLL and TAG (R97, R99, R100) -/

/-- A ROLL where one is due opens the next segment with a key derived from the last. -/
theorem exec_roll_of_due {s : State} {ld : Nat} {body : List Word} (h : recReady s ld (header 4 0 :: body))
    (hb : body.length = 4) (hl : (s.loadOf ld).segLeft = 0) (hd : (s.loadOf ld).rollDue = true) :
    exec (.roll ld 0 body) s = .next (recDone s ld ((recState s ld (header 4 0 :: body)).setLoad ld
      { recTaken s ld (header 4 0 :: body) with
        rollDue := false, tagDue := true, segLeft := (s.loadOf ld).lens.getD (s.loadOf ld).seg 0, plain := [], inSeg := 0,
        aad := wordBytes (header 4 0 :: body) ++ (s.loadOf ld).prevTag, undo := [],
        undoSh := loadShadow s (s.loadOf ld), undoN := (s.loadOf ld).written,
        key := kdf (s.loadOf ld).key (ascii "BRLC-ROLL")
          (wordBytes body ++ Crypto.beBytes 4 ((s.loadOf ld).chunk.getD 0) ++ [BitVec.ofNat 8 (s.loadOf ld).seg]) })) :=
  done_withRec h ((if_neg (by simp [hl, hd])).trans (if_neg (by simp [hb])))

/-- The tag that a load computes of its segment (R100). -/
def segmentTag (l : Load) : List Byte :=
  Crypto.beBytes 16 (Crypto.gcmTag l.key (l.iv.take 11 ++ [BitVec.ofNat 8 l.seg]) l.aad l.plain).toNat

/-- The state once the TAG of a chunk's last segment has been taken; the control chunk stays open until its end has had its
effect. -/
def lastTagTaken (s : State) (ld arg : Nat) (body : List Word) : State :=
  (recState s ld (header 6 arg :: body)).setLoad ld (chunkPlace (recState s ld (header 6 arg :: body))
    { recTaken s ld (header 6 arg :: body) with tagDue := false, undo := [], segOpen := (s.loadOf ld).chunk == some 0 })

/-- The state `u` once its chunk is closed. -/
def chunkShut (ld : Nat) (u : State) : State := u.setLoad ld { u.loadOf ld with segOpen := false }

section
variable {s : State} {ld arg : Nat} {body : List Word} (h : outerReady s ld (header 6 arg :: body))
  (hd : (s.loadOf ld).tagDue = true) (ha : arg = (s.loadOf ld).seg) (hb : body.length = 4)
include h hd ha hb

/-- A TAG whose bytes are not the computed tag. -/
theorem exec_tag_of_wrong (ht : wordBytes body ≠ segmentTag (s.loadOf ld)) :
    exec (.tag ld arg body) s = .next (recDone s ld
      (loadFail ld .authFail (undoSegment ld (recState s ld (header 6 arg :: body))))) :=
  done_outerRec h ((if_neg (by simp [hd, ha, hb])).trans (if_pos (bne_iff_ne.mpr ht)))

variable (ht : wordBytes body = segmentTag (s.loadOf ld))
include ht

/-- The TAG of a segment that is not its chunk's last leaves a ROLL due (R97). -/
theorem exec_tag_of_inner (hn : arg + 1 ≠ (s.loadOf ld).lens.length) :
    exec (.tag ld arg body) s = .next (recDone s ld ((recState s ld (header 6 arg :: body)).setLoad ld
      { recTaken s ld (header 6 arg :: body) with
        tagDue := false, rollDue := true, seg := arg + 1, prevTag := wordBytes body, undo := [] })) := by
  subst ha
  exact done_outerRec h ((if_neg (by simp [hd, hb])).trans ((if_neg (fun hx => bne_iff_ne.mp hx ht)).trans
    ((if_neg (by simp [hn])).trans (if_pos (by simp [hn])))))

variable (hn : arg + 1 = (s.loadOf ld).lens.length)
include hn

/-- The TAG of a chunk's last segment, where the manifest has another entry for the chunk. -/
theorem exec_tag_of_unlisted (hm : wordBytes body ≠ (s.loadOf ld).m.tags.getD ((s.loadOf ld).chunk.getD 0) []) :
    exec (.tag ld arg body) s = .next (recDone s ld
      (loadFail ld .authFail (undoSegment ld (recState s ld (header 6 arg :: body))))) := by
  subst ha
  exact done_outerRec h ((if_neg (by simp [hd, hb])).trans ((if_neg (fun hx => bne_iff_ne.mp hx ht)).trans
    (if_pos (by simpa [hn] using hm))))

variable (hm : wordBytes body = (s.loadOf ld).m.tags.getD ((s.loadOf ld).chunk.getD 0) [])
  (hi : (s.loadOf ld).inChunk = (s.loadOf ld).declared)
include hm hi

/-- The TAG of a chunk's last segment ends the chunk, and with the control chunk its settings take effect. -/
theorem exec_tag_of_listed : exec (.tag ld arg body) s = .next (recDone s ld
    (if (s.loadOf ld).chunk == some 0 then chunkShut ld (controlEnd ld (lastTagTaken s ld arg body))
     else lastTagTaken s ld arg body)) := by
  subst ha
  exact done_outerRec h ((if_neg (by simp [hd, hb])).trans ((if_neg (fun hx => bne_iff_ne.mp hx ht)).trans
    ((if_neg (by simp [hm])).trans ((if_neg (by simp [hn])).trans (if_neg (by simp [hi]))))))

end

/-- Settles O5: a CHUNK and a ROLL by their equations, a TAG by whether its bytes are the computed tag and the manifest's entry. -/
theorem streamSegments : Obligations.StreamSegments := by
  unfold Obligations.StreamSegments
  refine ⟨fun ld arg body s h ho hk hi hn hc hz hl hd hv he =>
      ⟨_, exec_chunk_eq h ho hk hi hn hc hz hl hd hv he, segmentOpened s (chunkBegun s ld arg body) ld arg body,
        rfl, rfl, rfl, rfl, rfl, rfl, rfl, rfl, rfl, rfl⟩,
    fun ld body s h hb hl hd => exec_roll_of_due h hb hl hd,
    fun ld arg body s h hd ha hb hn => ?_, fun ld arg body s h hd ha hb hn hc ht hi => ?_,
    fun ld arg body s h hd ha hb hn hc ht hi hm => ?_⟩
  · subst ha
    split
    · next ht => exact exec_tag_of_inner h hd rfl hb ht hn
    · next ht => exact exec_tag_of_wrong h hd rfl hb ht
  · subst ha
    split
    · next hm =>
      rw [exec_tag_of_listed h hd rfl hb ht hn hm hi, lastTagTaken, beq_eq_false_iff_ne.mpr hc]
      rfl
    · next hm => exact exec_tag_of_unlisted h hd rfl hb ht hn hm
  · subst ha
    have hm : wordBytes body = (s.loadOf ld).m.tags.getD ((s.loadOf ld).chunk.getD 0) [] := by rw [hc]; exact hm
    refine ⟨_, (exec_tag_of_listed h hd rfl hb ht hn hm hi).trans ?_, rfl⟩
    rw [lastTagTaken, beq_iff_eq.mpr hc]
    rfl

/-! ## FAR, CHECK and DESYNC (R90, R92, R111) -/

/-- A FAR of a frame that exists sets the current address; a partial image's region has a window by then (R141). -/
theorem exec_far_of_valid {s : State} {ld : Nat} {w : Word} (h : plainReady s ld (header 1 0) [w] false)
    (hr : (s.loadOf ld).full = true ∨ (s.rects (s.loadOf ld).region).isEmpty = false) (hv : farValid w = true) :
    exec (.far ld 0 w) s = .next (recDone s ld ((plainState s ld (header 1 0) [w]).setLoad ld
      { plainTaken s ld (header 1 0) [w] with far := some w.toNat, farNow := some w.toNat })) := by
  refine done_plainRec h ((if_neg (by decide)).trans ((if_neg ?_).trans (if_neg (by simp [hv]))))
  have hr : (!(s.loadOf ld).full && (s.rects (s.loadOf ld).region).isEmpty) = false := by
    obtain hr | hr := hr <;> simp [hr]
  exact (Bool.not_eq_true _).mpr hr

theorem exec_check_of_right {s : State} {ld : Nat} {w : Word} (h : outerReady s ld [header 7 0, w])
    (hd : (s.loadOf ld).tagDue = false) (hk : (s.loadOf ld).checked = false)
    (hc : (s.loadOf ld).chunk = some ((s.loadOf ld).m.chunks - 1)) (hf : (s.loadOf ld).fdataN = (s.loadOf ld).m.fdata)
    (hs : (s.loadOf ld).sigsN = (s.loadOf ld).m.sigs) (hw : w = wd ((s.loadOf ld).crc ^^^ 0xFFFFFFFF))
    (hm : w = (s.loadOf ld).m.crc) :
    exec (.check ld 0 w) s = .next (recDone s ld ((recState s ld [header 7 0, w]).setLoad ld
      { recTaken s ld [header 7 0, w] with checked := true })) := by
  refine done_outerRec h ((if_neg ?_).trans (if_neg ?_))
  · simp [hd, hk, hc, hf, hs]
  · simp [← hw, ← hm]

theorem exec_desync_of_last {s : State} {ld : Nat} (h : lastReady s ld (header 15 0))
    (hd : (s.loadOf ld).tagDue = false) (hk : (s.loadOf ld).checked = true) :
    exec (.desync ld 0) s = .next (recDone s ld (loadOk ld (recState s ld [header 15 0]))) := by
  have ⟨_, _, _, hb, hl, hr⟩ := h
  have hb : (recTaken s ld [header 15 0]).bytesAt = (recTaken s ld [header 15 0]).m.streamLen := hb
  refine done_takeRec h ((if_neg ?_).trans ((if_neg ?_).trans (if_neg ?_)))
  · simp [hl]
  · simp [hr]
  · rw [hb]
    simp [hd, hk]

/-! ## FDATA and SIGS (R85, R91, R97) -/

/-- An FDATA hands its frames to the rule that stores them one by one. -/
theorem exec_fdata_of_fits {s : State} {ld arg : Nat} {body : List Word} (h : plainReady s ld (header 2 arg) body false)
    (ha : 0 < arg) (hb : body.length = 129 * arg) (hs : (s.loadOf ld).inSeg + arg ≤ 1024) (hf : (s.loadOf ld).far.isSome) :
    exec (.fdata ld arg body) s = .next (recDone s ld
      (fdataFrames ld (groups 129 arg body) ((recState s ld (header 2 arg :: body)).setLoad ld
        { plainTaken s ld (header 2 arg) body with
          inSeg := (s.loadOf ld).inSeg + arg, inChunk := (s.loadOf ld).inChunk + arg,
          fdataN := (s.loadOf ld).fdataN + arg,
          fdFirst := (s.loadOf ld).far.getD 0, fdCount := arg }))) := by
  obtain ⟨h, hl, hc⟩ := h
  refine done_withRec h ((if_neg ?_).trans ((if_neg ?_).trans ((if_neg ?_).trans ((if_neg ?_).trans (if_neg ?_)))))
  · rw [recTaken_segLeft]; omega
  · simp [hc]
  · rw [recTaken_inSeg]; omega
  · simp [hb]; omega
  · simpa using Option.isSome_iff_ne_none.mp hf

/-- A SIGS of a load to the shadow plane does likewise. -/
theorem exec_sigs_of_shadow {s : State} {ld arg : Nat} {body : List Word} (h : plainReady s ld (header 10 arg) body false)
    (h1 : 1 ≤ arg) (hm : arg ≤ 1024) (hb : body.length = arg) (hs : (s.loadOf ld).shadow = true)
    (hf : (s.loadOf ld).far.isSome) :
    exec (.sigs ld arg body) s = .next (recDone s ld
      (sigsFrames ld body ((plainState s ld (header 10 arg) body).setLoad ld
        { plainTaken s ld (header 10 arg) body with sigsN := (s.loadOf ld).sigsN + arg }))) := by
  refine done_plainRec h ((if_neg ?_).trans ((if_neg ?_).trans (if_neg ?_)))
  · simp [hb]; omega
  · simp [hs]
  · simpa using Option.isSome_iff_ne_none.mp hf

/-- A frame of an FDATA record that passes its checks is stored at the current address, and the next follows. -/
theorem fdataFrames_of_ok {ld : Nat} {w : Word} {fr : List Word} {rest : List (List Word)} {s : State}
    (hw : w = wd ((s.loadOf ld).far.getD 0)) (ha : addrCheck s (s.loadOf ld) w = .ok)
    (hc : isContent (w.toNat / 256) = false ∨ (s.loadOf ld).full = true ∨ (s.loadOf ld).direct = true)
    (hr : nth fr 128 = crc32c (wordBytes (fr.take 128))) :
    fdataFrames ld (fr :: rest) s = fdataFrames ld rest (storeFrame ld (w.toNat / 256) w
      (fdataPlane s (s.loadOf ld) (w.toNat / 256) (fr.take 128) (nth fr 128))
      { s.loadOf ld with crc := crcRun polyC (s.loadOf ld).crc (wordBytes (fr.take 128)) } s) := by
  subst hw
  refine (if_neg (by simp [ha])).trans ((if_neg ?_).trans (if_neg (by simp [hr])))
  obtain hc | hc | hc := hc <;> simp [hc]

/-- A frame of a SIGS record whose active plane is right is copied to the current address. -/
theorem sigsFrames_of_ok {ld : Nat} {w sig : Word} {rest : List Word} {p : Plane} {s : State}
    (hw : w = wd ((s.loadOf ld).far.getD 0)) (ha : addrCheck s (s.loadOf ld) w = .ok)
    (hc : isContent (w.toNat / 256) = false) (hp : p = (s.frameOf (w.toNat / 256)).active) (hs : sig = p.sig)
    (hg : planeBad p = false) (hr : crc32c (wordBytes (planeRead p)) = p.sig) :
    sigsFrames ld (sig :: rest) s =
      sigsFrames ld rest (storeFrame ld (w.toNat / 256) w (sigsPlane p) (s.loadOf ld) s) := by
  subst hp hw
  exact (if_neg (by simp [ha])).trans ((if_neg (by simp [hc, hs])).trans (if_neg (by simp [hg, hr])))

/-- Settles O6: each clause is the equation of its record, or of one frame of an FDATA. -/
theorem streamFrames : Obligations.StreamFrames := by
  unfold Obligations.StreamFrames
  exact ⟨fun ld w s h hf hv => exec_far_of_valid h (.inl hf) hv,
    fun ld w s h _ hr hv => exec_far_of_valid h (.inr hr) hv,
    fun ld arg body s h ha hb hs hf => exec_fdata_of_fits h ha hb hs hf,
    fun ld arg body s h h1 hm hb hs hf => exec_sigs_of_shadow h h1 hm hb hs hf,
    fun ld fr rest s ha hc hr => fdataFrames_of_ok rfl ha (.inl hc) hr,
    fun ld w s h hd hk hc hf hs hw hm => exec_check_of_right h hd hk hc hf hs hw hm,
    fun ld s h hd hk => exec_desync_of_last h hd hk⟩

/-! ## The address after a frame (R83) -/

theorem farWord_shadow (key : Nat) : farWord key false = key * 256 := by simp [farWord]

/-- No column has more minors than a RAM column (Table 3.1). -/
theorem frameCount_le (col : Nat) : frameCount col ≤ 168 := by
  unfold frameCount
  cases colKind col <;> decide

section
variable {band col minor : Nat} (hb : band < 16) (hc : col < 1024) (hm : minor < 256)
include hm

theorem keyMinor_frameKey : keyMinor (frameKey band col minor) = minor := by
  simp only [keyMinor, frameKey, bf, Nat.shiftRight_zero]
  omega

include hc

theorem keyCol_frameKey : keyCol (frameKey band col minor) = col := by
  simp only [keyCol, frameKey, bf, Nat.shiftRight_eq_div_pow]
  omega

include hb

theorem keyBand_frameKey : keyBand (frameKey band col minor) = band := by
  simp only [keyBand, frameKey, bf, Nat.shiftRight_eq_div_pow]
  omega

/-- The address of a frame names its key. -/
theorem toNat_farWord_frameKey : (wd (farWord (frameKey band col minor) false)).toNat / 256 = frameKey band col minor := by
  simp only [wd, farWord_shadow, frameKey, BitVec.toNat_ofNat]
  omega

end

theorem nextAddr_of_some {w : Word} {k : Nat} (h : nextFrame (w.toNat / 256) = some k) :
    nextAddr w = farWord k false := by
  simp only [nextAddr, h, farWord_shadow]

/-- Past the last minor of column 558 no frame follows: the address names column 559, which is none. -/
theorem nextAddr_of_none {w : Word} (h : nextFrame (w.toNat / 256) = none) :
    nextAddr w = farWord (frameKey (keyBand (w.toNat / 256)) 559 0) false := by
  have hb : wf w 29 26 = keyBand (w.toNat / 256) := by
    simp only [wf, keyBand, bf, Nat.shiftRight_eq_div_pow]
    omega
  simp only [nextAddr, h, hb, farWord_shadow]

/-- The frame after a frame stands in the same band. -/
theorem keyBand_of_nextFrame {key k : Nat} (h : nextFrame key = some k) : keyBand k = keyBand key := by
  have hb : keyBand key < 16 := Nat.mod_lt _ (by decide)
  unfold nextFrame at h
  split at h
  · next hm =>
    obtain rfl := Option.some.inj h
    have := frameCount_le (keyCol key)
    simp only [keyBand, keyMinor, bf, Nat.shiftRight_eq_div_pow] at *
    omega
  · split at h
    · next hc =>
      obtain rfl := Option.some.inj h
      exact keyBand_frameKey hb (by omega) (by decide)
    · cases h

/-- An address never advances into another band. -/
theorem keyBand_nextAddr (w : Word) : keyBand (nextAddr w / 256) = keyBand (w.toNat / 256) := by
  have hb : keyBand (w.toNat / 256) < 16 := Nat.mod_lt _ (by decide)
  cases hk : nextFrame (w.toNat / 256) with
  | some k =>
    rw [nextAddr_of_some hk, farWord_shadow, Nat.mul_div_cancel _ (by decide)]
    exact keyBand_of_nextFrame hk
  | none =>
    rw [nextAddr_of_none hk, farWord_shadow, Nat.mul_div_cancel _ (by decide)]
    exact keyBand_frameKey hb (by decide) (by decide)

section
variable {band col minor : Nat} (hb : band < 16) (hc : col < 1024)
include hb hc

/-- The next minor of the column. -/
theorem nextAddr_of_minor_lt (hn : minor + 1 < frameCount col) :
    nextAddr (wd (farWord (frameKey band col minor) false)) = farWord (frameKey band col (minor + 1)) false := by
  have hm : minor < 256 := by have := frameCount_le col; omega
  refine nextAddr_of_some ?_
  rw [toNat_farWord_frameKey hb hc hm, nextFrame, keyMinor_frameKey hm, keyCol_frameKey hc hm, if_pos hn,
    frameKey, frameKey, Nat.add_assoc]

/-- After a column's last minor, minor 0 of the next column. -/
theorem nextAddr_of_minor_last (hn : minor + 1 = frameCount col) (hl : col < 558) :
    nextAddr (wd (farWord (frameKey band col minor) false)) = farWord (frameKey band (col + 1) 0) false := by
  have hm : minor < 256 := by have := frameCount_le col; omega
  refine nextAddr_of_some ?_
  rw [toNat_farWord_frameKey hb hc hm, nextFrame, keyMinor_frameKey hm, keyCol_frameKey hc hm,
    keyBand_frameKey hb hc hm, if_neg (by omega), if_pos hl]

end

/-- A frame stored leaves the load at the address that follows. -/
@[simp] theorem storeFrame_far (ld key : Nat) (w : Word) (p : Plane) (l : Load) (s : State) :
    ((storeFrame ld key w p l s).loadOf ld).far = some (nextAddr w) := by
  unfold storeFrame
  exact congrArg Load.far (State.loadOf_setLoad ..)

/-- Settles O7: the address after a frame by its column and band, and after a stored frame by the rule that stores it. -/
theorem frameAddressAdvances : Obligations.FrameAddressAdvances := by
  unfold Obligations.FrameAddressAdvances
  refine ⟨fun band col minor hb hc hm => ⟨fun hn => ?_, fun hn hl => ?_, fun _ => ?_⟩,
    fun ld w fr rest s hw ha hc hr => ⟨_, fdataFrames_of_ok hw ha hc hr, storeFrame_far ..⟩,
    fun ld w sig rest p s hw ha hc hp hs hg hr => ⟨_, sigsFrames_of_ok hw ha hc hp hs hg hr, storeFrame_far ..⟩⟩
  · exact nextAddr_of_minor_lt hb (by omega) hn
  · exact nextAddr_of_minor_last hb (by omega) hn hl
  · have := frameCount_le col
    rw [keyBand_nextAddr, toNat_farWord_frameKey hb (by omega) (by omega)]
    exact keyBand_frameKey hb (by omega) (by omega)

end Sys2Proof.Machine
end

section
/-! PROOF. What power-on reset, RESET_N and TAP_RESET leave, where BOOT_START leads, how the start-up sequencer fires its events,
and what the slave serial and parallel ports do with a word; and with them the statements Resets, BootStart, Startup and
PushedWords. -/
namespace Sys2Proof.Machine
open Sys2Proof

/-! ## What the operations of a reset leave alone (R34, R38, R114) -/

/-- A reset changes the pins, and of the timebase the pulse output alone. -/
theorem resetPins_proj {β : Type} (π : State → β) (ho : ∀ s o, π (s.emit o) = π s) (hp : ∀ s, π (ppsLow s) = π s)
    (s : State) : π (resetPins s) = π s := by
  have hif (c : Bool) (u : State) (o : Out) : π (if c then u.emit o else u) = π u := by
    cases c
    · rfl
    · exact ho u o
  unfold resetPins
  exact (foldl_proj π (fun u e => ho ..) _ _).trans ((hp _).trans ((hif ..).trans (hif ..)))

theorem ppsLow_lcs (s : State) : (ppsLow s).lcs = s.lcs := by
  unfold ppsLow
  split <;> rfl

theorem ppsLow_ref (s : State) : (ppsLow s).tbs.ref = s.tbs.ref := by
  unfold ppsLow
  split <;> rfl

@[simp] theorem resetPins_lcs (s : State) : (resetPins s).lcs = s.lcs := resetPins_proj State.lcs (fun _ _ => rfl) ppsLow_lcs s

@[simp] theorem resetPins_ref (s : State) : (resetPins s).tbs.ref = s.tbs.ref :=
  resetPins_proj (fun u => u.tbs.ref) (fun _ _ => rfl) ppsLow_ref s

theorem scramble_tbs (s : State) (a n : Nat) : (scramble s a n).tbs = s.tbs := rfl

theorem tearOp_tbs (s : State) (b : Nat) : (tearOp s b).tbs = s.tbs := by
  unfold tearOp
  split
  · rfl
  · split
    · rfl
    · split
      · rfl
      · split
        · exact foldl_proj State.tbs (fun u (q : Nat × Nat) => scramble_tbs u q.1 q.2) _ s
        · rfl

theorem tearBank_tbs (s : State) (b : Nat) : (tearBank s b).tbs = s.tbs := by
  unfold tearBank
  dsimp only
  split
  · rfl
  · exact tearOp_tbs ..
  · exact tearOp_tbs ..

/-- What the banks of the NV store were doing is no matter of the timebase. -/
@[simp] theorem tearNv_tbs (s : State) : (tearNv s).tbs = s.tbs := foldl_proj State.tbs tearBank_tbs _ s

theorem otpPut_tbs (s : State) (e : Nat × Word) : (otpPut s e).tbs = s.tbs := by
  unfold otpPut
  dsimp only
  split
  · rfl
  · split <;> rfl

@[simp] theorem tornRun_tbs (s : State) : (tornRun s).tbs = s.tbs := by
  unfold tornRun
  split
  · rfl
  · dsimp only
    split
    · exact foldl_proj State.tbs (fun u (e : Nat × Word) => otpPut_tbs u (e.1, _)) _ _
    · exact foldl_proj State.tbs otpPut_tbs _ _

/-- With no programming run under way no OTP word is torn (R457). -/
theorem tornRun_of_not_programming {s : State} (h : programming s = none) : tornRun s = s := by
  unfold tornRun
  rw [h]

theorem programming_resetPins (s : State) : programming (resetPins s) = programming s := by
  unfold programming
  rw [resetPins_lcs]

/-! ## Power-on reset, RESET_N and TAP_RESET (R34, R37, R114, R470) -/

/-- Of the life cycle, power-on reset keeps what the OTP holds once a programming run has stopped. -/
theorem supplyLoss_lcs {s u : State} (h : tearNv (tornRun (resetPins s)) = u) :
    (supplyLoss s).lcs = { otp := u.lcs.otp, imgKey := u.lcs.imgKey, kek := u.lcs.kek } := by
  subst h
  rfl

/-- Of the timebase, power-on reset keeps whether TB_10M_IN is there. -/
theorem supplyLoss_tbs (s : State) : (supplyLoss s).tbs = { ref := s.tbs.ref } := by
  have h : (tearNv (tornRun (resetPins s))).tbs.ref = s.tbs.ref := by simp
  exact congrArg (fun r => ({ ref := r } : Tbs)) h

/-- Outside a programming run power-on reset leaves the OTP as it is. -/
theorem supplyLoss_otp {s : State} (h : programming s = none) :
    (supplyLoss s).lcs.otp = s.lcs.otp ∧ (supplyLoss s).lcs.imgKey = s.lcs.imgKey ∧ (supplyLoss s).lcs.kek = s.lcs.kek := by
  have ht : tornRun (resetPins s) = resetPins s := tornRun_of_not_programming ((programming_resetPins s).trans h)
  have hk : Keeps s (tearNv (tornRun (resetPins s))) := by
    rw [ht]
    exact (resetPins_keeps s).trans (tearNv_keeps _)
  generalize hu : tearNv (tornRun (resetPins s)) = u at hk
  rw [supplyLoss_lcs hu]
  exact ⟨hk.otp, hk.imgKey, hk.kek⟩

section
variable {lowNs : Nat} {s : State}

theorem warmReset_of_glitch (hl : lowNs < 500) : warmReset lowNs s = s := by
  simp [warmReset, hl]

theorem warmReset_of_long (hl : 1000 ≤ lowNs) (hp : s.boot.phase ≠ .powerReset) : warmReset lowNs s = warmReach s := by
  have hg : ¬ lowNs < 500 := by omega
  simp [warmReset, hl, hp, hg]

/-- A pulse of 0.5 to 1 µs resets the device or does not (R37). -/
theorem warmReset_of_between (h1 : 500 ≤ lowNs) (h2 : lowNs < 1000) (hp : s.boot.phase ≠ .powerReset) :
    warmReset lowNs s = if Config.freeBit s.free then warmReach s.takeFree else s.takeFree := by
  have hg : ¬ lowNs < 500 := by omega
  have hs : ¬ 1000 ≤ lowNs := by omega
  simp [warmReset, hp, hg, hs]

theorem warmReach_of_idle (ha : asleep s = false) (hr : programming s = none) : warmReach s = warmNow s := by
  simp [warmReach, ha, hr]

/-- A warm reset waits for the end of a programming run (R39). -/
theorem warmReach_of_programming (ha : asleep s = false) (hr : (programming s).isSome) :
    warmReach s = { s with lcs := { s.lcs with warmDef := true } } := by
  simp [warmReach, ha, hr]

end

/-- The next state of a WARM_RESET, from what the pulse does. -/
theorem exec_warmReset_eq {lowNs : Nat} {s u : State} (h : warmReset lowNs s.start = u) :
    exec (.warmReset lowNs) s = .next (interrupts s u) :=
  done_eq (f := warmReset lowNs) h

/-- Settles O1: by the length of the pulse and what it finds under way; the parts that die are written out in both resets. -/
theorem resets : Obligations.Resets := by
  unfold Obligations.Resets
  refine ⟨fun s => ?_, fun lowNs s hl => exec_warmReset_eq (warmReset_of_glitch hl), fun lowNs s hl hp ha hr => ?_,
    fun lowNs s hl hp ha hr => ?_, fun lowNs s h1 h2 hp => exec_warmReset_eq (warmReset_of_between h1 h2 hp), fun s => rfl⟩
  · refine ⟨_, done_eq (f := supplyLoss) rfl, ?_⟩
    obtain ⟨p, o, e⟩ := interrupts_eq s (supplyLoss s.start)
    rw [e]
    exact ⟨rfl, rfl, rfl, rfl, rfl, rfl, rfl, rfl, supplyLoss_tbs s.start, rfl, rfl, rfl, rfl, rfl, rfl, rfl, rfl, rfl, rfl,
      fun h => supplyLoss_otp (s := s.start) h⟩
  · have hk := warmNow_keeps s.start
    refine ⟨_, exec_warmReset_eq ((warmReset_of_long (s := s.start) hl hp).trans (warmReach_of_idle ha hr)), ?_⟩
    obtain ⟨p, o, e⟩ := interrupts_eq s (warmNow s.start)
    rw [e]
    exact ⟨rfl, rfl, rfl, rfl, rfl, rfl, rfl, rfl, rfl, rfl, rfl, rfl, hk.otp, hk.state⟩
  · exact exec_warmReset_eq ((warmReset_of_long (s := s.start) hl hp).trans (warmReach_of_programming ha hr))

/-! ## What a muzzle leaves alone (R213, R215) -/

/-- What the boot reads and writes of a state: it lies outside the packets, counters and reports that a muzzle changes. -/
def bootView (s : State) : Boot × Lcs × Bool := (s.boot, s.lcs, s.noc.running)

theorem setPci_bootView (s : State) (n : Nat) (p : Pci) : bootView (s.setPci n p) = bootView s := rfl

theorem setMap_bootView (s : State) (e : Nat) (m : MapEntry) : bootView (s.setMap e m) = bootView s := rfl

theorem setFrame_bootView (s : State) (k : Nat) (f : Frame) : bootView (s.setFrame k f) = bootView s := rfl

theorem setOut_bootView (s : State) (id tag : Nat) (r : Option OutReq) : bootView (setOut s id tag r) = bootView s := rfl

theorem expectLate_bootView (s : State) (id tag : Nat) (r : OutReq) (ctr : Nat) :
    bootView (expectLate s id tag r ctr) = bootView s := rfl

theorem emit_bootView (s : State) (o : Out) : bootView (s.emit o) = bootView s := rfl

theorem raiseFor_bootView (s : State) (accs : List Nat) (addr inst : Nat) (v : Word) :
    bootView (s.raiseFor accs addr inst v) = bootView s := rfl

theorem nocInt_bootView (s : State) (o : Owner) (bits : Word) : bootView (nocInt s o bits) = bootView s :=
  raiseFor_bootView ..

theorem nocLast_bootView (s : State) (kind cause : Nat) (st : Status) (id : Nat) :
    bootView (nocLast s kind cause st id) = bootView s := by
  have h (v : Word) : bootView { s with noc := { s.noc with last := v } } = bootView s := rfl
  exact h _

theorem pciErr_bootView (s : State) (p cause : Nat) (st : Status) (entry addr : Nat) :
    bootView (pciErr s p cause st entry addr) = bootView s :=
  (raiseFor_bootView ..).trans (setPci_bootView ..)

theorem absorb_bootView (s : State) (p : Pkt) : bootView (absorb s p) = bootView s := by
  unfold absorb
  split <;> rfl

theorem dropRsp_bootView (s : State) (p : Pkt) (ctr : Nat) : bootView (dropRsp s p ctr) = bootView s := by
  unfold dropRsp
  dsimp only
  split <;> rfl

theorem absorbQueued_bootView (s : State) (p : Pkt) : bootView (absorbQueued s p) = bootView s := by
  unfold absorbQueued
  split
  · exact dropRsp_bootView ..
  · exact absorb_bootView ..

theorem absorbAll_bootView (s : State) (id : Nat) : bootView (absorbAll s id) = bootView s := by
  unfold absorbAll
  exact (foldl_proj bootView absorbQueued_bootView _ _).trans rfl

theorem w2Drain_bootView : ∀ (n : Nat) (s : State) (p ptag : Nat), bootView (w2Drain n s p ptag) = bootView s
  | 0, _, _, _ => rfl
  | n + 1, s, p, ptag => by
    unfold w2Drain
    dsimp only
    split
    · rfl
    · split
      · rfl
      · split
        · rfl
        · split
          · exact (w2Drain_bootView n ..).trans ((emit_bootView ..).trans (setPci_bootView ..))
          · exact (emit_bootView ..).trans ((pciErr_bootView ..).trans (setPci_bootView ..))

theorem deliverAnswer_bootView (s : State) (id : Nat) (p : Pkt) : bootView (deliverAnswer s id p) = bootView s := by
  unfold deliverAnswer w2Part
  split
  · split
    · exact (w2Drain_bootView ..).trans (setPci_bootView ..)
    · rfl
  · exact emit_bootView ..

theorem clearOut_bootView (s : State) (id : Nat) (st : Status) (ctr : Nat) : bootView (clearOut s id st ctr) = bootView s := by
  unfold clearOut
  refine foldl_proj bootView (fun u t => ?_) _ s
  split
  · exact (deliverAnswer_bootView ..).trans ((expectLate_bootView ..).trans (setOut_bootView ..))
  · rfl

theorem nocPost_bootView (s : State) (o : Owner) (st : Status) (kind cause id : Nat) :
    bootView (nocPost s o st kind cause id) = bootView s := by
  have h (m : Mc) : bootView { s with mc := m } = bootView s := rfl
  exact h _

theorem muzzledPin_bootView (s : State) (id v : Nat) : bootView (muzzledPin s id v) = bootView s := by
  unfold muzzledPin
  split <;> rfl

theorem muzzle_bootView (s : State) (id cause : Nat) : bootView (muzzle s id cause) = bootView s := by
  unfold muzzle
  exact (muzzledPin_bootView ..).trans <| (nocPost_bootView ..).trans <| (nocLast_bootView ..).trans <|
    (nocInt_bootView ..).trans <| (absorbAll_bootView ..).trans <| (clearOut_bootView ..).trans (setMap_bootView ..)

/-! ## BOOT_START (R112–R122) -/

/-- What t0 leaves: the boot registers are set anew, and the NoC runs. -/
theorem bootBase_frame (cause m : Nat) (mv : List Nat) (s : State) :
    (bootBase cause m mv s).boot =
      { phase := .booting, cfgMode := if cause = 3 then s.boot.cfgMode else m % 4, t0 := s.uptime, vccio := mv, cause := cause,
        suppliesOk := true } ∧
    (bootBase cause m mv s).lcs = s.lcs ∧ (bootBase cause m mv s).noc.running = true := by
  have h := bootBase_proj bootView setMap_bootView muzzle_bootView setFrame_bootView cause m mv s
  simpa only [bootView, Prod.mk.injEq] using h

@[simp] theorem bootStop_phase (ph : Phase) (st : Status) (s : State) : (bootStop ph st s).boot.phase = ph := rfl
@[simp] theorem bootStop_first (ph : Phase) (st : Status) (s : State) : (bootStop ph st s).boot.first = st := rfl
@[simp] theorem bootStop_cfgErr (ph : Phase) (st : Status) (s : State) : (bootStop ph st s).boot.cfgErr = true := rfl
@[simp] theorem bootStop_mc (ph : Phase) (st : Status) (s : State) : (bootStop ph st s).mc = s.mc := rfl

section
variable {s : State} {cause m : Nat} {mv : List Nat}

/-- From power-on reset and from a warm reset there is a cause to boot, and it is no wake. -/
theorem bootCause_of_reset (h : (s.boot.phase = .powerReset ∧ s.tbs.ref = true) ∨ s.boot.phase = .resetHeld) :
    ∃ c, bootCause s = some c ∧ c ≠ 3 := by
  obtain ⟨hp, hr⟩ | hp := h
  · exact ⟨1, by simp [bootCause, hp, hr], by decide⟩
  · exact ⟨2, by simp [bootCause, hp], by decide⟩

theorem bootCause_ne_wake (h : s.boot.phase = .powerReset ∨ s.boot.phase = .resetHeld) : bootCause s ≠ some 3 := by
  obtain hp | hp := h
  · simp [bootCause, hp]
  · simp [bootCause, hp]

section
variable {rom : Bool}

theorem bootStart_of_no_cause (h : bootCause s = none) : bootStart m rom mv s = s := by
  unfold bootStart
  rw [h]

/-- Outside a wake, slave parallel mode waits for VCCIO_0 (R125). -/
theorem bootStart_of_no_level (hc : bootCause s ≠ some 3) (hm : m % 4 = 2) (hv : sppLevel mv = false) :
    bootStart m rom mv s = s := by
  unfold bootStart
  split
  · rfl
  · next c h =>
    have h3 : c ≠ 3 := fun e => hc (e ▸ h)
    exact if_pos (by simp [h3, hm, hv])

end

section
variable (hc : bootCause s = some cause) (hv : m % 4 = 2 → sppLevel mv = true)
include hv

/-- With the level that the mode asks for, t0 does not wait (R125). -/
theorem level_not_missing : (cause != 3 && decide (m % 4 = 2) && !sppLevel mv) = false := by
  by_cases hm : m % 4 = 2
  · simp [hv hm]
  · simp [hm]

include hc

/-- A mismatch of the ROM halts the MC (Table 4.8). -/
theorem bootStart_of_rom_mismatch : bootStart m false mv s = bootStop .unconfigured .ok
    { bootBase cause m mv s with mc := { (bootBase cause m mv s).mc with halted := true } } := by
  simp only [bootStart, hc, level_not_missing hv, Bool.false_eq_true, if_false]

theorem bootStart_of_rom_ok : bootStart m true mv s =
    bootLoad cause { bootBase cause m mv s with boot := { (bootBase cause m mv s).boot with mcUp := true } } := by
  simp only [bootStart, hc, level_not_missing hv, Bool.false_eq_true, if_false, if_true]

end

end

section
variable {s : State} {cause : Nat}

/-- RETURNED and a pattern of no state load nothing (R456). -/
theorem bootLoad_of_denied (h : 5 ≤ lcDecode s.lcs.otp s.lcs.imgKey s.lcs.kek) :
    bootLoad cause s = bootStop .denied .lifecycleDeny (lcRead s) := by
  unfold bootLoad
  exact if_pos h

/-- Before DEPLOYED, outside a wake, a mode other than NV waits for its image (R112). -/
theorem bootLoad_of_waits (h : lcDecode s.lcs.otp s.lcs.imgKey s.lcs.kek ≤ 2) (hc : cause ≠ 3) (hm : s.boot.cfgMode ≠ 0) :
    bootLoad cause s = { s with lcs := (lcRead s).lcs, boot := { s.boot with phase := .waitImage } } := by
  have hs : (lcRead s).lcs.state ≤ 2 := h
  have hm' : (lcRead s).boot.cfgMode ≠ 0 := hm
  have h5 : ¬ 5 ≤ (lcRead s).lcs.state := by omega
  have h3 : (lcRead s).lcs.state ≠ 3 := by omega
  unfold bootLoad
  simp only [h5, h3, hc, hm', if_false, decide_false, Bool.false_and, Bool.false_eq_true]
  rfl

end

/-- The next state of a BOOT_START, from what the boot does. -/
theorem exec_bootStart_eq {m : Nat} {rom : Bool} {mv : List Nat} {s u : State} (h : bootStart m rom mv s.start = u) :
    exec (.bootStart m rom mv) s = .next (interrupts s u) :=
  done_eq (f := bootStart m rom mv) h

/-- Settles O2: by the cause of the boot, the ROM check and the life-cycle state, which t0 leaves to be read. -/
theorem bootStart_leads : Obligations.BootStart := by
  unfold Obligations.BootStart
  refine ⟨fun m rom mv s h => exec_bootStart_eq (bootStart_of_no_cause (s := s.start) h),
    fun m rom mv s hp hm hv => exec_bootStart_eq (bootStart_of_no_level (bootCause_ne_wake (s := s.start) hp) hm hv),
    fun m mv s hp hv => ?_, fun m mv s hp hv hl => ?_, fun m mv s hp hv hl hm => ?_⟩
  all_goals obtain ⟨c, hc, h3⟩ := bootCause_of_reset (s := s.start) hp
  all_goals obtain ⟨hb, hlcs, hrun⟩ := bootBase_frame c m mv s.start
  · refine ⟨_, exec_bootStart_eq (bootStart_of_rom_mismatch hc hv), ?_⟩
    simp
  · refine ⟨_, exec_bootStart_eq ((bootStart_of_rom_ok hc hv).trans (bootLoad_of_denied ?_)), ?_⟩
    · rw [hlcs]
      exact hl
    · simp
  · refine ⟨_, exec_bootStart_eq ((bootStart_of_rom_ok hc hv).trans (bootLoad_of_waits ?_ h3 ?_)), ?_⟩
    · rw [hlcs]
      exact hl
    · rw [hb]
      simpa [h3] using hm
    · simp [hb, h3, hrun]

/-! ## The start-up sequencer (R128–R131) -/

/-- The start-up events of a phase, in the order of their numbers. -/
def phaseEvents (s : State) (q : Nat) : List Nat := (List.range 6).filter fun i => eventPhase s i == q

/-- Those of them that wait for something that has not come. -/
def phaseWaits (s : State) (q : Nat) : List Nat := (phaseEvents s q).filter fun i => i < 2 && !waitMet s i

/-- The state in which every event of the phase that is no wait has fired. -/
def phaseFired (s : State) (q : Nat) : State := (phaseEvents s q).foldl fireEvent { s with boot := { s.boot with suPhase := q } }

/-- The next phase: its events fire, and its unmet waits hold it (R129, R130). -/
theorem startupPhase_of_next {s : State} {q : Nat} (ha : s.boot.suActive = true) (hw : s.boot.suWait = 0)
    (hq : nextPhase s = some q) : startupPhase s = startupEnd { phaseFired s q with boot := { (phaseFired s q).boot with
      suComp := ((phaseEvents s q).filter fun i => !(phaseWaits s q).contains i).foldl (fun n i => n + 2 ^ i)
        (phaseFired s q).boot.suComp
      suWait := (phaseWaits s q).foldl (fun n i => n + 2 ^ i) 0
      phase := if (phaseWaits s q).isEmpty then .booting else .startupHeld } } := by
  unfold startupPhase
  rw [hq, if_neg (by simp [ha, hw])]
  rfl

theorem phaseWaits_of_met {s : State} {q : Nat} (h : ∀ i, i < 2 → eventPhase s i = q → waitMet s i = true) :
    phaseWaits s q = [] := by
  refine List.filter_eq_nil_iff.mpr fun i hi => ?_
  have hp : eventPhase s i = q := by simpa using (List.mem_filter.mp hi).2
  by_cases h2 : i < 2
  · simp [h i h2 hp]
  · simp [h2]

/-- With no wait unmet every event of the phase is complete. -/
theorem startupPhase_of_met {s : State} {q : Nat} (ha : s.boot.suActive = true) (hw : s.boot.suWait = 0)
    (hq : nextPhase s = some q) (h : phaseWaits s q = []) :
    startupPhase s = startupEnd { phaseFired s q with boot := { (phaseFired s q).boot with
      suComp := (phaseEvents s q).foldl (fun n i => n + 2 ^ i) (phaseFired s q).boot.suComp
      suWait := 0
      phase := .booting } } := by
  have hf : ((phaseEvents s q).filter fun i => !([] : List Nat).contains i) = phaseEvents s q := by simp
  rw [startupPhase_of_next ha hw hq, h, hf]
  rfl

theorem zero_mem_phaseWaits {s : State} {q : Nat} (hp : eventPhase s 0 = q) (hm : waitMet s 0 = false) :
    0 ∈ phaseWaits s q := by
  simp [phaseWaits, phaseEvents, hp, hm]

/-- A set of events as bits is not empty when it has a member. -/
theorem foldl_bits_ne_zero {l : List Nat} (h : l ≠ []) : l.foldl (fun n i => n + 2 ^ i) 0 ≠ 0 := by
  have hle : ∀ (l : List Nat) (a : Nat), a ≤ l.foldl (fun n i => n + 2 ^ i) a := by
    intro l
    induction l with
    | nil => exact fun a => Nat.le_refl a
    | cons i l ih => exact fun a => Nat.le_trans (Nat.le_add_right a (2 ^ i)) (ih _)
  obtain ⟨i, l, rfl⟩ := List.exists_cons_of_ne_nil h
  have h1 : 0 + 2 ^ i ≤ (i :: l).foldl (fun n i => n + 2 ^ i) 0 := hle l (0 + 2 ^ i)
  have h2 : 0 < 2 ^ i := Nat.two_pow_pos i
  omega

theorem startupEnd_of_wait {s : State} (h : s.boot.suWait ≠ 0) : startupEnd s = s := by
  unfold startupEnd
  rw [if_neg (by simp [h])]

/-- Event 5 raises DONE, and what follows it leaves the boot registers (R131). -/
theorem doneAssert_done (s : State) : (doneAssert s).boot.done = true := by
  have hs (u : State) : (scrStart u).boot = u.boot := by
    unfold scrStart scrBoundary
    dsimp only
    split <;> split <;> rfl
  unfold doneAssert
  rw [wakeEnd_boot, postTries_boot]
  exact congrArg Boot.done (hs _)

/-- One wait that start-up holds for, and that is now met, completes (R130). -/
theorem waitEventComplete_of_met {s : State} {n : Nat} (ha : s.boot.suActive = true) (hn : n < 2) (hw : s.boot.suWait = 2 ^ n)
    (hm : waitMet s n = true) : waitEventComplete s = startupEnd { s with boot := { s.boot with
      suComp := s.boot.suComp + 2 ^ n, suWait := 0, phase := .booting } } := by
  have hmet : ((List.range 2).filter fun i => s.boot.suWait.testBit i && waitMet s i) = [n] := by
    have hr : List.range 2 = [0, 1] := rfl
    have h01 : n = 0 ∨ n = 1 := by omega
    simp only [hw, Nat.testBit_two_pow, hr]
    obtain rfl | rfl := h01
    · simp [hm]
    · simp [hm]
  unfold waitEventComplete
  rw [hmet]
  simp [ha, hw]

/-- The next state of a STARTUP_PHASE and of a WAIT_EVENT_COMPLETE, from what the sequencer does. -/
theorem exec_startupPhase_eq {s u : State} (h : startupPhase s.start = u) : exec .startupPhase s = .next (interrupts s u) :=
  done_eq (f := startupPhase) h

theorem exec_waitEventComplete_eq {s u : State} (h : waitEventComplete s.start = u) :
    exec .waitEventComplete s = .next (interrupts s u) :=
  done_eq (f := waitEventComplete) h

/-- Settles O8: by the waits of the next phase, of which there are none or event 0 among them. -/
theorem startup_sequence : Obligations.Startup := by
  unfold Obligations.Startup
  refine ⟨fun q s ha hw hq hm => ?_, fun q s ha hw hq hp hm => ?_, fun s => ⟨rfl, doneAssert_done s⟩,
    fun n s ha hn hw hm => exec_waitEventComplete_eq (waitEventComplete_of_met (s := s.start) ha (by omega) hw hm)⟩
  · exact exec_startupPhase_eq (startupPhase_of_met (s := s.start) ha hw hq (phaseWaits_of_met hm))
  · have h0 : phaseWaits s.start q ≠ [] := List.ne_nil_of_mem (zero_mem_phaseWaits hp hm)
    have hne := foldl_bits_ne_zero h0
    refine ⟨_, exec_startupPhase_eq ((startupPhase_of_next (s := s.start) ha hw hq).trans (startupEnd_of_wait hne)), ?_⟩
    rw [interrupts_boot]
    exact ⟨if_neg (by simpa using h0), hne⟩

/-! ## The words of the slave serial and parallel ports (R123–R126) -/

section
variable {mode : Nat} {s : State} {w : Word}

/-- A load that takes its words from a port is under way. -/
theorem not_idle_of_takesFrom (h : takesFrom s mode = true) : (s.loadOf mgmt).phase ≠ .idle := by
  intro hi
  simp [takesFrom, hi] at h

theorem pushWord_of_room (ht : takesFrom s mode = true) (hr : (s.loadOf mgmt).fifo.length < 4096) :
    pushWord mode s w = settle mgmt (s.setLoad mgmt { s.loadOf mgmt with
      fifo := (s.loadOf mgmt).fifo ++ [w], bytesIn := (s.loadOf mgmt).bytesIn + 4 }) := by
  have hf : ¬ fifoWords ≤ (s.loadOf mgmt).fifo.length := Nat.not_le.mpr hr
  simp [pushWord, not_idle_of_takesFrom ht, ht, hf]

theorem pushWord_of_full (ht : takesFrom s mode = true) (hf : 4096 ≤ (s.loadOf mgmt).fifo.length) :
    pushWord mode s w = loadFail mgmt .badParameter s := by
  have hf' : fifoWords ≤ (s.loadOf mgmt).fifo.length := hf
  simp [pushWord, not_idle_of_takesFrom ht, ht, hf']

/-- The manifest magic starts a load while the device waits for its image on this port (R126). -/
theorem pushWord_of_magic (hi : (s.loadOf mgmt).phase = .idle) (hm : s.boot.cfgMode = mode) (hu : s.boot.mcUp = true)
    (ha : s.boot.imgActive = false) (hp : s.boot.phase = .waitImage) (hl : lcImages s = true) :
    pushWord mode s 0xB10E5C0A = settle mgmt (newLoad s mgmt
      { phase := .manifest, used := true, source := 1 + mode, full := true, sup := true, port := true, fifo := [0xB10E5C0A],
        bytesIn := 4 }) := by
  simp [pushWord, hi, hm, hu, ha, hp, hl]

theorem sppWord_of_ready (hp : sppPort s = true) (hw : sppWait s = false) : sppWord w s = pushWord 2 s w := by
  simp [sppWord, hp, hw]

/-- SPP_WAIT is low while the FIFO has room (R125). -/
theorem room_of_sppWait (h : sppWait s = false) : (s.loadOf mgmt).fifo.length < 4096 := by
  have hf : ¬ fifoWords ≤ (s.loadOf 16).fifo.length := of_decide_eq_false h
  exact Nat.not_le.mp hf

end

section
variable {bs : List Byte} {s : State}

theorem streamWrite_of_whole (h : bs.length % 4 = 0) : streamWrite bs s = (bytesWords bs).foldl (pushWord 1) s := by
  simp [streamWrite, h]

theorem streamWrite_of_partial (h : bs.length % 4 ≠ 0) : streamWrite bs s =
    if takesFrom ((bytesWords bs).foldl (pushWord 1) s) 1 = true then
      loadFail mgmt .badParameter ((bytesWords bs).foldl (pushWord 1) s)
    else (bytesWords bs).foldl (pushWord 1) s := by
  simp [streamWrite, h]

end

/-- The next state of an SPP_WORD, from what the port does with the word. -/
theorem exec_sppWord_eq {w : Word} {s u : State} (hp : sppPort s = true) (hw : sppWait s = false)
    (h : pushWord 2 s.start w = u) : exec (.sppWord w) s = .next (interrupts s u) :=
  done_eq (f := sppWord w) ((sppWord_of_ready (s := s.start) hp hw).trans h)

theorem exec_streamWrite_eq {bs : List Byte} {s u : State} (h : streamWrite bs s.start = u) :
    exec (.streamWrite bs) s = .next (interrupts s u) :=
  done_eq (f := streamWrite bs) h

theorem exec_statusRead_eq (s : State) :
    exec .statusRead s = .next (interrupts s { s.start with out := [.words [sspStatus s]] }) :=
  done_eq (f := fun s => s.emit (.words [sspStatus s])) rfl

/-- Settles O9: each clause is what a port does with a word, a list of bytes or a read in that case. -/
theorem pushedWords : Obligations.PushedWords := by
  unfold Obligations.PushedWords
  exact ⟨fun w s hp hw ht => exec_sppWord_eq hp hw (pushWord_of_room (s := s.start) ht (room_of_sppWait hw)),
    fun s hp hw hi hm hu ha hph hl => exec_sppWord_eq hp hw (pushWord_of_magic (s := s.start) hi hm hu ha hph hl),
    fun bs s h => exec_streamWrite_eq (streamWrite_of_whole h),
    fun bs s h => exec_streamWrite_eq (streamWrite_of_partial h),
    fun w s ht hr => pushWord_of_room ht hr,
    fun w s ht hf => pushWord_of_full ht hf,
    exec_statusRead_eq⟩

end Sys2Proof.Machine
end

section
/-! PROOF. What the records of the control chunk record, what a beat of an internal configuration port does in each phase of its load,
what the swap commands do with a target that is not the whole device, and how a swap runs from its verification to its end; and with
them the statements StreamControl, IcpBeats, SwapCommands, SwapIssuers and SwapRuns. -/
namespace Sys2Proof.Machine
open Sys2Proof

/-! ## SETREG and STARTUP (R93, R106) -/

section
variable (s : State) (ld : Nat) (hdr : Word) (ws : List Word)

@[simp] theorem plainTaken_m : (plainTaken s ld hdr ws).m = (s.loadOf ld).m := rfl
@[simp] theorem plainTaken_full : (plainTaken s ld hdr ws).full = (s.loadOf ld).full := rfl
@[simp] theorem plainTaken_region : (plainTaken s ld hdr ws).region = (s.loadOf ld).region := rfl
@[simp] theorem plainTaken_decls : (plainTaken s ld hdr ws).decls = (s.loadOf ld).decls := rfl
@[simp] theorem plainState_regionOf (r : Nat) : (plainState s ld hdr ws).regionOf r = s.regionOf r := rfl

end

/-- A value that its register accepts is recorded as it is after clamping, with the clamps made. -/
theorem putReg_of_checked {ld addr : Nat} {w v : Word} {cs : List FieldClamp} {l : Load} {s : State}
    (h : checkReg l.m.idcode (if l.full then none else some l.region) addr w = some (v, cs)) :
    putReg ld addr w l s = s.setLoad ld { recordReg l addr v with clamps := noteClamps l addr cs } := by
  simp only [putReg, h]

theorem exec_setreg_of_checked {ld arg : Nat} {w v : Word} {cs : List FieldClamp} {s : State}
    (h : plainReady s ld (header 3 arg) [w] true) (ha : bf arg 23 16 = 0)
    (hv : checkReg (s.loadOf ld).m.idcode (if (s.loadOf ld).full then none else some (s.loadOf ld).region) (bf arg 15 0) w =
      some (v, cs)) :
    exec (.setreg ld arg w) s = .next (recDone s ld ((plainState s ld (header 3 arg) [w]).setLoad ld
      { recordReg (plainTaken s ld (header 3 arg) [w]) (bf arg 15 0) v with
        clamps := noteClamps (plainTaken s ld (header 3 arg) [w]) (bf arg 15 0) cs })) :=
  done_plainRec h ((if_neg (by simp [ha])).trans (putReg_of_checked hv))

theorem exec_startup_of_checked {ld arg : Nat} {v : Word} {cs : List FieldClamp} {s : State}
    (h : plainReady s ld (header 8 arg) [] true) (hf : (s.loadOf ld).full = true)
    (hv : checkReg (s.loadOf ld).m.idcode none 0x0002 (wd (arg % 0x1000000)) = some (v, cs)) :
    exec (.startup ld arg) s = .next (recDone s ld ((plainState s ld (header 8 arg) []).setLoad ld
      { recordReg (plainTaken s ld (header 8 arg) []) 0x0002 v with
        clamps := noteClamps (plainTaken s ld (header 8 arg) []) 0x0002 cs })) :=
  done_plainRec h ((if_pos hf).trans (putReg_of_checked (by simpa [hf] using hv)))

/-! ## REGION (R141) -/

section
variable {ld arg : Nat} {body : List Word} {s : State} (h : plainReady s ld (header 9 arg) body true)
  (h0 : bf arg 23 16 = 0) (h1 : 1 ≤ bf arg 15 8) (h4 : bf arg 15 8 ≤ 4) (hr : bf arg 7 0 ≤ 127)
  (hb : body.length = bf arg 15 8) (hd : (s.loadOf ld).decls.any (fun e => e.1 == bf arg 7 0) = false)
include h h0 h1 h4 hr hb hd

/-- A well-formed REGION of a region not declared before, which for a partial image is its own: a window that stands already
must be the one declared, and a new one is recorded with its place in the stream. -/
theorem exec_region_eq (hown : (s.loadOf ld).full = true ∨ bf arg 7 0 = (s.loadOf ld).region) :
    exec (.region ld arg body) s = .next (recDone s ld (
      if (!(s.loadOf ld).full && !(s.regionOf (bf arg 7 0)).window.isEmpty) = true then
        if ((s.regionOf (bf arg 7 0)).window == body) = true then
          (plainState s ld (header 9 arg) body).setLoad ld
            { plainTaken s ld (header 9 arg) body with decls := SMap.put (s.loadOf ld).decls (bf arg 7 0) body }
        else loadFail ld .badParameter (plainState s ld (header 9 arg) body)
      else if (!rectsOk (if (s.loadOf ld).full then (s.loadOf ld).decls.map (·.2)
          else otherWindows (plainState s ld (header 9 arg) body) (bf arg 7 0)) body) = true then
        loadFail ld .badParameter (plainState s ld (header 9 arg) body)
      else (plainState s ld (header 9 arg) body).setLoad ld
        { plainTaken s ld (header 9 arg) body with
          decls := SMap.put (s.loadOf ld).decls (bf arg 7 0) body, declPos := (s.loadOf ld).pos })) := by
  have hform : ¬ (bf arg 23 16 != 0 || decide (bf arg 15 8 < 1) || decide (4 < bf arg 15 8) || decide (127 < bf arg 7 0) ||
      body.length != bf arg 15 8) = true := by
    simp [h0, hb]; omega
  have hmine : ¬ ((s.loadOf ld).decls.any (fun e => e.1 == bf arg 7 0) ||
      (!(s.loadOf ld).full && bf arg 7 0 != (s.loadOf ld).region)) = true := by
    rw [hd]
    obtain hf | hf := hown <;> simp [hf]
  exact done_plainRec h ((if_neg hform).trans (if_neg hmine))

/-- A full image records the rectangles of a region, which are legal and clear of those declared before. -/
theorem exec_region_of_full (hf : (s.loadOf ld).full = true)
    (hk : rectsOk ((s.loadOf ld).decls.map (·.2)) body = true) :
    exec (.region ld arg body) s = .next (recDone s ld ((plainState s ld (header 9 arg) body).setLoad ld
      { plainTaken s ld (header 9 arg) body with
        decls := SMap.put (s.loadOf ld).decls (bf arg 7 0) body, declPos := (s.loadOf ld).pos })) := by
  rw [exec_region_eq h h0 h1 h4 hr hb hd (.inl hf), if_neg (by simp [hf]), if_neg (by simp [hf, hk])]

/-- A partial image records the window that its region already has. -/
theorem exec_region_of_partial (hf : (s.loadOf ld).full = false) (hown : bf arg 7 0 = (s.loadOf ld).region)
    (hw : (s.regionOf (bf arg 7 0)).window.isEmpty = false) (he : (s.regionOf (bf arg 7 0)).window = body) :
    exec (.region ld arg body) s = .next (recDone s ld ((plainState s ld (header 9 arg) body).setLoad ld
      { plainTaken s ld (header 9 arg) body with decls := SMap.put (s.loadOf ld).decls (bf arg 7 0) body })) := by
  rw [exec_region_eq h h0 h1 h4 hr hb hd (.inr hown), if_pos (by simp [hf, hw]), if_pos (by simp [he])]

end

/-- Settles O4: each clause is the equation of its record in that case. -/
theorem streamControl : Obligations.StreamControl := by
  unfold Obligations.StreamControl
  exact ⟨fun ld arg w v cs s h ha hv => exec_setreg_of_checked h ha hv,
    fun ld arg v cs s h hf hv => exec_startup_of_checked h hf hv,
    fun ld arg body s h hf h0 h1 h4 hr hb hd hk => exec_region_of_full h h0 h1 h4 hr hb hd hf hk,
    fun ld arg body s h hf h0 h1 h4 hr hb hd hown hw he => exec_region_of_partial h h0 h1 h4 hr hb hd hf hown hw he⟩

/-! ## Internal configuration ports (R152, R154) -/

@[simp] theorem icpSeen_loadOf (s : State) (icp ld : Nat) : (icpSeen s icp).loadOf ld = s.loadOf ld := rfl
@[simp] theorem mayLoad_icpSeen (s : State) (icp r : Nat) : mayLoad (icpSeen s icp) r = mayLoad s r := rfl
@[simp] theorem loadHeld_icpSeen (s : State) (icp r : Nat) : loadHeld (icpSeen s icp) r = loadHeld s r := rfl

/-- The load that a container for this region begins with at an ICP. -/
def icpLoad (region : Nat) : Load :=
  { direct := 128 ≤ region % 256, region := region % 128, used := true, source := 5, port := true }

section
variable {icp : Nat} {s : State} (h15 : icp ≤ 15) (hr : icpReady s icp = true)
include h15 hr

/-- A beat is transferred while icp_ready is high, and the band has then seen it. -/
theorem icpReady_passes : ¬ (decide (15 < icp) || !icpReady s.start icp) = true := by
  have hr : icpReady s.start icp = true := hr
  simp [hr, h15]

/-- The first beat of a container starts a load of a region that may be loaded, and is otherwise answered BUSY. -/
theorem icpBeat_of_idle (hp : (s.loadOf icp).phase = .idle) (d : BitVec 128) (eop : Bool) (region : Nat) :
    icpBeat icp d true eop region s.start =
      if (mayLoad s (region % 128) && !loadHeld s (region % 128)) = true then
        icpTake (startRegion (icpSeen s icp) icp (region % 128) (icpLoad region)) icp d eop
      else icpEop (loadRefuse icp .busy ((icpSeen s icp).setLoad icp (icpLoad region))) icp eop := by
  refine (if_neg (icpReady_passes h15 hr)).trans ?_
  simp only [State.start_loadOf, hp]
  rfl

/-- A later beat of a container in progress is taken into the load. -/
theorem icpBeat_of_loading (hp : (s.loadOf icp).phase = .manifest ∨ (s.loadOf icp).phase = .stream) (d : BitVec 128)
    (eop : Bool) (region : Nat) : icpBeat icp d false eop region s.start = icpTake (icpSeen s icp) icp d eop := by
  refine (if_neg (icpReady_passes h15 hr)).trans ?_
  obtain hp | hp := hp <;> simp only [State.start_loadOf, hp] <;> rfl

/-- After an error the beats are discarded up to the last. -/
theorem icpBeat_of_drain (hp : (s.loadOf icp).phase = .drain) (d : BitVec 128) (sop eop : Bool) (region : Nat) :
    icpBeat icp d sop eop region s.start = icpEop (icpSeen s icp) icp eop := by
  refine (if_neg (icpReady_passes h15 hr)).trans ?_
  simp only [State.start_loadOf, hp]
  rfl

end

/-- A beat that is not the last, and does not begin past the container's end, joins the FIFO. -/
theorem icpTake_of_within {s : State} {icp : Nat} {d : BitVec 128}
    (hn : ∀ n, containerLen (s.loadOf icp) = some n → (s.loadOf icp).bytesIn < n) :
    icpTake s icp d false = settle icp (s.setLoad icp { s.loadOf icp with
      fifo := (s.loadOf icp).fifo ++ beatWords d, bytesIn := (s.loadOf icp).bytesIn + 16 }) := by
  have hpast : (containerLen (s.loadOf icp)).any (fun n => decide (n ≤ (s.loadOf icp).bytesIn)) = false := by
    cases hc : containerLen (s.loadOf icp) with
    | none => rfl
    | some n => simp [hn n hc]
  simp [icpTake, icpEop, hpast]

/-- The last beat after an error makes the port idle again. -/
theorem icpEop_of_drain {s : State} {icp : Nat} (hp : (s.loadOf icp).phase = .drain) :
    icpEop s icp true = s.setLoad icp { s.loadOf icp with phase := .idle } := by
  simp [icpEop, hp]

/-- The next state of an ICP_BEAT, from what the port does with the beat. -/
theorem exec_icpBeat_eq {icp region : Nat} {d : BitVec 128} {sop eop : Bool} {s u : State}
    (h : icpBeat icp d sop eop region s.start = u) : exec (.icpBeat icp d sop eop region) s = .next (interrupts s u) :=
  done_eq (f := icpBeat icp d sop eop region) h

/-- Settles O10: each clause is what the port does with the beat in that phase of its load. -/
theorem icpBeats : Obligations.IcpBeats := by
  unfold Obligations.IcpBeats
  refine ⟨fun icp region d eop s h15 hr hp hm hh => exec_icpBeat_eq ?_,
    fun icp region d eop s h15 hr hp hm => exec_icpBeat_eq ?_,
    fun icp region d s h15 hr hp hn => exec_icpBeat_eq ?_,
    fun icp region d sop s h15 hr hp => exec_icpBeat_eq ?_⟩
  · exact (icpBeat_of_idle h15 hr hp d eop region).trans (if_pos (by simp [hm, hh]))
  · exact (icpBeat_of_idle h15 hr hp d eop region).trans (if_neg (by obtain hm | hm := hm <;> simp [hm]))
  · exact (icpBeat_of_loading h15 hr hp d false region).trans (icpTake_of_within (s := icpSeen s icp) hn)
  · exact (icpBeat_of_drain h15 hr hp d sop true region).trans (icpEop_of_drain (s := icpSeen s icp) hp)

/-! ## The issuer of a swap command and its target (R158) -/

/-- What a swap command on a target other than the whole device leaves: the issuer must own every member, the parameters must
name a target, and `body` is what it then does. -/
def onTarget (c : RunCmd) (t : Nat) (res : List Word) (u body : State) : State :=
  if (!ownsTarget u c t) = true then finish c .notOwner 0 [] res u
  else if badTarget u t = true then finish c .badParameter 0 [] res u
  else body

section
variable {c : RunCmd} {t : Nat} {res : List Word} {u body : State}

/-- An issuer owns a target when it owns each of its members. -/
theorem ownsTarget_iff : ownsTarget u c t = true ↔ ∀ r ∈ members u t, u.owner r = cmdOwner c := by
  simp [ownsTarget]

/-- The groups without members, and the single regions that are a group's or have no window, are no targets. -/
theorem badTarget_of_empty (h15 : t ≠ 15) (h : (t < 15 ∧ members u t = []) ∨
    (256 ≤ t ∧ ((u.regionOf (t - 256)).groupEn = true ∨ (t - 256 < 128 ∧ u.rects (t - 256) = [])))) :
    badTarget u t = true := by
  obtain ⟨ht, hm⟩ | ⟨ht, hm⟩ := h
  · have ht : ¬ 256 ≤ t := by omega
    simp [badTarget, ht, h15, hm]
  · obtain hm | ⟨-, hm⟩ := hm <;> simp [badTarget, ht, hm]

theorem onTarget_of_foreign (h : ∃ r ∈ members u t, u.owner r ≠ cmdOwner c) :
    onTarget c t res u body = finish c .notOwner 0 [] res u :=
  if_pos (by simpa [← Bool.not_eq_true, ownsTarget_iff] using h)

theorem onTarget_of_bad (ho : ownsTarget u c t = true) (hb : badTarget u t = true) :
    onTarget c t res u body = finish c .badParameter 0 [] res u :=
  (if_neg (by simp [ho])).trans (if_pos hb)

theorem onTarget_of_good (ho : ownsTarget u c t = true) (hb : badTarget u t = false) : onTarget c t res u body = body :=
  (if_neg (by simp [ho])).trans (if_neg (by simp [hb]))

end

/-! ## PREPARE_SWAP, COMMIT_SWAP and ABORT_SWAP (R159, R162, R167) -/

section
variable (s : State) (d : Nat)

@[simp] theorem servedState_members (t : Nat) : members (servedState s d) t = members s t := rfl

/-- Taking an entry leaves alone what R159 looks at. -/
@[simp] theorem servedState_prepareCheck (t : Nat) :
    ∀ ms : List Nat, prepareCheck (servedState s d) t ms = prepareCheck s t ms
  | [] => rfl
  | r :: rs => by
    unfold prepareCheck
    rw [servedState_prepareCheck t rs]
    rfl

end

/-- What PREPARE_SWAP does with a target that its issuer owns: a vote that CFG has given holds it up, the first member that fails
R159 refuses it, and otherwise the verification starts. -/
def prepareOwned (c : RunCmd) (t : Nat) (u : State) : State :=
  if prepareHeld u (members u t) = true then finish c .busy 3 [] [0xFF] u
  else if (prepareCheck u t (members u t)).1 = .ok then
    waitCmd c [] (u.setTarget t { u.targetOf t with
      state := .verifying, status := .ok, member := 0xFF, cause := 0, prep := some ⟨c.d, c.tag⟩, comm := none,
      members := members u t, pending := [], issuer := c.d })
  else
    finish c (prepareCheck u t (members u t)).1 3 [] [wd (prepareCheck u t (members u t)).2] (u.setTarget t
      (if (prepareCheck u t (members u t)).1 = .busy then { u.targetOf t with status := .busy }
       else { u.targetOf t with
        status := (prepareCheck u t (members u t)).1, member := (prepareCheck u t (members u t)).2,
        cause := if (prepareCheck u t (members u t)).1 = .destPoweredDown then 0 else 1 }))

/-- The time that a COMMIT_SWAP names. -/
def commitTime (c : RunCmd) : Nat := pw c 1 + pw c 2 * 0x100000000

/-- What COMMIT_SWAP does with a target that its issuer owns: it must be READY, and the time in the window of R162. -/
def commitOwned (c : RunCmd) (t : Nat) (u : State) : State :=
  if ((u.targetOf t).state == .armed) = true then
    finish c .busy 3 [] [] (u.setTarget t { u.targetOf t with status := .busy })
  else if ((u.targetOf t).state != .ready) = true then
    finish c .notReady 3 [] [] (u.setTarget t { u.targetOf t with status := .notReady })
  else if (decide (commitTime c < u.now + 2000) || decide (u.now + 100000000000 < commitTime c)) = true then
    finish c .badParameter 3 [] [wd u.now, wd (u.now / 0x100000000)]
      (u.setTarget t { u.targetOf t with status := .badParameter })
  else waitCmd c [] (u.setTarget t { u.targetOf t with
    state := .armed, init := bf (pw c 0) 16 16 == 1, t := commitTime c, moved := 0, comm := some ⟨c.d, c.tag⟩, status := .ok,
    member := 0xFF, cause := 0, issuer := c.d })

/-- What ABORT_SWAP does with a target that its issuer owns: a prepare or commit that has not reached T' ends. -/
def abortOwned (c : RunCmd) (t : Nat) (u : State) : State :=
  if ((u.targetOf t).state == .verifying || (u.targetOf t).state == .ready || (u.targetOf t).state == .armed) = true then
    finish c .ok 3 [] [] (endTarget t 3 u)
  else finish c .notReady 3 [] [] u

section
variable {s u : State} {d t : Nat} {c : RunCmd} (hu : u = servedState s d) (hc : c = frontEntry s d)
  (ht : t = targetId c) (h15 : t ≠ 15)
include hu hc ht h15

theorem exec_prepareSwap_eq (h : served s d 0x0203 .owner) :
    exec (.prepareSwap d) s = .next (answered s (onTarget c t [0xFF] u (prepareOwned c t u))) := by
  subst hu hc ht
  exact serve_eq h (if_neg h15)

theorem exec_commitSwap_eq (h : served s d 0x0204 .owner) :
    exec (.commitSwap d) s = .next (answered s (onTarget c t [] u (commitOwned c t u))) := by
  subst hu hc ht
  refine serve_eq h ?_
  simp only [if_neg h15]
  rfl

theorem exec_abortSwap_eq (h : served s d 0x0205 .owner) :
    exec (.abortSwap d) s = .next (answered s (onTarget c t [] u (abortOwned c t u))) := by
  subst hu hc ht
  refine serve_eq h ?_
  simp only [if_neg h15, decide_eq_false h15, Bool.false_and]
  rfl

end

section
variable {c : RunCmd} {t : Nat} {u : State}

theorem prepareOwned_of_ok (hh : prepareHeld u (members u t) = false) (hk : (prepareCheck u t (members u t)).1 = .ok) :
    prepareOwned c t u = waitCmd c [] (u.setTarget t { u.targetOf t with
      state := .verifying, status := .ok, member := 0xFF, cause := 0, prep := some ⟨c.d, c.tag⟩, comm := none,
      members := members u t, pending := [], issuer := c.d }) :=
  (if_neg (by simp [hh])).trans (if_pos hk)

/-- Both ends of the window of R162 are in it. -/
theorem commitOwned_of_ready (hs : (u.targetOf t).state = .ready) (hlo : u.now + 2000 ≤ commitTime c)
    (hhi : commitTime c ≤ u.now + 100000000000) :
    commitOwned c t u = waitCmd c [] (u.setTarget t { u.targetOf t with
      state := .armed, init := bf (pw c 0) 16 16 == 1, t := commitTime c, moved := 0, comm := some ⟨c.d, c.tag⟩, status := .ok,
      member := 0xFF, cause := 0, issuer := c.d }) :=
  (if_neg (by simp [hs])).trans ((if_neg (by simp [hs])).trans (if_neg (by simp [hlo, hhi])))

theorem abortOwned_of_begun (hs : (u.targetOf t).state = .verifying ∨ (u.targetOf t).state = .ready ∨
    (u.targetOf t).state = .armed) : abortOwned c t u = finish c .ok 3 [] [] (endTarget t 3 u) :=
  if_pos (by simpa [or_assoc] using hs)

end

/-- Settles O11: the issuer owns the target, so each command does what it does with an owned one. -/
theorem swapCommands : Obligations.SwapCommands := by
  unfold Obligations.SwapCommands
  refine ⟨fun d s h h15 ho hb hh hk => ?_, fun d s h h15 ho hb hs hlo hhi => ?_, fun d s h h15 ho hb hs => ?_⟩
  · have hk : (prepareCheck (servedState s d) (targetId (frontEntry s d))
        (members (servedState s d) (targetId (frontEntry s d)))).1 = .ok := by
      rw [servedState_members, servedState_prepareCheck, hk]
    rw [exec_prepareSwap_eq rfl rfl rfl h15 h, onTarget_of_good (u := servedState s d) ho hb,
      prepareOwned_of_ok (u := servedState s d) hh hk]
    rfl
  · rw [exec_commitSwap_eq rfl rfl rfl h15 h, onTarget_of_good (u := servedState s d) ho hb,
      commitOwned_of_ready (u := servedState s d) hs hlo hhi]
    rfl
  · rw [exec_abortSwap_eq rfl rfl rfl h15 h, onTarget_of_good (u := servedState s d) ho hb,
      abortOwned_of_begun (u := servedState s d) hs]

/-- Settles O59: each command looks at the issuer and the target before it does anything. -/
theorem swapIssuers : Obligations.SwapIssuers := by
  unfold Obligations.SwapIssuers
  intro d op t i res c u s hi h hu hc ht h15
  have heq : ∃ body, exec i s = .next (answered s (onTarget c t res u body)) := by
    simp only [List.mem_cons, List.not_mem_nil, or_false, Prod.mk.injEq] at hi
    obtain ⟨rfl, rfl, rfl⟩ | ⟨rfl, rfl, rfl⟩ | ⟨rfl, rfl, rfl⟩ := hi
    · exact ⟨_, exec_prepareSwap_eq hu hc ht h15 h⟩
    · exact ⟨_, exec_commitSwap_eq hu hc ht h15 h⟩
    · exact ⟨_, exec_abortSwap_eq hu hc ht h15 h⟩
  obtain ⟨body, heq⟩ := heq
  refine ⟨fun hf => ?_, fun ho hb => ?_⟩
  · rw [heq, onTarget_of_foreign hf]
  · rw [heq, onTarget_of_bad (ownsTarget_iff.mpr ho) (badTarget_of_empty h15 hb)]

/-! ## Verification (R160) -/

section
variable {s : State} {t : Nat} (hs : (s.targetOf t).state = .verifying)
include hs

/-- Verification without a bad frame leaves the target READY. -/
theorem verifyDone_of_good (hk : ∀ k ∈ verifyFrames s t, shadowFails s k = false) :
    verifyDone t s = endCmd? (s.targetOf t).prep .ok 3 [0xFF]
      (s.setTarget t { s.targetOf t with state := .ready, prep := none, status := .ok }) := by
  have hnone : (verifyFrames s t).filter (shadowFails s) = [] := List.filter_eq_nil_iff.mpr (by simpa using hk)
  exact (if_neg (by simp [hs])).trans (if_pos (by simp [hnone]))

/-- With one, the members that hold a bad frame are INCOMPLETE, and the prepare ends CRC_FAIL with the lowest. -/
theorem verifyDone_of_bad {k m : Nat} (hk : k ∈ verifyFrames s t) (hf : shadowFails s k = true)
    (hm : m = (failingMembers s t ((verifyFrames s t).filter (shadowFails s))).min?.getD 0xFF) :
    verifyDone t s = endCmd? (s.targetOf t).prep .crcFail 3 [wd m]
      (((failingMembers s t ((verifyFrames s t).filter (shadowFails s))).foldl
        (fun u r => u.setRegion r { u.regionOf r with state := .incomplete }) s).setTarget t { s.targetOf t with
          state := .idle, prep := none, status := .crcFail, member := m, cause := 0, consents := [] }) := by
  subst hm
  have hsome : (verifyFrames s t).filter (shadowFails s) ≠ [] := List.ne_nil_of_mem (List.mem_filter.mpr ⟨hk, hf⟩)
  exact (if_neg (by simp [hs])).trans (if_neg (by simpa using hsome))

end

/-! ## The decision at T' (R163) -/

/-- The state in which the members of a target that proceeds at t' await their edges. -/
def startSwitching (t t' : Nat) (s : State) : State :=
  ((s.targetOf t).members.filter (· != staticMember)).foldl
    (fun u r => u.setRegion r { u.regionOf r with state := .switchPending })
    (s.setTarget t { s.targetOf t with
      state := .switching, tPrime := t', pending := (s.targetOf t).members, switched := false })

section
variable {s : State} {t t' : Nat} {alive : List Nat} (hs : (s.targetOf t).state = .armed)
  (ht : decisionAt s t = some t')
include hs ht

/-- An armed target of which no member fails starts switching, and the whole device takes what is staged with it. -/
theorem swapDecision_of_go (hk : decideFail s t alive = none) :
    swapDecision t alive s = if t = 15 then applyStaged (startSwitching t t' s) else startSwitching t t' s := by
  simp [swapDecision, startSwitching, hs, ht, hk]

/-- One with a member that fails ends SWAP_ABORTED with that member. -/
theorem swapDecision_of_fail {m cause : Nat} (hk : decideFail s t alive = some (m, cause)) :
    swapDecision t alive s =
      (endCmd? (s.targetOf t).comm .swapAborted 3 (commitRes m cause) (s.setTarget t { s.targetOf t with
        state := .idle, comm := none, tPrime := t', status := .swapAborted, member := m, cause := cause,
        consents := [] })).raiseFor (targetAccs s t) 0x2005C 0 2 := by
  simp [swapDecision, hs, ht, hk]

end

/-! ## The edges of the swap clocks (R164, R169) -/

/-- At an edge that a member awaits, every member of its clock net that awaits it takes it. -/
theorem switchingEdge_of_awaits {s : State} {t r : Nat} (h : awaits s t r false = true) :
    switchingEdge t r s = (netMembers s t r false).foldl (memberE0 t) s :=
  if_neg (by simp [h])

/-- At its E0 a region that keeps its state flips its frames and is held; its flip-flops stay. -/
theorem memberE0_of_kept {s u : State} {t r : Nat} (hr : r ≠ staticMember) (hi : (s.targetOf t).init = false)
    (hu : u = (flipFrames s (flipSet s t r)).setRegion r { (flipFrames s (flipSet s t r)).regionOf r with
      state := .switching, hold := true, gsr := ((flipFrames s (flipSet s t r)).regionOf r).isolated }) :
    memberE0 t s r = setCycle u.refresh (tablesIn (memberArea u t r)) true := by
  subst hu
  simp [memberE0, hr, hi]

/-- Before 1 ms after T' has passed, no commit times out. -/
theorem commitTimeout_of_early {s : State} {t : Nat} (hn : s.now ≤ (s.targetOf t).tPrime + 1000000) :
    commitTimeout t s = s :=
  if_pos (by simp [hn])

/-- After it, the commit of a target with a member still pending ends TIMEOUT, and those members are late. -/
theorem commitTimeout_of_late {s : State} {t : Nat} (hs : (s.targetOf t).state = .switching)
    (hp : (s.targetOf t).pending.isEmpty = false) (hn : (s.targetOf t).tPrime + 1000000 < s.now) :
    commitTimeout t s =
      (endCmd? (s.targetOf t).comm .timeout 3 (commitRes ((s.targetOf t).pending.min?.getD 0xFF) 2)
        ((((s.targetOf t).pending.filter (· != staticMember)).foldl
            (fun u r => u.setRegion r { u.regionOf r with late := true }) s).setTarget t { s.targetOf t with
          state := .idle, comm := none, status := .timeout, member := (s.targetOf t).pending.min?.getD 0xFF, cause := 2,
          consents := [] })).raiseFor (targetAccs s t) 0x2005C 0 4 :=
  if_neg (by simp [hs, hp, hn])

section
variable {s u : State} {t r : Nat} (h : awaits s t r true = true) (hn : s.now ≤ (s.targetOf t).tPrime + 1000000)
  (hu : u = (netMembers s t r true).foldl (memberE1 t) s)
include h hn hu

/-- The end of the cycle of the members of a net, in time: while others wait the target stays as it is, and the last completes
the commit with OK. -/
theorem swapCycleEnd_eq : swapCycleEnd t r s =
    if ((u.targetOf t).state != .switching || !(u.targetOf t).pending.isEmpty) = true then u
    else (endCmd? (u.targetOf t).comm .ok 3
        [wd (u.targetOf t).tPrime, wd ((u.targetOf t).tPrime / 0x100000000), wd s.now, wd (s.now / 0x100000000)]
        (u.setTarget t { u.targetOf t with
          state := restState t, comm := none, tEnd := s.now, status := .ok, member := 0xFF, cause := 0,
          consents := [] })).raiseFor (targetAccs s t) 0x2005C 0 1 := by
  subst hu
  refine (if_neg (by simp [h])).trans ?_
  rw [commitTimeout_of_early hn]

theorem swapCycleEnd_of_waiting (hp : (u.targetOf t).pending.isEmpty = false ∨ (u.targetOf t).state ≠ .switching) :
    swapCycleEnd t r s = u :=
  (swapCycleEnd_eq h hn hu).trans (if_pos (by obtain hp | hp := hp <;> simp [hp]))

theorem swapCycleEnd_of_last (hp : (u.targetOf t).pending.isEmpty = true) (hs : (u.targetOf t).state = .switching) :
    swapCycleEnd t r s = (endCmd? (u.targetOf t).comm .ok 3
        [wd (u.targetOf t).tPrime, wd ((u.targetOf t).tPrime / 0x100000000), wd s.now, wd (s.now / 0x100000000)]
        (u.setTarget t { u.targetOf t with
          state := restState t, comm := none, tEnd := s.now, status := .ok, member := 0xFF, cause := 0,
          consents := [] })).raiseFor (targetAccs s t) 0x2005C 0 1 :=
  (swapCycleEnd_eq h hn hu).trans (if_neg (by simp [hp, hs]))

end

/-! ## SwapRuns -/

section
variable {t r : Nat} {alive : List Nat} {s u : State}

/-- The next state of each command of a swap's run, from what the swap does. -/
theorem exec_verifyDone_eq (h : verifyDone t s.start = u) : exec (.verifyDone t) s = .next (interrupts s u) :=
  done_eq (f := verifyDone t) h

theorem exec_swapDecision_eq (h : swapDecision t alive s.start = u) :
    exec (.swapDecision t alive) s = .next (interrupts s u) :=
  done_eq (f := swapDecision t alive) h

theorem exec_switchingEdge_eq (h : switchingEdge t r s.start = u) :
    exec (.switchingEdge t r) s = .next (interrupts s u) :=
  done_eq (f := switchingEdge t r) h

theorem exec_swapCycleEnd_eq (h : swapCycleEnd t r s.start = u) :
    exec (.swapCycleEnd t r) s = .next (interrupts s u) :=
  done_eq (f := swapCycleEnd t r) h

theorem exec_commitTimeout_eq (h : commitTimeout t s.start = u) : exec (.commitTimeout t) s = .next (interrupts s u) :=
  done_eq (f := commitTimeout t) h

end

/-- Settles O12: each clause is what the swap does in that case, in the state in which the command acts. -/
theorem swapRuns : Obligations.SwapRuns := by
  unfold Obligations.SwapRuns
  refine ⟨fun t s hs hk => exec_verifyDone_eq (verifyDone_of_good (s := s.start) hs hk),
    fun t k m s hs hk hf hm => exec_verifyDone_eq (verifyDone_of_bad (s := s.start) hs hk hf hm),
    fun t t' alive s h15 hs ht hk => exec_swapDecision_eq ?_,
    fun t' alive s hs ht hk => exec_swapDecision_eq ?_,
    fun t t' m cause alive s hs ht hk => exec_swapDecision_eq (swapDecision_of_fail (s := s.start) hs ht hk),
    fun t r s h => exec_switchingEdge_eq (switchingEdge_of_awaits (s := s.start) h),
    fun t r s u hr hi hu => memberE0_of_kept hr hi hu,
    fun t r s h hn hp => exec_swapCycleEnd_eq (swapCycleEnd_of_waiting (s := s.start) h hn rfl ?_),
    fun t r s u h hn hu hp hs => exec_swapCycleEnd_eq (swapCycleEnd_of_last (s := s.start) h hn hu hp hs),
    fun t s hs hp hn => exec_commitTimeout_eq (commitTimeout_of_late (s := s.start) hs hp hn)⟩
  · exact (swapDecision_of_go (s := s.start) hs ht hk).trans (if_neg h15)
  · exact (swapDecision_of_go (s := s.start) hs ht hk).trans (if_pos rfl)
  · exact hp

end Sys2Proof.Machine
end

section
/-! PROOF. What a period boundary makes due and how a pass begins, what the scrubber does with a canary, a frame that it has read and
a frame that waits for a reload, what a microcode parity error halts and how the active period grows; and with them the statement
Scrubbing. -/
namespace Sys2Proof.Machine
open Sys2Proof

/-! ## The period boundary (R179, R186) -/

/-- The engines after a pass of each listed band has fallen due. -/
def dueBands (bs : List Nat) (m : SMap ScrBand) : SMap ScrBand :=
  bs.foldl (fun m b => SMap.set dScrB m b { SMap.get dScrB m b with due := true }) m

/-- An engine whose pass is due differs from one at reset, so its write puts an entry, and no other index sees it, whether or not
the array is canonical. -/
theorem get_set_due (m : SMap ScrBand) (j k : Nat) (g : ScrBand) :
    SMap.get dScrB (SMap.set dScrB m j { g with due := true }) k =
      if k = j then { g with due := true } else SMap.get dScrB m k := by
  by_cases hkj : k = j
  · subst hkj
    simp
  · have hne : { g with due := true } ≠ dScrB j := fun h => absurd (congrArg ScrBand.due h) (by simp [dScrB])
    rw [if_neg hkj, SMap.set, if_neg hne, SMap.get_put_ne m _ hkj]

/-- A pass falls due in the listed bands and in no other. -/
theorem get_dueBands (k : Nat) : ∀ (bs : List Nat) (m : SMap ScrBand), SMap.get dScrB (dueBands bs m) k =
    if k ∈ bs then { SMap.get dScrB m k with due := true } else SMap.get dScrB m k
  | [], m => by simp [dueBands]
  | j :: bs, m => by
    refine (get_dueBands k bs _).trans ?_
    rw [get_set_due]
    by_cases hkj : k = j
    · subst hkj
      simp
    · simp [hkj]

/-- The scrubber after a period boundary. -/
def boundaryScr (s : State) : Scr := { s.scr with
  bound := some (match s.scr.bound with | none => s.uptime | some t => t + s.scr.active * 1000000)
  overrun := min 0xFFFFFFFF
    (s.scr.overrun + (((List.range 16).filter (scrRuns s)).filter fun b => (s.scrOf b).reading).length)
  cfg := s.scr.newCfg.getD s.scr.cfg
  active := s.scr.newCfg.getD s.scr.active
  newCfg := none
  bands := dueBands ((List.range 16).filter (scrRuns s)) s.scr.bands }

/-- Beside the scrubber a boundary touches the policy report and the interrupt copies alone. -/
theorem scrBoundary_eq (s : State) : ∃ c m, scrBoundary s = { s with copies := c, mc := m, scr := boundaryScr s } := by
  unfold scrBoundary
  dsimp only
  split <;> split <;> exact ⟨_, _, rfl⟩

@[simp] theorem scrBoundary_scr (s : State) : (scrBoundary s).scr = boundaryScr s := by
  obtain ⟨c, m, h⟩ := scrBoundary_eq s
  rw [h]

@[simp] theorem scrRuns_scrBoundary (s : State) (b : Nat) : scrRuns (scrBoundary s) b = scrRuns s b := by
  obtain ⟨c, m, h⟩ := scrBoundary_eq s
  rw [h]
  rfl

/-- A boundary makes the pass of a running band due, and changes nothing else of its engine. -/
theorem scrBoundary_scrOf_of_runs {s : State} {b : Nat} (hb : b ≤ 15) (hr : scrRuns s b = true) :
    (scrBoundary s).scrOf b = { s.scrOf b with due := true } := by
  have hmem : b ∈ (List.range 16).filter (scrRuns s) := List.mem_filter.mpr ⟨List.mem_range.mpr (by omega), hr⟩
  unfold State.scrOf
  rw [scrBoundary_scr]
  exact (get_dueBands b _ _).trans (if_pos hmem)

/-- Each running band whose pass has not ended overruns. -/
theorem scrBoundary_overrun (s : State) : (scrBoundary s).scr.overrun =
    min 0xFFFFFFFF (s.scr.overrun + ((List.range 16).filter fun b => scrRuns s b && (s.scrOf b).reading).length) := by
  simp [boundaryScr, List.filter_filter, Bool.and_comm]

/-! ## The start of a pass (R179) -/

/-- The pass of a band, where it is due and none runs, begins with its canary read. -/
def startPass (b : Nat) (c1 c2 : Bool) (u : State) : State :=
  if (u.scrOf b).reading || !(u.scrOf b).due || !scrRuns u b then u else canaryRead (passBegin u b false) b c1 c2

section
variable {b : Nat} {c1 c2 : Bool} {s u : State}

theorem startPass_of_reading (h : (u.scrOf b).reading = true) : startPass b c1 c2 u = u :=
  if_pos (by simp [h])

theorem startPass_of_due (hr : scrRuns u b = true) (hn : (u.scrOf b).reading = false) (hd : (u.scrOf b).due = true) :
    startPass b c1 c2 u = canaryRead (passBegin u b false) b c1 c2 :=
  if_neg (by simp [hr, hn, hd])

/-- At a boundary the pass of every running band is due; one that still reads goes on. -/
theorem startPass_scrBoundary (hb : b ≤ 15) (hr : scrRuns s b = true) : startPass b c1 c2 (scrBoundary s) =
    if (s.scrOf b).reading = true then scrBoundary s else canaryRead (passBegin (scrBoundary s) b false) b c1 c2 := by
  have he : (scrBoundary s).scrOf b = { s.scrOf b with due := true } := scrBoundary_scrOf_of_runs hb hr
  split
  · next hn => exact startPass_of_reading (by rw [he]; exact hn)
  · next hn =>
    exact startPass_of_due ((scrRuns_scrBoundary s b).trans hr) (by rw [he]; exact Bool.eq_false_iff.mpr hn) (by rw [he])

variable (hb : b ≤ 15) (he : s.scr.enable = true) (hh : s.scr.halted = false)
include hb he hh

theorem scrubPassStart_eq :
    scrubPassStart b c1 c2 s = startPass b c1 c2 (if boundaryDue s then scrBoundary s else s) :=
  if_neg (by simp [hb, he, hh])

theorem scrubPassStart_of_no_boundary (hd : boundaryDue s = false) :
    scrubPassStart b c1 c2 s = startPass b c1 c2 s := by
  rw [scrubPassStart_eq hb he hh, hd]
  rfl

theorem scrubPassStart_of_boundary (hd : boundaryDue s = true) :
    scrubPassStart b c1 c2 s = startPass b c1 c2 (scrBoundary s) := by
  rw [scrubPassStart_eq hb he hh, if_pos hd]

end

/-! ## The canary (R188, R189) -/

theorem canaryRead_of_ok {s : State} {b : Nat} (h : canaryOk s b = true) (c2 : Bool) : canaryRead s b true c2 = s :=
  if_pos (by simp [h])

/-- A canary that fails is rewritten; when its re-read fails as well the band only detects from then on. -/
theorem canaryRead_of_failing {s : State} {b : Nat} {c1 : Bool} (hf : (c1 && canaryOk s b) = false)
    (hd : (s.scrOf b).detect = false) : canaryRead s b c1 false =
      scrEvent ((writeCanary s b).setScr b { (writeCanary s b).scrOf b with detect := true }) 5 (canaryKey b) true .ok 4 0 :=
  if_neg (by simp [hf, hd])

/-! ## A read that completes (R181, R182) -/

section
variable {b tmr : Nat} {ups : List (Nat × Bool × Nat)} {c1 c2 : Bool} {s u : State} (hb : b ≤ 15)
  (hu : u = checkState ups tmr s) (hr : (u.scrOf b).reading = true) (hh : u.scr.halted = false) (hrun : scrRuns u b = true)
include hb hu hr hh hrun

/-- The read of the canary of a pass, after which the pass reads its frames. -/
theorem frameCheck_of_canary (hc : (u.scrOf b).canary = true) : frameCheck b ups tmr c1 c2 s =
    canaryRead (u.setScr b { u.scrOf b with canary := false, at_ := u.now }) b c1 c2 := by
  subst hu
  exact (if_neg (by simp [hb, hr, hh, hrun])).trans (if_pos hc)

/-- The read of a frame: it is decided on, but in a band that leaves, and the engine moves on. -/
theorem frameCheck_of_frame {key : Nat} (hc : (u.scrOf b).canary = false)
    (hk : key = frameKey b (u.scrOf b).col (u.scrOf b).minor) : frameCheck b ups tmr c1 c2 s =
      scrAdvance (readEnds (if scrLeaves u b = true then u else frameDecide b key c1 c2 u) b key) b := by
  subst hu hk
  refine (if_neg (by simp [hb, hr, hh, hrun])).trans ((if_neg (by simp [hc])).trans ?_)
  split <;> rfl

end

section
variable {b key w : Nat} {c1 c2 : Bool} {s : State}

/-- A frame that reads without an error and matches its signature is left alone, and so is one that is marked or waits. -/
theorem frameDecide_of_clean (he : planeErrs (s.frameOf key).active = [])
    (hc : crc32c (wordBytes (planeRead (s.frameOf key).active)) = (s.frameOf key).active.sig)
    (hb : planeBad (s.frameOf key).active = false) : frameDecide b key c1 c2 s = s := by
  unfold frameDecide
  dsimp only
  split
  · rfl
  · exact (if_neg (by simp [hb, hc])).trans (if_neg (by simp [he]))

/-- One whose errors are all correctable, and which then matches its signature, is corrected. -/
theorem frameDecide_of_correctable (hm : (s.frameOf key).active.uncorr = false) (hp : (s.frameOf key).active.pend = false)
    (hb : planeBad (s.frameOf key).active = false)
    (hc : crc32c (wordBytes (planeRead (s.frameOf key).active)) = (s.frameOf key).active.sig)
    (hw : ((planeErrs (s.frameOf key).active).map fun e => e.1).min? = some w) :
    frameDecide b key c1 c2 s = frameCorrect b key w c1 c2 s := by
  have hne : planeErrs (s.frameOf key).active ≠ [] := fun h => by simp [h] at hw
  unfold frameDecide
  dsimp only
  rw [if_neg (by simp [hm, hp]), if_neg (by simp [hb, hc]), if_pos (by simp [hne]), hw, Option.getD_some]

/-- A damaged one of a recorded source waits for its reload. -/
theorem frameDamaged_of_recorded (hp : (s.frameOf key).active.src ≠ .pushed) (hn : (s.frameOf key).active.src ≠ .unwritten)
    (hw : scrWrites s b = true) :
    frameDamaged b key w s = setActive s key { (s.frameOf key).active with pend := true, word := w } :=
  (if_neg (by simp [hp, hn])).trans (if_neg (by simp [hw]))

end

/-! ## A reload (R184, R185) -/

/-- A frame restored by a reload whose checks pass, with its event. -/
def reloadRestore (u : State) (key : Nat) (physB : Bool) (p : Plane) : State :=
  scrEvent (scrActed (((setPhys u key physB
      { p with payload := packWords (fetchFrame u key p true).words, flips := [], pend := false }).refresh).setScr
    (keyBand key) { u.scrOf (keyBand key) with rel := sat 0xFFFFFFFF (u.scrOf (keyBand key)).rel }) (keyBand key))
    2 key true .ok (srcCode p.src) p.word

/-- A reload that is due, and that nothing holds up, restores the frame or marks it as its checks have it. -/
theorem frameReload_of_pending {far : Nat} {physB : Bool} {r : ReloadRead} {c2 : Bool} {p : Plane} {s u : State}
    (hp : p = (if physB = true then (s.frameOf (bf far 29 8)).b else (s.frameOf (bf far 29 8)).a)) (hd : p.pend = true)
    (hh : s.scr.halted = false) (hm : mcRuns s = true) (hw : reloadWaits s p = false)
    (hc : canaryOk s (keyBand (bf far 29 8)) = true) (hdet : (s.scrOf (keyBand (bf far 29 8))).detect = false)
    (hu : u = reloadMeets s p) : frameReload far physB r true c2 s =
      if reloadStatus u (bf far 29 8) p r = .ok then reloadRestore u (bf far 29 8) physB p
      else markUncorr u (bf far 29 8) physB (reloadStatus u (bf far 29 8) p r) p.word := by
  have hcan : canaryRead s (keyBand (bf far 29 8)) true c2 = s := canaryRead_of_ok hc c2
  have hwr : scrWrites s (keyBand (bf far 29 8)) = true := by simp [scrWrites, hh, hdet]
  unfold frameReload
  dsimp only
  rw [← hp, if_neg (by simp [hd, hh, hm, hw]), hcan, if_neg (by simp [hwr]), ← hu]
  rfl

/-! ## A microcode parity error (R187) -/

theorem microcodeParityError_halted (s : State) : (microcodeParityError s).scr.halted = true := rfl

theorem microcodeParityError_cfg (s : State) : (microcodeParityError s).cfg = s.cfg := rfl

/-! ## The active period (R186) -/

section
variable {s : State}

theorem activePeriodDouble_of_early (h : s.uptime < s.scr.since + dayNs) : activePeriodDouble s = s :=
  if_pos (by simp [h])

variable (he : s.scr.enable = true) (hd : s.scr.since + dayNs ≤ s.uptime)
include he hd

/-- After a clean day a period below the configured one doubles, up to that one. -/
theorem activePeriodDouble_of_below (ha : s.scr.active < s.scr.cfg) : activePeriodDouble s =
    ({ s with scr := { s.scr with
        since := s.scr.since + dayNs, active := min s.scr.cfg (2 * s.scr.active) } }).policy .ok 2 0
      (min s.scr.cfg (2 * s.scr.active)) :=
  (if_neg (by simp [he, hd])).trans (if_neg (by omega))

/-- One that has reached the configured period stays. -/
theorem activePeriodDouble_of_reached (ha : s.scr.cfg ≤ s.scr.active) :
    activePeriodDouble s = { s with scr := { s.scr with since := s.scr.since + dayNs } } :=
  (if_neg (by simp [he, hd])).trans (if_pos ha)

end

/-! ## Scrubbing -/

section
variable {s u : State}

/-- The next state of each command of the scrubber, from what the scrubber does. -/
theorem exec_scrubPassStart_eq {b : Nat} {c1 c2 : Bool} (h : scrubPassStart b c1 c2 s.start = u) :
    exec (.scrubPassStart b c1 c2) s = .next (interrupts s u) :=
  done_eq (f := scrubPassStart b c1 c2) h

theorem exec_frameCheck_eq {b tmr : Nat} {ups : List (Nat × Bool × Nat)} {c1 c2 : Bool}
    (h : frameCheck b ups tmr c1 c2 s.start = u) : exec (.frameCheck b ups tmr c1 c2) s = .next (interrupts s u) :=
  done_eq (f := frameCheck b ups tmr c1 c2) h

theorem exec_frameReload_eq {far : Nat} {physB : Bool} {r : ReloadRead} {c1 c2 : Bool}
    (h : frameReload far physB r c1 c2 s.start = u) : exec (.frameReload far physB r c1 c2) s = .next (interrupts s u) :=
  done_eq (f := frameReload far physB r c1 c2) h

theorem exec_microcodeParityError_eq (s : State) :
    exec .microcodeParityError s = .next (interrupts s (microcodeParityError s.start)) :=
  done_eq rfl

theorem exec_activePeriodDouble_eq (h : activePeriodDouble s.start = u) :
    exec .activePeriodDouble s = .next (interrupts s u) :=
  done_eq (f := activePeriodDouble) h

end

/-- Settles O13: each clause is what the scrubber does in that case, in the state in which the command acts. -/
theorem scrubbing : Obligations.Scrubbing := by
  unfold Obligations.Scrubbing
  refine ⟨fun b c1 c2 s hb he hh hrun hbd hn hd => exec_scrubPassStart_eq ?_,
    fun b c1 c2 s hb he hh hrun hbd => exec_scrubPassStart_eq ?_,
    scrBoundary_overrun,
    fun b c2 s h => canaryRead_of_ok h c2,
    fun b c1 s hf hd => canaryRead_of_failing hf hd,
    fun b tmr ups c1 c2 s u hb hu hr hh hrun hc => exec_frameCheck_eq (frameCheck_of_canary hb hu hr hh hrun hc),
    fun b key tmr ups c1 c2 s u hb hu hr hh hrun hc hk =>
      exec_frameCheck_eq (frameCheck_of_frame hb hu hr hh hrun hc hk),
    fun b key c1 c2 s he hc hb => frameDecide_of_clean he hc hb,
    fun b key w c1 c2 s hm hp hb hc hw => frameDecide_of_correctable hm hp hb hc hw,
    fun b key w s hp hn hw => frameDamaged_of_recorded hp hn hw,
    fun far physB r c2 p s u hp hd hh hm hw hc hdet hu =>
      exec_frameReload_eq (frameReload_of_pending (s := s.start) hp hd hh hm hw hc hdet hu),
    fun s => ⟨_, exec_microcodeParityError_eq s, microcodeParityError_halted s.start, microcodeParityError_cfg s.start, rfl⟩,
    fun s he hd ha => exec_activePeriodDouble_eq (activePeriodDouble_of_below (s := s.start) he hd ha),
    fun s he hd ha => exec_activePeriodDouble_eq (activePeriodDouble_of_reached (s := s.start) he hd ha),
    fun s h => exec_activePeriodDouble_eq (activePeriodDouble_of_early (s := s.start) h)⟩
  · exact (scrubPassStart_of_no_boundary (s := s.start) hb he hh hbd).trans (startPass_of_due (u := s.start) hrun hn hd)
  · exact (scrubPassStart_of_boundary (s := s.start) hb he hh hbd).trans (startPass_scrBoundary (s := s.start) hb hrun)

end Sys2Proof.Machine
end

section
/-! PROOF. How the network takes a packet from a design, lets a request and an answer arrive, gives up a request that is not answered,
and what its four commands do once they are served; and with them the statements NocInjection, NocArrival, NocAnswers, NocTimeouts and
NocCommands. -/
namespace Sys2Proof.Machine
open Sys2Proof

/-! ## The flits of a packet at a network interface (R204, R205, R218) -/

/-- The packet that flits present at the interface of a fabric endpoint, with that interface's stamps. The payload of a RD_RSP has the
length of the request that it answers. -/
def presented (s : State) (ep : Nat) (fl : List (BitVec 256)) : Pkt :=
  if (stamped s ep (pktOf fl)).op == .rdRsp then
    { stamped s ep (pktOf fl) with data := payload fl (stamped s ep (pktOf fl)).len }
  else stamped s ep (pktOf fl)

theorem presented_eq (s : State) (ep : Nat) (fl : List (BitVec 256)) : presented s ep fl =
    if (stamped s ep (pktOf fl)).op = .rdRsp then
      { stamped s ep (pktOf fl) with data := payload fl (stamped s ep (pktOf fl)).len }
    else stamped s ep (pktOf fl) := by
  simp only [presented, beq_iff_eq]

/-- The stamps of a request are those of the interface, with the domain of its endpoint. -/
theorem stamped_fields (s : State) (ep : Nat) (p : Pkt) :
    (stamped s ep p).src = (niOf s ep).1 ∧ (stamped s ep p).gen = (niOf s ep).2 ∧ (stamped s ep p).epoch = s.noc.epoch ∧
      (isRsp p.op = false → (stamped s ep p).dom = fabDomain s (ep % 8) (ep / 8)) :=
  ⟨rfl, rfl, rfl, fun h => if_neg (by simp [h])⟩

section
variable {s : State} {ep : Nat} {rsp : Bool} {fl : List (BitVec 256)} {q : Pkt}
  (he : ep < 128) (hf : fl.isEmpty = false) (hr : s.noc.running = true) (hb : (s.bandOf (ep / 8)).state = .on)
  (hl : latchAt s (ep / 8) (niCol (ep % 8)) = false)
include he hf hr hb hl

/-- An interface of a running network in a band that is ON and not latched takes flits. -/
theorem niInject_takes :
    ¬ (decide (128 ≤ ep) || fl.isEmpty || !s.noc.running || (s.bandOf (ep / 8)).state != .on ||
      latchAt s (ep / 8) (niCol (ep % 8))) = true := by
  simp [he, hf, hr, hb, hl]

variable (hq : q = presented s ep fl)
include hq

/-- A malformed packet is counted, and answered where it is a request that waits for an answer. -/
theorem niInject_of_malformed (hm : malformed s (servedId s ep) rsp q fl.length = true) :
    niInject ep rsp fl s =
      if nonPosted q.op then (bump s q.src 8).emitPkt ep (localAnswer s q.src q.tag (outOf s q) .badParameter)
      else bump s q.src 8 := by
  subst hq
  exact (if_neg (niInject_takes he hf hr hb hl)).trans (if_pos hm)

/-- A well-formed packet from a live endpoint whose interface still has the identity of its map entry is recorded while it waits for an
answer, and enters the network. -/
theorem niInject_of_passing (hm : malformed s (servedId s ep) rsp q fl.length = false)
    (hs : isMuzzled s (servedId s ep) = false) (hsrc : isMuzzled s q.src = false)
    (hp : (s.mapOf q.src).phys = ep) (hg : (s.mapOf q.src).gen = q.gen) (hroom : q.op = .mcw ∨ pathRoom s q = true) :
    niInject ep rsp fl s = (if q.op = .mcw then sendPkt else route)
      (if nonPosted q.op then setOut s (servedId s ep) q.tag (some (outOf s q)) else s) q := by
  subst hq
  have hheld : ¬ ((presented s ep fl).op != .mcw && !pathRoom s (presented s ep fl)) = true := by
    obtain h | h := hroom <;> simp [h]
  have hstale : ¬ ((s.mapOf (presented s ep fl).src).phys != ep ||
      (s.mapOf (presented s ep fl).src).gen != (presented s ep fl).gen) = true := by simp [hp, hg]
  refine (if_neg (niInject_takes he hf hr hb hl)).trans ((if_neg (Bool.eq_false_iff.mp hm)).trans
    ((if_neg (by simp [hs])).trans ((if_neg hheld).trans ((if_neg hstale).trans ((if_neg (Bool.eq_false_iff.mp hsrc)).trans ?_)))))
  by_cases ho : (presented s ep fl).op = .mcw
  · rw [if_pos ho]
    exact if_pos (beq_iff_eq.mpr ho)
  · rw [if_neg ho]
    exact if_neg (mt beq_iff_eq.mp ho)

end

/-- Settles O14: by whether the packet that the flits present is malformed, and by what its stamps are. -/
theorem nocInjection : Obligations.NocInjection := by
  unfold Obligations.NocInjection
  refine ⟨fun ep rsp fl q s he hf hr hb hl hq hm hs hsrc hp hg hroom => done_eq ?_,
    fun ep rsp fl q s he hf hr hb hl hq hm => done_eq ?_, fun ep fl s => stamped_fields s ep (pktOf fl)⟩
  · exact niInject_of_passing (s := s.start) he hf hr hb hl (hq.trans (presented_eq s ep fl).symm) hm hs hsrc hp hg hroom
  · exact niInject_of_malformed (s := s.start) he hf hr hb hl (hq.trans (presented_eq s ep fl).symm) hm

/-! ## The departure of a packet (R197, R199, R214, R222, R225) -/

section
variable {p : Pkt} {s : State}

/-- A packet in flight that may pass every one ahead of it leaves the network. -/
theorem takeFlight_of_flight (hd : draining s p = false) (hp : p ∈ s.noc.flight)
    (hh : (ahead p s.noc.flight).any (holdsBack p) = false) :
    takeFlight s p = some { s with noc := { s.noc with
      ejAt := SMap.set dNat s.noc.ejAt (pktEp p) s.uptime, busyAt := busyBand s s.noc.busyAt (pktEp p),
      flight := s.noc.flight.erase p } } :=
  (if_neg (by simp [hd])).trans (if_pos (by simp [hp, hh]))

/-- While its router's park buffer is drained, the oldest packet of the buffer leaves it. -/
theorem takeFlight_of_parked {qs : List Pkt} (hd : draining s p = true) (hp : parkedAt s (epRouter s (pktEp p)) = p :: qs) :
    takeFlight s p = some (setParked { s with noc := { s.noc with
      ejAt := SMap.set dNat s.noc.ejAt (pktEp p) s.uptime, busyAt := busyBand s s.noc.busyAt (pktEp p) } }
      (epRouter s (pktEp p)) qs) := by
  unfold takeFlight
  simp only [hd, hp, if_true]

/-! ## The arrival of a request (R209, R222, R476) -/

variable {u : State}

theorem arrive_of_taken {op : PktOp} (ho : p.op = op) (ht : takeFlight s p = some u) : arrive op p s = deliver p u := by
  simp [arrive, ho, ht]

/-- A multicast whose request is outstanding is timed anew and split into one write for each member. -/
theorem mcw_of_taken {r : OutReq} (ho : p.op = .mcw) (ht : takeFlight s p = some u) (hr : outReq u p.src p.tag = some r) :
    mcw p s = (maskMembers p.mask).foldl (sendMember p) (setOut u p.src p.tag (some { r with t := s.uptime })) := by
  simp [mcw, ho, ht, hr]

theorem csrEndpointAccess_of_taken (ho : p.op = .rd ∨ p.op = .wrNp ∨ p.op = .wrP) (he : pktEp p = 0x119)
    (ht : takeFlight s p = some u) : csrEndpointAccess p s = csrEndpoint p u := by
  have hreq : ((p.op == .rd || p.op == .wrNp || p.op == .wrP) && pktEp p == 0x119) = true := by
    simpa [he, or_assoc] using ho
  rw [csrEndpointAccess, if_pos hreq, ht]

/-- A request that no window of the firewall passes, to an endpoint without rules of its own, is denied. -/
theorem deliver_of_denied (hm : isMuzzled s (pktEp p) = false) (hl : linkDown s (pktEp p) = false)
    (hf : fwPass s p = false) (ho : ownRules (pktEp p) = false) : deliver p s = deny s p :=
  (if_neg (by simp [hm, hl])).trans (if_pos (by simp [hf, ho]))

/-- A fabric endpoint has no PCI Express link. -/
theorem linkDown_of_fabric {id : Nat} (h : id < 0x80) : linkDown s id = false := by
  have hpci : ¬ 0x110 ≤ id := by omega
  simp [linkDown, isPci, hpci]

/-- A request that passes the firewall of a fabric endpoint goes to its design. -/
theorem deliver_of_fabric (he : pktEp p < 0x80) (hm : isMuzzled s (pktEp p) = false) (hf : fwPass s p = true) :
    deliver p s = deliverFabric p s := by
  have htable : ¬ 0x100 ≤ pktEp p := by omega
  have hmc : pktEp p ≠ 0x118 := by omega
  have hlast : ¬ 0x11C ≤ pktEp p := by omega
  exact (if_neg (by simp [hm, linkDown_of_fabric he])).trans
    ((if_neg (by simp [hf, isTable, htable, hmc, hlast])).trans (if_pos he))

/-- In a band that is ON, with no sleep of the device near, the request appears at the interface that serves the endpoint. -/
theorem deliverFabric_of_on (hs : sleepNear s = false) (hb : (s.bandOf (s.mapOf (pktEp p)).row).state = .on) :
    deliverFabric p s = { s with out := s.out ++ [.noc (s.mapOf (pktEp p)).phys (pktFlits p)] } := by
  simp only [deliverFabric, hb, hs]
  rfl

end

/-- Settles O15: a packet departs from the network or from a park buffer, and what arrives is judged at its endpoint. -/
theorem nocArrival : Obligations.NocArrival := by
  unfold Obligations.NocArrival
  exact ⟨fun p s hd hp hh => takeFlight_of_flight hd hp hh,
    fun p qs s hd hp => takeFlight_of_parked hd hp,
    fun p s u ho ht => done_eq (arrive_of_taken ho ht),
    fun p s u ho ht => done_eq (arrive_of_taken ho ht),
    fun p s u ho ht => done_eq (arrive_of_taken ho ht),
    fun p r s u ho ht hr => done_eq (mcw_of_taken ho ht hr),
    fun p s u ho he ht => done_eq (csrEndpointAccess_of_taken ho he ht),
    fun p s hm hl hf ho => deliver_of_denied hm hl hf ho,
    fun p s he hm hf hs hb => (deliver_of_fabric he hm hf).trans (deliverFabric_of_on hs hb)⟩

/-! ## The arrival of an answer (R203, R206, R212, R223, R226) -/

section
variable {p : Pkt} {s u : State}

/-- An answer for a live endpoint outside the fabric, which no band can hold up, reaches its requester. -/
theorem response_of_hard (ht : takeFlight s p = some u) (hm : isMuzzled u (pktEp p) = false) (hb : epBand u (pktEp p) = none) :
    response p s = complete u p := by
  simp [response, ht, hm, hb]

theorem complete_of_late {l : LateRsp} (hl : lateOf s p = some l) : complete s p = dropRsp s p l.ctr := by
  simp [complete, hl]

theorem complete_of_unicast {r : OutReq} (hl : lateOf s p = none) (hr : outReq s (pktEp p) p.tag = some r) (ho : r.op ≠ .mcw) :
    complete s p = deliverAnswer (setOut s (pktEp p) p.tag none) (pktEp p) p := by
  simp [complete, hl, hr, ho]

theorem complete_of_multicast {r : OutReq} (hl : lateOf s p = none) (hr : outReq s (pktEp p) p.tag = some r) (ho : r.op = .mcw) :
    complete s p = memberAnswer s (pktEp p) p.tag r (p.src - naEp r.dst) p.status := by
  simp [complete, hl, hr, ho]

theorem exec_rdRsp_eq (ho : p.op = .rdRsp) (h : response p s.start = u) : exec (.rdRsp p) s = .next (interrupts s u) :=
  done_eq ((if_pos (by simp [ho])).trans h)

theorem exec_wrRsp_eq (ho : p.op = .wrRsp ∨ p.op = .mcwRsp) (h : response p s.start = u) :
    exec (.wrRsp p) s = .next (interrupts s u) :=
  done_eq ((if_pos (by simpa using ho)).trans h)

end

/-! ## Management packets (R200) -/

section
variable {p : Pkt} {s u : State}

/-- The answer to a management packet: it goes back to the MC, to the tag of the request, with 4 bytes. -/
def manageAnswer (s : State) (p : Pkt) (data : List Byte) : Pkt :=
  { answerOf s { p with src := 0x118, dom := .mc } .ok [] with data, len := 4, rt := rtWord s 0x118 }

theorem manageAnswer_op {data : List Byte} (ho : p.op = .mgRd ∨ p.op = .mgWr) : (manageAnswer s p data).op = .mgRsp := by
  obtain h | h := ho <;> simp [manageAnswer, answerOf, h]

section
variable (hr : s.noc.running = true) (ho : s.noc.mgOut < 4) (he : 0x80 ≤ pktEp p)
  (hs : (s.mapOf (pktEp p)).state ≠ .unassigned)
include hr ho he hs

/-- What a management read returns is a free value (log entry 23). -/
theorem manage_of_read (hp : p.op = .mgRd) : manage .mgRd p s = sendPkt
    { s with free := s.free + 1, noc := { s.noc with mgOut := s.noc.mgOut + 1 } }
    (manageAnswer s p (leBytes 4 (Config.freeBits s.free).toNat)) :=
  if_pos (by simp [hp, hr, ho, he, hs])

theorem manage_of_write (hp : p.op = .mgWr) : manage .mgWr p s = sendPkt
    { s with noc := { s.noc with mgOut := s.noc.mgOut + 1 } } (manageAnswer s p []) :=
  if_pos (by simp [hp, hr, ho, he, hs])

end

theorem mgRsp_of_taken (hp : p.op = .mgRsp) (ht : takeFlight s p = some u) :
    mgRsp p s = ({ u with noc := { u.noc with mgOut := u.noc.mgOut - 1 } }).emitPkt 0x118 p := by
  simp [mgRsp, hp, ht]

end

/-- Settles O16: by what the answer's requester still waits for; a management request is answered with `manageAnswer`. -/
theorem nocAnswers : Obligations.NocAnswers := by
  unfold Obligations.NocAnswers
  refine ⟨fun p r s u ho ht hm hb hl hr hu => exec_rdRsp_eq ho ?_, fun p r s u ho ht hm hb hl hr hu => exec_wrRsp_eq ho ?_,
    fun p r s u ho ht hm hb hl hr hu => exec_wrRsp_eq (.inl ho) ?_, fun p l s u ho ht hm hb hl => exec_rdRsp_eq ho ?_,
    fun p s hp hr ho he hs => ?_, fun p s hp hr ho he hs => ?_, fun p s u hp ht => done_eq (mgRsp_of_taken hp ht)⟩
  · exact (response_of_hard ht hm hb).trans (complete_of_unicast hl hr hu)
  · exact (response_of_hard ht hm hb).trans (complete_of_unicast hl hr hu)
  · exact (response_of_hard ht hm hb).trans (complete_of_multicast hl hr hu)
  · exact (response_of_hard ht hm hb).trans (complete_of_late hl)
  · exact ⟨manageAnswer s p _, manageAnswer_op (.inl hp), rfl, rfl,
      done_eq (manage_of_read (s := s.start) hr ho he hs hp)⟩
  · exact ⟨manageAnswer s p _, manageAnswer_op (.inr hp), rfl, done_eq (manage_of_write (s := s.start) hr ho he hs hp)⟩

/-! ## Requests without an answer (R211, R212, R222) -/

/-- The endpoint's owner is told that a request of it has timed out. -/
def noteTimeout (ep : Nat) (u : State) : State := nocLast (nocInt (bump u ep 5) (epOwner u ep) 2) 5 0 .timeout ep

theorem silent_of_unicast {r : OutReq} (h : r.op ≠ .mcw) : silent r = [naEp r.dst] :=
  if_pos (by simpa using h)

section
variable {ep tag : Nat} {r : OutReq} {s u : State} (hr : outReq s ep tag = some r) (hp : timerPaused s ep = false)
  (hd : requestDue s r = true)
include hr hp hd

/-- A request to one destination completes with TIMEOUT, and that destination is declared dead. -/
theorem nocTimeout_of_unicast (ho : r.op ≠ .mcw) (hu : u = expectLate (noteTimeout ep s) ep tag r 6) :
    nocTimeout ep tag s = declareDead
      (deliverAnswer (setOut u ep tag none) ep (localAnswer u ep tag r .timeout)) (naEp r.dst) := by
  subst hu
  simp [nocTimeout, hr, hp, hd, ho, silent_of_unicast ho, noteTimeout]

/-- Each member of a multicast that is silent has answered TIMEOUT, and is declared dead. -/
theorem nocTimeout_of_multicast (ho : r.op = .mcw)
    (hu : u = expectLate ((silent r).foldl (fun u _ => noteTimeout ep u) s) ep tag r 6) :
    nocTimeout ep tag s = (silent r).foldl declareDead
      (mcwDone u ep tag { r with mcw := r.mcw ++ (silent r).map fun i => (i - naEp r.dst, Status.timeout) }) := by
  subst hu
  simp [nocTimeout, hr, hp, hd, ho, noteTimeout]

end

/-! ## Stalls, the end of a route update, and RTR_CLEAR (R214, R221, R228) -/

section
variable {s : State}

theorem ejectionStall_of_stalled {ep : Nat} (hn : neverDead ep = false) (hl : (s.mapOf ep).state = .live)
    (hw : (s.noc.flight.any fun p => pktEp p == ep && p.op != .mcw) = true)
    (ht : SMap.get dNat s.noc.ejAt ep + 100000 ≤ s.uptime) : ejectionStall ep s = muzzle s ep 2 :=
  if_neg (by rw [hn, hl, hw]; simpa using ht)

theorem routeDrainDone_of_drained (hd : s.noc.drain = true) (he : drained s = true) :
    routeDrainDone s = routeEnd { s with noc := { s.noc with drain := false, drain10 := false } } .ok :=
  if_pos (by rw [hd, he]; rfl)

theorem routeUpdateTimeout_of_late (hd : s.noc.drain = true) (hc : s.noc.routeCmd ≠ none) (he : drained s = false)
    (ht : s.noc.routeAt + 10000000 ≤ s.uptime) :
    routeUpdateTimeout s = routeEnd { s with noc := { s.noc with drain10 := true } } .timeout :=
  if_pos (by simp [hd, he, ht, Option.isSome_iff_ne_none, hc])

theorem rtrClear_of_mc {v : Word} (hv : wb v 0 = true) (s : State) : rtrClear (.dom .mc) v s =
    { s with noc := { s.noc with vc0 := s.noc.vc0.filter fun e => e.1 / 8 != rtrIx s (.dom .mc) } } :=
  if_pos (by simp [hv])

theorem rtrClear_of_ne {acc : Accessor} (h : acc ≠ .dom .mc) (v : Word) (s : State) : rtrClear acc v s = s :=
  if_neg (by simp [h])

end

/-- Settles O17: each clause is what the network does once its time has come, or what a write of RTR_CLEAR does. -/
theorem nocTimeouts : Obligations.NocTimeouts := by
  unfold Obligations.NocTimeouts
  exact ⟨fun ep tag r s u hr hp hd ho hu => done_eq (nocTimeout_of_unicast (s := s.start) hr hp hd ho hu),
    fun ep tag r s u hr hp hd ho hu => done_eq (nocTimeout_of_multicast (s := s.start) hr hp hd ho hu),
    fun ep s hn hl hw ht => done_eq (ejectionStall_of_stalled (s := s.start) hn hl hw ht),
    fun s hd he => done_eq (routeDrainDone_of_drained (s := s.start) hd he),
    fun s hd hc he ht => done_eq (routeUpdateTimeout_of_late (s := s.start) hd hc he ht),
    fun v s hv => done_eq (rtrClear_of_mc hv s.start),
    fun acc v s h => done_eq (rtrClear_of_ne h v s.start)⟩

/-! ## NOC_MUZZLE, NOC_REHABILITATE, NOC_REMAP and NOC_ROUTE_UPDATE (R215–R220) -/

section
variable (s : State) (d : Nat)

/-! What the commands of the network look at is left alone when their entry is taken. -/

@[simp] theorem servedState_mapOf (id : Nat) : (servedState s d).mapOf id = s.mapOf id := rfl
@[simp] theorem servedState_noc : (servedState s d).noc = s.noc := rfl
@[simp] theorem servedState_epOwner (id : Nat) : epOwner (servedState s d) id = epOwner s id := rfl
@[simp] theorem servedState_unownable (id : Nat) : unownable (servedState s d) id = unownable s id := rfl
@[simp] theorem servedState_outTags (id : Nat) : outTags (servedState s d) id = outTags s id := rfl
@[simp] theorem servedState_parkedFor (id : Nat) : parkedFor (servedState s d) id = parkedFor s id := rfl
@[simp] theorem cmdOwner_frontEntry : cmdOwner (frontEntry s d) = ownerOf d := rfl

end

section
variable {s : State} {d : Nat}

/-- NOC_MUZZLE of an endpoint that a domain can own: it must be the issuer's, and not RETIRED. -/
theorem exec_nocMuzzle_eq (h : served s d 0x0401 .owner) {id : Nat} (hid : id = pw (frontEntry s d) 0 % 512)
    (hn : unownable s id = false) :
    exec (.nocMuzzle d) s = .next (answered s (
      if epOwner s id ≠ ownerOf d then finish (frontEntry s d) .notOwner 0 [] [] (servedState s d)
      else if (s.mapOf id).state = .retired then finish (frontEntry s d) .badParameter 1 [] [] (servedState s d)
      else finish (frontEntry s d) .ok 1 [] [] (muzzle (servedState s d) id 3))) := by
  subst hid
  exact serve_eq h ((if_neg (by simp [hn])).trans (by simp))

/-- NOC_REHABILITATE of an endpoint that a domain can own: it must be the issuer's, and not LIVE. -/
theorem exec_nocRehabilitate_eq (h : served s d 0x0402 .owner) {id : Nat} (hid : id = pw (frontEntry s d) 0 % 512)
    (hn : unownable s id = false) :
    exec (.nocRehabilitate d) s = .next (answered s (
      if epOwner s id ≠ ownerOf d then finish (frontEntry s d) .notOwner 0 [] [] (servedState s d)
      else if (s.mapOf id).state = .live then finish (frontEntry s d) .badParameter 1 [] [] (servedState s d)
      else finish (frontEntry s d) .ok 1 [] [] (rehabilitate (servedState s d) id))) := by
  subst hid
  exact serve_eq h ((if_neg (by simp [hn])).trans (by simp))

/-- A fabric endpoint that has an ID can be owned. -/
theorem unownable_of_fabric {id : Nat} (hi : id < 0x80) (ha : (s.mapOf id).state ≠ .unassigned) : unownable s id = false := by
  have htable : ¬ 0x100 ≤ id := by omega
  have heth : ¬ 0x114 ≤ id := by omega
  have hmgmt : ¬ 0x118 ≤ id := by omega
  simp [unownable, neverDead, isMgmt, isEth, isTable, htable, heth, hmgmt, ha]

/-- NOC_REMAP of a MUZZLED fabric endpoint onto a LIVE one, both the issuer's: the latter must have no request outstanding and no
packet parked. -/
theorem exec_nocRemap_eq (h : served s d 0x0403 .owner) {a b : Nat} (ha : a = pw (frontEntry s d) 0 % 512)
    (hb : b = pw (frontEntry s d) 1 % 512) (hfa : a < 0x80) (hfb : b < 0x80) (hoa : epOwner s a = ownerOf d)
    (hob : epOwner s b = ownerOf d) (hsa : (s.mapOf a).state = .muzzled) (hsb : (s.mapOf b).state = .live) :
    exec (.nocRemap d) s = .next (answered s (
      if outTags s b ≠ [] ∨ parkedFor s b ≠ 0 then finish (frontEntry s d) .busy 1 [] [] (servedState s d)
      else finish (frontEntry s d) .ok 1 [] [] (remap (servedState s d) a b))) := by
  have hna : unownable s a = false := unownable_of_fabric hfa (by simp [hsa])
  have hnb : unownable s b = false := unownable_of_fabric hfb (by simp [hsb])
  subst ha hb
  refine serve_eq h ((if_neg (by simp [hna, hnb])).trans ((if_neg (by simp [hoa, hob])).trans
    ((if_neg (by simp [isFabric, hfa, hfb, hsa, hsb])).trans ?_)))
  simp

/-- The number of entries that a NOC_ROUTE_UPDATE names. -/
def updateCount (c : RunCmd) : Nat := if pw c 1 % 1024 = 0 then 1024 else pw c 1 % 1024

/-- The entries of a NOC_ROUTE_UPDATE, as they stand in its buffer. -/
def updateEntries (u : State) (c : RunCmd) : List (Nat × Nat × Nat) :=
  (bytesWords (readBuf u c (pw c 0) (4 * updateCount c))).map fun w => routeEntry w.toNat

/-- The state with the updated tables in the other epoch, to which injection has switched. -/
def withRoutes (u : State) (es : List (Nat × Nat × Nat)) : State :=
  { u with noc := { u.noc with routes := updatedRoutes u es, epoch := otherEpoch u } }

/-- NOC_ROUTE_UPDATE with a buffer and entries that are in range and tables that R220 does not refuse, while no update is being
drained: the command waits for the packets of the epoch before. -/
theorem exec_nocRouteUpdate_of_accepted (h : served s d 0x0404 .lead)
    (hb : bufOk (pw (frontEntry s d) 0) (4 * updateCount (frontEntry s d)) = true)
    {es : List (Nat × Nat × Nat)} (he : es = updateEntries (servedState s d) (frontEntry s d))
    (hd : es.any (fun x => 4 < x.2.2) = false) (hn : s.noc.drain = false)
    (href : routeRefusal (withRoutes (servedState s d) es) = none) :
    exec (.nocRouteUpdate d) s = .next (answered s (waitCmd (frontEntry s d) [] { withRoutes (servedState s d) es with
      noc := { (withRoutes (servedState s d) es).noc with
        drain := true, drain10 := false, routeCmd := some (d, (frontEntry s d).tag), routeAt := s.uptime } })) := by
  subst he
  refine serve_eq h ((if_neg (by simpa [updateCount] using hb)).trans ((if_neg (Bool.eq_false_iff.mp hd)).trans
    ((if_neg (by simp [hn])).trans ?_)))
  simp only [withRoutes, updateEntries, updateCount] at href ⊢
  simp only [href]
  rfl

end

/-- Settles O18: each clause is the case of its command's equation in which nothing refuses it. -/
theorem nocCommands : Obligations.NocCommands := by
  unfold Obligations.NocCommands
  refine ⟨fun d id s h hid hn ho hs => ?_, fun d id s h hid hn ho hs => ?_,
    fun d a b s h ha hb hfa hfb hoa hob hsa hsb ht hp => ?_, fun d n es s u new h hu hn hb he hd hdr hnew href => ?_⟩
  · rw [exec_nocMuzzle_eq h hid hn, if_neg (not_not_intro ho), if_neg hs]
  · rw [exec_nocRehabilitate_eq h hid hn, if_neg (not_not_intro ho), if_neg hs]
  · rw [exec_nocRemap_eq h ha hb hfa hfb hoa hob hsa hsb, if_neg (by simp [ht, hp])]
  · subst hn hu hnew
    exact exec_nocRouteUpdate_of_accepted h hb he hd hdr href

end Sys2Proof.Machine
end

section
/-! PROOF. What an input edge, the registers, the schedule and the outputs of a field port do in each of their cases, and with them the
statements PortInputs, PortSchedules and PortOutputs. -/
namespace Sys2Proof.Machine
open Sys2Proof

/-! ## Registers of a port (R251, R475) -/

section
variable {acc : Accessor} {s : State}

/-- One who may touch the selected port reads its register. -/
theorem fpeRead_of_owned (h : mayTouch acc (s.owner (resPort (portIx s acc))) = true) {off : Nat} (h0 : off ≠ 0) (h8 : off ≠ 8) :
    fpeRead acc off s = fpeGet acc (portIx s acc) off s := by
  unfold fpeRead
  split
  · exact absurd rfl h0
  · exact absurd rfl h8
  · exact if_pos h

/-- Another reads 0. -/
theorem fpeRead_of_foreign (h : mayTouch acc (s.owner (resPort (portIx s acc))) = false) {off : Nat} (h0 : off ≠ 0) (h8 : off ≠ 8) :
    fpeRead acc off s = (0, s) := by
  unfold fpeRead
  split
  · exact absurd rfl h0
  · exact absurd rfl h8
  · exact if_neg (by simp [h])

theorem fpeWrite_of_owned (h : mayTouch acc (s.owner (resPort (portIx s acc))) = true) {off : Nat} (h0 : off ≠ 0) (v : Word) :
    fpeWrite acc off v s = fpePut acc (portIx s acc) off v s := by
  unfold fpeWrite
  split
  · exact absurd rfl h0
  · exact if_pos h

/-- The next state of a command that reads a register, from what the read gives. -/
theorem done_fpeRead {off : Nat} {v : Word} {u : State} (h : fpeRead acc off s.start = (v, u)) :
    done (fun s => (fpeRead acc off s).2.emit (.words [(fpeRead acc off s).1])) s = .next (interrupts s (u.emit (.words [v]))) :=
  done_eq (f := fun s => (fpeRead acc off s).2.emit (.words [(fpeRead acc off s).1])) (by rw [h])

/-- The next state of a command that writes a register, from what the write does. -/
theorem done_fpeWrite {off : Nat} {v : Word} {u : State} (h : mayTouch acc (s.owner (resPort (portIx s acc))) = true) (h0 : off ≠ 0)
    (hu : fpePut acc (portIx s acc) off v s.start = u) : done (fpeWrite acc off v) s = .next (interrupts s u) :=
  done_eq ((fpeWrite_of_owned (s := s.start) h h0 v).trans hu)

/-- So too where the command asks for bits of the word that it writes. -/
theorem done_fpeWrite_if {off : Nat} {v : Word} {u : State} {c : Bool} (hc : c = true)
    (h : mayTouch acc (s.owner (resPort (portIx s acc))) = true) (h0 : off ≠ 0) (hu : fpePut acc (portIx s acc) off v s.start = u) :
    done (fun s => if c then fpeWrite acc off v s else s) s = .next (interrupts s u) :=
  done_eq (f := fun s => if c then fpeWrite acc off v s else s)
    ((if_pos hc).trans ((fpeWrite_of_owned (s := s.start) h h0 v).trans hu))

end

/-! ## Inputs (R232, R239–R241) -/

/-- The state once a sample has changed the pad of a port, before its filter. -/
def sampled (s : State) (n : Nat) (level : Bool) : State :=
  rawIn (s.setPort n { s.portOf n with pad := level != wb (s.portOf n).cfg 25 }) n (s.portOf n).pad
    (level != wb (s.portOf n).cfg 25)

/-- The state once the filter has let a level through: fp_in has it, and the port and its pair have taken the edge. -/
def filtered (s : State) (n : Nat) (level : Bool) : State :=
  lineChange (edgeEvent (portMode s n) n (((sampled s n level).setPort n
    { (sampled s n level).portOf n with fpIn := level, fpAt := s.uptime }).emit (.wire "fp_in" n (b2n level)))) n level

section
variable {n : Nat} {s : State} (level : Bool) (word : BitVec 8) (hn : n < 1024) (hl : portLive s n = true)
include hn hl

section
variable (hd : lvds s n = false)
include hd

/-- Where the pin is not taken, the level does not change, or the run of samples is shorter than the filter's, the pad alone changes. -/
theorem acceptedEdge_of_ignored
    (h : takesInput (portMode s n) = false ∨ (s.portOf n).fpIn = level ∨ s.uptime < (s.portOf n).fpAt + wf (s.portOf n).cfg 15 0 + 1) :
    acceptedEdge n level word s = sampled s n level := by
  refine (if_neg (by simp [hl, hd, Nat.le_of_lt_succ hn])).trans ((if_neg (by simp [hd])).trans (if_pos ?_))
  simpa [or_assoc] using h

/-- A level that the filter lets through, with its timestamp where its edge is captured. -/
theorem acceptedEdge_of_filtered (hm : takesInput (portMode s n) = true) (hp : (s.portOf n).fpIn ≠ level)
    (ht : (s.portOf n).fpAt + wf (s.portOf n).cfg 15 0 + 1 ≤ s.uptime) :
    acceptedEdge n level word s =
      if wb (s.portOf n).cfg (if level then 26 else 27) = true ∧ portMode s n ≠ 7 ∧ portMode s n ≠ 9 then
        pushStamp (filtered s n level) n (stampAt s (s.uptime - wf (s.portOf n).cfg 15 0)) level
      else filtered s n level := by
  refine (if_neg (by simp [hl, hd, Nat.le_of_lt_succ hn])).trans
    ((if_neg (by simp [hd])).trans ((if_neg (Bool.eq_false_iff.mp ?_)).trans ?_))
  · exact Bool.or_eq_false_iff.mpr ⟨Bool.or_eq_false_iff.mpr ⟨by rw [hm, Bool.not_true], beq_false_of_ne hp⟩,
      decide_eq_false (Nat.not_lt.mpr ht)⟩
  · cases level <;> simp [filtered, sampled, and_assoc]

end

/-- A RAW LVDS pair hands over the word of its deserialiser. -/
theorem acceptedEdge_of_lvds (hd : lvds s n = true) (he : n % 2 = 0) (hm : portMode s n = 5) :
    acceptedEdge n level word s =
      ((sampled s n level).setPort n { (sampled s n level).portOf n with des := word }).emit (.wire "lvds_word" n word.toNat) :=
  (if_neg (by simp [hl, he, Nat.le_of_lt_succ hn])).trans (if_pos (by simp [hd, hm]))

end

/-- An edge pulses fp_evt in the modes 1 to 4. -/
theorem edgeEvent_eq (m n : Nat) (s : State) :
    edgeEvent m n s = if m = 1 ∨ m = 2 ∨ m = 3 ∨ m = 4 then s.emit (.wire "fp_evt" n 1) else s := by
  simp [edgeEvent, emitsEdges, fpEvt, or_assoc]

section
variable {s : State} {n : Nat} (t : Nat) (rising : Bool)

theorem pushStamp_of_room (h : (s.portOf n).ts.length < 4) :
    pushStamp s n t rising = portBits (s.setPort n { s.portOf n with
      ts := (s.portOf n).ts ++ [{ t, rising, ovf := (s.portOf n).ovfPend }], ovfPend := false }) n 1 :=
  if_pos h

theorem pushStamp_of_full (h : 4 ≤ (s.portOf n).ts.length) :
    pushStamp s n t rising = portEvent (s.setPort n { s.portOf n with
      ovfCnt := sat 255 (s.portOf n).ovfCnt, ovfPend := true }) n 2 :=
  if_neg (Nat.not_lt.mpr h)

end

theorem readTsLo_of_cons (acc : Accessor) {n : Nat} {s : State} {e : Stamp} {rest : List Stamp} (h : (s.portOf n).ts = e :: rest) :
    readTsLo acc n s = (wd e.t, ((s.setPort n { s.portOf n with ts := rest }).setCopy (acode acc) 0x70028 0
      (wd (e.t / 0x100000000))).setCopy (acode acc) 0x70020 0 (wd (0x80000000 + b2n e.rising * 0x40000000 + b2n e.ovf * 0x20000000))) := by
  simp [readTsLo, h]

/-- Settles O19: an edge by what the filter makes of it, a timestamp by the room in its queue, a read by who reads. -/
theorem portInputs : Obligations.PortInputs := by
  unfold Obligations.PortInputs
  refine ⟨?_, ?_, ?_, edgeEvent_eq, fun n t rising s h => pushStamp_of_room t rising h,
    fun n t rising s h => pushStamp_of_full t rising h, fun acc e rest s hm ht => done_fpeRead ?_,
    fun acc s hm => done_fpeRead (fpeRead_of_foreign (s := s.start) hm (by decide) (by decide))⟩
  · rintro n level word p s u v hn rfl hl hd hm hp ht rfl rfl
    exact done_eq (acceptedEdge_of_filtered (s := s.start) level word hn hl hd hm hp ht)
  · rintro n level word p s hn rfl hl hd h
    exact done_eq (acceptedEdge_of_ignored (s := s.start) level word hn hl hd h)
  · rintro n level word p s u hn rfl hl hd he hm rfl
    exact done_eq (acceptedEdge_of_lvds (s := s.start) level word hn hl hd he hm)
  · exact (fpeRead_of_owned (s := s.start) hm (by decide) (by decide)).trans (readTsLo_of_cons (s := s.start) acc ht)

/-! ## Schedules (R244, R245) -/

section
variable {s : State} {n : Nat} {v : Word}

/-- A push that nothing refuses. -/
theorem writeSchedCmd_of_pushed (hp : wb v 31 = true) (hf : wb v 30 = false) (h : pushStatus s n (wf v 1 0) = .ok) :
    writeSchedCmd n v s = s.setPort n { s.portOf n with
      sched := (s.portOf n).sched ++
        [{ t := (s.portOf n).tLo.toNat + (s.portOf n).tHi.toNat * 0x100000000, act := wf v 1 0, oneShot := wb v 2 }],
      headAt := if (s.portOf n).sched.isEmpty then s.now else (s.portOf n).headAt, schedSt := .ok } := by
  simp [writeSchedCmd, hp, hf, h]

/-- A push that is refused leaves its status alone. -/
theorem writeSchedCmd_of_refused (hp : wb v 31 = true) (hf : wb v 30 = false) (h : pushStatus s n (wf v 1 0) ≠ .ok) :
    writeSchedCmd n v s = s.setPort n { s.portOf n with schedSt := pushStatus s n (wf v 1 0) } := by
  simp [writeSchedCmd, hp, hf, h]

theorem writeSchedCmd_of_flush (hp : wb v 31 = false) (hf : wb v 30 = true) :
    writeSchedCmd n v s = s.setPort n { s.portOf n with sched := [] } := by
  simp [writeSchedCmd, hp, hf]

end

/-- The entries that are applied together, each with its event; a generator that one of them starts could place edges from `since` on. -/
def applyAll (s : State) (n since : Nat) (es : List Sched) : State :=
  es.foldl (fun u x => portEvent (applyEntry u n since x) n 4) s

section
variable {s : State} {n : Nat} {e : Sched} {rest : List Sched} (hs : (s.portOf n).sched = e :: rest) (hl : portLive s n = true)
include hs hl

/-- Before its time the head is not applied. -/
theorem scheduleApply_of_early (ht : s.now < e.t) (hh : (s.portOf n).headAt + 8 < e.t) : scheduleApply n s = s := by
  simp [scheduleApply, hs, hl, ht, Nat.not_le.mpr hh]

/-- At its time it is, with the entries of the same time behind it. -/
theorem scheduleApply_of_due (ht : e.t ≤ s.now) (hh : (s.portOf n).headAt + 8 < e.t) :
    scheduleApply n s = applyAll (s.setPort n { s.portOf n with sched := (sameTime (e :: rest)).2, headAt := s.now }) n
      (s.portOf n).headAt (sameTime (e :: rest)).1 := by
  simp [scheduleApply, applyAll, hs, hl, Nat.not_lt.mpr ht, Nat.not_le.mpr hh]

/-- Those that came to the head too late are applied at once, and counted. -/
theorem scheduleApply_of_late (hh : e.t ≤ (s.portOf n).headAt + 8) :
    scheduleApply n s = portLate (applyAll (s.setPort n { s.portOf n with
      sched := (sameTime (e :: rest)).2, headAt := s.now,
      late := min 255 ((s.portOf n).late + ((sameTime (e :: rest)).1).length) }) n s.now (sameTime (e :: rest)).1) n := by
  simp [scheduleApply, applyAll, hs, hl, hh]

end

/-- Settles O20: a write of SCHED_CMD by what it asks and what refuses it, a head by its time and by when it came to the head. -/
theorem portSchedules : Obligations.PortSchedules := by
  unfold Obligations.PortSchedules
  refine ⟨?_, ?_, ?_, fun n e rest s hs hl ht hh => done_eq (scheduleApply_of_early (s := s.start) hs hl ht hh),
    fun n e rest s hs hl ht hh => done_eq (scheduleApply_of_due (s := s.start) hs hl ht hh),
    fun n e rest s hs hl hh => done_eq (scheduleApply_of_late (s := s.start) hs hl hh)⟩
  · rintro acc n v p s rfl rfl hm hp hf h
    exact done_fpeWrite_if hp hm (by decide) (writeSchedCmd_of_pushed (s := s.start) hp hf h)
  · rintro acc n v s rfl hm hp hf h
    exact done_fpeWrite_if hp hm (by decide) (writeSchedCmd_of_refused (s := s.start) hp hf h)
  · rintro acc n v s rfl hm hp hf
    exact done_fpeWrite_if hf hm (by decide) (writeSchedCmd_of_flush (s := s.start) hp hf)

/-! ## Outputs (R237, R242, R243, R246) -/

section
variable {s : State} {n : Nat} {v : Word}

/-- In OUTPUT mode a write of OUT_CTRL drives the level. -/
theorem writeOutCtrl_of_output (hm : portMode s n = 2) :
    writeOutCtrl n v s = driveMode (s.setPort n { s.portOf n with
      outCtrl := v &&& 0x35, forced := (s.portOf n).forced && !wb v 3 }) n (if wb v 2 then lvl (wb v 0) else .z) 1 :=
  if_pos hm

theorem writeOutCtrl_of_ne (hm : portMode s n ≠ 2) :
    writeOutCtrl n v s = putPort s n { s.portOf n with
      outCtrl := v &&& 0x35, forced := (s.portOf n).forced && !wb v 3 } :=
  if_neg hm

/-- A mode that does not exist, or a pair mode of an odd port, is rejected. -/
theorem writePortCfg_of_invalid (hr : ringTakes s n = false) (h : 9 ≤ wf v 31 28 ∨ (pairMode (wf v 31 28) = true ∧ n % 2 = 1)) :
    writePortCfg n v s = cfgReject s n :=
  (if_neg (by simp [hr])).trans (if_pos (by simpa using h))

/-- An odd port that is not a slave and is set to mode 0 enters it, and no other port is concerned. -/
theorem writePortCfg_of_disabled (hr : ringTakes s n = false) (hs : portMode s n ≠ 9) (hv : wf v 31 28 = 0)
    (hc : wf (s.portOf n).cfg 31 28 ≠ 0) (ho : n % 2 = 1) :
    writePortCfg n v s = enterMode (s.setPort n { s.portOf n with cfg := v &&& 0xFEFFFFFF }) n 0 := by
  simp [writePortCfg, hr, hs, hv, hc.symm, ho, pairMode]

end

section
variable {s : State} {n : Nat} {r : PwmRun} (hr : (s.portOf n).run = some r) (hl : portLive s n = true) (hm : portMode s n = 3)
  (hw : r.wait = false)
include hr hl hm hw

/-- The falling edge of a generator at the end of its high time. -/
theorem pwmEdge_of_falling (hh : r.high = true) (hs : r.since + 8 < r.t0 + r.h) (ht : r.t0 + r.h ≤ s.now) :
    pwmEdge n s = driveMode (s.setPort n { s.portOf n with run := some { r with high := false } }) n .low 3 := by
  have hd : pwmDue r = r.t0 + r.h := by simp [pwmDue, hw, hh]
  simp [pwmEdge, pwmLate, hr, hl, hm, hh, hd, Nat.not_lt.mpr ht, Nat.not_le.mpr hs]

/-- Its rising edge at the start of the next period, which takes the period and the high time then set. -/
theorem pwmEdge_of_rising (hh : r.high = false) (hs : r.since + 8 < r.t0 + r.p) (ho : r.oneShot = false) (ht : r.t0 + r.p ≤ s.now)
    (hp : (s.portOf n).pwmP ≠ 0#32) (hq : (s.portOf n).pwmH ≠ 0) :
    pwmEdge n s = driveMode (s.setPort n { s.portOf n with run := some { r with
      t0 := r.t0 + r.p, wait := false, p := (s.portOf n).pwmP.toNat, h := (s.portOf n).pwmH.toNat,
      high := decide ((s.portOf n).pwmH.toNat < (s.portOf n).pwmP.toNat) } }) n .high 3 := by
  have hd : pwmDue r = r.t0 + r.p := by simp [pwmDue, hw, hh]
  have h0 : 0 < (s.portOf n).pwmH.toNat := Nat.pos_of_ne_zero fun h => hq (BitVec.eq_of_toNat_eq h)
  simp [pwmEdge, pwmLate, hr, hl, hm, hh, hd, ho, hp, h0, lvl, Nat.not_lt.mpr ht, Nat.not_le.mpr hs]

end

/-- A write of OUT_CTRL with safe_clear is the same write under either name. -/
theorem exec_safeClear_eq {acc : Accessor} {v : Word} (h : wb v 3 = true) (s : State) :
    exec (.safeClear acc v) s = exec (.levelWrite acc v) s :=
  done_eq (f := fun s => if wb v 3 then fpeWrite acc 0x0C v s else s) (if_pos h)

/-- Settles O21: a write of OUT_CTRL or of PORT_CFG by the port's mode, and an edge of a generator by whether it is high. -/
theorem portOutputs : Obligations.PortOutputs := by
  unfold Obligations.PortOutputs
  refine ⟨?_, ?_, fun acc n v s _ _ h => exec_safeClear_eq h s, fun acc v s h => ?_, ?_, ?_,
    fun n r s hr hl hm hh hw hs ht => done_eq (pwmEdge_of_falling (s := s.start) hr hl hm hw hh hs ht),
    fun n r s hr hl hm hh hw hs ho ht hp h0 =>
      done_eq (pwmEdge_of_rising (s := s.start) hr hl hm hw hh hs ho ht hp h0)⟩
  · rintro acc n v s rfl ho hm
    exact done_fpeWrite ho (by decide) (writeOutCtrl_of_output (s := s.start) hm)
  · rintro acc n v s rfl ho hm
    exact done_fpeWrite ho (by decide) (writeOutCtrl_of_ne (s := s.start) hm)
  · exact done_eq (f := fun s => if wb v 3 then fpeWrite acc 0x0C v s else s) (if_neg (by simp [h]))
  · rintro acc n v s rfl ho hr hv
    exact done_fpeWrite ho (by decide) (writePortCfg_of_invalid (s := s.start) hr hv)
  · rintro acc n v s rfl ho hr hs hv hc hodd
    exact done_fpeWrite ho (by decide) (writePortCfg_of_disabled (s := s.start) hr hs hv hc hodd)

end Sys2Proof.Machine
end

section
/-! PROOF. The pair modes of field ports: the quadrature counter, the frames of an encoder and the bytes of a UART; and with them the
statement PortPairs. -/
namespace Sys2Proof.Machine
open Sys2Proof

/-! ## The quadrature counter (R247) -/

section
variable {n : Nat} {s : State}

/-- The counter follows both inputs, the one that changed earlier first. -/
theorem quadTransition_of_quad (hn : n < 1024) (he : n % 2 = 0) (hl : portLive s n = true) (hm : portMode s n = 6) :
    quadTransition n s =
      if (s.portOf n).fpAt < (s.portOf (n + 1)).fpAt then
        quadStep n (s.portOf n).fpIn (s.portOf (n + 1)).fpIn (quadStep n (s.portOf n).fpIn (s.portOf n).quadB s)
      else if (s.portOf (n + 1)).fpAt < (s.portOf n).fpAt then
        quadStep n (s.portOf n).fpIn (s.portOf (n + 1)).fpIn (quadStep n (s.portOf n).quadA (s.portOf (n + 1)).fpIn s)
      else quadStep n (s.portOf n).fpIn (s.portOf (n + 1)).fpIn s :=
  if_neg (by simp [he, hl, hm, Nat.le_of_lt_succ hn])

/-- A change of both inputs in one sample is an error. -/
theorem quadStep_of_both {a b : Bool} (ha : (s.portOf n).quadA ≠ a) (hb : (s.portOf n).quadB ≠ b) {u : State}
    (hu : u = s.setPort n { s.portOf n with quadA := a, quadB := b }) :
    quadStep n a b s = portPairErr (u.setPort n { u.portOf n with errCnt := sat 255 (s.portOf n).errCnt }) n := by
  subst hu
  exact (if_neg (by simp [ha])).trans (if_pos (by simp [ha, hb]))

/-- The count after a change of A. -/
def quadCount (p : Port) (a : Bool) : Word :=
  if (a != p.quadB) != wb p.pairCfg 2 then p.pairData + 1 else p.pairData - 1

/-- At resolution ×4 a change of A counts by the direction, and meets the compare value or not. -/
theorem quadStep_of_a {a : Bool} (ha : (s.portOf n).quadA ≠ a) (hr : wf (s.portOf n).pairCfg 1 0 = 2) {u : State}
    (hu : u = s.setPort n { s.portOf n with quadA := a }) :
    quadStep n a (s.portOf n).quadB s =
      if quadCount (s.portOf n) a = (s.portOf n).pwmH then
        portPair (u.setPort n { u.portOf n with pairData := quadCount (s.portOf n) a }) n
      else u.setPort n { u.portOf n with pairData := quadCount (s.portOf n) a } := by
  subst hu
  refine (if_neg (by simp [ha])).trans ((if_neg (by simp)).trans ((if_neg (by simp [quadCounts, hr, ha])).trans ?_))
  simp [quadUp, quadCount, ha]

end

/-! ## Encoder frames (R248) -/

section
variable {n : Nat} {s : State}

section
variable {r : PwmRun} (hr : (s.portOf n).run = some r) (hl : portLive s n = true) (hm : portMode s n = 7) (ht : r.t0 ≤ s.now)
  (hb : (s.portOf n).busy = false) (ho : r.oneShot = true)
include hr hl hm ht hb ho

/-- A single frame begins at its time, where the data line is high. -/
theorem encoderFrame_of_high (hd : (s.portOf (n + 1)).fpIn = true) {u : State}
    (hu : u = s.setPort n { s.portOf n with run := none }) :
    encoderFrame n s = (putPort u n { u.portOf n with
      busy := true, frameAt := s.uptime, frameNs := s.now, line := [(s.uptime, true)], mode := .low, driver := 7 }).emit
        (.wire "enc_clock" n (encBits (s.portOf n) * 0x10000 + encHalf (s.portOf n))) := by
  subst hu
  simp [encoderFrame, hr, hl, hm, hb, ho, hd, Nat.not_lt.mpr ht]

theorem encoderFrame_of_low (hd : (s.portOf (n + 1)).fpIn = false) :
    encoderFrame n s = portPairErr (s.setPort n { s.portOf n with run := none }) n := by
  simp [encoderFrame, hr, hl, hm, hb, ho, hd, Nat.not_lt.mpr ht]

end

section
variable (hb : (s.portOf n).busy = true) (hm : portMode s n = 7)
  (ht : (s.portOf n).frameAt + 2 * encHalf (s.portOf n) * encBits (s.portOf n) ≤ s.uptime)
include hb hm ht

/-- A frame after which the data line has stayed low for too long. -/
theorem encoderFrameEnd_of_stuck (hr : encReady (s.portOf n) = false) (hx : encLimit (s.portOf n) < s.uptime) :
    encoderFrameEnd n s = portPairErr (putPort s n { s.portOf n with busy := false, line := [], mode := .high }) n :=
  (if_neg (by simp [hb, hm, hr, hx, ht])).trans (if_pos (by simp [hr]))

/-- A frame that ends well stores the position, stamped with the time at which it began. -/
theorem encoderFrameEnd_of_ready (hr : encReady (s.portOf n) = true) {u : State}
    (hu : u = putPort s n { s.portOf n with busy := false, line := [], mode := .high }) :
    encoderFrameEnd n s = pushStamp (portPair (u.setPort n { u.portOf n with
      pairData := wd (if wb (s.portOf n).pairCfg 23 then grayDecode (encBits (s.portOf n)) (encRaw (s.portOf n))
        else encRaw (s.portOf n)) }) n) n (s.portOf n).frameNs false := by
  subst hu
  exact (if_neg (by simp [hb, hm, hr, ht])).trans (if_neg (by simp [hr]))

end

end

/-! ## UART bytes (R249) -/

section
variable {n : Nat} {s : State}

/-- A byte whose last stop bit has passed is queued, or finds the queue full. -/
theorem uartRxByte_of_due {t0 due : Nat} (hn : n < 1024) (ha : (s.portOf n).rxAt = some t0) (hl : portLive s n = true)
    (hm : portMode s n = 8) (hx : wb (s.portOf n).pairCfg 19 = true)
    (hd : due = uartSample (s.portOf n) t0 (uartLen (s.portOf n).pairCfg - 1)) (ht : due ≤ s.uptime) :
    uartRxByte n s = portPair (s.setPort n
      (if (s.portOf n).rx.length < 16 then
        { uartNext (s.portOf n) due with rx := (s.portOf n).rx ++ [uartByte (s.portOf n) t0], rxOvr := false }
       else { uartNext (s.portOf n) due with rxOvr := true })) n := by
  subst hd
  simp only [uartRxByte, ha]
  rw [if_neg (by simp [hl, hm, hx, Nat.le_of_lt_succ hn, ht])]
  by_cases hr : (s.portOf n).rx.length < 16
  · rw [if_pos hr, if_pos hr]
  · rw [if_neg hr, if_neg hr]

/-- A byte that has been sent leaves the queue, and the next one starts. -/
theorem uartTxByte_of_sent {t : Nat} {b : Byte} {rest : List Byte} (hb : (s.portOf n).tx = b :: rest)
    (ha : (s.portOf n).txAt = some t) (hl : portLive s n = true) (hm : portMode s n = 8)
    (ht : t + uartLen (s.portOf n).pairCfg * wf (s.portOf n).pairCfg 15 0 ≤ s.uptime) :
    uartTxByte n s = (s.setPort n (uartStart { s.portOf n with tx := rest, txAt := none } s.uptime)).emit
      (.wire "uart_tx" n (bitsNum (uartBits (s.portOf n).pairCfg b))) := by
  simp [uartTxByte, hb, ha, hl, hm, Nat.not_lt.mpr ht]

/-! ## PAIR_DATA -/

theorem writePairData_of_quad (v : Word) (hm : portMode s n = 6) :
    writePairData n v s = s.setPort n { s.portOf n with pairData := v } := by
  simp [writePairData, hm]

/-- A byte to send waits behind the others, and starts at once where the transmitter is idle. -/
theorem writePairData_of_uart (v : Word) (hm : portMode s n = 8) (hr : (s.portOf n).tx.length < 16) :
    writePairData n v s =
      s.setPort n (uartStart { s.portOf n with tx := (s.portOf n).tx ++ [v.extractLsb' 0 8] } s.uptime) := by
  simp [writePairData, hm, hr]

/-- A read in UART mode pops the oldest byte with its flags. -/
theorem readPairData_of_cons {b : UartByte} {rest : List UartByte} (hm : portMode s n = 8) (hr : (s.portOf n).rx = b :: rest) :
    readPairData n s = (wd (0x80000000 + b2n b.framing * 0x40000000 + b2n b.parity * 0x20000000 + b2n b.overrun * 0x10000000 +
      b.b.toNat), s.setPort n { s.portOf n with rx := rest }) := by
  simp [readPairData, hm, hr]

end

/-- Settles O22: a change by the inputs that it concerns, a frame by its data line, a byte by its queue. -/
theorem portPairs : Obligations.PortPairs := by
  unfold Obligations.PortPairs
  refine ⟨?_, fun n a b s u ha hb hu => quadStep_of_both ha hb hu, ?_,
    fun n r s u hr hl hm ht hb ho hd hu => done_eq (encoderFrame_of_high (s := s.start) hr hl hm ht hb ho hd hu),
    fun n r s hr hl hm ht hb ho hd => done_eq (encoderFrame_of_low (s := s.start) hr hl hm ht hb ho hd),
    ?_, ?_, ?_, ?_, ?_, ?_, ?_⟩
  · rintro n p q s hn he hl hm rfl rfl
    exact done_eq (quadTransition_of_quad (s := s.start) hn he hl hm)
  · rintro n a c s u ha hr rfl hu
    exact quadStep_of_a ha hr hu
  · rintro n p s rfl hb hm hr ht hx
    exact done_eq (encoderFrameEnd_of_stuck (s := s.start) hb hm ht hr hx)
  · rintro n p s u rfl hb hm hr ht hu
    exact done_eq (encoderFrameEnd_of_ready (s := s.start) hb hm ht hr hu)
  · rintro n t0 due p s hn rfl ha hl hm hx hd ht
    exact done_eq (uartRxByte_of_due (s := s.start) hn ha hl hm hx hd ht)
  · rintro n t b rest p s rfl hb ha hl hm ht
    exact done_eq (uartTxByte_of_sent (s := s.start) hb ha hl hm ht)
  · rintro acc n v s rfl ho hm
    exact done_fpeWrite ho (by decide) (writePairData_of_quad (s := s.start) v hm)
  · rintro acc n v s rfl ho hm hr
    exact done_fpeWrite ho (by decide) (writePairData_of_uart (s := s.start) v hm hr)
  · rintro acc n b rest s rfl ho hm hr
    exact done_fpeRead ((fpeRead_of_owned (s := s.start) ho (by decide) (by decide)).trans
      (readPairData_of_cons (s := s.start) hm hr))

end Sys2Proof.Machine
end

section
/-! PROOF. What the timebase does when its reference goes, comes back, is missed or comes, and what its commands and its pulse do; and
with them the statements TimebaseReference and TimebaseCommands. -/
namespace Sys2Proof.Machine
open Sys2Proof

/-! ## The reference goes and returns (R253, R254) -/

section
variable {s : State}

theorem refLost_of_running (hr : s.tbs.run = true) (hf : s.tbs.ref = true) :
    refLost s = holdover ((({ s with tbs := { s.tbs with ref := false } }).raiseAll 0x130028 0 8).post
      allDomains 0x16 .ok 2 0 0) :=
  if_pos (by simp [hr, hf])

/-- While the timebase does not run, or the reference is gone already, only the pin is noted. -/
theorem refLost_of_not_running (h : s.tbs.run = false ∨ s.tbs.ref = false) :
    refLost s = { s with tbs := { s.tbs with ref := false } } :=
  if_neg (Bool.eq_false_iff.mp (Bool.and_eq_false_iff.mpr h))

theorem refReturn_of_running (hr : s.tbs.run = true) (hf : s.tbs.ref = false) :
    refReturn s = { s with tbs := { s.tbs with
      ref := true, good := 0, state := if s.tbs.source = 0 then .free else .acquiring, ppsAt := s.uptime,
      syncAt := s.uptime } } :=
  if_pos (by simp [hr, hf])

/-! ## Reference instants that do not come (R255) -/

/-- The state once a PPS has been missed. -/
def ppsMissed (s : State) : State :=
  ({ s with tbs := { s.tbs with
    pps := false, ppsAt := s.uptime, missed := sat 0xFFFF s.tbs.missed, missRun := sat 255 s.tbs.missRun,
    good := 0 } }).raiseAll 0x130028 0 4

/-- A missed PPS is counted; with one missed before it, it ends the discipline. -/
theorem ppsTimeout_of_late (hr : s.tbs.run = true) (hs : s.tbs.source = 1) (ht : s.tbs.ppsAt + 1100000000 ≤ s.uptime) :
    ppsTimeout s = if 1 ≤ s.tbs.missRun then holdover (ppsMissed s) else ppsMissed s :=
  (if_neg (Nat.not_lt.mpr ht)).trans (if_pos (by simp [hr, hs]))

theorem syncTimeout_of_late (hr : s.tbs.run = true) (hs : s.tbs.source = 2)
    (ht : s.tbs.syncAt + 3 * Config.syncIntervalNs s.tbs.macPort ≤ s.uptime) :
    syncTimeout s = holdover { s with tbs := { s.tbs with
      syncAt := s.uptime, missed := sat 0xFFFF s.tbs.missed, good := 0 } } :=
  if_pos (by simp [hr, hs, ht])

/-! ## Reference instants (R255–R257) -/

theorem applySet_of_pending {v : Nat} (h : s.tbs.setPend = some v) :
    applySet s = endCmd? (s.tbs.setCmd.map fun x => ⟨x.1, x.2⟩) .ok 0 [wd v, wd (v / 0x100000000)]
      (dtbStep { s with tbs := { s.tbs with setPend := none, setCmd := none, est := false, aclkEst := false } }
        (v * 17592186044416)) := by
  simp [applySet, h]

theorem applySet_of_none (h : s.tbs.setPend = none) : applySet s = s := by
  simp [applySet, h]

/-- A PPS edge applies the TIME_SET that waits for it, and then measures the offset. -/
theorem ppsEdge_of_source (hr : s.tbs.run = true) (hs : s.tbs.source = 1) {u : State}
    (hu : u = applySet { s with tbs := { s.tbs with pps := true, ppsAt := s.uptime } }) :
    ppsEdge s = refInstant { u with free := u.free + 1 } (secondOffset u.now) 20 3 (freeRate u.free) := by
  subst hu
  exact if_pos (by simp [hr, hs])

theorem ppsEdge_of_ne (hs : s.tbs.source ≠ 1) : ppsEdge s = { s with tbs := { s.tbs with pps := true, ppsAt := s.uptime } } :=
  if_neg (by simp [hs])

theorem syncMessage_of_source (hr : s.tbs.run = true) (hs : s.tbs.source = 2) (hu : (s.macOf s.tbs.macPort).up = true)
    (gm : Nat) (rate : Int) :
    syncMessage s.tbs.macPort gm rate s =
      refInstant { s with tbs := { s.tbs with syncAt := s.uptime } } ((s.now : Int) - gm) 100 8 rate :=
  if_pos (by simp [hr, hs, hu])

/-- While acquiring, an offset above 1 ms is stepped away; it is above every bound of a good instant. -/
theorem refInstant_of_far {off rate : Int} {bound need : Nat} (hf : s.tbs.ref = true) (ha : s.tbs.state = .acquiring)
    (ho : 1000000 < off.natAbs) (hb : bound ≤ 1000000) :
    refInstant s off bound need rate = dtbStep { s with tbs := { s.tbs with
      offset := offsetClamp off, accepted := sat 0xFFFF s.tbs.accepted, missRun := 0, good := 0 } }
      (((s.tbs.dtb : Int) - off * 17592186044416) % 2 ^ 108).toNat := by
  have hbad : ¬ off.natAbs ≤ bound := by omega
  simp [refInstant, hf, ha, ho, hbad]

end

/-- Settles O23: each clause is what the timebase does in that case, in the state in which the command acts. -/
theorem timebaseReference : Obligations.TimebaseReference := by
  unfold Obligations.TimebaseReference
  refine ⟨fun s hr hf => done_eq (refLost_of_running (s := s.start) hr hf),
    fun s h => done_eq (refLost_of_not_running (s := s.start) h),
    fun s hr hf => done_eq (refReturn_of_running (s := s.start) hr hf),
    fun s hr hs ht hm => done_eq ((ppsTimeout_of_late (s := s.start) hr hs ht).trans ?_),
    fun s hr hs ht hm => done_eq ((ppsTimeout_of_late (s := s.start) hr hs ht).trans (if_pos hm)),
    fun s hr hs ht => done_eq (syncTimeout_of_late (s := s.start) hr hs ht),
    fun s u hr hs hu => done_eq (ppsEdge_of_source (s := s.start) hr hs hu),
    fun s hs => done_eq (ppsEdge_of_ne (s := s.start) hs), fun v s h => applySet_of_pending h,
    fun s h => applySet_of_none h, ?_, fun s off rate bound need hf ha ho hb => refInstant_of_far hf ha ho hb⟩
  · rw [if_neg (by simp [hm]), ppsMissed]
    simp [hm, sat]
  · rintro p gm rate s hr hs rfl hu
    exact done_eq (syncMessage_of_source (s := s.start) hr hs hu gm rate)

/-! ## TB_PPS_OUT (R259) -/

section
variable {s : State}

theorem ppsOutPulse_of_due (hr : s.tbs.run = true) (he : s.tbs.ppsEn = true) (hl : s.tbs.ppsOut = false)
    (ht : (s.now + 1) % 1000000000 ≤ 2) :
    ppsOutPulse s = ({ s with tbs := { s.tbs with ppsOut := true, ppsRise := s.uptime } }).emit (.pin "TB_PPS_OUT" true) :=
  if_pos (by simp [hr, he, hl, ht])

theorem ppsPulseEnd_of_due (hh : s.tbs.ppsOut = true) (ht : s.tbs.ppsRise + 100000 ≤ s.uptime) :
    ppsPulseEnd s = ({ s with tbs := { s.tbs with ppsOut := false } }).emit (.pin "TB_PPS_OUT" false) :=
  (if_neg (Nat.not_lt.mpr ht)).trans (if_pos hh)

end

/-! ## TIME_SET and TIME_DISCIPLINE (R255, R257) -/

section
variable {s : State} {d : Nat}

@[simp] theorem servedState_tbs (s : State) (d : Nat) : (servedState s d).tbs = s.tbs := rfl
@[simp] theorem servedState_uptime (s : State) (d : Nat) : (servedState s d).uptime = s.uptime := rfl

/-- The time that a TIME_SET gives, in ns. -/
def setTime (c : RunCmd) : Nat := pw c 0 + pw c 1 * 2 ^ 32

/-- TIME_SET while none waits: under PPS it waits for the edge, else it is applied at once. -/
theorem exec_timeSet_eq (h : served s d 0x0701 .lead) (hp : s.tbs.setPend = none) {u : State} (hu : u = servedState s d)
    {v : Nat} (hv : v = setTime (frontEntry s d)) :
    exec (.timeSet d) s = .next (answered s (
      if s.tbs.source = 1 then
        waitCmd (frontEntry s d) [] { u with tbs := { u.tbs with setPend := some v, setCmd := some (d, (frontEntry s d).tag) } }
      else finish (frontEntry s d) .ok 0 [] [wd v, wd (v / 2 ^ 32)]
        (dtbStep { u with tbs := { u.tbs with est := false, aclkEst := false } } (v * 2 ^ 44)))) := by
  subst hu hv
  exact serve_eq h (if_neg (by simp [hp]))

/-- The source that a TIME_DISCIPLINE asks for. -/
def askedSource (c : RunCmd) : Nat := bf (pw c 0) 1 0

/-- The state once TIME_DISCIPLINE has selected a source. -/
def disciplined (s : State) (d src : Nat) : State :=
  noteCmd { servedState s d with
    tbs := discipline s.tbs src (bf (pw (frontEntry s d) 0) 7 4) s.uptime } 0x1010

/-- TIME_DISCIPLINE of PPS keeps a TIME_SET waiting. -/
theorem exec_timeDiscipline_of_pps (h : served s d 0x0702 .lead) (hq : askedSource (frontEntry s d) = 1) :
    exec (.timeDiscipline d) s = .next (answered s (finish (frontEntry s d) .ok 0 [] [] (disciplined s d 1))) := by
  refine serve_eq h ?_
  simp only [askedSource] at hq
  simp [hq, disciplined]

/-- A source of 3 is clamped to 0. -/
theorem exec_timeDiscipline_of_clamped (h : served s d 0x0702 .lead) (hq : askedSource (frontEntry s d) = 3) :
    exec (.timeDiscipline d) s = .next (answered s
      (finish (frontEntry s d) .ok 0 [cmdClamp 0 0 3 0] [] (applySet (disciplined s d 0)))) := by
  refine serve_eq h ?_
  simp only [askedSource] at hq
  simp [hq, disciplined]

end

/-- Settles O24: each clause is the case of its command's equation. -/
theorem timebaseCommands : Obligations.TimebaseCommands := by
  unfold Obligations.TimebaseCommands
  refine ⟨fun acc s => done_eq (f := fun s => (nowLo acc s).2.emit (.words [(nowLo acc s).1])) rfl,
    fun s hr he hl ht => done_eq (ppsOutPulse_of_due (s := s.start) hr he hl ht),
    fun s hh ht => done_eq (ppsPulseEnd_of_due (s := s.start) hh ht), fun d v u s h hu hv hp hs => ?_,
    fun d v u s h hu hv hp hs => ?_, ?_, ?_⟩
  · rw [exec_timeSet_eq h hp hu hv, if_neg hs]
  · rw [exec_timeSet_eq h hp hu hv, if_pos hs]
  · rintro d u s h rfl hq
    exact exec_timeDiscipline_of_pps h hq
  · rintro d u s h rfl hq
    exact exec_timeDiscipline_of_clamped h hq

end Sys2Proof.Machine
end

section
/-! PROOF. What a cycle of a reflex table, an EVENT that arrives, a flow's interval that ends and a write of RFX.CTRL do, and with
them the statement ReflexTables. -/
namespace Sys2Proof.Machine
open Sys2Proof

/-! ## A cycle of a table (R265, R266) -/

/-- The state in which a cycle of a table is evaluated: its rfx_in are the levels that it sees. -/
def sensed (s : State) (t : Nat) (v : BitVec 64) : State := s.setTable t { s.tableOf t with rfxIn := seenIn s t v }

@[simp] theorem sensed_boot (s : State) (t : Nat) (v : BitVec 64) : (sensed s t v).boot = s.boot := rfl

@[simp] theorem sensed_tableOf (s : State) (t : Nat) (v : BitVec 64) :
    (sensed s t v).tableOf t = { s.tableOf t with rfxIn := seenIn s t v } := State.tableOf_setTable ..

/-- The state in which a cycle's terms act: the senses follow the signals, the pulses of the cycle before are over, and the terms that
hold are noted. -/
def cycled (u : State) (t : Nat) (now : List Nat) : State :=
  u.setTable t { u.tableOf t with
    prev := tableSignals u t, live := now, pulses := 0, rfxOut := 0, remote0 := (u.tableOf t).remote }

/-- The terms that rise or fall in a cycle, in term order; those that fall are marked. -/
def changes (now before : List Nat) : List (Nat × Bool) :=
  ((List.range 256).filter fun i => now.contains i != before.contains i).map fun i => (i, !now.contains i)

section
variable {t : Nat} {v : BitVec 64} {s : State} (ht : isTableId t = true)
include ht

/-- A table that is not evaluated runs no term. -/
theorem termFire_of_idle (h : s.boot.released = false ∨ (s.tableOf t).armed = false ∨ (s.tableOf t).inCycle = true) :
    termFire t v s = cycled (sensed s t v) t [] := by
  have hidle : (!(sensed s t v).boot.released || !((sensed s t v).tableOf t).armed ||
      ((sensed s t v).tableOf t).inCycle) = true := by
    simpa [or_assoc] using h
  exact (if_neg (by simp [ht])).trans (if_pos hidle)

/-- A table that is evaluated runs the terms that have changed, and tells its readers where one of them has risen. -/
theorem termFire_of_running (hr : s.boot.released = true) (ha : (s.tableOf t).armed = true) (hc : (s.tableOf t).inCycle = false)
    {now : List Nat} (hn : now = liveTerms (sensed s t v) t (tableSignals (sensed s t v) t) (s.tableOf t).prev) {w : State}
    (hw : w = runCycle t (changes now (s.tableOf t).live) (cycled (sensed s t v) t now)) :
    termFire t v s =
      if ((changes now (s.tableOf t).live).any fun x => !x.2) = true then w.raiseFor (tableReaders s t) 0x60038 0 1 else w := by
  have hruns : ¬ (!(sensed s t v).boot.released || !((sensed s t v).tableOf t).armed ||
      ((sensed s t v).tableOf t).inCycle) = true := by
    simp [hr, ha, hc]
  have hprev : ((sensed s t v).tableOf t).prev = (s.tableOf t).prev := by simp
  have hlive : ((sensed s t v).tableOf t).live = (s.tableOf t).live := by simp
  rw [← hlive] at hw ⊢
  rw [← hprev] at hn
  subst hn hw
  exact (if_neg (by simp [ht])).trans (if_neg hruns)

end

/-! ## EVENTs (R269, R271, R275) -/

/-- The state in which an EVENT has left the network at its destination. -/
def ejected (s : State) (e : EventPkt) : State :=
  { s with noc := { s.noc with events := s.noc.events.erase e, busyAt := busyBand s s.noc.busyAt e.dst } }

/-- An EVENT that may pass every one ahead of it is received, or dropped where its destination is muzzled or its table not up. -/
theorem event_eq {e : EventPkt} {s : State} (he : e ∈ s.noc.events) (hh : (eventsAhead e s.noc.events).any (eventHolds e) = false) :
    event e s =
      if isMuzzled s e.dst = true ∨ tableUp s (tableAt s e.dst) = false then eventDrop (bump (ejected s e) e.dst 1) e.table
      else (ejected s e).setTable (tableAt s e.dst) { remoteEvent (s.tableOf (tableAt s e.dst)) e.r e.mode with
        latMax := max (s.tableOf (tableAt s e.dst)).latMax (min 0xFFFF (s.now16 - e.origin)) } := by
  refine (if_neg (by simp [he, hh])).trans ?_
  simp only [Bool.or_eq_true, Bool.not_eq_true']
  rfl

theorem remoteEvent_set_remote (g : RTable) (r : Nat) : (remoteEvent g r 1).remote = g.remote ||| (1#32 <<< r) := rfl

theorem remoteEvent_clear_remote (g : RTable) (r : Nat) : (remoteEvent g r 0).remote = g.remote &&& ~~~(1#32 <<< r) := rfl

theorem remoteEvent_pulse_pulses (g : RTable) (r : Nat) :
    (remoteEvent g r 2).pulses = g.pulses ||| (1#256 <<< (0xC0 + r)) := rfl

/-- The one EVENT that a flow holds is sent once the interval since the last one has passed. -/
theorem flowInterval_of_due {src dst : Nat} {h : HeldEvt} {s : State}
    (hm : (s.tableOf src).held.filter (fun x => x.dst == dst) = [h])
    (hd : SMap.get dNat (s.tableOf src).sent dst - 1 + spacing s src dst ≤ s.uptime) :
    flowInterval src dst s = sendEvent (s.setTable src { s.tableOf src with held := (s.tableOf src).held.erase h }) src h := by
  simp [flowInterval, hm, Nat.not_lt.mpr hd]

/-! ## Arming (R272, R273) -/

/-- RFX.CTRL of a table that the accessor may read: a bank table is armed by no one, and a table stays as it is while RFX holds its
vote on an entry of the band. -/
theorem rfxCtrl_of_reader {acc : Accessor} {s : State} {t : Nat} (ht : t = rfxIx s (acode acc)) (hr : mayReadTable s acc t = true)
    (v : Word) :
    rfxCtrl acc v s =
      if 0x100 ≤ t then s.setTable t { s.tableOf t with armSt := .notOwner }
      else if rfxHolds s t = true then s.setTable t { s.tableOf t with armSt := .busy }
      else routeCheck (setArm s t (wb v 31) true) := by
  subst ht
  exact if_neg (by simp [hr])

section
variable {s : State} {t : Nat}

theorem setArm_of_accepted (h : 0x80 ≤ t ∨ armRefused s t = false) :
    setArm s t true true = s.setTable t { s.tableOf t with armed := true, armSt := .ok } := by
  obtain hbank | hup := h
  · simp [setArm, Nat.not_lt.mpr hbank]
  · simp [setArm, hup]

theorem setArm_of_refused (ht : t < 0x80) (h : armRefused s t = true) :
    setArm s t true true = (s.setTable t { s.tableOf t with armed := false, armSt := .destPoweredDown, live := [] }).raiseFor
      (tableReaders s t) 0x60038 0 4 := by
  simp [setArm, ht, h]

theorem setArm_off : setArm s t false true = s.setTable t { s.tableOf t with armed := false, armSt := .ok, live := [] } := rfl

end

/-- Settles O26: a cycle by whether the table is evaluated, an EVENT by what it finds at its destination, a write of RFX.CTRL by the kind
of table and what refuses it. -/
theorem reflexTables : Obligations.ReflexTables := by
  unfold Obligations.ReflexTables
  refine ⟨?_, ?_, fun t acts s => rfl, ?_,
    fun g r => ⟨remoteEvent_set_remote g r, remoteEvent_clear_remote g r, remoteEvent_pulse_pulses g r⟩, ?_,
    fun src dst h s hm hd => done_eq (flowInterval_of_due (s := s.start) hm hd), ?_, ?_,
    fun s t h => setArm_of_accepted h, fun s t ht h => setArm_of_refused ht h, fun s t => setArm_off⟩
  · rintro t v s u ht h rfl -
    exact done_eq (termFire_of_idle (s := s.start) ht h)
  · rintro t v now acts s u w ht hr ha hc rfl - hn rfl hw
    exact done_eq (termFire_of_running (s := s.start) ht hr ha hc hn hw)
  · rintro e s u he hh hm hu rfl
    have hreceived : ¬ (isMuzzled s e.dst = true ∨ tableUp s (tableAt s e.dst) = false) := by simp [hm, hu]
    exact done_eq ((event_eq (s := s.start) he hh).trans (if_neg hreceived))
  · rintro e s he hh h
    exact done_eq ((event_eq (s := s.start) he hh).trans (if_pos h))
  · rintro acc v t s ht hr hf hv
    exact done_eq ((rfxCtrl_of_reader (s := s.start) ht hr v).trans
      ((if_neg (Nat.not_le.mpr hf)).trans (if_neg (Bool.eq_false_iff.mp hv))))
  · rintro acc v t s ht hr hb
    exact done_eq ((rfxCtrl_of_reader (s := s.start) ht hr v).trans (if_pos hb))

end Sys2Proof.Machine
end

section
/-! PROOF. What the commands of a ring do, from its registers and from the mailbox; and with them the statements RingCommands and
RingMailbox. -/
namespace Sys2Proof.Machine
open Sys2Proof

/-! ## Commands of the control block (R316, R317, R321, R326) -/

section
variable {s : State} {r : Nat}

/-- A command of the control block that meets another. -/
theorem ringCommand_of_busy (hb : (s.ringOf r).busy = true) (cmd : Nat) :
    ringCommand s r cmd none = uanInt (s.setRing r { s.ringOf r with cmdSt := .busy, lastCmd := cmd }) r 0x40 :=
  if_pos hb

variable (hb : (s.ringOf r).busy = false) (ref : Option (Nat × Nat))
include hb

theorem ringCommand_start : ringCommand s r 1 ref =
    if startCheck s r = .ok then startRing (ringBegin s r 1 ref) r
    else ringDone (ringBegin s r 1 ref) r (startCheck s r) [] :=
  if_neg (by simp [hb])

theorem ringCommand_stop : ringCommand s r 2 ref =
    if (s.ringOf r).state = .stopped then ringDone (ringBegin s r 2 ref) r .ok [] else stopRing (ringBegin s r 2 ref) r :=
  (if_neg (by simp [hb])).trans (by simp)

/-- ASSIGN acts by its row's status, the ring that follows, and whether its completion waits for a CONFIG. -/
theorem ringCommand_assign {a : Status × Ring × Bool}
    (ha : assignRow ((ringBegin s r 3 ref).ringOf r) (s.ringOf r).asnStn
      ((s.ringOf r).asnLo.toNat + (s.ringOf r).asnHi.toNat * 0x100000000) = a) :
    ringCommand s r 3 ref =
      if a.2.2 = true then pumpCtrl
        (if (stnOf (s.ringOf r) (s.ringOf r).asnStn).id = 0 then
          uanEvent ((ringBegin s r 3 ref).setRing r { a.2.1 with cmdStn := (s.ringOf r).asnStn }) r 7 .ok (s.ringOf r).asnStn
         else (ringBegin s r 3 ref).setRing r { a.2.1 with cmdStn := (s.ringOf r).asnStn }) r
      else ringDone ((ringBegin s r 3 ref).setRing r a.2.1) r a.1 [] := by
  subst ha
  exact if_neg (by simp [hb])

theorem ringCommand_safe : ringCommand s r 4 ref =
    if (s.ringOf r).state = .running then
      ringDone (pumpCtrl ((ringBegin s r 4 ref).setRing r (queueFrame ((ringBegin s r 4 ref).ringOf r) .safe)) r) r .ok []
    else ringDone (ringBegin s r 4 ref) r .notReady [] :=
  (if_neg (by simp [hb])).trans (by simp)

theorem ringCommand_rediscover : ringCommand s r 5 ref =
    if (s.ringOf r).state = .running then
      pumpCtrl ((ringBegin s r 5 ref).setRing r (queueFrame ((ringBegin s r 5 ref).ringOf r) .discover)) r
    else ringDone (ringBegin s r 5 ref) r .notReady [] :=
  (if_neg (by simp [hb])).trans (by simp)

end

/-! ## Commands through the ring registers (R283, R325) -/

@[simp] theorem start_ringOwner (s : State) (r : Nat) : ringOwner s.start r = ringOwner s r := rfl

theorem wf_wd_cmd {cmd : Nat} (hc : cmd < 16) : wf (wd cmd) 3 0 = cmd := by
  have h32 : cmd % 2 ^ 32 = cmd := Nat.mod_eq_of_lt (by omega)
  have h4 : cmd % 2 ^ 4 = cmd := Nat.mod_eq_of_lt (by omega)
  simpa [wf, bf, wd, h32] using h4

section
variable {o : Owner} {r : Nat} {s : State}

section
variable (hr : r < 64) (ho : o = ringOwner s r) (hu : o ≠ .unowned)
include hr ho hu

/-- The ring's owner gives a command. -/
theorem done_ringCmd {cmd : Nat} (hc : cmd < 16) {u : State} (h : ringCommand s.start r cmd none = u) :
    done (ringCmd o r cmd) s = .next (interrupts s u) := by
  refine done_eq ((if_pos (by simp [hr, hu, ← ho])).trans ((if_pos rfl).trans ?_))
  rw [wf_wd_cmd hc, h]

theorem exec_safeMask_of_owner (v : Word) : exec (.safeMask o r v) s =
    .next (interrupts s (s.start.setRing r { s.ringOf r with safeMask := (s.ringOf r).safeMask ||| v })) :=
  done_eq ((if_pos (by simp [hr, hu, ← ho])).trans (by simp [ctrlWrite, ctrlPut]))

end

section
variable (h : o ≠ ringOwner s r)
include h

/-- A domain that does not own the ring has no effect on it. -/
theorem done_ringCmd_of_foreign (cmd : Nat) : done (ringCmd o r cmd) s = .next (interrupts s s.start) :=
  done_eq (if_neg (by simp [h]))

theorem exec_safeMask_of_foreign (v : Word) : exec (.safeMask o r v) s = .next (interrupts s s.start) :=
  done_eq (if_neg (by simp [h]))

end
end

/-- Settles O27: the owner's command is the one of the control block, whose equation has the clause's case. -/
theorem ringCommands : Obligations.RingCommands := by
  unfold Obligations.RingCommands
  refine ⟨fun o r s hr ho hu hb hc => ?_, fun o r s hr ho hu hb hc => ?_, fun o r s hr ho hu hb hs => ?_, ?_, ?_, ?_, ?_,
    fun o r s hr ho hu hb hs => ⟨?_, ?_⟩, fun o r s hr ho hu hb hs => ?_, fun o r s hr ho hu hb => ?_,
    fun o r v s hr ho hu => exec_safeMask_of_owner hr ho hu v, fun o r v s h => ?_⟩
  · exact done_ringCmd hr ho hu (by decide) ((ringCommand_start (s := s.start) hb none).trans (if_pos hc))
  · exact done_ringCmd hr ho hu (by decide) ((ringCommand_start (s := s.start) hb none).trans (if_neg hc))
  · exact done_ringCmd hr ho hu (by decide) ((ringCommand_stop (s := s.start) hb none).trans (if_neg hs))
  · rintro o r g s u hr ho hu hb rfl ha
    exact done_ringCmd hr ho hu (by decide) ((ringCommand_assign (s := s.start) hb none ha).trans (if_pos rfl))
  · rintro o r g st s u hr ho hu hb rfl ha
    exact done_ringCmd hr ho hu (by decide) ((ringCommand_assign (s := s.start) hb none ha).trans (if_neg Bool.false_ne_true))
  · rintro o r s u hr ho hu hb rfl hs
    exact done_ringCmd hr ho hu (by decide) ((ringCommand_safe (s := s.start) hb none).trans (if_pos hs))
  · rintro o r s u hr ho hu hb rfl hs
    exact done_ringCmd hr ho hu (by decide) ((ringCommand_rediscover (s := s.start) hb none).trans (if_pos hs))
  · exact done_ringCmd hr ho hu (by decide) ((ringCommand_rediscover (s := s.start) hb none).trans (if_neg hs))
  · exact done_ringCmd hr ho hu (by decide) ((ringCommand_safe (s := s.start) hb none).trans (if_neg hs))
  · exact done_ringCmd hr ho hu (by decide) ((ringCommand_stop (s := s.start) hb none).trans (if_pos hs))
  · have hbusy (cmd : Nat) (hc : cmd < 16) := done_ringCmd hr ho hu hc (ringCommand_of_busy (s := s.start) hb cmd)
    exact ⟨hbusy 1 (by decide), hbusy 2 (by decide), hbusy 3 (by decide), hbusy 4 (by decide), hbusy 5 (by decide)⟩
  · have hforeign := done_ringCmd_of_foreign h
    exact ⟨hforeign 1, hforeign 2, hforeign 3, hforeign 4, hforeign 5, exec_safeMask_of_foreign h v⟩

/-! ## Ring commands of the mailbox (R326) -/

@[simp] theorem servedState_ringOf (s : State) (d r : Nat) : (servedState s d).ringOf r = s.ringOf r := rfl

/-- The state once UAN_ASSIGN has loaded its parameters. -/
def assignLoaded (c : RunCmd) (r : Nat) (u : State) : State :=
  ctrlWrite r 0x3C (nth c.p 3) (ctrlWrite r 0x38 (nth c.p 2) (ctrlWrite r 0x34 (nth c.p 1) u))

section
variable {s u : State} {d r : Nat} {c : RunCmd} (hu : u = servedState s d) (hc : c = frontEntry s d)
include hu hc

/-- UAN_START_RING: it loads no parameters where it is told to keep them, or meets another command. -/
theorem exec_uanStartRing_eq (h : served s d 0x0501 .owner) (hr : r = pw c 0 % 64) :
    exec (.uanStartRing d) s = .next (answered s (
      if ringOwned c u = false then finish c .notOwner 0 [] [] u
      else ringMail c 1 (if wb (nth c.p 0) 8 || (s.ringOf r).busy then u else startFields c r u))) := by
  subst hu hc hr
  exact serve_eq h (by simp)

theorem exec_uanStopRing_eq (h : served s d 0x0502 .owner) :
    exec (.uanStopRing d) s = .next (answered s (
      if ringOwned c u = true then ringMail c 2 u else finish c .notOwner 0 [] [] u)) := by
  subst hu hc
  exact serve_eq h rfl

/-- UAN_GET_TOPOLOGY: with bit 8 the topology is read anew first. -/
theorem exec_uanGetTopology_eq (h : served s d 0x0503 .owner) :
    exec (.uanGetTopology d) s = .next (answered s (
      if ringOwned c u = false then finish c .notOwner 0 [] [] u
      else if bufOk (pw c 1) 2016 = false then finish c .badParameter 0 [] [] u
      else if wb (nth c.p 0) 8 = true then ringMail c 5 u
      else finish c .ok 7 [] [wd (s.ringOf (pw c 0 % 64)).pods]
        (writeBuf u c (pw c 1) (topoArea (s.ringOf (pw c 0 % 64)))))) := by
  subst hu hc
  exact serve_eq h (by simp)

theorem exec_uanAssign_eq (h : served s d 0x0504 .owner) (hr : r = pw c 0 % 64) :
    exec (.uanAssign d) s = .next (answered s (
      if ringOwned c u = false then finish c .notOwner 0 [] [] u
      else if (s.ringOf r).busy = true then ringMail c 3 u
      else ringMail c 3 (assignLoaded c r u))) := by
  subst hu hc hr
  exact serve_eq h (by simp only [Bool.not_eq_true']; rfl)

theorem exec_uanSafe_eq (h : served s d 0x0505 .owner) (hr : r = pw c 0 % 64) :
    exec (.uanSafe d) s = .next (answered s (
      if ringOwned c u = false then finish c .notOwner 0 [] [] u
      else ringMail c 4
        (if (s.ringOf r).state == .running && !(s.ringOf r).busy then ctrlWrite r 0x30 (nth c.p 1) u else u))) := by
  subst hu hc hr
  exact serve_eq h (by simp)

end

/-- Settles O28: each clause is the case of its command's equation. -/
theorem ringMailbox : Obligations.RingMailbox := by
  unfold Obligations.RingMailbox
  refine ⟨fun d r c u s h hu hc hr ho => ?_, fun d c u s h hu hc ho => ?_, fun d c u s h hu hc ho hbuf hkeep => ?_,
    fun d c u s h hu hc ho hbuf hanew => ?_, fun d r c u s h hu hc hr ho => ?_, fun d r c u s h hu hc hr ho => ?_,
    fun d c u s h hu hc ho hbuf => ?_,
    fun d c u s hu hc ho => ⟨fun h => ?_, fun h => ?_, fun h => ?_, fun h => ?_, fun h => ?_⟩⟩
  · rw [exec_uanStartRing_eq hu hc h hr, if_neg (by simp [ho])]
  · rw [exec_uanStopRing_eq hu hc h, if_pos ho]
  · rw [exec_uanGetTopology_eq hu hc h, if_neg (by simp [ho]), if_neg (by simp [hbuf]), if_neg (by simp [hkeep])]
  · rw [exec_uanGetTopology_eq hu hc h, if_neg (by simp [ho]), if_neg (by simp [hbuf]), if_pos hanew]
  · rw [exec_uanAssign_eq hu hc h hr, if_neg (by simp [ho]), assignLoaded]
  · rw [exec_uanSafe_eq hu hc h hr, if_neg (by simp [ho])]
  · rw [exec_uanGetTopology_eq hu hc h, if_neg (by simp [ho]), if_pos hbuf]
  · rw [exec_uanStartRing_eq hu hc h rfl, if_pos ho]
  · rw [exec_uanStopRing_eq hu hc h, if_neg (by simp [ho])]
  · rw [exec_uanGetTopology_eq hu hc h, if_pos ho]
  · rw [exec_uanAssign_eq hu hc h rfl, if_pos ho]
  · rw [exec_uanSafe_eq hu hc h rfl, if_pos ho]

end Sys2Proof.Machine
end

section
/-! PROOF. What a ring's receiver makes of the code-groups that come back, and what each control frame does when it has come back; and
with them the statement RingFrames. -/
namespace Sys2Proof.Machine
open Sys2Proof

/-! ## The receiver (R285) -/

section
variable {s : State} {r : Nat} {gs : List CodeGroup}

theorem heard_ringOf (s : State) (r : Nat) (gs : List CodeGroup) :
    (heard s r gs).ringOf r = { s.ringOf r with rx := syncRun (s.ringOf r).rx gs } := State.ringOf_setRing ..

/-! The receiver alone has changed. -/

@[simp] theorem heard_state (s : State) (r : Nat) (gs : List CodeGroup) :
    ((heard s r gs).ringOf r).state = (s.ringOf r).state := by rw [heard_ringOf]
@[simp] theorem heard_onRing (s : State) (r : Nat) (gs : List CodeGroup) :
    ((heard s r gs).ringOf r).onRing = (s.ringOf r).onRing := by rw [heard_ringOf]
@[simp] theorem heard_busy (s : State) (r : Nat) (gs : List CodeGroup) :
    ((heard s r gs).ringOf r).busy = (s.ringOf r).busy := by rw [heard_ringOf]
@[simp] theorem heard_recover (s : State) (r : Nat) (gs : List CodeGroup) :
    ((heard s r gs).ringOf r).recover = (s.ringOf r).recover := by rw [heard_ringOf]
@[simp] theorem heard_sentAt (s : State) (r : Nat) (gs : List CodeGroup) :
    ((heard s r gs).ringOf r).sentAt = (s.ringOf r).sentAt := by rw [heard_ringOf]
@[simp] theorem heard_loop (s : State) (r : Nat) (gs : List CodeGroup) :
    ((heard s r gs).ringOf r).loop = (s.ringOf r).loop := by rw [heard_ringOf]
@[simp] theorem heard_delays (s : State) (r : Nat) (gs : List CodeGroup) :
    ((heard s r gs).ringOf r).delays = (s.ringOf r).delays := by rw [heard_ringOf]
@[simp] theorem heard_errInv (s : State) (r : Nat) (gs : List CodeGroup) :
    ((heard s r gs).ringOf r).errInv = (s.ringOf r).errInv := by rw [heard_ringOf]
@[simp] theorem heard_uptime (s : State) (r : Nat) (gs : List CodeGroup) : (heard s r gs).uptime = s.uptime := rfl

/-- Code-groups with which synchronisation is neither acquired nor lost only reach the receiver. -/
theorem lineIn_of_steady (hs : (s.ringOf r).state ≠ .stopped)
    (h : synced (syncRun (s.ringOf r).rx gs) = synced (s.ringOf r).rx) : lineIn s.start r gs = heard s r gs := by
  refine (if_neg (by simp [hs])).trans ((if_neg ?_).trans (if_neg ?_)) <;> simp [h]

theorem lineIn_of_acquired (hs : (s.ringOf r).state ≠ .stopped) (hb : synced (s.ringOf r).rx = false)
    (ha : synced (syncRun (s.ringOf r).rx gs) = true) : lineIn s.start r gs = ringSynced (heard s r gs) r :=
  (if_neg (by simp [hs])).trans (if_pos (by simp [hb, ha]))

theorem lineIn_of_lost (hs : (s.ringOf r).state ≠ .stopped) (hb : synced (s.ringOf r).rx = true)
    (ha : synced (syncRun (s.ringOf r).rx gs) = false) : lineIn s.start r gs = ringUnsynced (heard s r gs) r :=
  (if_neg (by simp [hs])).trans ((if_neg (by simp [ha])).trans (if_pos (by simp [hb, ha])))

/-- The frame's bytes reach what the frame does, once the receiver has taken its code-groups. -/
theorem done_received {bs : List Byte} (h : framed s r gs bs) {f : List Byte → State → State} {u : State}
    (hf : f bs (heard s r gs) = u) : done (received r gs f) s = .next (interrupts s u) := by
  obtain ⟨hs, hb, ha, rfl⟩ := h
  subst hf
  have hline : lineIn s.start r gs = heard s r gs := lineIn_of_steady hs (ha.trans hb.symm)
  refine done_eq ?_
  unfold received
  rw [hline]
  exact if_pos (by simp [heard_ringOf, hb, ha])

end

/-! ## Frames that have come back -/

/-- The state once the frame on the ring has left it. -/
def offRing (s : State) (r : Nat) : State := s.setRing r { s.ringOf r with onRing := .none }

@[simp] theorem offRing_ringOf (s : State) (r : Nat) : (offRing s r).ringOf r = { s.ringOf r with onRing := .none } :=
  State.ringOf_setRing ..

section
variable {s : State} {r : Nat} {k : OnRing} {ok : Bool} (hk : (s.ringOf r).onRing = k)
include hk

theorem returned_of_valid (hv : ok = true) (f : State → State) : returned s r k ok f = f (offRing s r) :=
  (if_neg (by simp [hk])).trans (if_pos hv)

/-- A damaged frame is counted, and waits to be sent again. -/
theorem returned_of_damaged (hv : ok = false) (f : State → State) : returned s r k ok f =
    pumpCtrl ((offRing s r).setRing r
      (queueFrame { (offRing s r).ringOf r with errInv := sat 0xFFFF (s.ringOf r).errInv } k)) r :=
  (if_neg (by simp [hk])).trans (if_neg (by simp [hv]))

end

section
variable {s : State} {r : Nat} {bs : List Byte}

theorem resetFrame_of_valid (hk : (s.ringOf r).onRing = .reset) (hv : frameOk 7 bs = true) (hl : bs.length = 16) :
    resetFrame r bs s =
      if (s.ringOf r).state = .stopping then ringStopped (offRing s r) r
      else if (s.ringOf r).state = .discovering then measure (offRing s r) r else pumpCtrl (offRing s r) r :=
  (returned_of_valid hk (by simp [hv, hl]) _).trans (by simp)

theorem safeFrame_of_valid (hk : (s.ringOf r).onRing = .safe) (hv : frameOk 6 bs = true) (hl : bs.length = 16) :
    safeFrame r bs s =
      if (s.ringOf r).state = .stopping then ringStopped (offRing s r) r else pumpCtrl (offRing s r) r :=
  (returned_of_valid hk (by simp [hv, hl]) _).trans (by simp)

/-- Each station that an ASSIGN names waits for its CONFIG. -/
theorem assignFrame_of_valid (hk : (s.ringOf r).onRing = .assign) (hv : frameOk 3 bs = true)
    (hl : bs.length = 12 + 12 * leAt bs 4 1) :
    assignFrame r bs s = pumpCtrl ((offRing s r).setRing r ((assigned bs).foldl
      (fun h n => queueFrame (setStn h n { stnOf h n with toAsn := false }) (.config n)) ((offRing s r).ringOf r))) r :=
  returned_of_valid hk (by rw [hv, hl]; simp) _

/-- A CONFIG that neither ends the discovery nor completes an ASSIGN. -/
theorem configFrame_of_running {n : Nat} (hk : (s.ringOf r).onRing = .config n) (hv : frameOk 4 bs = true)
    (hn : leAt bs 4 1 = n) (hl : bs.length = 32 + leAt bs 6 1) (hs : (s.ringOf r).state = .running)
    (hb : (s.ringOf r).busy = false) :
    configFrame r bs s = pumpCtrl ((offRing s r).setRing r
      (setStn ((offRing s r).ringOf r) n { stnOf ((offRing s r).ringOf r) n with conf := true })) r := by
  unfold configFrame
  rw [hk]
  refine (returned_of_valid hk (by rw [hv, hn, hl]; simp) _).trans ((if_neg ?_).trans (if_neg ?_))
  · simp [hs]
  · simp [hb]

/-- A DELAY does not count when it claims longer than its frame has been gone. -/
theorem delayFrame_of_early {loop : Nat} (h : 16 * (s.uptime - (s.ringOf r).sentAt) < loop) : delayFrame r bs loop s = s :=
  if_pos h

section
variable {loop : Nat} (hk : (s.ringOf r).onRing = .delay) (ht : loop ≤ 16 * (s.uptime - (s.ringOf r).sentAt))
  (hv : frameOk 5 bs = true) (hl : bs.length = 16)
include hk ht hv hl

theorem delayFrame_of_running (hs : (s.ringOf r).state = .running) :
    delayFrame r bs loop s = pumpCtrl
      (if loop ≤ (s.ringOf r).loop + 32 ∧ (s.ringOf r).loop ≤ loop + 32 then offRing s r
       else delayChange ((offRing s r).setRing r { (offRing s r).ringOf r with
         loop := loop, noRoom := !ctrlRoom { (offRing s r).ringOf r with loop := loop } }) r) r := by
  refine (if_neg (Nat.not_lt.mpr ht)).trans ((returned_of_valid hk (by simp [hv, hl]) _).trans ?_)
  have hstate : ((offRing s r).ringOf r).state = .running := by simp [hs]
  dsimp only
  rw [hstate]
  by_cases hmoved : loop ≤ (s.ringOf r).loop + 32 ∧ (s.ringOf r).loop ≤ loop + 32
  · rw [if_pos hmoved]
    exact if_neg (by simp; omega)
  · rw [if_neg hmoved]
    exact if_pos (by simp; omega)

/-- One of the first seven measurements of the delay is noted, and the next one is sent. -/
theorem delayFrame_of_discovering (hs : (s.ringOf r).state = .discovering) (hd : (s.ringOf r).delays.length < 7) :
    delayFrame r bs loop s = pumpCtrl ((offRing s r).setRing r
      (queueFrame { (offRing s r).ringOf r with delays := (s.ringOf r).delays ++ [loop] } .delay)) r := by
  refine (if_neg (Nat.not_lt.mpr ht)).trans ((returned_of_valid hk (by simp [hv, hl]) _).trans ?_)
  have hseven : (((offRing s r).ringOf r).delays ++ [loop]).length < 8 := by simp; omega
  simp only [offRing_ringOf] at hseven
  simp only [offRing_ringOf, hs, if_pos hseven]

end

theorem discoverFrame_of_discovering (hk : (s.ringOf r).onRing = .discover) (hv : frameOk 2 bs = true)
    (h12 : 12 ≤ bs.length) (h24 : (bs.length - 12) % 24 = 0) (hs : (s.ringOf r).state = .discovering)
    (hr : (s.ringOf r).recover = false) :
    discoverFrame r bs s = discoverStart ((offRing s r).setRing r (setTopology ((offRing s r).ringOf r) bs)) r := by
  refine (returned_of_valid hk (by simp [hv, h12, h24]) _).trans ?_
  have hstate : (setTopology ((offRing s r).ringOf r) bs).state = .discovering := by simp [setTopology, hs]
  dsimp only
  rw [hstate]
  exact if_neg (by simp [setTopology, hr])

end

/-- Settles O29: the receiver gives each frame its bytes, and the frame acts by its case. -/
theorem ringFrames : Obligations.RingFrames := by
  unfold Obligations.RingFrames
  refine ⟨fun r gs bs u s h hk hv hl hu => ?_, fun r gs bs u s h hk hv hl hu => ?_, fun r gs bs u s h hk hv hl hu => ?_,
    fun r n gs bs u s h hn hk hv hl hu hs hb => ?_, fun r loop gs bs u s h hk ht hv hl hu hs => ?_,
    fun r loop gs bs u s h hk ht hv hl hu hs hd => ?_, fun r loop gs bs s h ht => ?_,
    fun r gs bs u s h hk hv h12 h24 hu hs hr => ?_, fun r gs bs u s h hk hv hu => ?_⟩
  · obtain rfl : u = offRing (heard s r gs) r := hu
    refine done_received h (f := resetFrame r) ?_
    rw [resetFrame_of_valid (by simpa) hv hl, heard_state]
  · obtain rfl : u = offRing (heard s r gs) r := hu
    refine done_received h (f := safeFrame r) ?_
    rw [safeFrame_of_valid (by simpa) hv hl, heard_state]
  · obtain rfl : u = offRing (heard s r gs) r := hu
    exact done_received h (f := assignFrame r) (assignFrame_of_valid (by simpa) hv hl)
  · obtain rfl : u = offRing (heard s r gs) r := hu
    exact done_received h (f := configFrame r) (configFrame_of_running (by simpa) hv hn hl (by simpa) (by simpa))
  · obtain rfl : u = offRing (heard s r gs) r := hu
    refine done_received h (f := fun bs => delayFrame r bs loop) ?_
    rw [delayFrame_of_running (by simpa) (by simpa) hv hl (by simpa), heard_loop]
  · obtain rfl : u = offRing (heard s r gs) r := hu
    refine done_received h (f := fun bs => delayFrame r bs loop) ?_
    rw [delayFrame_of_discovering (by simpa) (by simpa) hv hl (by simpa) (by simpa), heard_delays]
  · exact done_received h (f := fun bs => delayFrame r bs loop) (delayFrame_of_early (by simpa))
  · obtain rfl : u = offRing (heard s r gs) r := hu
    exact done_received h (f := discoverFrame r) (discoverFrame_of_discovering (by simpa) hv h12 h24 (by simpa) (by simpa))
  · obtain rfl : u = offRing (heard s r gs) r := hu
    refine done_received h (f := resetFrame r) ?_
    rw [resetFrame, returned_of_damaged (by simpa) (by simp [hv]), heard_errInv]

end Sys2Proof.Machine
end

section
/-! PROOF. What a ring does at its boundary, with a CYCLE frame that has come back or has not, when its receiver gains or loses
synchronisation, and at the end of its time limits; and with them the statement RingRunning. -/
namespace Sys2Proof.Machine
open Sys2Proof

/-! ## The boundary (R298, R303, R304) -/

/-- The control block as the next cycle begins: the images of the one before have switched, and settings have taken effect. -/
def nextCycle (g : Ring) : Ring :=
  { (if g.cycles == 0 then g else switchImage g) with
    run := wb g.cfg 31, aSig := g.sig, aWeights := g.weights, sN := g.sNext
    sNext := boundary g (g.sNext + g.aCycle), cycles := (g.cycles + 1) % 2 ^ 32, rxFresh := [], rxStat := .ok
    sinceDly := if g.sinceDly + 1 = 256 then 0 else g.sinceDly + 1 }

theorem nextCycle_sinceDly_eq_zero (g : Ring) : (nextCycle g).sinceDly = 0 ↔ g.sinceDly = 255 := by
  simp [nextCycle]

/-- The next cycle has begun, and the notice of the one before has gone. -/
def cycleBegun (s : State) (r : Nat) : State :=
  if (s.ringOf r).cycles == 0 then s.setRing r (nextCycle (s.ringOf r))
  else notice (s.setRing r (nextCycle (s.ringOf r))) r

/-- The CYCLE frame has gone out, with the output image as it stood 1 µs before the boundary. -/
def cycleSent (s : State) (r : Nat) : State :=
  sendFrame ((cycleBegun s r).setRing r { (cycleBegun s r).ringOf r with
    outImg := (s.ringOf r).snap.getD (nextCycle (s.ringOf r)).outImg }) r .cycle

/-- The output image stands again as it was written. -/
def cycleOut (s : State) (r : Nat) : State :=
  (cycleSent s r).setRing r { (cycleSent s r).ringOf r with
    outImg := (nextCycle (s.ringOf r)).outImg, snap := none, stepped := false }

/-- Every 256 cycles a DELAY waits to be sent. -/
def cycleDone (s : State) (r : Nat) : State :=
  if (nextCycle (s.ringOf r)).sinceDly = 0 then (cycleOut s r).setRing r (queueFrame ((cycleOut s r).ringOf r) .delay)
  else cycleOut s r

section
variable {s : State} {r : Nat}

theorem cycleFrame_of_early (h : s.now < (s.ringOf r).sNext) : cycleFrame r s = s :=
  if_pos (by simp [h])

/-- At the boundary the CYCLE frame goes out; the first one completes START. -/
theorem cycleFrame_of_due (hs : (s.ringOf r).state = .running) (hk : (s.ringOf r).onRing = .none)
    (ht : (s.ringOf r).sNext ≤ s.now) :
    cycleFrame r s = if (s.ringOf r).starting = true then ringDone (cycleDone s r) r .ok [] else cycleDone s r :=
  if_neg (by simp [hs, hk, ht])

end

/-! ## CYCLE frames that come back or do not (R301, R319) -/

section
variable {s : State} {r : Nat} {bs : List Byte} (hk : (s.ringOf r).onRing = .cycle)
include hk

theorem cycleReturn_of_valid {rs : List Record} (hv : cycleRecords bs = some rs) :
    cycleReturn r bs s = afterCycle (newJoins (stationsAfter
      (s.setRing r { s.ringOf r with onRing := .none, rxStat := .ok }) r rs) r rs) r := by
  refine (if_neg (by simp [hk])).trans ?_
  rw [hv]

theorem cycleReturn_of_damaged (hv : cycleRecords bs = none) :
    cycleReturn r bs s =
      missedFrame (s.setRing r { s.ringOf r with errInv := sat 0xFFFF (s.ringOf r).errInv }) r .crcFail := by
  refine (if_neg (by simp [hk])).trans ?_
  rw [hv]

/-- A CYCLE frame is missed from its deadline on. -/
theorem returnDeadline_of_cycle : returnDeadline r s =
    if s.now < deadlineNs (s.ringOf r) then s
    else missedFrame (s.setRing r { s.ringOf r with errLate := sat 0xFFFF (s.ringOf r).errLate }) r .timeout := by
  unfold returnDeadline
  simp only [hk]

end

/-! ## Synchronisation gained and lost (R316, R320) -/

section
variable {s : State} {r : Nat}

theorem ringSynced_of_starting (h : (s.ringOf r).state = .starting) :
    ringSynced s r = pumpCtrl (s.setRing r { s.ringOf r with state := .discovering, queue := [.reset] }) r := by
  unfold ringSynced
  simp only [h]

theorem ringSynced_of_broken (h : (s.ringOf r).state = .broken) :
    ringSynced s r = measure (s.setRing r { s.ringOf r with state := .discovering, recover := true, tries := 0 }) r := by
  unfold ringSynced
  simp only [h]

theorem ringUnsynced_of_live (h : (s.ringOf r).state = .running ∨ (s.ringOf r).state = .discovering) :
    ringUnsynced s r = breakRing s r := by
  unfold ringUnsynced
  obtain h | h := h <;> rw [h]

/-! ## Time limits (R316, R321) -/

theorem startSyncTimeout_of_late (hs : (s.ringOf r).state = .starting) (ht : (s.ringOf r).since + 10000000 ≤ s.uptime) :
    startSyncTimeout r s =
      ringDone (s.setRing r { s.ringOf r with state := .broken, status := .ringBreak }) r .ringBreak [] :=
  if_pos (by simp [hs, ht])

theorem startSyncTimeout_of_idle (h : (s.ringOf r).state ≠ .starting ∨ s.uptime < (s.ringOf r).since + 10000000) :
    startSyncTimeout r s = s :=
  if_neg (by simpa [Classical.or_iff_not_imp_left] using h)

theorem stopTimeout_of_late (hs : (s.ringOf r).state = .stopping) (ht : (s.ringOf r).since + 1000000 ≤ s.uptime) :
    stopTimeout r s = ringStopped s r :=
  if_pos (by simp [hs, ht])

theorem stopTimeout_of_idle (h : (s.ringOf r).state ≠ .stopping ∨ s.uptime < (s.ringOf r).since + 1000000) :
    stopTimeout r s = s :=
  if_neg (by simpa [Classical.or_iff_not_imp_left] using h)

end

/-- Settles O30: the boundary by `cycleFrame_of_due`, the CYCLE frame by what comes back of it, code-groups by what they do to the
receiver's synchronisation, and the limits by their times. -/
theorem ringRunning : Obligations.RingRunning := by
  unfold Obligations.RingRunning
  refine ⟨fun r g h u v w x s hs hk ht hh hg hu hv hw hx => ?_,
    fun r s h => done_eq (cycleFrame_of_early (s := s.start) h),
    fun r gs bs rs s h hk hv => done_received h (f := cycleReturn r) (cycleReturn_of_valid (by simpa) hv),
    fun r gs bs s h hk hv => ?_, fun r s hk ht => ?_, fun r s hk ht => ?_,
    fun r gs s hb ha => ⟨fun hs => ?_, fun hs => ?_⟩, fun r gs s hb ha hs => ?_, fun r gs s hs h => ?_, ?_,
    fun r s hs ht => done_eq (startSyncTimeout_of_late (s := s.start) hs ht),
    fun r s h => done_eq (startSyncTimeout_of_idle (s := s.start) h),
    fun r s hs ht => done_eq (stopTimeout_of_late (s := s.start) hs ht),
    fun r s h => done_eq (stopTimeout_of_idle (s := s.start) h)⟩
  · obtain rfl : g = nextCycle (s.ringOf r) := by rw [hg, hh]; simp [nextCycle]
    obtain rfl : u = cycleBegun s.start r := hu.trans (by simp [cycleBegun])
    obtain rfl : v = cycleSent s.start r := hv
    obtain rfl : w = cycleOut s.start r := hw
    obtain rfl : x = cycleDone s.start r := hx.trans (by simp [cycleDone, nextCycle_sinceDly_eq_zero])
    exact done_eq (cycleFrame_of_due (s := s.start) hs hk ht)
  · refine done_received h (f := cycleReturn r) ?_
    rw [cycleReturn_of_damaged (by simpa) hv, heard_errInv]
  · exact done_eq ((returnDeadline_of_cycle (s := s.start) hk).trans (if_neg (Nat.not_lt.mpr ht)))
  · exact done_eq ((returnDeadline_of_cycle (s := s.start) hk).trans (if_pos ht))
  · have hline : lineIn s.start r gs = ringSynced (heard s r gs) r := lineIn_of_acquired (by simp [hs]) hb ha
    exact done_eq (f := fun s => lineIn s r gs) (hline.trans (ringSynced_of_starting (by simpa)))
  · have hline : lineIn s.start r gs = ringSynced (heard s r gs) r := lineIn_of_acquired (by simp [hs]) hb ha
    exact done_eq (f := fun s => lineIn s r gs) (hline.trans (ringSynced_of_broken (by simpa)))
  · have hon : (s.ringOf r).state ≠ .stopped := by obtain hs | hs := hs <;> simp [hs]
    have hline : lineIn s.start r gs = ringUnsynced (heard s r gs) r := lineIn_of_lost hon hb ha
    exact done_eq (f := fun s => lineIn s r gs) (hline.trans (ringUnsynced_of_live (by simpa)))
  · have hline : lineIn s.start r gs = heard s r gs := lineIn_of_steady hs h
    exact ⟨done_eq (f := fun s => lineIn s r gs) hline, done_eq (f := fun s => lineIn s r gs) hline⟩
  · rintro r g u v s rfl rfl rfl
    rfl

end Sys2Proof.Machine
end

section
/-! PROOF. What every command and every step keeps: the statements CommandsComplete, StepRunsFront, OtpOneWay and StepInvariant; and
the decoding of the life-cycle state, the statement StatePatterns. -/
namespace Sys2Proof.Machine
open Sys2Proof

/-! ## Every command -/

/-- The four commands that program OTP cells or decode them anew (R454, R456). -/
def writesOtp : Instr → Bool
  | .supplyLoss | .bootStart .. | .otpRunEnd | .keyLoad _ => true
  | _ => false

theorem writesOtp_eq_true_iff {c : Instr} : writesOtp c = true ↔
    c = .supplyLoss ∨ (∃ m r v, c = .bootStart m r v) ∨ c = .otpRunEnd ∨ ∃ p, c = .keyLoad p := by
  constructor
  · intro h
    unfold writesOtp at h
    split at h
    · exact .inl rfl
    · exact .inr (.inl ⟨_, _, _, rfl⟩)
    · exact .inr (.inr (.inl rfl))
    · exact .inr (.inr (.inr ⟨_, rfl⟩))
    · simp at h
  · rintro (rfl | ⟨m, r, v, rfl⟩ | rfl | ⟨p, rfl⟩) <;> rfl

/-- Every other command obeys `Keeps`: the rows of the command table, each by the lemma on its operation. -/
theorem exec_keeps {s t : State} : ∀ {c : Instr}, exec c s = .next t → writesOtp c = false → Keeps s t
  | .supplyLoss, _, hw => absurd hw (by simp [writesOtp])
  | .bootStart .., _, hw => absurd hw (by simp [writesOtp])
  | .warmReset .., h, _ => execWarmReset_keeps _ h
  | .tapReset, h, _ => execTapReset_keeps h
  | .streamSync .., h, _ => execStreamSync_keeps _ _ h
  | .manifestVerify .., h, _ => execManifestVerify_keeps _ _ h
  | .nop .., h, _ => execNop_keeps _ _ h
  | .far .., h, _ => execFar_keeps _ _ _ h
  | .fdata .., h, _ => execFdata_keeps _ _ _ h
  | .setreg .., h, _ => execSetreg_keeps _ _ _ h
  | .roll .., h, _ => execRoll_keeps _ _ _ h
  | .chunk .., h, _ => execChunk_keeps _ _ _ h
  | .tag .., h, _ => execTag_keeps _ _ _ h
  | .check .., h, _ => execCheck_keeps _ _ _ h
  | .startup .., h, _ => execStartup_keeps _ _ h
  | .region .., h, _ => execRegion_keeps _ _ _ h
  | .sigs .., h, _ => execSigs_keeps _ _ _ h
  | .desync .., h, _ => execDesync_keeps _ _ h
  | .streamWrite .., h, _ => execStreamWrite_keeps _ h
  | .statusRead, h, _ => execStatusRead_keeps h
  | .winWrite .., h, _ => execWinWrite_keeps _ _ h
  | .winRead .., h, _ => execWinRead_keeps _ _ h
  | .sppWord .., h, _ => execSppWord_keeps _ h
  | .startupPhase, h, _ => execStartupPhase_keeps h
  | .waitEventComplete, h, _ => execWaitEventComplete_keeps h
  | .icpBeat .., h, _ => execIcpBeat_keeps _ _ _ _ _ h
  | .directLoadWait .., h, _ => execDirectLoadWait_keeps _ h
  | .prepareSwap .., h, _ => execPrepareSwap_keeps _ h
  | .verifyDone .., h, _ => execVerifyDone_keeps _ h
  | .commitSwap .., h, _ => execCommitSwap_keeps _ h
  | .swapDecision .., h, _ => execSwapDecision_keeps _ _ h
  | .switchingEdge .., h, _ => execSwitchingEdge_keeps _ _ h
  | .swapCycleEnd .., h, _ => execSwapCycleEnd_keeps _ _ h
  | .commitTimeout .., h, _ => execCommitTimeout_keeps _ h
  | .abortSwap .., h, _ => execAbortSwap_keeps _ h
  | .scrubPassStart .., h, _ => execScrubPassStart_keeps _ _ _ h
  | .frameCheck .., h, _ => execFrameCheck_keeps _ _ _ _ _ h
  | .frameReload .., h, _ => execFrameReload_keeps _ _ _ _ _ h
  | .microcodeParityError, h, _ => execMicrocodeParityError_keeps h
  | .activePeriodDouble, h, _ => execActivePeriodDouble_keeps h
  | .niInject .., h, _ => execNiInject_keeps _ _ _ h
  | .rd .., h, _ => execRd_keeps _ h
  | .wrNp .., h, _ => execWrNp_keeps _ h
  | .wrP .., h, _ => execWrP_keeps _ h
  | .mcw .., h, _ => execMcw_keeps _ h
  | .rdRsp .., h, _ => execRdRsp_keeps _ h
  | .wrRsp .., h, _ => execWrRsp_keeps _ h
  | .mgRd .., h, _ => execMgRd_keeps _ h
  | .mgWr .., h, _ => execMgWr_keeps _ h
  | .mgRsp .., h, _ => execMgRsp_keeps _ h
  | .nocTimeout .., h, _ => execNocTimeout_keeps _ _ h
  | .ejectionStall .., h, _ => execEjectionStall_keeps _ h
  | .routeDrainDone, h, _ => execRouteDrainDone_keeps h
  | .routeUpdateTimeout, h, _ => execRouteUpdateTimeout_keeps h
  | .rtrClear .., h, _ => execRtrClear_keeps _ _ h
  | .acceptedEdge .., h, _ => execAcceptedEdge_keeps _ _ _ h
  | .tsLoRead .., h, _ => execTsLoRead_keeps _ h
  | .schedPush .., h, _ => execSchedPush_keeps _ _ h
  | .schedFlush .., h, _ => execSchedFlush_keeps _ _ h
  | .scheduleApply .., h, _ => execScheduleApply_keeps _ h
  | .modeChange .., h, _ => execModeChange_keeps _ _ h
  | .levelWrite .., h, _ => execLevelWrite_keeps _ _ h
  | .safeClear .., h, _ => execSafeClear_keeps _ _ h
  | .pwmEdge .., h, _ => execPwmEdge_keeps _ h
  | .quadTransition .., h, _ => execQuadTransition_keeps _ h
  | .pairDataWrite .., h, _ => execPairDataWrite_keeps _ _ h
  | .pairDataRead .., h, _ => execPairDataRead_keeps _ h
  | .encoderFrame .., h, _ => execEncoderFrame_keeps _ h
  | .encoderFrameEnd .., h, _ => execEncoderFrameEnd_keeps _ h
  | .uartRxByte .., h, _ => execUartRxByte_keeps _ h
  | .uartTxByte .., h, _ => execUartTxByte_keeps _ h
  | .refLost, h, _ => execRefLost_keeps h
  | .refReturn, h, _ => execRefReturn_keeps h
  | .ppsEdge, h, _ => execPpsEdge_keeps h
  | .syncMessage .., h, _ => execSyncMessage_keeps _ _ _ h
  | .ppsTimeout, h, _ => execPpsTimeout_keeps h
  | .syncTimeout, h, _ => execSyncTimeout_keeps h
  | .nowLoRead .., h, _ => execNowLoRead_keeps _ h
  | .ppsOutPulse, h, _ => execPpsOutPulse_keeps h
  | .ppsPulseEnd, h, _ => execPpsPulseEnd_keeps h
  | .pllApply .., h, _ => execPllApply_keeps _ _ h
  | .pllLock .., h, _ => execPllLock_keeps _ h
  | .lossOfLock .., h, _ => execLossOfLock_keeps _ _ h
  | .fcountStart .., h, _ => execFcountStart_keeps _ _ h
  | .fcountDone .., h, _ => execFcountDone_keeps _ h
  | .smnResult .., h, _ => execSmnResult_keeps _ _ h
  | .tempSample .., h, _ => execTempSample_keeps _ h
  | .minmaxClear .., h, _ => execMinmaxClear_keeps _ _ h
  | .termFire .., h, _ => execTermFire_keeps _ _ h
  | .flowInterval .., h, _ => execFlowInterval_keeps _ _ h
  | .event .., h, _ => execEvent_keeps _ h
  | .rfxArm .., h, _ => execRfxArm_keeps _ _ h
  | .start .., h, _ => execStart_keeps _ _ h
  | .stop .., h, _ => execStop_keeps _ _ h
  | .assign .., h, _ => execAssign_keeps _ _ h
  | .safe .., h, _ => execSafe_keeps _ _ h
  | .rediscover .., h, _ => execRediscover_keeps _ _ h
  | .safeMask .., h, _ => execSafeMask_keeps _ _ _ h
  | .cycleFrame .., h, _ => execCycleFrame_keeps _ h
  | .cycleReturn .., h, _ => execCycleReturn_keeps _ _ h
  | .returnDeadline .., h, _ => execReturnDeadline_keeps _ h
  | .discoverFrame .., h, _ => execDiscoverFrame_keeps _ _ h
  | .assignFrame .., h, _ => execAssignFrame_keeps _ _ h
  | .configFrame .., h, _ => execConfigFrame_keeps _ _ h
  | .delayFrame .., h, _ => execDelayFrame_keeps _ _ _ h
  | .safeFrame .., h, _ => execSafeFrame_keeps _ _ h
  | .resetFrame .., h, _ => execResetFrame_keeps _ _ h
  | .rxSync .., h, _ => execRxSync_keeps _ _ h
  | .ringBreak .., h, _ => execRingBreak_keeps _ _ h
  | .startSyncTimeout .., h, _ => execStartSyncTimeout_keeps _ h
  | .stopTimeout .., h, _ => execStopTimeout_keeps _ h
  | .perstDeassert .., h, _ => execPerstDeassert_keeps _ h
  | .linkUp .., h, _ => execLinkUp_keeps _ _ _ h
  | .hostLoss .., h, _ => execHostLoss_keeps _ _ h
  | .window0Tlp .., h, _ => execWindow0Tlp_keeps _ _ _ h
  | .window2Tlp .., h, _ => execWindow2Tlp_keeps _ _ _ h
  | .xltCtrl .., h, _ => execXltCtrl_keeps _ _ h
  | .hostLossRelease .., h, _ => execHostLossRelease_keeps _ _ h
  | .hostCompletion .., h, _ => execHostCompletion_keeps _ _ _ _ h
  | .outboundTimeout .., h, _ => execOutboundTimeout_keeps _ _ h
  | .rxFrame .., h, _ => execRxFrame_keeps _ _ _ _ _ h
  | .tailWrite .., h, _ => execTailWrite_keeps _ _ _ h
  | .txFrame .., h, _ => execTxFrame_keeps _ _ _ _ h
  | .portEnable .., h, _ => execPortEnable_keeps _ _ h
  | .gclCommit .., h, _ => execGclCommit_keeps _ _ h
  | .gclSwitch .., h, _ => execGclSwitch_keeps _ h
  | .gateInterval .., h, _ => execGateInterval_keeps _ h
  | .preemptVerify .., h, _ => execPreemptVerify_keeps _ h
  | .rxSlip .., h, _ => execRxSlip_keeps _ h
  | .xcvLossOfLock .., h, _ => execXcvLossOfLock_keeps _ _ h
  | .doorbell .., h, _ => execDoorbell_keeps _ _ _ h
  | .cplHeadWrite .., h, _ => execCplHeadWrite_keeps _ _ _ h
  | .ringReset .., h, _ => execRingReset_keeps _ _ _ h
  | .mcRestart, h, _ => execMcRestart_keeps h
  | .mcRestartDone, h, _ => execMcRestartDone_keeps h
  | .avsPeriod .., h, _ => execAvsPeriod_keeps _ h
  | .marginReport, h, _ => execMarginReport_keeps h
  | .idleBandCheck, h, _ => execIdleBandCheck_keeps h
  | .identify .., h, _ => execIdentify_keeps _ h
  | .getStatus .., h, _ => execGetStatus_keeps _ _ h
  | .getReport .., h, _ => execGetReport_keeps _ h
  | .setPolicy .., h, _ => execSetPolicy_keeps _ h
  | .getPolicy .., h, _ => execGetPolicy_keeps _ h
  | .resetDomain .., h, _ => execResetDomain_keeps _ h
  | .claimRegion .., h, _ => execClaimRegion_keeps _ h
  | .releaseRegion .., h, _ => execReleaseRegion_keeps _ h
  | .setFirewall .., h, _ => execSetFirewall_keeps _ h
  | .setHostLossPolicy .., h, _ => execSetHostLossPolicy_keeps _ h
  | .loadImage .., h, _ => execLoadImage_keeps _ h
  | .loadPartial .., h, _ => execLoadPartial_keeps _ h
  | .readbackRegion .., h, _ => execReadbackRegion_keeps _ h
  | .storeImage .., h, _ => execStoreImage_keeps _ _ h
  | .selectImage .., h, _ => execSelectImage_keeps _ h
  | .storePartial .., h, _ => execStorePartial_keeps _ _ h
  | .wrapKey .., h, _ => execWrapKey_keeps _ h
  | .nvProtect .., h, _ => execNvProtect_keeps _ h
  | .nvUnlock .., h, _ => execNvUnlock_keeps _ h
  | .nvSetPassword .., h, _ => execNvSetPassword_keeps _ h
  | .nvRefreshScan .., h, _ => execNvRefreshScan_keeps _ h
  | .nvGrantUrgent .., h, _ => execNvGrantUrgent_keeps _ h
  | .nocMuzzle .., h, _ => execNocMuzzle_keeps _ h
  | .nocRehabilitate .., h, _ => execNocRehabilitate_keeps _ h
  | .nocRemap .., h, _ => execNocRemap_keeps _ h
  | .nocRouteUpdate .., h, _ => execNocRouteUpdate_keeps _ h
  | .uanStartRing .., h, _ => execUanStartRing_keeps _ h
  | .uanStopRing .., h, _ => execUanStopRing_keeps _ h
  | .uanGetTopology .., h, _ => execUanGetTopology_keeps _ h
  | .uanAssign .., h, _ => execUanAssign_keeps _ h
  | .uanSafe .., h, _ => execUanSafe_keeps _ h
  | .pwrRequestState .., h, _ => execPwrRequestState_keeps _ h
  | .pwrSetSentry .., h, _ => execPwrSetSentry_keeps _ h
  | .pwrGetAccounting .., h, _ => execPwrGetAccounting_keeps _ h
  | .timeSet .., h, _ => execTimeSet_keeps _ h
  | .timeDiscipline .., h, _ => execTimeDiscipline_keeps _ h
  | .bistSchedule .., h, _ => execBistSchedule_keeps _ h
  | .bistRun .., h, _ => execBistRun_keeps _ h
  | .bistRunTimeout .., h, _ => execBistRunTimeout_keeps _ _ h
  | .bistGetResult .., h, _ => execBistGetResult_keeps _ h
  | .lcTransition .., h, _ => execLcTransition_keeps _ h
  | .dbgChallenge .., h, _ => execDbgChallenge_keeps _ h
  | .dbgGrant .., h, _ => execDbgGrant_keeps _ h
  | .dbgRevoke .., h, _ => execDbgRevoke_keeps _ h
  | .qTailWrite .., h, _ => execQTailWrite_keeps _ _ h
  | .cqHeadWrite .., h, _ => execCqHeadWrite_keeps _ _ h
  | .queueEnable .., h, _ => execQueueEnable_keeps _ _ h
  | .descriptorStart .., h, _ => execDescriptorStart_keeps _ _ h
  | .read .., h, _ => execRead_keeps _ _ _ _ h
  | .program .., h, _ => execProgram_keeps _ _ _ _ h
  | .erase .., h, _ => execErase_keeps _ _ _ _ h
  | .verify .., h, _ => execVerify_keeps _ _ _ _ h
  | .blankCheck .., h, _ => execBlankCheck_keeps _ _ _ _ h
  | .marginRead .., h, _ => execMarginRead_keeps _ _ _ _ h
  | .copy .., h, _ => execCopy_keeps _ _ _ _ h
  | .xipDeclare .., h, _ => execXipDeclare_keeps _ _ h
  | .xipRelease .., h, _ => execXipRelease_keeps _ _ h
  | .partDone .., h, _ => execPartDone_keeps _ _ _ h
  | .directRead .., h, _ => execDirectRead_keeps _ h
  | .gapMove .., h, _ => execGapMove_keeps _ h
  | .gapCopyDone .., h, _ => execGapCopyDone_keeps _ h
  | .gapEraseDone .., h, _ => execGapEraseDone_keeps _ h
  | .tornScanDone, h, _ => execTornScanDone_keeps h
  | .nvRefreshStep .., h, _ => execNvRefreshStep_keeps _ _ _ h
  | .voteAnswer .., h, _ => execVoteAnswer_keeps _ _ _ h
  | .voteTimeout .., h, _ => execVoteTimeout_keeps _ h
  | .userSample .., h, _ => execUserSample_keeps _ _ _ h
  | .bandWake .., h, _ => execBandWake_keeps _ h
  | .bandPowerGood .., h, _ => execBandPowerGood_keeps _ h
  | .offReloadDone .., h, _ => execOffReloadDone_keeps _ _ _ h
  | .wakeEvent .., h, _ => execWakeEvent_keeps _ _ _ h
  | .sentrySample .., h, _ => execSentrySample_keeps _ _ h
  | .wakeRetry .., h, _ => execWakeRetry_keeps _ h
  | .rtcFallback, h, _ => execRtcFallback_keeps h
  | .pmbusPoll .., h, _ => execPmbusPoll_keeps _ h
  | .readVoutPoll .., h, _ => execReadVoutPoll_keeps _ _ _ h
  | .voutTimeout .., h, _ => execVoutTimeout_keeps _ h
  | .pmbusRetry .., h, _ => execPmbusRetry_keeps _ _ h
  | .pmbAlert .., h, _ => execPmbAlert_keeps _ _ h
  | .kennelData .., h, _ => execKennelData_keeps _ _ h
  | .rtcLoRead .., h, _ => execRtcLoRead_keeps _ h
  | .entryDue .., h, _ => execEntryDue_keeps _ h
  | .sliceEnd .., h, _ => execSliceEnd_keeps _ _ h
  | .sliceBudget .., h, _ => execSliceBudget_keeps _ _ _ h
  | .otpRunEnd, _, hw => absurd hw (by simp [writesOtp])
  | .returnEraseDone, h, _ => execReturnEraseDone_keeps h
  | .nonceExpiry .., h, _ => execNonceExpiry_keeps _ h
  | .leashExpiry .., h, _ => execLeashExpiry_keeps _ h
  | .extest .., h, _ => execExtest_keeps _ h
  | .samplePreload .., h, _ => execSamplePreload_keeps _ h
  | .idcode, h, _ => execIdcode_keeps h
  | .highz, h, _ => execHighz_keeps h
  | .clamp, h, _ => execClamp_keeps h
  | .extestPulse .., h, _ => execExtestPulse_keeps _ h
  | .extestTrain .., h, _ => execExtestTrain_keeps _ h
  | .lcStatus, h, _ => execLcStatus_keeps h
  | .keyLoad .., _, hw => absurd hw (by simp [writesOtp])
  | .csrAccess .., h, _ => execCsrAccess_keeps _ h
  | .frameReadback .., h, _ => execFrameReadback_keeps _ h
  | .bypass .., h, _ => execBypass_keeps _ h
  | .csrEndpointAccess .., h, _ => execCsrEndpointAccess_keeps _ h
  | .registerWrite .., h, _ => execRegisterWrite_keeps _ _ _ h
  | .ethLinkChange .., h, _ => execEthLinkChange_keeps _ _ _ _ h
  | .configRequest .., h, _ => execConfigRequest_keeps _ _ h
  | .laneTraffic .., h, _ => execLaneTraffic_keeps _ h
  | .rxLockChange .., h, _ => execRxLockChange_keeps _ _ h
  | .rawWordTime .., h, _ => execRawWordTime_keeps _ _ _ _ _ h
  | .quadPllLock .., h, _ => execQuadPllLock_keeps _ h
  | .userClockEdge .., h, _ => execUserClockEdge_keeps _ h
  | .fpOutChange .., h, _ => execFpOutChange_keeps _ _ _ _ h
  | .stayAwakeRise .., h, _ => execStayAwakeRise_keeps _ h
  | .rtcTick, h, _ => execRtcTick_keeps h
  | .nvRefreshOverdue .., h, _ => execNvRefreshOverdue_keeps _ _ h

/-- Every command obeys `Evolves`. -/
theorem exec_evolves {c : Instr} {s t : State} (h : exec c s = .next t) : Evolves s t := by
  cases hw : writesOtp c with
  | false => exact (exec_keeps h hw).evolves
  | true =>
    obtain rfl | ⟨m, r, v, rfl⟩ | rfl | ⟨p, rfl⟩ := writesOtp_eq_true_iff.mp hw
    · exact execSupplyLoss_evolves h
    · exact execBootStart_evolves _ _ _ h
    · exact execOtpRunEnd_evolves h
    · exact execKeyLoad_evolves _ h

/-- No command faults or is refused: each ends in `done`. -/
theorem exec_completes (c : Instr) (s : State) : ∃ t, exec c s = .next t := by
  cases c <;> exact ⟨_, rfl⟩

/-! ## Every step -/

theorem step_of_pending {c : Instr} {rest : List Instr} {s : State} (h : s.pending = c :: rest) :
    step s = exec c { s with pending := rest } := by
  unfold step
  rw [h]

theorem step_of_idle {s : State} (h : s.pending = []) : step s = .next (tick s) := by
  unfold step
  rw [h]

/-- A cycle of PCLK without a command advances the clocks alone, and may start a self-test slice. -/
theorem tick_keeps (s : State) : Keeps { s with uptime := s.uptime + 1 } (tick s) :=
  .step (startWaiting_keeps _) (.upd rfl rfl rfl rfl rfl rfl rfl rfl)

/-- What `Evolves` says but for the queue and the clock of the model, of a step. -/
theorem step_evolves {s t : State} (h : step s = .next t) :
    ∃ u : State, u.lcs = s.lcs ∧ u.mc = s.mc ∧ u.nv = s.nv ∧ Evolves u t := by
  cases hp : s.pending with
  | nil =>
    rw [step_of_idle hp] at h
    cases h
    exact ⟨{ s with uptime := s.uptime + 1 }, rfl, rfl, rfl, (tick_keeps s).evolves⟩
  | cons c rest =>
    rw [step_of_pending hp] at h
    exact ⟨{ s with pending := rest }, rfl, rfl, rfl, exec_evolves h⟩

/-- Settles O55: a step by `step_evolves`, a command that is none of the four by `exec_keeps`. -/
theorem otpOneWay : Obligations.OtpOneWay := by
  unfold Obligations.OtpOneWay
  refine ⟨fun s t hwf h => ?_, fun c s t h hs hb ho hk => ?_⟩
  · obtain ⟨u, hl, -, -, he⟩ := step_evolves h
    simpa only [OtpKept, otpBit, OtpWf, hl] using he.otp (by rwa [OtpWf, hl])
  · have hw : writesOtp c = false := by
      rw [← Bool.not_eq_true, writesOtp_eq_true_iff]
      rintro (rfl | ⟨m, r, v, rfl⟩ | rfl | ⟨p, rfl⟩)
      · exact hs rfl
      · exact hb m r v rfl
      · exact ho rfl
      · exact hk p rfl
    have hkeep := exec_keeps h hw
    exact ⟨hkeep.otp, hkeep.imgKey, hkeep.kek, hkeep.state⟩

/-- Settles O56: each part of the invariant is one that `Evolves` keeps. -/
theorem stepInvariant : Obligations.StepInvariant := by
  unfold Obligations.StepInvariant
  rintro s t ⟨hlc, hmem, hotp⟩ h
  obtain ⟨u, hl, hm, hn, he⟩ := step_evolves h
  exact ⟨he.state (by rwa [LcOk, hl]), he.mem (by rwa [MemWf, hm, hn]), he.otpWf (by rwa [OtpWf, hl])⟩

/-- Settles O54: a command ends in `done`, and what it leaves obeys `Evolves`. -/
theorem commandsComplete : Obligations.CommandsComplete := by
  unfold Obligations.CommandsComplete
  intro c s
  obtain ⟨t, h⟩ := exec_completes c s
  have he := exec_evolves h
  exact ⟨t, h, he.pending, he.uptime⟩

/-- Settles O53: by what the queue holds. -/
theorem stepRunsFront : Obligations.StepRunsFront := by
  unfold Obligations.StepRunsFront
  exact ⟨fun c rest s h => step_of_pending h, fun s h => step_of_idle h⟩

/-! ## The state words of the OTP (R455, R456) -/

/-- What the other OTP areas of a state must be (Table 16.3). -/
def areasAgree (m : SMap Word) (k1 k2 : BitVec 256) : Nat → Bool
  | 0 => keysBlank m k1 k2 && hashBlank m && SMap.get dWord m 23 == 0
  | 1 => (keysBlank m k1 k2 || keysGood m k1 k2) && hashBlank m && SMap.get dWord m 23 == 0
  | 2 => keysGood m k1 k2 && hashBlank m && SMap.get dWord m 23 == 0
  | 3 => keysGood m k1 k2 && hashMatches m && (SMap.get dWord m 23 == 0 || SMap.get dWord m 23 == 0xFFFFFFFF)
  | 4 => keysGood m k1 k2 && hashMatches m && SMap.get dWord m 23 == 0xFFFFFFFF
  | 5 => keysGone m k1 k2
  | _ => false

section
variable {m : SMap Word} {k1 k2 : BitVec 256} {w : Word}

/-- Eight equal state words decode to their pattern's code where the other areas agree with it, and to LOST otherwise. -/
theorem lcDecode_of_same (h : ∀ i < 8, SMap.get dWord m i = w) :
    lcDecode m k1 k2 = if areasAgree m k1 k2 (patternCode w) then patternCode w else 15 := by
  have h0 : SMap.get dWord m 0 = w := h 0 (by decide)
  have hs : ((List.range 8).all fun i => SMap.get dWord m i == w) = true := by
    simpa using h
  unfold lcDecode
  dsimp only
  rw [h0, hs]
  unfold areasAgree
  rfl

/-- State words that differ among each other decode to LOST. -/
theorem lcDecode_of_mixed (h : ¬ ∀ i < 8, SMap.get dWord m i = SMap.get dWord m 0) : lcDecode m k1 k2 = 15 := by
  have hs : ((List.range 8).all fun i => SMap.get dWord m i == SMap.get dWord m 0) = false := by
    rw [← Bool.not_eq_true]
    simpa using h
  unfold lcDecode
  dsimp only
  rw [hs]
  rfl

/-- Table 16.2. -/
theorem patternCode_of_mem : ∀ p ∈ [(0, 0x00000000#32), (1, 0x00000033#32), (2, 0x00003333#32), (3, 0x00333333#32),
    (4, 0x33333333#32), (5, 0xFFFFFFFF#32)], patternCode p.2 = p.1 := by
  decide

theorem lcPattern_mem : ∀ k < 6, lcPattern k ∈
    [0x00000000#32, 0x00000033#32, 0x00003333#32, 0x00333333#32, 0x33333333#32, 0xFFFFFFFF#32] := by
  decide

theorem patternCode_eq_fifteen (h : ∀ k < 6, lcPattern k ≠ w) : patternCode w = 15 := by
  unfold patternCode
  rw [List.find?_eq_none.mpr (by simpa using h)]
  rfl

end

/-- Settles O60: eight equal words decode by their pattern and the other areas, any others to LOST. -/
theorem statePatterns : Obligations.StatePatterns := by
  unfold Obligations.StatePatterns
  refine ⟨fun p m k1 k2 hp h => ?_, fun m k1 k2 h hk hh hr => ?_, fun m k1 k2 h hk hh hr => ?_, fun m k1 k2 h hk hh hr => ?_,
    fun m k1 k2 h hk hh hr => ?_, fun m k1 k2 h hk hh hr => ?_, fun m k1 k2 h hk => ?_, fun m k1 k2 h => ?_, by decide⟩
  · rw [lcDecode_of_same h, patternCode_of_mem p hp]
    split
    · exact .inl rfl
    · exact .inr rfl
  · rw [lcDecode_of_same h]
    exact if_pos (show areasAgree m k1 k2 0 = true by simp [areasAgree, hk, hh, hr])
  · rw [lcDecode_of_same h]
    exact if_pos (show areasAgree m k1 k2 1 = true by simp [areasAgree, hk, hh, hr])
  · rw [lcDecode_of_same h]
    exact if_pos (show areasAgree m k1 k2 2 = true by simp [areasAgree, hk, hh, hr])
  · rw [lcDecode_of_same h]
    exact if_pos (show areasAgree m k1 k2 3 = true by simpa [areasAgree, hk, hh] using hr)
  · rw [lcDecode_of_same h]
    exact if_pos (show areasAgree m k1 k2 4 = true by simp [areasAgree, hk, hh, hr])
  · rw [lcDecode_of_same h]
    exact if_pos (show areasAgree m k1 k2 5 = true by simp [areasAgree, hk])
  · by_cases hs : ∀ i < 8, SMap.get dWord m i = SMap.get dWord m 0
    · have hc : patternCode (SMap.get dWord m 0) = 15 := patternCode_eq_fifteen fun k hk he =>
        h ⟨lcPattern k, lcPattern_mem k hk, fun i hi => (hs i hi).trans he.symm⟩
      rw [lcDecode_of_same hs, hc]
      simp [areasAgree]
    · exact lcDecode_of_mixed hs

end Sys2Proof.Machine
end

section
/-! PROOF. The checks that come before a mailbox command's parameters, and with them the statement MailboxChecks; the commands that load,
read back and store images and keys, and with them the statements LoadCommands and StoreCommands. -/
namespace Sys2Proof.Machine
open Sys2Proof

/-! ## The checks of R361 -/

section
variable {s : State} {d op : Nat} (ht : mayTake s d = true) (ho : (frontEntry s d).op = op)
include ht ho

/-- A STORE row whose entry stands at the head of its ring starts it. -/
theorem storeRow_of_front (src : RunCmd → Nat) (run : RunCmd → State → Status × List Word × State) :
    storeRow d op src run s = storeStart d op src s :=
  if_pos (by simp [ht, ho])

variable {iss : Issuer} {body : RunCmd → State → State} (hr : running? s ⟨d, (frontEntry s d).tag⟩ = none)
include hr

/-- A command whose tag does not run is completed by the first check that fails. -/
theorem serve_of_front : serve d op iss body s = serveRest (
    if issuerOk s d iss = false then finish (frontEntry s d) .notOwner 0 [] [] (takeEntry s d)
    else if lcPermits s.lcs.state op = false then finish (frontEntry s d) .lifecycleDeny 0 [] [] (takeEntry s d)
    else if s.boot.done = false ∧ preDone s op = false then finish (frontEntry s d) .notReady 0 [] [] (takeEntry s d)
    else body (frontEntry s d) (takeEntry s d)) := by
  unfold serve
  dsimp only
  rw [if_pos (by simp [ht, ho])]
  rw [if_neg (by simpa using hr)]
  simp only [Bool.not_eq_true', Bool.and_eq_true]

theorem done_serve_of_notIssuer (hi : issuerOk s d iss = false) :
    done (serve d op iss body) s =
      .next (answered s (finish (frontEntry s d) .notOwner 0 [] [] (servedState s d))) :=
  done_eq ((serve_of_front (s := s.start) ht ho hr).trans (congrArg serveRest (if_pos hi)))

theorem done_serve_of_lifecycle (hi : issuerOk s d iss = true) (hl : lcPermits s.lcs.state op = false) :
    done (serve d op iss body) s =
      .next (answered s (finish (frontEntry s d) .lifecycleDeny 0 [] [] (servedState s d))) :=
  done_eq ((serve_of_front (s := s.start) ht ho hr).trans
    (congrArg serveRest ((if_neg (Bool.not_eq_false _ ▸ hi)).trans (if_pos hl))))

theorem done_serve_of_notReady (hi : issuerOk s d iss = true) (hl : lcPermits s.lcs.state op = true)
    (hd : s.boot.done = false) (hp : preDone s op = false) :
    done (serve d op iss body) s =
      .next (answered s (finish (frontEntry s d) .notReady 0 [] [] (servedState s d))) :=
  done_eq ((serve_of_front (s := s.start) ht ho hr).trans
    (congrArg serveRest ((if_neg (Bool.not_eq_false _ ▸ hi)).trans ((if_neg (Bool.not_eq_false _ ▸ hl)).trans
      (if_pos ⟨hd, hp⟩)))))

end

/-- The rows of Tables 12.4 to 12.10 but GET_STATUS, with their issuers. -/
def mailboxRows (d : Nat) (bs : List Byte) : List (Nat × Instr × Issuer) :=
  [(0x0001, .identify d, .any), (0x0003, .getReport d, .any),
   (0x0004, .setPolicy d, .lead), (0x0005, .getPolicy d, .any), (0x0006, .resetDomain d, .h),
   (0x0101, .claimRegion d, .h), (0x0102, .releaseRegion d, .owner), (0x0103, .setFirewall d, .h),
   (0x0104, .setHostLossPolicy d, .h), (0x0201, .loadImage d, .any), (0x0202, .loadPartial d, .any),
   (0x0203, .prepareSwap d, .owner), (0x0204, .commitSwap d, .owner), (0x0205, .abortSwap d, .owner),
   (0x0206, .readbackRegion d, .h), (0x0207, .storeImage d bs, .any), (0x0208, .selectImage d, .any),
   (0x0209, .storePartial d bs, .any), (0x020A, .wrapKey d, .h), (0x0301, .nvProtect d, .any),
   (0x0302, .nvUnlock d, .any), (0x0303, .nvSetPassword d, .any), (0x0304, .nvRefreshScan d, .any),
   (0x0305, .nvGrantUrgent d, .lead), (0x0401, .nocMuzzle d, .owner), (0x0402, .nocRehabilitate d, .owner),
   (0x0403, .nocRemap d, .owner), (0x0404, .nocRouteUpdate d, .lead), (0x0501, .uanStartRing d, .owner),
   (0x0502, .uanStopRing d, .owner), (0x0503, .uanGetTopology d, .owner), (0x0504, .uanAssign d, .owner),
   (0x0505, .uanSafe d, .owner), (0x0601, .pwrRequestState d, .owner), (0x0602, .pwrSetSentry d, .lead),
   (0x0603, .pwrGetAccounting d, .any), (0x0701, .timeSet d, .lead), (0x0702, .timeDiscipline d, .lead),
   (0x0801, .bistSchedule d, .owner), (0x0802, .bistRun d, .owner), (0x0803, .bistGetResult d, .any),
   (0x0901, .lcTransition d, .h), (0x0902, .dbgChallenge d, .h), (0x0903, .dbgGrant d, .h), (0x0904, .dbgRevoke d, .h)]

/-- Each of them whose entry is at the head of its ring is served by the checks of R361, with a body of its own. -/
theorem mailboxRows_serve {d : Nat} {bs : List Byte} {s : State} {x : Nat × Instr × Issuer} (hx : x ∈ mailboxRows d bs)
    (ht : mayTake s d = true) (ho : (frontEntry s d).op = x.1) :
    ∃ body, exec x.2.1 s = done (serve d x.1 x.2.2 body) s := by
  fin_cases hx
  pick_goal 18  -- STORE_PARTIAL
  · exact ⟨_, (done_eq (storeRow_of_front (s := s.start) ht ho _ _)).trans rfl⟩
  pick_goal 16  -- STORE_IMAGE
  · exact ⟨_, (done_eq (storeRow_of_front (s := s.start) ht ho _ _)).trans rfl⟩
  all_goals exact ⟨_, rfl⟩

/-- Settles O58: every row is served by the same checks, of which the first that fails ends the command. -/
theorem mailboxChecks : Obligations.MailboxChecks := by
  unfold Obligations.MailboxChecks
  intro x d bs s hx ht ho hr
  obtain ⟨body, hb⟩ := mailboxRows_serve (bs := bs) hx ht ho
  rw [hb]
  exact ⟨done_serve_of_notIssuer ht ho hr, done_serve_of_lifecycle ht ho hr, done_serve_of_notReady ht ho hr⟩

/-! ## LOAD_IMAGE (R366) -/

/-- The load that a LOAD_IMAGE begins, but for the shadow bits. -/
def imageLoad (c : RunCmd) : Load :=
  { phase := .manifest, used := true, source := 4, full := true, cmd := some ⟨c.d, c.tag⟩, sup := bf (pw c 0) 1 0 == 3,
    port := bf (pw c 0) 1 0 == 3,
    nv := if bf (pw c 0) 1 0 = 1 then some (if bf (pw c 0) 8 8 = 0 then .slot0 else .slot1) else none,
    limit := if bf (pw c 0) 1 0 = 0 then some (pw c 3) else none }

/-- The state in which a load of the whole device's shadow plane begins (R170). -/
def shadowsCleared (u : State) : State :=
  (clearShadows u).setTarget 15 { (clearShadows u).targetOf 15 with state := .idle, consents := [] }

section
variable {c : RunCmd} {u : State}

theorem loadImageRun_of_loading (hp : (u.loadOf mgmt).phase ≠ .idle) : loadImageRun c u = finish c .busy 3 [] [] u :=
  if_pos (by simp [hp])

variable (hp : (u.loadOf mgmt).phase = .idle)
include hp

theorem loadImageRun_of_noImage (hi : u.boot.imgActive = false) :
    loadImageRun c u = waitCmd c [] (newLoad u mgmt (imageLoad c)) :=
  (if_neg (by simp [hp])).trans (if_pos (by simp [hi]))

variable (hi : u.boot.imgActive = true)
include hi

theorem loadImageRun_of_noShadow (hs : bf (pw c 0) 4 4 = 0) : loadImageRun c u = finish c .refused 3 [] [] u :=
  (if_neg (by simp [hp])).trans ((if_neg (by simp [hi])).trans (if_pos hs))

variable (hs : bf (pw c 0) 4 4 ≠ 0)
include hs

theorem loadImageRun_of_deviceBusy (hb : (deviceBusy u || (List.range 16).any (holdsVote u 3)) = true) :
    loadImageRun c u = finish c .busy 3 [] [] u :=
  (if_neg (by simp [hp])).trans ((if_neg (by simp [hi])).trans ((if_neg hs).trans (if_pos hb)))

theorem loadImageRun_of_shadow (hb : (deviceBusy u || (List.range 16).any (holdsVote u 3)) = false) :
    loadImageRun c u = waitCmd c [] (newLoad (shadowsCleared u) mgmt { imageLoad c with shadow := true, whole := true }) :=
  (if_neg (by simp [hp])).trans ((if_neg (by simp [hi])).trans ((if_neg hs).trans (if_neg (by simp [hb]))))

end

section
variable {s u : State} {d : Nat} {c : RunCmd} (hu : u = servedState s d) (hc : c = frontEntry s d)
include hu hc

/-- A source that is the issuer's own. -/
theorem exec_loadImage_of_source (h : served s d 0x0201 .any) (h2 : bf (pw c 0) 1 0 ≠ 2) (h3 : bf (pw c 0) 1 0 = 3 → c.d = 4)
    (h0 : bf (pw c 0) 1 0 = 0 → srcCheck u c (pw c 3) = .ok) :
    exec (.loadImage d) s = .next (answered s (loadImageRun c u)) := by
  subst hu hc
  exact serve_eq h ((if_neg (by simpa using h0)).trans (if_neg (by simpa [h2] using h3)))

theorem exec_loadImage_of_address (h : served s d 0x0201 .any) (h0 : bf (pw c 0) 1 0 = 0) (hk : srcCheck u c (pw c 3) ≠ .ok) :
    exec (.loadImage d) s = .next (answered s (finish c (srcCheck u c (pw c 3)) 0 [] [] u)) := by
  subst hu hc
  exact serve_eq h ((if_pos (by simpa [h0] using hk)).trans (by simp [h0]))

theorem exec_loadImage_of_noSource (h : served s d 0x0201 .any)
    (h2 : bf (pw c 0) 1 0 = 2 ∨ (bf (pw c 0) 1 0 = 3 ∧ c.d ≠ 4)) :
    exec (.loadImage d) s = .next (answered s (finish c .badParameter 0 [] [] u)) := by
  subst hu hc
  have h0 : bf (pw (frontEntry s d) 0) 1 0 ≠ 0 := by omega
  exact serve_eq h ((if_neg (by simp [h0])).trans (if_pos (by simpa using h2)))

/-! ## LOAD_PARTIAL (R146, R148) -/

/-- Of an issuer that may load the region, from an address of its own. -/
theorem exec_loadPartial_of_owner (h : served s d 0x0202 .any) (ho : partialOwner u c = true)
    (h0 : bf (pw c 0) 10 9 = 0 → srcCheck u c (pw c 3) = .ok) :
    exec (.loadPartial d) s = .next (answered s (
      if 135 < bf (pw c 0) 7 0 ∨ bf (pw c 0) 10 9 = 1 ∨ bf (pw c 0) 10 9 = 3 then finish c .badParameter 0 [] [] u
      else if (u.loadOf mgmt).phase ≠ .idle ∨ mayLoad u (bf (pw c 0) 7 0) = false ∨ loadHeld u (bf (pw c 0) 7 0) = true then
        finish c .busy 3 [] [] u
      else waitCmd c [] (startRegion u mgmt (bf (pw c 0) 7 0)
        { source := 5, direct := bf (pw c 0) 8 8 == 1, cmd := some ⟨c.d, c.tag⟩,
          nv := if bf (pw c 0) 10 9 = 2 then some (.library (bf (pw c 4) 7 0)) else none,
          limit := if bf (pw c 0) 10 9 = 0 then some (pw c 3) else none }))) := by
  subst hu hc
  refine serve_eq h ((if_neg (by simp [ho])).trans ((if_neg (by simpa using h0)).trans ?_))
  simp only [Bool.or_eq_true, decide_eq_true_eq, bne_iff_ne, Bool.not_eq_true', or_assoc]

theorem exec_loadPartial_of_other (h : served s d 0x0202 .any) (ho : partialOwner u c = false) :
    exec (.loadPartial d) s = .next (answered s (finish c .notOwner 0 [] [] u)) := by
  subst hu hc
  exact serve_eq h (if_pos (by simp [ho]))

/-! ## READBACK_REGION (R370, R469) -/

/-- The issuer's own region, or any for the lead domain. -/
def readbackOwned (u : State) (c : RunCmd) : Prop := u.owner (bf (pw c 0) 7 0) = cmdOwner c ∨ u.lead = some c.d

/-- The right to debug it: a state without grants, or a grant in force of the region's owner or of the lead domain. -/
def readbackLeash (u : State) (c : RunCmd) : Prop :=
  freeDebug u = true ∨
    (u.owner (bf (pw c 0) 7 0) = cmdOwner c ∧ grantWith u (fun g => g.scope == 3 && g.dom == c.d) = true) ∨
    (u.lead = some c.d ∧ grantWith u (fun g => g.scope == 2) = true)

theorem exec_readbackRegion_of_other (h : served s d 0x0206 .h) (ho : ¬ readbackOwned u c) :
    exec (.readbackRegion d) s = .next (answered s (finish c .notOwner 0 [] [] u)) := by
  subst hu hc
  exact serve_eq h (if_pos (by simpa [readbackOwned] using ho))

theorem exec_readbackRegion_of_noLeash (h : served s d 0x0206 .h) (ho : readbackOwned u c) (hl : ¬ readbackLeash u c) :
    exec (.readbackRegion d) s = .next (answered s (finish c .noLeash 0 [] [] u)) := by
  subst hu hc
  exact serve_eq h ((if_neg (by simpa [readbackOwned, Classical.or_iff_not_imp_left] using ho)).trans
    (if_pos (by simpa [readbackLeash, imp_iff_not_or, and_assoc] using hl)))

/-- The frames are written with the MC's stamp, and the results are their number and the index to go on with. -/
theorem exec_readbackRegion_of_leash (h : served s d 0x0206 .h) (ho : readbackOwned u c) (hl : readbackLeash u c)
    {r n : Nat} {fs : List Nat} {cs : List Clamp} {x : Status × State} (hr : r = bf (pw c 0) 7 0)
    (hn : n = nearest 1 4096 (bf (pw c 4) 15 0))
    (hcs : cs = if n = bf (pw c 4) 15 0 then [] else [cmdClamp 4 0 (bf (pw c 4) 15 0) n])
    (ha : nocArgOk u c (srcAddr c) (520 * n) = true) (hk : r ≤ 135)
    (hfs : fs = ((windowFrames (u.rects r)).drop (pw c 3)).take n)
    (hx : x = blockWrite { u with free := u.free + 516 * fs.length } 0x118 .mc (srcAddr c)
      (readFrames (bf (pw c 0) 8 8 == 0) fs u) .ok) :
    exec (.readbackRegion d) s = .next (answered s (
      if x.1 = .ok then finish c .ok 3 cs
        [wd fs.length, wd (if (windowFrames (u.rects r)).length ≤ pw c 3 + n then 0xFFFFFFFF else pw c 3 + n)] x.2
      else finish c x.1 3 cs [wd 0, wd (pw c 3)] x.2)) := by
  subst hx hfs hcs hn hr hu hc
  refine serve_eq h ((if_neg (by simpa [readbackOwned, Classical.or_iff_not_imp_left] using ho)).trans
    ((if_neg (by simpa [readbackLeash, Classical.or_iff_not_imp_left] using hl)).trans ((if_neg (by simp [ha])).trans ((if_neg (by omega)).trans ?_))))
  simp only [beq_iff_eq]

end

/-! ## LoadCommands -/

/-- Settles O40: LOAD_IMAGE by its source and then by what is in progress, LOAD_PARTIAL and READBACK_REGION by who asks. -/
theorem loadCommands : Obligations.LoadCommands := by
  unfold Obligations.LoadCommands
  refine ⟨?_, fun d c u s h hu hc h0 hk => exec_loadImage_of_address hu hc h h0 hk,
    fun d c u s h hu hc h2 => exec_loadImage_of_noSource hu hc h h2, ?_,
    fun d c u s h hu hc ho => exec_loadPartial_of_other hu hc h ho, ?_, ?_, ?_⟩
  · rintro d src c l u v s h hu hc rfl h2 h3 h0 rfl
    rw [exec_loadImage_of_source hu hc h h2 h3 h0]
    refine ⟨fun hp => ?_, fun hp hi => ?_, fun hp hi hs => ?_, fun hp hi hs hb => ?_, fun hp hi hs hb hv => ?_⟩
    · rw [loadImageRun_of_loading hp]
    · rw [loadImageRun_of_noImage hp hi]; rfl
    · rw [loadImageRun_of_noShadow hp hi hs]
    · rw [loadImageRun_of_deviceBusy hp hi (by omega) hb]
    · subst hv
      rw [loadImageRun_of_shadow hp hi (by omega) hb]; rfl
  · rintro d src r c u s h hu hc ho rfl rfl h0
    rw [exec_loadPartial_of_owner hu hc h ho h0]
    refine ⟨fun hb => ?_, fun hk hs hb => ?_, fun hk hs hp hm hl => ?_⟩
    · rw [if_pos hb]
    · rw [if_neg (by omega), if_pos hb]
    · rw [if_neg (by omega), if_neg (by simp [hp, hm, hl])]
  · rintro d r n fs cs c u x s h hu hc rfl ho hl hn hcs ha hk hfs hx
    rw [exec_readbackRegion_of_leash hu hc h ho hl rfl hn hcs ha hk hfs hx]
    exact ⟨fun hok => by rw [if_pos hok], fun hno => by rw [if_neg hno]⟩
  · intro d c u s h hu hc ho hf hg hg2
    exact exec_readbackRegion_of_noLeash hu hc h (.inl ho) (by simp [readbackLeash, hf, hg, hg2])
  · intro d c u s h hu hc ho hl
    exact exec_readbackRegion_of_other hu hc h (by simp [readbackOwned, ho, hl])

/-! ## STORE_IMAGE and STORE_PARTIAL (R367, R368, R508) -/

/-- The first row of a STORE command: it runs behind those started before it, or ends with the status of its source. -/
theorem done_storeRow_of_front {s u : State} {d op : Nat} {c : RunCmd} (h : served s d op .any) (hu : u = servedState s d)
    (hc : c = frontEntry s d) (src : RunCmd → Nat) (run : RunCmd → State → Status × List Word × State) :
    done (storeRow d op src run) s = .next (answered s (
      if storeSource u c (src c) = .ok then waitCmd c [] { u with nv := { u.nv with stores := u.nv.stores ++ [c] } }
      else finish c (storeSource u c (src c)) 0 [] [] u)) := by
  subst hu hc
  have ⟨ht, ho, _⟩ := h
  refine done_eq ((storeRow_of_front (s := s.start) ht ho src run).trans ((serve_ready h _).trans (congrArg serveRest ?_)))
  simp only [bne_iff_ne, ite_not]

/-- A further row, of the oldest that runs, while nothing holds the store: it is carried out and ends. -/
theorem done_storeRow_of_oldest {s u : State} {d op : Nat} {c : RunCmd} {rest : List RunCmd}
    (hf : mayTake s d = false ∨ (frontEntry s d).op ≠ op) (hs : s.nv.stores = c :: rest) (hd : c.d = d) (ho : c.op = op)
    (hh : storeHeld s = false) (hm : mcServes s d = true) (hu : u = { s.start with nv := { s.nv with stores := rest } })
    (src : RunCmd → Nat) (run : RunCmd → State → Status × List Word × State) :
    done (storeRow d op src run) s =
      .next (interrupts s (endCmd ⟨d, c.tag⟩ (run c u).1 2 (run c u).2.1 (run c u).2.2)) := by
  subst hu
  have hfront : ¬ ((mayTake s d && (frontEntry s d).op == op) = true) := by
    obtain h | h := hf <;> simp [h]
  refine done_eq ((if_neg hfront).trans ?_)
  have hh' : storeHeld s.start = false := hh
  have hm' : mcServes s.start d = true := hm
  unfold storeNext
  rw [State.start_nv, hs]
  dsimp only
  rw [if_neg (by simp [hd, ho, hh', hm']), hd]

section
variable {b : List Byte} {c : RunCmd} {u : State}

theorem storeImageRow_of_bad (hst : storeCheck u c (bf (pw c 0) 1 0) 1 b ≠ .ok) :
    storeImageRow b c u = (storeCheck u c (bf (pw c 0) 1 0) 1 b, [wd (storeSlot u c)], u) :=
  if_pos (by simp [hst])

variable (hst : storeCheck u c (bf (pw c 0) 1 0) 1 b = .ok)
include hst

theorem storeImageRow_of_long (hl : 0x10000000 < (parseMan b).len + (parseMan b).streamLen) :
    storeImageRow b c u = (.rangeInvalid, [wd (storeSlot u c)], u) :=
  (if_neg (by simp [hst])).trans (if_pos hl)

theorem storeImageRow_of_fits (hl : (parseMan b).len + (parseMan b).streamLen ≤ 0x10000000) :
    storeImageRow b c u = ((storeImageRun (storeSlot u c) (parseMan b) b u).1, [wd (storeSlot u c)],
      (storeImageRun (storeSlot u c) (parseMan b) b u).2) :=
  (if_neg (by simp [hst])).trans (if_neg (Nat.not_lt.mpr hl))

end

/-- The library units that a container takes (R367). -/
def containerUnits (b : List Byte) : Nat := ((parseMan b).len + (parseMan b).streamLen + 0x1FFFFF) / 0x200000

/-- The state once a container has been written into library units. -/
def unitsStored (b : List Byte) (first : Nat) (u : State) : State :=
  storeUnits first (b.take ((parseMan b).len + (parseMan b).streamLen)) (eraseSectors (256 + first) (containerUnits b) u)

section
variable {b : List Byte} {c : RunCmd} {u : State}

theorem storePartialRow_of_bad (hst : storeCheck u c (bf (pw c 0) 10 9) 2 b ≠ .ok) :
    storePartialRow b c u = (storeCheck u c (bf (pw c 0) 10 9) 2 b, [0], u) :=
  if_pos (by simp [hst])

variable (hst : storeCheck u c (bf (pw c 0) 10 9) 2 b = .ok)
include hst

theorem storePartialRow_of_long (hl : 256 < bf (pw c 0) 7 0 + containerUnits b) :
    storePartialRow b c u = (.rangeInvalid, [0], u) :=
  (if_neg (by simp [hst])).trans (if_pos hl)

variable (hl : bf (pw c 0) 7 0 + containerUnits b ≤ 256)
include hl

theorem storePartialRow_of_inUse (hi : unitsInUse u (bf (pw c 0) 7 0) (containerUnits b) = true) :
    storePartialRow b c u = (.busy, [0], u) :=
  (if_neg (by simp [hst])).trans ((if_neg (Nat.not_lt.mpr hl)).trans (if_pos hi))

variable (hi : unitsInUse u (bf (pw c 0) 7 0) (containerUnits b) = false)
include hi

theorem storePartialRow_of_protected
    (hw : (List.range (containerUnits b)).all (fun i => mayWriteRange u (cmdOwner c) (256 + bf (pw c 0) 7 0 + i)) = false) :
    storePartialRow b c u = (.protectedRange, [0], u) :=
  (if_neg (by simp [hst])).trans ((if_neg (Nat.not_lt.mpr hl)).trans ((if_neg (Bool.eq_false_iff.mp hi)).trans
    (if_pos (congrArg not hw))))

theorem storePartialRow_of_free
    (hw : (List.range (containerUnits b)).all (fun i => mayWriteRange u (cmdOwner c) (256 + bf (pw c 0) 7 0 + i)) = true) :
    storePartialRow b c u =
      (if nvRead (unitsStored b (bf (pw c 0) 7 0) u) (unitAddr (bf (pw c 0) 7 0) 0) (parseMan b).len == b.take (parseMan b).len
        then .ok else .authFail, [wd (containerUnits b)], unitsStored b (bf (pw c 0) 7 0) u) :=
  (if_neg (by simp [hst])).trans ((if_neg (Nat.not_lt.mpr hl)).trans ((if_neg (Bool.eq_false_iff.mp hi)).trans
    (if_neg (Bool.eq_false_iff.mp (congrArg not hw)))))

end

section
variable {s u : State} {d : Nat} {c : RunCmd} (hu : u = servedState s d) (hc : c = frontEntry s d)
include hu hc

/-! ## SELECT_IMAGE (R119) -/

theorem exec_selectImage_of_bad (h : served s d 0x0208 .any) (hst : slotCheck u (bf (pw c 0) 0 0) ≠ .ok) :
    exec (.selectImage d) s = .next (answered s (finish c (slotCheck u (bf (pw c 0) 0 0)) 2 [] [] u)) := by
  subst hu hc
  exact serve_eq h (if_pos (by simp [hst]))

/-- Copy A is rewritten where copy B is the newer of two valid ones. -/
theorem exec_selectImage_of_newerB (h : served s d 0x0208 .any) (hst : slotCheck u (bf (pw c 0) 0 0) = .ok)
    (hw : selWinner u.nv.selA u.nv.selB = some true) (ha : selValid u.nv.selA = true) (hb : selValid u.nv.selB = true) :
    exec (.selectImage d) s = .next (answered s (finish c .ok 0 [] [wd (selSeq u.nv.selB + 1)]
      { u with nv := { u.nv with
        selA := { bytes := selBytes ((selSeq u.nv.selB + 1) % 0x100000000) (bf (pw c 0) 0 0) } } })) := by
  subst hu hc
  refine serve_eq h ((if_neg (by simp [hst])).trans ?_)
  dsimp only
  rw [hw, ha, hb]
  rfl

/-! ## WRAP_KEY (R369) -/

theorem exec_wrapKey_of_badSignature (h : served s d 0x020A .h) (hbuf : bufOk (pw c 0) 156 = true)
    (hv : Crypto.ecdsaVerify (wrapSigner u) (Crypto.sha384 ((readBuf u c (pw c 0) 156).take 0x3C))
      (((readBuf u c (pw c 0) 156).drop 0x3C).take 96) = false) :
    exec (.wrapKey d) s = .next (answered s (finish c .authFail 2 [] [] u)) := by
  subst hu hc
  exact serve_eq h ((if_neg (by simp [hbuf])).trans (if_pos (by simp [hv])))

/-- A blob for this device, whose counter is beyond that of the key it replaces. -/
theorem exec_wrapKey_of_good (h : served s d 0x020A .h) {o n : Nat} {b : List Byte} {k : BitVec 256}
    (hbuf : bufOk (pw c 0) 156 = true) (hb : b = readBuf u c (pw c 0) 156) (hm : leAt b 0 4 = 0xB10E4B57)
    (ho : o = leAt b 4 1) (ho5 : o ≤ 5) (hn : n = leAt b 8 4) (hs : leAt b 0x0C 8 = Config.serial.toNat)
    (hold : ∀ x, SMap.get dNone u.nv.pkeys o = some x → x.2 < n)
    (hv : Crypto.ecdsaVerify (wrapSigner u) (Crypto.sha384 (b.take 0x3C)) ((b.drop 0x3C).take 96) = true)
    (hk : Crypto.aesKwUnwrap u.lcs.kek ((b.drop 0x14).take 40) = some k) :
    exec (.wrapKey d) s = .next (answered s (finish c .ok 2 [] []
      { u with nv := { u.nv with pkeys := SMap.set dNone u.nv.pkeys o (some (k, n)) } })) := by
  have hnew : ((SMap.get dNone u.nv.pkeys o).any fun k => decide (n ≤ k.2)) = false := by
    rw [Option.any_eq_false]
    intro x hx
    simpa using hold x hx
  subst hn ho hb hu hc
  refine serve_eq h ((if_neg (by simp [hbuf])).trans ((if_neg ?_).trans ?_))
  · simp only [hm, hs, hnew, hv]
    simpa using ho5
  · rw [hk]

end

/-! ## StoreCommands -/

/-- Settles O41: a STORE row by whether its entry is at the head of its ring, its container by the first check that fails. -/
theorem storeCommands : Obligations.StoreCommands := by
  unfold Obligations.StoreCommands
  refine ⟨fun d b c u s hu hc => ⟨fun h => done_storeRow_of_front h hu hc _ _, fun h => done_storeRow_of_front h hu hc _ _⟩,
    ?_, ?_, ?_, ?_, ?_, fun d c u s h hu hc hb hv => exec_wrapKey_of_badSignature hu hc h hb hv⟩
  · rintro d b st rest c u s hf hs hd ho hh hm hu rfl
    have hrow : exec (.storeImage d b) s = _ := done_storeRow_of_oldest hf hs hd ho hh hm hu _ (storeImageRow b)
    rw [hrow]
    refine ⟨fun hst => ?_, fun hst hl => ?_, fun hst hl => ?_⟩
    · rw [storeImageRow_of_bad hst]
    · rw [storeImageRow_of_long hst hl]
    · rw [storeImageRow_of_fits hst hl]
  · rintro d n first b st rest c u t s hf hs hd ho hh hm hu rfl rfl rfl rfl
    have hrow : exec (.storePartial d b) s = _ := done_storeRow_of_oldest hf hs hd ho hh hm hu _ (storePartialRow b)
    rw [hrow]
    refine ⟨fun hst => ?_, fun hst hl => ?_, fun hst hl hi => ?_, fun hst hl hi hw => ?_, fun hst hl hi hw => ?_⟩
    · rw [storePartialRow_of_bad hst]
    · rw [storePartialRow_of_long hst hl]
    · rw [storePartialRow_of_inUse hst hl hi]
    · rw [storePartialRow_of_protected hst hl hi hw]
    · rw [storePartialRow_of_free hst hl hi hw]
      rfl
  · rintro d seq c u s h hu hc hst hw ha hb rfl
    exact exec_selectImage_of_newerB hu hc h hst hw ha hb
  · rintro d st c u s h hu hc rfl hst
    exact exec_selectImage_of_bad hu hc h hst
  · rintro d o n b k c u s h hu hc hbuf hb hm ho ho5 hn hs hold hv hk
    exact exec_wrapKey_of_good hu hc h hbuf hb hm ho ho5 hn hs hold hv hk

end Sys2Proof.Machine
end

section
/-! PROOF. The PCI Express endpoints: links and host loss, and with them the statement PciLinks; windows 0 and 2, translations and
outbound requests, and with them the statements PciTraffic and WindowZeroByDwords. -/
namespace Sys2Proof.Machine
open Sys2Proof

/-! ## Links and configuration requests (R337, R345) -/

/-- What a configuration request does while the link is up. -/
def takeConfig (p : Nat) (r : CfgReq) (s : State) : State :=
  match r with
  | .setBar n v => s.setPci p { s.pciOf p with bars := SMap.set dNat (s.pciOf p).bars n (v &&& barMask n) }
  | .setBusMaster on => s.setPci p { s.pciOf p with bme := on }
  | .setMsixEnable on => sendPending (s.setPci p { s.pciOf p with msixEn := on }) p
  | .setD3hot on => s.setPci p { s.pciOf p with d3 := on }
  | .readId => s.emit (.words [0x40961F3A, 0x118000A1, wd (p * 0x10000 + 0x1F3A)])

section
variable {p : Nat} {s : State} (hp : p < 4)
include hp

theorem linkUp_of_allowed {gen width : Nat} (hup : (s.pciOf p).up = false) (hr : (s.pciOf p).perst = false)
    (hraw : (s.pciOf p).raw = false) (hmc : s.boot.mcUp = true) (hq : (s.quadOf (pciQuad p)).ref = true)
    (ha : linkAllowed (s.pciOf p) gen width = true) :
    linkUp p gen width s = pciInt (clearLinkMuzzle (s.setPci p { s.pciOf p with
      up := true, everUp := true, gen := gen, width := width }) p) p 1 :=
  if_neg (by simp [hp, hup, hr, hraw, hmc, hq, ha])

theorem configRequest_of_up (hup : (s.pciOf p).up = true) (r : CfgReq) : configRequest p r s = takeConfig p r s := by
  unfold configRequest
  dsimp only
  rw [if_neg (by simp [hp, hup])]
  rfl

end

theorem configRequest_of_down {p : Nat} {s : State} (hup : (s.pciOf p).up = false) (r : CfgReq) : configRequest p r s = s :=
  if_pos (by simp [hup])

/-! ## Host loss (R344) -/

/-- The state once the requests of the host and to it have been dropped. -/
def hostDropped (s : State) (p : Nat) : State := dropOutbound (dropReads s p) p

/-- The state once a loss has taken the link down and been reported. -/
def hostLost (s : State) (p cause : Nat) : State :=
  (pciInt (linkMuzzle (endSessions ((hostDropped s p).setPci p (resetFunction ((hostDropped s p).pciOf p) cause)) (ownerOf p)) p)
    p 2).post [p] (8 + p) .ok 1 cause p

/-- A loss that happens: the policy is applied where none is in force yet. -/
theorem hostLoss_of_loss {p cause : Nat} {s : State} (hp : p < 4) (h0 : 0 < cause) (h4 : cause ≤ 4)
    (hl : if cause = 1 then (s.pciOf p).perst = false else (s.pciOf p).up = true) :
    hostLoss p cause s =
      if (s.pciOf p).lost then hostLost s p cause
      else if (s.pciOf p).policy = 1 then policySafe (hostLost s p cause) p
      else if (s.pciOf p).policy = 2 then policyReset (hostLost s p cause) p else hostLost s p cause := by
  have hlive : (if cause = 1 then (s.pciOf p).perst else !(s.pciOf p).up) = false := by
    split at hl <;> simp [*]
  unfold hostLoss
  dsimp only
  rw [if_neg (by simp only [hlive, Bool.or_false, Bool.or_eq_true, decide_eq_true_eq]; omega)]
  split
  · rfl
  · split
    · rw [if_pos (by assumption)]; rfl
    · next h => rw [if_neg (by omega), if_pos h]; rfl
    · next h1 h2 => rw [if_neg h1, if_neg h2]; rfl

theorem hostLoss_of_reset {p : Nat} {s : State} (h : (s.pciOf p).perst = true) : hostLoss p 1 s = s :=
  if_pos (by simp [h])

theorem hostLoss_of_down {p cause : Nat} {s : State} (hc : cause ≠ 1) (h : (s.pciOf p).up = false) :
    hostLoss p cause s = s :=
  if_pos (by simp [h, hc])

/-! ## Registers of an endpoint (R353) -/

section
variable {acc : Accessor} {p : Nat} {s : State} (hp : p = pciIx s acc) (hm : mayTouch acc (ownerOf p) = true)
include hp hm

theorem pciWrite_of_mine {off : Nat} (ho : off ≠ 0) (v : Word) : pciWrite acc off v s = pciPut acc p off v s := by
  subst hp
  exact (if_neg ho).trans (if_pos hm)

end

theorem release_of_live {p : Nat} {s : State} (v : Word) (h : (s.pciOf p).lost = false) : release p v s = s :=
  if_neg (by simp [h])

/-- Settles O31: each clause is the equation of its command in that case. -/
theorem pciLinks : Obligations.PciLinks := by
  unfold Obligations.PciLinks
  refine ⟨fun p s hp => done_eq (f := perstDeassert p) (if_pos hp),
    fun p gen width s hp hup hr hraw hmc hq ha => done_eq (linkUp_of_allowed (s := s.start) hp hup hr hraw hmc hq ha),
    fun p s r hup => done_eq (configRequest_of_down (s := s.start) hup r),
    fun p n v s hp hup => done_eq (configRequest_of_up (s := s.start) hp hup (.setBar n v)),
    fun p on s hp hup => ⟨done_eq (configRequest_of_up (s := s.start) hp hup (.setBusMaster on)),
      done_eq (configRequest_of_up (s := s.start) hp hup (.setMsixEnable on)),
      done_eq (configRequest_of_up (s := s.start) hp hup (.setD3hot on))⟩,
    fun p s hp hup => done_eq (configRequest_of_up (s := s.start) hp hup .readId), ?_,
    fun p s _ hr => done_eq (hostLoss_of_reset (s := s.start) hr),
    fun p cause s hc hup => done_eq (hostLoss_of_down (s := s.start) hc hup),
    fun acc p v s hp hm => done_eq (pciWrite_of_mine (s := s.start) hp hm (off := 0x0C) (by decide) v),
    fun p v s h => release_of_live v h⟩
  rintro p cause u v s hp h0 h4 hl rfl rfl
  exact done_eq (hostLoss_of_loss (s := s.start) hp h0 h4 hl)

/-! ## Window 0 by dwords (R338) -/

/-- One more word read: its effects come after those of the words before it. -/
theorem readWords_succ (f : Nat → State → Word × State) : ∀ (n a : Nat) (s : State),
    readWords f a (n + 1) s = ((readWords f a n s).1 ++ [(f (a + 4 * n) (readWords f a n s).2).1],
      (f (a + 4 * n) (readWords f a n s).2).2)
  | 0, a, s => rfl
  | n + 1, a, s => by
    rw [readWords, readWords_succ f n (a + 4) (f a s).2, readWords]
    simp only [Nat.mul_add, Nat.add_assoc, Nat.add_comm (4 * n), List.cons_append, Nat.mul_one]

theorem readWords_length (f : Nat → State → Word × State) : ∀ (n a : Nat) (s : State), (readWords f a n s).1.length = n
  | 0, _, _ => rfl
  | n + 1, a, s => congrArg (· + 1) (readWords_length f n (a + 4) (f a s).2)

/-- Word i of a longer read is the one that a read at its address gives. -/
theorem readWords_getD (f : Nat → State → Word × State) {i n : Nat} (h : i < n) (a : Nat) (s : State) :
    (readWords f a n s).1.getD i 0 = (f (a + 4 * i) (readWords f a i s).2).1 := by
  induction n with
  | zero => omega
  | succ n ih =>
    rw [readWords_succ]
    by_cases hi : i < n
    · rw [List.getD_append _ _ _ _ (by rwa [readWords_length]), ih hi]
    · obtain rfl : i = n := by omega
      rw [List.getD_append_right _ _ _ _ (by rw [readWords_length]), readWords_length, Nat.sub_self]
      rfl

/-- One more dword written, unless its byte enables are partial. -/
theorem win0Writes_append (p : Nat) (x : Word × Bool) : ∀ (ws : List (Word × Bool)) (a : Nat) (s : State),
    win0Writes p a (ws ++ [x]) s = if x.2 then win0Write p (a + 4 * ws.length) x.1 (win0Writes p a ws s) else win0Writes p a ws s
  | [], a, s => rfl
  | (w, full) :: ws, a, s => by
    rw [List.cons_append, win0Writes, win0Writes_append p x ws, win0Writes, List.length_cons,
      show a + 4 + 4 * ws.length = a + 4 * (ws.length + 1) by omega]

theorem win0Writes_take_succ (p a : Nat) (s : State) {ws : List (Word × Bool)} {i : Nat} (h : i < ws.length) :
    win0Writes p a (ws.take (i + 1)) s =
      if (ws.getD i (0, false)).2 then win0Write p (a + 4 * i) (ws.getD i (0, false)).1 (win0Writes p a (ws.take i) s)
      else win0Writes p a (ws.take i) s := by
  rw [List.take_add_one, List.getElem?_eq_getElem h, Option.toList_some, win0Writes_append, List.length_take_of_le h.le,
    List.getD_eq_getElem _ _ h]

section
variable {p : Nat} {s : State} (hp : p < 4) (hup : (s.pciOf p).up = true) (hs : sleepNear s = false)
include hp hup hs

theorem window0Tlp_of_d3_read (h3 : (s.pciOf p).d3 = true) (addr n : Nat) :
    window0Tlp p addr (.read n) s = s.emit (.cpl p 0 .ur []) :=
  (if_neg (by simp [hp, hup, hs])).trans (if_pos h3)

variable (h3 : (s.pciOf p).d3 = false)
include h3

theorem window0Tlp_of_read (addr n : Nat) :
    window0Tlp p addr (.read n) s = (readWords (win0Read p) (addr / 4 * 4 % 0x1000000) n s).2.emit
      (.words (readWords (win0Read p) (addr / 4 * 4 % 0x1000000) n s).1) :=
  (if_neg (by simp [hp, hup, hs])).trans (if_neg (by simp [h3]))

theorem window0Tlp_of_write (addr : Nat) (ws : List (Word × Bool)) :
    window0Tlp p addr (.write ws) s = win0Writes p (addr / 4 * 4 % 0x1000000) ws s :=
  (if_neg (by simp [hp, hup, hs])).trans (if_neg (by simp [h3]))

end

/-- Settles O33: the states between the dwords are those after the reads, or the writes, of the first i. -/
theorem windowZeroByDwords : Obligations.WindowZeroByDwords := by
  unfold Obligations.WindowZeroByDwords
  rintro p addr a s hp hup h3 hs rfl
  refine ⟨fun n => ⟨fun i => (readWords (win0Read p) (addr / 4 * 4 % 0x1000000) i s.start).2,
    (readWords (win0Read p) (addr / 4 * 4 % 0x1000000) n s.start).1, rfl, readWords_length .., fun i hi => ?_,
    done_eq (window0Tlp_of_read (s := s.start) hp hup hs h3 addr n)⟩,
    fun ws => ⟨fun i => win0Writes p (addr / 4 * 4 % 0x1000000) (ws.take i) s.start, rfl,
      fun i hi => win0Writes_take_succ p _ s.start hi, ?_⟩⟩
  · dsimp only
    rw [readWords_getD _ hi, readWords_succ]
  · dsimp only
    rw [List.take_length]
    exact done_eq (window0Tlp_of_write (s := s.start) hp hup hs h3 addr ws)

@[simp] theorem State.start_isMuzzled (s : State) (id : Nat) : isMuzzled s.start id = isMuzzled s id := rfl

/-! ## Window 2 (R337, R339, R340) -/

/-- A write to window 2, where the function takes TLPs and the device is configured. -/
def writeAt2 (p off : Nat) (data : List Byte) (s : State) : State :=
  match xltFor (s.pciOf p) off with
  | none => pciErr s p 1 .ok 0 off
  | some i =>
    let x := SMap.get dXlt (s.pciOf p).xlts i
    if x.write = false then pciErr s p 2 .ok i off
    else if isMuzzled s (pciId p) then bump s (pciId p) 2
    else sendWrites p (cut (data.length + 1) (x.tgt + (off - x.bar * 4096)) data.length) data s

/-- A read of window 2 there. -/
def readAt2 (p off tag len : Nat) (s : State) : State :=
  match xltFor (s.pciOf p) off with
  | none => (pciErr s p 1 .ok 0 off).emit (.cpl p tag .ur [])
  | some i =>
    let x := SMap.get dXlt (s.pciOf p).xlts i
    if x.read = false then (pciErr s p 2 .ok i off).emit (.cpl p tag .ur [])
    else if isMuzzled s (pciId p) then (pciErr (bump s (pciId p) 2) p 3 .destMuzzled i off).emit (.cpl p tag .ca [])
    else sendRead p i off tag len (x.tgt + (off - x.bar * 4096)) s

section
variable {p : Nat} {s : State} (hp : p < 4) (hup : (s.pciOf p).up = true) (hs : sleepNear s = false)
include hp hup hs

/-- In D3hot and before DONE a write is dropped and a read refused. -/
theorem window2_of_closed (hc : (s.pciOf p).d3 = true ∨ s.boot.done = false) (off tag len : Nat) (data : List Byte) :
    window2 p off (.write data) s = s ∧ window2 p off (.read tag len) s = s.emit (.cpl p tag .ur []) := by
  have hclosed : ((s.pciOf p).d3 || !s.boot.done) = true := by simpa using hc
  exact ⟨(if_neg (by simp [hp, hup, hs])).trans (if_pos hclosed), (if_neg (by simp [hp, hup, hs])).trans (if_pos hclosed)⟩

variable (h3 : (s.pciOf p).d3 = false) (hd : s.boot.done = true)
include h3 hd

theorem window2_write (off : Nat) (data : List Byte) : window2 p off (.write data) s = writeAt2 p off data s := by
  unfold window2 writeAt2
  dsimp only
  rw [if_neg (by simp [hp, hup, hs]), if_neg (by simp [h3, hd])]
  simp only [Bool.not_eq_true'] <;> rfl

theorem window2_read (off tag len : Nat) : window2 p off (.read tag len) s = readAt2 p off tag len s := by
  unfold window2 readAt2
  dsimp only
  rw [if_neg (by simp [hp, hup, hs]), if_neg (by simp [h3, hd])]
  simp only [Bool.not_eq_true'] <;> rfl

end

section
variable {p off i : Nat} {x : Xlt} {s : State} (hf : xltFor (s.pciOf p) off = some i) (hx : x = SMap.get dXlt (s.pciOf p).xlts i)
include hf hx

theorem writeAt2_of_found (data : List Byte) : writeAt2 p off data s =
    if x.write = false then pciErr s p 2 .ok i off
    else if isMuzzled s (pciId p) then bump s (pciId p) 2
    else sendWrites p (cut (data.length + 1) (x.tgt + (off - x.bar * 4096)) data.length) data s := by
  unfold writeAt2
  rw [hf, hx]

theorem readAt2_of_found (tag len : Nat) : readAt2 p off tag len s =
    if x.read = false then (pciErr s p 2 .ok i off).emit (.cpl p tag .ur [])
    else if isMuzzled s (pciId p) then (pciErr (bump s (pciId p) 2) p 3 .destMuzzled i off).emit (.cpl p tag .ca [])
    else sendRead p i off tag len (x.tgt + (off - x.bar * 4096)) s := by
  unfold readAt2
  rw [hf, hx]

end

theorem readAt2_of_none {p off : Nat} {s : State} (hf : xltFor (s.pciOf p) off = none) (tag len : Nat) :
    readAt2 p off tag len s = (pciErr s p 1 .ok 0 off).emit (.cpl p tag .ur []) := by
  unfold readAt2
  rw [hf]

section
variable {p off : Nat} {s u : State}

theorem exec_window2_write_eq (hp : p < 4) (hup : (s.pciOf p).up = true) (hs : sleepNear s = false)
    (h3 : (s.pciOf p).d3 = false) (hd : s.boot.done = true) (data : List Byte) :
    exec (.window2Tlp p off (.write data)) s = .next (interrupts s (writeAt2 p off data s.start)) :=
  done_eq (window2_write (s := s.start) hp hup hs h3 hd off data)

theorem exec_window2_read_eq (hp : p < 4) (hup : (s.pciOf p).up = true) (hs : sleepNear s = false)
    (h3 : (s.pciOf p).d3 = false) (hd : s.boot.done = true) (tag len : Nat) :
    exec (.window2Tlp p off (.read tag len)) s = .next (interrupts s (readAt2 p off tag len s.start)) :=
  done_eq (window2_read (s := s.start) hp hup hs h3 hd off tag len)

end

/-! ## Translations and outbound requests (R339, R342) -/

/-- The entry that a write of XLT_CTRL makes of what is staged. -/
def stagedXlt (c : Pci) (v : Word) : Xlt :=
  { valid := wb v 31, read := wb v 30, write := wb v 29, pages := wf v 23 0, bar := c.stBar,
    tgt := wf c.stLo 31 12 * 4096 + wf c.stHi 15 0 * 0x100000000 }

theorem writeXlt_eq (p : Nat) (v : Word) (s : State) : writeXlt p v s =
    if (stagedXlt (s.pciOf p) v).valid = true ∧ xltRefused (s.pciOf p) (s.pciOf p).xltIdx (stagedXlt (s.pciOf p) v) = true then
      pciInt (s.setPci p { s.pciOf p with
        xlts := SMap.set dXlt (s.pciOf p).xlts (s.pciOf p).xltIdx
          { SMap.get dXlt (s.pciOf p).xlts (s.pciOf p).xltIdx with rej := true } }) p 8
    else s.setPci p { s.pciOf p with
      xlts := SMap.set dXlt (s.pciOf p).xlts (s.pciOf p).xltIdx (stagedXlt (s.pciOf p) v) } := by
  simp only [← Bool.and_eq_true]
  rfl

theorem endOutbound_of_request {p tag : Nat} {q : Pkt} {s : State} (h : SMap.get dNone (s.pciOf p).ob tag = some q) (st : Status)
    (data : List Byte) : endOutbound p tag st data s =
      respond (s.setPci p { s.pciOf p with ob := SMap.set dNone (s.pciOf p).ob tag none }) q st data := by
  unfold endOutbound
  rw [h]

/-- Settles O32: a TLP by its window and whether the function takes it, a translation and an outbound request by their equations. -/
theorem pciTraffic : Obligations.PciTraffic := by
  unfold Obligations.PciTraffic
  refine ⟨fun p addr n s hp hup hs h3 => done_eq (window0Tlp_of_read (s := s.start) hp hup hs h3 addr n),
    fun p addr ws s hp hup hs h3 => done_eq (window0Tlp_of_write (s := s.start) hp hup hs h3 addr ws),
    fun p addr n s hp hup hs h3 => done_eq (window0Tlp_of_d3_read (s := s.start) hp hup hs h3 addr n),
    fun p off i data x s hp hup hs h3 hd hf hx hw hm => ?_, fun p off i tag len x s hp hup hs h3 hd hf hx hr hm => ?_,
    fun p off i tag len data x s hp hup hs h3 hd hf hx => ?_, fun p off tag len data s hp hup hs hc => ?_,
    fun p off tag len s hp hup hs h3 hd hf => ?_, ?_, ?_, fun p tag s ht => done_eq (f := outboundTimeout p tag) (if_neg (Nat.not_le.mpr ht))⟩
  · rw [exec_window2_write_eq hp hup hs h3 hd, writeAt2_of_found (s := s.start) hf hx, if_neg (by simp [hw]),
      if_neg (by simp [hm])]
  · rw [exec_window2_read_eq hp hup hs h3 hd, readAt2_of_found (s := s.start) hf hx, if_neg (by simp [hr]),
      if_neg (by simp [hm])]
  · rw [exec_window2_write_eq hp hup hs h3 hd, exec_window2_read_eq hp hup hs h3 hd,
      writeAt2_of_found (s := s.start) hf hx, readAt2_of_found (s := s.start) hf hx]
    refine ⟨fun hw => ?_, fun hr => ?_, fun hw hm => ?_, fun hr hm => ?_⟩
    · rw [if_pos hw]
    · rw [if_pos hr]
    · rw [if_neg (by simp [hw]), if_pos (by simp [hm])]
    · rw [if_neg (by simp [hr]), if_pos (by simp [hm])]
  · obtain ⟨hwrite, hread⟩ := window2_of_closed (s := s.start) hp hup hs hc off tag len data
    exact ⟨done_eq hwrite, done_eq hread⟩
  · rw [exec_window2_read_eq hp hup hs h3 hd, readAt2_of_none (s := s.start) hf]
  · rintro acc p v c x s hp hm rfl rfl
    exact done_eq ((pciWrite_of_mine (s := s.start) hp hm (off := 0x18) (by decide) v).trans (writeXlt_eq p v s.start))
  · rintro p tag data q u s hq rfl
    exact ⟨done_eq (endOutbound_of_request (s := s.start) hq .ok data), done_eq (endOutbound_of_request (s := s.start) hq .refused []),
      fun ht => done_eq (f := outboundTimeout p tag) ((if_pos ht).trans (endOutbound_of_request (s := s.start) hq .timeout []))⟩

end Sys2Proof.Machine
end

section
/-! PROOF. The Ethernet MAC ports, and with them the statements EthernetFrames and EthernetControl; the transceiver quads and lanes, and
with them the statement TransceiverLanes. -/
namespace Sys2Proof.Machine
open Sys2Proof

/-! ## A transmitted frame (R348) -/

/-- A MAC port has a transmit descriptor to take. -/
def txReady (s : State) (m : Nat) : Prop :=
  m < 16 ∧ macRuns s m = true ∧ (s.macOf m).up = true ∧ (s.macOf m).txHalt = false ∧ (s.macOf m).tx.stop = false ∧
    (s.macOf m).tx.head ≠ (s.macOf m).tx.tail

/-- The read of the descriptor at HEAD. -/
def txFetched (s : State) (m : Nat) (dma : DmaResult) : Status × State :=
  macFetch s m (descAddr (s.macOf m).tx (s.macOf m).tx.head) 32 dma.status

/-- The length and the traffic class of a transmit descriptor. -/
def txLen (dma : DmaResult) : Nat := leAt (dma.data.take 32) 6 2
def txClass (dma : DmaResult) : Nat := leAt (dma.data.take 32) 9 1 % 8

/-- The read of the frame. -/
def frameFetched (s : State) (m : Nat) (dma : DmaResult) : Status × State :=
  macFetch (txFetched s m dma).2 m (leAt (dma.data.take 32) 0 6) (txLen dma) .ok

section
variable {s : State} {m ts frags : Nat} {dma : DmaResult} (hr : txReady s m)
include hr

theorem not_txIdle : ¬ ((decide (16 ≤ m) || !macRuns s m || !(s.macOf m).up || (s.macOf m).txHalt || (s.macOf m).tx.stop ||
    decide ((s.macOf m).tx.head = (s.macOf m).tx.tail)) = true) := by
  obtain ⟨hm, hrun, hup, hh, hs, hne⟩ := hr
  simp [hm, hrun, hup, hh, hs, hne]

theorem txFrame_of_noDescriptor (hu : (txFetched s m dma).1 ≠ .ok) :
    txFrame m dma ts frags s = stopQueue m true (txFetched s m dma).1 (txFetched s m dma).2 :=
  (if_neg (not_txIdle hr)).trans (if_pos (by simpa [txFetched] using hu))

variable (hu : (txFetched s m dma).1 = .ok) (hg : gateOpen (s.macOf m) (txClass dma) = true)
include hu hg

/-- A length that no frame has is written back, and nothing is sent. -/
theorem txFrame_of_badLength (hl : txLen dma < 60 ∨ (s.macOf m).maxF - 4 < txLen dma) :
    txFrame m dma ts frags s = descDone (txFetched s m dma).2 m true
      (writeBack (dma.data.take 32) (leAt (dma.data.take 32) 16 8) .badParameter 0) := by
  have hok : (decide (60 ≤ leAt (dma.data.take 32) 6 2) && decide (leAt (dma.data.take 32) 6 2 ≤ (s.macOf m).maxF - 4)) = false := by
    simp only [txLen] at hl
    simp only [Bool.and_eq_false_iff, decide_eq_false_iff_not]
    omega
  have hgate : gateOpen (s.macOf m) (leAt (dma.data.take 32) 9 1 % 8) = true := hg
  have hdesc : (macFetch s m (descAddr (s.macOf m).tx (s.macOf m).tx.head) 32 dma.status).1 = .ok := hu
  refine (if_neg (not_txIdle hr)).trans ((if_neg (by simp [hdesc])).trans ?_)
  simp only [hok, hgate, hdesc, Bool.not_true, Bool.false_and, Bool.or_false, Bool.false_eq_true, if_false, bne_self_eq_false]
  rfl

/-- A frame that its open gate leaves time for is fetched and sent with its check sequence. -/
theorem txFrame_of_frame (hf : gateFits s m (txClass dma) (txLen dma) = true) (h60 : 60 ≤ txLen dma)
    (hmax : txLen dma ≤ (s.macOf m).maxF - 4) :
    txFrame m dma ts frags s =
      if (frameFetched s m dma).1 = .ok then
        descDone ((countFrags (macCount (frameFetched s m dma).2 m 0) m (fragCount (s.macOf m) (txClass dma) (txLen dma) frags)).emit
          (.eth m ((dma.data.drop 32).take (txLen dma) ++ leBytes 4 (crc32u ((dma.data.drop 32).take (txLen dma)))))) m true
          (writeBack (dma.data.take 32)
            (if wb (wd (leAt (dma.data.take 32) 8 1)) 1 then ts else leAt (dma.data.take 32) 16 8) .ok 0)
      else stopQueue m true (frameFetched s m dma).1 (frameFetched s m dma).2 := by
  have hok : (decide (60 ≤ leAt (dma.data.take 32) 6 2) && decide (leAt (dma.data.take 32) 6 2 ≤ (s.macOf m).maxF - 4)) = true := by
    simp only [txLen] at h60 hmax
    simp [h60, hmax]
  have hgate : gateOpen (s.macOf m) (leAt (dma.data.take 32) 9 1 % 8) = true := hg
  have hfits : gateFits s m (leAt (dma.data.take 32) 9 1 % 8) (leAt (dma.data.take 32) 6 2) = true := hf
  have hdesc : (macFetch s m (descAddr (s.macOf m).tx (s.macOf m).tx.head) 32 dma.status).1 = .ok := hu
  refine (if_neg (not_txIdle hr)).trans ((if_neg (by simp [hdesc])).trans ?_)
  simp only [hok, hgate, hfits, Bool.not_true, Bool.and_false, Bool.or_false, Bool.true_and, Bool.false_eq_true, if_false,
    if_true, bne_iff_ne, ite_not]
  rfl

end

/-- A descriptor that is over is written back and HEAD advances, or the queue stops. -/
theorem descDone_eq (s : State) (m : Nat) (tx : Bool) (bs : List Byte) {r : EthRing} {u : Status × State}
    (hr : r = if tx then (s.macOf m).tx else (s.macOf m).rx) (hu : u = macStore s m (descAddr r r.head) bs) :
    descDone s m tx bs =
      if u.1 = .ok then
        ethInt (u.2.setMac m (if tx then { s.macOf m with tx := { r with head := (r.head + 1) % ringLen r } }
          else { s.macOf m with rx := { r with head := (r.head + 1) % ringLen r } })) m (if tx then 1 else 2)
      else stopQueue m tx u.1 u.2 := by
  subst hu hr
  unfold descDone
  simp only [bne_iff_ne, ite_not]

/-! ## A received frame (R347) -/

section
variable {s : State} {m ts : Nat} {bs : List Byte} {dma : DmaResult} (hm : m < 16) (hrun : macRuns s m = true)
  (hup : (s.macOf m).up = true)
include hm hrun hup

theorem rxFrame_of_badFcs : rxFrame m bs false ts dma s = macCount s m 2 :=
  (if_neg (by simp [hm, hrun, hup])).trans (if_pos rfl)

theorem rxFrame_of_badLength (hl : bs.length + 4 < 64 ∨ (s.macOf m).maxF < bs.length + 4) :
    rxFrame m bs true ts dma s = macCount s m 4 :=
  (if_neg (by simp [hm, hrun, hup])).trans ((if_neg (by simp)).trans
    (if_pos (by simpa only [Bool.or_eq_true, decide_eq_true_eq] using hl)))

variable (h64 : 64 ≤ bs.length + 4) (hmax : bs.length + 4 ≤ (s.macOf m).maxF)
include h64 hmax

/-- A frame whose check sequence and length are right. -/
theorem rxFrame_of_whole : rxFrame m bs true ts dma s =
    if etherType bs = 0x8808 then macCount s m 5
    else if gptpFrame s m bs = true ∨ addressed (s.macOf m) bs = false then s
    else if (s.macOf m).txHalt = true ∨ (s.macOf m).rx.stop = true ∨ (s.macOf m).rx.head = (s.macOf m).rx.tail then macCount s m 3
    else
      let u := macFetch s m (descAddr (s.macOf m).rx (s.macOf m).rx.head) 32 dma.status
      let v := if u.1 = .ok then macStore u.2 m (leAt (dma.data.take 32) 0 6) bs else u
      if v.1 = .ok then descDone (macCount v.2 m 1) m false (writeBack (dma.data.take 32) ts .ok bs.length)
      else stopQueue m false v.1 v.2 := by
  refine (if_neg (by simp [hm, hrun, hup])).trans ((if_neg (by simp)).trans ((if_neg ?_).trans ?_))
  · simp only [Bool.or_eq_true, decide_eq_true_eq]
    omega
  · simp only [beq_iff_eq, Bool.or_eq_true, Bool.not_eq_true', decide_eq_true_eq, or_assoc, bne_iff_ne, ite_not]

end

/-! ## Registers of a MAC port (R348, R351) -/

section
variable {acc : Accessor} {m : Nat} {s : State} (hm : m = macIx s acc) (ht : mayTouch acc (macOwner s m) = true)
include hm ht

theorem ethWrite_of_mine {off : Nat} (ho : off ≠ 0) (v : Word) : ethWrite acc off v s = macPut acc m off v s := by
  subst hm
  exact (if_neg ho).trans (if_pos ht)

end

section
variable {m : Nat} {s : State} {v : Word}

theorem writeTail_tx (hl : wf v 11 0 < ringLen (s.macOf m).tx) (hne : wf v 11 0 ≠ (s.macOf m).tx.head) :
    writeTail m true v s = s.setMac m { s.macOf m with tx := { (s.macOf m).tx with tail := wf v 11 0 } } :=
  if_neg (by simp [hl, hne])

theorem writeTail_rx_of_beyond (hl : ringLen (s.macOf m).rx ≤ wf v 11 0) : writeTail m false v s = ethInt s m 0x20 :=
  if_pos (by simp [hl])

end

/-- Settles O34: a frame by the first condition that it fails, a TAIL write by the ring's length. -/
theorem ethernetFrames : Obligations.EthernetFrames := by
  unfold Obligations.EthernetFrames
  refine ⟨?_, ?_, ?_, ?_, fun s m tx bs r u hr hu => descDone_eq s m tx bs hr hu,
    fun m ts bs dma s hm hrun hup h64 hmax he => ⟨fun hno => ?_, fun hg ha hfull => ?_⟩,
    fun m ts bs dma s hm hrun hup h64 hmax he => ?_,
    fun m ts bs dma s hm hrun hup => done_eq (rxFrame_of_badFcs (s := s.start) hm hrun hup),
    fun m ts bs dma s hm hrun hup hl => done_eq (rxFrame_of_badLength (s := s.start) hm hrun hup hl),
    fun acc m v s hm ht hl hne => ?_, fun acc m v s hm ht hl => ?_⟩
  · rintro m ts frags len cls dma frame u v s hm hrun hup hh hs hne rfl rfl rfl hu hg hf h60 hmax rfl rfl
    exact done_eq (txFrame_of_frame (s := s.start) ⟨hm, hrun, hup, hh, hs, hne⟩ hu hg hf h60 hmax)
  · rintro m ts frags len cls dma u s hm hrun hup hh hs hne rfl rfl rfl hu hg hl
    exact done_eq (txFrame_of_badLength (s := s.start) ⟨hm, hrun, hup, hh, hs, hne⟩ hu hg hl)
  · rintro m ts frags dma u s hm hrun hup hh hs hne rfl hu
    exact done_eq (txFrame_of_noDescriptor (s := s.start) ⟨hm, hrun, hup, hh, hs, hne⟩ hu)
  · rintro m ts bs dma u v s hm hrun hup h64 hmax he hg ha hh hs hne rfl rfl
    refine done_eq ((rxFrame_of_whole (s := s.start) hm hrun hup h64 hmax).trans ((if_neg he).trans ((if_neg ?_).trans (if_neg ?_))))
    · rintro (h | h)
      · exact absurd (hg.symm.trans h) (by simp)
      · exact absurd (ha.symm.trans h) (by simp)
    · simp [hh, hs, hne]
  · exact done_eq ((rxFrame_of_whole (s := s.start) hm hrun hup h64 hmax).trans ((if_neg he).trans (if_pos hno)))
  · refine done_eq ((rxFrame_of_whole (s := s.start) hm hrun hup h64 hmax).trans ((if_neg he).trans ((if_neg ?_).trans (if_pos hfull))))
    rintro (h | h)
    · exact absurd (hg.symm.trans h) (by simp)
    · exact absurd (ha.symm.trans h) (by simp)
  · exact done_eq ((rxFrame_of_whole (s := s.start) hm hrun hup h64 hmax).trans (if_pos he))
  · exact done_eq ((ethWrite_of_mine (s := s.start) hm ht (off := 0x24) (by decide) v).trans (writeTail_tx (s := s.start) hl hne))
  · exact done_eq ((ethWrite_of_mine (s := s.start) hm ht (off := 0x34) (by decide) v).trans
      (writeTail_rx_of_beyond (s := s.start) hl))

/-! ## Port control and gate lists (R346, R351, R352) -/

section
variable {m : Nat} {s : State} {v : Word}

/-- Enabling resets HEAD and TAIL and restarts the queues. -/
theorem writePortCtrl_of_enable (hu : macUsed s m = true) (hf : wf v 26 25 ≠ 1) (hv : wb v 31 = true)
    (hc : wb (s.macOf m).ctrl 31 = false) :
    writePortCtrl m v s = s.setMac m { s.macOf m with
      ctrl := v &&& 0xFF00FF00,
      pre := wb v 28 && (!wb v 27 || ((s.macOf m).pre && !true)),
      tx := { (s.macOf m).tx with head := 0, tail := 0, stop := false },
      rx := { (s.macOf m).rx with head := 0, tail := 0, stop := false }, qStat := .ok } := by
  refine (if_neg (by simp [hu, hf])).trans ?_
  simp only [hv, hc]
  rfl

theorem writePortCtrl_of_unused (hu : macUsed s m = false) (hv : wb v 31 = true) : writePortCtrl m v s = ethInt s m 0x20 :=
  if_pos (by simp [hu, hv])

theorem writeGclCtrl_of_commit (h1 : 1 ≤ wf v 8 0) (h256 : wf v 8 0 ≤ 256) (hv : wb v 30 = true) :
    writeGclCtrl m v s = s.setMac m { s.macOf m with
      admin := { (s.macOf m).admin with len := wf v 8 0 }, gclEn := wb v 31,
      pend := some (switchAt { (s.macOf m).admin with len := wf v 8 0 } s.now, { (s.macOf m).admin with len := wf v 8 0 }) } := by
  refine (if_neg ?_).trans ?_
  · simp only [Bool.or_eq_true, decide_eq_true_eq]
    omega
  · rw [if_pos hv]

theorem writeGclCtrl_of_badLength (h : wf v 8 0 = 0 ∨ 256 < wf v 8 0) : writeGclCtrl m v s = ethInt s m 0x20 :=
  if_pos (by simp only [Bool.or_eq_true, decide_eq_true_eq]; omega)

theorem gclSwitch_of_pending {t : Nat} {l : GateList} (h : (s.macOf m).pend = some (t, l)) :
    gclSwitch m s = if s.now < t then s
      else ethInt (s.setMac m { s.macOf m with oper := l, pend := none, gateAt := 0, gateRe := false }) m 0x10 := by
  unfold gclSwitch
  rw [h]

theorem gateInterval_of_running (hg : (s.macOf m).gclEn = true) (hl : (s.macOf m).oper.len ≠ 0)
    (hb : (s.macOf m).oper.base ≤ s.now) (hr : (s.macOf m).gateRe = false) :
    gateInterval m s = s.setMac m { s.macOf m with
      gateAt := gateEntry (s.macOf m).oper.ents ((s.macOf m).oper.len - 1) 0
        ((s.now - (s.macOf m).oper.base) % (s.macOf m).oper.cycle),
      gateRe := false } :=
  (if_neg (by simp [hg, hl, hb])).trans (if_neg (by simp [hr]))

end

/-- Settles O35: each clause is the equation of its command in that case. -/
theorem ethernetControl : Obligations.EthernetControl := by
  unfold Obligations.EthernetControl
  refine ⟨fun acc m v s hm ht hu hf hv hc => ?_, fun acc m v s hm ht hu hv => ?_, fun acc m v s hm ht h1 h256 hv => ?_,
    fun acc m v s hm ht hl => ?_,
    fun m t l s h ht => done_eq ((gclSwitch_of_pending (s := s.start) h).trans (if_neg (Nat.not_lt.mpr ht))),
    fun m t l s h ht => done_eq ((gclSwitch_of_pending (s := s.start) h).trans (if_pos ht)),
    fun m i s hg hl hb hr hi => hi ▸ done_eq (gateInterval_of_running (s := s.start) hg hl hb hr),
    fun m s hrun hc => done_eq (f := preemptVerify m) (if_pos (Bool.and_eq_true_iff.mpr ⟨hrun, hc⟩))⟩
  · exact done_eq ((ethWrite_of_mine (s := s.start) hm ht (off := 0x08) (by decide) v).trans
      (writePortCtrl_of_enable (s := s.start) hu hf hv hc))
  · exact done_eq ((ethWrite_of_mine (s := s.start) hm ht (off := 0x08) (by decide) v).trans
      (writePortCtrl_of_unused (s := s.start) hu hv))
  · exact done_eq ((ethWrite_of_mine (s := s.start) hm ht (off := 0x48) (by decide) v).trans
      (writeGclCtrl_of_commit (s := s.start) h1 h256 hv))
  · exact done_eq ((ethWrite_of_mine (s := s.start) hm ht (off := 0x48) (by decide) v).trans
      (writeGclCtrl_of_badLength (s := s.start) hl))

/-! ## Transceiver quads and lanes (R333, R334, R335) -/

/-- The state once a quad has lost lock. -/
def quadUnlocked (s : State) (q : Nat) : State :=
  (s.setQuad q { s.quadOf q with locked := false, lol := sat 0xFF (s.quadOf q).lol }).raiseAll 0x9001C 0 (1#32 <<< q)

theorem xcvLossOfLock_of_locked {q : Nat} {s : State} (hq : q < 12) (h : (s.quadOf q).locked = true) (refGone : Bool) :
    xcvLossOfLock q refGone s = if refGone then quadDark (quadUnlocked s q) q else quadUnlocked s q :=
  if_pos (by simp [hq, h])

theorem xcvLossOfLock_of_unlocked {q : Nat} {s : State} (h : (s.quadOf q).locked = false) (refGone : Bool) :
    xcvLossOfLock q refGone s = s :=
  if_neg (by simp [h])

section
variable {l : Nat} {s : State}

theorem ite_le_eq_ite_lt {α : Type} (a b : Nat) (x y : α) : (if b ≤ a then x else y) = if a < b then y else x := by
  rw [← ite_not]
  simp only [Nat.not_le]

/-- The transmit FIFO of a lane with the word that the fabric offers. -/
def laneTx (g : Lane) (push : Option (BitVec 128)) : List (BitVec 128) :=
  if g.txF.length < Config.laneDepth + 1 then g.txF ++ push.toList else g.txF

/-- The receive FIFO once the fabric may have taken a word. -/
def laneRx (g : Lane) (pop : Bool) : List (BitVec 128) := if pop then g.rxF.drop 1 else g.rxF

/-- A lane after a word time. -/
def laneAfter (g : Lane) (rx push : Option (BitVec 128)) (pop idle : Bool) : Lane :=
  { g with
    idle := idle, txF := if idle then laneTx g push else (laneTx g push).drop 1,
    under := if laneTx g push = [] ∧ idle = false then sat 0xFFFF g.under else g.under,
    rxF := if (laneRx g pop).length < Config.laneDepth + 1 then laneRx g pop ++ rx.toList else laneRx g pop,
    overf := if rx ≠ none ∧ Config.laneDepth + 1 ≤ (laneRx g pop).length then sat 0xFFFF g.overf else g.overf }

/-- The state with the word that is sent. -/
def laneSent (s : State) (l : Nat) (rx push : Option (BitVec 128)) (pop idle : Bool) : State :=
  if idle then s.setLane l (laneAfter (s.laneOf l) rx push pop idle)
  else (s.setLane l (laneAfter (s.laneOf l) rx push pop idle)).emit (.lane l ((laneTx (s.laneOf l) push).headD fillWord))

theorem rawWordTime_of_service (hr : rawLane s l = true) (hq : (s.quadOf (l / 4)).locked = true)
    (ho : outOfService s 0x82 l = false) (hs : laneSlice s l = false) (rx push : Option (BitVec 128)) (pop idle : Bool) :
    rawWordTime l rx push pop idle s =
      if pop = true ∧ (s.laneOf l).rxF ≠ [] then
        (laneSent s l rx push pop idle).emit (.wire "xcv_rx_data" l ((s.laneOf l).rxF.headD 0).toNat)
      else laneSent s l rx push pop idle := by
  refine (if_neg (by simp [hr, hq, ho])).trans ?_
  unfold laneSent laneAfter laneTx laneRx
  simp only [hs, Bool.not_false, Bool.and_true, Bool.false_or, Bool.and_eq_true, Bool.not_eq_true', List.isEmpty_iff,
    decide_eq_true_eq, Option.isSome_iff_ne_none, ite_le_eq_ite_lt]
  -- What the FIFOs hold depends on the word offered, the word received, and whether the fabric takes one.
  cases hf : (s.laneOf l).rxF with
  | nil => cases rx <;> cases push <;> simp
  | cons w f => cases rx <;> cases push <;> cases pop <;> simp

/-- A lane that is not raw has no word time, no word boundary and no receiver of its own. -/
theorem raw_events_of_notRaw (h : rawLane s l = false) (rx push : Option (BitVec 128)) (pop idle locked : Bool) :
    rawWordTime l rx push pop idle s = s ∧ rxSlip l s = s ∧ rxLockChange l locked s = s :=
  ⟨if_pos (by simp [h]), if_neg (by simp [h]), if_neg (by simp [h])⟩

/-- The only slice that runs meets the traffic of its own lane. -/
theorem meetSlice_of_one {k test target : Nat} {x : Slice} (h : s.bst.slices = [(k, some x)]) :
    meetSlice s test target = if baseTest x.test = test ∧ x.target = target then abortSlice s k x else s := by
  unfold meetSlice
  rw [h]
  simp only [List.foldl_cons, List.foldl_nil, Bool.and_eq_true, decide_eq_true_eq]

theorem meetSlice_of_none {test target : Nat} (h : s.bst.slices = []) : meetSlice s test target = s := by
  unfold meetSlice
  rw [h]
  rfl

end

/-- Settles O36: a quad by whether it is locked, a lane by whether it is raw, its traffic by the slice that runs. -/
theorem transceiverLanes : Obligations.TransceiverLanes := by
  unfold Obligations.TransceiverLanes
  refine ⟨fun q s hq h => ⟨done_eq (xcvLossOfLock_of_locked (s := s.start) hq h false),
      done_eq (xcvLossOfLock_of_locked (s := s.start) hq h true)⟩,
    fun q b s h => done_eq (xcvLossOfLock_of_unlocked (s := s.start) h b), fun q s hq => done_eq (f := quadPllLock q) (if_pos hq),
    fun l locked s hr => done_eq (f := rxLockChange l locked) (if_pos hr), fun l s hr => done_eq (f := rxSlip l) (if_pos hr), ?_,
    fun l s rx push pop idle locked hr => ?_, fun l k x s h => ⟨fun ht hl => ?_, fun hne => ?_⟩,
    fun l s h => done_eq (f := fun s => meetSlice s 4 l) (meetSlice_of_none (s := s.start) h)⟩
  · rintro l rx push pop idle tx rf g c u s hr hq ho hs rfl rfl rfl rfl rfl
    exact done_eq (rawWordTime_of_service (s := s.start) hr hq ho hs rx push pop idle)
  · obtain ⟨htime, hslip, hlock⟩ := raw_events_of_notRaw (s := s.start) hr rx push pop idle locked
    exact ⟨done_eq htime, done_eq hslip, done_eq hlock⟩
  · exact done_eq (f := fun s => meetSlice s 4 l) ((meetSlice_of_one (s := s.start) h).trans (if_pos ⟨ht, hl⟩))
  · exact done_eq (f := fun s => meetSlice s 4 l) ((meetSlice_of_one (s := s.start) h).trans (if_neg (by simpa [Classical.or_iff_not_imp_left] using hne)))

end Sys2Proof.Machine
end

section
/-! PROOF. The host ports of the mailbox and the MC's restart, and with them the statement MailboxPorts; the commands that ask for the
device's words and set its policy, and with them the statement MailboxQueries. -/
namespace Sys2Proof.Machine
open Sys2Proof

/-! ## Ring indices (R357, R379) -/

section
variable {acc : Accessor} {d : Nat} {v : Word} {s : State}

theorem ports_of_foreign (h : hmbMine acc d = false) :
    doorbell acc d v s = s ∧ cplHeadWrite acc d v s = s ∧ ringReset acc d v s = s :=
  ⟨if_neg (Bool.eq_false_iff.mp h), if_neg (Bool.eq_false_iff.mp h), if_neg (Bool.eq_false_iff.mp h)⟩

variable (h : hmbMine acc d = true)
include h

theorem doorbell_of_within (hf : ringFill (wf v 6 0) (s.mbxOf d).cmdHead ≤ 64) :
    doorbell acc d v s = serveRest (s.setMbx d { s.mbxOf d with cmdTail := wf v 6 0, dbErr := false }) :=
  (if_pos h).trans (if_neg (Nat.not_lt.mpr hf))

theorem doorbell_of_beyond (hf : 64 < ringFill (wf v 6 0) (s.mbxOf d).cmdHead) : doorbell acc d v s = dbError s d :=
  (if_pos h).trans (if_pos hf)

theorem cplHeadWrite_of_within
    (hf : ringFill (s.mbxOf d).cplTail (wf v 6 0) ≤ ringFill (s.mbxOf d).cplTail (s.mbxOf d).cplHead) :
    cplHeadWrite acc d v s =
      serveRest (drainHeld 64 (s.setMbx d { s.mbxOf d with cplHead := wf v 6 0, dbErr := false }) d) :=
  (if_pos h).trans (if_neg (Nat.not_lt.mpr hf))

variable (hv : wb v 31 = true)
include hv

theorem ringReset_of_quiet (hr : runCount s d = 0) :
    ringReset acc d v s = drainHeld 64 (s.setMbx d { s.mbxOf d with
      cmdTail := 0, cmdHead := 0, cplTail := 0, cplHead := 0, intCpl := wb v 0 }) d :=
  (if_pos h).trans ((if_pos hv).trans (if_pos hr))

theorem ringReset_of_running (hr : runCount s d ≠ 0) : ringReset acc d v s = dbError s d :=
  (if_pos h).trans ((if_pos hv).trans (if_neg hr))

end

/-! ## Restart of the MC (R355) -/

/-- The state once a restart has completed what ran. -/
def cmdsAborted (s : State) : State := forgetCmds (failExits (abortRunning s))

section
variable {s : State} (hm : s.boot.mcUp = true) (hh : s.mc.halted = false)
include hm hh

theorem mcRestart_of_first (hl : s.mc.lastRst = 0) :
    mcRestart s = dropReports { cmdsAborted s with mc := { (cmdsAborted s).mc with
      restart := true, restarts := sat 0xFFFFFFFF (cmdsAborted s).mc.restarts, lastRst := s.uptime + 1, avsHigh := 0,
      idleTry := [] } } :=
  (if_neg (by simp [hm, hh])).trans (if_neg (by simp [hl]))

/-- A second restart within a second of one halts the MC. -/
theorem mcRestart_of_second (hl : s.mc.lastRst ≠ 0) (ht : s.uptime + 1 < s.mc.lastRst + 1000000000) :
    mcRestart s = { cmdsAborted s with mc := { (cmdsAborted s).mc with halted := true, restart := false } } :=
  (if_neg (by simp [hm, hh])).trans (if_pos (by simp [hl, ht]))

end

/-- Settles O37: each clause is the equation of its command in that case. -/
theorem mailboxPorts : Obligations.MailboxPorts := by
  unfold Obligations.MailboxPorts
  refine ⟨fun acc d v s h hf => done_eq (doorbell_of_within (s := s.start) h hf),
    fun acc d v s h hf => done_eq (doorbell_of_beyond (s := s.start) h hf),
    fun acc d v s h hf => done_eq (cplHeadWrite_of_within (s := s.start) h hf),
    fun acc d v s h hv hr => done_eq (ringReset_of_quiet (s := s.start) h hv hr),
    fun acc d v s h hv hr => done_eq (ringReset_of_running (s := s.start) h hv hr), fun acc d v s h => ?_,
    fun addr n ws s h => ⟨done_eq (f := winWrite addr ws) (if_pos h), done_eq (f := winRead addr n) (if_pos h)⟩, ?_, ?_, ?_⟩
  · obtain ⟨hdoor, hhead, hreset⟩ := ports_of_foreign (v := v) (s := s.start) h
    exact ⟨done_eq hdoor, done_eq hhead, done_eq hreset⟩
  · rintro u s hm hh hl rfl
    exact done_eq (mcRestart_of_first (s := s.start) hm hh hl)
  · rintro u s hm hh hl ht rfl
    exact done_eq (mcRestart_of_second (s := s.start) hm hh hl ht)
  · rintro u s hr rfl
    exact done_eq (f := mcRestartDone) (if_neg (by simp [hr]))

/-! ## GET_REPORT (R371) -/

section
variable {s u : State} {d : Nat} {c : RunCmd} (hu : u = servedState s d) (hc : c = frontEntry s d)
include hu hc

theorem exec_getReport_of_notFound (h : served s d 0x0003 .any) {st : Status}
    (hf : findReport u c.d (bf (pw c 0) 15 0) (pw c 3) = .inl st) :
    exec (.getReport d) s = .next (answered s (finish c st 0 [] [] u)) := by
  subst hu hc
  refine serve_eq h ?_
  dsimp only
  rw [hf]

/-- As many entries as the buffer holds are copied; the issuer's own events are then gone. -/
theorem exec_getReport_of_found (h : served s d 0x0003 .any) {f : Found} {n : Nat} {es : List (List Word)} {v : State}
    (hn : n = bf (pw c 2) 15 0) (hf : findReport u c.d (bf (pw c 0) 15 0) (pw c 3) = .inr f) (h32 : 32 ≤ n) (hmax : n ≤ 57344)
    (hb : bufOk (pw c 1) n = true) (hes : es = f.es.take ((n - 16) / 16))
    (hv : v = writeBuf u c (pw c 1) (wordBytes ([wd (bf (pw c 0) 15 0), wd f.held, wd f.lost, wd f.seq0] ++ es.flatten))) :
    exec (.getReport d) s = .next (answered s (finish c .ok 0 []
      [wd es.length, wd (f.es.length - es.length), wd f.lost]
      (if bf (pw c 0) 15 0 = 0x8001 then takeEvents v c.d es.length else v))) := by
  subst hv hes hn hu hc
  refine serve_eq h ?_
  dsimp only
  rw [hf]
  exact if_neg (by simp [hb]; omega)

/-! ## Policy (R374) -/

theorem exec_setPolicy_of_pairs (h : served s d 0x0004 .lead) {n : Nat} {r : List (Nat × Nat) × List Clamp}
    (hn : n = bf (pw c 0) 2 0) (h1 : 1 ≤ n) (h6 : n ≤ 6) (hp : polPairs c (u.pol 3) 1 n = some r) :
    exec (.setPolicy d) s = .next (answered s (finish c .ok 0 r.2 [wd n] (r.1.foldl setPol u))) := by
  subst hn hu hc
  refine serve_eq h ((if_neg ?_).trans ?_)
  · simp only [Bool.or_eq_true, decide_eq_true_eq]
    omega
  · rw [hp]

theorem exec_setPolicy_of_bad (h : served s d 0x0004 .lead) {n : Nat} (hn : n = bf (pw c 0) 2 0)
    (hb : n = 0 ∨ 6 < n ∨ polPairs c (u.pol 3) 1 n = none) :
    exec (.setPolicy d) s = .next (answered s (finish c .badParameter 0 [] [] u)) := by
  subst hn hu hc
  refine serve_eq h ?_
  dsimp only
  by_cases hrange : bf (pw (frontEntry s d) 0) 2 0 = 0 ∨ 6 < bf (pw (frontEntry s d) 0) 2 0
  · exact if_pos (by simpa using hrange)
  · rw [if_neg (by simpa using hrange), (hb.resolve_left fun h0 => hrange (.inl h0)).resolve_left fun h6 => hrange (.inr h6)]

theorem exec_getPolicy_of_known (h : served s d 0x0005 .any) (hk : polKnown (bf (pw c 0) 7 0) = true) :
    exec (.getPolicy d) s = .next (answered s (finish c .ok 0 [] [wd (u.pol (bf (pw c 0) 7 0)),
      wd (if bf (pw c 0) 7 0 = 1 then u.scr.active else if bf (pw c 0) 7 0 = 5 then u.mc.vccint else 0),
      wd (u.polDefault (bf (pw c 0) 7 0))] u)) := by
  subst hu hc
  exact serve_eq h (if_neg (by simp [hk]))

theorem exec_getPolicy_of_unknown (h : served s d 0x0005 .any) (hk : polKnown (bf (pw c 0) 7 0) = false) :
    exec (.getPolicy d) s = .next (answered s (finish c .badParameter 0 [] [] u)) := by
  subst hu hc
  exact serve_eq h (if_pos (by simp [hk]))

end

/-- The SRAM errors that the MC corrects are counted before the command is looked at, which changes no check of R361. -/
theorem served_sramCorr {s : State} {d op : Nat} {iss : Issuer} (h : served s d op iss) (n : Nat) :
    served { s with mc := { s.mc with sramCorr := n } } d op iss := h

/-- The state in which GET_STATUS is served: `k` corrections more have been counted (R354). -/
def corrected (s : State) (k : Nat) : State := { s with mc := { s.mc with sramCorr := min 0xFFF (s.mc.sramCorr + k) } }

/-- What GET_STATUS answers (Table 12.11). -/
def statusAnswer (c : RunCmd) (u : State) : State :=
  finish c .ok 0 []
    [wd (phaseCode u.boot.phase * 0x10000000 + u.lcs.state * 0x1000000 + scode u.boot.first * 0x10000 +
       scode u.boot.second * 0x100 + scode (u.loadOf mgmt).status),
     wd (statusFlags u),
     wd (maskOf 16 (fun b => (u.bandOf b).state != .on) * 0x10000 + maskOf 16 (bankHeld u)),
     wd (min 0xFFF u.mc.sramCorr * 0x100000 + (hottest u).1 * 0x10000 + (hottest u).2 % 4096),
     wd (SMap.get dReport u.mc.events c.d).es.length, startupWord u] u

theorem getStatus_eq (d k : Nat) (s : State) : getStatus d k s = serve d 0x0002 .any statusAnswer (corrected s k) := rfl

theorem getStatus_of_served {s : State} {d : Nat} (h : served s d 0x0002 .any) (k : Nat) :
    getStatus d k s.start = serveRest (statusAnswer (frontEntry s d) (servedState (corrected s k) d)) := by
  rw [getStatus_eq]
  exact serve_ready (s := corrected s k) (served_sramCorr h _) statusAnswer

/-- Settles O38: each clause is what its command's body does in that case. -/
theorem mailboxQueries : Obligations.MailboxQueries := by
  unfold Obligations.MailboxQueries
  refine ⟨?_, ?_, fun d n f es c u v s h hu hc hn hf h32 hmax hb hes hv =>
      exec_getReport_of_found hu hc h hn hf h32 hmax hb hes hv,
    fun d st c u s h hu hc hf => exec_getReport_of_notFound hu hc h hf,
    fun d n r c u s h hu hc hn h1 h6 hp => exec_setPolicy_of_pairs hu hc h hn h1 h6 hp,
    fun d n c u s h hu hc hn hb => exec_setPolicy_of_bad hu hc h hn hb,
    fun d id c u s h hu hc hid hk => hid ▸ exec_getPolicy_of_known hu hc h (hid ▸ hk),
    fun d id c u s h hu hc hid hk => exec_getPolicy_of_unknown hu hc h (hid ▸ hk)⟩
  · rintro d c u s h rfl rfl
    exact serve_eq h rfl
  · rintro d k c t u s h rfl rfl rfl
    exact done_eq (getStatus_of_served h k)

end Sys2Proof.Machine
end

section
/-! PROOF. The policy loops of the MC and the commands on power, and with them the statement PowerControl. -/
namespace Sys2Proof.Machine
open Sys2Proof

/-! ## The voltage loop (R375, R376) -/

/-- The state in which a period of the voltage loop acts. -/
def avsBegun (s : State) : State := { s with mc := { s.mc with avsAt := s.uptime } }

/-- The state once a period has noted the least margin, and how many periods in a row it was high. -/
def avsNoted (s : State) (m : Int) (high : Nat) : State :=
  { avsBegun s with mc := { (avsBegun s).mc with margin := m, avsHigh := high } }

theorem avsPeriod_of_early {ms : List Int} {s : State} (h : s.uptime < s.mc.avsAt + 10000000) : avsPeriod ms s = s :=
  if_pos (by simp [h])

section
variable {ms : List Int} {r : Nat} {s : State} (hm : mcRuns s = true) (hd : s.boot.done = true) (hs : s.mc.avsStop = false)
  (ht : s.mc.avsAt + 10000000 ≤ s.uptime) (hr : vccintRail s = some r)
include hm hd hs ht hr

/-- A period that is due, of a device whose VCCINT is mapped. -/
theorem avsPeriod_of_due : avsPeriod ms s =
    if s.pol 5 = 0 then
      (if s.mc.vccint = 750 ∨ (s.railOf r).cmdAt.isSome = true then avsBegun s
       else avsCommand { avsBegun s with mc := { (avsBegun s).mc with avsHigh := 0 } } r 750)
    else match leastMargin ms with
      | none => avsBegun s
      | some m =>
        let high := if 80 < m then s.mc.avsHigh + 1 else 0
        if m < 40 ∧ s.mc.vccint < 850 then avsCommand (avsNoted s m (if 10 ≤ high then 0 else high)) r (min 850 (s.mc.vccint + 10))
        else if 10 ≤ high ∧ 700 < s.mc.vccint then
          avsCommand (avsNoted s m (if 10 ≤ high then 0 else high)) r (max 700 (s.mc.vccint - 5))
        else avsNoted s m (if 10 ≤ high then 0 else high) := by
  have hm' : mcRuns (avsBegun s) = true := hm
  have hr' : vccintRail (avsBegun s) = some r := hr
  refine (if_neg (by simp only [← avsBegun.eq_def, hm']; simp [hd, hs, ht])).trans ?_
  simp only [← avsBegun.eq_def, hr']
  simp only [Bool.or_eq_true, Bool.and_eq_true, decide_eq_true_eq]
  rfl

theorem avsPeriod_of_noLoop (hp : s.pol 5 = 0) (hv : s.mc.vccint ≠ 750) (hc : (s.railOf r).cmdAt = none) :
    avsPeriod ms s = avsCommand { avsBegun s with mc := { (avsBegun s).mc with avsHigh := 0 } } r 750 := by
  rw [avsPeriod_of_due hm hd hs ht hr, if_pos hp, if_neg (by simp [hv, hc])]

theorem avsPeriod_of_noLoop_done (hp : s.pol 5 = 0) (hv : s.mc.vccint = 750) : avsPeriod ms s = avsBegun s := by
  rw [avsPeriod_of_due hm hd hs ht hr, if_pos hp, if_pos (.inl hv)]

variable {m : Int} (hp : s.pol 5 ≠ 0) (hl : leastMargin ms = some m)
include hp hl

theorem avsPeriod_of_low (h40 : m < 40) (hv : s.mc.vccint < 850) :
    avsPeriod ms s = avsCommand (avsNoted s m 0) r (min 850 (s.mc.vccint + 10)) := by
  have h80 : ¬ 80 < m := by omega
  rw [avsPeriod_of_due hm hd hs ht hr, if_neg hp, hl]
  simp [h40, hv, h80]

theorem avsPeriod_of_middle (h40 : 40 ≤ m) (h80 : m ≤ 80) : avsPeriod ms s = avsNoted s m 0 := by
  rw [avsPeriod_of_due hm hd hs ht hr, if_neg hp, hl]
  simp [Int.not_lt.mpr h40, Int.not_lt.mpr h80]

theorem avsPeriod_of_high (h80 : 80 < m) (hn : s.mc.avsHigh < 9) : avsPeriod ms s = avsNoted s m (s.mc.avsHigh + 1) := by
  have h40 : ¬ m < 40 := by omega
  have h10 : ¬ 10 ≤ s.mc.avsHigh + 1 := by omega
  rw [avsPeriod_of_due hm hd hs ht hr, if_neg hp, hl]
  simp only [h80, if_true, h40, h10, false_and, if_false]

/-- The tenth period in a row. -/
theorem avsPeriod_of_tenth (h80 : 80 < m) (hn : 9 ≤ s.mc.avsHigh) (hv : 700 < s.mc.vccint) :
    avsPeriod ms s = avsCommand (avsNoted s m 0) r (max 700 (s.mc.vccint - 5)) := by
  have h40 : ¬ m < 40 := by omega
  have h10 : 10 ≤ s.mc.avsHigh + 1 := by omega
  rw [avsPeriod_of_due hm hd hs ht hr, if_neg hp, hl]
  simp only [h80, if_true, h40, h10, false_and, if_false, hv, and_self]

end

/-! ## The margin report and the idle-band loop (R375, R376) -/

/-- A time that a report was made is not due again before its interval is over (for every interval: the kernel is not to count one out). -/
theorem getD_due_of_lt (n : Nat) {t u : Nat} (h : u < t + n) : ((some t).map fun t => decide (t + n ≤ u)).getD true = false :=
  decide_eq_false (Nat.not_le.mpr h)

section
variable {s : State}

theorem marginReport_of_enough (h : 40 ≤ s.mc.margin ∨ s.mc.vccint ≠ 850) :
    marginReport s = { s with mc := { s.mc with marginAt := none } } :=
  if_pos (by obtain h | h := h <;> simp [h])

variable (hm : s.mc.margin < 40) (hv : s.mc.vccint = 850)
include hm hv

theorem marginReport_of_due {r : Nat} (hr : vccintRail s = some r) (hrun : mcRuns s = true)
    (ht : s.mc.marginAt = none ∨ ∃ t, s.mc.marginAt = some t ∧ t + 3600000000000 ≤ s.uptime) :
    marginReport s = (({ s with mc := { s.mc with marginAt := some s.uptime } }.policy .testFail 1 r 850).post
      allDomains 0 .testFail 1 r 850) := by
  have hdue : (s.mc.marginAt.map fun t => decide (t + 3600000000000 ≤ s.uptime)).getD true = true := by
    obtain h | ⟨t, h, hle⟩ := ht
    · simp [h]
    · simp [h, hle]
  refine (if_neg (by simp [hm, hv])).trans ((if_pos (by simp [hrun, hdue])).trans ?_)
  rw [hr]
  rfl

theorem marginReport_of_recent {t : Nat} (ht : s.mc.marginAt = some t) (hlt : s.uptime < t + 3600000000000) :
    marginReport s = s := by
  have hnot : (s.mc.marginAt.map fun t => decide (t + 3600000000000 ≤ s.uptime)).getD true = false := ht ▸ getD_due_of_lt _ hlt
  exact (if_neg (by simp [hm, hv])).trans (if_neg (by simp [hnot]))

end

theorem idleBandCheck_of_due {s : State} (hm : mcRuns s = true) (hd : s.boot.done = true) (hp : s.pol 6 = 1)
    (ht : s.mc.idleAt + 1000000 ≤ s.uptime) :
    idleBandCheck s = (List.range 16).foldl idleOne { s with mc := { s.mc with idleAt := s.uptime } } :=
  if_pos (by simp [hm, hd, hp, ht])

theorem idleBandCheck_of_early {s : State} (h : s.uptime < s.mc.idleAt + 1000000 ∨ s.pol 6 ≠ 1) : idleBandCheck s = s :=
  if_neg (by obtain h | h := h <;> simp [h])

theorem idleOne_of_idle {s : State} {b : Nat} (hi : SMap.get dNat s.noc.busyAt b + 1000000 * s.pol 0x0B ≤ s.uptime)
    (ht : (SMap.get (fun _ => (0, 0)) s.mc.idleTry b).2 ≤ s.uptime) (hb : (s.pol 0x0A).testBit b = true)
    (hs : (s.bandOf b).state = .on) (hn : inTransition (s.bandOf b) = false) (hd : s.pwr.dev = none) :
    idleOne s b = (beginEntry s b 2 none).policy .ok 5 b 2 :=
  if_pos (by simp [bandIdle, hi, ht, hb, hs, hn, hd])

theorem idleOne_of_busy {s : State} {b : Nat}
    (h : s.uptime < SMap.get dNat s.noc.busyAt b + 1000000 * s.pol 0x0B ∨ (s.pol 0x0A).testBit b = false ∨
      s.uptime < (SMap.get (fun _ => (0, 0)) s.mc.idleTry b).2) : idleOne s b = s :=
  if_neg (by obtain h | h | h := h <;> simp [bandIdle, h])

/-! ## PWR_REQUEST_STATE (R414, R426) -/

section
variable {c : RunCmd} {b t : Nat} {u : State}

theorem requestBand_of_busy (h : inTransition (u.bandOf b) = true ∨ u.pwr.dev ≠ none) :
    requestBand c b t u = finish c .busy 0x17 [] [] u :=
  if_pos (by simpa [Option.isSome_iff_ne_none] using h)

variable (hn : inTransition (u.bandOf b) = false) (hd : u.pwr.dev = none)
include hn hd

theorem requestBand_of_off_to_on (h0 : t = 0) (hs : (u.bandOf b).state ≠ .on) : requestBand c b t u = requestOn c b u :=
  (if_neg (by simp [hn, hd])).trans ((if_pos h0).trans (if_neg (by simpa using hs)))

variable (h1 : 1 ≤ t)
include h1

theorem requestBand_of_on (hs : (u.bandOf b).state = .on) :
    requestBand c b t u = beginEntry (waitCmd c [] u) b t (some ⟨c.d, c.tag⟩) :=
  (if_neg (by simp [hn, hd])).trans ((if_neg (by omega)).trans (if_neg (by simp [hs])))

theorem requestBand_of_off (hs : (u.bandOf b).state ≠ .on) : requestBand c b t u = finish c .notReady 0x17 [] [] u :=
  (if_neg (by simp [hn, hd])).trans ((if_neg (by omega)).trans (if_pos (by simpa using hs)))

end

theorem requestDevice_of_ready {c : RunCmd} {t : Nat} {u : State} (h1 : 1 ≤ t) (hd : u.pwr.dev = none)
    (hn : u.pwr.bands.any (fun e => inTransition e.2) = false) (hr : u.pwr.recSet = true) :
    requestDevice c t u = beginEntry (waitCmd c [] u) devEntry (7 + t) (some ⟨c.d, c.tag⟩) :=
  (if_neg (by rw [hn]; simp [hd])).trans (if_neg (by simp [hr]; omega))

section
variable {s u : State} {d : Nat} {c : RunCmd} (hu : u = servedState s d) (hc : c = frontEntry s d)
include hu hc

theorem exec_pwrRequestState_of_other (h : served s d 0x0601 .owner) (hm : mayCommand u c (bf (pw c 0) 3 0) = false) :
    exec (.pwrRequestState d) s = .next (answered s (finish c .notOwner 0 [] [] u)) := by
  subst hu hc
  exact serve_eq h (if_pos (by simp [hm]))

theorem exec_pwrRequestState_of_band (h : served s d 0x0601 .owner) (hm : mayCommand u c (bf (pw c 0) 3 0) = true)
    (hb : bf (pw c 0) 3 0 ≠ 15) (ht : bf (pw c 0) 7 4 ≤ 3) :
    exec (.pwrRequestState d) s = .next (answered s (requestBand c (bf (pw c 0) 3 0) (bf (pw c 0) 7 4) u)) := by
  subst hu hc
  exact serve_eq h ((if_neg (by simp [hm])).trans ((if_neg hb).trans (if_neg (Nat.not_lt.mpr ht))))

theorem exec_pwrRequestState_of_device (h : served s d 0x0601 .owner) (hm : mayCommand u c (bf (pw c 0) 3 0) = true)
    (hb : bf (pw c 0) 3 0 = 15) (ht : bf (pw c 0) 7 4 ≤ 2) :
    exec (.pwrRequestState d) s = .next (answered s (requestDevice c (bf (pw c 0) 7 4) u)) := by
  subst hu hc
  exact serve_eq h ((if_neg (by simp [hm])).trans ((if_pos hb).trans (if_neg (Nat.not_lt.mpr ht))))

/-! ## PWR_SET_SENTRY and PWR_GET_ACCOUNTING (R365, R431) -/

/-- A record is clamped, and then comes into force or is refused. -/
theorem exec_pwrSetSentry_eq (h : served s d 0x0602 .lead) (hb : bufOk (pw c 0) (pw c 1) = true) (hl : pw c 1 = 152)
    {x : List Byte × List Clamp} (hx : x = recClamped (readBuf u c (pw c 0) 152)) :
    exec (.pwrSetSentry d) s = .next (answered s (
      if recBad x.1 = true then finish c .badParameter 0 x.2 [] u else finish c .ok 0x17 x.2 [] (applyRecord x.1 u))) := by
  subst hx hu hc
  exact serve_eq h (if_neg (by rw [hb, hl]; decide))

theorem exec_pwrGetAccounting_eq (h : served s d 0x0603 .any) {r : List Byte}
    (hr : r = Config.accounting u.pwr.refTotal ((List.range 6).map (SMap.get dNat u.pwr.refCnt)) u.pwr.lastRef.toNat u.pwr.delays)
    (hb : bufOk (pw c 0) r.length = true) :
    exec (.pwrGetAccounting d) s = .next (answered s
      (finish c .ok 0 [] [wd u.pwr.refTotal, u.pwr.lastRef &&& 0x1FFF0000] (writeBuf u c (pw c 0) r))) := by
  subst hr hu hc
  exact serve_eq h (if_neg (by simp [hb]))

end

/-- Settles O46: a loop by whether it is due and what it finds, a command by its parameters. -/
theorem powerControl : Obligations.PowerControl := by
  unfold Obligations.PowerControl
  refine ⟨?_, fun ms s h => done_eq (avsPeriod_of_early (s := s.start) h), fun r s hr => ⟨fun hrun hm hv ht => ?_,
      fun t hm hv ht hlt => done_eq (marginReport_of_recent (s := s.start) hm hv ht hlt),
      fun h => done_eq (marginReport_of_enough (s := s.start) h)⟩,
    fun s => ⟨fun hm hd hp ht => done_eq (idleBandCheck_of_due (s := s.start) hm hd hp ht),
      fun h => done_eq (idleBandCheck_of_early (s := s.start) h)⟩,
    fun b s => ⟨idleOne_of_idle, idleOne_of_busy⟩, ?_, ?_, fun d r c u s h hu hc hr hb => exec_pwrGetAccounting_eq hu hc h hr hb⟩
  · rintro ms r w s hm hd hs ht hr rfl
    refine ⟨fun m hp hl => ⟨fun h40 hv => ?_, fun h40 h80 => ?_, fun h80 hn => ?_, fun h80 hn hv => ?_⟩, fun hp hv hc => ?_,
      fun hp hv => ?_⟩
    · exact done_eq (avsPeriod_of_low (s := s.start) hm hd hs ht hr hp hl h40 hv)
    · exact done_eq (avsPeriod_of_middle (s := s.start) hm hd hs ht hr hp hl h40 h80)
    · exact done_eq (avsPeriod_of_high (s := s.start) hm hd hs ht hr hp hl h80 hn)
    · exact done_eq (avsPeriod_of_tenth (s := s.start) hm hd hs ht hr hp hl h80 hn hv)
    · exact done_eq (avsPeriod_of_noLoop (s := s.start) hm hd hs ht hr hp hv hc)
    · exact done_eq (avsPeriod_of_noLoop_done (s := s.start) hm hd hs ht hr hp hv)
  · exact done_eq (marginReport_of_due (s := s.start) hm hv hr hrun ht)
  · rintro d b t c u s h hu hc rfl rfl
    refine ⟨fun hm => exec_pwrRequestState_of_other hu hc h hm, fun hm hb ht hbusy => ?_, fun hm hb h1 ht hn hd hs => ?_,
      fun hm hb h1 ht hn hd hs => ?_, fun hm hb h0 hn hd hs => ?_, fun hm hb h1 ht hd hn hr => ?_⟩
    · rw [exec_pwrRequestState_of_band hu hc h hm hb ht, requestBand_of_busy hbusy]
    · rw [exec_pwrRequestState_of_band hu hc h hm hb ht, requestBand_of_on hn hd h1 hs]
    · rw [exec_pwrRequestState_of_band hu hc h hm hb ht, requestBand_of_off hn hd h1 hs]
    · rw [exec_pwrRequestState_of_band hu hc h hm hb (by omega), requestBand_of_off_to_on hn hd h0 hs]
    · rw [exec_pwrRequestState_of_device hu hc h hm hb ht, requestDevice_of_ready h1 hd hn hr]
  · rintro d x c u s h hu hc hb hl hx
    rw [exec_pwrSetSentry_eq hu hc h hb hl hx]
    exact ⟨fun hgood => by rw [if_neg (by simp [hgood])], fun hbad => by rw [if_pos hbad]⟩

end Sys2Proof.Machine
end

section
/-! PROOF. The queues of NVC, the parts of NV descriptors, the NV array by itself and the commands on NV ranges, and with them the
statements NvQueues, NvDescriptors, NvArray and NvRangeCommands. -/
namespace Sys2Proof.Machine
open Sys2Proof

/-! ## Index and enable writes (R388, R395) -/

section
variable {q : Nat} {v : Word} {s : State}

theorem qTail_of_within (h : idxFill (wf v 8 0) (s.qOf q).head ≤ 256) :
    qTail q v s = putQ s q { s.qOf q with tail := wf v 8 0, idxErr := false } := if_neg (Nat.not_lt.mpr h)

theorem qTail_of_beyond (h : 256 < idxFill (wf v 8 0) (s.qOf q).head) : qTail q v s = putQ s q { s.qOf q with idxErr := true } :=
  if_pos h

theorem cqHead_of_within (h : idxFill (s.qOf q).cqTail (wf v 8 0) ≤ idxFill (s.qOf q).cqTail (s.qOf q).cqHead) :
    cqHead q v s = putQ s q { s.qOf q with cqHead := wf v 8 0, idxErr := false } := if_neg (Nat.not_lt.mpr h)

theorem cqHead_of_beyond (h : idxFill (s.qOf q).cqTail (s.qOf q).cqHead < idxFill (s.qOf q).cqTail (wf v 8 0)) :
    cqHead q v s = putQ s q { s.qOf q with idxErr := true } := if_pos h

theorem qCtrl_of_enable (hv : wb v 31 = true) (he : (s.qOf q).enable = false) :
    qCtrl q v s = putQ s q { s.qOf q with
      enable := true, tail := 0, head := 0, cqTail := 0, cqHead := 0, stop := false, idxErr := false, status := .ok,
      held := [] } := if_pos (by simp [hv, he])

theorem qCtrl_of_other (h : wb v 31 = false ∨ (s.qOf q).enable = true) :
    qCtrl q v s = putQ s q { s.qOf q with enable := wb v 31 } := if_neg (by rcases h with h | h <;> simp [h])

end

/-- Nobody but a queue's owner writes its registers. -/
theorem indexWrites_of_foreign {acc : Accessor} {s : State} (h : qWritable acc (qSel acc s) = false) (v : Word) :
    qTailWrite acc v s = s ∧ cqHeadWrite acc v s = s ∧ queueEnable acc v s = s :=
  ⟨if_neg (by simp [h]), if_neg (by simp [h]), if_neg (by simp [h])⟩

/-! ## DESCRIPTOR_START (R391, R395) -/

/-- What the fetch of a queue's next descriptor meets. -/
def descFetched (q : Nat) (f : DmaResult) (s : State) : Status × State :=
  if q = 5 then (.ok, s)
  else blockAccess s 0x11B (qOwner q) false ((s.qOf q).base + 32 * ((s.qOf q).head % 256)) 32 f.status

/-- The bytes of a queue's next descriptor. -/
def descBytes (q : Nat) (f : DmaResult) (s : State) : List Byte :=
  if q = 5 then Memory.readN 0 s.mc.ram (0x4C000 + 32 * ((s.qOf q).head % 256)) 32 else f.data

section
variable {q : Nat} {f : DmaResult} {s : State} (hn : qNext s = some q)
include hn

theorem descriptorStart_of_failed (hf : (descFetched q f s).1 ≠ .ok) :
    descriptorStart q f s = stopQ (takeTurn (descFetched q f s).2 q) q (descFetched q f s).1 :=
  (if_neg (by simp [hn])).trans (if_pos (bne_iff_ne.mpr hf))

theorem descriptorStart_of_fetched (hf : (descFetched q f s).1 = .ok) (hl : (descBytes q f s).length = 32) {x : Desc}
    (hx : x = parseDesc (descBytes q f s)) {u v : State} (hu : u = takeTurn (descFetched q f s).2 q)
    (hv : v = putQ u q { s.qOf q with
      head := ((s.qOf q).head + 1) % 512, run := (s.qOf q).run ++ [startDesc s q x] }) :
    descriptorStart q f s = if (x.flags.testBit 1 && !(s.qOf q).run.isEmpty) || nvcHolds s (s.qOf q).base x then u
      else { v with nv := { v.nv with seq := v.nv.seq + 1 } } := by
  subst hv hu hx
  exact (if_neg (by simp [hn])).trans ((if_neg (fun h => bne_iff_ne.mp h hf)).trans (if_neg (fun h => bne_iff_ne.mp h hl)))

end

/-! ## PART_DONE (R394, R395) -/

section
variable {q tag : Nat} {wr : Status} {x : Desc} {s : State}
  (hx : (s.qOf q).run.find? (fun x => x.tag == tag && descOver x) = some x)
include hx

theorem partDone_of_stopped (hs : (s.qOf q).stop = true) :
    partDone q tag wr s = s.setQ q { s.qOf q with
      run := (s.qOf q).run.erase x, held := (s.qOf q).held ++ [descCpl s x (s.qOf q).cqTail] } := by
  unfold partDone
  simp only [hx]
  exact if_pos hs

variable (hs : (s.qOf q).stop = false) (hc : idxFill (s.qOf q).cqTail (s.qOf q).cqHead ≠ 256) {bs : List Byte}
  (hb : bs = descCpl s x (s.qOf q).cqTail) {m : Status × State}
  (hm : m = if q = 5 then (.ok, hsPut s (0xE000 + 16 * ((s.qOf q).cqTail % 256)) bs)
    else blockWrite s 0x11B (qOwner q) (cqBase s q + 16 * ((s.qOf q).cqTail % 256)) bs wr)
include hs hc hb hm

theorem partDone_of_written (hok : m.1 = .ok) {u : State}
    (hu : u = putQ m.2 q { s.qOf q with run := (s.qOf q).run.erase x, cqTail := ((s.qOf q).cqTail + 1) % 512 }) :
    partDone q tag wr s = if 1 ≤ q && q ≤ 4 then u.raiseFor [ocode (qOwner q)] 0x40074 0 1 else u := by
  subst hu hm hb
  unfold partDone
  simp only [hx]
  exact (if_neg (by simp [hs])).trans ((if_neg hc).trans (if_neg fun h => bne_iff_ne.mp h hok))

theorem partDone_of_unwritten (hbad : m.1 ≠ .ok) :
    partDone q tag wr s = stopQ (m.2.setQ q { s.qOf q with
      run := (s.qOf q).run.erase x, held := (s.qOf q).held ++ [bs] }) q m.1 := by
  subst hm hb
  unfold partDone
  simp only [hx]
  exact (if_neg (by simp [hs])).trans ((if_neg hc).trans (if_pos (bne_iff_ne.mpr hbad)))

end

/-- Settles O42: an index write by its distance, a descriptor by its fetch, a completion by its write. -/
theorem nvQueues : Obligations.NvQueues := by
  unfold Obligations.NvQueues
  refine ⟨?_, ?_, ?_, ?_, ?_, ?_, ?_, ?_, ?_, ?_,
    fun q tag wr x s hx hs => done_eq (partDone_of_stopped (s := s.start) hx hs)⟩
  · rintro acc q v s rfl hw h
    exact done_eq ((if_pos hw).trans (qTail_of_within (s := s.start) h))
  · rintro acc q v s rfl hw h
    exact done_eq ((if_pos hw).trans (qTail_of_beyond (s := s.start) h))
  · rintro acc q v s rfl hw h
    exact done_eq ((if_pos hw).trans (cqHead_of_within (s := s.start) h))
  · rintro acc q v s rfl hw hv he
    exact done_eq ((if_pos hw).trans (qCtrl_of_enable (s := s.start) hv he))
  · intro acc v s h
    obtain ⟨ht, hc, he⟩ := indexWrites_of_foreign (s := s.start) h v
    exact ⟨done_eq ht, done_eq hc, done_eq he⟩
  · rintro acc q v s rfl hw h
    exact done_eq ((if_pos hw).trans (cqHead_of_beyond (s := s.start) h))
  · rintro acc q v s rfl hw h
    exact done_eq ((if_pos hw).trans (qCtrl_of_other (s := s.start) h))
  · rintro q f bytes x m u v s hn rfl hf rfl hl hx hu hv
    exact done_eq (descriptorStart_of_fetched (s := s.start) hn hf hl hx hu hv)
  · rintro q f m s hn hq rfl hf
    have hm : descFetched q f s.start = blockAccess s.start 0x11B (qOwner q) false
        ((s.qOf q).base + 32 * ((s.qOf q).head % 256)) 32 f.status := if_neg hq
    rw [← hm] at hf ⊢
    exact done_eq (descriptorStart_of_failed (s := s.start) hn hf)
  · intro q tag wr x bs m u s hx hs hc hb hm hu
    exact ⟨fun hok => done_eq (partDone_of_written (s := s.start) hx hs hc hb hm hok hu),
      fun hbad => done_eq (partDone_of_unwritten (s := s.start) hx hs hc hb hm hbad)⟩

/-! ## Commands on NV ranges (R398, R401, R408) -/

section
variable {s u : State} {d : Nat} {c : RunCmd} (hu : u = servedState s d) (hc : c = frontEntry s d)
include hu hc

theorem exec_nvProtect_of_other (h : served s d 0x0301 .any) (ho : rangeOwner u (bf (pw c 0) 4 0) ≠ cmdOwner c) :
    exec (.nvProtect d) s = .next (answered s (finish c .notOwner 0 [] [] u)) := by
  subst hu hc
  exact serve_eq h (if_pos (bne_iff_ne.mpr ho))

theorem exec_nvProtect_of_permanent (h : served s d 0x0301 .any) (ho : rangeOwner u (bf (pw c 0) 4 0) = cmdOwner c)
    (hp : (u.rangeOf (bf (pw c 0) 4 0)).perm = true) :
    exec (.nvProtect d) s = .next (answered s (finish c .protectedRange 2 [] [] u)) := by
  subst hu hc
  exact serve_eq h ((if_neg fun h => bne_iff_ne.mp h ho).trans (if_pos hp))

theorem exec_nvProtect_of_set (h : served s d 0x0301 .any) {r first last : Nat} {g : NvRange} (hr : r = bf (pw c 0) 4 0)
    (hg : g = u.rangeOf r) (ho : rangeOwner u r = cmdOwner c) (hp : g.perm = false) (hset : (pw c 0).testBit 11 = false)
    (hf : first = bf (pw c 1) 9 0) (hl : last = bf (pw c 2) 9 0) (h256 : 256 ≤ first) (h1015 : last ≤ 1015)
    (hle : first ≤ last)
    (hfree : u.nv.ranges.any (fun e => e.1 != r && e.2.first ≤ e.2.last && e.2.first ≤ last && first ≤ e.2.last) = false) :
    exec (.nvProtect d) s = .next (answered s (finish c .ok 2 [] [] (u.setRange r { g with
      first := first, last := last, wp := (pw c 0).testBit 8, rp := (pw c 0).testBit 9, perm := (pw c 0).testBit 10,
      sess := [] }))) := by
  subst hr hg hf hl hu hc
  refine serve_eq h ((if_neg fun h => bne_iff_ne.mp h ho).trans ((if_neg (by simp [hp])).trans ((if_neg (by simp [hset])).trans
    (if_neg ?_))))
  simp only [hfree, Bool.or_false, Bool.or_eq_true, decide_eq_true_eq]
  omega

theorem exec_nvUnlock_of_locked (h : served s d 0x0302 .any) (hl : (u.rangeOf (bf (pw c 0) 4 0)).lock = true) :
    exec (.nvUnlock d) s = .next (answered s (finish c .passwordLockout 2 [] [] u)) := by
  subst hu hc
  exact serve_eq h (if_pos hl)

section
variable {r : Nat} {g : NvRange} {w : BitVec 384} (hr : r = bf (pw c 0) 4 0) (hg : g = u.rangeOf r) (hl : g.lock = false)
  (hw : g.pw = some w)
include hr hg hl hw

theorem exec_nvUnlock_of_right (h : served s d 0x0302 .any) (hp : Crypto.sha384 (password c 1) = w) :
    exec (.nvUnlock d) s = .next (answered s (finish c .ok 2 [] [] (u.setRange r { g with
      fails := 0, sess := (sessions u r).filter (· != cmdOwner c) ++ [cmdOwner c], so := rangeOwner u r }))) := by
  subst hr hg hu hc
  refine serve_eq h ((if_neg (by simp [hl])).trans ?_)
  simp only [hw]
  exact if_pos (by simp [hp])

theorem exec_nvUnlock_of_wrong (h : served s d 0x0302 .any) (hp : Crypto.sha384 (password c 1) ≠ w) :
    exec (.nvUnlock d) s = .next (answered s (finish c .protectedRange 2 [] [] (pwFail r u))) := by
  subst hr hg hu hc
  refine serve_eq h ((if_neg (by simp [hl])).trans ?_)
  simp only [hw]
  exact if_neg (by simp [hp])

theorem exec_nvSetPassword_of_right (h : served s d 0x0303 .any) (ho : rangeOwner u r = cmdOwner c)
    (hp : Crypto.sha384 (password c 1) = w) :
    exec (.nvSetPassword d) s = .next (answered s (finish c .ok 2 [] [] (u.setRange r { g with
      pw := some (Crypto.sha384 (password c 5)), fails := 0 }))) := by
  subst hr hg hu hc
  refine serve_eq h ((if_neg fun h => bne_iff_ne.mp h ho).trans ((if_neg (by simp [hl])).trans (if_pos ?_)))
  simp only [hw, hp, beq_self_eq_true]

end

theorem exec_nvRefreshScan_of_none (h : served s d 0x0304 .any) (ha : (pw c 0).testBit 0 = false)
    (hs : scanList u false (cmdOwner c) = []) :
    exec (.nvRefreshScan d) s = .next (answered s (finish c .ok 2 [] [0, 0] u)) := by
  subst hu hc
  exact serve_eq h ((if_neg (by simp [ha])).trans (if_pos (by rw [ha, hs]; rfl)))

theorem exec_nvRefreshScan_of_notLead (h : served s d 0x0304 .any) (ha : (pw c 0).testBit 0 = true)
    (hl : u.lead ≠ some c.d) : exec (.nvRefreshScan d) s = .next (answered s (finish c .notOwner 0 [] [] u)) := by
  subst hu hc
  exact serve_eq h (if_pos (Bool.and_eq_true_iff.mpr ⟨ha, bne_iff_ne.mpr hl⟩))

theorem exec_nvGrantUrgent_of_grant (h : served s d 0x0305 .lead) {q : Nat} (hq : q = bf (pw c 0) 2 0) (h0 : q ≠ 0)
    (hg : (pw c 0).testBit 8 = true) :
    exec (.nvGrantUrgent d) s = .next (answered s (finish c .ok 2 [] []
      { u with nv := { u.nv with urgent := u.nv.urgent ||| 2 ^ q } })) := by
  subst hq hu hc
  refine serve_eq h ?_
  simp only [if_neg h0, if_pos hg]

end

/-- Settles O45: each command on its row, by the checks that its parameters pass. -/
theorem nvRangeCommands : Obligations.NvRangeCommands := by
  unfold Obligations.NvRangeCommands
  exact ⟨fun d r first last g c u s h hu hc hr hg ho hp hset hf hl h256 h1015 hle hfree =>
      exec_nvProtect_of_set hu hc h hr hg ho hp hset hf hl h256 h1015 hle hfree,
    fun d c u s h hu hc ho => exec_nvProtect_of_other hu hc h ho,
    fun d c u s h hu hc ho hp => exec_nvProtect_of_permanent hu hc h ho hp,
    fun d r g w c u s h hu hc hr hg hl hw => ⟨fun hp => exec_nvUnlock_of_right hu hc hr hg hl hw h hp,
      fun hp => exec_nvUnlock_of_wrong hu hc hr hg hl hw h hp⟩,
    fun d c u s h hu hc hl => exec_nvUnlock_of_locked hu hc h hl,
    fun d r g w c u s h hu hc hr hg ho hl hw hp => exec_nvSetPassword_of_right hu hc hr hg hl hw h ho hp,
    fun d c u s h hu hc ha hs => exec_nvRefreshScan_of_none hu hc h ha hs,
    fun d c u s h hu hc ha hl => exec_nvRefreshScan_of_notLead hu hc h ha hl,
    fun d q c u s h hu hc hq h0 hg => exec_nvGrantUrgent_of_grant hu hc h hq h0 hg⟩

end Sys2Proof.Machine
end

section
/-! PROOF. The parts of NV descriptors, XIP declarations and the NV array by itself, and with them the statements NvDescriptors and
NvArray. -/
namespace Sys2Proof.Machine
open Sys2Proof

/-! ## How a part ends (R393, R401) -/

section
variable {op q tag k a : Nat} {r : PartInput} {x : Desc} {s : State} (h : partReady s op q tag k x r)
  (ha : a = (x.parts.getD k (0, 0)).1)
include h ha

/-- A part that is ready ends with what it does. -/
theorem partEvent_of_ready : partEvent op q tag k r s =
    partEnded q k x (partRun q x a r s).2.1 (partRun q x a r s).1 (partRun q x a r s).2.2 := by
  subst ha
  obtain ⟨hx, hb, hc, ho, hd⟩ := h
  unfold partEvent
  simp only [hx]
  exact if_neg (by rcases hb with hb | hb <;> simp [-List.getD_eq_getElem?_getD, hb, hc, ho, hd])

/-- A part of the operation that its bank carries out. -/
theorem partEvent_of_current (hb : bankOp s (laBank a) = some x) {st : Status} {y : Desc} {u : State}
    (hd : doPart q x a r s = (st, y, u)) : partEvent op q tag k r s = partEnded q k x y st (metSlice q x (laBank a) u) := by
  have hu : urgentPart s q x (laBank a) = false := by simp [urgentPart, hb]
  rw [partEvent_of_ready h ha, partRun, if_neg (by simp [hu]), hd]

/-- A part of an urgent read that suspends the erase of its bank. -/
theorem partEvent_of_urgent (hp : urgentPart s q x (laBank a) = true) {u : State} (hu : u = suspend s (laBank a)) :
    partEvent op q tag k r s = if erasing s (laBank a) (laSector a) then partEnded q k x x .sectorTorn u
      else partEnded q k x (doPart q x a r u).2.1 (doPart q x a r u).1 (doPart q x a r u).2.2 := by
  subst hu
  rw [partEvent_of_ready h ha, partRun, if_pos hp]
  cases erasing s (laBank a) (laSector a) <;> rfl

end

/-- Only a READ, a VERIFY and a MARGIN_READ meet a self-test slice. -/
theorem metSlice_of_write {q bank : Nat} {x : Desc} {s : State} (h : x.op ≠ 1 ∧ x.op ≠ 4 ∧ x.op ≠ 6) :
    metSlice q x bank s = s := by
  obtain ⟨h1, h4, h6⟩ := h
  exact if_neg (by simp [urgentRead, h1, h4, h6])

/-! ## What a part does (Table 13.5) -/

section
variable {q a : Nat} {x : Desc} {r : PartInput} {s : State}

theorem doPart_read (h : x.op = 1) : doPart q x a r s = if tornAt s a then (.sectorTorn, x, s) else
    ((readPart q x r (partPieces x.addr x.len a) s).1, x, (readPart q x r (partPieces x.addr x.len a) s).2) := by
  simp [doPart, targetAddr, h]

theorem doPart_program (h : x.op = 2) {ps : List (Nat × Nat)} (hps : ps = partPieces x.addr x.len a) {m w : Status × State}
    (hm : m = bufMeets q x ps r.status s)
    (hw : w = programPart (fun b n => bufRead s q (x.buf + (b - x.addr)) n r (usedBefore ps b)) r a ps m.2) :
    doPart q x a r s = if tornAt s a = true then (.sectorTorn, x, s)
      else if xipHas s (qOwner q) (laBank a) = true then (.xipLocked, x, s)
      else if m.1 = .ok then (w.1, x, w.2) else (m.1, x, m.2) := by
  rw [hw, hm, hps]
  simp only [doPart, targetAddr, h, bne_iff_ne, ite_not]
  rfl

theorem doPart_erase (h : x.op = 3) : doPart q x a r s = if xipHas s (qOwner q) (laBank a) = true then (.xipLocked, x, s)
    else ((erasePart r a s).1, x, (erasePart r a s).2) := by
  simp [doPart, h]

theorem doPart_verify (h : x.op = 4) : doPart q x a r s = (if tornAt s a then .sectorTorn else .ok, x, s) := by
  simp [doPart, h]

theorem doPart_blankCheck_of_torn (h : x.op = 5) (ht : tornAt s a = true) : doPart q x a r s = (.sectorTorn, x, s) := by
  simp [doPart, h, ht]

theorem doPart_blankCheck_of_blank (h : x.op = 5) (ht : tornAt s a = false)
    (hf : firstUsed s (partPieces x.addr x.len a) = none) : doPart q x a r s = (.ok, x, s) := by
  simp [doPart, targetAddr, h, ht, hf]

theorem doPart_blankCheck_of_used (h : x.op = 5) (ht : tornAt s a = false) {b : Nat}
    (hf : firstUsed s (partPieces x.addr x.len a) = some b) :
    doPart q x a r s = (.eraseFail, { x with failAt := min x.failAt b }, s) := by
  simp [doPart, targetAddr, h, ht, hf]

theorem doPart_marginRead (h : x.op = 6) : doPart q x a r s = if tornAt s a = true then (.sectorTorn, x, s)
    else (.ok, { x with result := x.result + wd r.differs }, s) := by
  simp [doPart, h]

theorem doPart_copy (h : x.op = 7) {ps : List (Nat × Nat)} (hps : ps = partPieces x.aux x.len a) {w : Status × State}
    (hw : w = programPart (copyData s x) r a ps s) :
    doPart q x a r s = if srcTorn s x ps = true ∨ tornAt s a = true then (.sectorTorn, x, s)
      else if xipHas s (qOwner q) (laBank a) = true then (.xipLocked, x, s) else (w.1, x, w.2) := by
  rw [hw, hps]
  simp [doPart, targetAddr, h]

end

/-! ## XIP (R402) -/

/-- A running XIP descriptor ends with what its effect leaves. -/
theorem xipEvent_of_running {op q tag : Nat} {x : Desc} {s u : State} {st : Status} {f : Desc → State → Status × State}
    (hx : (s.qOf q).run.find? (fun x => x.tag == tag && x.op == op && x.fin.isNone) = some x) (hf : f x s = (st, u)) :
    xipEvent op q tag f s = u.setQ q { u.qOf q with
      run := (u.qOf q).run.map fun z => if z == x then { x with fin := some st } else z } := by
  simp only [xipEvent, hx, hf]

/-- Settles O43: a part by its operation and by what it meets on its bank. -/
theorem nvDescriptors : Obligations.NvDescriptors := by
  unfold Obligations.NvDescriptors
  refine ⟨?_, ?_, ?_, ?_, ?_, ?_, ?_, ?_, ?_, ?_, ?_, ?_⟩
  · intro q tag k a r x s h ho ha hb
    exact ⟨fun ht => done_eq (partEvent_of_current h ha hb ((doPart_read ho).trans (if_neg (by simp [ht])))),
      fun ht => done_eq (partEvent_of_current h ha hb ((doPart_read ho).trans (if_pos ht)))⟩
  · intro q tag k a r x ps m w s h ho ha hb hps hm hw
    have hd := doPart_program (a := a) ho hps hm hw
    have hslice (u : State) : metSlice q x (laBank a) u = u := metSlice_of_write (by simp [ho])
    have hev {st : Status} {u : State} (he : doPart q x a r s.start = (st, x, u)) :
        partEvent 2 q tag k r s.start = partEnded q k x x st u :=
      (partEvent_of_current h ha hb he).trans (by rw [hslice])
    exact ⟨fun ht => done_eq (hev (hd.trans (if_pos ht))),
      fun ht hx => done_eq (hev (hd.trans ((if_neg (by simp [ht])).trans (if_pos hx)))),
      fun ht hx hm => done_eq (hev (hd.trans ((if_neg (by simp [ht])).trans ((if_neg (by simp [hx])).trans (if_neg hm))))),
      fun ht hx hm => done_eq (hev (hd.trans ((if_neg (by simp [ht])).trans ((if_neg (by simp [hx])).trans (if_pos hm)))))⟩
  · intro q tag k a r x s h ho ha hb
    have hslice (u : State) : metSlice q x (laBank a) u = u := metSlice_of_write (by simp [ho])
    refine ⟨fun hx => done_eq ?_, fun hx => done_eq ?_⟩
    · rw [partEvent_of_current h ha hb ((doPart_erase ho).trans (if_neg (by simp [hx]))), hslice]
    · rw [partEvent_of_current h ha hb ((doPart_erase ho).trans (if_pos hx)), hslice]
  · intro q tag k a r x s h ho ha hb
    exact done_eq (partEvent_of_current h ha hb (doPart_verify ho))
  · intro q tag k a r x s h ho ha hb
    have hslice (u : State) : metSlice q x (laBank a) u = u := metSlice_of_write (by simp [ho])
    refine ⟨fun ht => done_eq ?_, fun ht hf => done_eq ?_, fun b ht hf => done_eq ?_⟩
    · rw [partEvent_of_current h ha hb (doPart_blankCheck_of_torn ho ht), hslice]
    · rw [partEvent_of_current h ha hb (doPart_blankCheck_of_blank ho ht hf), hslice]
    · rw [partEvent_of_current h ha hb (doPart_blankCheck_of_used ho ht hf), hslice]
  · intro q tag k a r x s h ho ha hb
    exact ⟨fun ht => done_eq (partEvent_of_current h ha hb ((doPart_marginRead ho).trans (if_neg (by simp [ht])))),
      fun ht => done_eq (partEvent_of_current h ha hb ((doPart_marginRead ho).trans (if_pos ht)))⟩
  · intro q tag k a r x ps w s h ho ha hb hps hw
    have hd := doPart_copy (q := q) ho hps hw
    have hslice (u : State) : metSlice q x (laBank a) u = u := metSlice_of_write (by simp [ho])
    refine ⟨fun ht => done_eq ?_, fun hs ht hx => done_eq ?_, fun hs ht hx => done_eq ?_⟩
    · rw [partEvent_of_current h ha hb (hd.trans (if_pos ht)), hslice]
    · rw [partEvent_of_current h ha hb (hd.trans ((if_neg (by simp [hs, ht])).trans (if_pos hx))), hslice]
    · rw [partEvent_of_current h ha hb (hd.trans ((if_neg (by simp [hs, ht])).trans (if_neg (by simp [hx])))), hslice]
  · intro q tag k a r x u s ha hp hu
    exact ⟨fun h => done_eq (partEvent_of_urgent h ha hp hu), fun h => done_eq (partEvent_of_urgent h ha hp hu),
      fun h => done_eq (partEvent_of_urgent h ha hp hu)⟩
  · rintro q tag i x u s hx hi rfl
    exact done_eq (xipEvent_of_running (s := s.start) hx (by simp only [hi]))
  · intro q tag x s hx hi
    exact done_eq (xipEvent_of_running (s := s.start) hx (by simp only [hi]))
  · rintro q tag i x u s hx hi rfl
    exact done_eq (xipEvent_of_running (s := s.start) hx (by simp only [hi]))
  · intro q tag x s hx hi
    exact done_eq (xipEvent_of_running (s := s.start) hx (by simp only [hi]))

/-! ## Direct reads (R399–R401) -/

section
variable {s : State} {o : Owner} {g : Bool} {a len : Nat}

theorem nvDirect_of_outside (h : 0x7F000000 < a + len ∨ 0x7F000000 ≤ a) :
    nvDirect s o g a len = (.firewallDeny, nvPattern .firewallDeny a len, s) := if_pos (by simpa using h)

variable (hl : a + len ≤ 0x7F000000) (ha : a < 0x7F000000)
include hl ha

/-- A read within the store's logical space. -/
theorem nvDirect_of_within : nvDirect s o g a len =
    if mayRead s o (laSector a) = false then (.protectedRange, nvPattern .protectedRange a len, s)
    else if outOfService s 0x84 (laSector a) = true then (.busy, nvPattern .busy a len, s)
    else if bankBusy s (laBank a) = true then
      if suspends s o g (laBank a) = true then
        (if tornAt s a = true ∨ erasing s (laBank a) (laSector a) = true then
          (.sectorTorn, nvPattern .sectorTorn a len, suspend s (laBank a))
         else (.ok, nvRead s a len, suspend s (laBank a)))
      else (.busy, nvPattern .busy a len, s)
    else if tornAt s a = true then (.sectorTorn, nvPattern .sectorTorn a len, s)
    else (.ok, nvRead s a len, if g && urgentRights s o then meetSlice s 7 (laBank a) else s) := by
  refine (if_neg (by simp; omega)).trans ?_
  simp only [Bool.not_eq_true', Bool.or_eq_true]

variable (hm : mayRead s o (laSector a) = true)

theorem nvDirect_of_protected (hm : mayRead s o (laSector a) = false) :
    nvDirect s o g a len = (.protectedRange, nvPattern .protectedRange a len, s) := by
  rw [nvDirect_of_within hl ha, if_pos hm]

include hm

theorem nvDirect_of_outOfService (ho : outOfService s 0x84 (laSector a) = true) :
    nvDirect s o g a len = (.busy, nvPattern .busy a len, s) := by
  rw [nvDirect_of_within hl ha, if_neg (by simp [hm]), if_pos ho]

variable (ho : outOfService s 0x84 (laSector a) = false)
include ho

theorem nvDirect_of_busy (hb : bankBusy s (laBank a) = true) (hs : suspends s o g (laBank a) = false) :
    nvDirect s o g a len = (.busy, nvPattern .busy a len, s) := by
  rw [nvDirect_of_within hl ha, if_neg (by simp [hm]), if_neg (by simp [ho]), if_pos hb, if_neg (by simp [hs])]

theorem nvDirect_of_suspend_torn (hb : bankBusy s (laBank a) = true) (hs : suspends s o g (laBank a) = true)
    (ht : tornAt s a = true ∨ erasing s (laBank a) (laSector a) = true) :
    nvDirect s o g a len = (.sectorTorn, nvPattern .sectorTorn a len, suspend s (laBank a)) := by
  rw [nvDirect_of_within hl ha, if_neg (by simp [hm]), if_neg (by simp [ho]), if_pos hb, if_pos hs, if_pos ht]

theorem nvDirect_of_suspend (hb : bankBusy s (laBank a) = true) (hs : suspends s o g (laBank a) = true)
    (ht : tornAt s a = false) (he : erasing s (laBank a) (laSector a) = false) :
    nvDirect s o g a len = (.ok, nvRead s a len, suspend s (laBank a)) := by
  rw [nvDirect_of_within hl ha, if_neg (by simp [hm]), if_neg (by simp [ho]), if_pos hb, if_pos hs, if_neg (by simp [ht, he])]

theorem nvDirect_of_torn (hb : bankBusy s (laBank a) = false) (ht : tornAt s a = true) :
    nvDirect s o g a len = (.sectorTorn, nvPattern .sectorTorn a len, s) := by
  rw [nvDirect_of_within hl ha, if_neg (by simp [hm]), if_neg (by simp [ho]), if_neg (by simp [hb]), if_pos ht]

theorem nvDirect_of_free (hb : bankBusy s (laBank a) = false) (ht : tornAt s a = false) :
    nvDirect s o g a len = (.ok, nvRead s a len, if g && urgentRights s o then meetSlice s 7 (laBank a) else s) := by
  rw [nvDirect_of_within hl ha, if_neg (by simp [hm]), if_neg (by simp [ho]), if_neg (by simp [hb]), if_neg (by simp [ht])]

end

/-- A read on its way to the store arrives, unless the store's endpoint is muzzled. -/
theorem exec_directRead_of_arrived {p : Pkt} {s u : State} (hop : p.op = .rd) (hep : pktEp p = 0x11B) (hoff : pktOff p < 0x7F000000)
    (hf : takeFlight s.start p = some u) : exec (.directRead p) s = .next (interrupts s
      (if isMuzzled u 0x11B = true then absorb u p else directRead p u)) :=
  done_eq ((if_pos (by simp [hop, hep, hoff])).trans (by simp only [hf]))

/-! ## The gap of a bank (R403) -/

section
variable {b : Nat} {s : State} (hb : b ≤ 63)

theorem gapMove_of_notDue (h : (s.bankOf b).due = false ∨ nvcDevHeld s = true ∨ (s.bankOf b).busy ≠ .idle ∨
    (s.bankOf b).started.contains (slotPhys (s.bankOf b) (s.bankOf b).g) = true) : gapMove b s = s :=
  if_pos (by
    simp only [Bool.or_eq_true, Bool.not_eq_true', bne_iff_ne]
    tauto)

theorem gapCopyDone_of_notCopy (h : (s.bankOf b).busy ≠ .copy) : gapCopyDone b s = s := if_pos (by simp [h])

theorem gapEraseDone_of_notErase (h : (s.bankOf b).busy ≠ .gapErase) : gapEraseDone b s = s := if_pos (by simp [h])

include hb

theorem gapMove_of_due (hd : (s.bankOf b).due = true) (hn : nvcDevHeld s = false) (hi : (s.bankOf b).busy = .idle)
    (hs : (s.bankOf b).started.contains (slotPhys (s.bankOf b) (s.bankOf b).g) = false) :
    gapMove b s = s.setBank b { s.bankOf b with
      busy := .copy, due := false, copyRef := false,
      copySlot := if (s.bankOf b).g = 0 then 1016 else (s.bankOf b).g - 1 } :=
  if_neg (by
    simp only [Bool.or_eq_true, Bool.not_eq_true', bne_iff_ne, decide_eq_true_eq, hd, hn, hi, hs]
    simp only [reduceCtorEq, ne_eq, not_true_eq_false, or_false]
    omega)

theorem gapCopyDone_of_copy (hc : (s.bankOf b).busy = .copy) {g : Bank} (hg : g = s.bankOf b) {src dst : Nat}
    (hsrc : src = slotPhys g g.copySlot) (hdst : dst = slotPhys g g.g) :
    gapCopyDone b s = (copySector s b src dst).setBank b (
      if g.copyRef then { g with
        busy := .gapErase, gapSec := src,
        ring := SMap.set (fun r => r) (SMap.set (fun r => r) g.ring g.copySlot dst) g.g src }
      else if g.g = 0 then { g with busy := .gapErase, gapSec := src, g := 1016, s := (g.s + 1) % 1016 }
      else { g with busy := .gapErase, gapSec := src, g := g.g - 1 }) := by
  rw [hdst, hsrc, hg]
  exact if_neg (by simp [hc, hb])

theorem gapEraseDone_of_erase (hc : (s.bankOf b).busy = .gapErase) :
    gapEraseDone b s = nvErasePhys (s.setBank b { s.bankOf b with
      busy := .idle, erases := min 0xFFFFFFFF ((s.bankOf b).erases + 1),
      cnt := SMap.set dNat (s.bankOf b).cnt (s.bankOf b).gapSec (SMap.get dNat (s.bankOf b).cnt (s.bankOf b).gapSec + 1),
      started := (s.bankOf b).started.erase (s.bankOf b).gapSec }) b (s.bankOf b).gapSec :=
  if_neg (by simp [hc, hb])

end

/-! ## Torn sectors and retention refresh (R376, R406, R408) -/

theorem tornScanDone_of_due {s : State} (hd : s.boot.done = true) (hs : s.nv.scanDone = false) {found : List (Nat × Nat × Nat)}
    (hf : found = (List.range 64).flatMap (fun b => (tornIn s b).map fun x => (b, x))) :
    tornScanDone s = found.foldl (fun u e => tornOne e.1 u e.2) { s with nv := { s.nv with
      scanDone := true, torn := found.map fun e => (e.1, e.2.1), tornN := found.length } } := by
  rw [hf]
  exact if_neg (by simp [hd, hs])

theorem tornScanDone_of_notDue {s : State} (h : s.boot.done = false ∨ s.nv.scanDone = true) : tornScanDone s = s :=
  if_pos (by rcases h with h | h <;> simp [h])

/-- The state once a margin-read has decided whether to rewrite its sector. -/
def refreshBegun (b p slot : Nat) (rew : Bool) (s : State) : State :=
  if rew then
    State.policy { s.setBank b { s.bankOf b with busy := .copy, copyRef := true, copySlot := slot } with
      nv := { (s.setBank b { s.bankOf b with busy := .copy, copyRef := true, copySlot := slot }).nv with
        rewrit := s.nv.rewrit + 1 } } .ok 3 b p
  else s

section
variable {b p : Nat} {differs : Bool} {s : State}

theorem nvRefreshStep_of_notReadable (h : bankState s b ≠ 0 ∨ holdsData s b p = false) : nvRefreshStep b p differs s = s := by
  unfold nvRefreshStep
  dsimp only
  exact if_pos (by rcases h with h | h <;> simp [h])

theorem nvRefreshStep_of_readable (hb : b ≤ 63) (hp : p ≤ 1023) {loop : Bool}
    (hl : loop = (decide (s.pol 7 = 1) && mcRuns s && refreshAt s b == some p))
    (hw : loop = true ∨ s.nv.scans.any (fun x => x.left.contains (b, p)) = true) (hi : bankState s b = 0)
    (hd : holdsData s b p = true) (hs : (s.bankOf b).started.contains p = false) {slot : Nat}
    (hslot : slotOf (s.bankOf b) p = some slot) {rew : Bool}
    (hr : rew = (differs && !nvcDevHeld s && slot != (s.bankOf b).g &&
      !(s.bankOf b).started.contains (slotPhys (s.bankOf b) (s.bankOf b).g))) {u v : State} (hu : u = refreshBegun b p slot rew s)
    (hv : v = s.nv.scans.foldl (scanRead b p rew)
      { u with nv := { u.nv with readAt := SMap.set dNat u.nv.readAt (b * 1024 + p) s.pwr.rtc } }) :
    nvRefreshStep b p differs s = if loop then refreshNext b p v else v := by
  have hw' : (loop || s.nv.scans.any fun x => x.left.contains (b, p)) = true := by simpa using hw
  unfold nvRefreshStep
  dsimp only
  rw [← hl]
  refine (if_neg ?_).trans ?_
  · simp only [hw', hi, hd, hs, Bool.or_eq_true, decide_eq_true_eq]
    simp only [bne_self_eq_false, Bool.not_true, Bool.false_eq_true, or_false]
    omega
  · rw [hv, hu]
    simp only [hslot, ← hr]
    cases rew <;> rfl

theorem nvRefreshOverdue_of_due (hl : s.pol 7 = 1) (hb : b < 64) (hp : p < 1024) (hd : holdsData s b p = true)
    (ht : SMap.get dNat s.nv.readAt (b * 1024 + p) + 2831155200 * (s.pol 0x0C + 1) ≤ s.pwr.rtc) :
    nvRefreshOverdue b p s =
      (({ s with mc := { s.mc with refOver := true } }).policy .timeout 3 b p).post allDomains 0 .timeout 3 b p :=
  if_pos (by simp only [hl, hb, hp, hd, ht, decide_true, Bool.and_self])

theorem nvRefreshOverdue_of_notDue (h : s.pol 7 ≠ 1 ∨ holdsData s b p = false ∨
    s.pwr.rtc < SMap.get dNat s.nv.readAt (b * 1024 + p) + 2831155200 * (s.pol 0x0C + 1)) : nvRefreshOverdue b p s = s :=
  if_neg (by
    simp only [Bool.and_eq_true, decide_eq_true_eq]
    rintro ⟨⟨⟨⟨hl, -⟩, -⟩, hd⟩, ht⟩
    rcases h with h | h | h
    · exact h hl
    · simp [hd] at h
    · exact absurd ht (Nat.not_le.mpr h))

end

/-- Settles O44: each event by whether it is due, a direct read by the first check that it meets. -/
theorem nvArray : Obligations.NvArray := by
  unfold Obligations.NvArray
  refine ⟨fun p u s hop hep hoff hf => ⟨fun hm => ?_, fun hm => ?_⟩, ?_,
    fun b s hb hd hn hi hs => done_eq (gapMove_of_due (s := s.start) hb hd hn hi hs),
    fun b s h => done_eq (gapMove_of_notDue (s := s.start) h), ?_,
    fun b s h => done_eq (gapCopyDone_of_notCopy (s := s.start) h),
    fun b s hb hc => done_eq (gapEraseDone_of_erase (s := s.start) hb hc),
    fun b s h => done_eq (gapEraseDone_of_notErase (s := s.start) h), ?_,
    fun s h => done_eq (tornScanDone_of_notDue (s := s.start) h), ?_,
    fun b p differs s h => done_eq (nvRefreshStep_of_notReadable (s := s.start) h),
    fun b p s hl hb hp hd ht => done_eq (nvRefreshOverdue_of_due (s := s.start) hl hb hp hd ht),
    fun b p s h => done_eq (nvRefreshOverdue_of_notDue (s := s.start) h)⟩
  · rw [exec_directRead_of_arrived hop hep hoff hf, if_neg (by simp [hm])]
    rfl
  · rw [exec_directRead_of_arrived hop hep hoff hf, if_pos hm]
  · rintro s o g a len b sec rfl rfl
    exact ⟨nvDirect_of_outside, fun hl ha => ⟨nvDirect_of_protected hl ha, nvDirect_of_outOfService hl ha,
      nvDirect_of_busy hl ha, nvDirect_of_suspend_torn hl ha, nvDirect_of_suspend hl ha, nvDirect_of_torn hl ha,
      nvDirect_of_free hl ha⟩⟩
  · rintro b src dst g s hb rfl hc hsrc hdst
    exact done_eq (gapCopyDone_of_copy (s := s.start) hb hc rfl hsrc hdst)
  · rintro found u s hd hs hf rfl
    exact done_eq (tornScanDone_of_due (s := s.start) hd hs hf)
  · rintro b p slot differs loop rew g u v s hb hp rfl hl hw hi hd hs hslot hr hu hv
    exact done_eq (nvRefreshStep_of_readable (s := s.start) hb hp hl hw hi hd hs hslot hr hu hv)

end Sys2Proof.Machine
end

section
/-! PROOF. Entries into and exits from the power states, device sleep and its wake, the RTC, the PMBus master and the kennel, and with
them the statements BandPower and PowerUnits. -/
namespace Sys2Proof.Machine
open Sys2Proof

/-! ## Votes (R415–R417) -/

section
variable {b v : Nat} {e : Entry} {s : State} (he : entryOf s b = some e)
include he

section
variable (hv : e.undec.contains v = true)
include hv

theorem voteAnswer_refuse {r : Nat} (hh : voteHolds s b e v (.refuse r) = true) :
    voteAnswer b v (.refuse r) s = refuse s b v r := by
  simp only [voteAnswer, answer, he, hh, hv, Bool.not_true, Bool.false_eq_true, if_true, if_false]

theorem voteAnswer_delay (hh : voteHolds s b e v .delay = true) :
    voteAnswer b v .delay s = setEntry s b (some { e with delayed := true }) := by
  simp only [voteAnswer, answer, he, hh, hv, Bool.not_true, Bool.false_eq_true, if_true, if_false]

theorem voteAnswer_accept (hh : voteHolds s b e v .accept = true) {f : Entry} (hf : f = { e with undec := e.undec.erase v }) :
    voteAnswer b v .accept s =
      if f.undec.isEmpty = true then accepted (setEntry s b (some f)) b f else setEntry s b (some f) := by
  simp only [voteAnswer, answer, he, hh, hv, hf, Bool.not_true, Bool.false_eq_true, if_true, if_false]

end

theorem voteTimeout_of_late {w : Nat × Nat} (hw : lateVoter e.undec = some w) :
    voteTimeout b s = if s.uptime < e.t + 1000000 then s else refuse s b w.1 w.2 := by
  simp only [voteTimeout, he, hw]

end

/-- When a stay-awake port of an entry may next be read (R417). -/
def sampleDue (e : Entry) (b : Nat) : Nat := (e.sampled.find? fun x => x.1 == b).elim (e.t + 2000) fun x => x.2 + 1000

section
variable {b k : Nat} {e : Entry} {s : State} (hk : k = portEntry s b) (he : entryOf s k = some e)
include hk he

theorem userSample_of_early (hd : s.uptime < sampleDue e b) (stay wait : Bool) : userSample b stay wait s = s := by
  subst hk
  unfold userSample
  simp only [he]
  exact if_pos (Bool.or_eq_true_iff.mpr (.inr (decide_eq_true hd)))

theorem userSample_of_due (ho : portOpen e b = true) (hd : sampleDue e b ≤ s.uptime) {f : Entry}
    (hf : f = { e with ports := e.ports.erase b }) (stay wait : Bool) : userSample b stay wait s =
    if stay = true then refuse s k 0x12 0x0B
    else if wait = true then
      setEntry s k (some { e with delayed := true, sampled := (b, s.uptime) :: e.sampled.filter fun x => x.1 != b })
    else if f.ports.isEmpty = true then answer (setEntry s k (some f)) k 0x12 .accept else setEntry s k (some f) := by
  subst hf hk
  have hnot : ¬ (!portOpen e b || decide (s.uptime < sampleDue e b)) = true := by simp [ho, hd]
  unfold userSample
  simp only [he]
  exact if_neg hnot

theorem stayAwakeRise_of_accepted (ho : portOpen e b = false) (ha : portAwake s b = true) :
    stayAwakeRise b s = refuse s k 0x12 0x0B := by
  subst hk
  simp [stayAwakeRise, he, ho, ha]

end

/-! ## Leaving a band state (R420–R423) -/

section
variable {b : Nat} {g : BandP} {s : State} (hg : g = s.bandOf b)
include hg

theorem wakeBand_of_doze (hs : g.state = .doze) : wakeBand s b = bandOn (s.setBand b { g with woken := s.uptime }) b := by
  subst hg
  simp only [wakeBand, hs]

theorem wakeBand_of_off (hs : g.state = .nap ∨ g.state = .off) (hw : g.waking = false) (hh : g.held = false) :
    wakeBand s b = s.setBand b { g with waking := true, woken := s.uptime } := by
  subst hg
  rcases hs with hs | hs <;> simp [wakeBand, hs, hw, hh]

section
variable (hw : g.waking = true) (hgood : g.good = false)
include hw hgood

theorem bandPowerGood_of_nap (hs : g.state = .nap) : bandPowerGood b s = bandOn (restoreBand s b) b := by
  subst hg
  simp [bandPowerGood, hs, hw, hgood]

theorem bandPowerGood_of_off (hs : g.state = .off) : bandPowerGood b s = s.setBand b { g with good := true } := by
  subst hg
  simp [bandPowerGood, hs, hw, hgood]

end

section
variable (hgood : g.good = true) (hs : g.state = .off) {r : Status} {i : Nat} {u : Status × State} (hu : u = offReload s b r i)
include hgood hs hu

theorem offReloadDone_of_ok (hok : u.1 = .ok) : offReloadDone b r i s =
    bandOn (emptyAfterOff (ramFabric (initBand ((State.refresh
      { u.2 with cfg := { u.2.cfg with held := u.2.cfg.held.filter fun e => keyBand e.1 != b } }).setBand b
      { g with status := .ok }) b) (fun k _ => k == b)) b) b := by
  subst hu hg
  exact (if_neg (by simp [hgood, hs])).trans (if_pos (by simp [hok]))

theorem offReloadDone_of_failed (hbad : u.1 ≠ .ok) : offReloadDone b r i s = holdBand (loseFrames u.2 b) b u.1 := by
  subst hu hg
  exact (if_neg (by simp [hgood, hs])).trans (if_neg (by simp [hbad]))

end
end

/-! ## Device sleep and its wake (R427, R431, R432, R485) -/

section
variable {s : State} {e : Entry}

theorem rtcTick_of_awake (hd : s.pwr.dev = none) : rtcTick s = rtcCount s := by
  have hd' : (rtcCount s).pwr.dev = none := hd
  simp only [rtcTick, hd']

variable (hd : s.pwr.dev = some e)
include hd

theorem rtcTick_of_voting (hp : e.past = false) : rtcTick s = rtcCount s := by
  have hd' : (rtcCount s).pwr.dev = some e := hd
  simp [rtcTick, hd', hp]

theorem rtcTick_of_past (hp : e.past = true) (hq : (List.range 16).any (packetsFor (rtcCount s)) = false) :
    rtcTick s = sleepNow e (rtcCount s) := by
  have hd' : (rtcCount s).pwr.dev = some e := hd
  unfold rtcTick
  simp only [hd']
  exact (if_neg (by simp [hp])).trans (if_neg (by simp only [hq, Bool.false_eq_true, not_false_eq_true]))

end

section
variable {n : Nat} {s : State} {w : Bool}

theorem wakeEvent_of_pin (hn : n ≤ 7) (he : (wakeCfg s).testBit n = true) (hw : (w && !(wakeCfg s).testBit (16 + n)) = false) :
    wakeEvent 1 n w s = wakeBy 1 n 0xF (pinEvent s n) :=
  (if_neg (Nat.not_lt.mpr hn)).trans (if_neg (by rw [he, hw]; decide))

theorem wakeEvent_of_alarm (he : (wakeCfg s).testBit 28 = true) (ha : recWord s.pwr.record 0x94 ≤ rtcSec s) :
    wakeEvent 2 n w s = wakeBy 2 0 0xF s := if_pos (by simp [he, ha])

theorem wakeEvent_of_perst (hn : n ≤ 3) (he : (wakeCfg s).testBit (24 + n) = true) :
    wakeEvent 3 n false s = wakeBy 3 n 0xF (perstEvent s n) :=
  (if_neg (Nat.not_lt.mpr hn)).trans (if_neg (by rw [he]; decide))

theorem wakeBy_of_asleep {cause mon : Nat} (hl : s.pwr.latched = none) (ha : asleep s = true) :
    wakeBy cause n mon s = startWake { s with pwr := { s.pwr with
      latched := some (cause, n), wakeC := wakeWord cause n mon } } :=
  (if_neg (by simp [hl, ha])).trans (if_pos ha)

end

section
variable {x : BitVec 128} {cs : List (Nat × Nat)} {s : State}

theorem sentrySample_of_early (ht : s.pwr.rtc < s.pwr.sampleAt + recWord s.pwr.record 0x48) : sentrySample x cs s = s :=
  if_pos (by simp [ht])

variable (ha : s.pwr.armed = true) (hp : s.boot.phase = .sentry) (hl : s.pwr.latched = none)
  (ht : s.pwr.sampleAt + recWord s.pwr.record 0x48 ≤ s.pwr.rtc) (hm : sentryMon s.pwr.record cs = none)
include ha hp hl ht hm

theorem sentrySample_of_match
    (hx : ((x ^^^ BitVec.ofNat 128 (leAt s.pwr.record 0x50 16)) &&& sentryCare s.pwr.record) = 0) :
    sentrySample x cs s = { s with pwr := { s.pwr with
      mism := 0, samples := sat 0xFFFF s.pwr.samples, sampleAt := s.pwr.rtc } } := by
  refine (if_neg (by simp [ha, hp, hl, ht])).trans ?_
  simp only [hx, hm, bne_self_eq_false, Option.isSome_none, Bool.or_self, Bool.false_eq_true, if_false, Bool.false_and]

theorem sentrySample_of_mismatch
    (hx : ((x ^^^ BitVec.ofNat 128 (leAt s.pwr.record 0x50 16)) &&& sentryCare s.pwr.record) ≠ 0)
    (hn : bf (recWord s.pwr.record 0x4C) 23 16 ≤ s.pwr.mism + 1) :
    sentrySample x cs s = wakeBy 4 0 0xF { s with pwr := { s.pwr with
      mism := s.pwr.mism + 1, samples := sat 0xFFFF s.pwr.samples, sampleAt := s.pwr.rtc, waking := x } } := by
  refine (if_neg (by simp [ha, hp, hl, ht])).trans ?_
  simp only [bne_iff_ne.mpr hx, hm, Bool.true_or, if_true, decide_eq_true hn, Option.getD_none]
  exact if_pos (by simp)

end

section
variable {rail : Nat} {s : State} (ha : asleep s = true) (hl : s.pwr.latched.isSome = true)
include ha hl

theorem wakeRetry_of_attempt {t : Nat} (ho : s.pwr.opAt = some t) : wakeRetry rail s =
    if s.uptime < t + 100000000 then s
    else railsOff { s with pwr := { s.pwr with
      wakeTry := s.pwr.wakeTry ++ [rail % 8], opAt := none, offAt := s.uptime } } fun _ => true := by
  refine (if_neg (by simp [ha, hl])).trans ?_
  simp only [ho]

theorem wakeRetry_of_pause (ho : s.pwr.opAt = none) : wakeRetry rail s =
    if s.uptime < s.pwr.offAt + 1000000000 then s else railsOn { s with pwr := { s.pwr with opAt := some s.uptime } } := by
  refine (if_neg (by simp [ha, hl])).trans ?_
  simp only [ho]

end

/-- Settles O47: a vote by its answer, an exit by the state it leaves, a wake by its cause and its instants. -/
theorem bandPower : Obligations.BandPower := by
  unfold Obligations.BandPower
  refine ⟨fun b v r e s he hv hh => done_eq (voteAnswer_refuse he hv hh), fun b v e s he hv hh => done_eq (voteAnswer_delay he hv hh),
    ?_, ?_, ?_, ?_, ?_, ?_, ?_, ?_, ?_, fun n w s hn he hw => done_eq (wakeEvent_of_pin (s := s.start) hn he hw),
    fun n w s he ha => done_eq (wakeEvent_of_alarm (s := s.start) he ha),
    fun n s hn he => done_eq (wakeEvent_of_perst (s := s.start) hn he), fun cause n mon u hl ha => wakeBy_of_asleep hl ha, ?_,
    fun x cs s ht => done_eq (sentrySample_of_early (s := s.start) ht), ?_⟩
  · intro b v e f s he hv hh hf
    have hans := voteAnswer_accept he hv hh hf
    refine ⟨fun hu => ?_, fun hu hb => ?_, fun hu hb => ?_⟩
    · exact done_eq (hans.trans (if_neg (by simp [hu])))
    · exact done_eq (hans.trans ((if_pos (by simp [hu])).trans (if_neg hb)))
    · exact done_eq (hans.trans ((if_pos (by simp [hu])).trans (if_pos hb)))
  · intro b e w s he hw
    exact ⟨fun ht => done_eq ((voteTimeout_of_late he hw).trans (if_neg (Nat.not_lt.mpr ht))),
      fun ht => done_eq ((voteTimeout_of_late he hw).trans (if_pos ht))⟩
  · rintro b k due e s hk he ho rfl
    refine ⟨fun hd => ⟨fun wait => ?_, ?_⟩, fun hd stay wait => done_eq (userSample_of_early hk he hd stay wait)⟩
    · exact done_eq ((userSample_of_due hk he ho hd rfl true wait).trans (if_pos rfl))
    · exact done_eq ((userSample_of_due hk he ho hd rfl false true).trans ((if_neg Bool.false_ne_true).trans (if_pos rfl)))
  · intro b k e f s hk he ho hd hf
    have hus := (userSample_of_due hk he ho hd hf false false).trans
      ((if_neg Bool.false_ne_true).trans (if_neg Bool.false_ne_true))
    exact ⟨fun hp => done_eq (hus.trans (if_neg (by simp [hp]))), fun hp => done_eq (hus.trans (if_pos (by simp [hp])))⟩
  · intro b k e s hk he ho ha
    exact done_eq (stayAwakeRise_of_accepted hk he ho ha)
  · intro b g s hb hw hg
    have hwake : bandWake b s.start = wakeBand s.start b := if_pos (by simpa [hb] using hw)
    exact ⟨fun hs => done_eq (hwake.trans (wakeBand_of_doze hg hs)),
      fun hs hwk hh => done_eq (hwake.trans (wakeBand_of_off hg hs hwk hh))⟩
  · intro b g s hg hw hgood
    exact ⟨fun hs => done_eq (bandPowerGood_of_nap (s := s.start) hg hw hgood hs),
      fun hs => done_eq (bandPowerGood_of_off (s := s.start) hg hw hgood hs)⟩
  · intro b i r g u s hg hgood hs hu
    exact ⟨fun hok => done_eq (offReloadDone_of_ok (s := s.start) hg hgood hs hu hok),
      fun hbad => done_eq (offReloadDone_of_failed (s := s.start) hg hgood hs hu hbad)⟩
  · rintro u s rfl
    exact ⟨fun hd => done_eq (rtcTick_of_awake (s := s.start) hd), fun e hd hp => done_eq (rtcTick_of_voting (s := s.start) hd hp),
      fun e hd hp hq => done_eq (rtcTick_of_past (s := s.start) hd hp hq)⟩
  · intro x cs s ha hp hl ht hm
    exact ⟨fun hx => done_eq (sentrySample_of_match (s := s.start) ha hp hl ht hm hx),
      fun hx hn => done_eq (sentrySample_of_mismatch (s := s.start) ha hp hl ht hm hx hn)⟩
  · intro rail s ha hl
    have hat {t : Nat} (ho : s.pwr.opAt = some t) := wakeRetry_of_attempt (rail := rail) (s := s.start) ha hl ho
    have hpause (ho : s.pwr.opAt = none) := wakeRetry_of_pause (rail := rail) (s := s.start) ha hl ho
    refine ⟨fun t ho ht => ?_, fun ho ht => ?_, ?_⟩
    · exact done_eq ((hat ho).trans (if_neg (Nat.not_lt.mpr ht)))
    · exact done_eq ((hpause ho).trans (if_neg (Nat.not_lt.mpr ht)))
    · rintro (⟨t, ho, ht⟩ | ⟨ho, ht⟩)
      · exact done_eq ((hat ho).trans (if_pos ht))
      · exact done_eq ((hpause ho).trans (if_pos ht))

end Sys2Proof.Machine
end

section
/-! PROOF. The RTC, the PMBus master and the kennel scratch, and with them the statement PowerUnits. -/
namespace Sys2Proof.Machine
open Sys2Proof

/-! ## PMBus (R434–R436) -/

section
variable {x : RailRead} {s u : State}

theorem pmbusPoll_of_early (xs : List RailRead) (ht : s.uptime < s.pwr.pollAt + 100000000) : pmbusPoll xs s = s :=
  if_pos (by simp [ht])

variable (hu : u = { s with pwr := { s.pwr with pollAt := s.uptime } }) (hr : pmbRuns s = true)
  (ht : s.pwr.pollAt + 100000000 ≤ s.uptime)
include hu hr ht

/-- A poll of one rail. -/
theorem pmbusPoll_single : pmbusPoll [x] s =
    if mapped s x.rail = true then
      if (x.pecBad && railPec s x.rail) = true then pecFail u
      else lastXact (u.setRail x.rail { s.railOf x.rail with iout := x.iout % 65536, temp := x.temp }) x.rail 0x8D .ok
    else u := by
  subst hu
  exact if_neg (by simp [hr, ht])

end

section
variable {rail mv : Nat} {pb : Bool} {s : State}

theorem readVoutPoll_of_early (ht : s.uptime < (s.railOf rail).xactAt + 100000) : readVoutPoll rail mv pb s = s :=
  if_pos (by simp [ht])

variable {g : Rail} (hg : g = s.railOf rail) (hm : mapped s rail = true) (hc : g.cmdAt.isSome = true) (hr : pmbRuns s = true)
  (ht : g.xactAt + 100000 ≤ s.uptime)
include hg hm hc hr ht

theorem readVoutPoll_of_badPec (hp : (pb && railPec s rail) = true) :
    readVoutPoll rail mv pb s = pecFail (s.setRail rail { g with xactAt := s.uptime }) := by
  subst hg
  have hc' : (s.railOf rail).cmdAt.isNone = false := by simpa [← Option.not_isSome] using hc
  exact (if_neg (by simp [hm, hr, ht, hc'])).trans (if_pos hp)

theorem readVoutPoll_of_read (hp : (pb && railPec s rail) = false) : readVoutPoll rail mv pb s =
    let u := lastXact (s.setRail rail { g with
      rd := mv % 65536, cmdAt := if within1 mv g.vout = true then none else g.cmdAt }) rail 0x8B .ok
    if within1 mv g.vout = true ∧ railByte g.cfg 1 = 1 then { u with mc := { u.mc with vccint := g.vout } } else u := by
  subst hg
  have hc' : (s.railOf rail).cmdAt.isNone = false := by simpa [← Option.not_isSome] using hc
  refine (if_neg (by simp [hm, hr, ht, hc'])).trans ((if_neg (by simp only [hp, Bool.false_eq_true, not_false_eq_true])).trans ?_)
  simp only [Bool.and_eq_true, decide_eq_true_eq]

theorem readVoutPoll_of_good (hp : (pb && railPec s rail) = false) (hw : within1 mv g.vout = true) {u : State}
    (hu : u = lastXact (s.setRail rail { g with rd := mv % 65536, cmdAt := none }) rail 0x8B .ok) :
    readVoutPoll rail mv pb s = if railByte g.cfg 1 = 1 then { u with mc := { u.mc with vccint := g.vout } } else u := by
  rw [readVoutPoll_of_read hg hm hc hr ht hp, hu]
  simp only [hw, if_true, true_and]

theorem readVoutPoll_of_off (hp : (pb && railPec s rail) = false) (hw : within1 mv g.vout = false) :
    readVoutPoll rail mv pb s = lastXact (s.setRail rail { g with rd := mv % 65536 }) rail 0x8B .ok := by
  rw [readVoutPoll_of_read hg hm hc hr ht hp]
  simp only [hw, Bool.false_eq_true, if_false, false_and]

end

/-- A command given at t is due n later, or is not. -/
theorem any_due (n t v : Nat) : ((some t).any fun t => decide (t + n ≤ v)) = decide (t + n ≤ v) := rfl

section
variable {rail t : Nat} {s : State} (hm : mapped s rail = true) (hr : pmbRuns s = true)
include hm hr

theorem voutTimeout_of_command (hc : (s.railOf rail).cmdAt = some t) : voutTimeout rail s =
    if t + 5000000 ≤ s.uptime then avsFail ((lastXact s rail 0x8B .voutMismatch).raiseAll 0xE002C 0 2) rail .voutMismatch
    else s := by
  unfold voutTimeout
  rw [hm, hr, hc, any_due 5000000]
  by_cases h : t + 5000000 ≤ s.uptime
  · rw [if_neg (by simp [h]), if_pos h]
  · rw [if_pos (by simp [h]), if_neg h]

/-- The retry of a VOUT_COMMAND that was not acknowledged. -/
theorem pmbusRetry_of_command (hc : (s.railOf rail).cmdAt.isSome = true) (ht : (s.railOf rail).xactAt + 100000 ≤ s.uptime)
    {u v : State} (hu : u = { s with pwr := { s.pwr with nacks := sat 0xFFFF s.pwr.nacks } })
    (hv : v = { s with pwr := { s.pwr with nacks := sat 0xFFFF (sat 0xFFFF s.pwr.nacks) } }) (acked : Bool) :
    pmbusRetry rail acked s = if acked = true then lastXact u rail 0x21 .ok
      else avsFail ((lastXact v rail 0x21 .pmbusNack).raiseAll 0xE002C 0 1) rail .pmbusNack := by
  subst hu hv
  refine (if_neg (by simp [hm, hr, ht])).trans ?_
  simp only [hc, if_true]

end

theorem pmbusRetry_of_early {rail : Nat} {s : State} (ht : s.uptime < (s.railOf rail).xactAt + 100000) (acked : Bool) :
    pmbusRetry rail acked s = s := if_pos (by simp [ht])

/-! ## The kennel scratch (R438) -/

section
variable {acc : Accessor} {a : Nat} {s : State} (ha : a = wf (s.copy (acode acc) 0xD0010 0) 20 0)
include ha

theorem kennelAccess_of_mine (hm : kennelMine acc (a / 65536) = true) :
    (∀ v, kennelAccess acc (some v) s = (wd (leNat (Memory.readN 0 s.pwr.kennel a 4)),
      ({ s with pwr := { s.pwr with kennel := Memory.writeN 0 s.pwr.kennel a (leBytes 4 v.toNat) } } : State).setCopy
        (acode acc) 0xD0010 0 (wd ((a + 4) % 0x200000)))) ∧
    kennelAccess acc none s = (wd (leNat (Memory.readN 0 s.pwr.kennel a 4)),
      s.setCopy (acode acc) 0xD0010 0 (wd ((a + 4) % 0x200000))) := by
  subst ha
  simp only [kennelAccess, hm, if_true, implies_true, and_self]

theorem kennelAccess_of_other (hm : kennelMine acc (a / 65536) = false) (wr : Option Word) :
    kennelAccess acc wr s = (0, s.setCopy (acode acc) 0xD0010 0 (wd ((a + 4) % 0x200000))) := by
  subst ha
  cases wr <;> simp only [kennelAccess, hm, Bool.false_eq_true, if_false]

end

/-- Settles O48: an access by whether it is due and what the rail answers, the kennel by whose bank it is. -/
theorem powerUnits : Obligations.PowerUnits := by
  unfold Obligations.PowerUnits
  refine ⟨fun s => ⟨fun h => done_eq (if_neg (Nat.not_lt.mpr h)), fun h => done_eq (if_pos h)⟩, fun acc s => rfl, ?_,
    fun xs s ht => done_eq (pmbusPoll_of_early (s := s.start) xs ht), ?_,
    fun rail mv pb s ht => done_eq (readVoutPoll_of_early (s := s.start) ht), ?_, ?_,
    fun rail a s ht => done_eq (pmbusRetry_of_early (s := s.start) ht a), fun ws bad s hr => done_eq (if_neg ?_), ?_, ?_⟩
  · intro x u s hu hr ht
    have hpoll := pmbusPoll_single (x := x) (s := s.start) hu hr ht
    refine ⟨fun hm hp => ?_, fun hm hp => ?_, fun hm => ?_⟩
    · exact done_eq (hpoll.trans ((if_pos hm).trans (if_neg fun h => Bool.false_ne_true (hp.symm.trans h))))
    · exact done_eq (hpoll.trans ((if_pos hm).trans (if_pos hp)))
    · exact done_eq (hpoll.trans (if_neg fun h => Bool.false_ne_true (hm.symm.trans h)))
  · intro rail mv pb g u s hg hm hc hr ht
    refine ⟨fun hp => ⟨fun hw hu => ?_, fun hw => done_eq (readVoutPoll_of_off (s := s.start) hg hm hc hr ht hp hw)⟩,
      fun hp => done_eq (readVoutPoll_of_badPec (s := s.start) hg hm hc hr ht hp)⟩
    have hread := readVoutPoll_of_good (s := s.start) hg hm hc hr ht hp hw hu
    exact ⟨fun hk => done_eq (hread.trans (if_neg hk)), fun hk => done_eq (hread.trans (if_pos hk))⟩
  · intro rail t s hm hr hc
    have htime := voutTimeout_of_command (s := s.start) hm hr hc
    exact ⟨fun h => done_eq (htime.trans (if_pos h)), fun h => done_eq (htime.trans (if_neg (Nat.not_le.mpr h)))⟩
  · intro rail u v s hm hr hc ht hu hv
    have hretry := pmbusRetry_of_command (s := s.start) hm hr hc ht hu hv
    exact ⟨done_eq ((hretry true).trans (if_pos rfl)), done_eq ((hretry false).trans (if_neg Bool.false_ne_true))⟩
  · have hr' : pmbRuns s.start = true := hr
    simp [hr']
  · intro acc a v s ha hm
    obtain ⟨hw, hread⟩ := kennelAccess_of_mine (s := s.start) ha hm
    exact ⟨done_eq (f := kennelData acc (some v)) (by rw [kennelData, hw]; rfl),
      done_eq (f := kennelData acc none) (by rw [kennelData, hread]; rfl)⟩
  · intro acc a v s ha hm
    have hk := kennelAccess_of_other (s := s.start) ha hm
    exact ⟨done_eq (f := kennelData acc (some v)) (by rw [kennelData, hk]; rfl),
      done_eq (f := kennelData acc none) (by rw [kennelData, hk]; rfl)⟩

end Sys2Proof.Machine
end

section
/-! PROOF. In-service self-test: its schedule, its slices and its commands, and with them the statement SelfTest. -/
namespace Sys2Proof.Machine
open Sys2Proof

/-! ## Commands (R445, R447, R450) -/

section
variable {s u : State} {d : Nat} {c : RunCmd} (hu : u = servedState s d) (hc : c = frontEntry s d)
include hu hc

section
variable (h : served s d 0x0801 .owner)
include h

theorem exec_bistSchedule_of_fullMode {test : Nat} (ht : test = pw c 1) (hf : fullMode test = true) (hp : fullPermitted u = false) :
    exec (.bistSchedule d) s = .next (answered s (finish c .lifecycleDeny 0 [] [] u)) := by
  subst ht hu hc
  exact serve_eq h (if_pos (by simp [hf, hp]))

theorem exec_bistSchedule_of_high {test k : Nat} (ht : test = pw c 1) (hk : k = bf (pw c 0) 5 0) (hf : fullMode test = false)
    (hl : u.lead ≠ some c.d) (h56 : 56 ≤ k) :
    exec (.bistSchedule d) s = .next (answered s (finish c .notOwner 0 [] [] u)) := by
  subst ht hk
  have hlead : (u.lead == some c.d) = false := beq_eq_false_iff_ne.mpr hl
  subst hu hc
  exact serve_eq h ((if_neg (by simp only [hf, Bool.false_and, Bool.false_eq_true, not_false_eq_true])).trans
    (if_pos (by simp only [hlead, decide_eq_true h56, Bool.not_false, Bool.true_or, Bool.and_self])))

/-- The entry that BIST_SCHEDULE sets: its setter is the issuer, and its record and its skips stay. -/
theorem exec_bistSchedule_of_sweep {k test target per : Nat} {b : Nat × List Clamp} {e : BstEntry} (hk : k = bf (pw c 0) 5 0)
    (ht : test = pw c 1) (htg : target = bf (pw c 2) 23 0) (hper : per = nearest 1 3600000 (pw c 3)) (hb : b = budgetOf c test)
    (he : e = {
      enable := (pw c 0).testBit 31, test, target, period := per, budget := b.1, setter := cmdOwner c,
      status := (SMap.get dBstE u.bst.entries k).status, skips := (SMap.get dBstE u.bst.entries k).skips,
      seen := duePast u k per }) (hl : u.lead = some c.d) (hs : serviceTest test = true) (hf : fullMode test = false)
    (hsw : target = sweepTarget) :
    exec (.bistSchedule d) s = .next (answered s (finish c .ok 5
      ((if per = pw c 3 then [] else [cmdClamp 3 0 (pw c 3) per]) ++ b.2) []
      { u with bst := { u.bst with entries := SMap.set dBstE u.bst.entries k e } })) := by
  have hlead : (u.lead == some c.d) = true := beq_iff_eq.mpr hl
  have htarget : (bf (pw c 2) 23 0 != sweepTarget) = false := by rw [← htg, hsw]; exact bne_self_eq_false _
  rw [he, hb, hper, htg, hk]
  subst ht hu hc
  refine serve_eq h ((if_neg ?_).trans ((if_neg ?_).trans ((if_neg ?_).trans (if_neg ?_))))
  · simp only [hf, Bool.false_and, Bool.false_eq_true, not_false_eq_true]
  · simp only [hlead, Bool.not_true, Bool.false_and, Bool.false_eq_true, not_false_eq_true]
  · simp only [htarget, Bool.and_false, Bool.false_and, Bool.false_eq_true, not_false_eq_true]
  · simp only [hs, htarget, Bool.not_true, Bool.false_and, Bool.or_false, Bool.false_eq_true, not_false_eq_true]

end

section
variable {test target : Nat} (h : served s d 0x0802 .owner) (ht : test = pw c 1) (htg : target = bf (pw c 2) 23 0)
  (hs : serviceTest test = true) (hf : fullMode test = false) (hsw : target ≠ sweepTarget) (hv : targetValid test target = true)
include h ht htg hs hf hsw hv

/-- BIST_RUN of one target of an in-service test. -/
theorem exec_bistRun_of_target : exec (.bistRun d) s = .next (answered s (
    if mayTest u c test target = false then finish c .notOwner 0 [] [] u
    else if eligible u test target = false then finish c .refused 5 (budgetOf c test).2 [] u
    else startWaiting { waitCmd c (budgetOf c test).2 u with bst := { (waitCmd c (budgetOf c test).2 u).bst with
      waiting := (waitCmd c (budgetOf c test).2 u).bst.waiting ++
        [{ cmd := ⟨c.d, c.tag⟩, test, target, budget := (budgetOf c test).1, t := u.uptime }] } })) := by
  subst ht htg
  have hrun : runTarget u c (pw c 1) (bf (pw c 2) 23 0) = some (bf (pw c 2) 23 0) := if_neg (by simp [hsw])
  subst hu hc
  refine serve_eq h ((if_neg ?_).trans ((if_neg ?_).trans ((if_neg ?_).trans ?_)))
  · simp only [hf, Bool.false_and, Bool.false_eq_true, not_false_eq_true]
  · simp only [hs, Bool.not_true, Bool.false_and, Bool.false_eq_true, not_false_eq_true]
  · simp only [hv, Bool.not_true, Bool.and_false, Bool.false_eq_true, not_false_eq_true]
  · simp only [hrun, hv, hf, Bool.not_true, Bool.false_eq_true, if_false, Bool.not_false, Bool.true_and, Bool.not_eq_true']

end

section
variable {test target : Nat} (h : served s d 0x0803 .any) (ht : test = pw c 0) (htg : target = bf (pw c 1) 23 0)
  (hs : serviceTest test = true) (hv : targetValid test target = true)
include h ht htg hs hv

theorem exec_bistGetResult_of_none (hr : findRec u test target = none) :
    exec (.bistGetResult d) s = .next (answered s (finish c .notReady 5 [] [0, 0, 0, 0, 0, 0] u)) := by
  subst ht htg hu hc
  refine serve_eq h ((if_neg (by simp [hs, hv])).trans ?_)
  simp only [hr]

theorem exec_bistGetResult_of_record {k : Nat} {r : BstRec} (hr : findRec u test target = some (k, r))
    (hn : runsOn u test target = false) :
    exec (.bistGetResult d) s = .next (answered s (
      if r.readBy.contains c.d = true then finish c .alreadyRead 5 [] (recWords r) u
      else finish c .ok 5 [] (recWords r) { u with bst := { u.bst with
        recs := SMap.set dNone u.bst.recs k (some { r with readBy := r.readBy ++ [c.d] }) } })) := by
  subst ht htg hu hc
  refine serve_eq h ((if_neg (by simp [hs, hv])).trans ?_)
  simp only [hr]
  exact if_neg (by simp only [hn, Bool.false_eq_true, not_false_eq_true])

end
end

/-- A BIST_RUN that waits ends after 100 ms (R447). -/
theorem bistRunTimeout_of_waiting {d tag : Nat} {w : BstWait} {s : State}
    (hw : s.bst.waiting.find? (fun w => w.cmd.d == d && w.cmd.tag == tag) = some w) : bistRunTimeout d tag s =
    if s.uptime < w.t + 100000000 then s
    else endCmd w.cmd .refused 5 [] { s with bst := { s.bst with waiting := s.bst.waiting.erase w } } := by
  simp only [bistRunTimeout, hw]

/-! ## The schedule (R440, R446) -/

section
variable {k : Nat} {e0 e : BstEntry} {s : State} (he0 : e0 = SMap.get dBstE s.bst.entries k)
include he0

theorem entryDue_of_notDue (hd : duePast s k e0.period ≤ e0.seen) : entryDue k s = s := by
  subst he0
  exact if_pos (Bool.or_eq_true_iff.mpr (.inr (decide_eq_true hd)))

variable (hk : k ≤ 63) (he : e = { e0 with seen := duePast s k e0.period }) (hen : e0.enable = true) (hdone : s.boot.done = true)
  (hp : bstPermitted s = true) (hm : mcRuns s = true) (hd : e0.seen < duePast s k e0.period) {t : Nat}
  (ht : dueTarget s k e = some t)
include hk he hen hdone hp hm hd ht

/-- An entry whose instant has come and that has a target. -/
theorem entryDue_of_due : entryDue k s =
    if (!((slicesNow s).any fun x => x.2.entry == some k) && canStart s e.test t) = true then
      startSlice { s with bst := { s.bst with
        entries := SMap.set dBstE s.bst.entries k { e with next := t + 1 } } } e.test t (some k) (entryBudget s e) none
    else { s with bst := { s.bst with
      entries := SMap.set dBstE s.bst.entries k { e with skips := sat 0xFFFF e.skips } } } := by
  subst he he0
  unfold entryDue
  dsimp only
  rw [if_neg (by simp [hk, hen, hdone, hp, hm, hd]), ht]

end

/-! ## Ends of slices (R439, R443, R449) -/

section
variable {slot : Nat} {x : Slice} {s : State} (hx : SMap.get dNone s.bst.slices slot = some x)
include hx

theorem sliceEnd_of_spareFault {r : SliceResult} (ht : x.test = 1) (hr : r.spareFault = true) : sliceEnd slot r s =
    startWaiting (endSlice s slot x .testFail 2 (s.uptime - x.t) (misrEnd r.misr r.patterns true)) := by
  unfold sliceEnd
  simp only [hx]
  exact if_pos (by simp [ht, hr])

theorem sliceBudget_of_running (n : Nat) (m : BitVec 64) : sliceBudget slot n m s =
    if s.uptime < sliceLimit x then s
    else startWaiting (endSlice s slot x .testAborted 0 (s.uptime - x.t) (misrEnd m n true)) := by
  unfold sliceBudget
  simp only [hx]

variable {r : SliceResult} (hr : x.test = 1 → r.spareFault = false) {m : BitVec 64} (hm : m = misrEnd r.misr r.patterns false)
  {st : Status} (hst : st = (if m == Config.bstExpected x.test x.target (targetConfig s x.test x.target) then .ok else .testFail))
include hr hm hst

/-- A slice that ends by its test. -/
theorem sliceEnd_of_test {v : State}
    (hv : v = afterTest x r.detail (endSlice s slot x st (faultDetail x.test st r) (s.uptime - x.t) m)) : sliceEnd slot r s =
    if s.uptime < x.t + testNs x.test st ∨ sliceLimit x + 2000 < s.uptime then s
    else startWaiting (
      if x.test = 1 ∧ st = .testFail then
        ({ v with bst := { v.bst with spares := v.bst.spares ++ [x.target] } }).raiseFor (targetAccsB s x.test x.target) 0xF0028 0 4
      else v) := by
  have hspare : ¬ (decide (x.test = 1) && r.spareFault) = true := by
    simp only [Bool.and_eq_true, decide_eq_true_eq, not_and, Bool.not_eq_true]
    exact hr
  subst hv hst hm
  unfold sliceEnd
  simp only [hx]
  refine (if_neg hspare).trans ?_
  simp only [Bool.or_eq_true, Bool.and_eq_true, decide_eq_true_eq, beq_iff_eq]

end

/-- Settles O49: a command by its checks, an entry by its instant, a slice by how it ends. -/
theorem selfTest : Obligations.SelfTest := by
  unfold Obligations.SelfTest
  refine ⟨?_, ?_, ?_, ?_, ?_, ?_, fun slot x r s hx ht hr => done_eq (sliceEnd_of_spareFault (s := s.start) hx ht hr), ?_⟩
  · intro d k test target per b e c u s h hu hc hk ht htg hper hb he
    exact ⟨fun hl hs hf hsw => exec_bistSchedule_of_sweep hu hc h hk ht htg hper hb he hl hs hf hsw,
      fun hf hp => exec_bistSchedule_of_fullMode hu hc h ht hf hp,
      fun hf hl h56 => exec_bistSchedule_of_high hu hc h ht hk hf hl h56⟩
  · rintro d test target b c u w s h hu hc ht htg rfl hs hf hsw hv
    rw [exec_bistRun_of_target hu hc h ht htg hs hf hsw hv]
    refine ⟨fun hm he hw => ?_, fun hm he => ?_, fun hm => ?_⟩
    · rw [if_neg (by simp [hm]), if_neg (by simp [he]), hw]
    · rw [if_neg (by simp [hm]), if_pos he]
    · rw [if_pos hm]
  · intro d tag w s hw
    have htime := bistRunTimeout_of_waiting (s := s.start) hw
    exact ⟨fun h => done_eq (htime.trans (if_neg (Nat.not_lt.mpr h))), fun h => done_eq (htime.trans (if_pos h))⟩
  · intro d test target c u s h hu hc ht htg hs hv
    refine ⟨fun hr => exec_bistGetResult_of_none hu hc h ht htg hs hv hr, fun k r hr hn hread => ?_, fun k r hr hn hread => ?_⟩
    · rw [exec_bistGetResult_of_record hu hc h ht htg hs hv hr hn, if_neg (by simp only [hread, Bool.false_eq_true, not_false_eq_true])]
    · rw [exec_bistGetResult_of_record hu hc h ht htg hs hv hr hn, if_pos hread]
  · intro k t e0 e s hk he0 he hen hdone hp hm
    refine ⟨fun hd ht => ?_, fun hd => done_eq (entryDue_of_notDue (s := s.start) he0 hd)⟩
    have hdue := entryDue_of_due (s := s.start) he0 hk he hen hdone hp hm hd ht
    refine ⟨fun hn hcan => done_eq (hdue.trans (if_pos ?_)), fun hcan => done_eq (hdue.trans (if_neg ?_))⟩
    · rw [hn, hcan]; rfl
    · rw [hcan, Bool.and_false]; exact Bool.false_ne_true
  · intro slot x r m st v s hx hr hm hst hv
    have hend := sliceEnd_of_test (s := s.start) hx hr hm hst hv
    refine ⟨fun hmin hmax => ?_, fun hearly => done_eq (hend.trans (if_pos (.inl hearly)))⟩
    have hin : ¬ (s.uptime < x.t + testNs x.test st ∨ sliceLimit x + 2000 < s.uptime) := by omega
    refine ⟨fun hgood => ?_, fun h1 hf => ?_⟩
    · have hnot : ¬ (x.test = 1 ∧ st = .testFail) := by
        rintro ⟨h1, hf⟩
        rcases hgood with h | h
        · exact h h1
        · exact absurd (h.symm.trans hf) (by decide)
      exact done_eq (hend.trans ((if_neg hin).trans (by rw [if_neg hnot])))
    · exact done_eq (hend.trans ((if_neg hin).trans (by rw [if_pos ⟨h1, hf⟩])))
  · intro slot n x m s hx
    have hb := sliceBudget_of_running (s := s.start) hx n m
    exact ⟨fun h => done_eq (hb.trans (if_neg (Nat.not_lt.mpr h))), fun h => done_eq (hb.trans (if_pos h))⟩

end Sys2Proof.Machine
end

section
/-! PROOF. Life-cycle transitions, challenges and grants, and the test access port, and with them the statements LifeCycleDebug and
TestAccessPort. -/
namespace Sys2Proof.Machine
open Sys2Proof

/-! ## LC_TRANSITION (R459, R460) -/

section
variable {s u : State} {d : Nat} {c : RunCmd} (hu : u = servedState s d) (hc : c = frontEntry s d)
  (h : served s d 0x0901 .h) {t : Nat} (ht : t = bf (pw c 0) 3 0) (hbuf : bufOk (pw c 1) 0xE0 = true)
  (hrun : u.lcs.run = none)
include hu hc h ht hbuf hrun

theorem exec_lcTransition_of_badPair (hp : lcPair u.lcs.state t = false) :
    exec (.lcTransition d) s = .next (answered s (lcEnd c .lifecycleDeny u)) := by
  subst ht hu hc
  refine serve_eq h ((if_neg (by simp [hbuf])).trans ((if_neg (by simp [hrun])).trans (if_pos ?_)))
  simp only [hp, Bool.not_false, Bool.true_or]

variable {b : List Byte} (hb : b = readBuf u c (pw c 1) 0xE0) (hp : lcPair u.lcs.state t = true)
  (hfrom : leAt b 4 1 = u.lcs.state) (hto : leAt b 5 1 = t)
include hb hp hfrom hto

theorem exec_lcTransition_of_noNonce (hn : (nonceOf u c.d).filter (fun n => n.scope == 0) = none) :
    exec (.lcTransition d) s = .next (answered s (lcEnd c .notReady u)) := by
  subst hb ht hu hc
  refine serve_eq h ((if_neg (by simp [hbuf])).trans ((if_neg (by simp [hrun])).trans ((if_neg ?_).trans ?_)))
  · simp only [hp, hfrom, hto, bne_self_eq_false, Bool.not_true, Bool.or_self, Bool.false_eq_true, not_false_eq_true]
  · simp only [hn]

/-- A request for a permitted pair whose issuer holds a nonce for it: the nonce ends, whatever comes of the request. -/
theorem exec_lcTransition_of_nonce {n : Nonce} (hn : (nonceOf u c.d).filter (fun n => n.scope == 0) = some n) {v w : State}
    (hv : v = setNonce u c.d none) (hw : w = waitCmd c [] v) :
    exec (.lcTransition d) s = .next (answered s (
      if lcAuth u t n b = false then lcEnd c .authFail v
      else if lcCondition u t = false then lcEnd c .notReady v
      else if u.pwr.holdup = false ∨ u.boot.suppliesOk = false then lcEnd c .holdupAbsent v
      else { w with lcs := { w.lcs with
        run := some { cmd := some ⟨c.d, c.tag⟩, target := t, run2 := t = 4 && returnMark u, since := u.uptime } } })) := by
  subst hw hv hb ht hu hc
  refine serve_eq h ((if_neg (by simp [hbuf])).trans ((if_neg (by simp [hrun])).trans ((if_neg ?_).trans ?_)))
  · simp only [hp, hfrom, hto, bne_self_eq_false, Bool.not_true, Bool.or_self, Bool.false_eq_true, not_false_eq_true]
  · simp only [hn, Bool.not_eq_true', Bool.or_eq_true]

end

/-! ## The runs of a transition (R460–R462) -/

/-- A warm reset that was put off takes effect. -/
def warmIfPut (s : State) : State := if s.lcs.warmDef then warmNow { s with lcs := { s.lcs with warmDef := false } } else s

section
variable {r : LcRun} {s : State} (hp : programming s = some r)
include hp

theorem otpRunEnd_of_early (ht : s.uptime < r.since + runNs (runWords s r)) : otpRunEnd s = s := by
  unfold otpRunEnd
  simp only [hp]
  exact if_pos ht

variable (ht : r.since + runNs (runWords s r) ≤ s.uptime) {u v z : State} (hu : u = (runWords s r).foldl otpPut s)
include ht hu

theorem otpRunEnd_of_last (hlast : r.target ≠ 4 ∨ r.run2 = true)
    (hv : v = endGrants (lcRead { u with lcs := { u.lcs with run := none, status := .ok } }))
    (hz : z = endCmd? r.cmd .ok 0x18 [wd v.lcs.state] (v.raiseAll 0x100020 0 1)) : otpRunEnd s = warmIfPut z := by
  have hnot : ¬ (decide (r.target = 4) && !r.run2) = true := by rcases hlast with h | h <;> simp [h]
  subst hz hv hu
  unfold otpRunEnd
  simp only [hp]
  rw [if_neg (Nat.not_lt.mpr ht), if_neg hnot]
  rfl

theorem otpRunEnd_of_first (h4 : r.target = 4) (h2 : r.run2 = false) (hv : v = stopDesign u)
    (hz : z = { v with lcs := { v.lcs with
      run := some { r with run2 := true }, erasing := true,
      boot := SMap.set dWord v.lcs.boot 23 (SMap.get dWord v.lcs.otp 23) } }) : otpRunEnd s = warmIfPut z := by
  have hfirst : (decide (r.target = 4) && !r.run2) = true := by simp [h4, h2]
  subst hz hv hu
  unfold otpRunEnd
  simp only [hp]
  rw [if_neg (Nat.not_lt.mpr ht), if_pos hfirst]
  rfl

end

section
variable {s : State} (he : s.lcs.erasing = true) {v : State}
  (hv : v = { ownerErase s with lcs := { (ownerErase s).lcs with erasing := false } })
include he hv

theorem returnEraseDone_of_noRun (hr : s.lcs.run = none) : returnEraseDone s = v := by
  subst hv
  refine (if_neg (by simp [he])).trans ?_
  simp only [hr]

theorem returnEraseDone_of_run {r : LcRun} (hr : s.lcs.run = some r) : returnEraseDone s =
    if (s.pwr.holdup && s.boot.suppliesOk) = true then { v with lcs := { v.lcs with run := some { r with since := s.uptime } } }
    else endCmd? r.cmd .holdupAbsent 0x18 [] { v with lcs := { v.lcs with run := none, status := .holdupAbsent } } := by
  subst hv
  refine (if_neg (by simp [he])).trans ?_
  simp only [hr]

end

/-! ## Challenges and grants (R466–R469) -/

section
variable {s u : State} {d : Nat} {c : RunCmd} (hu : u = servedState s d) (hc : c = frontEntry s d)
include hu hc

section
variable (h : served s d 0x0902 .h) {sc dom : Nat} (hsc : sc = bf (pw c 0) 3 0) (hdom : dom = bf (pw c 0) 6 4)
include h hsc hdom

/-- The whole of DBG_CHALLENGE. -/
theorem exec_dbgChallenge_eq : exec (.dbgChallenge d) s = .next (answered s (
    if (((sc = 2 ∨ sc = 4) ∧ u.lead ≠ some c.d) ∨ (sc = 3 ∧ dom ≠ c.d)) then finish c .notOwner 0 [] [] u
    else if 4 < sc then finish c .badParameter 0 [] [] u
    else finish c .ok 0x18 [] ((List.range 4).map fun i => (Config.freeBits u.free).extractLsb' (32 * i) 32)
      (setNonce u.takeFree c.d (some { scope := sc, dom, value := Config.freeBits u.free, t := u.pwr.rtc })))) := by
  subst hsc hdom hu hc
  refine serve_eq h ?_
  simp only [Bool.or_eq_true, Bool.and_eq_true, decide_eq_true_eq, bne_iff_ne]

end

section
variable (h : served s d 0x0903 .h) {b : List Byte} (hb : b = readBuf u c (pw c 0) 144) {m : Nat} (hm : m = leAt b 8 4)
  (hbuf : bufOk (pw c 0) 144 = true) {n : Nonce} (hn : nonceOf u c.d = some n) {v : State} (hv : v = setNonce u c.d none)
  (h1 : 1 ≤ m) (h1440 : m ≤ 1440) (h6 : leAt b 6 2 = 0) (h24 : leAt b 0x24 12 = 0)
include h hb hm hbuf hn hv h1 h1440 h6 h24

/-- DBG_GRANT of a grant whose fields are in range: the nonce ends, whatever comes of the request. -/
theorem exec_dbgGrant_of_fields : exec (.dbgGrant d) s = .next (answered s (
    if grantRight u n b = false then finish c .authFail 0x18 [] [] v
    else if (freeSlots u).isEmpty = true then finish c .busy 0x18 [] [] v
    else storeGrant c n m v)) := by
  subst hv hm hb hu hc
  refine serve_eq h ((if_neg (by simp [hbuf])).trans ?_)
  simp only [hn]
  refine (if_neg ?_).trans (by simp only [Bool.not_eq_true'])
  simp only [h6, h24, bne_self_eq_false, Bool.or_false, Bool.or_eq_true, decide_eq_true_eq]
  omega

end

section
variable (h : served s d 0x0904 .h)
include h

theorem exec_dbgRevoke_of_none (hg : grantSlot u (pw c 0) = none) :
    exec (.dbgRevoke d) s = .next (answered s (finish c .badParameter 0x18 [] [] u)) := by
  subst hu hc
  refine serve_eq h ?_
  simp only [hg]

theorem exec_dbgRevoke_of_grant {k : Nat} {g : Grant} (hg : grantSlot u (pw c 0) = some (k, g)) :
    exec (.dbgRevoke d) s = .next (answered s (
      if g.who ≠ c.d ∧ u.lead ≠ some c.d then finish c .notOwner 0 [] [] u
      else finish c .ok 0x18 [] [] (endGrant u k))) := by
  subst hu hc
  refine serve_eq h ?_
  simp only [hg, Bool.and_eq_true, bne_iff_ne]

end
end

theorem nonceExpiry_of_nonce {d : Nat} {n : Nonce} {s : State} (hn : nonceOf s d = some n) :
    nonceExpiry d s = if n.t + nonceLife ≤ s.pwr.rtc then setNonce s d none else s := by
  simp only [nonceExpiry, hn]

theorem leashExpiry_of_grant {k : Nat} {g : Grant} {s : State} (hg : SMap.get dNone s.lcs.grants k = some g) :
    leashExpiry k s = if g.until_ ≤ rtcSec s then endGrant s k else s := by
  simp only [leashExpiry, hg]

/-- Settles O50: a transition by its checks in order, a run by its words, a grant by its authorisation. -/
theorem lifeCycleDebug : Obligations.LifeCycleDebug := by
  unfold Obligations.LifeCycleDebug
  refine ⟨?_, ?_, ?_, ?_, ?_, ?_, ?_, ?_⟩
  · intro d t b n c u v w s h hu hc ht hb hbuf hrun hv hw
    refine ⟨fun hp => exec_lcTransition_of_badPair hu hc h ht hbuf hrun hp,
      fun hp hfrom hto hn => exec_lcTransition_of_noNonce hu hc h ht hbuf hrun hb hp hfrom hto hn, fun hp hfrom hto hn => ?_⟩
    rw [exec_lcTransition_of_nonce hu hc h ht hbuf hrun hb hp hfrom hto hn hv hw]
    refine ⟨fun ha => ?_, fun ha hcond => ?_, fun ha hcond hsup => ?_, fun ha hcond hh hsup => ?_⟩
    · rw [if_pos ha]
    · rw [if_neg (by simp [ha]), if_pos hcond]
    · rw [if_neg (by simp [ha]), if_neg (by simp [hcond]), if_pos hsup]
    · rw [if_neg (by simp [ha]), if_neg (by simp [hcond]), if_neg (by simp [hh, hsup])]
  · intro r u v z s hp hu
    refine ⟨fun ht => ⟨fun hlast hv hz => ?_, fun h4 h2 hv hz => ?_⟩,
      fun ht => done_eq (otpRunEnd_of_early (s := s.start) hp ht)⟩
    · have hend := otpRunEnd_of_last (s := s.start) hp ht hu hlast hv hz
      exact ⟨fun hw => done_eq (hend.trans (if_neg (by simp [hw]))), fun hw => done_eq (hend.trans (if_pos hw))⟩
    · have hend := otpRunEnd_of_first (s := s.start) hp ht hu h4 h2 hv hz
      exact ⟨fun hw => done_eq (hend.trans (if_neg (by simp [hw]))), fun hw => done_eq (hend.trans (if_pos hw))⟩
  · rintro u v s he rfl hv
    have hrun {r : LcRun} (hr : s.lcs.run = some r) := returnEraseDone_of_run (s := s.start) he hv hr
    refine ⟨fun hr => done_eq (returnEraseDone_of_noRun (s := s.start) he hv hr),
      fun r hr hh hs => done_eq ((hrun hr).trans (if_pos (Bool.and_eq_true_iff.mpr ⟨hh, hs⟩))),
      fun r hr hsup => done_eq ((hrun hr).trans (if_neg ?_))⟩
    rcases hsup with hsup | hsup <;> simp [hsup]
  · intro d sc dom c u s h hu hc hsc hdom
    rw [exec_dbgChallenge_eq hu hc h hsc hdom]
    refine ⟨fun h4 hl h3 => ?_, fun h24 hl => ?_, fun h4 => ?_⟩
    · rw [if_neg ?_, if_neg (by omega)]
      rintro (⟨h24, hlead⟩ | ⟨hsc3, hd⟩)
      · rcases hl with hl | hl
        · omega
        · exact hlead hl
      · rcases h3 with h3 | h3
        · exact h3 hsc3
        · exact hd h3
    · rw [if_pos (.inl ⟨h24, hl⟩)]
    · rw [if_neg (by omega), if_pos h4]
  · intro d n s hn
    have hexp := nonceExpiry_of_nonce (s := s.start) hn
    exact ⟨fun ht => done_eq (hexp.trans (if_pos ht)), fun ht => done_eq (hexp.trans (if_neg (Nat.not_le.mpr ht)))⟩
  · intro d m b n c u v s h hu hc hb hm hbuf hn hv h1 h1440 h6 h24
    rw [exec_dbgGrant_of_fields hu hc h hb hm hbuf hn hv h1 h1440 h6 h24]
    refine ⟨fun hg hf => ?_, fun hg => ?_, fun hg hf => ?_⟩
    · rw [if_neg (by simp [hg]), if_neg (by simp only [hf, Bool.false_eq_true, not_false_eq_true])]
    · rw [if_pos hg]
    · rw [if_neg (by simp [hg]), if_pos hf]
  · intro d c u s h hu hc
    refine ⟨fun hg => exec_dbgRevoke_of_none hu hc h hg, fun k g hg hmine => ?_, fun k g hg hwho hl => ?_⟩
    · rw [exec_dbgRevoke_of_grant hu hc h hg, if_neg (by tauto)]
    · rw [exec_dbgRevoke_of_grant hu hc h hg, if_pos ⟨hwho, hl⟩]
  · intro k g s hg
    have hexp := leashExpiry_of_grant (s := s.start) hg
    exact ⟨fun ht => done_eq (hexp.trans (if_pos ht)), fun ht => done_eq (hexp.trans (if_neg (Nat.not_le.mpr ht)))⟩

/-! ## The TAP (R470, R471) -/

section
variable {code : Nat} {f : State → State} {s : State}

theorem jtag_of_permitted (hp : jtagPermits s code = true) : jtag code f s = f (loadIr code s) := if_pos hp

theorem jtag_of_denied (hp : jtagPermits s code = false) : jtag code f s = jtagDenied code s := if_neg (by simp [hp])

/-- An instruction that is permitted has its effect with the instruction register loaded. -/
theorem done_jtag_of_permitted (hp : jtagPermits s code = true) {u : State} (hf : f (loadIr code s.start) = u) :
    done (jtag code f) s = .next (interrupts s u) := done_eq ((jtag_of_permitted (s := s.start) hp).trans hf)

/-- An instruction that is not permitted acts as BYPASS. -/
theorem done_jtag_of_denied (hp : jtagPermits s code = false) :
    done (jtag code f) s = .next (interrupts s (jtagDenied code s.start)) := done_eq (jtag_of_denied (s := s.start) hp)

end

section
variable {k : Nat} {s : State} (hk : k < 1024)
include hk

theorem bypass_of_unlisted (h : k = 0x3FF ∨ jtagListed k = false) : bypass k s = (loadIr k s).emit (.tdo 1 0) := by
  unfold bypass
  dsimp only
  rw [Nat.mod_eq_of_lt hk]
  exact if_pos (by simpa using h)

theorem bypass_of_denied (hb : k ≠ 0x3FF) (hl : jtagListed k = true) (hp : jtagPermits s k = false) :
    bypass k s = jtagDenied k s := by
  unfold bypass
  dsimp only
  rw [Nat.mod_eq_of_lt hk]
  exact (if_neg (by simp [hb, hl])).trans (if_neg (by simp [hp]))

end

theorem keyLoad_of_package {pkg : List Byte} {x : BitVec 256 × BitVec 256} {s : State} (hp : Config.keyPackage pkg = some x) :
    keyLoad pkg s = lcRead ((keyWords 32 x.1 ++ keyWords 40 x.2 ++ [(21, checkWord x.1), (22, checkWord x.2)]).foldl otpPut s) := by
  simp only [keyLoad, hp]

theorem keyLoad_of_noPackage {pkg : List Byte} {s : State} (hp : Config.keyPackage pkg = none) : keyLoad pkg s = s := by
  simp only [keyLoad, hp]

/-- Settles O51: an instruction by whether it is listed and permitted. -/
theorem testAccessPort : Obligations.TestAccessPort := by
  unfold Obligations.TestAccessPort
  refine ⟨?_, ?_, fun s => done_jtag_of_permitted (code := 0x002) rfl rfl, ?_, ?_,
    fun s => done_jtag_of_permitted (code := 0x010) rfl rfl,
    fun pkg x s hp hx => done_jtag_of_permitted hp (keyLoad_of_package hx),
    fun pkg s hp hx => done_jtag_of_permitted hp (keyLoad_of_noPackage hx), ?_, ?_, ?_,
    fun k s hk h => done_eq (bypass_of_unlisted (s := s.start) hk h), ?_⟩
  · rintro x u s hp rfl
    exact done_jtag_of_permitted hp rfl
  · rintro x k u s (rfl | rfl | rfl) hp rfl
    · exact done_jtag_of_permitted hp rfl
    · exact done_jtag_of_permitted hp rfl
    · exact done_jtag_of_permitted hp rfl
  · rintro u s hp rfl
    exact done_jtag_of_permitted hp rfl
  · rintro u s hp rfl
    exact done_jtag_of_permitted hp rfl
  · rintro dr a u s hp hd rfl rfl
    exact done_jtag_of_permitted hp (if_pos hd)
  · rintro dr a r u s hp hd rfl rfl rfl
    exact done_jtag_of_permitted hp (if_neg fun h => Bool.false_ne_true (hd.symm.trans h))
  · rintro far u s hp rfl
    exact ⟨fun hv => done_jtag_of_permitted hp (if_pos hv), fun hv => done_jtag_of_permitted hp (if_neg fun h => Bool.false_ne_true (hv.symm.trans h))⟩
  · rintro k u s rfl hp hk
    refine ⟨fun hb hl => done_eq (bypass_of_denied (s := s.start) hk hb hl hp), ?_, ?_⟩
    · rintro x rfl
      exact done_jtag_of_denied hp
    · rintro dr rfl
      exact done_jtag_of_denied hp

end Sys2Proof.Machine
end
